-- ==== Sys2Proof/Word.lean ====
section
/-! DEFINITION. The word types of the module and nothing else: bytes, 32-bit data words, 64-bit words, 64-byte lines. -/

namespace Sys2Proof

/-- One byte of memory (07 R129). -/
abbrev Byte := BitVec 8

/-- A scalar data word, or one lane of a vector (05 R80). -/
abbrev W32 := BitVec 32

/-- A G register, a sequence word, a fabric word, a pool word (02 R25, 09 R168). -/
abbrev W64 := BitVec 64

/-- Sixteen lanes, a relation header, a descriptor or a memory line: 64 bytes (04 R60, 06 R105). -/
abbrev Line := BitVec 512

end Sys2Proof
end

