-- ==== Sys2Proof/Config.lean ====
section
/-! DEFINITION. What one module fixes and the spec leaves open, and the free values. An opaque constant has no body: no proof
can see which value it is. -/

namespace Sys2Proof.Config

/-- FREE VALUE (log 5). The HBM stack, modulo 16, that is home to a physical byte address; the spec does not give the
interleaving of addresses over the stacks (02 R11). -/
opaque homeStack : Nat → Nat

/-- FREE VALUE (log 4). A word the spec leaves open, one for each reading of the model's own counter. -/
opaque freeWord : Nat → BitVec 64

/-- FREE VALUE (log 6). A key drawn at random, 256 bits (23 R374, R379). -/
opaque freeKey : Nat → BitVec 256

/-- FREE VALUE (log 6). The body of an SPDM reply that rests on a signature, a certificate or a random nonce (23 R376). -/
opaque freeReply : Nat → List (BitVec 8)

/-- FREE VALUE (log 7). A byte of a run record whose place 19 R334 does not fix. -/
opaque freeByte : Nat → BitVec 8

/-- FREE VALUE (log 6). The device secret in the fuses, which no program and no link can read (23 R374). -/
opaque deviceSecret : BitVec 256

/-- FREE VALUE (log 6). The device identity key derived at a boot (23 R374). -/
opaque identityKey : Nat → BitVec 256

/-- The number of modules a domain may hold (00, 03 R29). -/
def maxModules : Nat := 256

/-- The byte that an unlisted address of HBM, host memory or a tile store reads as. DESIGN CHOICE (log 2): the spec gives
memory no contents at power-on. -/
def blankByte : BitVec 8 := 0

/-- Bytes of HBM on the module: 1,024 GB in decimal units, sixteen stacks of 64 GB (00 R1, R6). -/
def hbmBytes : Nat := 1024 * 10 ^ 9

end Sys2Proof.Config
end

