-- ==== Sys2Proof/Syntax.lean ====
section
/-! DEFINITION. The instructions and events of the module: one constructor for each row of spec/opcode_table.json, and the data
that their operands are made of. -/

namespace Sys2Proof

/-- A consumer field that names a consumer (09 R175): instruction index, input, slot count. -/
structure Con where
  idx   : BitVec 7
  inp   : BitVec 2
  slots : BitVec 3
  deriving DecidableEq, Repr

/-- The fields of a fabric word other than its opcode (09 R174). -/
structure Fab where
  tile : BitVec 4
  unit : BitVec 4
  cona : Option Con
  conb : Option Con
  md   : BitVec 2
  imm  : BitVec 20
  deriving DecidableEq, Repr

/-- Names one configured element: run, plane, configuration loaded in it, block, instruction index. -/
structure ElemRef where
  run   : Nat
  plane : Nat
  load  : Nat
  blk   : Nat
  idx   : Nat
  deriving DecidableEq, Repr

/-- Names one block of a loaded configuration. -/
structure BlkRef where
  run   : Nat
  plane : Nat
  load  : Nat
  blk   : Nat
  deriving DecidableEq, Repr

/-- What a PERFORM step performs (08 R149): an 8-byte unit, or the whole, of an access; or the combined request of a Boom
record (08 R165). -/
inductive PerfRef where
  /-- The whole of access `acc`, or the next part that is one single-copy-atomic unit. -/
  | whole (acc : Nat)
  /-- The aligned 8-byte unit `u` of a 64-byte access (08 R159). -/
  | unit (acc : Nat) (u : Nat)
  /-- The combined request of record `rec` of combining point `point`. -/
  | record (point rec : Nat)
  deriving DecidableEq, Repr

/-- Causes of a wave abort (03 R52); the last is the uncounted one of 22 R362. -/
inductive TxCause where
  | conflict | capacity | preempt | lineError
  deriving DecidableEq, Repr

/-- Ways in which a request of a sequence word is lost (03 R56). -/
inductive LostCause where
  | undeliverable | timeout
  deriving DecidableEq, Repr

/-- Sensors of 23 R377. -/
inductive Sensor where
  | rail | clock | temperature | mesh
  deriving DecidableEq, Repr

/-- What an uncorrectable error strikes: the structures of 22 R362. -/
inductive ErrTarget where
  | hbmData (line : Nat)
  | lineMeta (block : Nat)
  | tileStore (run page tile word : Nat)
  | queue (e : ElemRef) (input pos : Nat)
  /-- The stage latch or ACC of an element; a token of its return buffer: the place among its ordered results, the position in it. -/
  | latch (e : ElemRef)
  | result (e : ElemRef) (place pos : Nat)
  /-- A token of a stream buffer, of an escapement input, of an ingress channel. -/
  | stream (run port pos : Nat)
  | escInput (run n pos : Nat)
  | ingress (run chan pos : Nat)
  | acc (run plane page tile n word : Nat)
  | cfgStore (run plane : Nat)
  | boom (point rec : Nat)
  | tlb (die port entry : Nat)
  | commitLine (b : BlkRef)
  | reuseSlot (die slot : Nat)
  | recvEntry (die k : Nat)
  | unexpected (die k : Nat)
  | monitor (die k : Nat)
  deriving DecidableEq, Repr

/-- Host registers written with no behaviour beyond their access codes (00 R5, 24 R380): a CTXEG ring's 128 bits, a link's
LNKCFG. Any other offset of BAR 0 holds no register. -/
inductive HostReg where
  | ctxeg (slot ring : Nat)
  | lnkcfg (link : Nat)
  /-- An entry of the circuit table (24 R386): circuit group `group` of a link, whether it goes out from a STRMO of this module or comes in to
  a STRMI; context slot and address of the image, stream port; none: the group is bound to nothing. -/
  | circuit (link group : Nat) (out : Bool) (entry : Option (Nat × Nat × Nat))
  | other (offset : Nat)
  deriving DecidableEq, Repr

/-- What the partner of a Chigan link answers while the link trains (24 R384, R385). -/
structure LinkPeer where
  present    : Bool
  lanes      : BitVec 4
  modnum     : BitVec 8
  sameDomain : Bool
  circ       : BitVec 4
  deriving DecidableEq, Repr

/-- The outcome of each step of bring-up (25 R392): what the environment decides. -/
structure BringUp where
  romOk   : Bool
  sigOk   : Bool
  svnOk   : Bool
  fusesOk : Bool
  stkFail : BitVec 16
  d2dFail : BitVec 8
  links   : List LinkPeer
  fabFail : BitVec 8
  cfgFail : BitVec 8
  /-- An alarm of level 2 or 3 at a step: step and level (25 R394). -/
  alarm   : Option (Nat × Nat)
  /-- A level-1 alarm at a step. -/
  alarm1  : Option Nat
  modnum  : BitVec 8
  deriving DecidableEq, Repr

/-- A packet-plane flit (24 R387): header fields and 64 payload bytes. -/
structure Flit where
  grant   : BitVec 64
  addr    : BitVec 52
  aop     : BitVec 8
  src     : BitVec 8
  dst     : BitVec 8
  tag     : BitVec 12
  nreq    : BitVec 12
  len     : BitVec 7
  stat    : BitVec 4
  reason  : BitVec 4
  payload : BitVec 512
  deriving DecidableEq, Repr

/-- An SPDM request message (23 R376): its two parameters and its body. -/
structure SpdmReq where
  param1 : BitVec 8
  param2 : BitVec 8
  body   : List (BitVec 8)
  deriving DecidableEq, Repr

/-- One constructor for each row of spec/opcode_table.json. -/
inductive Instr where
  /-- END, sequence word R186. -/
  | seqEnd
  /-- CONF, sequence word R35. -/
  | conf (cfg : BitVec 16)
  /-- SHADOW, sequence word R46. -/
  | shadow (ga : BitVec 6) (cfg : BitVec 16)
  /-- SWAP, sequence word R47. -/
  | swap
  /-- PHASE, sequence word R38. -/
  | phase
  /-- STREAM, sequence word R187. -/
  | stream (gb : BitVec 6) (port : BitVec 4) (gen : BitVec 2) (entry : BitVec 16)
  /-- ITER, sequence word R41. -/
  | iter (gb : BitVec 6) (count : BitVec 38)
  /-- LOOP, sequence word R34. -/
  | loop (gb : BitVec 6) (kind : BitVec 2) (depth : BitVec 3) (count : BitVec 32)
  /-- ENDL, sequence word R34. -/
  | endl
  /-- BR, sequence word R191. -/
  | br (off : BitVec 38)
  /-- BRZ, sequence word R191. -/
  | brz (ga : BitVec 6) (off : BitVec 38)
  /-- BRNZ, sequence word R191. -/
  | brnz (ga : BitVec 6) (off : BitVec 38)
  /-- WAITTOK, sequence word R193. -/
  | waittok (ga : BitVec 6) (e : BitVec 3)
  /-- JOIN, sequence word R43. -/
  | join (ga gb : BitVec 6)
  /-- LEAVE, sequence word R43. -/
  | leave (ga gb : BitVec 6)
  /-- LAUNCH, sequence word R194. -/
  | launch (ga gb gc : BitVec 6)
  /-- TRAPS, sequence word R195. -/
  | traps (code : BitVec 16)
  /-- GLI, sequence word R186. -/
  | gli (ga : BitVec 6) (imm : BitVec 38)
  /-- GADD, sequence word R192. -/
  | gadd (ga gb gc : BitVec 6) (imm : BitVec 38)
  /-- GSUB, sequence word R192. -/
  | gsub (ga gb gc : BitVec 6) (imm : BitVec 38)
  /-- GAND, sequence word R192. -/
  | gand (ga gb gc : BitVec 6) (imm : BitVec 38)
  /-- GOR, sequence word R192. -/
  | gor (ga gb gc : BitVec 6) (imm : BitVec 38)
  /-- GXOR, sequence word R192. -/
  | gxor (ga gb gc : BitVec 6) (imm : BitVec 38)
  /-- GSHL, sequence word R192. -/
  | gshl (ga gb gc : BitVec 6) (imm : BitVec 38)
  /-- GSHR, sequence word R192. -/
  | gshr (ga gb gc : BitVec 6) (imm : BitVec 38)
  /-- GSLT, sequence word R192. -/
  | gslt (ga gb gc : BitVec 6) (imm : BitVec 38)
  /-- FIXB, sequence word R243. -/
  | fixb (gb : BitVec 6) (rlist : BitVec 16) (grp : BitVec 8)
  /-- FIXE, sequence word R122. -/
  | fixe (ga gb : BitVec 6) (grp : BitVec 8)
  /-- RULE, sequence word R244. -/
  | rule (cfg : BitVec 16) (num : BitVec 8)
  /-- RULE_FULL, sequence word R244. -/
  | ruleFull (cfg : BitVec 16) (num : BitVec 8)
  /-- ROTATE, sequence word R245. -/
  | rotate (rlist : BitVec 16)
  /-- RETRACT, sequence word R246. -/
  | retract (ga gb : BitVec 6) (rlist : BitVec 16)
  /-- ADD, fabric word R199. -/
  | add (f : Fab)
  /-- SUB, fabric word R199. -/
  | sub (f : Fab)
  /-- MUL, fabric word R199. -/
  | mul (f : Fab)
  /-- MULH, fabric word R199. -/
  | mulh (f : Fab)
  /-- MULHU, fabric word R199. -/
  | mulhu (f : Fab)
  /-- DIV, fabric word R85. -/
  | div (f : Fab)
  /-- DIVU, fabric word R85. -/
  | divu (f : Fab)
  /-- REM, fabric word R85. -/
  | rem (f : Fab)
  /-- REMU, fabric word R85. -/
  | remu (f : Fab)
  /-- AND, fabric word R199. -/
  | and (f : Fab)
  /-- OR, fabric word R199. -/
  | or (f : Fab)
  /-- XOR, fabric word R199. -/
  | xor (f : Fab)
  /-- ANDN, fabric word R199. -/
  | andn (f : Fab)
  /-- SHL, fabric word R199. -/
  | shl (f : Fab)
  /-- SHR, fabric word R199. -/
  | shr (f : Fab)
  /-- SAR, fabric word R199. -/
  | sar (f : Fab)
  /-- ROL, fabric word R199. -/
  | rol (f : Fab)
  /-- ROR, fabric word R199. -/
  | ror (f : Fab)
  /-- CLZ, fabric word R199. -/
  | clz (f : Fab)
  /-- POPC, fabric word R199. -/
  | popc (f : Fab)
  /-- MIN, fabric word R199. -/
  | min (f : Fab)
  /-- MAX, fabric word R199. -/
  | max (f : Fab)
  /-- MINU, fabric word R199. -/
  | minu (f : Fab)
  /-- MAXU, fabric word R199. -/
  | maxu (f : Fab)
  /-- CEQ, fabric word R199. -/
  | ceq (f : Fab)
  /-- CNE, fabric word R199. -/
  | cne (f : Fab)
  /-- CLT, fabric word R199. -/
  | clt (f : Fab)
  /-- CLE, fabric word R199. -/
  | cle (f : Fab)
  /-- CGT, fabric word R199. -/
  | cgt (f : Fab)
  /-- CGE, fabric word R199. -/
  | cge (f : Fab)
  /-- CLTU, fabric word R199. -/
  | cltu (f : Fab)
  /-- CGEU, fabric word R199. -/
  | cgeu (f : Fab)
  /-- MOV, fabric word R199. -/
  | mov (f : Fab)
  /-- AGEN, fabric word R200. -/
  | agen (f : Fab)
  /-- CONSTK, fabric word R201. -/
  | constk (f : Fab)
  /-- STEER, fabric word R202. -/
  | steer (f : Fab)
  /-- MERGE, fabric word R202. -/
  | merge (f : Fab)
  /-- CMERGE, fabric word R202. -/
  | cmerge (f : Fab)
  /-- COPY, fabric word R202. -/
  | copy (f : Fab)
  /-- GATE, fabric word R202. -/
  | gate (f : Fab)
  /-- CTR, fabric word R71. -/
  | ctr (f : Fab)
  /-- CTR_ROOT, fabric word R202. -/
  | ctrRoot (f : Fab)
  /-- DROP, fabric word R202. -/
  | drop (f : Fab)
  /-- SINK, fabric word R203. -/
  | sink (f : Fab)
  /-- SINK_ESC, fabric word R203. -/
  | sinkEsc (f : Fab)
  /-- ACC, fabric word R204. -/
  | acc (f : Fab)
  /-- ACCMAX, fabric word R204. -/
  | accmax (f : Fab)
  /-- ACCMIN, fabric word R204. -/
  | accmin (f : Fab)
  /-- VADD, fabric word R211. -/
  | vadd (f : Fab)
  /-- VSUB, fabric word R211. -/
  | vsub (f : Fab)
  /-- VMUL, fabric word R211. -/
  | vmul (f : Fab)
  /-- VFMA, fabric word R212. -/
  | vfma (f : Fab)
  /-- VFMS, fabric word R212. -/
  | vfms (f : Fab)
  /-- VMIN, fabric word R211. -/
  | vmin (f : Fab)
  /-- VMAX, fabric word R211. -/
  | vmax (f : Fab)
  /-- VABS, fabric word R211. -/
  | vabs (f : Fab)
  /-- VNEG, fabric word R211. -/
  | vneg (f : Fab)
  /-- VCMP, fabric word R213. -/
  | vcmp (f : Fab)
  /-- VBLEND, fabric word R214. -/
  | vblend (f : Fab)
  /-- VAND, fabric word R211. -/
  | vand (f : Fab)
  /-- VOR, fabric word R211. -/
  | vor (f : Fab)
  /-- VXOR, fabric word R211. -/
  | vxor (f : Fab)
  /-- VSHL, fabric word R211. -/
  | vshl (f : Fab)
  /-- VCVT, fabric word R215. -/
  | vcvt (f : Fab)
  /-- VRED, fabric word R216. -/
  | vred (f : Fab)
  /-- VREDMAX, fabric word R216. -/
  | vredmax (f : Fab)
  /-- VREDMIN, fabric word R216. -/
  | vredmin (f : Fab)
  /-- VSCAN, fabric word R217. -/
  | vscan (f : Fab)
  /-- VSHUF, fabric word R219. -/
  | vshuf (f : Fab)
  /-- VMAXR, fabric word R218. -/
  | vmaxr (f : Fab)
  /-- VAMAX, fabric word R216. -/
  | vamax (f : Fab)
  /-- VSCALE, fabric word R224. -/
  | vscale (f : Fab)
  /-- VRCP, fabric word R222. -/
  | vrcp (f : Fab)
  /-- VRSQ, fabric word R222. -/
  | vrsq (f : Fab)
  /-- VEXP2, fabric word R223. -/
  | vexp2 (f : Fab)
  /-- VLOG2, fabric word R223. -/
  | vlog2 (f : Fab)
  /-- VSFN, fabric word R226. -/
  | vsfn (f : Fab)
  /-- VSFN_D, fabric word R226. -/
  | vsfnD (f : Fab)
  /-- VQUANT, fabric word R227. -/
  | vquant (f : Fab)
  /-- VDEQ, fabric word R228. -/
  | vdeq (f : Fab)
  /-- VPACK_CODE, fabric word R220. -/
  | vpackCode (f : Fab)
  /-- VPACK_RAW, fabric word R221. -/
  | vpackRaw (f : Fab)
  /-- VUNPK, fabric word R221. -/
  | vunpk (f : Fab)
  /-- ROB, fabric word R229. -/
  | rob (f : Fab)
  /-- ROB_T, fabric word R229. -/
  | robT (f : Fab)
  /-- MMA, fabric word R235. -/
  | mma (f : Fab)
  /-- MOPF, fabric word R237. -/
  | mopf (f : Fab)
  /-- MDRAIN, fabric word R239. -/
  | mdrain (f : Fab)
  /-- MDRAIN_ALL, fabric word R239. -/
  | mdrainAll (f : Fab)
  /-- HPROBE, fabric word R249. -/
  | hprobe (f : Fab)
  /-- INSNEW, fabric word R250. -/
  | insnew (f : Fab)
  /-- RPART, fabric word R252. -/
  | rpart (f : Fab)
  /-- AGG, fabric word R250. -/
  | agg (f : Fab)
  /-- NEGATE, fabric word R251. -/
  | negate (f : Fab)
  /-- GRADB, fabric word R253. -/
  | gradb (f : Fab)
  /-- RSCAN, fabric word R248. -/
  | rscan (f : Fab)
  /-- DLBIND, fabric word R256. -/
  | dlbind (f : Fab)
  /-- DLMUL, fabric word R257. -/
  | dlmul (f : Fab)
  /-- DLREF, fabric word R258. -/
  | dlref (f : Fab)
  /-- DLDROP, fabric word R258. -/
  | dldrop (f : Fab)
  /-- BSCORE, fabric word R259. -/
  | bscore (f : Fab)
  /-- TOPKB, fabric word R260. -/
  | topkb (f : Fab)
  /-- ATTNACC, fabric word R262. -/
  | attnacc (f : Fab)
  /-- EVICT, fabric word R263. -/
  | evict (f : Fab)
  /-- EVICT_RESET, fabric word R263. -/
  | evictReset (f : Fab)
  /-- LD, fabric word R270. -/
  | ld (f : Fab)
  /-- ST, fabric word R270. -/
  | st (f : Fab)
  /-- LDA, fabric word R153. -/
  | lda (f : Fab)
  /-- STL, fabric word R154. -/
  | stl (f : Fab)
  /-- LDSYNC, fabric word R135. -/
  | ldsync (f : Fab)
  /-- SETE, fabric word R270. -/
  | sete (f : Fab)
  /-- FENCE, fabric word R271. -/
  | fence (f : Fab)
  /-- LDX, fabric word R272. -/
  | ldx (f : Fab)
  /-- STX, fabric word R272. -/
  | stx (f : Fab)
  /-- FADD, fabric word R274. -/
  | fadd (f : Fab)
  /-- FADD64, fabric word R274. -/
  | fadd64 (f : Fab)
  /-- AMAX, fabric word R273. -/
  | amax (f : Fab)
  /-- AMIN, fabric word R273. -/
  | amin (f : Fab)
  /-- ASWAP, fabric word R273. -/
  | aswap (f : Fab)
  /-- ACAS, fabric word R273. -/
  | acas (f : Fab)
  /-- AOR, fabric word R273. -/
  | aor (f : Fab)
  /-- AAND, fabric word R273. -/
  | aand (f : Fab)
  /-- AMAXR, fabric word R167. -/
  | amaxr (f : Fab)
  /-- OWNER_RANGE, fabric word R275. -/
  | ownerRange (f : Fab)
  /-- OWNER_REL, fabric word R275. -/
  | ownerRel (f : Fab)
  /-- OWNER_FREE, fabric word R275. -/
  | ownerFree (f : Fab)
  /-- WAITA, fabric word R276. -/
  | waita (f : Fab)
  /-- WAKEA, fabric word R278. -/
  | wakea (f : Fab)
  /-- XFER, fabric word R285. -/
  | xfer (f : Fab)
  /-- STASH, fabric word R289. -/
  | stash (f : Fab)
  /-- UNSTASH, fabric word R290. -/
  | unstash (f : Fab)
  /-- PIN, fabric word R139. -/
  | pin (f : Fab)
  /-- UNPIN, fabric word R139. -/
  | unpin (f : Fab)
  /-- SEND, fabric word R282. -/
  | send (f : Fab)
  /-- POSTR, fabric word R282. -/
  | postr (f : Fab)
  /-- PROBEQ, fabric word R282. -/
  | probeq (f : Fab)
  /-- CANCELR, fabric word R282. -/
  | cancelr (f : Fab)
  /-- INGRESS, fabric word R291. -/
  | ingress (f : Fab)
  /-- EGRESS, fabric word R291. -/
  | egress (f : Fab)
  /-- STRMI, fabric word R292. -/
  | strmi (f : Fab)
  /-- STRMO, fabric word R292. -/
  | strmo (f : Fab)
  /-- BARJ, fabric word R293. -/
  | barj (f : Fab)
  /-- BARJ_GRP, fabric word R293. -/
  | barjGrp (f : Fab)
  /-- BARDROP, fabric word R294. -/
  | bardrop (f : Fab)
  /-- BARDROP_GRP, fabric word R294. -/
  | bardropGrp (f : Fab)
  /-- TRAP, fabric word R296. -/
  | trap (f : Fab)
  /-- BRK, fabric word R296. -/
  | brk (f : Fab)
  /-- RDTIME, fabric word R297. -/
  | rdtime (f : Fab)
  /-- RDCYC, fabric word R297. -/
  | rdcyc (f : Fab)
  /-- RDSYS, fabric word R298. -/
  | rdsys (f : Fab)
  /-- WRSYS, fabric word R298. -/
  | wrsys (f : Fab)
  /-- FREEZE, fabric word R331. -/
  | freeze (f : Fab)
  /-- THAW, fabric word R332. -/
  | thaw (f : Fab)
  /-- READOUT, fabric word R333. -/
  | readout (f : Fab)
  /-- RESTORE, fabric word R336. -/
  | restore (f : Fab)
  /-- GRANT, fabric word R299. -/
  | grant (f : Fab)
  /-- ISSUE, event R151. -/
  | issue (acc : Nat)
  /-- UNPARK, event R149. -/
  | unpark (acc : Nat)
  /-- TRANSLATION_FAULT, event R359. -/
  | translationFault (acc : Nat)
  /-- PERFORM, event R148. -/
  | perform (p : PerfRef)
  /-- DEQUEUE, event R161. -/
  | dequeue (req : Nat)
  /-- EWRITE, event R162. -/
  | ewrite (wr : Nat)
  /-- COMMIT, event R51. -/
  | commit (b : BlkRef)
  /-- TX_ABORT, event R52. -/
  | txAbort (b : BlkRef) (wave : Nat) (cause : TxCause)
  /-- PHASE_GATE_OPEN, event R157. -/
  | phaseGateOpen (run : Nat) (gate : Nat)
  /-- HDELIVER, event R163. -/
  | hdeliver (die port : Nat)
  /-- EDELIVER, event R164. -/
  | edeliver (slot ring : Nat)
  /-- FADD_ARRIVAL, event R165. -/
  | faddArrival (acc : Nat)
  /-- BOOM_WINDOW_CLOSE, event R165. -/
  | boomWindowClose (point rec : Nat)
  /-- SPLIT, event R165. -/
  | split (point rec : Nat)
  /-- OWNER_APPLY, event R118. -/
  | ownerApply (die input : Nat)
  /-- GROUP_REPLY, event R43. -/
  | groupReply (run : Nat)
  /-- LAUNCH_REPLY, event R194. -/
  | launchReply (run : Nat)
  /-- COMBINE_SUMS_REPLY, event R122. -/
  | combineSumsReply (group : BitVec 20)
  /-- FIXB_RETRY, event R243. -/
  | fixbRetry (run : Nat)
  /-- ROTATE_ACK, event R245. -/
  | rotateAck (run k : Nat)
  /-- REQUEST_LOST, event R56. -/
  | requestLost (run : Nat) (cause : LostCause)
  /-- BARRIER_RELEASE, event R293. -/
  | barrierRelease (group : BitVec 20)
  /-- MMA_START, event R236. -/
  | mmaStart (e : ElemRef)
  /-- MMA_COMPLETE, event R235. -/
  | mmaComplete (e : ElemRef)
  /-- DRAIN_BEGIN, event R239. -/
  | drainBegin (e : ElemRef)
  /-- DRAIN_WORD, event R239. -/
  | drainWord (e : ElemRef)
  /-- DELTA_COMPLETE, event R257. -/
  | deltaComplete (die req : Nat)
  /-- INVALIDATE_ARRIVAL, event R141. -/
  | invalidateArrival (die k : Nat)
  /-- CODED_BLOCK_DECODE, event R89. -/
  | codedBlockDecode (e : ElemRef) (input : Nat)
  /-- CONFIG_DONE, event R36. -/
  | configDone (run plane load : Nat)
  /-- SHADOW_LOAD_COMPLETE, event R46. -/
  | shadowLoadComplete (run : Nat)
  /-- PLANE_EXCHANGE, event R47. -/
  | planeExchange (run : Nat)
  /-- WATCHDOG_EXPIRY, event R76. -/
  | watchdogExpiry (run : Nat)
  /-- CRUISE_PROBE_END, event R78. -/
  | cruiseProbeEnd (run : Nat)
  /-- STASH_STALL_TIMEOUT, event R144. -/
  | stashStallTimeout (req : Nat)
  /-- WAITA_POLL, event R277. -/
  | waitaPoll (acc : Nat)
  /-- SEND_RETRY, event R283. -/
  | sendRetry (req : Nat)
  /-- MESSAGE_ARRIVAL, event R282. -/
  | messageArrival (die k : Nat)
  /-- RENDEZVOUS_PULL, event R282. -/
  | rendezvousPull (die k : Nat)
  /-- XFER_SECTOR_DONE, event R286. -/
  | xferSectorDone (req sector : Nat)
  /-- CFG_STORE_ERROR, event R363. -/
  | cfgStoreError (run plane : Nat)
  /-- CFG_RELOAD_CHECK, event R363. -/
  | cfgReloadCheck (run : Nat)
  /-- UNCORRECTABLE_ERROR, event R362. -/
  | uncorrectableError (t : ErrTarget)
  /-- CORRECTED_ERROR, event R362. -/
  | correctedError (die domain addr : Nat)
  /-- ARBOR_DECISION, event R345. -/
  | arborDecision (die : Nat)
  /-- AGEING_STEP, event R344. -/
  | ageingStep (run : Nat)
  /-- QUANTUM_EXPIRY, event R345. -/
  | quantumExpiry (run : Nat)
  /-- INGRESS_LAUNCH_WORD, event R340. -/
  | ingressLaunchWord (die port : Nat) (w : BitVec 64)
  /-- INGRESS_TOKEN_WORD, event R340. -/
  | ingressTokenWord (die port : Nat) (w : BitVec 64)
  /-- CTXREG_WRITE, event R341. -/
  | ctxregWrite (slot : Nat) (w : BitVec 64)
  /-- CTXTEAR_WRITE, event R341. -/
  | ctxtearWrite (slot : Nat) (w : BitVec 64)
  /-- TLBINV_WRITE, event R353. -/
  | tlbinvWrite (lo hi : BitVec 64)
  /-- TLBINV_DONE, event R353. -/
  | tlbinvDone
  /-- TENANT_TABLE_WRITE, event R370. -/
  | tenantTableWrite (tenant : Nat) (w : BitVec 128)
  /-- ALMCLR, event R379. -/
  | almclr
  /-- LNKQCLR, event R385. -/
  | lnkqclr (w : BitVec 64)
  /-- REGISTER_WRITE, event R5. -/
  | registerWrite (reg : HostReg) (w : BitVec 128)
  /-- HOST_BAR4_WRITE, event R381. -/
  | hostBar4Write (slot addr : Nat) (bytes : List (BitVec 8))
  /-- HOST_BAR4_READ, event R381. -/
  | hostBar4Read (slot addr len : Nat)
  /-- ATS_RESPONSE, event R352. -/
  | atsResponse (acc : Nat) (present : Bool) (frame : BitVec 52)
  /-- PRI_RESPONSE, event R352. -/
  | priResponse (acc : Nat) (success : Bool)
  /-- PRI_TIMEOUT, event R352. -/
  | priTimeout (acc : Nat)
  /-- ATS_INVALIDATE, event R383. -/
  | atsInvalidate (pasid addr len : Nat)
  /-- GET_VERSION, event R376. -/
  | getVersion (r : SpdmReq)
  /-- GET_CAPABILITIES, event R376. -/
  | getCapabilities (r : SpdmReq)
  /-- NEGOTIATE_ALGORITHMS, event R376. -/
  | negotiateAlgorithms (r : SpdmReq)
  /-- GET_DIGESTS, event R376. -/
  | getDigests (r : SpdmReq)
  /-- GET_CERTIFICATE, event R376. -/
  | getCertificate (r : SpdmReq)
  /-- CHALLENGE, event R376. -/
  | challenge (r : SpdmReq)
  /-- GET_MEASUREMENTS, event R376. -/
  | getMeasurements (r : SpdmReq)
  /-- KEY_EXCHANGE, event R376. -/
  | keyExchange (r : SpdmReq)
  /-- FINISH, event R376. -/
  | finish (r : SpdmReq)
  /-- END_SESSION, event R376. -/
  | endSession (r : SpdmReq)
  /-- COLD_RESET, event R392. -/
  | coldReset (env : BringUp)
  /-- READY_TOKEN, event R393. -/
  | readyToken
  /-- ALARM_LEVEL_1, event R378. -/
  | alarmLevel1 (sensor : Sensor)
  /-- ALARM_LEVEL_2, event R378. -/
  | alarmLevel2 (sensor : Sensor)
  /-- ALARM_LEVEL_3, event R378. -/
  | alarmLevel3 (sensor : Sensor)
  /-- LINK_TRAIN, event R384. -/
  | linkTrain (link : Nat) (peer : LinkPeer)
  /-- TRAINING_STEP_TIMEOUT, event R384. -/
  | trainingStepTimeout (link group : Nat)
  /-- CIRCUIT_CRC_FAIL, event R386. -/
  | circuitCrcFail (link group : Nat)
  /-- LINKDN, event R386. -/
  | linkdn (link group : Nat)
  /-- FLIT_CRC_FAIL, event R387. -/
  | flitCrcFail (link : Nat)
  /-- RDREQ, event R387. -/
  | rdreq (link : Nat) (f : Flit)
  /-- RDRSP, event R387. -/
  | rdrsp (link : Nat) (f : Flit)
  /-- WRREQ, event R387. -/
  | wrreq (link : Nat) (f : Flit)
  /-- WRACK, event R387. -/
  | wrack (link : Nat) (f : Flit)
  /-- ATREQ, event R388. -/
  | atreq (link : Nat) (f : Flit)
  /-- ATRSP, event R387. -/
  | atrsp (link : Nat) (f : Flit)
  /-- MSG, event R387. -/
  | msg (link : Nat) (f : Flit)
  /-- MSGACK, event R387. -/
  | msgack (link : Nat) (f : Flit)
  /-- GRNREQ, event R387. -/
  | grnreq (link : Nat) (f : Flit)
  /-- GRNRSP, event R387. -/
  | grnrsp (link : Nat) (f : Flit)
  /-- REL, event R387. -/
  | rel (link : Nat) (f : Flit)
  /-- CREDIT, event R387. -/
  | credit (link : Nat) (f : Flit)
  /-- RETRACT_COMPLETE, event R246. -/
  | retractComplete (run : Nat)
  /-- FIXB_OPEN_ACK, event R243. -/
  | fixbOpenAck (run k : Nat)
  /-- CONFIGURATION_LOAD_COMPLETE, event R35. -/
  | configurationLoadComplete (run : Nat)
  /-- IMAGE_VALIDATION_COMPLETE, event R185. -/
  | imageValidationComplete (k : Nat)
  /-- READOUT_COMPLETE, event R333. -/
  | readoutComplete (run : Nat)
  /-- RESTORE_COMPLETE, event R336. -/
  | restoreComplete (run : Nat)
  /-- FREEZE_ARRIVAL, event R57. -/
  | freezeArrival (run : Nat)
  /-- THAW_ARRIVAL, event R332. -/
  | thawArrival (run : Nat)
  /-- GROUP_REQUEST_ARRIVAL, event R44. -/
  | groupRequestArrival (k : Nat)
  deriving DecidableEq, Repr

end Sys2Proof
end

