-- ==== Sys2Proof/Machine/Fields.lean ====
section
/-! DEFINITION. The field rules of the fabric words (09 R174 to R179): the fields a word carries, its opcode, its site, the MOD
values and IMM20 bits each opcode defines, the inputs it reads and the kinds of its links (09 R404). The decoder, the encoder
and the graph loader all use these. -/

namespace Sys2Proof.Machine

/-- The fields of a fabric word; none for a sequence word and for an event. -/
def fabOf : Instr → Option Fab
  | .add f | .sub f | .mul f | .mulh f | .mulhu f | .div f | .divu f | .rem f | .remu f | .and f | .or f | .xor f
  | .andn f | .shl f | .shr f | .sar f | .rol f | .ror f | .clz f | .popc f | .min f | .max f | .minu f | .maxu f
  | .ceq f | .cne f | .clt f | .cle f | .cgt f | .cge f | .cltu f | .cgeu f | .mov f | .agen f | .constk f | .steer f
  | .merge f | .cmerge f | .copy f | .gate f | .ctr f | .ctrRoot f | .drop f | .sink f | .sinkEsc f | .acc f
  | .accmax f | .accmin f | .vadd f | .vsub f | .vmul f | .vfma f | .vfms f | .vmin f | .vmax f | .vabs f | .vneg f
  | .vcmp f | .vblend f | .vand f | .vor f | .vxor f | .vshl f | .vcvt f | .vred f | .vredmax f | .vredmin f
  | .vscan f | .vshuf f | .vmaxr f | .vamax f | .vscale f | .vrcp f | .vrsq f | .vexp2 f | .vlog2 f | .vsfn f
  | .vsfnD f | .vquant f | .vdeq f | .vpackCode f | .vpackRaw f | .vunpk f | .rob f | .robT f | .mma f | .mopf f
  | .mdrain f | .mdrainAll f | .hprobe f | .insnew f | .rpart f | .agg f | .negate f | .gradb f | .rscan f
  | .dlbind f | .dlmul f | .dlref f | .dldrop f | .bscore f | .topkb f | .attnacc f | .evict f | .evictReset f
  | .ld f | .st f | .lda f | .stl f | .ldsync f | .sete f | .fence f | .ldx f | .stx f | .fadd f | .fadd64 f
  | .amax f | .amin f | .aswap f | .acas f | .aor f | .aand f | .amaxr f | .ownerRange f | .ownerRel f | .ownerFree f
  | .waita f | .wakea f | .xfer f | .stash f | .unstash f | .pin f | .unpin f | .send f | .postr f | .probeq f
  | .cancelr f | .ingress f | .egress f | .strmi f | .strmo f | .barj f | .barjGrp f | .bardrop f | .bardropGrp f
  | .trap f | .brk f | .rdtime f | .rdcyc f | .rdsys f | .wrsys f | .freeze f | .thaw f | .readout f | .restore f
  | .grant f => some f
  | .seqEnd | .conf _ | .shadow _ _ | .swap | .phase | .stream _ _ _ _ | .iter _ _ | .loop _ _ _ _ | .endl | .br _
  | .brz _ _ | .brnz _ _ | .waittok _ _ | .join _ _ | .leave _ _ | .launch _ _ _ | .traps _ | .gli _ _
  | .gadd _ _ _ _ | .gsub _ _ _ _ | .gand _ _ _ _ | .gor _ _ _ _ | .gxor _ _ _ _ | .gshl _ _ _ _ | .gshr _ _ _ _
  | .gslt _ _ _ _ | .fixb _ _ _ | .fixe _ _ _ | .rule _ _ | .ruleFull _ _ | .rotate _ | .retract _ _ _ | .issue _
  | .unpark _ | .translationFault _ | .perform _ | .dequeue _ | .ewrite _ | .commit _ | .txAbort _ _ _
  | .phaseGateOpen _ _ | .hdeliver _ _ | .edeliver _ _ | .faddArrival _ | .boomWindowClose _ _ | .split _ _
  | .ownerApply _ _ | .groupReply _ | .launchReply _ | .combineSumsReply _ | .fixbRetry _ | .rotateAck _ _
  | .requestLost _ _ | .barrierRelease _ | .mmaStart _ | .mmaComplete _ | .drainBegin _ | .drainWord _
  | .deltaComplete _ _ | .invalidateArrival _ _ | .codedBlockDecode _ _ | .configDone _ _ _ | .shadowLoadComplete _
  | .planeExchange _ | .watchdogExpiry _ | .cruiseProbeEnd _ | .stashStallTimeout _ | .waitaPoll _ | .sendRetry _
  | .messageArrival _ _ | .rendezvousPull _ _ | .xferSectorDone _ _ | .cfgStoreError _ _ | .cfgReloadCheck _
  | .uncorrectableError _ | .correctedError _ _ _ | .arborDecision _ | .ageingStep _ | .quantumExpiry _
  | .ingressLaunchWord _ _ _ | .ingressTokenWord _ _ _ | .ctxregWrite _ _ | .ctxtearWrite _ _ | .tlbinvWrite _ _
  | .tlbinvDone | .tenantTableWrite _ _ | .almclr | .lnkqclr _ | .registerWrite _ _ | .hostBar4Write _ _ _
  | .hostBar4Read _ _ _ | .atsResponse _ _ _ | .priResponse _ _ | .priTimeout _ | .atsInvalidate _ _ _
  | .getVersion _ | .getCapabilities _ | .negotiateAlgorithms _ | .getDigests _ | .getCertificate _ | .challenge _
  | .getMeasurements _ | .keyExchange _ | .finish _ | .endSession _ | .coldReset _ | .readyToken | .alarmLevel1 _
  | .alarmLevel2 _ | .alarmLevel3 _ | .linkTrain _ _ | .trainingStepTimeout _ _ | .circuitCrcFail _ _ | .linkdn _ _
  | .flitCrcFail _ | .rdreq _ _ | .rdrsp _ _ | .wrreq _ _ | .wrack _ _ | .atreq _ _ | .atrsp _ _ | .msg _ _
  | .msgack _ _ | .grnreq _ _ | .grnrsp _ _ | .rel _ _ | .credit _ _ | .retractComplete _ | .fixbOpenAck _ _
  | .configurationLoadComplete _ | .imageValidationComplete _ | .readoutComplete _ | .restoreComplete _
  | .freezeArrival _ | .thawArrival _ | .groupRequestArrival _ => none

/-- The opcode of a fabric or sequence word (09 R178); 0 for an event, which has no encoding. -/
def opcodeOf : Instr → Nat
  | .seqEnd => 0x01
  | .conf _ => 0x02
  | .shadow _ _ => 0x03
  | .swap => 0x04
  | .phase => 0x05
  | .stream _ _ _ _ => 0x06
  | .iter _ _ => 0x07
  | .loop _ _ _ _ => 0x08
  | .endl => 0x09
  | .br _ => 0x0A
  | .brz _ _ => 0x0B
  | .brnz _ _ => 0x0C
  | .waittok _ _ => 0x0D
  | .join _ _ => 0x0E
  | .leave _ _ => 0x0F
  | .launch _ _ _ => 0x10
  | .traps _ => 0x11
  | .gli _ _ => 0x12
  | .gadd _ _ _ _ => 0x13
  | .gsub _ _ _ _ => 0x14
  | .gand _ _ _ _ => 0x15
  | .gor _ _ _ _ => 0x16
  | .gxor _ _ _ _ => 0x17
  | .gshl _ _ _ _ => 0x18
  | .gshr _ _ _ _ => 0x19
  | .gslt _ _ _ _ => 0x1A
  | .fixb _ _ _ => 0x1B
  | .fixe _ _ _ => 0x1C
  | .rule _ _ => 0x1D
  | .ruleFull _ _ => 0x1D
  | .rotate _ => 0x1E
  | .retract _ _ _ => 0x1F
  | .add _ => 0x20
  | .sub _ => 0x21
  | .mul _ => 0x22
  | .mulh _ => 0x23
  | .mulhu _ => 0x24
  | .div _ => 0x25
  | .divu _ => 0x26
  | .rem _ => 0x27
  | .remu _ => 0x28
  | .and _ => 0x29
  | .or _ => 0x2A
  | .xor _ => 0x2B
  | .andn _ => 0x2C
  | .shl _ => 0x2D
  | .shr _ => 0x2E
  | .sar _ => 0x2F
  | .rol _ => 0x30
  | .ror _ => 0x31
  | .clz _ => 0x32
  | .popc _ => 0x33
  | .min _ => 0x34
  | .max _ => 0x35
  | .minu _ => 0x36
  | .maxu _ => 0x37
  | .ceq _ => 0x38
  | .cne _ => 0x39
  | .clt _ => 0x3A
  | .cle _ => 0x3B
  | .cgt _ => 0x3C
  | .cge _ => 0x3D
  | .cltu _ => 0x3E
  | .cgeu _ => 0x3F
  | .mov _ => 0x42
  | .agen _ => 0x40
  | .constk _ => 0x41
  | .steer _ => 0x48
  | .merge _ => 0x49
  | .cmerge _ => 0x4A
  | .copy _ => 0x4B
  | .gate _ => 0x4C
  | .ctr _ => 0x4D
  | .ctrRoot _ => 0x4D
  | .drop _ => 0x4E
  | .sink _ => 0x4F
  | .sinkEsc _ => 0x4F
  | .acc _ => 0x50
  | .accmax _ => 0x51
  | .accmin _ => 0x52
  | .vadd _ => 0x60
  | .vsub _ => 0x61
  | .vmul _ => 0x62
  | .vfma _ => 0x63
  | .vfms _ => 0x64
  | .vmin _ => 0x65
  | .vmax _ => 0x66
  | .vabs _ => 0x67
  | .vneg _ => 0x68
  | .vcmp _ => 0x69
  | .vblend _ => 0x6A
  | .vand _ => 0x6B
  | .vor _ => 0x6C
  | .vxor _ => 0x6D
  | .vshl _ => 0x6E
  | .vcvt _ => 0x6F
  | .vred _ => 0x70
  | .vredmax _ => 0x71
  | .vredmin _ => 0x72
  | .vscan _ => 0x73
  | .vshuf _ => 0x74
  | .vmaxr _ => 0x75
  | .vamax _ => 0x76
  | .vscale _ => 0x77
  | .vrcp _ => 0x78
  | .vrsq _ => 0x79
  | .vexp2 _ => 0x7A
  | .vlog2 _ => 0x7B
  | .vsfn _ => 0x7C
  | .vsfnD _ => 0x7C
  | .vquant _ => 0x80
  | .vdeq _ => 0x81
  | .vpackCode _ => 0x82
  | .vpackRaw _ => 0x82
  | .vunpk _ => 0x83
  | .rob _ => 0x88
  | .robT _ => 0x88
  | .mma _ => 0x90
  | .mopf _ => 0x91
  | .mdrain _ => 0x92
  | .mdrainAll _ => 0x92
  | .hprobe _ => 0x98
  | .insnew _ => 0x99
  | .rpart _ => 0x9A
  | .agg _ => 0x9B
  | .negate _ => 0x9C
  | .gradb _ => 0x9D
  | .rscan _ => 0x9E
  | .dlbind _ => 0xA0
  | .dlmul _ => 0xA1
  | .dlref _ => 0xA2
  | .dldrop _ => 0xA3
  | .bscore _ => 0xA8
  | .topkb _ => 0xA9
  | .attnacc _ => 0xAA
  | .evict _ => 0xAB
  | .evictReset _ => 0xAB
  | .ld _ => 0xB0
  | .st _ => 0xB1
  | .lda _ => 0xB2
  | .stl _ => 0xB3
  | .ldsync _ => 0xB4
  | .sete _ => 0xB5
  | .fence _ => 0xB6
  | .ldx _ => 0xB7
  | .stx _ => 0xB8
  | .fadd _ => 0xBA
  | .fadd64 _ => 0xBB
  | .amax _ => 0xBC
  | .amin _ => 0xBD
  | .aswap _ => 0xBE
  | .acas _ => 0xBF
  | .aor _ => 0xC0
  | .aand _ => 0xC1
  | .amaxr _ => 0xC2
  | .ownerRange _ => 0xC3
  | .ownerRel _ => 0xC3
  | .ownerFree _ => 0xC3
  | .waita _ => 0xC4
  | .wakea _ => 0xC5
  | .xfer _ => 0xC8
  | .stash _ => 0xC9
  | .unstash _ => 0xCA
  | .pin _ => 0xCC
  | .unpin _ => 0xCD
  | .send _ => 0xD0
  | .postr _ => 0xD1
  | .probeq _ => 0xD2
  | .cancelr _ => 0xD3
  | .ingress _ => 0xD8
  | .egress _ => 0xD9
  | .strmi _ => 0xDA
  | .strmo _ => 0xDB
  | .barj _ => 0xE0
  | .barjGrp _ => 0xE0
  | .bardrop _ => 0xE1
  | .bardropGrp _ => 0xE1
  | .trap _ => 0xE2
  | .brk _ => 0xE3
  | .rdtime _ => 0xE4
  | .rdcyc _ => 0xE5
  | .rdsys _ => 0xE8
  | .wrsys _ => 0xE9
  | .freeze _ => 0xEA
  | .thaw _ => 0xEB
  | .readout _ => 0xEC
  | .restore _ => 0xED
  | .grant _ => 0xEE
  | .issue _ | .unpark _ | .translationFault _ | .perform _ | .dequeue _ | .ewrite _ | .commit _ | .txAbort _ _ _
  | .phaseGateOpen _ _ | .hdeliver _ _ | .edeliver _ _ | .faddArrival _ | .boomWindowClose _ _ | .split _ _
  | .ownerApply _ _ | .groupReply _ | .launchReply _ | .combineSumsReply _ | .fixbRetry _ | .rotateAck _ _
  | .requestLost _ _ | .barrierRelease _ | .mmaStart _ | .mmaComplete _ | .drainBegin _ | .drainWord _
  | .deltaComplete _ _ | .invalidateArrival _ _ | .codedBlockDecode _ _ | .configDone _ _ _ | .shadowLoadComplete _
  | .planeExchange _ | .watchdogExpiry _ | .cruiseProbeEnd _ | .stashStallTimeout _ | .waitaPoll _ | .sendRetry _
  | .messageArrival _ _ | .rendezvousPull _ _ | .xferSectorDone _ _ | .cfgStoreError _ _ | .cfgReloadCheck _
  | .uncorrectableError _ | .correctedError _ _ _ | .arborDecision _ | .ageingStep _ | .quantumExpiry _
  | .ingressLaunchWord _ _ _ | .ingressTokenWord _ _ _ | .ctxregWrite _ _ | .ctxtearWrite _ _ | .tlbinvWrite _ _
  | .tlbinvDone | .tenantTableWrite _ _ | .almclr | .lnkqclr _ | .registerWrite _ _ | .hostBar4Write _ _ _
  | .hostBar4Read _ _ _ | .atsResponse _ _ _ | .priResponse _ _ | .priTimeout _ | .atsInvalidate _ _ _
  | .getVersion _ | .getCapabilities _ | .negotiateAlgorithms _ | .getDigests _ | .getCertificate _ | .challenge _
  | .getMeasurements _ | .keyExchange _ | .finish _ | .endSession _ | .coldReset _ | .readyToken | .alarmLevel1 _
  | .alarmLevel2 _ | .alarmLevel3 _ | .linkTrain _ _ | .trainingStepTimeout _ _ | .circuitCrcFail _ _ | .linkdn _ _
  | .flitCrcFail _ | .rdreq _ _ | .rdrsp _ _ | .wrreq _ _ | .wrack _ _ | .atreq _ _ | .atrsp _ _ | .msg _ _
  | .msgack _ _ | .grnreq _ _ | .grnrsp _ _ | .rel _ _ | .credit _ _ | .retractComplete _ | .fixbOpenAck _ _
  | .configurationLoadComplete _ | .imageValidationComplete _ | .readoutComplete _ | .restoreComplete _
  | .freezeArrival _ | .thawArrival _ | .groupRequestArrival _ => 0

/-- The MOD values that a fabric instruction defines (09 R176, R183); a form with a row of its own has one value. -/
def modsOf : Instr → List Nat
  | .add _ | .sub _ | .mul _ | .mulh _ | .mulhu _ | .div _ | .divu _ | .rem _ | .remu _ | .and _ | .or _ | .xor _
  | .andn _ | .shl _ | .shr _ | .sar _ | .rol _ | .ror _ | .min _ | .max _ | .minu _ | .maxu _ | .ceq _ | .cne _
  | .clt _ | .cle _ | .cgt _ | .cge _ | .cltu _ | .cgeu _ | .ctr _ | .acc _ | .accmax _ | .accmin _ | .vadd _
  | .vsub _ | .vmul _ | .vfma _ | .vfms _ | .vmin _ | .vmax _ | .vcmp _ | .vblend _ | .vand _ | .vor _ | .vxor _
  | .vshl _ | .vscan _ | .vscale _ | .vquant _ | .rscan _ | .rdtime _ | .rdcyc _ | .rdsys _ => [0, 1, 2]
  | .clz _ | .popc _ | .mov _ | .steer _ | .merge _ | .cmerge _ | .copy _ | .drop _ | .sink _ | .vabs _ | .vneg _
  | .vcvt _ | .vrcp _ | .vrsq _ | .vexp2 _ | .vlog2 _ | .vsfn _ | .vpackCode _ | .vunpk _ | .rob _ | .mma _ | .mopf _
  | .insnew _ | .agg _ | .negate _ | .dlbind _ | .dlmul _ | .dlref _ | .dldrop _ | .bscore _ | .topkb _ | .attnacc _
  | .evict _ | .ld _ | .st _ | .lda _ | .stl _ | .ldsync _ | .sete _ | .fence _ | .ldx _ | .stx _ | .amax _ | .amin _
  | .aswap _ | .acas _ | .aor _ | .aand _ | .amaxr _ | .ownerRange _ | .waita _ | .wakea _ | .xfer _ | .unstash _
  | .pin _ | .unpin _ | .send _ | .postr _ | .probeq _ | .cancelr _ | .ingress _ | .egress _ | .strmi _ | .strmo _
  | .barj _ | .bardrop _ | .brk _ | .thaw _ | .readout _ | .restore _ | .grant _ => [0]
  | .agen _ | .constk _ | .gate _ | .vshuf _ | .vmaxr _ | .mdrain _ | .hprobe _ | .rpart _ | .gradb _ | .fadd _
  | .fadd64 _ | .stash _ | .trap _ | .wrsys _ | .freeze _ => [0, 1]
  | .ctrRoot _ => [3]
  | .sinkEsc _ | .vsfnD _ | .vpackRaw _ | .robT _ | .evictReset _ | .ownerRel _ | .barjGrp _ | .bardropGrp _ => [1]
  | .vred _ | .vredmax _ | .vredmin _ | .vamax _ | .vdeq _ => [0, 1, 2, 3]
  | .mdrainAll _ | .ownerFree _ => [2]
  | .seqEnd | .conf _ | .shadow _ _ | .swap | .phase | .stream _ _ _ _ | .iter _ _ | .loop _ _ _ _ | .endl | .br _
  | .brz _ _ | .brnz _ _ | .waittok _ _ | .join _ _ | .leave _ _ | .launch _ _ _ | .traps _ | .gli _ _
  | .gadd _ _ _ _ | .gsub _ _ _ _ | .gand _ _ _ _ | .gor _ _ _ _ | .gxor _ _ _ _ | .gshl _ _ _ _ | .gshr _ _ _ _
  | .gslt _ _ _ _ | .fixb _ _ _ | .fixe _ _ _ | .rule _ _ | .ruleFull _ _ | .rotate _ | .retract _ _ _ | .issue _
  | .unpark _ | .translationFault _ | .perform _ | .dequeue _ | .ewrite _ | .commit _ | .txAbort _ _ _
  | .phaseGateOpen _ _ | .hdeliver _ _ | .edeliver _ _ | .faddArrival _ | .boomWindowClose _ _ | .split _ _
  | .ownerApply _ _ | .groupReply _ | .launchReply _ | .combineSumsReply _ | .fixbRetry _ | .rotateAck _ _
  | .requestLost _ _ | .barrierRelease _ | .mmaStart _ | .mmaComplete _ | .drainBegin _ | .drainWord _
  | .deltaComplete _ _ | .invalidateArrival _ _ | .codedBlockDecode _ _ | .configDone _ _ _ | .shadowLoadComplete _
  | .planeExchange _ | .watchdogExpiry _ | .cruiseProbeEnd _ | .stashStallTimeout _ | .waitaPoll _ | .sendRetry _
  | .messageArrival _ _ | .rendezvousPull _ _ | .xferSectorDone _ _ | .cfgStoreError _ _ | .cfgReloadCheck _
  | .uncorrectableError _ | .correctedError _ _ _ | .arborDecision _ | .ageingStep _ | .quantumExpiry _
  | .ingressLaunchWord _ _ _ | .ingressTokenWord _ _ _ | .ctxregWrite _ _ | .ctxtearWrite _ _ | .tlbinvWrite _ _
  | .tlbinvDone | .tenantTableWrite _ _ | .almclr | .lnkqclr _ | .registerWrite _ _ | .hostBar4Write _ _ _
  | .hostBar4Read _ _ _ | .atsResponse _ _ _ | .priResponse _ _ | .priTimeout _ | .atsInvalidate _ _ _
  | .getVersion _ | .getCapabilities _ | .negotiateAlgorithms _ | .getDigests _ | .getCertificate _ | .challenge _
  | .getMeasurements _ | .keyExchange _ | .finish _ | .endSession _ | .coldReset _ | .readyToken | .alarmLevel1 _
  | .alarmLevel2 _ | .alarmLevel3 _ | .linkTrain _ _ | .trainingStepTimeout _ _ | .circuitCrcFail _ _ | .linkdn _ _
  | .flitCrcFail _ | .rdreq _ _ | .rdrsp _ _ | .wrreq _ _ | .wrack _ _ | .atreq _ _ | .atrsp _ _ | .msg _ _
  | .msgack _ _ | .grnreq _ _ | .grnrsp _ _ | .rel _ _ | .credit _ _ | .retractComplete _ | .fixbOpenAck _ _
  | .configurationLoadComplete _ | .imageValidationComplete _ | .readoutComplete _ | .restoreComplete _
  | .freezeArrival _ | .thawArrival _ | .groupRequestArrival _ => []

/-- The fabric instruction of an opcode and a MOD value; the MOD value chooses only between the forms that have rows of their
own. None: an unassigned opcode (09 R178, R183). -/
def fabInstr (opc : Nat) (f : Fab) : Option Instr :=
  match opc with
  | 0x20 => some (.add f)
  | 0x21 => some (.sub f)
  | 0x22 => some (.mul f)
  | 0x23 => some (.mulh f)
  | 0x24 => some (.mulhu f)
  | 0x25 => some (.div f)
  | 0x26 => some (.divu f)
  | 0x27 => some (.rem f)
  | 0x28 => some (.remu f)
  | 0x29 => some (.and f)
  | 0x2A => some (.or f)
  | 0x2B => some (.xor f)
  | 0x2C => some (.andn f)
  | 0x2D => some (.shl f)
  | 0x2E => some (.shr f)
  | 0x2F => some (.sar f)
  | 0x30 => some (.rol f)
  | 0x31 => some (.ror f)
  | 0x32 => some (.clz f)
  | 0x33 => some (.popc f)
  | 0x34 => some (.min f)
  | 0x35 => some (.max f)
  | 0x36 => some (.minu f)
  | 0x37 => some (.maxu f)
  | 0x38 => some (.ceq f)
  | 0x39 => some (.cne f)
  | 0x3A => some (.clt f)
  | 0x3B => some (.cle f)
  | 0x3C => some (.cgt f)
  | 0x3D => some (.cge f)
  | 0x3E => some (.cltu f)
  | 0x3F => some (.cgeu f)
  | 0x40 => some (.agen f)
  | 0x41 => some (.constk f)
  | 0x42 => some (.mov f)
  | 0x48 => some (.steer f)
  | 0x49 => some (.merge f)
  | 0x4A => some (.cmerge f)
  | 0x4B => some (.copy f)
  | 0x4C => some (.gate f)
  | 0x4D => if f.md = 3 then some (.ctrRoot f) else some (.ctr f)
  | 0x4E => some (.drop f)
  | 0x4F => if f.md = 1 then some (.sinkEsc f) else some (.sink f)
  | 0x50 => some (.acc f)
  | 0x51 => some (.accmax f)
  | 0x52 => some (.accmin f)
  | 0x60 => some (.vadd f)
  | 0x61 => some (.vsub f)
  | 0x62 => some (.vmul f)
  | 0x63 => some (.vfma f)
  | 0x64 => some (.vfms f)
  | 0x65 => some (.vmin f)
  | 0x66 => some (.vmax f)
  | 0x67 => some (.vabs f)
  | 0x68 => some (.vneg f)
  | 0x69 => some (.vcmp f)
  | 0x6A => some (.vblend f)
  | 0x6B => some (.vand f)
  | 0x6C => some (.vor f)
  | 0x6D => some (.vxor f)
  | 0x6E => some (.vshl f)
  | 0x6F => some (.vcvt f)
  | 0x70 => some (.vred f)
  | 0x71 => some (.vredmax f)
  | 0x72 => some (.vredmin f)
  | 0x73 => some (.vscan f)
  | 0x74 => some (.vshuf f)
  | 0x75 => some (.vmaxr f)
  | 0x76 => some (.vamax f)
  | 0x77 => some (.vscale f)
  | 0x78 => some (.vrcp f)
  | 0x79 => some (.vrsq f)
  | 0x7A => some (.vexp2 f)
  | 0x7B => some (.vlog2 f)
  | 0x7C => if f.md = 1 then some (.vsfnD f) else some (.vsfn f)
  | 0x80 => some (.vquant f)
  | 0x81 => some (.vdeq f)
  | 0x82 => if f.md = 0 then some (.vpackCode f) else some (.vpackRaw f)
  | 0x83 => some (.vunpk f)
  | 0x88 => if f.md = 1 then some (.robT f) else some (.rob f)
  | 0x90 => some (.mma f)
  | 0x91 => some (.mopf f)
  | 0x92 => if f.md = 2 then some (.mdrainAll f) else some (.mdrain f)
  | 0x98 => some (.hprobe f)
  | 0x99 => some (.insnew f)
  | 0x9A => some (.rpart f)
  | 0x9B => some (.agg f)
  | 0x9C => some (.negate f)
  | 0x9D => some (.gradb f)
  | 0x9E => some (.rscan f)
  | 0xA0 => some (.dlbind f)
  | 0xA1 => some (.dlmul f)
  | 0xA2 => some (.dlref f)
  | 0xA3 => some (.dldrop f)
  | 0xA8 => some (.bscore f)
  | 0xA9 => some (.topkb f)
  | 0xAA => some (.attnacc f)
  | 0xAB => if f.md = 1 then some (.evictReset f) else some (.evict f)
  | 0xB0 => some (.ld f)
  | 0xB1 => some (.st f)
  | 0xB2 => some (.lda f)
  | 0xB3 => some (.stl f)
  | 0xB4 => some (.ldsync f)
  | 0xB5 => some (.sete f)
  | 0xB6 => some (.fence f)
  | 0xB7 => some (.ldx f)
  | 0xB8 => some (.stx f)
  | 0xBA => some (.fadd f)
  | 0xBB => some (.fadd64 f)
  | 0xBC => some (.amax f)
  | 0xBD => some (.amin f)
  | 0xBE => some (.aswap f)
  | 0xBF => some (.acas f)
  | 0xC0 => some (.aor f)
  | 0xC1 => some (.aand f)
  | 0xC2 => some (.amaxr f)
  | 0xC3 => if f.md = 0 then some (.ownerRange f) else if f.md = 1 then some (.ownerRel f) else some (.ownerFree f)
  | 0xC4 => some (.waita f)
  | 0xC5 => some (.wakea f)
  | 0xC8 => some (.xfer f)
  | 0xC9 => some (.stash f)
  | 0xCA => some (.unstash f)
  | 0xCC => some (.pin f)
  | 0xCD => some (.unpin f)
  | 0xD0 => some (.send f)
  | 0xD1 => some (.postr f)
  | 0xD2 => some (.probeq f)
  | 0xD3 => some (.cancelr f)
  | 0xD8 => some (.ingress f)
  | 0xD9 => some (.egress f)
  | 0xDA => some (.strmi f)
  | 0xDB => some (.strmo f)
  | 0xE0 => if f.md = 1 then some (.barjGrp f) else some (.barj f)
  | 0xE1 => if f.md = 1 then some (.bardropGrp f) else some (.bardrop f)
  | 0xE2 => some (.trap f)
  | 0xE3 => some (.brk f)
  | 0xE4 => some (.rdtime f)
  | 0xE5 => some (.rdcyc f)
  | 0xE8 => some (.rdsys f)
  | 0xE9 => some (.wrsys f)
  | 0xEA => some (.freeze f)
  | 0xEB => some (.thaw f)
  | 0xEC => some (.readout f)
  | 0xED => some (.restore f)
  | 0xEE => some (.grant f)
  | _ => none

/-- The sites of 09 R179: cells (UNIT 0 to 7), stages (8 to 13), the matrix node (14), the quadrant-port slot (15). -/
inductive Site where
  | cell | stage | node | slot
  deriving DecidableEq, Repr

/-- The kind of site that a UNIT code selects (02 R14). -/
def siteOfUnit (u : BitVec 4) : Site :=
  if u.toNat < 8 then .cell else if u.toNat < 14 then .stage else if u.toNat = 14 then .node else .slot

/-- The site at which an opcode stands (09 R179). -/
def siteOfOpcode (o : Nat) : Site :=
  if o < 0x60 then .cell
  else if o < 0x90 then .stage
  else if o < 0xAA then .node
  else if o < 0xE0 then .slot
  else if o < 0xEA then .cell
  else .slot

/-- Bits [hi:lo] of a word, as a number (00 R4). -/
def fld {n : Nat} (x : BitVec n) (hi lo : Nat) : Nat := (x.toNat >>> lo) % 2 ^ (hi + 1 - lo)

/-- The binary scalar family (09 R176): 0x20 to 0x3F but for CLZ and POPC. -/
def isBinaryAlu (o : Nat) : Bool := 0x20 ≤ o && o ≤ 0x3F && o != 0x32 && o != 0x33

/-- Vector instructions whose operand b MOD selects (11 R207, R211, R213, R214, R224). -/
def isVBinary (o : Nat) : Bool :=
  (0x60 ≤ o && o ≤ 0x66) || (0x69 ≤ o && o ≤ 0x6E) || o == 0x77 || o == 0x80 || o == 0x81

/-- Vector instructions with an operand c (11 R207). -/
def isVTernary (o : Nat) : Bool := o == 0x63 || o == 0x64 || o == 0x6A

/-- The atomics (13 R273). -/
def isAtomic (o : Nat) : Bool := 0xBA ≤ o && o ≤ 0xC2

/-- The plain access elements (13 R270). -/
def isPlainAccess (o : Nat) : Bool := 0xB0 ≤ o && o ≤ 0xB5

/-- Elements that lay IMM20 out as 13 R266. -/
def isMemLayout (o : Nat) : Bool := isPlainAccess o || isAtomic o || o == 0xC4 || o == 0xC5

/-- The IMM20 bits of a vector word that the word uses (11 R207): the mask of bits that may be set. -/
def vecImmOk (o : Nat) (md : BitVec 2) (imm : BitVec 20) : Bool :=
  let bvk := isVBinary o && md == 1
  let cvk := isVTernary o && fld imm 6 6 == 1
  let sub := fld imm 10 8
  fld imm 19 16 == 0 && fld imm 7 7 == 0
    && (bvk || cvk || fld imm 15 11 == 0)
    && (if o == 0x69 then true else if o == 0x6E || o == 0x73 then sub ≤ 1 else sub == 0)
    && (isVTernary o || fld imm 6 6 == 0)
    && (cvk || fld imm 5 3 == 0)
    && (bvk || fld imm 2 0 == 0)

/-- No bit of IMM20 is set that the instruction does not use (09 R176, R183 with each instruction's own rule). -/
def immBitsOk (o : Nat) (md : BitVec 2) (imm : BitVec 20) : Bool :=
  if isBinaryAlu o then
    (if md == 0 then true else if md == 1 then imm == 0 else fld imm 19 10 == 0)
  else if o == 0x40 then fld imm 9 5 == 0
  else if o == 0x41 then true
  else if o == 0x4D then (md == 0 || md == 1 || imm == 0)
  else if o == 0x4F then (if md == 1 then fld imm 19 3 == 0 else imm == 0)
  else if o < 0x60 then imm == 0
  else if o == 0x74 then fld imm 19 3 == 0
  else if o == 0x7C || o == 0x88 then fld imm 19 10 == 0
  else if isVBinary o || o == 0x73 then vecImmOk o md imm
  else if o < 0x90 then imm == 0
  else if o == 0x91 || o == 0xA0 || o == 0xA8 then fld imm 19 10 == 0
  else if o == 0x92 then fld imm 19 14 == 0 && (md != 2 || fld imm 12 10 == 0)
  else if o == 0x98 then (md == 1 || fld imm 19 15 == 0)
  else if o == 0x9A then fld imm 19 12 == 0 && (md == 0 || fld imm 2 0 == 0)
  else if 0x99 ≤ o && o ≤ 0x9E then fld imm 19 10 == 0
  else if o == 0xA9 then fld imm 19 8 == 0
  else if o == 0xAA || o == 0xAB then fld imm 6 0 == 0
  else if o < 0xB0 then imm == 0
  else if isMemLayout o then
    fld imm 15 14 != 3 && fld imm 11 10 == 0
      && (if fld imm 15 14 == 0 then o != 0xC4 && o != 0xC5 && fld imm 9 0 == 0 else fld imm 13 12 == 0)
  else if o == 0xB6 then fld imm 15 3 == 0 && fld imm 2 0 ≤ 5
  else if o == 0xB7 || o == 0xB8 then fld imm 15 14 == 2 && fld imm 13 10 == 0
  else if o == 0xC3 || o == 0xC9 || o == 0xCA then fld imm 15 10 == 0
  else if o == 0xC8 || o == 0xD3 then fld imm 15 0 == 0
  else if o == 0xCC then true
  else if o == 0xCD then fld imm 19 10 == 0
  else if o == 0xD0 || o == 0xD1 || o == 0xD2 then
    (fld imm 15 14 == 1 || fld imm 15 14 == 2) && fld imm 13 10 == 0
  else if o == 0xD8 || o == 0xD9 then fld imm 19 4 == 0
  else if o == 0xDA || o == 0xDB then fld imm 19 10 == 0
  else if o == 0xE0 || o == 0xE1 then (if md == 1 then fld imm 19 10 == 0 else fld imm 19 12 == 0)
  else if o == 0xE2 then fld imm 19 16 == 0
  else if o == 0xE3 || o == 0xE4 || o == 0xE5 then imm == 0
  else if o == 0xE8 || o == 0xE9 then fld imm 19 12 == 0
  else if o == 0xEC || o == 0xED then fld imm 15 10 == 0
  else fld imm 15 0 == 0

/-- IMM20 values of a used field that the loader rejects with BADCON (10 R202, 12 R260, 13 R291, R293, R294). -/
def immValueOk (o : Nat) (md : BitVec 2) (imm : BitVec 20) : Bool :=
  if o == 0x4D then (if md == 0 || md == 1 then imm != 0 else true)
  else if o == 0xA9 then 1 ≤ fld imm 6 0 && fld imm 6 0 ≤ 64
  else if o == 0xD9 then imm == 0
  else if o == 0xE0 || o == 0xE1 then md == 1 || imm != 0
  else true

/-- The inputs that the firings of an opcode read, and those it may read (BARJ's i1, 13 R293). -/
def inputsOf (o : Nat) (md : BitVec 2) (imm : BitVec 20) : List Nat × List Nat :=
  let am := fld imm 15 14
  let cI2 := isVTernary o && fld imm 6 6 == 0
  if isBinaryAlu o then (if md == 1 then ([0, 1], []) else ([0], []))
  else if o == 0x40 then (if md == 1 then ([0, 1], []) else ([0], []))
  else if o == 0x41 then (if md == 1 then ([0], []) else ([], []))
  else if o == 0x48 || o == 0x4A || o == 0x4C then ([0, 1], [])
  else if o == 0x49 then ([0, 1, 2], [])
  else if o == 0x4D then (if md == 1 || md == 2 then ([0], []) else ([], []))
  else if o < 0x60 then ([0], [])
  else if o == 0x74 then (if md == 0 then ([0, 1], []) else ([0], []))
  else if o == 0x7C then (if md == 1 then ([0, 1], []) else ([0], []))
  else if o == 0x80 then (if md == 0 then ([0, 1], []) else ([0], []))
  else if o == 0x81 then (if md == 0 || md == 2 then ([0, 1], []) else ([0], []))
  else if isVBinary o then
    (([0] ++ (if md == 0 || md == 2 then [1] else []) ++ (if cI2 then [2] else [])), [])
  else if o < 0x90 then ([0], [])
  else if o == 0x92 then (if md == 1 then ([0, 1], []) else ([0], []))
  else if o == 0x9E then ([], [])
  else if o < 0xB0 then ([0], [])
  else if o == 0xB0 || o == 0xB2 || o == 0xB4 || o == 0xB5 then (if am == 0 then ([], []) else ([0], []))
  else if o == 0xB1 || o == 0xB3 then (if am == 2 then ([0, 1], []) else ([0], []))
  else if o == 0xB8 then ([0, 1], [])
  else if o == 0xBF then (if am == 2 then ([0, 1, 2], []) else ([0, 1], []))
  else if o == 0xC2 then ((if am == 0 then [] else [0]), [])
  else if isAtomic o then (if am == 2 then ([0, 1], []) else ([0], []))
  else if o == 0xC4 then (if am == 2 then ([0, 1], []) else ([0], []))
  else if o == 0xD8 || o == 0xDA then ([], [])
  else if o == 0xE0 then (if md == 1 then ([0], []) else ([0], [1]))
  else if o == 0xE9 then (if md == 0 then ([0, 1], []) else ([0], []))
  else if o == 0xEC || o == 0xED || o == 0xEE then ([0, 1], [])
  else ([0], [])

/-- The kind a link end fixes (09 R404). -/
inductive Kind where
  | scalar | vector | neutral
  deriving DecidableEq, Repr

/-- The kind of an output of an opcode; `k` is 0 for CONA and 1 for CONB, higher for further routes (09 R404). -/
def outKind (o : Nat) (md : BitVec 2) (imm : BitVec 20) (k : Nat) : Kind :=
  if o < 0x60 then .scalar
  else if o < 0x90 then .vector
  else if o == 0x9E || o == 0x98 || o == 0x9C || o == 0x9D || o == 0xA8 || o == 0xA9 || o == 0xB7 || o == 0xD2 then .vector
  else if o == 0x9A then (if md == 0 && k == 0 then .vector else .scalar)
  else if o == 0xD8 then (if fld imm 3 0 == 0 then .scalar else .vector)
  else if o == 0xCA || o == 0xDA || o == 0x92 then .neutral
  else .scalar

/-- The kind of an input of an opcode (09 R404). -/
def inKind (o : Nat) (md : BitVec 2) (k : Nat) : Kind :=
  if o < 0x60 then .scalar
  else if o < 0x90 then (if k == 1 && md == 2 && isVBinary o then .scalar else .vector)
  else if o == 0x98 || o == 0x99 || o == 0x9B || o == 0x9C || o == 0x9D || o == 0x91 || o == 0xA9 || o == 0xAA then .vector
  else if o == 0x9A then (if md == 0 then .vector else .scalar)
  else if o == 0xB7 || o == 0xB8 || o == 0xC8 then .vector
  else if o == 0xB1 || o == 0xB3 || o == 0xC9 || o == 0xDB then (if k == 0 then .neutral else .scalar)
  else .scalar

/-- Privileged opcodes (09 R180). -/
def isPrivileged (o : Nat) : Bool := 0xEA ≤ o && o ≤ 0xEE

end Sys2Proof.Machine
end

