-- ==== Sys2Proof/WellFormed.lean ====
section
/-! DEFINITION. Which instructions are well formed: those whose words the graph loader lets stand (09 R174 to R183), as far as
one word alone decides it. -/

namespace Sys2Proof

open Sys2Proof.Machine

/-- A fabric instruction at a site that executes it, with a MOD its opcode defines, no unused bit set and no IMM20 value that
is rejected. -/
def Fab.ok (i : Instr) (f : Fab) : Bool :=
  siteOfUnit f.unit == siteOfOpcode (opcodeOf i)
    && (modsOf i).contains f.md.toNat
    && immBitsOk (opcodeOf i) f.md f.imm
    && immValueOk (opcodeOf i) f.md f.imm

/-- A sequence word within the limits that the loader checks on the word itself (10 R186, R190, R191, R194, 12 R241). -/
def Instr.seqOk : Instr → Bool
  | .iter gb count => gb == 0 || count == 0
  | .loop gb kind depth count => kind != 3 && (kind == 1 || depth == 0) && (gb == 0 || count == 0)
  | .br off | .brz _ off | .brnz _ off => off != 0
  | .launch _ _ gc => gc.toNat ≤ 56
  | .rule _ num | .ruleFull _ num => num != 0
  | .fixb gb _ grp => gb == 0 || grp == 0
  | .fixe _ gb grp => gb == 0 || grp == 0
  | _ => true

/-- Well formed: a fabric word that stands, a sequence word within its limits, any event. -/
def Instr.wellFormed (i : Instr) : Bool :=
  match fabOf i with
  | some f => Fab.ok i f
  | none => Instr.seqOk i

end Sys2Proof
end

