-- ==== Sys2Proof/Decode.lean ====
section
/-! DEFINITION. The decoder of sequence words and fabric words and, after it, the encoder, both from the field maps of 09 R174,
R175, R177 and the opcode map of R178. -/

namespace Sys2Proof

open Sys2Proof.Machine

/-- Why a word is no instruction: the load fault that the word alone raises (09 R181, R182). -/
inductive DecodeError where
  | badOpc | badSite | badCon
  deriving DecidableEq, Repr

/-- A consumer field of 13 bits (09 R175); a field with V = 0 must be all zero. -/
def decodeCon (c : BitVec 13) : Except DecodeError (Option Con) :=
  if c.getLsbD 12 then .ok (some ⟨c.extractLsb' 5 7, c.extractLsb' 3 2, c.extractLsb' 0 3⟩)
  else if c = 0 then .ok none
  else .error .badCon

/-- The fields of a fabric word; the consumer fields are checked last (09 R181 step 2). -/
def decodeFabric (w : BitVec 64) : Except DecodeError Instr :=
  let opc := (w.extractLsb' 56 8).toNat
  let bare : Fab := ⟨w.extractLsb' 52 4, w.extractLsb' 48 4, none, none, w.extractLsb' 20 2, w.extractLsb' 0 20⟩
  match fabInstr opc bare with
  | none => .error .badOpc
  | some i =>
    if !(modsOf i).contains bare.md.toNat || !immBitsOk opc bare.md bare.imm then .error .badOpc
    else if siteOfUnit bare.unit != siteOfOpcode opc then .error .badSite
    else if !immValueOk opc bare.md bare.imm then .error .badCon
    else
      match decodeCon (w.extractLsb' 35 13) with
      | .error e => .error e
      | .ok a =>
        match decodeCon (w.extractLsb' 22 13) with
        | .error e => .error e
        | .ok b =>
          match fabInstr opc { bare with cona := a, conb := b } with
          | some j => .ok j
          | none => .error .badOpc

/-- The sequence instruction of an opcode and its fields, with the fields its row does not list checked to be zero (10 R186,
12 R241). -/
def seqInstr (opc : Nat) (ga gb gc : BitVec 6) (imm : BitVec 38) : Except DecodeError Instr :=
  let need (c : Bool) (i : Instr) : Except DecodeError Instr := if c then .ok i else .error .badOpc
  let z (x : BitVec 6) : Bool := x == 0
  match opc with
  | 0x01 => need (z ga && z gb && z gc && imm == 0) .seqEnd
  | 0x02 => need (z ga && z gb && z gc && fld imm 37 16 == 0) (.conf (imm.extractLsb' 0 16))
  | 0x03 => need (z gb && z gc && fld imm 37 16 == 0) (.shadow ga (imm.extractLsb' 0 16))
  | 0x04 => need (z ga && z gb && z gc && imm == 0) .swap
  | 0x05 => need (z ga && z gb && z gc && imm == 0) .phase
  | 0x06 => need (z ga && z gc && fld imm 31 16 == 0)
      (.stream gb (imm.extractLsb' 34 4) (imm.extractLsb' 32 2) (imm.extractLsb' 0 16))
  | 0x07 => need (z ga && z gc) (.iter gb imm)
  | 0x08 => need (z ga && z gc && fld imm 32 32 == 0)
      (.loop gb (imm.extractLsb' 36 2) (imm.extractLsb' 33 3) (imm.extractLsb' 0 32))
  | 0x09 => need (z ga && z gb && z gc && imm == 0) .endl
  | 0x0A => need (z ga && z gb && z gc) (.br imm)
  | 0x0B => need (z gb && z gc) (.brz ga imm)
  | 0x0C => need (z gb && z gc) (.brnz ga imm)
  | 0x0D => need (z gb && z gc && fld imm 37 3 == 0) (.waittok ga (imm.extractLsb' 0 3))
  | 0x0E => need (z gc && imm == 0) (.join ga gb)
  | 0x0F => need (z gc && imm == 0) (.leave ga gb)
  | 0x10 => need (imm == 0) (.launch ga gb gc)
  | 0x11 => need (z ga && z gb && z gc && fld imm 37 16 == 0) (.traps (imm.extractLsb' 0 16))
  | 0x12 => need (z gb && z gc) (.gli ga imm)
  | 0x13 => .ok (.gadd ga gb gc imm)
  | 0x14 => .ok (.gsub ga gb gc imm)
  | 0x15 => .ok (.gand ga gb gc imm)
  | 0x16 => .ok (.gor ga gb gc imm)
  | 0x17 => .ok (.gxor ga gb gc imm)
  | 0x18 => .ok (.gshl ga gb gc imm)
  | 0x19 => .ok (.gshr ga gb gc imm)
  | 0x1A => .ok (.gslt ga gb gc imm)
  | 0x1B => need (z ga && z gc && fld imm 37 24 == 0) (.fixb gb (imm.extractLsb' 0 16) (imm.extractLsb' 16 8))
  | 0x1C => need (z gc && fld imm 37 24 == 0 && fld imm 15 0 == 0) (.fixe ga gb (imm.extractLsb' 16 8))
  | 0x1D => need (z ga && z gb && z gc && fld imm 37 25 == 0)
      (if fld imm 24 24 == 0 then .rule (imm.extractLsb' 0 16) (imm.extractLsb' 16 8)
       else .ruleFull (imm.extractLsb' 0 16) (imm.extractLsb' 16 8))
  | 0x1E => need (z ga && z gb && z gc && fld imm 37 16 == 0) (.rotate (imm.extractLsb' 0 16))
  | 0x1F => need (z gc && fld imm 37 16 == 0) (.retract ga gb (imm.extractLsb' 0 16))
  | _ => .error .badOpc

/-- A sequence word (09 R177); the limits that R186 and R241 set give BADOPC, the zero offset of a branch (R191) and the rule
number 0 (R241) give BADCON. -/
def decodeSeq (w : BitVec 64) : Except DecodeError Instr :=
  match seqInstr (w.extractLsb' 56 8).toNat (w.extractLsb' 50 6) (w.extractLsb' 44 6) (w.extractLsb' 38 6)
      (w.extractLsb' 0 38) with
  | .error e => .error e
  | .ok i =>
    if i.seqOk then .ok i
    else match i with
      | .br _ | .brz _ _ | .brnz _ _ | .rule _ _ | .ruleFull _ _ => .error .badCon
      | _ => .error .badOpc

/-- Any 64-bit word: a sequence word (OPC 0x01 to 0x1F), a fabric word, or the name of what is wrong with it (09 R178, R183). -/
def decodeWord (w : BitVec 64) : Except DecodeError Instr :=
  let opc := (w.extractLsb' 56 8).toNat
  if 1 ≤ opc ∧ opc ≤ 0x1F then decodeSeq w else decodeFabric w

/-- Eight bytes, lowest address first, as one word (09 R168: 64-bit little-endian words). -/
def wordOfBytes (bs : List Byte) : BitVec 64 :=
  BitVec.ofNat 64 (bs.foldr (fun b acc => acc * 256 + b.toNat) 0)

/-- The decoder of any bytes: the first eight are the word; fewer are no instruction. The rest is what follows it. -/
def decode (bs : List Byte) : Except DecodeError (Instr × List Byte) :=
  if bs.length < 8 then .error .badOpc
  else match decodeWord (wordOfBytes (bs.take 8)) with
    | .ok i => .ok (i, bs.drop 8)
    | .error e => .error e

/-- The n bytes of a number, lowest first (07 R129). -/
def natBytes : Nat → Nat → List Byte
  | 0, _ => []
  | n + 1, w => BitVec.ofNat 8 w :: natBytes n (w / 256)

/-- The instruction that the decoder reads from a word numbered as the opcode table numbers it. -/
def decodeTableWord (nbits w : Nat) : Option Instr :=
  match decode (natBytes 8 (w % 2 ^ nbits)) with
  | .ok (i, _) => some i
  | .error _ => none

/-! ## The encoder -/

/-- A consumer field (09 R175). -/
def encodeCon : Option Con → BitVec 13
  | none => 0
  | some c => 1#1 ++ c.idx ++ c.inp ++ c.slots

/-- A fabric word (09 R174). -/
def encodeFab (opc : BitVec 8) (f : Fab) : BitVec 64 :=
  opc ++ f.tile ++ f.unit ++ encodeCon f.cona ++ encodeCon f.conb ++ f.md ++ f.imm

/-- A sequence word (09 R177). -/
def encodeSeq (opc : BitVec 8) (ga gb gc : BitVec 6) (imm : BitVec 38) : BitVec 64 :=
  opc ++ ga ++ gb ++ gc ++ imm

/-- The word of an instruction; an event has none. -/
def encode : Instr → Option (BitVec 64)
  | .seqEnd => some (encodeSeq 0x01 0 0 0 0)
  | .conf cfg => some (encodeSeq 0x02 0 0 0 (cfg.setWidth 38))
  | .shadow ga cfg => some (encodeSeq 0x03 ga 0 0 (cfg.setWidth 38))
  | .swap => some (encodeSeq 0x04 0 0 0 0)
  | .phase => some (encodeSeq 0x05 0 0 0 0)
  | .stream gb port gen entry => some (encodeSeq 0x06 0 gb 0 (port ++ gen ++ 0#16 ++ entry))
  | .iter gb count => some (encodeSeq 0x07 0 gb 0 count)
  | .loop gb kind depth count => some (encodeSeq 0x08 0 gb 0 (kind ++ depth ++ 0#1 ++ count))
  | .endl => some (encodeSeq 0x09 0 0 0 0)
  | .br off => some (encodeSeq 0x0A 0 0 0 off)
  | .brz ga off => some (encodeSeq 0x0B ga 0 0 off)
  | .brnz ga off => some (encodeSeq 0x0C ga 0 0 off)
  | .waittok ga e => some (encodeSeq 0x0D ga 0 0 (e.setWidth 38))
  | .join ga gb => some (encodeSeq 0x0E ga gb 0 0)
  | .leave ga gb => some (encodeSeq 0x0F ga gb 0 0)
  | .launch ga gb gc => some (encodeSeq 0x10 ga gb gc 0)
  | .traps code => some (encodeSeq 0x11 0 0 0 (code.setWidth 38))
  | .gli ga imm => some (encodeSeq 0x12 ga 0 0 imm)
  | .gadd ga gb gc imm => some (encodeSeq 0x13 ga gb gc imm)
  | .gsub ga gb gc imm => some (encodeSeq 0x14 ga gb gc imm)
  | .gand ga gb gc imm => some (encodeSeq 0x15 ga gb gc imm)
  | .gor ga gb gc imm => some (encodeSeq 0x16 ga gb gc imm)
  | .gxor ga gb gc imm => some (encodeSeq 0x17 ga gb gc imm)
  | .gshl ga gb gc imm => some (encodeSeq 0x18 ga gb gc imm)
  | .gshr ga gb gc imm => some (encodeSeq 0x19 ga gb gc imm)
  | .gslt ga gb gc imm => some (encodeSeq 0x1A ga gb gc imm)
  | .fixb gb rlist grp => some (encodeSeq 0x1B 0 gb 0 ((grp ++ rlist).setWidth 38))
  | .fixe ga gb grp => some (encodeSeq 0x1C ga gb 0 ((grp ++ 0#16).setWidth 38))
  | .rule cfg num => some (encodeSeq 0x1D 0 0 0 ((num ++ cfg).setWidth 38))
  | .ruleFull cfg num => some (encodeSeq 0x1D 0 0 0 ((1#1 ++ num ++ cfg).setWidth 38))
  | .rotate rlist => some (encodeSeq 0x1E 0 0 0 (rlist.setWidth 38))
  | .retract ga gb rlist => some (encodeSeq 0x1F ga gb 0 (rlist.setWidth 38))
  | .add f => some (encodeFab 0x20 f)
  | .sub f => some (encodeFab 0x21 f)
  | .mul f => some (encodeFab 0x22 f)
  | .mulh f => some (encodeFab 0x23 f)
  | .mulhu f => some (encodeFab 0x24 f)
  | .div f => some (encodeFab 0x25 f)
  | .divu f => some (encodeFab 0x26 f)
  | .rem f => some (encodeFab 0x27 f)
  | .remu f => some (encodeFab 0x28 f)
  | .and f => some (encodeFab 0x29 f)
  | .or f => some (encodeFab 0x2A f)
  | .xor f => some (encodeFab 0x2B f)
  | .andn f => some (encodeFab 0x2C f)
  | .shl f => some (encodeFab 0x2D f)
  | .shr f => some (encodeFab 0x2E f)
  | .sar f => some (encodeFab 0x2F f)
  | .rol f => some (encodeFab 0x30 f)
  | .ror f => some (encodeFab 0x31 f)
  | .clz f => some (encodeFab 0x32 f)
  | .popc f => some (encodeFab 0x33 f)
  | .min f => some (encodeFab 0x34 f)
  | .max f => some (encodeFab 0x35 f)
  | .minu f => some (encodeFab 0x36 f)
  | .maxu f => some (encodeFab 0x37 f)
  | .ceq f => some (encodeFab 0x38 f)
  | .cne f => some (encodeFab 0x39 f)
  | .clt f => some (encodeFab 0x3A f)
  | .cle f => some (encodeFab 0x3B f)
  | .cgt f => some (encodeFab 0x3C f)
  | .cge f => some (encodeFab 0x3D f)
  | .cltu f => some (encodeFab 0x3E f)
  | .cgeu f => some (encodeFab 0x3F f)
  | .mov f => some (encodeFab 0x42 f)
  | .agen f => some (encodeFab 0x40 f)
  | .constk f => some (encodeFab 0x41 f)
  | .steer f => some (encodeFab 0x48 f)
  | .merge f => some (encodeFab 0x49 f)
  | .cmerge f => some (encodeFab 0x4A f)
  | .copy f => some (encodeFab 0x4B f)
  | .gate f => some (encodeFab 0x4C f)
  | .ctr f => some (encodeFab 0x4D f)
  | .ctrRoot f => some (encodeFab 0x4D f)
  | .drop f => some (encodeFab 0x4E f)
  | .sink f => some (encodeFab 0x4F f)
  | .sinkEsc f => some (encodeFab 0x4F f)
  | .acc f => some (encodeFab 0x50 f)
  | .accmax f => some (encodeFab 0x51 f)
  | .accmin f => some (encodeFab 0x52 f)
  | .vadd f => some (encodeFab 0x60 f)
  | .vsub f => some (encodeFab 0x61 f)
  | .vmul f => some (encodeFab 0x62 f)
  | .vfma f => some (encodeFab 0x63 f)
  | .vfms f => some (encodeFab 0x64 f)
  | .vmin f => some (encodeFab 0x65 f)
  | .vmax f => some (encodeFab 0x66 f)
  | .vabs f => some (encodeFab 0x67 f)
  | .vneg f => some (encodeFab 0x68 f)
  | .vcmp f => some (encodeFab 0x69 f)
  | .vblend f => some (encodeFab 0x6A f)
  | .vand f => some (encodeFab 0x6B f)
  | .vor f => some (encodeFab 0x6C f)
  | .vxor f => some (encodeFab 0x6D f)
  | .vshl f => some (encodeFab 0x6E f)
  | .vcvt f => some (encodeFab 0x6F f)
  | .vred f => some (encodeFab 0x70 f)
  | .vredmax f => some (encodeFab 0x71 f)
  | .vredmin f => some (encodeFab 0x72 f)
  | .vscan f => some (encodeFab 0x73 f)
  | .vshuf f => some (encodeFab 0x74 f)
  | .vmaxr f => some (encodeFab 0x75 f)
  | .vamax f => some (encodeFab 0x76 f)
  | .vscale f => some (encodeFab 0x77 f)
  | .vrcp f => some (encodeFab 0x78 f)
  | .vrsq f => some (encodeFab 0x79 f)
  | .vexp2 f => some (encodeFab 0x7A f)
  | .vlog2 f => some (encodeFab 0x7B f)
  | .vsfn f => some (encodeFab 0x7C f)
  | .vsfnD f => some (encodeFab 0x7C f)
  | .vquant f => some (encodeFab 0x80 f)
  | .vdeq f => some (encodeFab 0x81 f)
  | .vpackCode f => some (encodeFab 0x82 f)
  | .vpackRaw f => some (encodeFab 0x82 f)
  | .vunpk f => some (encodeFab 0x83 f)
  | .rob f => some (encodeFab 0x88 f)
  | .robT f => some (encodeFab 0x88 f)
  | .mma f => some (encodeFab 0x90 f)
  | .mopf f => some (encodeFab 0x91 f)
  | .mdrain f => some (encodeFab 0x92 f)
  | .mdrainAll f => some (encodeFab 0x92 f)
  | .hprobe f => some (encodeFab 0x98 f)
  | .insnew f => some (encodeFab 0x99 f)
  | .rpart f => some (encodeFab 0x9A f)
  | .agg f => some (encodeFab 0x9B f)
  | .negate f => some (encodeFab 0x9C f)
  | .gradb f => some (encodeFab 0x9D f)
  | .rscan f => some (encodeFab 0x9E f)
  | .dlbind f => some (encodeFab 0xA0 f)
  | .dlmul f => some (encodeFab 0xA1 f)
  | .dlref f => some (encodeFab 0xA2 f)
  | .dldrop f => some (encodeFab 0xA3 f)
  | .bscore f => some (encodeFab 0xA8 f)
  | .topkb f => some (encodeFab 0xA9 f)
  | .attnacc f => some (encodeFab 0xAA f)
  | .evict f => some (encodeFab 0xAB f)
  | .evictReset f => some (encodeFab 0xAB f)
  | .ld f => some (encodeFab 0xB0 f)
  | .st f => some (encodeFab 0xB1 f)
  | .lda f => some (encodeFab 0xB2 f)
  | .stl f => some (encodeFab 0xB3 f)
  | .ldsync f => some (encodeFab 0xB4 f)
  | .sete f => some (encodeFab 0xB5 f)
  | .fence f => some (encodeFab 0xB6 f)
  | .ldx f => some (encodeFab 0xB7 f)
  | .stx f => some (encodeFab 0xB8 f)
  | .fadd f => some (encodeFab 0xBA f)
  | .fadd64 f => some (encodeFab 0xBB f)
  | .amax f => some (encodeFab 0xBC f)
  | .amin f => some (encodeFab 0xBD f)
  | .aswap f => some (encodeFab 0xBE f)
  | .acas f => some (encodeFab 0xBF f)
  | .aor f => some (encodeFab 0xC0 f)
  | .aand f => some (encodeFab 0xC1 f)
  | .amaxr f => some (encodeFab 0xC2 f)
  | .ownerRange f => some (encodeFab 0xC3 f)
  | .ownerRel f => some (encodeFab 0xC3 f)
  | .ownerFree f => some (encodeFab 0xC3 f)
  | .waita f => some (encodeFab 0xC4 f)
  | .wakea f => some (encodeFab 0xC5 f)
  | .xfer f => some (encodeFab 0xC8 f)
  | .stash f => some (encodeFab 0xC9 f)
  | .unstash f => some (encodeFab 0xCA f)
  | .pin f => some (encodeFab 0xCC f)
  | .unpin f => some (encodeFab 0xCD f)
  | .send f => some (encodeFab 0xD0 f)
  | .postr f => some (encodeFab 0xD1 f)
  | .probeq f => some (encodeFab 0xD2 f)
  | .cancelr f => some (encodeFab 0xD3 f)
  | .ingress f => some (encodeFab 0xD8 f)
  | .egress f => some (encodeFab 0xD9 f)
  | .strmi f => some (encodeFab 0xDA f)
  | .strmo f => some (encodeFab 0xDB f)
  | .barj f => some (encodeFab 0xE0 f)
  | .barjGrp f => some (encodeFab 0xE0 f)
  | .bardrop f => some (encodeFab 0xE1 f)
  | .bardropGrp f => some (encodeFab 0xE1 f)
  | .trap f => some (encodeFab 0xE2 f)
  | .brk f => some (encodeFab 0xE3 f)
  | .rdtime f => some (encodeFab 0xE4 f)
  | .rdcyc f => some (encodeFab 0xE5 f)
  | .rdsys f => some (encodeFab 0xE8 f)
  | .wrsys f => some (encodeFab 0xE9 f)
  | .freeze f => some (encodeFab 0xEA f)
  | .thaw f => some (encodeFab 0xEB f)
  | .readout f => some (encodeFab 0xEC f)
  | .restore f => some (encodeFab 0xED f)
  | .grant f => some (encodeFab 0xEE f)
  | .issue _ | .unpark _ | .translationFault _ | .perform _ | .dequeue _ | .ewrite _ | .commit _ | .txAbort _ _ _
  | .phaseGateOpen _ _ | .hdeliver _ _ | .edeliver _ _ | .faddArrival _ | .boomWindowClose _ _ | .split _ _
  | .ownerApply _ _ | .groupReply _ | .launchReply _ | .combineSumsReply _ | .fixbRetry _ | .rotateAck _ _
  | .requestLost _ _ | .barrierRelease _ | .mmaStart _ | .mmaComplete _ | .drainBegin _ | .drainWord _
  | .deltaComplete _ _ | .invalidateArrival _ _ | .codedBlockDecode _ _ | .configDone _ _ _ | .shadowLoadComplete _
  | .planeExchange _ | .watchdogExpiry _ | .cruiseProbeEnd _ | .stashStallTimeout _ | .waitaPoll _ | .sendRetry _
  | .messageArrival _ _ | .rendezvousPull _ _ | .xferSectorDone _ _ | .cfgStoreError _ _ | .cfgReloadCheck _
  | .uncorrectableError _ | .correctedError _ _ _ | .arborDecision _ | .ageingStep _ | .quantumExpiry _
  | .ingressLaunchWord _ _ _ | .ingressTokenWord _ _ _ | .ctxregWrite _ _ | .ctxtearWrite _ _ | .tlbinvWrite _ _
  | .tlbinvDone | .tenantTableWrite _ _ | .almclr | .lnkqclr _ | .registerWrite _ _ | .hostBar4Write _ _ _
  | .hostBar4Read _ _ _ | .atsResponse _ _ _ | .priResponse _ _ | .priTimeout _ | .atsInvalidate _ _ _
  | .getVersion _ | .getCapabilities _ | .negotiateAlgorithms _ | .getDigests _ | .getCertificate _ | .challenge _
  | .getMeasurements _ | .keyExchange _ | .finish _ | .endSession _ | .coldReset _ | .readyToken | .alarmLevel1 _
  | .alarmLevel2 _ | .alarmLevel3 _ | .linkTrain _ _ | .trainingStepTimeout _ _ | .circuitCrcFail _ _ | .linkdn _ _
  | .flitCrcFail _ | .rdreq _ _ | .rdrsp _ _ | .wrreq _ _ | .wrack _ _ | .atreq _ _ | .atrsp _ _ | .msg _ _
  | .msgack _ _ | .grnreq _ _ | .grnrsp _ _ | .rel _ _ | .credit _ _ | .retractComplete _ | .fixbOpenAck _ _
  | .configurationLoadComplete _ | .imageValidationComplete _ | .readoutComplete _ | .restoreComplete _
  | .freezeArrival _ | .thawArrival _ | .groupRequestArrival _ => none

end Sys2Proof
end

