-- ==== Sys2Proof/Machine/Types.lean ====
section
/-! DEFINITION. The data the machine's state is made of: tokens, element state, accesses, engine requests, relations' and
messages' records, runs. Plain data throughout. -/

namespace Sys2Proof.Machine

/-! ## Tokens (04 R59 to R62) -/

/-- Markers (04 R62); the code of a marker is its place in this list. -/
inductive Mark where
  | data | last | last2 | eot | eos | ctrl | steer | poison
  deriving DecidableEq, Repr

/-- A token of either kind. A scalar token's DATA is lane 0 of `data`, its other lanes are zero, its `lmask` is 1. SKIP counts
the elided positions just before it (04 R64). -/
structure Token where
  vec   : Bool
  data  : Line
  lmask : BitVec 16
  mark  : Mark
  skip  : Nat
  chan  : Nat
  deriving DecidableEq, Repr

/-- A position at the head of an input: an elided zero or a token (04 R66). -/
inductive Pos where
  | elided
  | tok (t : Token)
  deriving DecidableEq, Repr

/-- One result on its way to an output. Output 0 is CONA, 1 is CONB, k is route RTk of an MDRAIN. -/
inductive Emit where
  /-- A token; it leaves with the output's pending skip count. -/
  | tok (out : Nat) (t : Token)
  /-- `n` elided zeros (04 R64) on channel `chan`. -/
  | elide (out n : Nat) (vec : Bool) (chan : Nat)
  deriving DecidableEq, Repr

def Emit.out : Emit → Nat
  | .tok k _ => k
  | .elide k _ _ _ => k

/-- A generator binding with its position (10 R187 to R189). -/
structure Binding where
  base    : Nat
  offset  : W64
  nloop   : Nat
  dir     : Bool
  chan    : Nat
  counts  : List Nat
  strides : List Int
  /-- Addresses generated so far. -/
  pos     : Nat
  ended   : Bool
  deriving DecidableEq, Repr

/-- What undoes the advance of a generator (21 R359): port, generator, its active binding before, whether the next binding took
its place. -/
structure GenUndo where
  port    : Nat
  ag      : Nat
  before  : Option Binding
  shifted : Bool
  deriving DecidableEq, Repr

/-- A place in an element's ordered results: a return-buffer place of a port element (13 R268), or results that still wait for
their cycle. -/
structure OutItem where
  rid   : Nat
  ready : Bool
  emits : List Emit
  /-- Accesses that still have to reply for this place. -/
  parts : Nat
  /-- Positions that the firing consumed, by input, and the generator it advanced (21 R359). -/
  takes : List (Nat × Pos)
  gen   : Option GenUndo
  /-- A LOST reply that traps FADDLOST when it reaches the port: address and old value (13 R274). -/
  lost  : Option (Nat × W64)
  deriving DecidableEq, Repr

/-! ## Traps and load faults -/

/-- Load-fault codes (09 R182). -/
inductive LoadCode where
  | badhdr | badopc | badsite | badcon | badslot | badfmt | badtx | badpos | badcarve | badring | badstrat | badneg | badrule
  | badlanes
  deriving DecidableEq, Repr

/-- A load fault with the place at which the check failed: block and instruction index; or, as block 256, a sequence word and its
index. -/
structure LoadFault where
  code  : LoadCode
  block : Nat
  index : Nat
  deriving DecidableEq, Repr

/-- U-level traps, and BREAK and HNEST (21 R358). -/
inductive Trap where
  | seqrange | seqovf | sequnf | seqtrap | swapempty | loadflt | strqfull | fixgrp | fixlost
  | stray | deadlock | markskew | wodup | txcap | strmovr | packerr | robpart
  | badctrl | drainrt | mopfpart | topklen | attnrange | evictn
  | relhdr | relkind | relfull | relbusy | relnofix | relrule | relwide | rpartfull | graddeep | noowner | relrange | relcol
  | misalign | faddlost | xferpkt | stashrec | stashfull | stashhdr | wpinned | pinfull | pinerr
  | barneg | bargrp | usrtrap | brk | priv | hnest
  deriving DecidableEq, Repr

/-- Translation and grant faults (21 R358). -/
inductive XFault where
  | noncanon | notmapped | rights | ptebad | hostdeny | walkpoison | grantdeny
  deriving DecidableEq, Repr

/-! ## State of one element -/

/-- An accepted matrix operation (12 R235). Clocks count the cycles in which the run is resident and not frozen; `groups` K-groups of
its products stand in the accumulators (12 R232). -/
structure MmaOp where
  ctrl     : W32
  rmask    : W32
  aAddr    : W32
  aChan    : Nat
  bAddr    : W32
  bChan    : Nat
  poisoned : Bool
  started  : Option Nat
  groups   : Nat
  deriving DecidableEq, Repr

/-- A drain (12 R239): the accumulators left, the first of them the one in hand; its word position; what is read ahead. -/
structure Drain where
  accs     : List Nat
  /-- Tokens of the accumulator in hand emitted, and read. -/
  pos      : Nat
  fetched  : Nat
  rtmask   : Nat
  /-- Tokens read ahead of emission (at most four), each its words; none: a word with an uncorrectable error. -/
  read     : List (List (Option W32))
  /-- The accumulator in hand is being read. -/
  begun    : Bool
  /-- The completion token has been consumed. -/
  taken    : Bool
  poisoned : Bool
  /-- On vector routes. -/
  vec      : Bool
  deriving DecidableEq, Repr

/-- A pass of a CTR (04 R71). -/
structure CtrPass where
  pos : Nat
  n   : Nat
  mark : Mark
  deriving DecidableEq, Repr

/-- The state an element's operation keeps from one firing to the next (10 R205, 11 R231, 12 R232). -/
inductive Ctl where
  | none
  /-- CMERGE: the input taken last was i1; the inputs closed by an EOS. -/
  | cmerge (lastOne : Bool) (closed : List Nat)
  /-- MERGE: the selector already consumed: the input it names, and whether it was POISON. -/
  | merge (sel : Option (Nat × Bool))
  /-- GATE: open; positions left (count form); after the EOS of i0. -/
  | gate (isOpen : Bool) (left : Nat) (ended : Bool)
  /-- CTR: the pass under way; root iterations emitted; EOS sent. -/
  | ctr (pass : Option CtrPass) (root : Nat) (ended : Bool)
  /-- A count: DROP's positions, CONSTK's next word, MOPF's or ATTNACC's arrival number. -/
  | count (n : Nat) (flag : Bool)
  /-- ACC latch (10 R204): total, whether anything was folded since the last flush, poisoned. -/
  | accum (total : W32) (folded poisoned : Bool)
  /-- VRED latch S and its empty bit (11 R216); poisoned; something pending at EOS. -/
  | fold (s : Option W32) (poisoned pending : Bool)
  /-- VSCAN carry. -/
  | scan (carry : Option W32)
  /-- VMAXR latch M (11 R218). -/
  | maxr (m : Line)
  /-- VPACK: positions taken so far. -/
  | pack (held : List Pos)
  /-- ROB (11 R230): positions of the window that fills; of the window that is emitted, 0 when there is none; the next place of it;
  the half of the operand bank that fills. -/
  | rob (fill emit next half : Nat)
  /-- MMA: accepted operations, oldest first; start time and P of the previous start (12 R236). -/
  | mma (ops : List MmaOp) (last : Option (Nat × Nat))
  | drain (d : Option Drain)
  /-- RSCAN: next slot; the tuple held back until it is known whether it is the last; ended. -/
  | rscan (next : Nat) (held : Option Token) (ended : Bool)
  /-- HPROBE: the tuple that probes, the next slot, slots visited, the match held back. -/
  | probe (t : Option Token) (next seen : Nat) (held : Option Token)
  /-- RPART: the window that fills; the results still to leave. -/
  | rpart (filling : List Token) (emits : List (Bool × Token)) (eos : Bool)
  /-- TOPKB: the scores so far, absent lanes as none; a POISON among them. -/
  | topk (scores : List (Option W32)) (poisoned : Bool)
  /-- BARJ: party count N, arrivals C, phase, releases left to emit, ended, discarding i1. -/
  | barj (n c phase left : Nat) (ended : Bool)
  /-- BRK: the THAW that lets the firing happen has come. -/
  | brk (pass : Bool)
  /-- STASH: the open record's request. -/
  | stash (req : Option Nat)
  deriving DecidableEq, Repr

/-- What an abort of a TX wave brings back for one element (03 R52): its state before the firing of that wave, the positions that the
firing took from outside the block (0 the ingress channel, n a completion channel, 16 + p a stream port), the generators it
advanced, and the identifier counter of that moment, which tells earlier accesses from later ones. -/
structure Snap where
  wave   : Nat
  ctl    : Ctl
  latch  : Token
  eos    : List Nat
  ended  : Bool
  finished : Bool
  source : List (Nat × Pos)
  gens   : List GenUndo
  nextId : Nat
  deriving DecidableEq, Repr

/-- The bank state of one configured element (03 R45, 09 R171). -/
structure Elem where
  /-- Queues i0 to i3. -/
  q       : List (List Token)
  /-- Pending skip counts, one for each output (04 R64). -/
  pend    : List Nat
  ctl     : Ctl
  out     : List OutItem
  /-- Inputs on which an EOS has been consumed (03 R36). -/
  eos     : List Nat
  /-- The element makes no further firing in this configuration. -/
  ended   : Bool
  /-- A sink: it has finished (03 R36). -/
  finished : Bool
  /-- Cycle of its last firing, plus one. -/
  firedAt : Nat
  /-- Firings made, for the waves of a TX block (03 R49). -/
  fires   : Nat
  snaps   : List Snap
  /-- The stage latch (02 R16): the last result formed. ACC and its marker (R15): the running total of an accumulator, else the last
  result. -/
  latch   : Token
  deriving DecidableEq, Repr

/-! ## A loaded configuration -/

/-- A block as the loader placed it: header, words, channel map bytes, pool, place, elements (09 R168). -/
structure Blk where
  hdr   : BitVec 128
  words : List W64
  cmap  : List Byte
  pool  : List W64
  page  : Nat
  quad  : Nat
  elems : List Elem
  /-- TX: waves committed; counted aborts since the last commit; the wave that runs serialised (03 R51, R53). -/
  committed : Nat
  aborts    : Nat
  serial    : Option Nat
  deriving DecidableEq, Repr

/-- A carved range of a tile store (07 R131, 09 R403): tile within the page, kind 0 bank, 1 QUEUE, 2 write-once. -/
structure Carve where
  page   : Nat
  tile   : Nat
  kind   : Nat
  shared : Bool
  baseK  : Nat
  lenK   : Nat
  info   : W64
  deriving DecidableEq, Repr

/-- A write-once buffer in use (04 R73): the input it feeds, as block, index and input; its page, tile, base and length in KiB as
carved; the presence bits; how many words the write port has written in this round, and how many the
read port has read (log 103). -/
structure WoBuf where
  blk   : Nat
  idx   : Nat
  inp   : Nat
  page  : Nat
  tile  : Nat
  baseK : Nat
  lenK  : Nat
  present : List Nat
  wpos  : Nat
  rpos  : Nat
  deriving DecidableEq, Repr

/-- A VK register as loaded (02 R16): tile within the page, register. -/
structure VkReg where
  page : Nat
  tile : Nat
  reg  : Nat
  val : Line
  deriving DecidableEq, Repr

/-- A configuration in a plane. -/
structure Loaded where
  cfg    : Nat
  /-- Rule number it was started with (0 under CONF) and FULL (12 R244). -/
  rule   : Nat
  full   : Bool
  chans  : List W32
  scales : List W32
  ctabs  : List W64
  ports  : Nat
  carves : List Carve
  bufs   : List WoBuf
  /-- The carved ranges as the load left them, keyed by logical page (09 R171). -/
  atLoad : List Host.Cell
  vks    : List VkReg
  blks   : List Blk
  /-- Iteration count latched by CONF (10 R190). -/
  iters  : Nat
  /-- Start number: which start of a configuration of the run this is; 0 while it has not started. -/
  serial : Nat
  running : Bool
  /-- Cycle in which its last sink finished (03 R36). -/
  doneAt : Option Nat
  /-- Done has been registered (03 R36, R37). -/
  registered : Bool
  stray  : Bool
  /-- Where it was started (03 R39): the controllers around it, outermost first, each as the number of its start, the place after
  its LOOP and the count of its iteration; and the place of its CONF or RULE. -/
  path   : List (Nat × Nat × Nat)
  sqc    : Nat
  deriving DecidableEq, Repr

/-- An accumulator tile An of a node, 1,024 words, row-major (02 R17); `bad`: words with an uncorrectable error (22 R362). -/
structure AccTile where
  page : Nat
  tile : Nat
  n    : Nat
  vals : List W32
  bad  : List Nat
  deriving DecidableEq, Repr

/-- A configuration plane with its bank (03 R45). -/
structure Plane where
  loads : List Loaded
  accs  : List AccTile
  /-- A background load of this plane that has not completed: the configuration index (03 R46). -/
  loading : Option Nat
  /-- The load fault of the last SHADOW of this plane (09 R183). -/
  fault : Option LoadFault
  /-- A reload after a configuration-store error: the cycle at which its last word arrives, the CRC-32C of its words (22 R363). -/
  reload : Option (Nat × Nat)
  deriving DecidableEq, Repr

/-! ## Run state -/

/-- Run states (03 R31). -/
inductive RunState where
  | pending | resident | frozen | retired
  deriving DecidableEq, Repr

/-- Why a run is frozen: what will let it go on (19 R331, 21 R359 to R361, 22 R363). -/
inductive Hold where
  | none
  /-- A FREEZE, or a fault in the supervisor ring: THAW resumes it. -/
  | supervisor
  /-- The handler runs (21 R360). -/
  | handler
  /-- A configuration-store reload; true: a freeze came meanwhile (22 R363, R364). -/
  | reload (frozen : Bool)
  /-- In the inactive planes (19 R332). -/
  | inactive
  /-- Read out to a run record; its pages are free (19 R333). -/
  | readout
  deriving DecidableEq, Repr

/-- A level of the loop stack (03 R34, R39). -/
structure LoopLevel where
  count : Nat
  ret   : Nat
  kind  : Nat
  depth : Nat
  /-- Which start of a controller of the run this is. -/
  id    : Nat
  deriving DecidableEq, Repr

/-- A child of a pipelined or streaming controller (03 R39): the place of its CONF or RULE; iterations of it started, and drained. -/
structure Kid where
  at_     : Nat
  started : Nat
  drained : Nat
  deriving DecidableEq, Repr

/-- What the escapement's waiting word has already done (03 R32, R55, R56). -/
inductive Wait where
  | idle
  /-- A JOIN, LEAVE or LAUNCH whose request, of the number given, has left (the sent bit). -/
  | sent (req : Nat)
  /-- A CONF or RULE whose configuration is being loaded. -/
  | loading
  /-- FIXB: the opening requests, per relation sent and answered. -/
  | opening (acks : List (Bool × Bool))
  /-- FIXB or FIXE: the combining sum has left. -/
  | sum
  /-- FIXB: the sum came back nonzero, in the cycle given; it repeats 64 cycles later (12 R243). -/
  | retry (at_ : Nat)
  /-- ROTATE: per relation, sent and acknowledged. -/
  | rotating (acks : List (Bool × Bool))
  /-- RETRACT: the relational engine works (12 R246). -/
  | retracting
  /-- SWAP: the cycle from which the forty cycles count (03 R47). -/
  | swapping (from_ : Nat)
  /-- LOOP of a pipelined or streaming controller that starts its children: its start number, its count, the children (03 R39; log 62). -/
  | control (id count : Nat) (kids : List Kid)
  deriving DecidableEq, Repr

/-- The escapement (03 R28, R30, 21 R360). -/
structure Esc where
  sqc   : Nat
  /-- G0 to G63; entry 0 is zero and never written. -/
  g     : List W64
  loops : List LoopLevel
  flags : W64
  iterCount : Nat
  iterDone  : Nat
  /-- E0 to E7, queues of four tokens. -/
  e     : List (List Token)
  wait  : Wait
  /-- When the request left that the word waits for, in cycles of the run (R56). -/
  sentAt : Nat
  /-- Handler state: saved G62, G63 and SQC; whether SQC moves on by one when it ends (SEQTRAP); what the word at that SQC had
  already done (03 R55). -/
  handler : Option (W64 × W64 × Nat × Bool × Wait)
  issuedAt : Nat
  /-- How many configurations the run has started. -/
  starts : Nat
  /-- Group of the last FIXB (12 R241). -/
  fix   : Option (BitVec 20)
  /-- How many controllers the run has started. -/
  pushes : Nat
  deriving DecidableEq, Repr

/-- Registers 0x013 to 0x016 of a run (19 R328). -/
structure RunRegs where
  prio    : BitVec 3
  handler : W64
  hsqc    : BitVec 24
  debug   : Bool
  deriving DecidableEq, Repr

/-- A generator AGk of a port: active binding and up to three pending (10 R189). -/
structure Gen where
  active  : Option Binding
  pending : List Binding
  deriving DecidableEq, Repr

/-- The region of a run (20 R338, R345, R347). -/
structure Region where
  rows : Nat
  cols : Nat
  /-- Physical pages, logical page k at place k. -/
  pages  : List Nat
  /-- Physical port tiles bound to pt0 and on. -/
  ports  : List Nat
  /-- Cache tiles bound to ct0 to ct7. -/
  caches : List Nat
  gens   : List (List Gen)
  deriving DecidableEq, Repr

/-- What a Skid buffer holds (04 R74): a token as it is, or a group, open or closed, of DATA tokens packed into 128 bytes. -/
inductive SkidItem where
  | plain (t : Token)
  | group (ts : List Token) (closed : Bool)
  deriving DecidableEq, Repr

/-- A trap or fault that froze a run, for a freeze that falls in the same cycle (19 R331, 21 R361): the cycle, the escapement before it, the
place of its record in the die's ring, whether it is no trap. -/
structure Caught where
  at_   : Nat
  esc   : Esc
  ring  : Option Nat
  fault : Bool
  deriving DecidableEq, Repr

/-- A run (03 R28). -/
structure Run where
  id    : Nat
  slot  : Nat
  image : Nat
  die   : Nat
  st    : RunState
  hold  : Hold
  esc   : Esc
  regs  : RunRegs
  region : Region
  p0    : Plane
  p1    : Plane
  /-- The active plane is plane 1. -/
  activeOne : Bool
  /-- Closed phase gates (08 R157): start number of the configuration before it; under a pipelined or streaming controller the
  child whose own gate it is. -/
  gates  : List (Nat × Option Nat)
  /-- Memberships (03 R42): group names. -/
  groups : List (BitVec 20)
  selfs  : List (Nat × BitVec 20)
  /-- Pass number of the combining sums of groups of other modules (03 R56). -/
  passes : List (BitVec 20 × Nat)
  sent   : Nat
  applied : Nat
  promoted : Nat
  base   : Nat × Nat
  /-- Ingress port that launched it, as die and port; its egress ring (24 R382). -/
  ingress : Option (Nat × Nat)
  ring   : Nat
  /-- Tokens of ingress channel 0 (13 R291). -/
  inq    : List Token
  /-- Completion channels 1 to 15. -/
  comps  : List (List Token)
  /-- Pinned write to report at the next gate: port and address (07 R138). -/
  pinned : Option (Nat × Nat)
  /-- Cycles resident and not frozen (13 R297). -/
  cycles : Nat
  /-- Watchdog count; the cycle in which its probe left, and the element that it left from, none for the escapement (04 R76). -/
  idle   : Nat
  probing : Option (Nat × Option ElemRef)
  /-- Arbor (20 R344, R345): moved by a compaction, cycle it entered its queue, ageing steps, cycle it was placed, quantum done, the
  waiting head that it was backfilled ahead of. -/
  moved : Bool
  queuedAt : Nat
  aged     : Nat
  residentAt : Nat
  quantum  : Bool
  backfill : Option Nat
  /-- A freeze, thaw, readout or restore on its way: which, and the element that asked. -/
  orders : List (Nat × Option (ElemRef × Nat))
  /-- Where its run record is, or is to be written (19 R333): the slot of the context whose virtual address it is, none for an
  address of HBM; the address. -/
  record : Option (Option Nat × Nat)
  /-- Tile stores of a run that is read out, keyed as in 07 R128 with the logical page in place of the physical one and die 0;
  words of them with an uncorrectable error. -/
  saved  : List Host.Cell
  savedBad : List Nat
  /-- Skid buffers between STRMO and STRMI, by stream port (04 R74, 13 R292). -/
  skid   : List (Nat × List SkidItem)
  caught : Option Caught
  /-- It has been RESIDENT (03 R30). -/
  been   : Bool
  deriving DecidableEq, Repr

/-! ## Images -/

/-- A configuration-table entry (09 R403), lists as words. -/
structure CfgImage where
  chans  : List W32
  scales : List W32
  ctabs  : List W64
  ports  : Nat
  blocks : List (List W64)
  carves : List (W64 × W64)
  vks    : List (List W64)
  pres   : List (W64 × W64)
  deriving DecidableEq, Repr

/-- A body atom of a chain (12 R405): relation, 0 scan 1 probe 2 negate, the word of the element with its pool. -/
structure Atom where
  rel   : Nat
  kind  : Nat
  /-- Probe: pairs of input column and relation column. Negate: column map in column order. -/
  pairs : List (Nat × Nat)
  deriving DecidableEq, Repr

/-- A rule (12 R244, R405). -/
structure RuleRec where
  num   : Nat
  head  : Nat
  atoms : List Atom
  /-- Column map of the head: input column of each key column. -/
  cols  : List Nat
  deriving DecidableEq, Repr

/-- A validated image (09 R184, 20 R338, R339). -/
structure Image where
  slot  : Nat
  addr  : Nat
  pgh   : Nat
  pgw   : Nat
  nport : Nat
  seq   : List W64
  /-- Number of entries of its configuration table. -/
  ncfg  : Nat
  streams : List Line
  rlists : List (Nat × List Nat)
  gtab  : List W64
  rules : List RuleRec
  /-- Matching LOOP and ENDL words (03 R34). -/
  loops : List (Nat × Nat)
  /-- Data contents: place in the image and length in bytes; virtual address of the data segment. -/
  doff  : Nat
  dlen  : Nat
  dva   : Nat
  deriving DecidableEq, Repr

/-! ## Accesses, engines, points -/

/-- Kinds of access (08 R150, 13 R265 to R299). -/
inductive AccKind where
  | load | acquire | store | release | ldsync | sete
  | atomic (op : Nat) | fence (scope : Nat)
  | pin | unpin | snapshot
  | waita | wakea
  | xfer | stash | unstash | send | postr | probeq | cancelr
  | egress
  deriving DecidableEq, Repr

/-- Where an access stands (08 R147 to R149). -/
inductive Stage where
  | queued
  | parked
  | pending
  /-- A WAITA that holds a monitor entry, or polls (13 R276, R277); a request at a combining point or on a link. -/
  | monitor | polling | combining | flying
  /-- In an owner node's input queue. -/
  | owner
  | done
  deriving DecidableEq, Repr

/-- Where translation leads (21 R348): HBM of this module, another module, the host. -/
inductive Place where
  | hbm (phys : Nat)
  | remote (modn : Nat) (phys : Nat) (grant : W64)
  | host (addr : Nat)
  deriving DecidableEq, Repr

/-- An access of a run (08 R147). -/
structure Access where
  id    : Nat
  run   : Nat
  port  : Nat
  stamp : Nat
  /-- Place of its element, page, quadrant and tile: the order of same-cycle entries (13 R265). -/
  site  : Nat
  /-- Start number of the configuration that it belongs to. -/
  serial : Nat
  elem  : ElemRef
  rid   : Nat
  kind  : AccKind
  va    : Nat
  width : Nat
  /-- Format of the result channel; channel number and marker of the result. -/
  fmt   : Nat
  chan  : Nat
  mark  : Mark
  /-- Data or operand; expected value of an ACAS, 1 for the .st form of a fetch-and-add. -/
  data  : Line
  aux   : Line
  /-- Lane of an LDX or STX. -/
  lane  : Option Nat
  /-- Elements that the port tile gathered into this access of one line (10 R188), each its place in the return buffer, its first byte
  and its marker, `ew` bytes wide; empty for an access that does not gather. `enable`: the bytes that a gathered store writes. -/
  parts : List (Nat × Nat × Mark)
  ew    : Nat
  enable : W64
  stage : Stage
  place : Option Place
  /-- Units of a 64-byte access that have performed (08 R159), and what a load has read. -/
  units : List Nat
  got   : Line
  /-- A unit read so far was poisoned. -/
  psn   : Bool
  /-- Wake epoch recorded by a WAITA (13 R277); its next poll, or the cycle of a page request. -/
  epoch : Nat
  poll  : Nat
  /-- The walk that is under way (21 R348): the level and the table that it reads next; none: it has read nothing. -/
  walked : Option (Nat × Nat)
  /-- Combining points passed (08 R407). -/
  hops  : Nat
  /-- ATS: 0 nothing out, 1 a translation request, 2 a page request (21 R352). -/
  ats   : Nat
  /-- Wave of a TX block, when it belongs to one. -/
  wave  : Option Nat
  fault : Option (XFault × Nat)
  deriving DecidableEq, Repr

/-- A request taken by, or waiting for, an engine of a die (08 R161). -/
structure Req where
  id    : Nat
  run   : Nat
  die   : Nat
  elem  : ElemRef
  rid   : Nat
  kind  : AccKind
  va    : Nat
  packet : Line
  mark  : Mark
  chan  : Nat
  serial : Nat
  port  : Nat
  stamp : Nat
  taken : Bool
  /-- Resolved source, destination and length of an XFER; the descriptor of a STASH or UNSTASH. -/
  src   : Nat
  dst   : Nat
  len   : Nat
  desc  : Line
  /-- XFER progress (13 R287): first incomplete sector, done sectors above it; sectors in flight. -/
  first : Nat
  doneS : List Nat
  inflight : List Nat
  /-- Status to report; positions gathered; result of a checkpoint. -/
  status : Nat
  held  : List Token
  changed : Nat
  /-- Offset of the next record of a checkpoint or area and offset of a stash record. -/
  off   : Nat
  area  : Nat
  stallAt : Option Nat
  finished : Bool
  /-- Place in the order in which the engines took their requests. -/
  order : Nat
  /-- Lines whose write has performed while more of the request's writes in them may come (07 R134). -/
  opened : List Nat
  /-- A landing: the sender to answer, its request or the flit of its envelope. -/
  sender : Option (Nat × Option Flit)
  deriving DecidableEq, Repr

/-- A write in an engine write buffer (08 R147, R161). -/
structure EWrite where
  id    : Nat
  req   : Nat
  run   : Nat
  die   : Nat
  slot  : Nat
  va    : Nat
  bytes : List Byte
  poison : Bool
  /-- Engine writes of transfer, checkpoint and landing set lines full (07 R134). -/
  sets  : Bool
  /-- The engine, by the kind of its requests; place of the request in the order in which the engines took them. -/
  eng   : AccKind
  order : Nat
  /-- It has left for another module. -/
  sent  : Bool
  /-- Element, start of the configuration, port and stamp of the request (08 R155, R157). -/
  elem  : ElemRef
  serial : Nat
  port  : Nat
  stamp : Nat
  deriving DecidableEq, Repr

/-- A binding of the owner engine (13 R275). -/
structure Owner where
  die  : Nat
  run  : Nat
  slot : Nat
  rel  : Bool
  base : Nat
  log2 : Nat
  deriving DecidableEq, Repr

/-- A request at an owner node (06 R116, R118, 12 R243, R245). -/
inductive OwnKind where
  | insert | agg | atomic (acc : Nat) | combined (rec : Nat)
  deriving DecidableEq, Repr

structure OwnMsg where
  die   : Nat
  input : Nat
  run   : Nat
  slot  : Nat
  kind  : OwnKind
  rel   : Nat
  key   : BitVec 128
  wgt   : W32
  wit   : W32
  /-- The run that held the binding when the message left; the cycle in which it left, and the one in which it reached the owner node. -/
  holder : Nat
  stamp : Nat
  arrived : Option Nat
  /-- Writes of an update under way that have still to perform, each within one line (08 R158). -/
  todo : List (Place × List Byte)
  deriving DecidableEq, Repr

/-- A relation held open by its owner node (06 R106, 12 R243). -/
structure RelHold where
  slot  : Nat
  addr  : Nat
  hdr   : Line
  group : BitVec 20
  deriving DecidableEq, Repr

/-- An entry of the version table (07 R137). -/
structure VEntry where
  slot : Nat
  hdr  : Nat
  ver  : W32
  base : Nat
  extent : Nat
  pins : Nat
  deriving DecidableEq, Repr

/-- Who a Boom record must answer (08 R165, R166). -/
inductive Requester where
  | acc (id : Nat)
  | boom (id : Nat)
  | flit (link : Nat) (f : Flit)
  /-- A write of the host ingress queue, an engine write, a line that an engine reads for a request. -/
  | host (id : Nat)
  | ewrite (id : Nat)
  | fetch (req va : Nat)
  /-- A place in the results of an element, for an arrival at another module's barrier. -/
  | place (e : ElemRef) (rid : Nat)
  /-- A JOIN or LEAVE, and the combining sum of a run, at another module's group. -/
  | group (req : Nat)
  | sum (run : Nat)
  deriving DecidableEq, Repr

/-- A Boom record (08 R165). -/
structure BoomRec where
  id     : Nat
  point  : Nat
  place  : Place
  slot   : Nat
  va     : Nat
  op     : Nat
  /-- Requester, increment, cycle of arrival, input. -/
  members : List (Requester × W64 × Nat × Nat)
  opened : Nat
  closed : Bool
  /-- Requests it stands for. -/
  nreq   : Nat
  sent   : Bool
  reply  : Option W64
  lost   : Bool
  /-- The word was poisoned: every requester receives POISON (07 R146). -/
  psn    : Bool
  deriving DecidableEq, Repr

/-- A TLB entry (21 R350): none in `port` for the die TLB. -/
structure TlbEntry where
  die  : Nat
  port : Option Nat
  slot : Nat
  base : Nat
  size : Nat
  pte  : W64
  grant : W64
  deriving DecidableEq, Repr

/-- A line of a wave's line set (03 R50). -/
structure TxLine where
  addr  : Nat
  wrote : Bool
  /-- Held bytes: offset in the line and byte. -/
  bytes : List (Nat × Byte)
  deriving DecidableEq, Repr

/-- An uncommitted wave (03 R49 to R53). -/
structure Wave where
  blk   : BlkRef
  k     : Nat
  lines : List TxLine
  /-- Tokens that leave the block when the wave commits: 0 to 7 an escapement input, 16 + p a stream port. -/
  ext   : List (Nat × Token)
  /-- Flags that its firings and atomics raise when it commits (03 R52, R54). -/
  flags : W64
  /-- The element that fired first in it. -/
  first : Nat
  deriving DecidableEq, Repr

/-- A reuse slot (07 R140). -/
structure DSlot where
  die : Nat
  n   : Nat
  val : Line
  deriving DecidableEq, Repr

/-- A request at a delta engine (12 R254). -/
structure DReq where
  id   : Nat
  die  : Nat
  run  : Nat
  elem : ElemRef
  rid  : Nat
  op   : Nat
  /-- Physical slot named; the program's number. -/
  num  : Nat
  ctrl : W32
  xAddr : W32
  xChan : Nat
  wAddr : W32
  wChan : Nat
  mark : Mark
  chan : Nat
  /-- Begun; an invalidation came while it was under way. -/
  begun : Bool
  hit  : Bool
  /-- Cycle in which it reached the engine. -/
  stamp : Nat
  deriving DecidableEq, Repr

/-- An invalidation on its way (07 R138, R141, 23 R373). -/
structure Inval where
  die    : Nat
  tenant : BitVec 6
  hdr    : Nat
  ver    : W32
  deriving DecidableEq, Repr

/-- A posted receive (13 R280), and the request that posted it. -/
structure Post where
  die  : Nat
  run  : Nat
  desc : Line
  elem  : ElemRef
  serial : Nat
  port  : Nat
  stamp : Nat
  deriving DecidableEq, Repr

/-- A message (13 R279): on its way, or unexpected; the payload when it travels with its envelope. -/
structure Msg where
  die  : Nat
  src  : Nat
  dst  : Nat
  tag  : W32
  len  : Nat
  bytes : List Byte
  /-- Poisoned lines of the payload. -/
  poison : List Nat
  req  : Nat
  refused : Bool
  /-- Cycle of the refusal. -/
  since : Nat
  /-- A long message matched and waiting for its pull: the receive. -/
  matched : Option Post
  /-- From another module: the envelope flit, to answer. -/
  back : Option Flit
  deriving DecidableEq, Repr

/-- A line of another module's memory that an engine reads for a request: asked for, then had, with its poison. -/
structure Fetch where
  req : Nat
  va  : Nat
  got : Option (Line × Bool)
  deriving DecidableEq, Repr

/-- An entry of a cache tile (12 R261): listed entries are LIVE. -/
structure CacheEntry where
  die  : Nat
  tile : Nat
  slot : Nat
  idx  : Nat
  cnt  : W32
  stamp : Nat
  deriving DecidableEq, Repr

/-- The allocation count of a cache (12 R263), by its base entry. -/
structure CacheCount where
  die  : Nat
  tile : Nat
  base : Nat
  n    : Nat
  deriving DecidableEq, Repr

/-! ## Groups -/

/-- A contribution to a combining sum of a group (06 R122): the run's identity, its part, whether it is that of a FIXE, the flit to answer
when it came from another module. -/
structure Contrib where
  run : Nat
  n   : Nat
  bal : Int
  atEnd : Bool
  back : Option Flit
  deriving DecidableEq, Repr

/-- A group at its home module (03 R42, 13 R293). -/
structure Group where
  num     : BitVec 12
  /-- Identities in the domain (03 R29). -/
  members : List Nat
  /-- The open fixpoint: members that have passed FIXB, sums so far, quiet passes, relations still to close. -/
  fixOpen : Bool
  sums    : List Contrib
  quiet   : Nat
  /-- Barrier arrivals of this phase: the run's identity and whom to release; the identities that dropped; phase number; the cycle of the
  last arrival. -/
  arrivals : List (Nat × Requester)
  drops   : List Nat
  phase   : Nat
  lastAt  : Nat
  /-- Pass number of the combining sums and the totals of the pass before: sums and whether the stratum ended (03 R56). -/
  pass    : Nat
  totals  : Nat × Int × Bool
  /-- Pre-empted as a unit (03 R57). -/
  unit    : Bool
  deriving DecidableEq, Repr

/-- A JOIN or LEAVE on its way or answered (03 R43); `far`: it has left for another module. -/
structure GroupReq where
  id    : Nat
  run   : Nat
  far   : Bool
  join  : Bool
  group : W64
  arrived : Bool
  status : Nat
  made  : BitVec 20
  deriving DecidableEq, Repr

/-! ## Launch and host -/

/-- A launch in the dispatcher (20 R340 to R343). -/
structure Launch where
  run   : Nat
  slot  : Nat
  image : Nat
  die   : Nat
  port  : Option (Nat × Nat)
  /-- Request of the LAUNCH word that asked. -/
  by_   : Option Nat
  args  : List W64
  prio  : Nat
  /-- Egress ring of its channel 0 (24 R382). -/
  ring  : Nat
  deriving DecidableEq, Repr

/-- An ingress port that is not in its reset state (20 R340). -/
structure HPort where
  die   : Nat
  port  : Nat
  words : List W64
  run   : Option Nat
  ident : Nat
  lstat : Nat
  /-- Tokens that hold a credit. -/
  used  : Nat
  deriving DecidableEq, Repr

/-- An item of the host ingress queue (08 R147, R163). -/
structure HostItem where
  id    : Nat
  /-- A write: slot, address, bytes; or a token: die, port, word. -/
  write : Bool
  a     : Nat
  b     : Nat
  bytes : List Byte
  word  : W64
  /-- The line in hand has left for another module. -/
  sent  : Bool
  deriving DecidableEq, Repr

/-- A token in a host egress queue (08 R164). -/
structure EgTok where
  slot  : Nat
  ring  : Nat
  run   : Nat
  word  : W64
  /-- Entry-earlier releases and SYSTEM fences that had not performed when it performed. -/
  before : List Nat
  stamp : Nat
  /-- The index of a fault record (19 R330): the die that wrote it. -/
  fault : Option Nat
  deriving DecidableEq, Repr

/-- An egress ring that is not zero (24 R382). -/
structure Ring where
  slot : Nat
  ring : Nat
  val  : BitVec 128
  deriving DecidableEq, Repr

/-- A registered context (19 R327, 20 R341). -/
structure Ctx where
  slot : Nat
  desc : Line
  deriving DecidableEq, Repr

/-- A tenant-table entry that is not zero (23 R370). -/
structure Tenant where
  n   : Nat
  val : BitVec 128
  deriving DecidableEq, Repr

/-- A Chigan link (24 R384 to R387). -/
structure Link where
  stat   : W32
  /-- LNKCFG.CIRC. -/
  circ   : BitVec 4
  /-- The link error count: flits of an unknown TYPE. No event of the opcode table delivers one. -/
  errs   : Nat
  /-- Cycles of the MAC failures by source module (21 R356). -/
  macs   : List (Nat × Nat)
  /-- Credits of the packet plane (TYPE CREDIT). -/
  credits : Nat
  deriving DecidableEq, Repr

/-- An entry of the circuit table (24 R386): the circuit group of a link, out of a STRMO or in to a STRMI of the image at an address of a
context; its credits. -/
structure Circuit where
  link  : Nat
  group : Nat
  out   : Bool
  slot  : Nat
  image : Nat
  port  : Nat
  credits : Nat
  deriving DecidableEq, Repr

/-- A request to another module that awaits its reply, by tag (24 R387). -/
structure Tag where
  tag  : Nat
  modn : Nat
  what : Requester
  /-- A GRANT element's request instead: element and place. -/
  grant : Option (ElemRef × Nat × Nat)
  deriving DecidableEq, Repr

/-- SPDM responder state (23 R376). -/
structure Spdm where
  /-- 0 nothing, 1 version, 2 capabilities, 3 algorithms negotiated. -/
  conn    : Nat
  /-- 0 none, 1 key exchange answered, 2 session open. -/
  session : Nat
  /-- Responses given, newest first: response code and body. -/
  replies : List (Byte × List Byte)
  deriving DecidableEq, Repr

/-- Registers and rings of a die (19 R328, 22 R367). -/
structure Die where
  faultchan : W64
  reusebase : W64
  reusesize : W64
  errlog    : W64
  errLost   : W32
  errWritten : W32
  /-- WRITTEN when `die.errlog` was last written: entries since then are the ones that can be lost (22 R367). -/
  errMark   : W32
  /-- Fault records written to the ring (19 R330). -/
  faults    : Nat
  /-- Records whose index has been delivered: the slot, ring and position of that index, none for a record whose index no ring carries
  (log 18). -/
  unread    : List (Option (Nat × Nat × Nat))
  /-- Newest error-log entry: code, domain, address, time, merge count. -/
  newest    : Option (Nat × Nat × Nat × Nat × Nat)
  /-- Epoch of each wake bucket that has moved. -/
  epochs    : List (Nat × Nat)
  /-- The block that holds the serialising lock (03 R53). -/
  lock      : Option BlkRef
  /-- The last request that the owner node applied: the cycle, the cycle in which it had arrived, its input (06 R118). -/
  applied   : Option (Nat × Nat × Nat)
  deriving DecidableEq, Repr

/-- A monitor-table entry (13 R276): a WAITA of this module, by its access, or of another, by its flit. -/
structure Monitor where
  die  : Nat
  who  : Requester
  phys : Nat
  /-- The value that it waits to change. -/
  val  : W32
  deriving DecidableEq, Repr

/-- Alarm state (23 R377, R378): the level that holds (0 to 3). -/
structure Alarm where
  level : Nat
  deriving DecidableEq, Repr

/-- A WRSYS that takes effect at the end of its cycle (13 R298): run, register, value, low word only. -/
structure RegWrite where
  run : Nat
  reg : Nat
  val : W64
  low : Bool
  deriving DecidableEq, Repr

/-- A TLBINV request (21 R353): low and high word, started. -/
structure TlbReq where
  lo : W64
  hi : W64
  started : Bool
  /-- Accesses translated through a dropped entry that had not performed when it was dropped. -/
  waits : List Nat
  deriving DecidableEq, Repr

/-- An ATS invalidation whose completion is owed (24 R383). -/
structure AtsReq where
  pasid : Nat
  waits : List Nat
  deriving DecidableEq, Repr

end Sys2Proof.Machine
end

