-- ==== Sys2Proof/Machine/State.lean ====
section
/-! DEFINITION. The whole state of a module as plain data, its value after reset, and the reasons a step may stop. -/

namespace Sys2Proof.Machine

/-- Why the machine stops. -/
inductive Fault where
  /-- Raised by step only: a word of the loader's validated copy decodes to no instruction. 09 R183 says that no such word ever
  executes; a state that holds one is reached by no load. Safe: nothing is proved about what follows. -/
  | undecodable
  deriving DecidableEq, Repr

/-- Why an instruction has no meaning. -/
inductive Refusal where
  /-- Raised by an arm of exec for an instruction not modelled. Safe: nothing is proved about what follows. -/
  | notModelled (mnemonic : String)
  deriving DecidableEq, Repr

/-- What moves next (log 1): the escapement of a run, an element, an event, the end of the fabric cycle; a walk that reads its next entry
(21 R348); a word of a circuit group that comes in from the partner, a token or, none, a credit (24 R386). -/
inductive Turn where
  | word (run : Nat)
  | fire (e : ElemRef)
  | event (i : Instr)
  | tick
  | walk (acc : Nat)
  | circuit (link group : Nat) (word : Option Token)
  deriving DecidableEq, Repr

/-- Which run, and which element of it, the instruction that executes belongs to. -/
structure Focus where
  run  : Nat
  elem : Option ElemRef
  deriving DecidableEq, Repr

/-- Memories (07 R128, R133, R146). Cells are in canonical form: addresses strictly rising, no entry equal to the blank byte.
`codes` holds the CODE of each 128-byte block of HBM in the same form, `notFull` lists the 64-byte lines whose full-empty bit is clear,
`poison` the poisoned lines. -/
structure Mems where
  hbm   : List Host.Cell
  host  : List Host.Cell
  /-- Tile stores: byte address + 2^17 × (tile + 64 × (page + 48 × die)). -/
  store : List Host.Cell
  /-- What bytes of the tile stores held before the writes of this cycle: a read of the cycle returns it (02 R19). -/
  storeOld : List Host.Cell
  notFull : List Nat
  poison  : List Nat
  codes   : List Host.Cell
  /-- Lines that engine writes set full in this cycle: a SETE of the cycle comes before them (07 R135). -/
  fullNow : List Nat
  /-- Words of tile stores, by address divided by four, with an uncorrectable error (22 R362). -/
  storeBad : List Nat
  deriving DecidableEq, Repr

/-- The ordering machine (08 R147): accesses in entry order and the points where they take effect. -/
structure Order where
  accs    : List Access
  reqs    : List Req
  wbuf    : List EWrite
  owners  : List Owner
  ownq    : List OwnMsg
  rels    : List RelHold
  vtab    : List VEntry
  monitors : List Monitor
  boom    : List BoomRec
  hostq   : List HostItem
  egq     : List EgTok
  tlb     : List TlbEntry
  waves   : List Wave
  nextId  : Nat
  deriving DecidableEq, Repr

/-- Engines of the dies (07 R140, 12 R254, R261, 13 R279). -/
structure Engines where
  posts    : List Post
  unexpected : List Msg
  arrivals : List Msg
  /-- Lines of other modules' memory that requests have asked for. -/
  fetched  : List Fetch
  /-- CANCELRs of this cycle, by run and COOKIE, with the receive each removed (13 R284). -/
  cancels  : List (Nat × W32 × Option Post)
  /-- Receives that have matched, by run and COOKIE (13 R283, DONE). -/
  matched  : List (Nat × W32)
  slots    : List DSlot
  dreqs    : List DReq
  invals   : List Inval
  cache    : List CacheEntry
  counts   : List CacheCount
  deriving DecidableEq, Repr

/-- Launch, contexts, tenants, groups (20, 23, 03 R42). -/
structure Admin where
  images   : List Image
  launches : List Launch
  /-- Images whose data segment has been copied, by context slot and address (20 R339). -/
  copied   : List (Nat × Nat)
  /-- Replies of the dispatcher on their way to LAUNCH words: request, status, identity (10 R194). -/
  lreplies : List (Nat × Nat × Nat)
  ports    : List HPort
  rings    : List Ring
  ctxs     : List Ctx
  tenants  : List Tenant
  tenstat  : BitVec 2
  groups   : List Group
  greqs    : List GroupReq
  tlbinv   : List TlbReq
  /-- TLBINV's DONE bit (21 R353). -/
  tlbDone  : Bool
  ats      : List AtsReq
  /-- Register writes of this cycle, oldest first (13 R298). -/
  regw     : List RegWrite
  /-- Contexts torn down in this cycle: slot, address of the report, launches discarded (20 R342). -/
  torn     : List (Nat × Nat × Nat)
  deriving DecidableEq, Repr

/-- The module's links, keys, alarms and bring-up (22 to 25). -/
structure Chip where
  bootstat : W64
  modnum   : BitVec 8
  /-- Modules of the domain other than this one. -/
  peers    : List Nat
  timeBase : Nat
  idKey    : Option (BitVec 256)
  grantKey : Option (BitVec 256)
  sessKey  : Option (BitVec 256)
  alarm    : Alarm
  /-- Held by a level-3 alarm until a cold reset (23 R378). -/
  held     : Bool
  links    : List Link
  tags     : List Tag
  /-- Flits that have left, oldest first; the replay buffers hold the latest of them (24 R387, log 9). -/
  flits    : List (Byte × Flit)
  spdm     : Spdm
  /-- The circuit table (24 R386), and what has left over the groups, oldest first: link, group, a token or a credit. -/
  circuits : List Circuit
  circOut  : List (Nat × Nat × Option Token)
  /-- Words answered to the host: BAR 4 reads, ATS requests and completions. -/
  hostOut  : List (List Byte)
  deriving DecidableEq, Repr

/-- The state of the module. -/
structure State where
  agenda : List Turn
  focus  : Option Focus
  cycle  : Nat
  /-- The model's own counter for free values (log 4). -/
  free   : Nat
  mem    : Mems
  runs   : List Run
  ord    : Order
  eng    : Engines
  adm    : Admin
  dies   : List Die
  chip   : Chip
  deriving DecidableEq, Repr

/-- A die after reset (19 R330, 22 R367; log 3 for the registers without a reset value). -/
def Die.reset : Die :=
  ⟨0, 0, 0, 0, 0, 0, 0, 0, [], none, [], none, none⟩

/-- A link after reset: DOWN (24 R384). -/
def Link.reset : Link := ⟨0, 0, 0, [], 64⟩

/-- The module right after reset, before bring-up (25 R391). -/
def State.reset : State where
  agenda := []
  focus := none
  cycle := 0
  free := 0
  mem := ⟨[], [], [], [], [], [], [], [], []⟩
  runs := []
  ord := ⟨[], [], [], [], [], [], [], [], [], [], [], [], [], 1⟩
  eng := ⟨[], [], [], [], [], [], [], [], [], [], []⟩
  adm := ⟨[], [], [], [], [], [], [], [], 0, [], [], [], true, [], [], []⟩
  dies := List.replicate 8 Die.reset
  chip := ⟨0, 0, [], 0, none, none, none, ⟨0⟩, false, List.replicate 36 Link.reset, [], [], ⟨0, 0, []⟩, [], [], []⟩

end Sys2Proof.Machine
end

