-- ==== Sys2Proof/Machine/Num.lean ====
section
/-! DEFINITION. Exact values, formats, rounding and channels (05 R80 to R96, R104): every result is formed exactly and rounded
once. -/

namespace Sys2Proof.Machine

/-! ## Exact values -/

/-- What decode returns (05 R104): a rational with its sign (so that zeros are signed), an infinity, a NaN. `sig`: signalling. -/
inductive XVal where
  | num (neg : Bool) (n d : Nat)
  | inf (neg : Bool)
  | nan (sig : Bool)
  deriving DecidableEq, Repr

/-- Bits of run.flags (02 R26). -/
abbrev Flags := W64
def fNV : Flags := 16
def fDZ : Flags := 8
def fOF : Flags := 4
def fUF : Flags := 2
def fNX : Flags := 1

/-- Cause that accompanies a rounded word (05 R104). -/
inductive Cause where
  | exact | inexact | underflowZero | quantZero
  deriving DecidableEq, Repr

namespace XVal

def zero : XVal := .num false 0 1

def ofInt (i : Int) : XVal := .num (i < 0) i.natAbs 1

def isZero : XVal → Bool
  | .num _ n _ => n == 0
  | _ => false

def isNaN : XVal → Bool
  | .nan _ => true
  | _ => false

def isNeg : XVal → Bool
  | .num s _ _ => s
  | .inf s => s
  | .nan _ => false

def neg : XVal → XVal
  | .num s n d => .num (!s) n d
  | .inf s => .inf (!s)
  | .nan g => .nan g

def abs : XVal → XVal
  | .num _ n d => .num false n d
  | .inf _ => .inf false
  | .nan g => .nan g

/-- Flags of reading operands: NV for a signalling NaN (05 R82). -/
def sigFlags (x : XVal) : Flags :=
  match x with
  | .nan true => fNV
  | _ => 0

/-- A common denominator; most denominators are powers of two. -/
def common (d e : Nat) : Nat :=
  if d % e = 0 then d else if e % d = 0 then e else d * e

/-- The exact sum (05 R64: x − x is +0 in every mode; log 13). -/
def add (x y : XVal) : XVal × Flags :=
  let f := sigFlags x ||| sigFlags y
  match x, y with
  | .nan _, _ => (.nan false, f)
  | _, .nan _ => (.nan false, f)
  | .inf s, .inf t => if s = t then (.inf s, f) else (.nan false, f ||| fNV)
  | .inf s, _ => (.inf s, f)
  | _, .inf t => (.inf t, f)
  | .num s n d, .num t m e =>
    let c := common d e
    let a := n * (c / d)
    let b := m * (c / e)
    if s = t then (.num s (a + b) c, f)
    else if a = b then (.num false 0 1, f)
    else if a > b then (.num s (a - b) c, f)
    else (.num t (b - a) c, f)

def sub (x y : XVal) : XVal × Flags := add x (neg y)

/-- The exact product; 0 × ∞ is invalid (05 R95). -/
def mul (x y : XVal) : XVal × Flags :=
  let f := sigFlags x ||| sigFlags y
  match x, y with
  | .nan _, _ => (.nan false, f)
  | _, .nan _ => (.nan false, f)
  | .inf s, .inf t => (.inf (s != t), f)
  | .inf s, .num t n _ => if n = 0 then (.nan false, f ||| fNV) else (.inf (s != t), f)
  | .num s n _, .inf t => if n = 0 then (.nan false, f ||| fNV) else (.inf (s != t), f)
  | .num s n d, .num t m e => (.num (s != t) (n * m) (d * e), f)

/-- a × b + c, exactly (05 R104). -/
def fma (a b c : XVal) : XVal × Flags :=
  let (p, f) := mul a b
  let (r, g) := add p c
  (r, f ||| g)

/-- The quotient of finite values with a nonzero divisor. -/
def divNum (x y : XVal) : XVal :=
  match x, y with
  | .num s n d, .num t m e => if m = 0 then .inf (s != t) else .num (s != t) (n * e) (d * m)
  | .inf s, .num t _ _ => .inf (s != t)
  | x, _ => x

/-- x < y for numbers and infinities; false when either is NaN. -/
def lt (x y : XVal) : Bool :=
  match x, y with
  | .nan _, _ => false
  | _, .nan _ => false
  | .inf s, .inf t => s && !t
  | .inf s, _ => s
  | _, .inf t => !t
  | .num s n d, .num t m e =>
    let a := n * e
    let b := m * d
    if s && n != 0 then (if t && m != 0 then b < a else true)
    else if t && m != 0 then false
    else a < b

/-- Equal as values: −0 and +0 are equal, a NaN equals nothing. -/
def eqv (x y : XVal) : Bool :=
  match x, y with
  | .nan _, _ => false
  | _, .nan _ => false
  | x, y => !lt x y && !lt y x

/-- x × 2^k. -/
def scale2 (x : XVal) (k : Int) : XVal :=
  match x with
  | .num s n d => if k < 0 then .num s n (d * 2 ^ k.natAbs) else .num s (n * 2 ^ k.natAbs) d
  | x => x

/-- IEEE minimum and maximum as R211 orders them: −0 below +0, a NaN gives NaN. -/
def less (x y : XVal) : Bool := lt x y || (x.isZero && y.isZero && x.isNeg && !y.isNeg)

def max (x y : XVal) : XVal × Flags :=
  let f := sigFlags x ||| sigFlags y
  if x.isNaN || y.isNaN then (.nan false, f) else if less x y then (y, f) else (x, f)

def min (x y : XVal) : XVal × Flags :=
  let f := sigFlags x ||| sigFlags y
  if x.isNaN || y.isNaN then (.nan false, f) else if less y x then (y, f) else (x, f)

end XVal

/-! ## Formats (05 R80, R81) -/

/-- Exponent bits, fraction bits, bias of a floating-point format code. -/
def fpParams : Nat → Nat × Nat × Nat
  | 0 => (8, 23, 127)
  | 1 => (8, 7, 127)
  | 2 => (5, 10, 15)
  | 3 => (4, 3, 7)
  | 5 => (4, 3, 7)
  | _ => (5, 2, 15)

def isFloatFmt (fmt : Nat) : Bool := fmt ≤ 6

/-- Width in bytes of a format (05 R80); a coded block is a 64-byte record (07 R129). -/
def fmtBytes : Nat → Nat
  | 0 => 4 | 1 => 2 | 2 => 2 | 3 => 1 | 4 => 1 | 5 => 64 | 6 => 64 | 7 => 1 | 8 => 2 | 9 => 4 | 10 => 1 | _ => 4

/-- The canonical NaN (05 R81, R82). -/
def canonNaN : Nat → Nat
  | 0 => 0x7FC00000 | 1 => 0x7FC0 | 2 => 0x7E00 | 3 => 0x7F | 5 => 0x7F | _ => 0x7E

/-- Largest finite word of a format, without its sign (05 R81). -/
def maxFinite : Nat → Nat
  | 0 => 0x7F7FFFFF | 1 => 0x7F7F | 2 => 0x7BFF | 3 => 0x7E | 5 => 0x7E | _ => 0x7B

/-- n × 2^k as a fraction. -/
def dyadic (s : Bool) (n : Nat) (k : Int) : XVal :=
  if k < 0 then .num s n (2 ^ k.natAbs) else .num s (n * 2 ^ k.natAbs) 1

/-- The value of a floating-point word (05 R81, R82). -/
def decodeFp (fmt w : Nat) : XVal :=
  let (eb, fb, bias) := fpParams fmt
  let s := (w >>> (eb + fb)) % 2 == 1
  let e := (w >>> fb) % 2 ^ eb
  let f := w % 2 ^ fb
  let e4 := fmt == 3 || fmt == 5
  if e == 2 ^ eb - 1 && !e4 then
    (if f == 0 then .inf s else .nan (f < 2 ^ (fb - 1)))
  else if e4 && e == 15 && f == 7 then .nan false
  else if e == 0 then dyadic s f (1 - (bias : Int) - fb)
  else dyadic s (2 ^ fb + f) ((e : Int) - bias - fb)

/-- Rounds the fraction a/b to an integer under a mode of 05 R94; `s` is the sign of the value. Gives the integer and whether it
is exact. -/
def roundNat (mode : Nat) (s : Bool) (a b : Nat) : Nat × Bool :=
  let q := a / b
  let r := a % b
  if r = 0 then (q, true)
  else
    let up : Bool := match mode with
      | 0 => if 2 * r = b then q % 2 == 1 else decide (2 * r > b)
      | 1 => false
      | 2 => s
      | 3 => !s
      | _ => decide (2 * r ≥ b)
    ((if up then q + 1 else q), false)

/-- ⌊log2 (n/d)⌋ for n > 0. -/
def floorLog2 (n d : Nat) : Int :=
  let a : Int := (Nat.log2 n : Int) - Nat.log2 d
  let ok : Bool := if a < 0 then decide (n * 2 ^ a.natAbs ≥ d) else decide (n ≥ d * 2 ^ a.natAbs)
  if ok then a else a - 1

/-- n/d divided by 2^q, as a fraction. -/
def overPow (n d : Nat) (q : Int) : Nat × Nat :=
  if q < 0 then (n * 2 ^ q.natAbs, d) else (n, d * 2 ^ q.natAbs)

/-- `round` to a floating-point format (05 R81 to R83, R94 to R96): word, cause and flags. -/
def roundFp (fmt mode : Nat) (v : XVal) : Nat × Cause × Flags :=
  let (eb, fb, bias) := fpParams fmt
  let sgn (s : Bool) (w : Nat) : Nat := if s then w + 2 ^ (eb + fb) else w
  let e4 := fmt == 3 || fmt == 5
  let infw := (2 ^ eb - 1) * 2 ^ fb
  match v with
  | .nan sig => (canonNaN fmt, .exact, if sig then fNV else 0)
  | .inf s => if e4 then (sgn s 0x7E, .inexact, fOF ||| fNX) else (sgn s infw, .exact, 0)
  | .num s n d =>
    if n = 0 then (sgn s 0, .exact, 0)
    else
      let emin : Int := 1 - (bias : Int)
      let e := floorLog2 n d
      -- tininess: after rounding with unbounded exponent
      let (ua, ub) := overPow n d (e - fb)
      let (um, _) := roundNat mode s ua ub
      let ue := if um = 2 ^ (fb + 1) then e + 1 else e
      let tiny := decide (ue < emin)
      let q : Int := (if e < emin then emin else e) - fb
      let (a, b) := overPow n d q
      let (m0, ex) := roundNat mode s a b
      let (m, q) := if m0 = 2 ^ (fb + 1) then (2 ^ fb, q + 1) else (m0, q)
      let nx : Flags := if ex then 0 else fNX
      let uf : Flags := if tiny && !ex then fUF else 0
      if m = 0 then (sgn s 0, .underflowZero, fUF ||| fNX)
      else if m < 2 ^ fb then (sgn s m, if ex then .exact else .inexact, nx ||| uf)
      else
        let ef : Int := q + fb + bias
        let w := ef.toNat * 2 ^ fb + (m - 2 ^ fb)
        if ef ≥ 2 ^ eb ∨ w > maxFinite fmt then
          let toMax := e4 || mode == 1 || (mode == 2 && !s) || (mode == 3 && s)
          (sgn s (if toMax then maxFinite fmt else infw), .inexact, fOF ||| fNX)
        else (sgn s w, if ex then .exact else .inexact, nx ||| uf)

/-- Range of an integer format (05 R84). -/
def intRange : Nat → Int × Int
  | 7 => (-128, 127)
  | 8 => (-32768, 32767)
  | 10 => (0, 255)
  | 11 => (0, 4294967295)
  | _ => (-2147483648, 2147483647)

/-- An integer as a word of a format, placed by 05 R80: zero above its width. -/
def placeInt (fmt : Nat) (i : Int) : Nat := (i % ((2 : Int) ^ (8 * fmtBytes fmt))).toNat

/-- Rounds an exact finite value to an integer. -/
def roundToInt (mode : Nat) (v : XVal) : Int × Bool :=
  match v with
  | .num s n d =>
    let (m, ex) := roundNat mode s n d
    ((if s then -(m : Int) else m), ex)
  | _ => (0, true)

/-- Conversion of an exact value to an integer format (05 R86). -/
def roundIntFmt (fmt mode : Nat) (v : XVal) : Nat × Cause × Flags :=
  let (lo, hi) := intRange fmt
  match v with
  | .nan _ => (0, .exact, fNV)
  | .inf s => (placeInt fmt (if s then lo else hi), .inexact, fNV)
  | v =>
    let (i, ex) := roundToInt mode v
    if i < lo then (placeInt fmt lo, .inexact, fNV)
    else if i > hi then (placeInt fmt hi, .inexact, fNV)
    else (placeInt fmt i, if ex then .exact else .inexact, if ex then 0 else fNX)

/-- The helper round (05 R104), for every format. -/
def roundTo (fmt mode : Nat) (v : XVal) : Nat × Cause × Flags :=
  if isFloatFmt fmt then roundFp fmt mode v else roundIntFmt fmt mode v

/-- round(FP32, RNE, v): word and flags. -/
def r32 (v : XVal) : Nat × Flags :=
  let (w, _, f) := roundFp 0 0 v
  (w, f)

/-- The value of an FP32 word. -/
def f32 (w : Nat) : XVal := decodeFp 0 w

/-! ## Channels (05 R91 to R93) -/

/-- A channel-table entry with its scale: an FP32 word. -/
structure Chan where
  fmt   : Nat
  rmode : Nat
  ctab  : Nat
  scale : Nat
  deriving DecidableEq, Repr

/-- The channel entry of a word and the scale registers (05 R91). -/
def chanOf (entry : W32) (scales : List W32) : Chan :=
  ⟨fld entry 3 0, fld entry 14 12, fld entry 11 9, (scales.getD (fld entry 8 4) 0x3F800000#32).toNat⟩

/-- Formats on which the scale acts (05 R92). -/
def scaled (fmt : Nat) : Bool := (3 ≤ fmt && fmt ≤ 7) || fmt == 10

def Chan.scaleVal (c : Chan) : XVal := if scaled c.fmt then f32 c.scale else .num false 1 1

/-- An integer or key word under a format, as an integer (05 R80). -/
def intOf (fmt : Nat) (w : W32) : Int :=
  match fmt with
  | 7 => (w.extractLsb' 0 8).toInt
  | 8 => (w.extractLsb' 0 16).toInt
  | 10 => ((w.extractLsb' 0 8).toNat : Int)
  | 11 => (w.toNat : Int)
  | _ => w.toInt

/-- decode(ch, w) for a value of any format (05 R104): placement, then scale, exact. -/
def Chan.decode (c : Chan) (w : W32) : XVal :=
  let v := if isFloatFmt c.fmt then decodeFp c.fmt (w.toNat % 2 ^ (if c.fmt = 0 then 32 else if c.fmt ≤ 2 then 16 else 8))
           else XVal.ofInt (intOf c.fmt w)
  if scaled c.fmt then
    match v with
    | .nan g => .nan g
    | v => (XVal.mul v c.scaleVal).1
  else v

/-- encode(ch, v) of an exact value (05 R104): divided by the scale and rounded once; integer formats by R86. -/
def Chan.encode (c : Chan) (v : XVal) : W32 × Cause × Flags :=
  let v := if scaled c.fmt then XVal.divNum v c.scaleVal else v
  let (w, k, f) := roundTo c.fmt c.rmode v
  (BitVec.ofNat 32 w, k, f)

/-- Saturates an integer to a range. -/
def clampInt (lo hi i : Int) : Int := if i < lo then lo else if i > hi then hi else i

/-- An operand of an element that works on integers (05 R92, 10 R196, 11 R208): 32 bits, no flag. -/
def Chan.decodeInt (c : Chan) (w : W32) : W32 :=
  if c.fmt == 7 || c.fmt == 10 then
    let (i, _) := roundToInt c.rmode (c.decode w)
    BitVec.ofInt 32 (clampInt (-2147483648) 2147483647 i)
  else BitVec.ofInt 32 (intOf c.fmt w)

/-- The result of integer arithmetic (05 R84, R92): wrapped 32 bits read as signed, scaled, saturated, no flag. -/
def Chan.encodeInt (c : Chan) (r : W32) : W32 :=
  if c.fmt == 9 || c.fmt == 11 then r
  else if c.fmt == 7 || c.fmt == 10 then
    let (lo, hi) := intRange c.fmt
    let (i, _) := roundToInt c.rmode (XVal.divNum (XVal.ofInt r.toInt) c.scaleVal)
    BitVec.ofNat 32 (placeInt c.fmt (clampInt lo hi i))
  else
    let (lo, hi) := intRange c.fmt
    BitVec.ofNat 32 (placeInt c.fmt (clampInt lo hi r.toInt))

/-- KEY32 and UINT8 compare as unsigned (05 R84, 11 R211). -/
def Chan.unsignedCmp (c : Chan) : Bool := c.fmt == 11 || c.fmt == 10

/-! ## CRC-32C (05 R402) -/

/-- One bit of the reflected CRC. -/
def crcBit (r : Nat) : Nat := if r % 2 = 1 then Nat.xor (r / 2) 0x82F63B78 else r / 2

def crcByte (r : Nat) (b : Byte) : Nat :=
  crcBit (crcBit (crcBit (crcBit (crcBit (crcBit (crcBit (crcBit (Nat.xor r b.toNat))))))))

/-- crc32c(seed, bytes). -/
def crc32c (seed : Nat) (bs : List Byte) : Nat :=
  Nat.xor (bs.foldl crcByte (Nat.xor seed 0xFFFFFFFF)) 0xFFFFFFFF

end Sys2Proof.Machine
end

