-- ==== Sys2Proof/Machine/Special.lean ====
section
/-! DEFINITION. Sums in fixed order (05 R97 to R99), the reciprocal seeds (R100 to R102), and the correctly rounded exponential,
logarithm and LOGSUMEXP term (11 R223, 05 R99). -/

namespace Sys2Proof.Machine

/-! ## Sums -/

/-- A product of the matrix node or the delta engine: any NaN operand raises NV (05 R97). -/
def prod (x y : XVal) : XVal × Flags :=
  let (p, f) := XVal.mul x y
  (p, if x.isNaN || y.isNaN then f ||| fNV else f)

/-- The exact sum of a K-group's products with the NaN and infinity rules of 05 R97; none when no product was formed. -/
def exactSum (ps : List (XVal × Flags)) : Option (XVal × Flags) :=
  match ps with
  | [] => none
  | _ =>
    let r := ps.foldl (fun acc p => let (s, f) := XVal.add acc.1 p.1; (s, acc.2 ||| p.2 ||| f)) (XVal.zero, 0)
    some (match r with
      | (.num _ 0 d, f) => (.num false 0 d, f)
      | r => r)

/-- One K-group added to an accumulator word (05 R97): sum rounded to FP32, then the addition rounded to FP32. -/
def accGroup (acc : W32) (ps : List (XVal × Flags)) : W32 × Flags :=
  match exactSum ps with
  | none => (acc, 0)
  | some (s, f) =>
    let (g, fg) := r32 s
    let (t, ft) := XVal.add (f32 acc.toNat) (f32 g)
    let (w, fw) := r32 t
    (BitVec.ofNat 32 w, f ||| fg ||| ft ||| fw)

/-- The pairwise tree of 05 R98 over lanes that may be absent: one level. -/
def treeLevel {α : Type} (op : α → α → α × Flags) : List (Option α) → List (Option α) × Flags
  | a :: b :: rest =>
    let (r, f) := treeLevel op rest
    match a, b with
    | some x, some y => let (z, g) := op x y; (some z :: r, f ||| g)
    | some x, none => (some x :: r, f)
    | none, some y => (some y :: r, f)
    | none, none => (none :: r, f)
  | l => (l, 0)

/-- Four levels reduce sixteen lanes (05 R98). -/
def tree16 {α : Type} (op : α → α → α × Flags) (l : List (Option α)) : Option α × Flags :=
  let (l1, f1) := treeLevel op l
  let (l2, f2) := treeLevel op l1
  let (l3, f3) := treeLevel op l2
  let (l4, f4) := treeLevel op l3
  (l4.headD none, f1 ||| f2 ||| f3 ||| f4)

/-! ## Roots and seeds -/

/-- ⌊√n⌋, one bit at a time from bit k − 1 down. -/
def isqrtBits : Nat → Nat → Nat → Nat
  | 0, _, r => r
  | k + 1, n, r =>
    let c := r + 2 ^ k
    isqrtBits k n (if c * c ≤ n then c else r)

def isqrt (n : Nat) : Nat := isqrtBits (Nat.log2 n / 2 + 1) n 0

/-- T_rcp[i] as an FP32 word (05 R100). -/
def tRcp (i : Nat) : Nat := if i ≥ 128 then 0x3F000000 else (r32 (.num false 128 (128 + i))).1

/-- T_rsq[n] as an FP32 word (05 R101): 1/√((1+h)(1+j/64)) rounded to nearest; the value lies in (1/2, 1]. -/
def tRsq (n : Nat) : Nat :=
  if n ≥ 128 then 0x3F000000
  else if n = 0 then 0x3F800000
  else
    let h := n / 64
    let j := n % 64
    -- the value squared is 64 / ((1+h)(64+j)); 2^25 times the root, rounded down
    let r := isqrt (64 * 2 ^ 50 / ((1 + h) * (64 + j)))
    0x3F000000 + ((r + 1) / 2 - 2 ^ 23)

/-- Splits a positive finite value into m × 2^E with 1 ≤ m < 2: numerator and denominator of m, and E. -/
def normalise (n d : Nat) : Nat × Nat × Int :=
  let e := floorLog2 n d
  let (a, b) := overPow n d e
  (a, b, e)

/-- Chord interpolation y0 + (y1 − y0) × t between two table words, exactly. -/
def chord (y0 y1 : Nat) (t : XVal) : XVal :=
  (XVal.add (f32 y0) (XVal.mul (XVal.sub (f32 y1) (f32 y0)).1 t).1).1

/-- The seed of VRCP (05 R100, R102): word, cause, flags. -/
def seedRcp (x : XVal) : Nat × Cause × Flags :=
  match x with
  | .nan g => (0x7FC00000, .exact, if g then fNV else 0)
  | .inf s => ((if s then 0x80000000 else 0), .exact, 0)
  | .num s n d =>
    let sg (w : Nat) : Nat := if s then w + 0x80000000 else w
    if n = 0 then (sg 0x7F800000, .exact, fDZ)
    else
      let (a, b, e) := normalise n d
      if e < -128 then (sg 0x7F800000, .inexact, fOF ||| fNX)
      else
        -- i: top seven fraction bits; t: the other bits as a fraction
        let i := (a - b) * 128 / b
        let v := XVal.scale2 (chord (tRcp i) (tRcp (i + 1)) (.num false ((a - b) * 128 % b) b)) (-e)
        let (w, c, _) := roundFp 0 0 v
        -- flags only as the corner-case table gives: overflow, or the subnormal grid
        let fl : Flags := if w = 0x7F800000 then fOF ||| fNX
                          else if e > 126 ∨ (e = 126 ∧ a ≠ b) then fUF ||| fNX else 0
        (sg w, c, fl)

/-- The seed of VRSQ (05 R101, R102). -/
def seedRsq (x : XVal) : Nat × Cause × Flags :=
  match x with
  | .nan g => (0x7FC00000, .exact, if g then fNV else 0)
  | .inf s => if s then (0x7FC00000, .exact, fNV) else (0, .exact, 0)
  | .num s n d =>
    if n = 0 then ((if s then 0xFF800000 else 0x7F800000), .exact, fDZ)
    else if s then (0x7FC00000, .exact, fNV)
    else
      let (a, b, e) := normalise n d
      let h := (e % 2).toNat
      let k := (e - h) / 2
      let m := 64 * h + (a - b) * 64 / b
      let v := XVal.scale2 (chord (tRsq m) (tRsq (m + 1)) (.num false ((a - b) * 64 % b) b)) (-k)
      let (w, c, _) := roundFp 0 0 v
      (w, c, 0)

/-! ## Transcendentals by nested intervals -/

/-- Σ 1/(k 2^k) for k from 1, in units of 2^-p, each term rounded down; at most `n` terms. -/
def ln2Terms : Nat → Nat → Nat → Nat
  | 0, _, _ => 0
  | n + 1, k, s => s / k + ln2Terms n (k + 1) (s / 2)

/-- Bounds of ln 2 in units of 2^-p. -/
def ln2Bounds (p : Nat) : Nat × Nat :=
  let v := ln2Terms (p + 4) 1 (2 ^ p / 2)
  (v, v + p + 8)

/-- Taylor sum of e^x for x = x/2^p, terms rounded down; `t` is the current term. -/
def expTerms : Nat → Nat → Nat → Nat → Nat → Nat
  | 0, _, _, _, _ => 0
  | n + 1, p, x, k, t => t + expTerms n p x (k + 1) (t * x / 2 ^ p / k)

/-- Bounds of e^(x/2^p), for 0 ≤ x < 2^p. -/
def expBounds (p lo hi : Nat) : Nat × Nat :=
  let n := p + 8
  (expTerms n p lo 1 (2 ^ p), expTerms n p hi 1 (2 ^ p) + 8 * p + 64)

/-- Σ z^(2k+1)/(2k+1) in units of 2^-p; `t` is the current odd power. -/
def atanhTerms : Nat → Nat → Nat → Nat → Nat → Nat
  | 0, _, _, _, _ => 0
  | n + 1, p, z2, k, t => t / k + atanhTerms n p z2 (k + 2) (t * z2 / 2 ^ p)

/-- Bounds of ln (a/b) for 1 ≤ a/b ≤ 2, in units of 2^-p: 2 artanh ((a−b)/(a+b)). -/
def lnBounds (p a b : Nat) : Nat × Nat :=
  let z := (a - b) * 2 ^ p / (a + b)
  let s := atanhTerms (p / 2 + 8) p (z * z / 2 ^ p) 1 z
  (2 * s, 2 * s + 4 * p + 64)

/-- Tries precisions in turn until both ends of the interval round alike (a value that is no boundary is always decided). -/
def refine (bounds : Nat → XVal × XVal) (rnd : XVal → W32 × Cause × Flags) : Nat → Nat → W32 × Cause × Flags
  | 0, p => rnd (bounds p).1
  | n + 1, p =>
    let (lo, hi) := bounds p
    let a := rnd lo
    if a = rnd hi then a else refine bounds rnd n (2 * p)

/-- 2^a rounded by `rnd` (11 R223). A result far outside every format is replaced by one that rounds alike. -/
def exp2With (rnd : XVal → W32 × Cause × Flags) (x : XVal) : W32 × Cause × Flags :=
  match x with
  | .nan g => rnd (.nan g)
  | .inf s => if s then rnd XVal.zero else rnd (.inf false)
  | .num s n d =>
    if n = 0 then rnd (.num false 1 1)
    else
      let fl : Int := if s then -(((n + d - 1) / d : Nat) : Int) else ((n / d : Nat) : Int)
      let k : Int := clampInt (-2000) 2000 fl
      -- the fraction x − ⌊x⌋ as fr/d
      let fr := if s then (d - n % d) % d else n % d
      if fr = 0 ∨ k ≠ fl then rnd (XVal.scale2 (.num false (if k ≠ fl then 3 else 1) 1) k)
      else
        let bnds (p : Nat) : XVal × XVal :=
          let (l, h) := ln2Bounds p
          let (a, b) := expBounds p (fr * l / d) (fr * h / d + 1)
          (XVal.scale2 (.num false a (2 ^ p)) k, XVal.scale2 (.num false b (2 ^ p)) k)
        refine bnds rnd 6 64

/-- log2 a rounded by `rnd` (11 R223). -/
def log2With (rnd : XVal → W32 × Cause × Flags) (x : XVal) : W32 × Cause × Flags :=
  match x with
  | .nan g => rnd (.nan g)
  | .inf s => if s then let (w, c, _) := rnd (.nan false); (w, c, fNV) else rnd (.inf false)
  | .num s n d =>
    if n = 0 then let (w, c, f) := rnd (.inf true); (w, c, f ||| fDZ)
    else if s then let (w, c, _) := rnd (.nan false); (w, c, fNV)
    else
      let (a, b, e) := normalise n d
      if a = b then rnd (XVal.ofInt e)
      else
        let bnds (p : Nat) : XVal × XVal :=
          let (l, h) := lnBounds p a b
          let (l2, h2) := ln2Bounds p
          ((XVal.add (XVal.ofInt e) (.num false l h2)).1, (XVal.add (XVal.ofInt e) (.num false h l2)).1)
        refine bnds rnd 6 64

/-- L = ln(1 + e^−d) rounded to FP32 (05 R99), for d = n/m ≥ 0. Beyond d = 104 it is below half the smallest subnormal. -/
def lseTerm (n m : Nat) : Nat :=
  if n ≥ 104 * m then 0
  else
    let rnd (v : XVal) : W32 × Cause × Flags := let (w, c, _) := roundFp 0 0 v; (BitVec.ofNat 32 w, c, 0)
    let bnds (p : Nat) : XVal × XVal :=
      let (l, h) := ln2Bounds p
      let dl := n * 2 ^ p / m
      let k := dl / h
      -- d − k ln 2 lies in [rlo, rhi]
      let rlo := dl - k * h
      let rhi := dl + 1 - k * l
      let (elo, ehi) := expBounds p rlo rhi
      -- y = e^−d in [ylo, yhi] as fractions over 2^p · 2^k
      let ylo := 2 ^ (2 * p) / ehi
      let yhi := 2 ^ (2 * p) / elo + 1
      let one := 2 ^ (p + k)
      let q := p + k
      ((.num false (lnBounds q (one + ylo) one).1 (2 ^ q)), (.num false (lnBounds q (one + yhi) one).2 (2 ^ q)))
    (refine bnds rnd 6 64).1.toNat

/-- The LOGSUMEXP combination of two FP32 words (05 R99). -/
def lse (a b : W32) : W32 × Flags :=
  let x := f32 a.toNat
  let y := f32 b.toNat
  match x, y with
  | .nan _, _ => (0x7FC00000, fNV)
  | _, .nan _ => (0x7FC00000, fNV)
  | .inf true, _ => (b, 0)
  | _, .inf true => (a, 0)
  | .inf false, _ => (0x7F800000, 0)
  | _, .inf false => (0x7F800000, 0)
  | x, y =>
    let m := if XVal.lt x y then y else x
    match (XVal.sub x y).1 with
    | .num _ n d =>
      let (w, f) := r32 (XVal.add m (f32 (lseTerm n d))).1
      (BitVec.ofNat 32 w, f)
    | _ => (0x7FC00000, fNV)

end Sys2Proof.Machine
end

