-- ==== Sys2Proof/Machine/Codes.lean ====
section
/-! DEFINITION. Coded FP8 blocks (05 R87 to R90, 11 R220), base-delta-immediate codes (07 R136), SHA3-256 and KMAC128 (13 R288,
21 R355), and the byte order of lanes and lines. -/

namespace Sys2Proof.Machine

/-! ## Lanes and bytes -/

/-- Lane L of sixteen (04 R60). -/
def lane (v : Line) (l : Nat) : W32 := v.extractLsb' (32 * l) 32

/-- Sixteen lanes as one value, lane 0 first. -/
def packLanes (ls : List W32) : Line :=
  BitVec.ofNat 512 (ls.foldr (fun w acc => acc * 2 ^ 32 + w.toNat) 0)

def lanesOf (v : Line) : List W32 := (List.range 16).map (lane v)

/-- A mask of sixteen bits from the list of its bits, bit 0 first. -/
def packMask (bs : List Bool) : BitVec 16 :=
  BitVec.ofNat 16 (bs.foldr (fun b acc => acc * 2 + (if b then 1 else 0)) 0)

/-- A number from bytes, lowest address first (07 R129). -/
def bytesNat (bs : List Byte) : Nat := bs.foldr (fun b acc => acc * 256 + b.toNat) 0

/-- A line from its 64 bytes: word n of a header is bits [64n+63:64n] (06 R105). -/
def lineOf (bs : List Byte) : Line := BitVec.ofNat 512 (bytesNat bs)

def bytesOfLine (l : Line) : List Byte := natBytes 64 l.toNat

/-! ## Canonical codes (05 R88) -/

/-- Length of a symbol in a code table. -/
def codeLen (tab : W64) (s : Nat) : Nat := fld tab (4 * s + 3) (4 * s)

/-- Present symbols in canonical order: by length, then by value. -/
def codeOrder (tab : W64) : List Nat :=
  (List.range 8).flatMap fun k => (List.range 16).filter fun s => codeLen tab s == k + 1

/-- Symbols with their lengths and codes: the previous code plus one, shifted to the new length, which is what the example of
05 R90 shows (log 14). -/
def codeAssign (tab : W64) : List (Nat × Nat × Nat) :=
  let rec go : List Nat → Option (Nat × Nat) → List (Nat × Nat × Nat)
    | [], _ => []
    | s :: rest, prev =>
      let n := codeLen tab s
      let c := match prev with
        | none => 0
        | some (pl, pc) => (pc + 1) * 2 ^ (n - pl)
      (s, n, c) :: go rest (some (n, c))
  go (codeOrder tab) none

/-- A table the loader accepts (05 R88): lengths up to 8, Kraft sum at most 1. -/
def codeTableOk (tab : W64) : Bool :=
  (List.range 16).all (fun s => codeLen tab s ≤ 8)
    && ((List.range 16).foldl (fun a s => if codeLen tab s = 0 then a else a + 2 ^ (8 - codeLen tab s)) 0) ≤ 256

/-- Fraction bits and widest exponent field of a coded format: 5 is FP8E4, 6 is FP8E5. -/
def codedParams (fmt : Nat) : Nat × Nat := if fmt = 5 then (3, 15) else (2, 31)

/-- One code read from bit `at_`: symbol and the bit after it. Codes are read first bit first, the first bit being the most
significant of the code (05 R87, R88). -/
def readCode (asg : List (Nat × Nat × Nat)) (v : Line) : Nat → Nat → Nat → Nat → Option (Nat × Nat)
  | 0, _, _, _ => none
  | fuel + 1, at_, n, c =>
    if at_ ≥ 512 then none
    else
      let c := 2 * c + (if v.getLsbD at_ then 1 else 0)
      let n := n + 1
      match asg.find? (fun e => e.2.1 == n && e.2.2 == c) with
      | some e => some (e.1, at_ + 1)
      | none => readCode asg v fuel (at_ + 1) n c

/-- Exponent fields of `k` elements from bit `at_`; none when the block is malformed (05 R90). -/
def readExps (asg : List (Nat × Nat × Nat)) (v : Line) (offs emax : Nat) : Nat → Nat → Option (List Nat)
  | 0, _ => some []
  | k + 1, at_ =>
    match readCode asg v 8 at_ 0 0 with
    | none => none
    | some (s, nxt) =>
      let e := if s = 15 then 0 else offs + s
      if e > emax then none
      else (readExps asg v offs emax k nxt).map (e :: ·)

/-- Decodes a coded block under the code table its header names (05 R87 to R90): 32 element bytes, or none when malformed. -/
def decodeBlock (fmt : Nat) (ctabs : List W64) (v : Line) : Option (List Nat) :=
  let (fb, emax) := codedParams fmt
  let w := fb + 1
  let asg := codeAssign (ctabs.getD (fld v 7 5) 0)
  match readExps asg v (fld v 4 0) emax 32 (8 + 32 * w) with
  | none => none
  | some es =>
    some ((List.range 32).map fun k =>
      let sm := fld v (8 + w * k + w - 1) (8 + w * k)
      let sign := sm / 2 ^ fb
      sign * 128 + es.getD k 0 * 2 ^ fb + sm % 2 ^ fb)

/-- Builds a coded block of 32 element bytes under table `ct` (11 R220); none where VPACK raises PACKERR. -/
def encodeBlock (fmt ct : Nat) (tab : W64) (els : List Nat) : Option Line :=
  let (fb, _) := codedParams fmt
  let w := fb + 1
  let expo (b : Nat) : Nat := (b % 128) / 2 ^ fb
  let nz := (els.map expo).filter (· ≠ 0)
  let offs := nz.foldl (fun a e => if a = 0 ∨ e < a then e else a) 0
  let asg := codeAssign tab
  let sym (b : Nat) : Nat := if expo b = 0 then 15 else expo b - offs
  if els.any (fun b => expo b ≠ 0 && expo b - offs > 14) || els.any (fun b => !(asg.any (fun e => e.1 == sym b))) then none
  else
    let head := ct * 32 + offs
    let sms := (els.zipIdx.map fun (b, k) => (b / 128 * 2 ^ fb + b % 2 ^ fb) * 2 ^ (8 + w * k)).foldl (· + ·) 0
    let codes := els.foldl (fun (acc : Nat × Nat) b =>
      match asg.find? (fun e => e.1 == sym b) with
      | some (_, n, c) =>
        -- first bit of the code at the lowest position
        ((List.range n).foldl (fun a i => a + (c / 2 ^ (n - 1 - i) % 2) * 2 ^ (acc.2 + i)) acc.1, acc.2 + n)
      | none => acc) (0, 8 + 32 * w)
    some (BitVec.ofNat 512 (head + sms + codes.1))

/-! ## Base-delta-immediate (07 R136) -/

/-- Elements of b bytes of a 128-byte block. -/
def bdiElems (b : Nat) (bs : List Byte) : List Nat :=
  (List.range (128 / b)).map fun k => bytesNat ((bs.drop (b * k)).take b)

/-- Every delta from the first element fits in d signed bytes. -/
def bdiFits (b d : Nat) (bs : List Byte) : Bool :=
  let es := bdiElems b bs
  let base := es.headD 0
  es.all fun e =>
    let x := (e + 2 ^ (8 * b) - base) % 2 ^ (8 * b)
    x < 2 ^ (8 * d - 1) || x ≥ 2 ^ (8 * b) - 2 ^ (8 * d - 1)

/-- Codes with their compressed bytes, in ascending size; ties in ascending code. -/
def bdiTable : List (Nat × Nat × Nat × Nat) :=
  [(3, 24, 8, 1), (6, 36, 4, 1), (4, 40, 8, 2), (0xA, 48, 16, 4), (8, 66, 2, 1), (7, 68, 4, 2), (5, 72, 8, 4), (9, 80, 16, 8)]

/-- The CODE of a 128-byte block. -/
def bdiCode (bs : List Byte) : Nat :=
  if bs.all (· == 0) then 1
  else if (bdiElems 8 bs).all (· == (bdiElems 8 bs).headD 0) then 2
  else match bdiTable.find? (fun e => bdiFits e.2.2.1 e.2.2.2 bs) with
    | some e => e.1
    | none => 0

/-- Compressed bytes of a block under a code. -/
def bdiBytes (c : Nat) : Nat :=
  if c = 0 then 128 else if c = 1 then 0 else if c = 2 then 8 else ((bdiTable.find? fun e => e.1 == c).map fun e => e.2.1).getD 128

/-- The bytes of a block under its code: the first element, then every delta. -/
def bdiBody (c : Nat) (bs : List Byte) : List Byte :=
  if c = 0 then bs else if c = 1 then [] else if c = 2 then bs.take 8
  else match bdiTable.find? fun e => e.1 == c with
    | none => bs
    | some (_, _, b, d) =>
      let es := bdiElems b bs
      natBytes b (es.headD 0) ++ es.flatMap fun e => natBytes d (e + 2 ^ (8 * b) - es.headD 0)

/-- A block from its code and its bytes. -/
def bdiExpand (c : Nat) (body : List Byte) : List Byte :=
  if c = 0 then body else if c = 1 then List.replicate 128 0 else if c = 2 then (List.replicate 16 (body.take 8)).flatten
  else match bdiTable.find? fun e => e.1 == c with
    | none => body
    | some (_, _, b, d) =>
      let base := bytesNat (body.take b)
      (List.range (128 / b)).flatMap fun k =>
        let x := bytesNat ((body.drop (b + d * k)).take d)
        natBytes b (base + x + (if x < 2 ^ (8 * d - 1) then 0 else 2 ^ (8 * b) - 2 ^ (8 * d)))

/-- A stream as 128-byte groups, the last one filled up with zeros: of each its code, in a byte, and its bytes (09 R171). -/
def bdiPack : Nat → List Byte → List Byte
  | 0, _ => []
  | fuel + 1, bs =>
    if bs.isEmpty then []
    else
      let g := bs.take 128 ++ List.replicate (128 - min 128 bs.length) 0
      let c := bdiCode g
      BitVec.ofNat 8 c :: bdiBody c g ++ bdiPack fuel (bs.drop 128)

/-- `n` bytes of a packed stream, and what follows it. -/
def bdiUnpack : Nat → Nat → List Byte → List Byte × List Byte
  | 0, _, bs => ([], bs)
  | fuel + 1, n, bs =>
    if n = 0 then ([], bs)
    else
      let c := (bs.headD 0).toNat
      let body := (bs.drop 1).take (bdiBytes c)
      let (rest, tail) := bdiUnpack fuel (n - 128) (bs.drop (1 + bdiBytes c))
      ((bdiExpand c body).take n ++ rest, tail)

/-! ## SHA3-256 and KMAC128 (FIPS 202, SP 800-185) -/

/-- Round constants of Keccak-f[1600]. -/
def keccakRC : List Nat :=
  [0x0000000000000001, 0x0000000000008082, 0x800000000000808A, 0x8000000080008000, 0x000000000000808B, 0x0000000080000001,
   0x8000000080008081, 0x8000000000008009, 0x000000000000008A, 0x0000000000000088, 0x0000000080008009, 0x000000008000000A]
  ++ [0x000000008000808B, 0x800000000000008B, 0x8000000000008089, 0x8000000000008003, 0x8000000000008002, 0x8000000000000080,
   0x000000000000800A, 0x800000008000000A, 0x8000000080008081, 0x8000000000008080, 0x0000000080000001, 0x8000000080008008]

/-- Rotation offsets, lane (x, y) at place x + 5y. -/
def keccakRot : List Nat :=
  [0, 1, 62, 28, 27, 36, 44, 6, 55, 20, 3, 10, 43, 25, 39, 41, 45, 15, 21, 8, 18, 2, 61, 56, 14]

def rol64 (x n : Nat) : Nat := (x * 2 ^ n) % 2 ^ 64 + x / 2 ^ (64 - n)

def keccakRound (a : List Nat) (rc : Nat) : List Nat :=
  let at_ (l : List Nat) (i : Nat) : Nat := l.getD i 0
  let c := (List.range 5).map fun x =>
    Nat.xor (Nat.xor (Nat.xor (Nat.xor (at_ a x) (at_ a (x + 5))) (at_ a (x + 10))) (at_ a (x + 15))) (at_ a (x + 20))
  let d := (List.range 5).map fun x => Nat.xor (at_ c ((x + 4) % 5)) (rol64 (at_ c ((x + 1) % 5)) 1)
  let t := (List.range 25).map fun i => Nat.xor (at_ a i) (at_ d (i % 5))
  -- ρ and π: lane (x, y) goes to (y, 2x + 3y); read the other way
  let b := (List.range 25).map fun i =>
    let x := i % 5
    let y := i / 5
    -- source (x', y') with y' ↦ x, 2x' + 3y' ↦ y
    let sx := (x + 3 * y) % 5
    let sy := x
    rol64 (at_ t (sx + 5 * sy)) (keccakRot.getD (sx + 5 * sy) 0)
  let e := (List.range 25).map fun i =>
    let x := i % 5
    let y := i / 5
    Nat.xor (at_ b i) (Nat.land (2 ^ 64 - 1 - at_ b ((x + 1) % 5 + 5 * y)) (at_ b ((x + 2) % 5 + 5 * y)))
  match e with
  | [] => []
  | h :: r => Nat.xor h rc :: r

def keccakF (a : List Nat) : List Nat := keccakRC.foldl keccakRound a

/-- XORs a block of bytes into the state. -/
def absorb (a : List Nat) (blk : List Byte) : List Nat :=
  (List.range 25).map fun i => Nat.xor (a.getD i 0) (bytesNat ((blk.drop (8 * i)).take 8))

/-- Absorbs whole blocks of `rate` bytes; `fuel` blocks at most. -/
def sponge (rate : Nat) : Nat → List Nat → List Byte → List Nat
  | 0, a, _ => a
  | fuel + 1, a, bs =>
    if bs.isEmpty then a else sponge rate fuel (keccakF (absorb a (bs.take rate))) (bs.drop rate)

/-- Pads a message: domain byte, zeros, top bit of the last byte. -/
def padKeccak (rate : Nat) (dom : Nat) (bs : List Byte) : List Byte :=
  let n := rate - (bs.length % rate)
  if n = 1 then bs ++ [BitVec.ofNat 8 (dom + 128)]
  else bs ++ [BitVec.ofNat 8 dom] ++ List.replicate (n - 2) 0 ++ [128]

def stateBytes (a : List Nat) : List Byte := a.flatMap (natBytes 8)

/-- SHA3-256 of a message: 32 bytes. -/
def sha3 (bs : List Byte) : List Byte :=
  let p := padKeccak 136 0x06 bs
  (stateBytes (sponge 136 (p.length / 136 + 1) (List.replicate 25 0) p)).take 32

/-- left_encode and right_encode of SP 800-185 for numbers below 2^16. -/
def leftEncode (n : Nat) : List Byte :=
  if n < 256 then [1, BitVec.ofNat 8 n] else [2, BitVec.ofNat 8 (n / 256), BitVec.ofNat 8 n]

def rightEncode (n : Nat) : List Byte :=
  if n < 256 then [BitVec.ofNat 8 n, 1] else [BitVec.ofNat 8 (n / 256), BitVec.ofNat 8 n, 2]

def encodeString (bs : List Byte) : List Byte := leftEncode (8 * bs.length) ++ bs

def bytepad (w : Nat) (bs : List Byte) : List Byte :=
  let x := leftEncode w ++ bs
  x ++ List.replicate ((w - x.length % w) % w) 0

/-- KMAC128 with an output of `l` bits (at most 256), key and customisation string. -/
def kmac128 (key msg : List Byte) (l : Nat) (cust : List Byte) : Nat :=
  let kmacName : List Byte := [0x4B, 0x4D, 0x41, 0x43]
  let newX := bytepad 168 (encodeString key) ++ msg ++ rightEncode l
  let x := bytepad 168 (encodeString kmacName ++ encodeString cust) ++ newX
  let p := padKeccak 168 0x04 x
  bytesNat ((stateBytes (sponge 168 (p.length / 168 + 1) (List.replicate 25 0) p)).take 32) % 2 ^ l

/-- The MAC of a grant token (21 R355): over token bits [63:28], the requester's and the target's module number. -/
def grantMac (key : BitVec 256) (tok : W64) (requester target : Nat) : Nat :=
  let cust : List Byte := [0x4A, 0x50, 0x47, 0x52, 0x41, 0x4E, 0x54]
  kmac128 (natBytes 32 key.toNat)
    (natBytes 5 (tok.toNat / 2 ^ 28) ++ [BitVec.ofNat 8 requester, BitVec.ofNat 8 target]) 28 cust

end Sys2Proof.Machine
end

