-- ==== Sys2Proof/Machine/Store.lean ====
section
/-! DEFINITION. Memory cells in canonical form, and the accessors of the state: runs, planes, elements, G registers, dies. Every
read and write of a register goes through one of these. -/

namespace Sys2Proof.Machine

/-! ## Cells -/

/-- The canonical form (07 R128, log 2): addresses strictly rising from `lo`, no blank byte listed. -/
def Memory.wfFrom (lo : Nat) : List Host.Cell → Bool
  | [] => true
  | (a, b) :: rest => decide (lo ≤ a) && b != Config.blankByte && Memory.wfFrom (a + 1) rest

def Memory.wf (m : List Host.Cell) : Bool := Memory.wfFrom 0 m

/-- The byte at an address; an unlisted address reads as the blank byte. -/
def cellGet : List Host.Cell → Nat → Byte
  | [], _ => Config.blankByte
  | (a, b) :: rest, x => if x = a then b else if x < a then Config.blankByte else cellGet rest x

/-- Writes a byte and keeps the canonical form. -/
def cellSet : List Host.Cell → Nat → Byte → List Host.Cell
  | [], x, v => if v = Config.blankByte then [] else [(x, v)]
  | (a, b) :: rest, x, v =>
    if x < a then (if v = Config.blankByte then (a, b) :: rest else (x, v) :: (a, b) :: rest)
    else if x = a then (if v = Config.blankByte then rest else (x, v) :: rest)
    else (a, b) :: cellSet rest x v

/-- Consecutive bytes, lowest address first. -/
def cellRead (m : List Host.Cell) (a : Nat) : Nat → List Byte
  | 0 => []
  | n + 1 => cellGet m a :: cellRead m (a + 1) n

def cellWrite (m : List Host.Cell) (a : Nat) : List Byte → List Host.Cell
  | [] => m
  | b :: bs => cellWrite (cellSet m a b) (a + 1) bs

/-! ## Plain list helpers -/

/-- Replaces the entry at a place, if there is one. -/
def setAt {α : Type} : List α → Nat → α → List α
  | [], _, _ => []
  | _ :: xs, 0, v => v :: xs
  | x :: xs, n + 1, v => x :: setAt xs n v

/-- Changes the entry at a place, if there is one. -/
def modAt {α : Type} (f : α → α) : List α → Nat → List α
  | [], _ => []
  | x :: xs, 0 => f x :: xs
  | x :: xs, n + 1 => x :: modAt f xs n

/-- Adds an entry that the list does not hold yet. -/
def insertNew {α : Type} [DecidableEq α] (x : α) (l : List α) : List α := if x ∈ l then l else l ++ [x]

/-! ## Runs -/

/-- The run with an identifier, retired ones apart. -/
def State.run? (s : State) (id : Nat) : Option Run := s.runs.find? (fun r => r.id == id && r.st != .retired)

/-- Replaces the live run of the same identifier. -/
def State.setRun (s : State) (r : Run) : State :=
  { s with runs := s.runs.map fun x => if x.id = r.id ∧ x.st ≠ .retired then r else x }

def State.modRun (s : State) (id : Nat) (f : Run → Run) : State :=
  { s with runs := s.runs.map fun x => if x.id = id ∧ x.st ≠ .retired then f x else x }

/-- G[n] (02 R25): G0 reads zero. -/
def Esc.getG (e : Esc) (n : BitVec 6) : W64 := if n = 0 then 0 else e.g.getD n.toNat 0

/-- Writes G[n]; a write to G0 is discarded. -/
def Esc.setG (e : Esc) (n : BitVec 6) (v : W64) : Esc := if n = 0 then e else { e with g := setAt e.g n.toNat v }

def Run.getG (r : Run) (n : BitVec 6) : W64 := r.esc.getG n
def Run.setG (r : Run) (n : BitVec 6) (v : W64) : Run := { r with esc := r.esc.setG n v }
def Run.setSqc (r : Run) (q : Nat) : Run := { r with esc := { r.esc with sqc := q } }

def Run.plane (r : Run) (p : Nat) : Plane := if p = 0 then r.p0 else r.p1
def Run.setPlane (r : Run) (p : Nat) (x : Plane) : Run := if p = 0 then { r with p0 := x } else { r with p1 := x }
/-- Number of the active plane. -/
def Run.act (r : Run) : Nat := if r.activeOne then 1 else 0

/-- The run's identity in the domain (03 R29). -/
def State.identity (s : State) (id : Nat) : Nat := s.chip.modnum.toNat * 65536 + id

/-- The run of this module that an identity names. -/
def State.own? (s : State) (identity : Nat) : Option Nat :=
  if identity / 65536 = s.chip.modnum.toNat then some (identity % 65536) else none

/-! ## Configurations and elements -/

def Run.load? (r : Run) (p l : Nat) : Option Loaded := (r.plane p).loads[l]?

def Run.setLoad (r : Run) (p l : Nat) (x : Loaded) : Run :=
  r.setPlane p { r.plane p with loads := setAt (r.plane p).loads l x }

def Loaded.setBlk (x : Loaded) (b : Nat) (k : Blk) : Loaded := { x with blks := setAt x.blks b k }

/-- Where an element stands: run, configuration, block, bank state, word. -/
structure Here where
  run  : Run
  load : Loaded
  blk  : Blk
  elem : Elem
  word : W64
  deriving DecidableEq, Repr

def State.site (s : State) (e : ElemRef) : Option Here :=
  match s.run? e.run with
  | none => none
  | some r =>
    match r.load? e.plane e.load with
    | none => none
    | some l =>
      match l.blks[e.blk]? with
      | none => none
      | some b =>
        match b.elems[e.idx]?, b.words[e.idx]? with
        | some el, some w => some ⟨r, l, b, el, w⟩
        | _, _ => none

def State.modLoad (s : State) (run p l : Nat) (f : Loaded → Loaded) : State :=
  s.modRun run fun r => r.setPlane p { r.plane p with loads := modAt f (r.plane p).loads l }

def State.modBlk (s : State) (b : BlkRef) (f : Blk → Blk) : State :=
  s.modLoad b.run b.plane b.load fun l => { l with blks := modAt f l.blks b.blk }

def State.modElem (s : State) (e : ElemRef) (f : Elem → Elem) : State :=
  s.modBlk ⟨e.run, e.plane, e.load, e.blk⟩ fun b => { b with elems := modAt f b.elems e.idx }

/-- Tile of an element within its page: 16 q + t (02 R12). -/
def pageTile (b : Blk) (f : Fab) : Nat := 16 * b.quad + f.tile.toNat

/-! ## Tile stores and accumulators -/

/-- Cell address of a byte of a tile store: physical page of a die, tile 16 q + t (02 R12, R18). -/
def storeKey (die page tile byte : Nat) : Nat := byte + 2 ^ 17 * (tile + 64 * (page + 48 * die))

/-- Physical page of a logical page (07 R27, 20 R338). -/
def Run.phys (r : Run) (page : Nat) : Nat := r.region.pages.getD page 0

/-- A byte of a tile store as a read of this cycle finds it: before the writes of the cycle (02 R19). -/
def State.bankByte (s : State) (k : Nat) : Byte :=
  match s.mem.storeOld.find? fun c => c.1 == k with
  | some c => c.2
  | none => cellGet s.mem.store k

def State.bankRead (s : State) (r : Run) (page tile a n : Nat) : List Byte :=
  (List.range n).map fun i => s.bankByte (storeKey r.die (r.phys page) tile a + i)

/-- Writes bytes of a tile store; whole words written are good again. -/
def State.bankWrite (s : State) (r : Run) (page tile a : Nat) (bs : List Byte) : State :=
  let k := storeKey r.die (r.phys page) tile a
  { s with mem := { s.mem with
      store := cellWrite s.mem.store k bs
      storeOld := s.mem.storeOld ++ ((List.range bs.length).filter fun i => !s.mem.storeOld.any fun c => c.1 == k + i).map
        fun i => (k + i, cellGet s.mem.store (k + i))
      storeBad := s.mem.storeBad.filter fun w => !(decide (k ≤ 4 * w) && decide (4 * w + 4 ≤ k + bs.length)) } }

/-- A word of the range holds an uncorrectable error. -/
def State.bankBad (s : State) (r : Run) (page tile a n : Nat) : Bool :=
  let k := storeKey r.die (r.phys page) tile a
  s.mem.storeBad.any fun w => decide (k < 4 * w + 4) && decide (4 * w < k + n)

/-- Accumulator n of a node: as the load leaves it, zero (09 R171). -/
def Plane.acc (p : Plane) (page tile n : Nat) : AccTile :=
  (p.accs.find? (fun a => a.page == page && a.tile == tile && a.n == n)).getD ⟨page, tile, n, List.replicate 1024 0, []⟩

def Plane.setAcc (p : Plane) (a : AccTile) : Plane :=
  { p with accs := p.accs.filter (fun x => !(x.page == a.page && x.tile == a.tile && x.n == a.n)) ++ [a] }

/-! ## Dies -/

def State.die (s : State) (d : Nat) : Die := s.dies.getD d Die.reset
def State.modDie (s : State) (d : Nat) (f : Die → Die) : State := { s with dies := modAt f s.dies d }

/-! ## Time, counters -/

/-- Domain time in nanoseconds (13 R297): 625 ps a cycle. -/
def State.time (s : State) : Nat := s.cycle * 5 / 8 + s.chip.timeBase

/-- A fresh identifier for an access, a request or a record. -/
def State.fresh (s : State) : Nat × State := (s.ord.nextId, { s with ord := { s.ord with nextId := s.ord.nextId + 1 } })

/-- A free word (log 4): the constant at the counter, and the counter moved on. -/
def State.freeWord (s : State) : W64 × State := (Config.freeWord s.free, { s with free := s.free + 1 })

/-- The context of a slot. -/
def State.ctx? (s : State) (slot : Nat) : Option Line := (s.adm.ctxs.find? (fun c => c.slot == slot)).map (·.desc)

def ctxRoot (d : Line) : Nat := fld d 184 128
def ctxArea (d : Line) : Nat := fld d 248 192
def ctxLevel (d : Line) : Bool := d.getLsbD 8
def ctxTenant (d : Line) : Nat := fld d 5 0

/-- Tenant of a context slot. -/
def State.tenantOf (s : State) (slot : Nat) : Nat := ((s.ctx? slot).map ctxTenant).getD 0
/-- A context of level S (19 R326). -/
def State.levelS (s : State) (slot : Nat) : Bool := ((s.ctx? slot).map ctxLevel).getD false
/-- A tenant-table entry (23 R370); zero unless written. -/
def State.tenant (s : State) (t : Nat) : BitVec 128 := ((s.adm.tenants.find? (fun x => x.n == t)).map (·.val)).getD 0

end Sys2Proof.Machine
end

