-- ==== Sys2Proof/Machine/Translate.lean ====
section
/-! DEFINITION. Translation (21 R348 to R354): the walk, its faults, the TLBs, and reads and writes of device virtual memory by
the engines. -/

namespace Sys2Proof.Machine

/-! ## Lines and poison (07 R133, R146) -/

/-- CODE of a block (07 R133): 0x0 until the controller chooses another. -/
def State.codeOf (s : State) (phys : Nat) : Nat := (cellGet s.mem.codes (phys / 128)).toNat

/-- A CODE that is never produced (07 R136). -/
def State.codeBad (s : State) (phys : Nat) : Bool := decide (11 ≤ s.codeOf phys)

/-- The line is poisoned, or its block's stored CODE is illegal (07 R136). -/
def State.poisoned (s : State) (phys : Nat) : Bool := s.mem.poison.contains (phys / 64) || s.codeBad phys

def State.isFull (s : State) (phys : Nat) : Bool := !s.mem.notFull.contains (phys / 64)

/-- The other line of a block. -/
def otherLine (line : Nat) : Nat := if line % 2 = 0 then line + 1 else line - 1

/-- Writes bytes of one line of HBM. A write of a whole line clears its poison, a partial write to a poisoned line is discarded (07
R146). The block is compressed anew (R136); the other line of a block whose CODE was illegal cannot be had back and is poisoned from then
on (log 75). `true`: discarded. -/
def State.hbmWrite (s : State) (phys : Nat) (bs : List Byte) : State × Bool :=
  let whole := phys % 64 = 0 ∧ bs.length = 64
  if s.poisoned phys ∧ ¬ whole then (s, true)
  else
    let hbm := cellWrite s.mem.hbm phys bs
    let poison := if whole then s.mem.poison.filter (· ≠ phys / 64) else s.mem.poison
    ({ s with mem := { s.mem with
        hbm := hbm
        codes := cellSet s.mem.codes (phys / 128) (BitVec.ofNat 8 (bdiCode (cellRead hbm (phys / 128 * 128) 128)))
        poison := if s.codeBad phys then insertNew (otherLine (phys / 64)) poison else poison } }, false)

def State.hbmRead (s : State) (phys n : Nat) : List Byte := cellRead s.mem.hbm phys n

/-! ## The walk -/

/-- A leaf: entry, log2 of the page size, grant token read with it. -/
structure Leaf where
  pte   : W64
  size  : Nat
  grant : W64
  deriving DecidableEq, Repr

/-- Why a walk fails: fault, level, entry. -/
structure WalkFault where
  fault : XFault
  level : Nat
  entry : W64
  deriving DecidableEq, Repr

def pteFrame (e : W64) : Nat := fld e 51 12 * 4096
def pteTgt (e : W64) : Nat := fld e 63 62

/-- Kinds of access for the rights check (21 R349). -/
def needsWrite : AccKind → Bool
  | .store | .release | .sete | .snapshot | .atomic _ => true
  | _ => false

/-- The leaf rules of 21 R348, R349 at a level, with the tenant's HBM window (23 R372). -/
def leafBad (s : State) (tenant : BitVec 128) (level : Nat) (e : W64) (addr : Nat) : Bool :=
  let frame := pteFrame e
  let c := e.getLsbD 3
  let size := if level = 3 then 2 ^ 30 else if level = 2 then 2 ^ 21 else if c then 2 ^ 16 else 2 ^ 12
  let grp := (List.range 16).any fun i =>
    let base := addr / 128 * 128
    let x := wordOfBytes (s.hbmRead (base + 8 * i) 8)
    let first := wordOfBytes (s.hbmRead base 8)
    x != first + BitVec.ofNat 64 (4096 * i)
  let cbad := c && (level != 1 || grp || (wordOfBytes (s.hbmRead (addr / 128 * 128) 8)).toNat / 4096 % 16 != 0)
  let cframe := if c then frame / 65536 * 65536 else frame
  let winLo := fld tenant 127 118 * 2 ^ 30
  let winHi := winLo + fld tenant 117 108 * 2 ^ 30
  pteTgt e == 3 || fld e 53 52 != 0
    || (pteTgt e != 1 && (fld e 61 54 != 0 || fld e 11 4 != 0))
    || (level ≥ 2 && frame % size != 0)
    || cbad
    || (pteTgt e == 0 && (cframe < winLo || cframe + size > winHi))

/-- Index of a virtual address at a level. -/
def vaIndex (va level : Nat) : Nat := va / 2 ^ (12 + 9 * (level - 1)) % 512

/-- What an entry comes to: a leaf, or the table of the next level. -/
inductive WalkStep where
  | leaf (l : Leaf)
  | table (addr : Nat)
  deriving DecidableEq, Repr

/-- The walk reads one entry, of a table at level `lv`, as one load (21 R348, R349). -/
def walkEntry (s : State) (tenant : BitVec 128) (carea va lv table : Nat) : Except WalkFault WalkStep :=
  let addr := table + 8 * vaIndex va lv
  let e := wordOfBytes (s.hbmRead addr 8)
  if s.poisoned addr then .error ⟨.walkpoison, lv, e⟩
  else if !e.getLsbD 0 then .error ⟨.notmapped, lv, e⟩
  else if e.getLsbD 2 then
    if lv ≥ 4 || leafBad s tenant lv e addr then .error ⟨.ptebad, lv, e⟩
    else
      let size := if lv = 3 then 30 else if lv = 2 then 21 else if e.getLsbD 3 then 16 else 12
      let grant := if pteTgt e = 1 then wordOfBytes (s.hbmRead (carea + 8 * fld e 11 4) 8) else 0
      .ok (.leaf ⟨e, size, grant⟩)
  else if lv = 1 || pteTgt e != 0 || fld e 61 52 != 0 || fld e 11 3 != 0 || e.getLsbD 1 then .error ⟨.ptebad, lv, e⟩
  else .ok (.table (pteFrame e))

/-- The walk from a table at `level` down (21 R348). -/
def walkFrom (s : State) (tenant : BitVec 128) (carea va : Nat) : Nat → Nat → Except WalkFault Leaf
  | 0, _ => .error ⟨.ptebad, 0, 0⟩
  | level + 1, table => match walkEntry s tenant carea va (level + 1) table with
    | .error e => .error e
    | .ok (.leaf l) => .ok l
    | .ok (.table t) => walkFrom s tenant carea va level t

/-- The whole walk of a context slot. -/
def State.walk (s : State) (slot va : Nat) : Except WalkFault Leaf :=
  if va ≥ 2 ^ 57 then .error ⟨.noncanon, 0, 0⟩
  else match s.ctx? slot with
    | none => .error ⟨.notmapped, 5, 0⟩
    | some d => walkFrom s (s.tenant (ctxTenant d)) (ctxArea d) va 5 (ctxRoot d)

/-- The rest of a walk that has come to a table of a level; the whole of it when it has read nothing. -/
def State.walkOn (s : State) (slot va : Nat) (at_ : Option (Nat × Nat)) : Except WalkFault Leaf :=
  match at_ with
  | none => s.walk slot va
  | some (level, table) => match s.ctx? slot with
    | none => .error ⟨.notmapped, 5, 0⟩
    | some d => walkFrom s (s.tenant (ctxTenant d)) (ctxArea d) va level table

/-- The level at which a leaf stands. -/
def Leaf.level (l : Leaf) : Nat := if l.size = 30 then 3 else if l.size = 21 then 2 else 1

/-- Where a leaf leads for an address (21 R348). A 64 KiB leaf's own FRAME already steps. -/
def leafPlace (l : Leaf) (va : Nat) : Place :=
  let frame := if l.size = 16 then pteFrame l.pte / 65536 * 65536 else pteFrame l.pte
  let off := va % 2 ^ l.size
  match pteTgt l.pte with
  | 1 => .remote (fld l.pte 61 54) (frame + off) l.grant
  | 2 => .host (frame + off)
  | _ => .hbm (frame + off)

/-- The cached translation of an address at a port, else at the die (21 R350). -/
def State.tlbHit (s : State) (die : Nat) (port : Option Nat) (slot va : Nat) : Option TlbEntry :=
  let fits (e : TlbEntry) : Bool := e.die == die && e.slot == slot && e.base == va / 2 ^ e.size * 2 ^ e.size
  match s.ord.tlb.find? (fun e => fits e && e.port == port && port.isSome) with
  | some e => some e
  | none => s.ord.tlb.find? (fun e => fits e && e.port == none)

/-- Puts a leaf into the die TLB and the port TLB; the oldest entries beyond 8,192 and 64 leave (21 R350; log 15). -/
def State.tlbFill (s : State) (die : Nat) (port : Option Nat) (slot va : Nat) (l : Leaf) : State :=
  let mk (p : Option Nat) : TlbEntry := ⟨die, p, slot, va / 2 ^ l.size * 2 ^ l.size, l.size, l.pte, l.grant⟩
  let keep (p : Option Nat) (cap : Nat) (es : List TlbEntry) : List TlbEntry :=
    let mine := es.filter (fun e => e.die == die && e.port == p)
    if mine.length < cap then es
    else match mine with
      | [] => es
      | m :: _ => es.erase m
  let es := keep none 8192 s.ord.tlb ++ [mk none]
  let es := match port with
    | none => es
    | some p => keep (some p) 64 es ++ [mk (some p)]
  { s with ord := { s.ord with tlb := es } }

/-! ## Virtual memory for the engines (log 16: they walk at each use) -/

/-- Place of one address for a read or a write, with the rights of the leaf. -/
def State.vplace (s : State) (slot va : Nat) (write : Bool) : Except WalkFault Place :=
  match s.walk slot va with
  | .error e => .error e
  | .ok l => if write && !l.pte.getLsbD 1 then .error ⟨.rights, l.level, l.pte⟩ else .ok (leafPlace l va)

/-- Bytes of one place and whether a line they lie in is poisoned. Another module's memory is not part of this state: it reads
as not mapped (log 16). -/
def State.placeRead (s : State) (p : Place) (n : Nat) : Option (List Byte × Bool) :=
  match p with
  | .hbm a => some (s.hbmRead a n, (List.range ((a % 64 + n + 63) / 64)).any fun i => s.poisoned (a / 64 * 64 + 64 * i))
  | .host a => some (cellRead s.mem.host a n, false)
  | .remote _ _ _ => none

/-- Reads `n` bytes page by page; `fuel` pages. Gives the bytes and whether any line is poisoned. -/
def State.vreadGo (s : State) (slot : Nat) : Nat → Nat → Nat → Except WalkFault (List Byte × Bool)
  | 0, _, _ => .ok ([], false)
  | fuel + 1, va, n =>
    if n = 0 then .ok ([], false)
    else
      let k := min n (4096 - va % 4096)
      match s.vplace slot va false with
      | .error e => .error e
      | .ok p =>
        match s.placeRead p k with
        | none => .error ⟨.notmapped, 1, 0⟩
        | some (bs, psn) =>
          match s.vreadGo slot fuel (va + k) (n - k) with
          | .error e => .error e
          | .ok (rest, q) => .ok (bs ++ rest, psn || q)

def State.vread (s : State) (slot va n : Nat) : Except WalkFault (List Byte × Bool) :=
  s.vreadGo slot (n / 4096 + 2) va n

/-- Writes bytes at one place; the flag says that a partial write to a poisoned line was discarded. -/
def State.placeWrite (s : State) (p : Place) (bs : List Byte) : Option (State × Bool) :=
  match p with
  | .hbm a => some (s.hbmWrite a bs)
  | .host a => some ({ s with mem := { s.mem with host := cellWrite s.mem.host a bs } }, false)
  | .remote _ _ _ => none

/-- Writes bytes page by page. -/
def State.vwriteGo (slot : Nat) : Nat → State → Nat → List Byte → Except WalkFault State
  | 0, s, _, _ => .ok s
  | fuel + 1, s, va, bs =>
    if bs.isEmpty then .ok s
    else
      let k := min bs.length (64 - va % 64)
      match s.vplace slot va true with
      | .error e => .error e
      | .ok p =>
        match s.placeWrite p (bs.take k) with
        | none => .error ⟨.notmapped, 1, 0⟩
        | some (t, _) => State.vwriteGo slot fuel t (va + k) (bs.drop k)

def State.vwrite (s : State) (slot va : Nat) (bs : List Byte) : Except WalkFault State :=
  State.vwriteGo slot (bs.length / 64 + 2) s va bs

/-- A 64-byte unit as a line (06 R105, 07 R130). -/
def State.vline (s : State) (slot va : Nat) : Except WalkFault (Line × Bool) :=
  match s.vread slot va 64 with
  | .error e => .error e
  | .ok (bs, p) => .ok (lineOf bs, p)

end Sys2Proof.Machine
end

