-- ==== Sys2Proof/Machine/Flags.lean ====
section
/-! DEFINITION. run.flags and the access codes of fields (02 R26, 00 R5). -/

namespace Sys2Proof.Machine

/-- Bits of run.flags that exist. -/
def flagMask : Flags := 0x1F

/-- `raise` (05 R104): flags accrue in run.flags (02 R26). -/
def Run.raise (r : Run) (f : Flags) : Run := { r with esc := { r.esc with flags := r.esc.flags ||| (f &&& flagMask) } }

def State.raise (s : State) (run : Nat) (f : Flags) : State := s.modRun run (·.raise f)

/-- A write to a register of W1C bits: ones clear, zeros leave (00 R5). -/
def w1c (old v : W64) : W64 := old &&& ~~~v

/-- A write to a register whose writable bits are `mask`; the other bits keep their value or read zero. -/
def writeMasked (old v mask : W64) : W64 := (old &&& ~~~mask) ||| (v &&& mask)

end Sys2Proof.Machine
end

