-- ==== Sys2Proof/Machine/Wiring.lean ====
section
/-! DEFINITION. How the elements of a block are wired (04 R68, 09 R168, 12 R238), and the cutting back of a transactional block to the
firings of its first waves (03 R52). -/

namespace Sys2Proof.Machine

/-- A pool word (09 R173). -/
def Blk.poolW (b : Blk) (p : Nat) : W64 := b.pool.getD p 0

/-- The instruction of a word. -/
def instrAt (b : Blk) (idx : Nat) : Option Instr :=
  match b.words[idx]? with
  | none => none
  | some w => match decodeWord w with
    | .ok i => some i
    | .error _ => none

/-- Consumer fields of routes RT2 to RT7 of an MDRAIN, from its route words (12 R238). -/
def mdrainRoutes (b : Blk) (f : Fab) : List (Option Con) :=
  if !f.imm.getLsbD 13 then []
  else
    let p := fld f.imm 9 0
    let (w1, w2) := if f.md = 1 then (b.poolW p, b.poolW (p + 1)) else (b.poolW (p + 1), b.poolW (p + 2))
    let con (w : W64) (j : Nat) : Option Con :=
      let c := w.extractLsb' (13 * j) 13
      if c.getLsbD 12 then some ⟨c.extractLsb' 5 7, c.extractLsb' 3 2, c.extractLsb' 0 3⟩ else none
    [con w1 0, con w1 1, con w1 2, con w1 3, con w2 0, con w2 1]

/-- The consumer of output k of an instruction. -/
def conOf (b : Blk) (i : Instr) (f : Fab) (k : Nat) : Option Con :=
  if k = 0 then f.cona
  else if k = 1 then f.conb
  else if opcodeOf i = 0x92 then (mdrainRoutes b f).getD (k - 2) none
  else none

/-- Every link of a block: producer index, output, consumer. -/
def blkLinks (b : Blk) : List (Nat × Nat × Con) :=
  (List.range b.words.length).flatMap fun j =>
    match instrAt b j with
    | none => []
    | some i => match fabOf i with
      | none => []
      | some f => (List.range (if opcodeOf i = 0x92 then 8 else 2)).filterMap fun k =>
          (conOf b i f k).map fun c => (j, k, c)

/-- The link that feeds an input. -/
def linkInto (b : Blk) (idx inp : Nat) : Option (Nat × Nat × Con) :=
  (blkLinks b).find? fun l => l.2.2.idx.toNat == idx && l.2.2.inp.toNat == inp

/-- An instruction that fires exactly once for each root iteration (03 R49). -/
def oncePerIteration (o : Nat) (f : Fab) : Bool :=
  if (0x48 ≤ o && o ≤ 0x4A) || o == 0x4C || o == 0x4E || (0x50 ≤ o && o ≤ 0x52) then false
  else if o == 0x4D then f.md == 3
  else if o == 0x41 then f.md == 1 && fld f.imm 19 10 == 0
  else if o == 0x70 || o == 0x71 || o == 0x72 || o == 0x76 then f.md == 0
  else if o == 0x82 || o == 0x83 || o == 0x88 then false
  else if 0x90 ≤ o && o < 0xB0 then false
  else o != 0xE0

/-! ## Cutting a block back (03 R52) -/

/-- Gives a generator back what a firing took. -/
def ungen (r : Run) (g : Option GenUndo) : Run :=
  match g with
  | none => r
  | some u =>
    let back (x : Gen) : Gen := match u.shifted, x.active with
      | true, some b => ⟨u.before, b :: x.pending⟩
      | _, _ => ⟨u.before, x.pending⟩
    { r with region := { r.region with gens := modAt (fun l => modAt back l u.ag) r.region.gens u.port } }

/-- The first `n` positions of a queue: the whole tokens of them, and how many elided positions are left over. -/
def keepPos : Nat → List Token → List Token × Nat
  | n, [] => ([], n)
  | n, t :: rest =>
    if t.skip + 1 ≤ n then
      let (ts, m) := keepPos (n - t.skip - 1) rest
      (t :: ts, m)
    else ([], n)

/-- The element before the firings of wave `k` and of later waves, its queues apart: the results of earlier waves still wait to
leave. -/
def cutElem (k : Nat) (e : Elem) : Elem :=
  if e.fires ≤ k then e
  else match e.snaps.find? (fun x => decide (k ≤ x.wave)) with
    | none => { e with fires := k }
    | some st =>
      { e with
        ctl := st.ctl
        latch := st.latch
        eos := st.eos
        ended := st.ended
        finished := st.finished
        out := e.out.filter (fun i => decide (i.rid < st.nextId))
        fires := k
        snaps := e.snaps.filter (fun x => decide (x.wave < k)) }

/-- Every link of the block keeps the positions that waves before `k` produced and that no wave before `k` consumed: whole tokens in
the queue, the elided ones after them pending at the producer. A position is a firing of its producer and of its consumer
(03 R49). -/
def cutLinks (old : Blk) (k : Nat) (b : Blk) : Blk :=
  (blkLinks old).foldl (fun b l =>
    let (p, o, c) := l
    let n (j : Nat) : Nat := min k (((old.elems[j]?).map (·.fires)).getD 0)
    let waits := ((b.elems[p]?).map fun e => !e.out.isEmpty).getD false
    let (ts, m) := keepPos (n p - n c.idx.toNat) (((old.elems[c.idx.toNat]?).map fun e => e.q.getD c.inp.toNat []).getD [])
    let elems := modAt (fun e => { e with q := setAt e.q c.inp.toNat ts }) b.elems c.idx.toNat
    { b with elems := if waits then elems else modAt (fun e => { e with pend := setAt e.pend o m }) elems p }) b

/-- The block as waves before `k` leave it. -/
def Blk.cut (k : Nat) (b : Blk) : Blk := cutLinks b k { b with elems := b.elems.map (cutElem k) }

/-- Firings of waves from `k` on that a block drops, by element, newest first. -/
def Blk.dropped (k : Nat) (b : Blk) : List Snap := b.elems.flatMap fun e => (e.snaps.filter fun x => decide (k ≤ x.wave)).reverse

/-- A position that a firing took from a place outside the block stands at its head again. -/
def Run.giveBack (r : Run) (q : Nat × Pos) : Run :=
  let back (l : List Token) : List Token := match q.2, l with
    | .tok t, _ => { t with skip := 0 } :: l
    | .elided, t :: rest => { t with skip := t.skip + 1 } :: rest
    | .elided, [] => []
  if q.1 = 0 then { r with inq := back r.inq }
  else if q.1 < 16 then { r with comps := modAt back r.comps q.1 }
  else { r with skid := r.skid.map fun x => if x.1 = q.1 - 16 then
      (x.1, match q.2, x.2 with
        | .elided, .plain t :: rest => .plain { t with skip := t.skip + 1 } :: rest
        | .elided, l => l
        | .tok t, l => .plain { t with skip := 0 } :: l)
    else x }

/-- Snaps by the moment of their firings, newest first. -/
def insertSnap (x : Snap) : List Snap → List Snap
  | [] => [x]
  | y :: ys => if y.nextId ≤ x.nextId then x :: y :: ys else y :: insertSnap x ys

/-- What dropped firings took from outside their block goes back, and the generators they advanced step back. -/
def Run.undrop (r : Run) (l : List Snap) : Run :=
  let r := l.foldl (fun r x => x.source.reverse.foldl Run.giveBack r) r
  (l.foldr insertSnap []).foldl (fun r x => x.gens.reverse.foldl (fun r g => ungen r (some g)) r) r

end Sys2Proof.Machine
end

