-- ==== Sys2Proof/Machine/Ops.lean ====
section
/-! DEFINITION. The named operations shared by all instructions: the error log, fault records, freezing, taking a trap and the
return from one, supervisor faults, wave aborts, reservations and tokens of the escapement. -/

namespace Sys2Proof.Machine

/-! ## Error log (22 R362 to R369) -/

/-- Bytes of a field, or free bytes where the spec gives the field no value; `free` are the free bytes of the record by offset. -/
def fieldBytes (free : Nat → Byte) (off n : Nat) (v : Option Nat) : List Byte :=
  match v with
  | some x => natBytes n x
  | none => (List.range n).map fun i => free (off + i)

/-- The 32 bytes of an entry (22 R368). -/
def entryBytes (free : Nat → Byte) (code time : Nat) (dom run site aux addr : Option Nat) : List Byte :=
  natBytes 2 code ++ fieldBytes free 2 1 dom ++ [0] ++ fieldBytes free 4 4 run ++ natBytes 8 time ++ fieldBytes free 16 2 site ++ [0, 0]
    ++ fieldBytes free 20 4 aux ++ fieldBytes free 24 8 addr

/-- Writes an event to the die's error log (22 R367, R368). `dom` is the domain index of 22 R362, `site` the site field of 21
R357; a field that the spec gives this event no value for is a free value (log 49). -/
def State.logEvent (s : State) (d code : Nat) (dom run site aux addr : Option Nat) : State :=
  let die := s.die d
  if !die.errlog.getLsbD 63 then s.modDie d fun x => { x with errLost := x.errLost + 1 }
  else
    let size := 2 ^ (7 + fld die.errlog 11 8)
    let slotAddr (k : Nat) : Nat := fld die.errlog 56 12 * 4096 + 32 * (k % size)
    let repeats := match die.newest with
      | some (c, dm, ad, t, m) =>
        if code = 0x300 ∧ c = 0x300 ∧ dom = some dm ∧ addr = some ad ∧ s.cycle - t ≤ 2 ^ 20 then some m else none
      | none => none
    match repeats with
    | some m =>
      -- a repeated CORR raises the merge count of the newest entry
      let m' := if m ≥ 255 then 255 else m + 1
      let (s1, _) := s.hbmWrite (slotAddr (die.errWritten.toNat - 1) + 3) [BitVec.ofNat 8 m']
      s1.modDie d fun x => { x with newest := x.newest.map fun (c, dm, ad, t, _) => (c, dm, ad, t, m') }
    | none =>
      let bs := entryBytes (fun i => Config.freeByte (s.free + i)) code s.time dom run site aux addr
      let (s1, _) := { s with free := s.free + 32 }.hbmWrite (slotAddr die.errWritten.toNat) bs
      s1.modDie d fun x => { x with
        errWritten := x.errWritten + 1
        errLost := if (x.errWritten - x.errMark).toNat ≥ size then x.errLost + 1 else x.errLost
        newest := some (code, dom.getD 0, addr.getD 0, s.cycle, 0) }

/-! ## Fault records (21 R357, R358) -/

/-- Codes of traps (21 R358). -/
def Trap.code : Trap → Nat
  | .seqrange => 0x100 | .seqovf => 0x101 | .sequnf => 0x102 | .seqtrap => 0x103 | .swapempty => 0x104 | .loadflt => 0x105
  | .strqfull => 0x106 | .fixgrp => 0x107 | .fixlost => 0x108
  | .stray => 0x110 | .deadlock => 0x111 | .markskew => 0x112 | .wodup => 0x113 | .txcap => 0x114 | .strmovr => 0x115
  | .packerr => 0x116 | .robpart => 0x117
  | .badctrl => 0x120 | .drainrt => 0x121 | .mopfpart => 0x122 | .topklen => 0x123 | .attnrange => 0x124 | .evictn => 0x125
  | .relhdr => 0x130 | .relkind => 0x131 | .relfull => 0x132 | .relbusy => 0x133 | .relnofix => 0x134 | .relrule => 0x135
  | .relwide => 0x136 | .rpartfull => 0x137 | .graddeep => 0x138 | .noowner => 0x139 | .relrange => 0x13A | .relcol => 0x13B
  | .misalign => 0x140 | .faddlost => 0x141 | .xferpkt => 0x142 | .stashrec => 0x143 | .stashfull => 0x144 | .stashhdr => 0x145
  | .wpinned => 0x146 | .pinfull => 0x147 | .pinerr => 0x148
  | .barneg => 0x150 | .bargrp => 0x151 | .usrtrap => 0x152 | .brk => 0x153 | .priv => 0x154 | .hnest => 0x155

def XFault.code : XFault → Nat
  | .noncanon => 0x200 | .notmapped => 0x201 | .rights => 0x202 | .ptebad => 0x203 | .hostdeny => 0x204 | .walkpoison => 0x205
  | .grantdeny => 0x206

def LoadCode.code : LoadCode → Nat
  | .badhdr => 1 | .badopc => 2 | .badsite => 3 | .badcon => 4 | .badslot => 5 | .badfmt => 6 | .badtx => 7 | .badpos => 8
  | .badcarve => 9 | .badring => 10 | .badstrat => 11 | .badneg => 12 | .badrule => 13 | .badlanes => 14

/-- The fields of a fault record that a raiser supplies (21 R357); what the spec gives this report no value for is `none`. -/
structure FaultInfo where
  code   : Nat
  kind   : Nat
  flags  : Nat
  site   : Option Nat
  idx    : Option Nat
  blk    : Option Nat
  va     : Option Nat
  access : Option Nat
  port   : Option Nat
  level  : Option Nat
  aux    : Option Nat
  aux64  : Option Nat
  cyc    : List (Nat × Nat × Nat)
  packet : Option Line
  deriving DecidableEq, Repr

def FaultInfo.base (code kind : Nat) : FaultInfo := ⟨code, kind, 0, none, none, none, none, none, none, none, none, none, [], none⟩

/-- FLAGS bit 4: raised at a sequence word. -/
def FaultInfo.atWord (t : Trap) : FaultInfo := { FaultInfo.base t.code 1 with flags := 16 }

/-- The site field of 21 R357: page, quadrant, tile, UNIT. -/
def siteCode (b : Blk) (f : Fab) : Nat := b.page + 64 * b.quad + 256 * f.tile.toNat + 4096 * f.unit.toNat

/-- The 256 bytes of a record (21 R357); a field without a value holds free bytes (log 49). -/
def recordBytes (free : Nat → Byte) (i : FaultInfo) (flags identity time : Nat) (sqc g62 g63 : Option Nat) : List Byte :=
  natBytes 2 i.code ++ natBytes 1 i.kind ++ natBytes 1 (i.flags ||| flags) ++ natBytes 4 identity ++ natBytes 8 time
  ++ fieldBytes free 0x10 4 sqc ++ fieldBytes free 0x14 2 i.site ++ fieldBytes free 0x16 1 i.idx ++ fieldBytes free 0x17 1 i.blk
  ++ fieldBytes free 0x18 8 i.va
  ++ fieldBytes free 0x20 1 i.access ++ fieldBytes free 0x21 1 i.port ++ fieldBytes free 0x22 1 i.level
  ++ fieldBytes free 0x23 1 none ++ fieldBytes free 0x24 4 i.aux ++ fieldBytes free 0x28 8 i.aux64
  ++ fieldBytes free 0x30 8 g62 ++ fieldBytes free 0x38 8 g63
  ++ ((i.cyc.take 16).flatMap fun e => natBytes 2 e.1 ++ natBytes 1 e.2.1 ++ natBytes 1 e.2.2)
  ++ (List.range (64 - 4 * (i.cyc.take 16).length)).map (fun k => free (0x7F - k))
  ++ (match i.packet with
      | some p => bytesOfLine p
      | none => (List.range 64).map fun k => free (0x80 + k))
  ++ List.replicate 64 0

/-! ## Freezing (19 R331, 03 R52) -/

/-- Tokens of an ingress port hold `n` credits more. -/
def State.holdCredits (s : State) (p : Option (Nat × Nat)) (n : Nat) : State :=
  let up (q : HPort) : HPort := if p = some (q.die, q.port) then { q with used := q.used + n } else q
  { s with adm := { s.adm with ports := s.adm.ports.map up } }

/-- Discards waves `k` and later of a block: held effects, withdrawn tokens, inputs presented again, what came from outside the block
back in its place (03 R52). A configuration that was done goes on. -/
def State.dropWaves (s : State) (b : BlkRef) (k : Nat) : State :=
  let accs := s.ord.accs.filter fun a =>
    !(a.elem.run == b.run && a.elem.plane == b.plane && a.elem.load == b.load && a.elem.blk == b.blk
      && (match a.wave with | some w => decide (k ≤ w) | none => false))
  let gone := ((((s.run? b.run).bind fun r => r.load? b.plane b.load).bind fun l => l.blks[b.blk]?).map (Blk.dropped k)).getD []
  let s := s.modLoad b.run b.plane b.load fun l =>
    { l with blks := modAt (Blk.cut k) l.blks b.blk
             doneAt := if gone.isEmpty then l.doneAt else none
             registered := gone.isEmpty && l.registered }
  -- a host token that stands in its ingress port again holds its credit again
  let n := (gone.flatMap (·.source)).countP fun q => q.1 == 0 && match q.2 with
    | .tok _ => true
    | .elided => false
  let port := (s.run? b.run).bind (·.ingress)
  let s := s.holdCredits port n
  let s := s.modRun b.run fun r => r.undrop gone
  { s with ord := { s.ord with
      accs := accs
      waves := s.ord.waves.filter fun w => !(w.blk == b && decide (k ≤ w.k)) } }

/-- Aborts every uncommitted wave of a run, uncounted; a held serialising lock is released (03 R52, 22 R365). -/
def State.abortRun (s : State) (run : Nat) : State :=
  let blks := ((s.ord.waves.filter (fun w => w.blk.run == run)).map (·.blk)).eraseDups
  let s := blks.foldl (fun s b =>
    let k := ((((s.run? run).bind fun r => r.load? b.plane b.load).bind fun l => l.blks[b.blk]?).map (·.committed)).getD 0
    s.dropWaves b k) s
  { s with dies := s.dies.map fun d => match d.lock with
      | some b => if b.run = run then { d with lock := none } else d
      | none => d }

/-- Freezes a run's region at this cycle boundary (03 R54, 19 R331). -/
def State.freeze (s : State) (run : Nat) (h : Hold) : State :=
  (s.abortRun run).modRun run fun r => { r with st := .frozen, hold := h }

/-! ## Supervisor reports (19 R330, 21 R361) -/

/-- The egress ring that carries the indices of a die's records: ring ECH of the lowest slot with an S context (log 17). -/
def State.supervisorSlot (s : State) : Option Nat :=
  (s.adm.ctxs.filter (fun c => ctxLevel c.desc)).foldl (fun a c => match a with
    | none => some c.slot
    | some x => some (min x c.slot)) none

/-- A 256-byte record line by line, as rings are 64-byte aligned. -/
def State.hbmWriteRecord (s : State) (a : Nat) (bs : List Byte) : State :=
  let s := (s.hbmWrite a (bs.take 64)).1
  let s := (s.hbmWrite (a + 64) ((bs.drop 64).take 64)).1
  let s := (s.hbmWrite (a + 128) ((bs.drop 128).take 64)).1
  (s.hbmWrite (a + 192) (bs.drop 192)).1

/-- A record is unread while its index stands in its egress ring, between TAIL and HEAD (24 R382; log 18). -/
def State.isUnread (s : State) (u : Option (Nat × Nat × Nat)) : Bool :=
  match u with
  | none => true
  | some (slot, ring, pos) =>
    let v := ((s.adm.rings.find? fun r => r.slot == slot && r.ring == ring).map (·.val)).getD 0
    decide ((fld v 95 64 + 2 ^ 32 - pos) % 2 ^ 32 ≤ (fld v 95 64 + 2 ^ 32 - fld v 127 96) % 2 ^ 32)

/-- Records of a die's ring that software has not consumed: those whose index still waits for its egress ring, or stands in it. -/
def State.unreadOf (s : State) (d : Nat) : Nat :=
  (s.ord.egq.filter fun t => t.fault == some d).length + ((s.die d).unread.filter s.isUnread).length

/-- Writes a record to the ring of a die and sends its index; where reports are disabled, or the ring is full, RINGFULL is logged
instead (19 R330). -/
def State.reportRing (s : State) (d identity : Nat) (sqc g62 g63 : Option Nat) (i : FaultInfo) : State :=
  let die := s.die d
  let size := 2 ^ (4 + fld die.faultchan 11 8)
  if !die.faultchan.getLsbD 63 ∨ size ≤ s.unreadOf d then s.logEvent d 0x314 none (some identity) i.site none none
  else
    let k := die.faults % size
    let bs := recordBytes (fun k => Config.freeByte (s.free + k)) i 1 identity s.time sqc g62 g63
    let s1 := { s with free := s.free + 256 }.hbmWriteRecord (fld die.faultchan 56 12 * 4096 + 256 * k) bs
    let s1 := s1.modDie d fun x => { x with faults := x.faults + 1 }
    match s.supervisorSlot with
    | none => s1.modDie d fun x => { x with unread := x.unread ++ [none] }
    | some slot =>
      let t : EgTok := ⟨slot, fld die.faultchan 3 0, 0, BitVec.ofNat 64 (k * 2 ^ 14), [], s.cycle, some d⟩
      { s1 with ord := { s1.ord with egq := s1.ord.egq ++ [t] } }

/-- An S-level fault of a run: the run stays FROZEN until system software acts (21 R361). -/
def State.supervisorFault (s : State) (run : Nat) (i : FaultInfo) : State :=
  match s.run? run with
  | none => s
  | some r =>
    let s := s.freeze run .supervisor
    let t := s.reportRing r.die (s.identity run) (some r.esc.sqc) (some (r.getG 62).toNat) (some (r.getG 63).toNat) i
    let ring := if (t.die r.die).faults = (s.die r.die).faults then none else some (s.die r.die).faults
    t.modRun run fun x => { x with caught := some ⟨s.cycle, r.esc, ring, i.kind != 1⟩ }

/-! ## Taking a trap and returning (21 R360, R361) -/

/-- FRA of run.handler (19 R329). -/
def fraOf (h : W64) : Nat := fld h 56 8 * 256

/-- TAKING AN EXCEPTION. A trap of a run: while the handler runs it is HNEST; BREAK and HNEST, and every trap with EN clear, go to
the die's ring (21 R361). Otherwise the region freezes, the record is written at FRA with VALID set and with G62, G63 and SQC
saved in it, G62 := FRA, G63 := CODE, SQC := run.hsqc, and the escapement issues in handler state (21 R360). A record area that
cannot be written makes the trap a supervisor report (log 19). -/
def State.takeTrap (s : State) (run : Nat) (t : Trap) (i : FaultInfo) : State :=
  match s.run? run with
  | none => s
  | some r =>
    if r.esc.handler.isSome then
      s.supervisorFault run { i with code := Trap.hnest.code }
    else if t = .brk ∨ t = .hnest ∨ !r.regs.handler.getLsbD 63 then s.supervisorFault run i
    else
      let fra := fraOf r.regs.handler
      let g62 := r.getG 62
      let g63 := r.getG 63
      let bytes := recordBytes (fun k => Config.freeByte (s.free + k)) i 32 (s.identity run) s.time (some r.esc.sqc) (some g62.toNat)
        (some g63.toNat)
      match { s with free := s.free + 256 }.vwrite r.slot fra bytes with
      | .error _ => s.supervisorFault run i
      | .ok s1 =>
        (s1.freeze run .handler).modRun run fun r =>
          let r := (r.setG 62 (BitVec.ofNat 64 fra)).setG 63 (BitVec.ofNat 64 i.code)
          { r with esc := { r.esc with
              sqc := r.regs.hsqc.toNat
              handler := some (g62, g63, r.esc.sqc, t == .seqtrap, r.esc.wait)
              wait := .idle }
                   caught := some ⟨s.cycle, r.esc, none, false⟩ }

/-- A trap whose firing has taken place: USRTRAP and FADDLOST (13 R274, R296). -/
def State.takeTrapDone (s : State) (run : Nat) (t : Trap) (i : FaultInfo) : State :=
  (s.takeTrap run t i).modRun run fun r => { r with caught := none }

/-- Clears VALID in the record at FRA. -/
def State.clearValid (s : State) (slot fra : Nat) : State :=
  match s.vread slot (fra + 3) 1 with
  | .ok (bs, _) => match s.vwrite slot (fra + 3) [BitVec.ofNat 8 (bytesNat bs % 32 + bytesNat bs / 64 * 64)] with
    | .ok t => t
    | .error _ => s
  | .error _ => s

/-- A freeze for the system software, or a reload, falls in the cycle of a trap or fault of the run: the trapping firing has not taken
place, and its trap is taken again on resume (19 R331, 22 R364); a fault's record stays, with DEFERRED set (21 R361). None: nothing of
the kind happened in this cycle. A trap that has consumed its input stands (log 114). -/
def State.uncatch (s : State) (run : Nat) (h : Hold) : Option State :=
  match s.run? run with
  | none => none
  | some r =>
    match r.caught with
    | none => none
    | some c =>
      if c.at_ ≠ s.cycle ∨ r.st ≠ .frozen then none
      else
        let die := s.die r.die
        let size := 2 ^ (4 + fld die.faultchan 11 8)
        let s : State := match c.ring, c.fault with
          | some n, true => (s.hbmWrite (fld die.faultchan 56 12 * 4096 + 256 * (n % size) + 3) [3]).1
          | some n, false =>
            let last : Option EgTok := (s.ord.egq.filter fun t => t.fault == some r.die).getLast?
            let s := s.modDie r.die fun x => { x with faults := n, unread := if last.isSome then x.unread else x.unread.dropLast }
            { s with ord := { s.ord with egq := s.ord.egq.filter fun t => some t != last } }
          | none, true => s
          | none, false => if r.hold = Hold.handler then s.clearValid r.slot (fraOf r.regs.handler) else s
        some (s.modRun run fun r => { r with esc := c.esc, hold := h, caught := none })

/-- RETURN FROM A TRAP, `TRAPS #0xFFFF` in handler state: restores G62, G63 and SQC from the record, clears VALID and thaws the
region; SEQTRAP resumes at SQC + 1 (21 R360, 10 R195). A record that can no longer be read gives way to the escapement's own
copy (log 19). -/
def State.endHandler (s : State) (run : Nat) : State :=
  match s.run? run with
  | none => s
  | some r =>
    match r.esc.handler with
    | none => s
    | some (g62, g63, sqc, skip, wait) =>
      let fra := fraOf r.regs.handler
      let (a, b, q) := match s.vread r.slot fra 64 with
        | .ok (bs, _) => (BitVec.ofNat 64 (bytesNat ((bs.drop 0x30).take 8)), BitVec.ofNat 64 (bytesNat ((bs.drop 0x38).take 8)),
            bytesNat ((bs.drop 0x10).take 4))
        | .error _ => (g62, g63, sqc)
      (s.clearValid r.slot fra).modRun run fun r =>
        let r := (r.setG 62 a).setG 63 b
        { r with st := .resident, hold := .none
                 esc := { r.esc with
                   sqc := if skip then q + 1 else q
                   handler := none
                   wait := if skip || q != sqc then .idle else wait } }

/-- A trap at the run's sequence word, SQC left on it; the word begins anew on resume. -/
def State.trapWord (s : State) (run : Nat) (t : Trap) : State :=
  (s.modRun run fun r => { r with esc := { r.esc with wait := .idle } }).takeTrap run t (FaultInfo.atWord t)

/-! ## A run at its creation (03 R30) -/

/-- The escapement of a new run: SQC 0, G1 to G8 the arguments, everything else empty or zero. -/
def Esc.init (args : List W64) : Esc :=
  ⟨0, 0 :: ((args.take 8) ++ List.replicate (63 - (args.take 8).length) 0), [], 0, 0, 0, List.replicate 8 [], .idle, 0, none, 0, 0,
    none, 0⟩

def Plane.empty : Plane := ⟨[], [], none, none, none⟩

def Region.empty : Region := ⟨0, 0, [], [], [], []⟩

/-- A run as its identifier is allocated: PENDING, with the state that it has when it first becomes resident (03 R30, R31). -/
def Run.init (id slot image die prio : Nat) (args : List W64) : Run where
  id := id
  slot := slot
  image := image
  die := die
  st := .pending
  hold := .none
  esc := Esc.init args
  regs := ⟨BitVec.ofNat 3 prio, 0, 0, false⟩
  region := Region.empty
  p0 := Plane.empty
  p1 := Plane.empty
  activeOne := false
  gates := []
  groups := []
  selfs := []
  passes := []
  sent := 0
  applied := 0
  promoted := 0
  base := (0, 0)
  ingress := none
  ring := 0
  inq := []
  comps := List.replicate 16 []
  pinned := none
  cycles := 0
  idle := 0
  probing := none
  moved := false
  queuedAt := 0
  aged := 0
  residentAt := 0
  quantum := false
  backfill := none
  orders := []
  record := none
  saved := []
  savedBad := []
  skid := []
  caught := none
  been := false

/-- The value of a group-table entry that means SELF (12 R242). -/
def selfGroup : W64 := 0xFFFFFFFFFFFFFFFF

/-- The validated image that a run executes (09 R184). -/
def State.image? (s : State) (r : Run) : Option Image := s.adm.images.find? (fun i => i.slot == r.slot && i.addr == r.image)

/-- The sequence of a run; a run without a validated copy has none. -/
def State.seqOf (s : State) (r : Run) : List W64 := ((s.image? r).map (·.seq)).getD []

end Sys2Proof.Machine
end

