-- ==== Sys2Proof/Machine/Operands.lean ====
section
/-! DEFINITION. Operand forms: tokens and their layouts (04 R59 to R65), positions at the head of an input (R66), result markers
and end tokens (10 R197, R198), channels of an element's tile (05 R91 to R93). -/

namespace Sys2Proof.Machine

/-! ## Tokens -/

def Mark.code : Mark → Nat
  | .data => 0 | .last => 1 | .last2 => 2 | .eot => 3 | .eos => 4 | .ctrl => 5 | .steer => 6 | .poison => 7

def Mark.ofCode : Nat → Mark
  | 0 => .data | 1 => .last | 2 => .last2 | 3 => .eot | 4 => .eos | 5 => .ctrl | 6 => .steer | _ => .poison

/-- End tokens (10 R198). -/
def Mark.isEnd : Mark → Bool
  | .eot | .eos => true
  | _ => false

/-- Rank of a structural marker: LAST2 above LAST above DATA (10 R197). -/
def Mark.rank : Mark → Nat
  | .last => 1
  | .last2 => 2
  | _ => 0

def Mark.ofRank : Nat → Mark
  | 0 => .data | 1 => .last | _ => .last2

/-- A scalar token. -/
def scalarTok (w : W32) (m : Mark) (chan : Nat) : Token := ⟨false, w.setWidth 512, 1, m, 0, chan⟩

/-- A vector token. -/
def vecTok (v : Line) (mask : BitVec 16) (m : Mark) (chan : Nat) : Token := ⟨true, v, mask, m, 0, chan⟩

/-- The POISON token that carries a structural marker (04 R62, R63). -/
def poisonTok (vec : Bool) (m : Mark) (chan : Nat) : Token :=
  ⟨vec, BitVec.ofNat 512 m.rank, if vec then 0xFFFF else 1, .poison, 0, chan⟩

def eosTok (vec : Bool) (chan : Nat) : Token := ⟨vec, 0, if vec then 0xFFFF else 1, .eos, 0, chan⟩

/-- DATA of a scalar token. -/
def Token.word (t : Token) : W32 := lane t.data 0

def Token.isPoison (t : Token) : Bool := t.mark == .poison

/-- Structural marker of a token: of a POISON token the one it holds, DATA when its payload is malformed (04 R62). -/
def Token.struct (t : Token) : Mark :=
  match t.mark with
  | .poison => if t.word.toNat < 3 then Mark.ofRank t.word.toNat else .data
  | m => m

/-- The 46 bits of a scalar token (04 R59). -/
def Token.scalarBits (t : Token) : BitVec 46 :=
  t.word ++ BitVec.ofNat 3 t.mark.code ++ BitVec.ofNat 6 t.skip ++ BitVec.ofNat 5 t.chan

/-- A scalar token from its bits (04 R59). -/
def Token.ofScalarBits (b : BitVec 46) : Token :=
  ⟨false, (b.extractLsb' 14 32).setWidth 512, 1, Mark.ofCode (fld b 13 11), fld b 10 5, fld b 4 0⟩

/-- The 542 bits of a vector token (04 R60). -/
def Token.vectorBits (t : Token) : BitVec 542 :=
  t.data ++ t.lmask ++ BitVec.ofNat 3 t.mark.code ++ BitVec.ofNat 6 t.skip ++ BitVec.ofNat 5 t.chan

/-- A vector token from its bits (04 R60). -/
def Token.ofVectorBits (b : BitVec 542) : Token :=
  ⟨true, b.extractLsb' 30 512, b.extractLsb' 14 16, Mark.ofCode (fld b 13 11), fld b 10 5, fld b 4 0⟩

/-! ## Heads of queues (04 R66) -/

/-- The position at the head of a queue; an input's SKIP is consumed before its token. -/
def headPos : List Token → Option Pos
  | [] => none
  | t :: _ => if t.skip > 0 then some .elided else some (.tok t)

/-- Consumes one position. -/
def popPos : List Token → List Token
  | [] => []
  | t :: rest => if t.skip > 0 then { t with skip := t.skip - 1 } :: rest else rest

/-- Elided positions at the head. -/
def elidedRun : List Token → Nat
  | [] => 0
  | t :: _ => t.skip

/-- Consumes `n` elided positions. -/
def popElided (n : Nat) : List Token → List Token
  | [] => []
  | t :: rest => { t with skip := t.skip - n } :: rest

def Elem.queue (e : Elem) (k : Nat) : List Token := e.q.getD k []
def Elem.setQueue (e : Elem) (k : Nat) (l : List Token) : Elem := { e with q := setAt e.q k l }
def Elem.head (e : Elem) (k : Nat) : Option Pos := headPos (e.queue k)

/-- Consumes one position of an input, and notes a consumed EOS (03 R36). -/
def Elem.pop (e : Elem) (k : Nat) : Elem :=
  let e1 := e.setQueue k (popPos (e.queue k))
  match e.head k with
  | some (.tok t) => if t.mark = .eos then { e1 with eos := insertNew k e1.eos } else e1
  | _ => e1

def Elem.pops (e : Elem) (ks : List Nat) : Elem := ks.foldl (fun e k => e.pop k) e

/-- The position is a POISON token. -/
def Pos.poison : Pos → Bool
  | .elided => false
  | .tok t => t.isPoison

def Pos.mark : Pos → Mark
  | .elided => .data
  | .tok t => t.mark

/-- End token at a head. -/
def Pos.isEnd (p : Pos) : Bool := p.mark.isEnd

/-- Structural marker of a position. -/
def Pos.struct : Pos → Mark
  | .elided => .data
  | .tok t => t.struct

/-- Bits of a position's word: +0 when elided (04 R65). -/
def Pos.word : Pos → W32
  | .elided => 0
  | .tok t => t.word

/-- Channel of a position; an elided one has the default of its element. -/
def Pos.chan (d : Nat) : Pos → Nat
  | .elided => d
  | .tok t => t.chan

/-- The marker of a result (10 R197). -/
def resultMark (ps : List Pos) : Mark :=
  match ps with
  | [] => .data
  | a :: _ =>
    match a.mark with
    | .ctrl => .ctrl
    | .steer => .steer
    | _ => Mark.ofRank ((ps.map fun p => p.struct.rank).foldl max 0)

/-- Lanes of a vector position, each present or not; an elided position is sixteen masked lanes (11 R209). -/
def Pos.lanes : Pos → List (Option W32)
  | .elided => List.replicate 16 none
  | .tok t => (List.range 16).map fun l => if t.lmask.getLsbD l then some (lane t.data l) else none

/-! ## Channels of an element -/

/-- Channel n of a configuration (05 R91); 32 + n is channel n with its coded blocks expanded, of the uncoded format (R89). -/
def Loaded.chan (l : Loaded) (n : Nat) : Chan :=
  let c := chanOf (l.chans.getD (n % 32) 0) l.scales
  if n < 32 then c else { c with fmt := if c.fmt = 5 then 3 else if c.fmt = 6 then 4 else c.fmt }

/-- Result channel number of instruction `idx`: its channel-map byte, or CH0 (09 R172). -/
def Blk.chanNo (b : Blk) (idx : Nat) : Nat := ((b.cmap.getD idx 0).toNat) % 32

/-- SOUT of an instruction's channel-map byte (09 R172). -/
def Blk.sout (b : Blk) (idx : Nat) : Bool := (b.cmap.getD idx 0).getLsbD 5

/-- VK register of a tile of a block (02 R16, 09 R403). -/
def Loaded.vk (l : Loaded) (page tile reg : Nat) : Line :=
  ((l.vks.find? (fun v => v.page == page && v.tile == tile && v.reg == reg)).map (·.val)).getD 0

/-- TX bit of a block (09 R169). -/
def Blk.tx (b : Blk) : Bool := b.hdr.getLsbD 116

/-! ## Element initial state -/

/-- Operation state at configuration load. -/
def initCtl (o : Nat) (md : BitVec 2) (imm : BitVec 20) : Ctl :=
  if o == 0x4A then .cmerge true []
  else if o == 0x49 then .merge none
  else if o == 0x4C then .gate false 0 false
  else if o == 0x4D then .ctr none 0 false
  else if o == 0x41 || o == 0x4E || o == 0x91 || o == 0xAA then .count 0 false
  else if 0x50 ≤ o && o ≤ 0x52 then .accum 0 false false
  else if o == 0x70 || o == 0x71 || o == 0x72 || o == 0x76 then .fold none false false
  else if o == 0x73 then .scan none
  else if o == 0x75 then .maxr (packLanes (List.replicate 16 0xFF800000))
  else if o == 0x82 then .pack []
  else if o == 0x88 then .rob 0 0 0 0
  else if o == 0x90 then .mma [] none
  else if o == 0x92 then .drain none
  else if o == 0x9E then .rscan 0 none false
  else if o == 0x98 then .probe none 0 0 none
  else if o == 0x9A then .rpart [] [] false
  else if o == 0xA9 then .topk [] false
  else if o == 0xE0 then (if md == 1 then .count 0 false else .barj (fld imm 11 0) 0 0 0 false)
  else if o == 0xE3 then .brk false
  else if o == 0xC9 then .stash none
  else .none

/-- An element as the load leaves it: empty queues, no pending skips (09 R171). DESIGN CHOICE (log 102): its stage latch or ACC holds a
scalar zero with marker DATA before its first result; the spec gives it no reset value. -/
def initElem (o : Nat) (md : BitVec 2) (imm : BitVec 20) : Elem :=
  ⟨List.replicate 4 [], List.replicate 8 0, initCtl o md imm, [], [], false, false, 0, 0, [], scalarTok 0 .data 0⟩

end Sys2Proof.Machine
end

