-- ==== Sys2Proof/Machine/Firing.lean ====
section
/-! DEFINITION. How an element fires (04 R64, R67 to R70): the slots its consumers have, the emission of tokens and elided zeros,
the ordered results of port elements, and the one driver that every fabric instruction uses. -/

namespace Sys2Proof.Machine

/-- What a firing works on: the state, the element, where it stands, its word's fields and opcode. -/
structure FireIn where
  s   : State
  ref : ElemRef
  at_ : Here
  f   : Fab
  o   : Nat

/-- A firing that happens: the element after it (inputs consumed, operation state changed), the results of this cycle, results
for later cycles in order, flags, tokens drawn from outside the block, and what else happens. -/
structure Act where
  elem  : Elem
  emits : List Emit := []
  later : List OutItem := []
  flags : Flags := 0
  src   : List (Nat × Pos) := []
  eff   : State → State := id

/-- What the firing rule and the instruction decide. -/
inductive Fire where
  | wait
  | trap (t : Trap) (info : FaultInfo → FaultInfo)
  /-- An S-level fault: the inputs stay queued and the run freezes for the system software (21 R359, R361). -/
  | fault (info : FaultInfo → FaultInfo)
  | act (a : Act)

namespace FireIn

def elem (x : FireIn) : Elem := x.at_.elem
def load (x : FireIn) : Loaded := x.at_.load
def blk (x : FireIn) : Blk := x.at_.blk
def run (x : FireIn) : Run := x.at_.run
def md (x : FireIn) : Nat := x.f.md.toNat
/-- Result channel number and entry (05 R93). -/
def rcNo (x : FireIn) : Nat := x.blk.chanNo x.ref.idx
def rc (x : FireIn) : Chan := x.load.chan x.rcNo
/-- Entry of the channel a position's word is read under. -/
def ch (x : FireIn) (p : Pos) : Chan := x.load.chan (p.chan x.rcNo)
def imm (x : FireIn) (hi lo : Nat) : Nat := fld x.f.imm hi lo
def pool (x : FireIn) (p : Nat) : W64 := x.blk.poolW p
/-- Head position of an input. -/
def head (x : FireIn) (k : Nat) : Option Pos := x.elem.head k
/-- Outputs CONA and CONB that name a consumer. -/
def outs (x : FireIn) : List Nat := (if x.f.cona.isSome then [0] else []) ++ (if x.f.conb.isSome then [1] else [])
/-- The block of the element. -/
def br (x : FireIn) : BlkRef := ⟨x.ref.run, x.ref.plane, x.ref.load, x.ref.blk⟩
def tile (x : FireIn) : Nat := pageTile x.blk x.f

end FireIn

/-! ## Links and slots (04 R67 to R72) -/

/-- A write-once buffer feeds the input (04 R73). -/
def Loaded.woFeeds (l : Loaded) (blk : Nat) (c : Con) : Bool :=
  l.bufs.any fun w => w.blk == blk && w.idx == c.idx.toNat && w.inp == c.inp.toNat

/-- The queue that a link ends in: its input's, or the write port of the write-once buffer that feeds the input (04 R73). -/
def conQueue (l : Loaded) (blk : Nat) (c : Con) : Nat := if l.woFeeds blk c then c.inp.toNat + 4 else c.inp.toNat

/-- Depth of a link (04 R68): its slots; with a QUEUE buffer the capacity of the buffer alone (R72; log 104); a write-once buffer's write
port holds one token. -/
def linkCap (l : Loaded) (blk : Nat) (c : Con) : Nat :=
  if l.woFeeds blk c then 1
  else match l.carves.find? (fun k => k.kind == 1 && fld k.info 15 8 == blk && fld k.info 22 16 == c.idx.toNat
      && fld k.info 25 24 == c.inp.toNat) with
  | some k => 2 ^ fld k.info 3 0
  | none => c.slots.toNat

/-- Tokens in the queue that a link ends in. -/
def queueOf (l : Loaded) (blk : Nat) (b : Blk) (c : Con) : List Token :=
  ((b.elems[c.idx.toNat]?).map (·.queue (conQueue l blk c))).getD []

/-- The space port of a QUEUE buffer (04 R72): its free entries as an INT32 token. No word of the encoding asks it (log 104). -/
def spaceTok (l : Loaded) (blk : Nat) (b : Blk) (c : Con) (chan : Nat) : Token :=
  scalarTok (BitVec.ofNat 32 (linkCap l blk c - (queueOf l blk b c).length)) .data chan

/-! ### What the next firing takes (R67) -/

/-- Inputs that the next firing of an element takes; `has` says which inputs hold a position. An element with results or work of its
own in hand takes none. First the inputs it needs, then those of which any one would do (10 R202). -/
def Elem.needs (e : Elem) (tx : Bool) (o : Nat) (f : Fab) (has : Nat → Bool) : List Nat × List Nat :=
  let ins := (inputsOf o f.md f.imm).1
  if f.unit.toNat ≠ 15 ∧ e.out.any (fun i => !(i.ready && i.emits.isEmpty)) then ([], [])
  else match o, e.ctl with
  | 0x49, .merge (some (k, _)) => ([k], [])
  | 0x49, _ => match headPos (e.queue 2) with
    | none => ([2], [])
    | some p =>
      if p.isEnd then ([0, 1, 2], [])
      else
        let k := if p.poison || p.word == 0 then 0 else 1
        (if tx || has k then [2, k] else [2], [])
  | 0x4A, .cmerge lastOne _ => if has 0 && has 1 then ([if lastOne then 0 else 1], []) else if has 0 then ([0], []) else if has 1 then ([1], []) else ([], [0, 1])
  | 0x4C, .gate isOpen _ ended =>
    if ended then ([1], [])
    else if isOpen || ((headPos (e.queue 0)).map Pos.isEnd).getD false then ([0], [])
    else if has 0 || tx then ([0, 1], []) else ([1], [])
  | 0x4D, .ctr (some _) _ _ => ([], [])
  | 0x41, .count _ true => ([], [])
  | 0x88, .rob _ e _ _ => (if e = 0 then ins else [], [])
  | 0x92, .drain (some _) => ([], [])
  | 0x9A, .rpart _ es _ => (if es.isEmpty then ins else [], [])
  | 0x98, .probe (some _) _ _ _ => ([], [])
  | 0xE0, .barj _ _ _ left _ => if f.md = 1 then ([0], []) else if left = 0 then ([], [0, 1]) else ([], [])
  | _, _ => (ins, [])

/-- An output that the next firing may leave empty-handed (R67): the route that a STEER's selector does not choose, any of a STEER
whose selector is not there. -/
def Elem.spares (e : Elem) (o : Nat) (k : Nat) : Bool :=
  if o = 0x48 then match headPos (e.queue 1) with
    | none => false
    | some p => if p.isEnd then false else (if p.poison || p.word == 0 then 0 else 1) != k
  else false

/-! ### 0-slot links (R70) -/

/-- The link that feeds an input, when it has no slot. -/
def zeroLink (l : Loaded) (blk : Nat) (b : Blk) (idx inp : Nat) : Option Nat :=
  match linkInto b idx inp with
  | some (p, _, c) => if linkCap l blk c = 0 then some p else none
  | none => none

/-- An element is bound to fire in the cycle `cyc` (R70): `inp`, if given, is the input on which a token arrives, and counts as held;
`from_` is the producer of that token. Its other inputs hold positions, or are 0-slot links whose producers are bound to fire
themselves; its consumers have free slots. `fuel` bounds a chain of 0-slot links. -/
def boundToFire (l : Loaded) (blk : Nat) (b : Blk) (cyc : Nat) : Nat → Nat → Option Nat → Option Nat → Bool
  | 0, _, _, _ => false
  | fuel + 1, idx, inp, from_ =>
    match instrAt b idx, b.elems[idx]? with
    | some i, some e => match fabOf i with
      | none => false
      | some f =>
        let held (k : Nat) : Bool := inp == some k || !(e.queue k).isEmpty
        let need := e.needs b.tx (opcodeOf i) f held
        let ready := f.unit = 15 && inp.isNone && e.out.any (fun q => q.ready && !q.emits.isEmpty)
        (ready || (decide (e.firedAt ≠ cyc + 1)
            && (match inp with
              | none => true
              | some k => need.1.contains k || need.2.contains k)
            && (need.2.isEmpty || need.2.any held)
            && need.1.all fun k => held k || match zeroLink l blk b idx k with
              | none => false
              | some p => from_ != some p && boundToFire l blk b cyc fuel p none (some idx)))
          && (List.range 2).all fun k => e.spares (opcodeOf i) k || match conOf b i f k with
            | none => true
            | some c =>
              if inp.isNone && from_ == some c.idx.toNat then true
              else if linkCap l blk c = 0 then (queueOf l blk b c).isEmpty && boundToFire l blk b cyc fuel c.idx.toNat (some c.inp.toNat) (some idx)
              else decide ((queueOf l blk b c).length < linkCap l blk c)
    | _, _ => false

/-- The turns that a token on a 0-slot link brings about in its cycle: the producers of the other 0-slot inputs, then the consumer
(R70). -/
def rendezvous (l : Loaded) (blk : Nat) (b : Blk) (ref : ElemRef) (c : Con) : List Turn :=
  if linkCap l blk c ≠ 0 then []
  else
    let others := (List.range 4).filterMap fun k =>
      if k = c.inp.toNat ∨ !(((b.elems[c.idx.toNat]?).map (·.queue k)).getD []).isEmpty then none else zeroLink l blk b c.idx.toNat k
    (others ++ [c.idx.toNat]).map fun j => .fire { ref with idx := j }

/-- A link has room for `n` more tokens. -/
def hasRoom (l : Loaded) (blk : Nat) (b : Blk) (cyc : Nat) (me : Nat) (c : Con) (n : Nat) : Bool :=
  if n = 0 then true
  else if linkCap l blk c = 0 then n = 1 && (queueOf l blk b c).isEmpty && boundToFire l blk b cyc 16 c.idx.toNat (some c.inp.toNat) (some me)
  else decide ((queueOf l blk b c).length + n ≤ linkCap l blk c)

/-! ## Emission (04 R64) -/

/-- `n` elided zeros on one output: pending count and the explicit tokens that a full count forces. -/
def elideN : Nat → Nat → Bool → Nat → Nat × List Token
  | 0, pend, _, _ => (pend, [])
  | n + 1, pend, vec, chan =>
    if pend = 63 then
      let (p, ts) := elideN n 0 vec chan
      (p, { (if vec then vecTok 0 0 .data chan else scalarTok 0 .data chan) with skip := 63 } :: ts)
    else elideN n (pend + 1) vec chan

/-- Turns results into tokens: the pending counts after them, and the tokens in order with their outputs. -/
def expandEmits : List Nat → List Emit → List Nat × List (Nat × Token)
  | pend, [] => (pend, [])
  | pend, .tok k t :: rest =>
    let (p, ts) := expandEmits (setAt pend k 0) rest
    (p, (k, { t with skip := pend.getD k 0 }) :: ts)
  | pend, .elide k n vec chan :: rest =>
    let (c, new) := elideN n (pend.getD k 0) vec chan
    let (p, ts) := expandEmits (setAt pend k c) rest
    (p, new.map (fun t => (k, t)) ++ ts)

/-- A firing needs a slot at every consumer it names, also where it emits nothing (R67). Excepted are STEER and MDRAIN, and the
elements whose results leave later than their firing: matrix operations, requests to the delta engines, port elements. A 0-slot
link is asked only for a token (log 21). -/
def namesAll (o : Nat) (f : Fab) : Bool :=
  !(o == 0x48 || o == 0x90 || o == 0x92 || (0xA0 ≤ o && o ≤ 0xA3)) && f.unit != 15

/-- Every consumer has room for the tokens that go to it (R67); of a firing, every consumer that it must have a slot at. -/
def roomFor (l : Loaded) (blk : Nat) (b : Blk) (cyc me : Nat) (i : Instr) (f : Fab) (firing : Bool) (ts : List (Nat × Token)) : Bool :=
  (List.range 8).all fun k =>
    match conOf b i f k with
    | none => true
    | some c =>
      let n := (ts.filter (fun t => t.1 == k)).length
      let n := if n = 0 ∧ firing = true ∧ namesAll (opcodeOf i) f = true ∧ linkCap l blk c ≠ 0 then 1 else n
      hasRoom l blk b cyc me c n

/-- Puts tokens into the queues that their links end in; a token of an output that names no consumer is dropped. -/
def pushAll (l : Loaded) (blk : Nat) (b : Blk) (i : Instr) (f : Fab) (ts : List (Nat × Token)) : Blk :=
  ts.foldl (fun b t =>
    match conOf b i f t.1 with
    | none => b
    | some c => { b with elems := modAt (fun e => e.setQueue (conQueue l blk c) (e.queue (conQueue l blk c) ++ [t.2])) b.elems c.idx.toNat }) b

/-! ## Done (03 R36) -/

/-- An instruction that names no consumer is a sink. -/
def isSink (b : Blk) (i : Instr) (f : Fab) : Bool := (List.range 8).all fun k => (conOf b i f k).isNone

/-- Whether a sink has finished: an EOS consumed on each read input; without inputs, its last firing made. -/
def sinkDone (i : Instr) (f : Fab) (e : Elem) : Bool :=
  match (inputsOf (opcodeOf i) f.md f.imm).1 with
  | [] => e.ended
  | ins => ins.all fun k => e.eos.contains k

/-- Every sink of a configuration has finished. -/
def allDone (l : Loaded) : Bool :=
  l.blks.all fun b => (List.range b.words.length).all fun j =>
    match instrAt b j with
    | none => true
    | some i => match fabOf i with
      | none => true
      | some f => !isSink b i f || ((b.elems[j]?).map (·.finished)).getD true

/-- Registers that the last sink has finished, in this cycle. -/
def State.noteDone (s : State) (e : ElemRef) : State :=
  s.modLoad e.run e.plane e.load fun l =>
    if l.doneAt.isNone && l.running && allDone l then { l with doneAt := some s.cycle } else l

/-! ## The driver -/

/-- Record fields of a trap at an element (21 R357). -/
def FireIn.info (x : FireIn) (t : Trap) : FaultInfo :=
  { FaultInfo.base t.code 1 with site := siteCode x.blk x.f, idx := x.ref.idx, blk := x.ref.blk }

/-- Record fields of a translation fault (21 R357, R358): access kind 3 engine read, 4 engine write. -/
def xlatInfo (e : WalkFault) (va access : Nat) (i : FaultInfo) : FaultInfo :=
  { i with code := e.fault.code, kind := 2, va := va, access := access
           level := if e.level = 0 then none else some e.level, aux64 := if e.level = 0 then none else some e.entry.toNat }

/-- The element's run is resident, its plane active, its configuration started (03 R31, R35, R45). -/
def FireIn.live (x : FireIn) : Bool := x.run.st == .resident && x.ref.plane == x.run.act && x.load.running

/-- While a wave of the die runs serialised no other wave starts: a firing of a TX block goes on in a wave that has started, or belongs
to the serialised wave or an earlier one of its block (03 R53). -/
def FireIn.mayStart (x : FireIn) : Bool :=
  !x.blk.tx || match (x.s.die x.run.die).lock with
  | none => true
  | some b => (x.s.ord.waves.any fun w => w.blk == x.br && w.k == x.elem.fires)
      || (b == x.br && match x.blk.serial with
        | some k => decide (x.elem.fires ≤ k)
        | none => false)

/-- Ready empty places at the front of the ordered results vanish; they emit nothing. -/
def dropEmpty : List OutItem → List OutItem
  | [] => []
  | i :: rest => if i.ready && i.emits.isEmpty then dropEmpty rest else i :: rest

/-- What the stage latch, or ACC, holds after these results (02 R15, R16): the running total of an accumulator, else the last result, an
elided one as +0. Matrix nodes and quadrant ports have neither. -/
def FireIn.latchAfter (x : FireIn) (el : Elem) (es : List Emit) : Token :=
  if 14 ≤ x.f.unit.toNat then el.latch
  else match el.ctl with
  | .accum total _ psn => if psn then poisonTok false .data x.rcNo else scalarTok total .data x.rcNo
  | _ => match es.getLast? with
    | none => el.latch
    | some (.tok _ t) => t
    | some (.elide _ _ vec chan) => if vec then vecTok 0 0 .data chan else scalarTok 0 .data chan

/-- Commits results of an element into its block: pending counts, latch and consumers' queues; the turns that 0-slot links bring about;
none when a slot is missing. -/
def commitEmits (x : FireIn) (i : Instr) (firing : Bool) (el : Elem) (es : List Emit) : Option (Blk × List Turn) :=
  let (pend, ts) := expandEmits el.pend (es.filter fun m => (conOf x.blk i x.f m.out).isSome)
  -- the element's own inputs, already consumed, count for a link to itself
  let b := { x.blk with elems := setAt x.blk.elems x.ref.idx { el with pend := pend, latch := x.latchAfter el es } }
  if roomFor x.load x.ref.blk b x.s.cycle x.ref.idx i x.f firing ts then
    let b' := pushAll x.load x.ref.blk b i x.f ts
    some (b', ts.flatMap fun t => match conOf x.blk i x.f t.1 with
      | none => []
      | some c => rendezvous x.load x.ref.blk b' x.ref c)
  else none

/-- Lays down the wave record of a TX block at a firing (03 R49, R50, R52). -/
def noteWave (x : FireIn) (a : Act) (el : Elem) : Elem :=
  if x.blk.tx then
    { el with snaps := el.snaps ++ [⟨x.elem.fires, x.elem.ctl, x.elem.latch, x.elem.eos, x.elem.ended, x.elem.finished, a.src,
        a.later.filterMap (·.gen), x.s.ord.nextId⟩] }
  else el

/-- The wave exists in the commit unit from its first firing, that of element `idx`. -/
def State.openWave (s : State) (b : BlkRef) (k idx : Nat) : State :=
  if s.ord.waves.any (fun w => w.blk == b && w.k == k) then s
  else { s with ord := { s.ord with waves := s.ord.waves ++ [⟨b, k, [], [], 0, idx⟩] } }

/-- Changes a wave. -/
def State.modWave (s : State) (b : BlkRef) (k : Nat) (f : Wave → Wave) : State :=
  { s with ord := { s.ord with waves := s.ord.waves.map fun w => if w.blk = b ∧ w.k = k then f w else w } }

/-- Turns that follow at once. -/
def State.soon (s : State) (ts : List Turn) : State := { s with agenda := ts ++ s.agenda }

/-- Delivers the first ordered result, when it is ready and its consumers have room; a LOST reply traps first (13 R274). -/
def deliver (x : FireIn) (i : Instr) : Option State :=
  match dropEmpty x.elem.out with
  | [] => none
  | it :: rest =>
    if !it.ready then none
    else match it.lost with
    | some (va, old) =>
      some ((x.s.modElem x.ref fun e => { e with out := { it with lost := none } :: rest }).takeTrapDone x.ref.run .faddlost
        { x.info .faddlost with va := va, aux64 := old.toNat })
    | none => (commitEmits x i false { x.elem with out := dropEmpty rest } it.emits).map fun b =>
        (x.s.modBlk x.br (fun _ => b.1)).soon b.2

/-- A block all of whose instructions fire once for each root iteration (03 R49). -/
def Blk.singleRate (b : Blk) : Bool := (List.range b.words.length).all fun j => match instrAt b j with
  | none => true
  | some i => match fabOf i with
    | none => true
    | some f => oncePerIteration (opcodeOf i) f

/-- Root iterations that a configuration has completed (03 R41; log 105): of the single-rate blocks the firings that every element has
made, of a CTR.root elsewhere the iterations that it has issued. -/
def Loaded.iterations (l : Loaded) : Nat :=
  (l.blks.map fun b =>
    if b.singleRate then (b.elems.map (·.fires)).foldl Nat.min l.iters
    else ((b.words.zip b.elems).filter fun q => q.1.extractLsb' 56 8 == 0x4D#8 && q.1.extractLsb' 20 2 == 3#2).foldl
      (fun n q => Nat.min n q.2.fires) l.iters).foldl Nat.min l.iters

/-- The counter of the run records the root iterations completed (03 R41). -/
def State.noteIter (s : State) (x : FireIn) : State :=
  match s.site x.ref with
  | none => s
  | some h => if h.load.iters = 0 then s else s.modRun x.ref.run fun r => { r with esc := { r.esc with iterDone := h.load.iterations } }

/-- The element after a firing: what the firing leaves of it, later results behind those that wait, once more fired. -/
def FireIn.after (x : FireIn) (i : Instr) (a : Act) : Elem :=
  let el := noteWave x a { a.elem with out := dropEmpty (a.elem.out ++ a.later), firedAt := x.s.cycle + 1, fires := x.elem.fires + 1 }
  { el with finished := isSink x.blk i x.f && sinkDone i x.f el }

/-- Flags of a firing accrue in run.flags (02 R26); those of a wave when it commits (03 R52). -/
def FireIn.raise (x : FireIn) (f : Flags) (s : State) : State :=
  if x.blk.tx then s.modWave x.br x.elem.fires fun w => { w with flags := w.flags ||| f } else s.raise x.ref.run f

/-- A firing takes effect: its block as given, its wave opened, its flags raised, the done and the iteration noted, its effect, the
turns that follow at once. -/
def FireIn.settle (x : FireIn) (a : Act) (b : Blk × List Turn) : State :=
  let s := (x.s.modBlk x.br (fun _ => b.1)).soon b.2
  let s := if x.blk.tx then s.openWave x.br x.elem.fires x.ref.idx else s
  -- a serialised wave that starts, or starts again after a pre-emption (22 R365), takes the lock
  let s := if x.blk.tx ∧ x.blk.serial = some x.elem.fires then s.modDie x.run.die fun d => { d with lock := some x.br } else s
  let s := x.raise a.flags (s.modRun x.ref.run fun r => { r with idle := 0 })
  a.eff ((s.noteDone x.ref).noteIter x)

/-- The state after a firing; none while a consumer has no slot (04 R67). -/
def FireIn.fireAct (x : FireIn) (i : Instr) (a : Act) : Option State := (commitEmits x i true (x.after i a) a.emits).map (x.settle a)

/-- One firing decided by `body`. -/
def fireNow (x : FireIn) (i : Instr) (body : FireIn → Fire) : State :=
  match body x with
  | .wait => x.s
  | .trap t info => x.s.takeTrap x.ref.run t (info (x.info t))
  | .fault info => x.s.supervisorFault x.ref.run (info (x.info .brk))
  | .act a => (x.fireAct i a).getD x.s

/-- The one way every fabric instruction fires: at most once a cycle; results that still wait leave first; a quadrant-port
element may fire again while earlier results are outstanding (13 R265, R268). -/
def fireElement (i : Instr) (body : FireIn → Fire) (s : State) : State :=
  match s.focus, fabOf i with
  | some fo, some f =>
    match fo.elem with
    | none => s
    | some ref =>
      match s.site ref with
      | none => s
      | some h =>
        let x : FireIn := ⟨s, ref, h, f, opcodeOf i⟩
        if !x.live then s
        else match deliver x i with
          | some t => t
          | none =>
            if x.elem.firedAt = s.cycle + 1 then s
            else if !x.mayStart then s
            else if f.unit.toNat ≠ 15 ∧ (dropEmpty x.elem.out) ≠ [] then s
            else fireNow x i body
  | _, _ => s

/-- The state after what an event does at an element; none while a consumer has no slot. It counts as a firing for the watchdog where
the body says that the element has fired (04 R76). -/
def FireIn.driveAct (x : FireIn) (i : Instr) (a : Act) : Option State :=
  let el := { a.elem with out := dropEmpty (a.elem.out ++ a.later) }
  let el := { el with finished := isSink x.blk i x.f && sinkDone i x.f el }
  (commitEmits x i false el a.emits).map fun b =>
    let s := (x.s.modBlk x.br (fun _ => b.1)).soon b.2
    let s := (s.modRun x.ref.run fun r => { r with idle := if a.elem.firedAt = x.elem.firedAt then r.idle else 0 }).raise x.ref.run a.flags
    a.eff (s.noteDone x.ref)

/-- What an event does at an element, without being a firing of it: results that form later, engine replies. -/
def driveElem (e : ElemRef) (body : FireIn → Instr → Fire) (s : State) : State :=
  match s.site e with
  | none => s
  | some h =>
    match instrAt h.blk e.idx with
    | none => s
    | some i =>
      match fabOf i with
      | none => s
      | some f =>
        let x : FireIn := ⟨s, e, h, f, opcodeOf i⟩
        if !x.live then s
        else match body x i with
          | .wait => s
          | .trap t info => s.takeTrap e.run t (info (x.info t))
          | .fault info => s.supervisorFault e.run (info (x.info .brk))
          | .act a => (x.driveAct i a).getD s

/-! ## Shapes that many bodies share -/

/-- An outcome of exec: fabric instructions always answer a next state. -/
abbrev Out := Host.Outcome State Fault Refusal

def fire (i : Instr) (body : FireIn → Fire) (s : State) : Out := .next (fireElement i body s)

/-- A coded block that has not been expanded stands at no head (05 R89); at the quadrant-port slot packed tokens pass whole
(log 20). -/
def FireIn.avail (x : FireIn) (k : Nat) : Option Pos :=
  match x.head k with
  | some (.tok t) =>
    let fm := (x.load.chan t.chan).fmt
    if t.vec && (fm == 5 || fm == 6) && x.f.unit.toNat != 15 && !t.mark.isEnd then none else some (.tok t)
  | p => p

/-- Heads of several inputs; none when one is missing. -/
def FireIn.heads (x : FireIn) : List Nat → Option (List Pos)
  | [] => some []
  | k :: ks =>
    match x.avail k, x.heads ks with
    | some p, some ps => some (p :: ps)
    | _, _ => none

/-- The same results on every named output; an element that names none forms its result all the same, for its latch. -/
def FireIn.all (x : FireIn) (e : Nat → Emit) : List Emit := (if x.outs.isEmpty then [0] else x.outs).map e

/-- End tokens across the read inputs (10 R198): none when no head is an end token. All the same: consumed, and the marker is
emitted on every named output; otherwise MARKSKEW. -/
def endPair (x : FireIn) (ks : List Nat) (ps : List Pos) (vec : Bool) : Option Fire :=
  if !(ps.any Pos.isEnd) then none
  else
    let m := ((ps.find? Pos.isEnd).map Pos.mark).getD .eos
    if ps.all (fun p => p.mark == m) then
      let t : Token := { eosTok vec x.rcNo with mark := m }
      let el := x.elem.pops ks
      some (.act { elem := { el with ended := m == .eos }, emits := x.all fun k => .tok k t })
    else some (.trap .markskew id)

/-- elide_or_emit (05 R104) as a result: an underflow or quantised zero with marker DATA is elided, with another marker it
travels as +0. -/
def emitWord (out : Nat) (w : W32) (c : Cause) (m : Mark) (chan : Nat) : Emit :=
  match c with
  | .underflowZero | .quantZero => if m = .data then .elide out 1 false chan else .tok out (scalarTok 0 m chan)
  | _ => .tok out (scalarTok w m chan)

/-! ### Skid buffers (04 R74) -/

/-- Bytes of a Skid buffer that a token takes (log 31). -/
def skidBytes (t : Token) : Nat := if t.vec then 64 else 4

/-- Bytes of a group's words in order of arrival. -/
def groupBytes (ts : List Token) : List Byte := ts.flatMap fun t => natBytes (skidBytes t) t.data.toNat

/-- Bytes that an item takes: a full group is compressed (07 R136). -/
def SkidItem.bytes : SkidItem → Nat
  | .plain t => skidBytes t
  | .group ts closed =>
    let bs := groupBytes ts
    if closed && bs.length == 128 then bdiBytes (bdiCode bs) else bs.length

def SkidItem.toks : SkidItem → List Token
  | .plain t => [t]
  | .group ts _ => ts

/-- Tokens that may share a group: DATA with SKIP 0 and full lanes, on one channel. -/
def groupable (t : Token) : Bool := t.mark == .data && t.skip == 0 && (!t.vec || t.lmask == 0xFFFF)

/-- Closes the open group at the tail. -/
def closeGroup (l : List SkidItem) : List SkidItem :=
  match l.getLast? with
  | some (.group ts false) => l.dropLast ++ [.group ts true]
  | _ => l

def skidUsed (l : List SkidItem) : Nat := (l.map SkidItem.bytes).foldl (· + ·) 0

/-- The buffer after a token arrives: below the threshold of `thr` groups it is held as it is; above it a groupable token joins the
open group, or opens one, and a full group is closed; any other token closes the open group. -/
def skidPut (thr : Nat) (l : List SkidItem) (t : Token) : List SkidItem :=
  if skidUsed l < 128 * thr ∨ !groupable t then closeGroup l ++ [.plain t]
  else
    let full (ts : List Token) : Bool := decide (128 ≤ (ts.map skidBytes).foldl (· + ·) 0)
    match l.getLast? with
    | some (.group ts false) =>
      if ts.all fun u => u.chan == t.chan && u.vec == t.vec then l.dropLast ++ [.group (ts ++ [t]) (full (ts ++ [t]))]
      else closeGroup l ++ [.group [t] false]
    | _ => l ++ [.group [t] false]

/-- The token at the head, and the buffer without it. -/
def skidPop : List SkidItem → Option (Token × List SkidItem)
  | [] => none
  | .plain t :: rest => some (t, rest)
  | .group [] _ :: rest => skidPop rest
  | .group [t] _ :: rest => some (t, rest)
  | .group (t :: ts) c :: rest => some (t, .group ts c :: rest)

def Run.skidOf (r : Run) (p : Nat) : List SkidItem := ((r.skid.find? fun x => x.1 == p).map (·.2)).getD []

def Run.setSkid (r : Run) (p : Nat) (l : List SkidItem) : Run :=
  if r.skid.any (fun x => x.1 == p) then { r with skid := r.skid.map fun x => if x.1 = p then (p, l) else x }
  else { r with skid := r.skid ++ [(p, l)] }

/-! ### Circuits (24 R386) -/

/-- The circuit group that a stream port of a run is bound to, out of its STRMO or in to its STRMI. -/
def State.circuitOf (s : State) (run port : Nat) (out : Bool) : Option Circuit :=
  (s.run? run).bind fun r => s.chip.circuits.find? fun c => c.out == out && c.slot == r.slot && c.image == r.image && c.port == port

/-- The group carries words: its link is UP and not locked, the lane group is circuit-bound. -/
def State.circuitUp (s : State) (c : Circuit) : Bool := match s.chip.links[c.link]? with
  | none => false
  | some l => fld l.stat 3 0 == 5 && !l.stat.getLsbD 14 && l.stat.getLsbD (16 + c.group)

/-- A word leaves over the group: a token, which takes a credit, or a credit. -/
def State.circuitSend (s : State) (c : Circuit) (w : Option Token) : State :=
  let use (x : Circuit) : Circuit := if x = c ∧ w.isSome then { x with credits := x.credits - 1 } else x
  { s with chip := { s.chip with circuits := s.chip.circuits.map use, circOut := s.chip.circOut ++ [(c.link, c.group, w)] } }

/-- A token that leaves the block (03 R52): `code` 0 to 7 an escapement input; 16 + p + 64 × threshold the stream port p, which may be bound
to a circuit. -/
def State.pushOut (s : State) (run code : Nat) (t : Token) : State :=
  let p := (code - 16) % 64
  match if code < 8 then none else s.circuitOf run p true with
  | some c => s.circuitSend c (some t)
  | none => s.modRun run fun r =>
    if code < 8 then { r with esc := { r.esc with e := modAt (· ++ [t]) r.esc.e code } }
    else r.setSkid p (skidPut ((code - 16) / 64) (r.skidOf p) t)

/-- It leaves at once, or with the commit of its wave in a TX block. -/
def FireIn.sendOut (x : FireIn) (code : Nat) (t : Token) (s : State) : State :=
  if x.blk.tx then s.modWave x.br x.elem.fires fun w => { w with ext := w.ext ++ [(code, t)] } else s.pushOut x.ref.run code t

/-- Tokens of a run that wait in uncommitted waves for a place outside. -/
def State.heldOut (s : State) (run code : Nat) : Nat :=
  ((s.ord.waves.filter (fun w => w.blk.run == run)).map fun w => (w.ext.filter (fun e => e.1 == code)).length).foldl (· + ·) 0

/-- emit_vec (11 R209). -/
def emitVec (out : Nat) (v : Line) (k : BitVec 16) (m : Mark) (chan : Nat) : Emit :=
  if k = 0 then (if m = .data then .elide out 1 true chan else .tok out (vecTok 0 0 m chan))
  else .tok out (vecTok v k m chan)

/-- Later results, each ready, one for each following firing. -/
def laterItems (ess : List (List Emit)) : List OutItem := ess.map fun es => ⟨0, true, es, 0, [], none, none⟩

end Sys2Proof.Machine
end

