-- ==== Sys2Proof/Machine/Scalar.lean ====
section
/-! DEFINITION. The scalar ALU, AGEN and CONSTK of the cells (10 R196 to R201). -/

namespace Sys2Proof.Machine

/-! ## Arithmetic (05 R84, R85, 10 R199) -/

def bool32 (b : Bool) : W32 := if b then 1 else 0

/-- Truncating signed division with the boundary cases of R85. -/
def divS (a b : W32) : W32 := if b = 0 then 0xFFFFFFFF else BitVec.ofInt 32 (a.toInt.tdiv b.toInt)
def remS (a b : W32) : W32 := if b = 0 then a else BitVec.ofInt 32 (a.toInt.tmod b.toInt)
def divU (a b : W32) : W32 := if b = 0 then 0xFFFFFFFF else BitVec.ofNat 32 (a.toNat / b.toNat)
def remU (a b : W32) : W32 := if b = 0 then a else BitVec.ofNat 32 (a.toNat % b.toNat)
def mulHigh (a b : W32) : W32 := BitVec.ofInt 32 ((a.toInt * b.toInt) / 4294967296)
def mulHighU (a b : W32) : W32 := BitVec.ofNat 32 (a.toNat * b.toNat / 4294967296)

/-- Shift amount b[4:0]. -/
def shAmt (b : W32) : Nat := b.toNat % 32

/-- Leading zero bits; 32 for zero. -/
def clz32 (a : W32) : W32 := if a = 0 then 32 else BitVec.ofNat 32 (31 - Nat.log2 a.toNat)
def popc32 (a : W32) : W32 := BitVec.ofNat 32 (((List.range 32).filter fun i => a.getLsbD i).length)

/-! ## Operands -/

/-- The inputs that the word's firing reads. -/
def FireIn.ins (x : FireIn) : List Nat := (inputsOf x.o x.f.md x.f.imm).1

/-- A position's value at an element that works on integers (10 R196): +0 when elided. -/
def FireIn.ival (x : FireIn) (p : Pos) : W32 :=
  match p with
  | .elided => 0
  | .tok t => (x.load.chan t.chan).decodeInt t.word

def Pos.isElided : Pos → Bool
  | .elided => true
  | .tok _ => false

/-- The shared action of R199. `op` gets operand a and, from MOD 0b01, the operand on i1. `zp`: zero-preserving (04 R66). -/
def aluFire (zp : Bool) (op : FireIn → W32 → Option W32 → W32) (x : FireIn) : Fire :=
  let ks := x.ins
  match x.heads ks with
  | none => .wait
  | some ps =>
    match endPair x ks ps false with
    | some r => r
    | none =>
      if zp && ps.all Pos.isElided then
        let n := (ks.map fun k => elidedRun (x.elem.queue k)).foldl Nat.min 63
        let el := ks.foldl (fun e k => e.setQueue k (popElided n (e.queue k))) x.elem
        .act { elem := el, emits := x.all fun k => .elide k n false x.rcNo }
      else
        let m := resultMark ps
        let el := x.elem.pops ks
        if ps.any Pos.poison then .act { elem := el, emits := x.all fun k => .tok k (poisonTok false m x.rcNo) }
        else
          let a := x.ival (ps.headD .elided)
          let b := (ps[1]?).map x.ival
          let w := x.rc.encodeInt (op x a b)
          let t := scalarTok w m x.rcNo
          .act { elem := el, emits := x.all fun k => .tok k t }

/-- Operand b of the binary family (10 R196). -/
def FireIn.opB (x : FireIn) (b : Option W32) : W32 :=
  match x.md with
  | 0 => x.f.imm.signExtend 32
  | 1 => b.getD 0
  | _ => (x.pool (x.imm 9 0)).setWidth 32

/-- A binary ALU instruction. -/
def binFire (zp : Bool) (op : W32 → W32 → W32) : FireIn → Fire := aluFire zp fun x a b => op a (x.opB b)

/-- A unary ALU instruction. -/
def unFire (zp : Bool) (op : W32 → W32) : FireIn → Fire := aluFire zp fun _ a _ => op a

/-! ## The instructions of R199 -/

def execAdd (f : Fab) (s : State) : Out := fire (.add f) (binFire false (· + ·)) s
def execSub (f : Fab) (s : State) : Out := fire (.sub f) (binFire false (· - ·)) s
def execMul (f : Fab) (s : State) : Out := fire (.mul f) (binFire true (· * ·)) s
def execMulh (f : Fab) (s : State) : Out := fire (.mulh f) (binFire true mulHigh) s
def execMulhu (f : Fab) (s : State) : Out := fire (.mulhu f) (binFire true mulHighU) s
def execDiv (f : Fab) (s : State) : Out := fire (.div f) (binFire false divS) s
def execDivu (f : Fab) (s : State) : Out := fire (.divu f) (binFire false divU) s
def execRem (f : Fab) (s : State) : Out := fire (.rem f) (binFire false remS) s
def execRemu (f : Fab) (s : State) : Out := fire (.remu f) (binFire false remU) s
def execAnd (f : Fab) (s : State) : Out := fire (.and f) (binFire true (· &&& ·)) s
def execOr (f : Fab) (s : State) : Out := fire (.or f) (binFire false (· ||| ·)) s
def execXor (f : Fab) (s : State) : Out := fire (.xor f) (binFire false (· ^^^ ·)) s
def execAndn (f : Fab) (s : State) : Out := fire (.andn f) (binFire true fun a b => a &&& ~~~b) s
def execShl (f : Fab) (s : State) : Out := fire (.shl f) (binFire true fun a b => a <<< shAmt b) s
def execShr (f : Fab) (s : State) : Out := fire (.shr f) (binFire true fun a b => a >>> shAmt b) s
def execSar (f : Fab) (s : State) : Out := fire (.sar f) (binFire true fun a b => a.sshiftRight (shAmt b)) s
def execRol (f : Fab) (s : State) : Out := fire (.rol f) (binFire true fun a b => a.rotateLeft (shAmt b)) s
def execRor (f : Fab) (s : State) : Out := fire (.ror f) (binFire true fun a b => a.rotateRight (shAmt b)) s
def execClz (f : Fab) (s : State) : Out := fire (.clz f) (unFire false clz32) s
def execPopc (f : Fab) (s : State) : Out := fire (.popc f) (unFire true popc32) s
def execMin (f : Fab) (s : State) : Out := fire (.min f) (binFire false fun a b => if b.slt a then b else a) s
def execMax (f : Fab) (s : State) : Out := fire (.max f) (binFire false fun a b => if a.slt b then b else a) s
def execMinu (f : Fab) (s : State) : Out := fire (.minu f) (binFire false fun a b => if b.ult a then b else a) s
def execMaxu (f : Fab) (s : State) : Out := fire (.maxu f) (binFire false fun a b => if a.ult b then b else a) s
def execCeq (f : Fab) (s : State) : Out := fire (.ceq f) (binFire false fun a b => bool32 (a == b)) s
def execCne (f : Fab) (s : State) : Out := fire (.cne f) (binFire false fun a b => bool32 (a != b)) s
def execClt (f : Fab) (s : State) : Out := fire (.clt f) (binFire false fun a b => bool32 (a.slt b)) s
def execCle (f : Fab) (s : State) : Out := fire (.cle f) (binFire false fun a b => bool32 (a.sle b)) s
def execCgt (f : Fab) (s : State) : Out := fire (.cgt f) (binFire false fun a b => bool32 (b.slt a)) s
def execCge (f : Fab) (s : State) : Out := fire (.cge f) (binFire false fun a b => bool32 (b.sle a)) s
def execCltu (f : Fab) (s : State) : Out := fire (.cltu f) (binFire false fun a b => bool32 (a.ult b)) s
def execCgeu (f : Fab) (s : State) : Out := fire (.cgeu f) (binFire false fun a b => bool32 (b.ule a)) s
def execMov (f : Fab) (s : State) : Out := fire (.mov f) (unFire true id) s

/-! ## AGEN (R200) -/

/-- (a × 2^s) + K, or (a × 2^s) + i1 + K. -/
def agenOp (x : FireIn) (a : W32) (b : Option W32) : W32 :=
  (a <<< x.imm 4 0) + b.getD 0 + (x.pool (x.imm 19 10)).setWidth 32

def execAgen (f : Fab) (s : State) : Out := fire (.agen f) (aluFire false agenOp) s

/-! ## CONSTK (R201) -/

/-- A token constant of the pool (09 R173). -/
def constTok (x : FireIn) (j : Nat) : Token :=
  let w := x.pool (x.imm 9 0 + j)
  scalarTok (w.setWidth 32) (Mark.ofCode (fld w 34 32)) x.rcNo

/-- One token a cycle. Without an input (MOD 0b00) the sequence once, then EOS; with one (MOD 0b01) once per go position. The
operation state counts the words sent; its flag says that a sequence is under way. -/
def constkFire (x : FireIn) : Fire :=
  let n := x.imm 19 10 + 1
  let (j, going) := match x.elem.ctl with
    | .count j g => (j, g)
    | _ => (0, false)
  let emitAt (el : Elem) (j : Nat) : Fire :=
    .act { elem := { el with
             ctl := if j + 1 < n then .count (j + 1) true else .count (j + 1) false
             ended := x.md = 0 && x.outs.isEmpty && j + 1 = n }
           emits := x.all fun k => .tok k (constTok x j) }
  if x.elem.ended then .wait
  else if x.md = 0 then
    if j < n then emitAt x.elem j
    else .act { elem := { x.elem with ended := true }, emits := x.all fun k => .tok k (eosTok false x.rcNo) }
  else if going then emitAt x.elem j
  else
    match x.avail 0 with
    | none => .wait
    | some p =>
      let el := x.elem.pop 0
      if p.isEnd then
        .act { elem := { el with ended := p.mark == .eos }
               emits := x.all fun k => .tok k { eosTok false x.rcNo with mark := p.mark } }
      else emitAt el 0

def execConstk (f : Fab) (s : State) : Out := fire (.constk f) constkFire s

end Sys2Proof.Machine
end

