-- ==== Sys2Proof/Machine/Control.lean ====
section
/-! DEFINITION. The control elements: routing, gates, counters, sinks and accumulators (10 R202 to R205). -/

namespace Sys2Proof.Machine

/-- The position forwarded to an output, value, marker and channel unchanged (R202); as POISON when the selector was. -/
def FireIn.forward (x : FireIn) (psn : Bool) (p : Pos) (k : Nat) : Emit :=
  match p with
  | .elided => if psn then .tok k (poisonTok false .data x.rcNo) else .elide k 1 false x.rcNo
  | .tok t => .tok k (if psn then poisonTok t.vec t.struct t.chan else t)

/-- A selector: which way, and whether it is POISON (R202: zero, elided and POISON choose the first). -/
def selOf (p : Pos) : Nat × Bool :=
  if p.poison then (0, true) else (if p.word = 0 then 0 else 1, false)

/-! ## STEER, MERGE, CMERGE, COPY -/

def steerFire (x : FireIn) : Fire :=
  match x.heads [0, 1] with
  | some [d, sel] =>
    match endPair x [0, 1] [d, sel] false with
    | some r => r
    | none =>
      let (k, psn) := selOf sel
      .act { elem := x.elem.pops [0, 1], emits := if x.outs.contains k then [x.forward psn d k] else [] }
  | _ => .wait

def execSteer (f : Fab) (s : State) : Out := fire (.steer f) steerFire s

/-- With a data selector; `el` has it consumed. -/
def mergeData (x : FireIn) (el : Elem) (k : Nat) (psn : Bool) : Fire :=
  match x.avail k with
  | none => if x.blk.tx then .wait else .act { elem := { el with ctl := .merge (some (k, psn)) } }
  | some p =>
    if p.isEnd then .trap .markskew id
    else .act { elem := { el.pop k with ctl := .merge none }, emits := x.all fun o => x.forward psn p o }

def mergeFire (x : FireIn) : Fire :=
  match x.elem.ctl with
  | .merge (some (k, psn)) => if (x.avail k).isNone then .wait else mergeData x x.elem k psn
  | _ =>
    match x.avail 2 with
    | none => .wait
    | some sel =>
      if sel.isEnd then
        let bad (p : Option Pos) : Bool := match p with
          | some q => q.mark != sel.mark
          | none => false
        if bad (x.avail 0) || bad (x.avail 1) then .trap .markskew id
        else match x.heads [0, 1] with
          | none => .wait
          | some _ =>
            .act { elem := { x.elem.pops [0, 1, 2] with ended := sel.mark == .eos }
                   emits := x.all fun k => .tok k { eosTok false x.rcNo with mark := sel.mark } }
      else
        let (k, psn) := selOf sel
        mergeData x (x.elem.pop 2) k psn

def execMerge (f : Fab) (s : State) : Out := fire (.merge f) mergeFire s

def cmergeFire (x : FireIn) : Fire :=
  let (lastOne, closed) := match x.elem.ctl with
    | .cmerge l c => (l, c)
    | _ => (true, [])
  let pick : Option Nat := match x.avail 0, x.avail 1 with
    | some _, some _ => some (if lastOne then 0 else 1)
    | some _, none => some 0
    | none, some _ => some 1
    | none, none => none
  match pick with
  | none => .wait
  | some k =>
    match x.avail k with
    | none => .wait
    | some p =>
      let el := x.elem.pop k
      if p.mark = .eos then
        if closed.isEmpty then .act { elem := { el with ctl := .cmerge lastOne [k] } }
        else .act { elem := { el with ctl := .cmerge lastOne (k :: closed), ended := true }
                    emits := x.all fun o => .tok o (eosTok false x.rcNo) }
      else .act { elem := { el with ctl := .cmerge (k == 1) closed }, emits := x.all fun o => x.forward false p o }

def execCmerge (f : Fab) (s : State) : Out := fire (.cmerge f) cmergeFire s

def copyFire (x : FireIn) : Fire :=
  match x.avail 0 with
  | none => .wait
  | some p =>
    .act { elem := { x.elem.pop 0 with ended := p.mark == .eos }, emits := x.all fun o => x.forward false p o }

def execCopy (f : Fab) (s : State) : Out := fire (.copy f) copyFire s

/-! ## GATE -/

/-- Forwards a position while open; `left` counts the positions of MOD 0b01. -/
def gatePass (x : FireIn) (el : Elem) (left : Nat) (p : Pos) : Act :=
  let still := if x.md = 1 then decide (1 < left) else p.struct.rank == 0
  { elem := { el.pop 0 with ctl := .gate still (left - 1) false }, emits := x.all fun o => x.forward false p o }

/-- What a permit opens: nothing, or so many positions (1 stands for a fibre). A POISON permit of the count form has no usable
value: the count is a free value (log 4). -/
def permitCount (x : FireIn) (p : Pos) : Nat :=
  if x.md = 0 then 1
  else if p.poison then (Config.freeWord x.s.free).toNat
  else (x.ival p).toInt.toNat

def gateFire (x : FireIn) : Fire :=
  let (isOpen, left, ended) := match x.elem.ctl with
    | .gate o l e => (o, l, e)
    | _ => (false, 0, false)
  let permit := x.avail 1
  let used (p : Pos) : State → State := fun s => if x.md = 1 && p.poison then { s with free := s.free + 1 } else s
  if ended then
    match permit with
    | none => .wait
    | some _ => .act { elem := x.elem.pop 1 }
  else
    match x.avail 0 with
    | some p =>
      if p.isEnd then
        .act { elem := { x.elem.pop 0 with ctl := .gate isOpen left (p.mark == .eos) }, emits := x.all fun o => x.forward false p o }
      else if isOpen then .act (gatePass x x.elem left p)
      else match permit with
        | none => .wait
        | some q =>
          -- no further permit comes: the data waits (log 23)
          if q.isEnd then .wait
          else
            let n := permitCount x q
            if n = 0 then .act { elem := x.elem.pop 1, eff := used q }
            else .act { gatePass x (x.elem.pop 1) n p with eff := used q }
    | none =>
      if isOpen || x.blk.tx then .wait
      else match permit with
        | none => .wait
        | some q =>
          if q.isEnd then .wait
          else
            let n := permitCount x q
            .act { elem := { x.elem.pop 1 with ctl := .gate (n != 0) n false }, eff := used q }

def execGate (f : Fab) (s : State) : Out := fire (.gate f) gateFire s

/-! ## CTR (R71, R202) -/

/-- One index of a pass; the last one carries its marker. -/
def ctrIndex (x : FireIn) (el : Elem) (p : CtrPass) (once : Bool) : Fire :=
  let isLast := p.pos + 1 = p.n
  let t := scalarTok (x.rc.encodeInt (BitVec.ofNat 32 p.pos)) (if isLast then p.mark else .data) x.rcNo
  .act { elem := { el with
           ctl := .ctr (if isLast then none else some { p with pos := p.pos + 1 }) (if once then 1 else 0) false
           ended := once && isLast && x.outs.isEmpty }
         emits := x.all fun k => .tok k t }

/-- Forms without a go input: one pass of `n`, then EOS. -/
def ctrOnce (x : FireIn) (n : Nat) : Fire :=
  if x.elem.ended then .wait
  else
    let eos : Fire := .act { elem := { x.elem with ended := true }, emits := x.all fun k => .tok k (eosTok false x.rcNo) }
    match x.elem.ctl with
    | .ctr (some p) _ _ => ctrIndex x x.elem p true
    | .ctr none 0 _ => if n = 0 then eos else ctrIndex x x.elem ⟨0, n, .last⟩ true
    | _ => eos

/-- Forms with a go input (MOD 0b01 and 0b10). -/
def ctrGo (x : FireIn) : Fire :=
  match x.elem.ctl with
  | .ctr (some p) _ _ => ctrIndex x x.elem p false
  | _ =>
    match x.avail 0 with
    | none => .wait
    | some p =>
      let el := x.elem.pop 0
      if p.isEnd then
        .act { elem := { el with ended := p.mark == .eos }, emits := x.all fun k => .tok k { eosTok false x.rcNo with mark := p.mark } }
      else if x.md = 2 && p.poison then
        .act { elem := el, emits := x.all fun k => .tok k (poisonTok false p.struct x.rcNo) }
      else
        let n := if x.md = 1 then x.imm 19 0 else (x.ival p).toInt.toNat
        if n = 0 then .act { elem := el }
        else ctrIndex x el ⟨0, n, if p.struct.rank = 0 then .last else .last2⟩ false

def ctrFire (x : FireIn) : Fire := if x.md = 0 then ctrOnce x (x.imm 19 0) else ctrGo x

def execCtr (f : Fab) (s : State) : Out := fire (.ctr f) ctrFire s

/-- CTR.root takes its outer index from the count that CONF latched (03 R41, 10 R190). -/
def execCtrRoot (f : Fab) (s : State) : Out := fire (.ctrRoot f) (fun x => ctrOnce x x.load.iters) s

/-! ## DROP and SINK -/

/-- DROP counts positions, as an accumulating element does (04 R66): after a POISON position the count of the fibre is POISON (R63). -/
def dropFire (x : FireIn) : Fire :=
  let (c, psn) := match x.elem.ctl with
    | .count n p => (n, p)
    | _ => (0, false)
  match x.avail 0 with
  | none => .wait
  | some .elided =>
    let n := elidedRun (x.elem.queue 0)
    .act { elem := { x.elem.setQueue 0 (popElided n (x.elem.queue 0)) with ctl := .count (c + n) psn } }
  | some (.tok t) =>
    let el := x.elem.pop 0
    let psn := psn || t.isPoison
    if t.mark.isEnd then
      .act { elem := { el with ended := t.mark == .eos }, emits := x.all fun k => .tok k { eosTok false x.rcNo with mark := t.mark } }
    else if t.mark = .ctrl ∨ t.mark = .steer then .act { elem := el }
    else if t.struct = .data then .act { elem := { el with ctl := .count (c + 1) psn } }
    else
      let w := if psn then poisonTok false t.struct x.rcNo else scalarTok (x.rc.encodeInt (BitVec.ofNat 32 (c + 1))) t.struct x.rcNo
      .act { elem := { el with ctl := .count 0 false }, emits := x.all fun k => .tok k w }

def execDrop (f : Fab) (s : State) : Out := fire (.drop f) dropFire s

def sinkFire (x : FireIn) : Fire :=
  match x.avail 0 with
  | none => .wait
  | some _ => .act { elem := x.elem.pop 0 }

def execSink (f : Fab) (s : State) : Out := fire (.sink f) sinkFire s

/-- SINK.esc: waits while Ee holds four tokens (10 R193, R203). -/
def sinkEscFire (x : FireIn) : Fire :=
  let e := x.imm 2 0
  match x.avail 0 with
  | none => .wait
  | some p =>
    if (x.run.esc.e.getD e []).length + x.s.heldOut x.ref.run e ≥ 4 then .wait
    else
      let t : Token := match p with
        | .elided => scalarTok 0 .data x.rcNo
        | .tok t => { t with skip := 0 }
      .act { elem := x.elem.pop 0, eff := x.sendOut e t }

def execSinkEsc (f : Fab) (s : State) : Out := fire (.sinkEsc f) sinkEscFire s

/-! ## ACC, ACCMAX, ACCMIN (R204) -/

inductive AccKindOf where
  | sum | max | min
  deriving DecidableEq, Repr

/-- Identity of an accumulator for the format of its input. -/
def accIdent (k : AccKindOf) (fmt : Nat) : W32 :=
  let uns := fmt == 11 || fmt == 10
  match k with
  | .sum => 0
  | .max => if uns then 0 else 0x80000000
  | .min => if fmt == 11 then 0xFFFFFFFF else if fmt == 10 then 255 else 0x7FFFFFFF

def accFold (k : AccKindOf) (uns : Bool) (a v : W32) : W32 :=
  match k with
  | .sum => a + v
  | .max => if (if uns then a.ult v else a.slt v) then v else a
  | .min => if (if uns then v.ult a else v.slt a) then v else a

/-- MOD sets the lowest marker that flushes. -/
def accFlushes (md : Nat) (m : Mark) : Bool :=
  match md with
  | 0 => m == .last || m == .last2
  | 1 => m == .last2
  | _ => false

/-- ACC and its kind. CTRL and STEER tokens are no data positions (04 R62): they are taken and add nothing. DESIGN CHOICE (log 106):
elided positions alone since the last flush count as an accumulated total at EOS, so a total leaves for them. -/
def accFire (k : AccKindOf) (x : FireIn) : Fire :=
  let (total, folded, psn) := match x.elem.ctl with
    | .accum t g p => (t, g, p)
    | _ => (0, false, false)
  -- elided positions stand before a token, whose channel is the link's
  let fmt := match x.elem.queue 0 with
    | t :: _ => (x.load.chan t.chan).fmt
    | [] => 9
  let uns := fmt == 11 || fmt == 10
  let base := if folded then total else accIdent k fmt
  let result (psn : Bool) (v : W32) (m : Mark) : Token :=
    if psn then poisonTok false m x.rcNo else scalarTok (x.rc.encodeInt v) m x.rcNo
  match x.avail 0 with
  | none => .wait
  | some .elided =>
    let n := elidedRun (x.elem.queue 0)
    let v := match k with
      | .sum => base
      | _ => accFold k uns base 0
    .act { elem := { x.elem.setQueue 0 (popElided n (x.elem.queue 0)) with ctl := .accum v true psn } }
  | some (.tok t) =>
    if t.mark.isEnd then
      if t.mark = .eos ∧ (folded ∨ psn) then
        let r := result psn base .data
        .act { elem := { x.elem with ctl := .accum 0 false false }, emits := x.all fun o => .tok o r }
      else .act { elem := { x.elem.pop 0 with ended := t.mark == .eos }
                  emits := x.all fun o => .tok o { eosTok false x.rcNo with mark := t.mark } }
    else if t.mark = .ctrl ∨ t.mark = .steer then .act { elem := x.elem.pop 0 }
    else
      let el := x.elem.pop 0
      let psn := psn || t.isPoison
      let v := if t.isPoison then base else accFold k uns base (x.ival (.tok t))
      if accFlushes x.md t.struct then
        let r := result psn v t.struct
        .act { elem := { el with ctl := .accum 0 false false }, emits := x.all fun o => .tok o r }
      else .act { elem := { el with ctl := .accum v true psn } }

def execAcc (f : Fab) (s : State) : Out := fire (.acc f) (accFire .sum) s
def execAccmax (f : Fab) (s : State) : Out := fire (.accmax f) (accFire .max) s
def execAccmin (f : Fab) (s : State) : Out := fire (.accmin f) (accFire .min) s

end Sys2Proof.Machine
end

