-- ==== Sys2Proof/Machine/Vector.lean ====
section
/-! DEFINITION. The vector pipe: elementwise arithmetic, conversions, reductions, lane movement, special functions, quantisation
and the reorder buffer (11 R206 to R231). -/

namespace Sys2Proof.Machine

/-! ## Operands (R207 to R210) -/

/-- A vector operand: its lanes, masked ones as none, and the channel they are read under. -/
structure VArg where
  lanes : List (Option W32)
  ch    : Chan

/-- The channel of the link into an input: elided positions stand before a token, whose channel is the link's. -/
def FireIn.inChan (x : FireIn) (k : Nat) : Chan :=
  match x.elem.queue k with
  | t :: _ => x.load.chan t.chan
  | [] => x.rc

/-- Input i1 of a binary instruction whose DATA is broadcast to sixteen present lanes (R207). R214 reads an elided position of
VBLEND as sixteen masked lanes on every input. -/
def FireIn.broadcasts (x : FireIn) (k : Nat) : Bool := k == 1 && x.md == 2 && isVBinary x.o && x.o != 0x6A

/-- A queued operand. An elided position is sixteen masked lanes (log 25), or +0 in every lane of a broadcast; a scalar token is
broadcast to all lanes (R207). -/
def FireIn.varg (x : FireIn) (k : Nat) (p : Pos) : VArg :=
  match p with
  | .elided => ⟨List.replicate 16 (if x.broadcasts k then some 0 else none), x.inChan k⟩
  | .tok t => if t.vec then ⟨p.lanes, x.load.chan t.chan⟩ else ⟨List.replicate 16 (some t.word), x.load.chan t.chan⟩

/-- A VK operand, under channel VKCH (R208). -/
def FireIn.vkArg (x : FireIn) (reg : Nat) : VArg :=
  ⟨(lanesOf (x.load.vk x.blk.page x.tile reg)).map some, x.load.chan (x.imm 15 11)⟩

/-- The result channel has a floating-point format (R208). -/
def FireIn.isFloat (x : FireIn) : Bool := x.rc.fmt ≤ 4

/-- The marker of a vector result: the highest structural marker (R210). -/
def vecMark (ps : List Pos) : Mark := Mark.ofRank ((ps.map fun p => p.struct.rank).foldl Nat.max 0)

/-- The opening of every vector firing: heads of the read inputs, end tokens by R198, POISON by R63. -/
def vecStart (x : FireIn) (ks : List Nat) (go : List Pos → Fire) : Fire :=
  match x.heads ks with
  | none => .wait
  | some ps =>
    match endPair x ks ps true with
    | some r => r
    | none =>
      if ps.any Pos.poison then
        .act { elem := x.elem.pops ks, emits := x.all fun k => .tok k (poisonTok true (vecMark ps) x.rcNo) }
      else go ps

/-- Elided runs pass when every read input stands at one (R211). -/
def passRuns (x : FireIn) (ks : List Nat) : Fire :=
  let n := (ks.map fun k => elidedRun (x.elem.queue k)).foldl Nat.min 63
  .act { elem := ks.foldl (fun e k => e.setQueue k (popElided n (e.queue k))) x.elem
         emits := x.all fun k => .elide k n true x.rcNo }

/-- A result lane: word, cause and flags; none when masked. -/
abbrev LaneRes := Option (W32 × Cause × Flags)

/-- emit_vec of sixteen result lanes on every output; a lane with an underflow or quantised zero is masked (R209). -/
def vecResult (x : FireIn) (el : Elem) (m : Mark) (rs : List LaneRes) : Act :=
  let keep (r : LaneRes) : Bool := match r with
    | some (_, .underflowZero, _) => false
    | some (_, .quantZero, _) => false
    | some _ => true
    | none => false
  let w := packLanes (rs.map fun r => if keep r then (r.map (·.1)).getD 0 else 0)
  let k := packMask (rs.map keep)
  let fl := rs.foldl (fun a r => match r with
    | some (_, _, f) => a ||| f
    | none => a) (0 : Flags)
  { elem := el, emits := x.all fun o => emitVec o w k m x.rcNo, flags := fl }

/-- Lane by lane over the operands. -/
def laneWise (args : List VArg) (op : List (Option W32) → LaneRes) : List LaneRes :=
  (List.range 16).map fun l => op (args.map fun a => (a.lanes[l]?).getD none)

/-- The operands a, b and c of R207 for the positions read. -/
def FireIn.vargs (x : FireIn) (ks : List Nat) (ps : List Pos) : List VArg :=
  let q (k : Nat) : List VArg := match (ks.zip ps).find? (fun e => e.1 == k) with
    | some (_, p) => [x.varg k p]
    | none => []
  q 0 ++ (if x.md = 1 && isVBinary x.o then [x.vkArg (x.imm 2 0)] else q 1)
    ++ (if isVTernary x.o && x.imm 6 6 = 1 then [x.vkArg (x.imm 5 3)] else q 2)

/-- The shared action of R211. `zp`: the instruction is zero-preserving, so elided runs pass. -/
def elementwise (zp : Bool) (op : FireIn → List Chan → List (Option W32) → LaneRes) (x : FireIn) : Fire :=
  let ks := x.ins
  vecStart x ks fun ps =>
    if zp && ps.all Pos.isElided then passRuns x ks
    else
      let args := x.vargs ks ps
      .act (vecResult x (x.elem.pops ks) (vecMark ps) (laneWise args (op x (args.map (·.ch)))))

/-! ## Arithmetic -/

/-- The value of a lane, +0 when masked. -/
def laneVal (c : Chan) (w : Option W32) : XVal :=
  match w with
  | none => .zero
  | some w => c.decode w

def laneInt (c : Chan) (w : Option W32) : W32 :=
  match w with
  | none => 0
  | some w => c.decodeInt w

/-- Encodes an exact value with the flags of its operation. -/
def encF (x : FireIn) (r : XVal × Flags) : LaneRes :=
  let (w, c, f) := x.rc.encode r.1
  some (w, c, r.2 ||| f)

def encI (x : FireIn) (r : W32) : LaneRes := some (x.rc.encodeInt r, .exact, 0)

def chanAt (cs : List Chan) (k : Nat) : Chan := cs.getD k ⟨9, 0, 0, 0⟩
def argAt (ws : List (Option W32)) (k : Nat) : Option W32 := (ws[k]?).getD none

/-- A two-operand lane, float and integer. -/
def lane2 (ff : XVal → XVal → XVal × Flags) (fi : Bool → W32 → W32 → W32) (x : FireIn) (cs : List Chan) (ws : List (Option W32)) :
    LaneRes :=
  if x.isFloat then encF x (ff (laneVal (chanAt cs 0) (argAt ws 0)) (laneVal (chanAt cs 1) (argAt ws 1)))
  else encI x (fi (chanAt cs 0).unsignedCmp (laneInt (chanAt cs 0) (argAt ws 0)) (laneInt (chanAt cs 1) (argAt ws 1)))

/-- Masked when a named operand's lane is masked (R209). -/
def shared (ks : List Nat) (op : FireIn → List Chan → List (Option W32) → LaneRes) (x : FireIn) (cs : List Chan)
    (ws : List (Option W32)) : LaneRes :=
  if ks.any fun k => (argAt ws k).isNone then none else op x cs ws

def lane1 (ff : XVal → XVal) (fi : Bool → W32 → W32) (x : FireIn) (cs : List Chan) (ws : List (Option W32)) : LaneRes :=
  if x.isFloat then encF x (ff (laneVal (chanAt cs 0) (argAt ws 0)), 0)
  else encI x (fi ((chanAt cs 0).fmt == 11) (laneInt (chanAt cs 0) (argAt ws 0)))

def minW (u : Bool) (a b : W32) : W32 := if (if u then b.ult a else b.slt a) then b else a
def maxW (u : Bool) (a b : W32) : W32 := if (if u then a.ult b else a.slt b) then b else a
/-- |a|; a KEY32 word is unsigned (R208). -/
def absW (key : Bool) (a : W32) : W32 := if !key && a.slt 0 then 0 - a else a

/-- VSHL: the signed amount b[5:0] (R211). -/
def vshlW (sar : Bool) (a b : W32) : W32 :=
  let n := (b.extractLsb' 0 6).toInt
  if 0 ≤ n then a <<< n.toNat
  else if sar then a.sshiftRight n.natAbs
  else a >>> n.natAbs

/-- VFMA and VFMS (R212): without the product where a or b is masked. -/
def fmaLane (neg : Bool) (x : FireIn) (cs : List Chan) (ws : List (Option W32)) : LaneRes :=
  let c := argAt ws 2
  match argAt ws 0, argAt ws 1 with
  | some a, some b =>
    if x.isFloat then
      let av := (chanAt cs 0).decode a
      encF x (XVal.fma (if neg then av.neg else av) ((chanAt cs 1).decode b) (laneVal (chanAt cs 2) c))
    else
      let p := (chanAt cs 0).decodeInt a * (chanAt cs 1).decodeInt b
      let cv := laneInt (chanAt cs 2) c
      encI x (if neg then cv - p else p + cv)
  | _, _ =>
    match c with
    | none => none
    | some w => if x.isFloat then encF x ((chanAt cs 2).decode w, 0) else encI x ((chanAt cs 2).decodeInt w)

def execVadd (f : Fab) (s : State) : Out := fire (.vadd f) (elementwise false (lane2 XVal.add fun _ a b => a + b)) s
def execVsub (f : Fab) (s : State) : Out := fire (.vsub f) (elementwise false (lane2 XVal.sub fun _ a b => a - b)) s
def execVmul (f : Fab) (s : State) : Out :=
  fire (.vmul f) (elementwise true (shared [0, 1] (lane2 XVal.mul fun _ a b => a * b))) s
def execVfma (f : Fab) (s : State) : Out := fire (.vfma f) (elementwise true (fmaLane false)) s
def execVfms (f : Fab) (s : State) : Out := fire (.vfms f) (elementwise true (fmaLane true)) s
def execVmin (f : Fab) (s : State) : Out := fire (.vmin f) (elementwise false (lane2 XVal.min minW)) s
def execVmax (f : Fab) (s : State) : Out := fire (.vmax f) (elementwise false (lane2 XVal.max maxW)) s
def execVabs (f : Fab) (s : State) : Out := fire (.vabs f) (elementwise true (shared [0] (lane1 XVal.abs absW))) s
def execVneg (f : Fab) (s : State) : Out := fire (.vneg f) (elementwise true (shared [0] (lane1 XVal.neg fun _ a => 0 - a))) s
def execVand (f : Fab) (s : State) : Out :=
  fire (.vand f) (elementwise true (shared [0, 1] (lane2 XVal.add fun _ a b => a &&& b))) s
def execVor (f : Fab) (s : State) : Out := fire (.vor f) (elementwise false (lane2 XVal.add fun _ a b => a ||| b)) s
def execVxor (f : Fab) (s : State) : Out := fire (.vxor f) (elementwise false (lane2 XVal.add fun _ a b => a ^^^ b)) s
def execVshl (f : Fab) (s : State) : Out :=
  fire (.vshl f) (elementwise true (shared [0] fun x => lane2 XVal.add (fun _ a b => vshlW (x.imm 8 8 == 1) a b) x)) s

/-! ## Compares and blends -/

/-- A predicate of VCMP on values: result and flags (R213). -/
def cmpF (sub : Nat) (a b : XVal) : Bool × Flags :=
  let nan := a.isNaN || b.isNaN
  let sig := a.sigFlags ||| b.sigFlags
  match sub with
  | 0 => (XVal.eqv a b, sig)
  | 1 => (!XVal.eqv a b, sig)
  | 2 => (XVal.lt a b, if nan then fNV else 0)
  | 3 => (!nan && !XVal.lt b a, if nan then fNV else 0)
  | 4 => (XVal.lt b a, if nan then fNV else 0)
  | 5 => (!nan && !XVal.lt a b, if nan then fNV else 0)
  | 6 => (nan, sig)
  | _ => (!nan, sig)

def cmpI (sub : Nat) (u : Bool) (a b : W32) : Bool :=
  let lt (a b : W32) : Bool := if u then a.ult b else a.slt b
  match sub with
  | 0 => a == b
  | 1 => a != b
  | 2 => lt a b
  | 3 => !lt b a
  | 4 => lt b a
  | 5 => !lt a b
  | 6 => false
  | _ => true

/-- The mode of the inputs decides how they compare (R213). -/
def cmpLane (x : FireIn) (cs : List Chan) (ws : List (Option W32)) : LaneRes :=
  let ca := chanAt cs 0
  let cb := chanAt cs 1
  let (r, f) := if ca.fmt ≤ 4 then cmpF (x.imm 10 8) (laneVal ca (argAt ws 0)) (laneVal cb (argAt ws 1))
    else (cmpI (x.imm 10 8) ca.unsignedCmp (laneInt ca (argAt ws 0)) (laneInt cb (argAt ws 1)), 0)
  some (x.rc.encodeInt (bool32 r), .exact, f)

def execVcmp (f : Fab) (s : State) : Out := fire (.vcmp f) (elementwise false cmpLane) s

/-- VBLEND copies lanes as raw bits with their mask bits (R214). -/
def blendLane (_ : FireIn) (cs : List Chan) (ws : List (Option W32)) : LaneRes :=
  let take := match argAt ws 2 with
    | none => false
    | some c => decide (intOf (chanAt cs 2).fmt c ≠ 0)
  (argAt ws (if take then 1 else 0)).map fun w => (w, .exact, 0)

def execVblend (f : Fab) (s : State) : Out := fire (.vblend f) (elementwise false blendLane) s

/-! ## Conversion (R215) -/

/-- Integer to integer: both scales, rounded once, saturated, no flag; unscaled sources by R84. -/
def cvtInt (ca rc : Chan) (w : W32) : W32 :=
  if ca.fmt == 7 || ca.fmt == 10 then
    let v := ca.decode w
    let v := if scaled rc.fmt then XVal.divNum v rc.scaleVal else v
    let (i, _) := roundToInt rc.rmode v
    let (lo, hi) := if rc.fmt == 11 then intRange 9 else intRange rc.fmt
    BitVec.ofNat 32 (placeInt (if rc.fmt == 11 then 9 else rc.fmt) (clampInt lo hi i))
  else rc.encodeInt (ca.decodeInt w)

def cvtLane (x : FireIn) (cs : List Chan) (ws : List (Option W32)) : LaneRes :=
  match argAt ws 0 with
  | none => none
  | some w =>
    let ca := chanAt cs 0
    if isFloatFmt ca.fmt || isFloatFmt x.rc.fmt then encF x (ca.decode w, 0)
    else some (cvtInt ca x.rc w, .exact, 0)

def execVcvt (f : Fab) (s : State) : Out := fire (.vcvt f) (elementwise true cvtLane) s

/-! ## Reductions (R216, 05 R98) -/

inductive RedOp where
  | sum | max | min | amax
  deriving DecidableEq, Repr

/-- A node in float mode: rounded to FP32. -/
def redF (o : RedOp) (a b : XVal) : XVal × Flags :=
  let (v, f) := match o with
    | .sum => XVal.add a b
    | .min => XVal.min a b
    | _ => XVal.max a b
  let (w, g) := r32 v
  (f32 w, f ||| g)

def redI (o : RedOp) (u : Bool) (a b : W32) : W32 × Flags :=
  (match o with
    | .sum => a + b
    | .min => minW u a b
    | _ => maxW u a b, 0)

/-- The tree over one token: its root as a value, absent when every lane is masked. -/
def redTree (x : FireIn) (o : RedOp) (a : VArg) : Option (XVal ⊕ W32) × Flags :=
  if x.isFloat then
    let (r, f) := tree16 (redF o) (a.lanes.map fun w => w.map fun w => let v := a.ch.decode w; if o = .amax then v.abs else v)
    (r.map Sum.inl, f)
  else
    let (r, f) := tree16 (redI o a.ch.unsignedCmp) (a.lanes.map fun w => w.map fun w =>
      let v := a.ch.decodeInt w; if o = .amax then absW (a.ch.fmt == 11) v else v)
    (r.map Sum.inr, f)

/-- A reduction's result in lane 0 (R216). -/
def redEmit (x : FireIn) (el : Elem) (m : Mark) (r : Option (XVal ⊕ W32)) (f : Flags) : Act :=
  let first : LaneRes := match r with
    | none => none
    | some (.inl v) => encF x (v, f)
    | some (.inr w) => encI x w
  { vecResult x el m (first :: List.replicate 15 none) with flags := f ||| (match first with
    | some (_, _, g) => g
    | none => 0) }

/-- Folds a tree result into the latch S: an FP32 word, or an integer. -/
def redFold (x : FireIn) (o : RedOp) (u : Bool) (s : Option W32) (t : XVal ⊕ W32) : W32 × Flags :=
  match t, s with
  | .inl v, none => let (w, f) := r32 v; (BitVec.ofNat 32 w, f)
  | .inl v, some s =>
    let (r, f) := match o with
      | .sum => XVal.add (f32 s.toNat) v
      | .min => XVal.min (f32 s.toNat) v
      | _ => XVal.max (f32 s.toNat) v
    let (w, g) := r32 r
    (BitVec.ofNat 32 w, f ||| g)
  | .inr v, none => (v, 0)
  | .inr v, some s => if x.isFloat then (v, 0) else redI o u s v

def redFire (o : RedOp) (x : FireIn) : Fire :=
  if x.md = 0 then
    vecStart x [0] fun ps =>
      if ps.all Pos.isElided then passRuns x [0]
      else
        let (r, f) := redTree x o (x.varg 0 (ps.headD .elided))
        .act (redEmit x (x.elem.pop 0) (vecMark ps) r f)
  else
    let (s, psn) := match x.elem.ctl with
      | .fold s p _ => (s, p)
      | _ => (none, false)
    let flush (el : Elem) (psn : Bool) (s : Option W32) (f : Flags) (m : Mark) : Act :=
      let el := { el with ctl := .fold none false false }
      if psn then { elem := el, emits := x.all fun k => .tok k (poisonTok true m x.rcNo) }
      else redEmit x el m (s.map fun w => if x.isFloat then .inl (f32 w.toNat) else .inr w) f
    match x.avail 0 with
    | none => .wait
    | some .elided =>
      let n := elidedRun (x.elem.queue 0)
      let el := x.elem.setQueue 0 (popElided n (x.elem.queue 0))
      -- nothing under +, +0 once under the others (04 R66)
      let (s', f) := if o = .sum then (s, 0)
        else
          let (w, f) := redFold x o (x.inChan 0).unsignedCmp s (if x.isFloat then .inl .zero else .inr 0)
          (some w, f)
      .act { elem := { el with ctl := .fold s' psn false }, flags := f }
    | some (.tok t) =>
      if t.mark.isEnd then
        if t.mark = .eos ∧ (s.isSome ∨ psn) then .act (flush x.elem psn s 0 .data)
        else .act { elem := { x.elem.pop 0 with ended := t.mark == .eos }
                    emits := x.all fun o => .tok o { eosTok true x.rcNo with mark := t.mark } }
      else
        let el := x.elem.pop 0
        let (s', f) := if t.isPoison then (s, 0)
          else
            let a := x.varg 0 (.tok t)
            match redTree x o a with
            | (none, f) => (s, f)
            | (some r, f) =>
              let (w, g) := redFold x o a.ch.unsignedCmp s r
              (some w, f ||| g)
        let psn := psn || t.isPoison
        if accFlushes (x.md - 1) t.struct then .act { flush el psn s' f t.struct with flags := if psn then 0 else (flush el psn s' f t.struct).flags }
        else .act { elem := { el with ctl := .fold s' psn false }, flags := f }

def execVred (f : Fab) (s : State) : Out := fire (.vred f) (redFire .sum) s
def execVredmax (f : Fab) (s : State) : Out := fire (.vredmax f) (redFire .max) s
def execVredmin (f : Fab) (s : State) : Out := fire (.vredmin f) (redFire .min) s
def execVamax (f : Fab) (s : State) : Out := fire (.vamax f) (redFire .amax) s

/-! ## VSCAN (R217) -/

/-- One lane of the scan: the carry after it and the output lane. -/
def scanLane (x : FireIn) (ch : Chan) (ex : Bool) (carry : Option W32) (w : Option W32) : Option W32 × LaneRes :=
  match w with
  | none => (carry, none)
  | some w =>
    if x.isFloat then
      let (v, f) := XVal.add (f32 (carry.getD 0).toNat) (ch.decode w)
      let (n, g) := r32 v
      let outv := if ex then f32 (carry.getD 0).toNat else f32 n
      let r := encF x (outv, f ||| g)
      (some (BitVec.ofNat 32 n), r)
    else
      let n := carry.getD 0 + ch.decodeInt w
      (some n, encI x (if ex then carry.getD 0 else n))

def scanLanes (x : FireIn) (ch : Chan) (ex : Bool) : Option W32 → List (Option W32) → Option W32 × List LaneRes
  | c, [] => (c, [])
  | c, w :: ws =>
    let (c1, r) := scanLane x ch ex c w
    let (c2, rs) := scanLanes x ch ex c1 ws
    (c2, r :: rs)

/-- The carry after a token with this marker. -/
def scanKeep (md : Nat) (m : Mark) (c : Option W32) : Option W32 :=
  match md with
  | 0 => none
  | 1 => if m.rank > 0 then none else c
  | _ => if m.rank > 1 then none else c

def vscanFire (x : FireIn) : Fire :=
  let carry := match x.elem.ctl with
    | .scan c => c
    | _ => none
  match x.heads [0] with
  | some [p] =>
    match endPair x [0] [p] true with
    | some r => r
    | none =>
      let el := x.elem.pop 0
      if p.poison then
        .act { elem := { el with ctl := .scan (scanKeep x.md p.struct carry) }
               emits := x.all fun k => .tok k (poisonTok true (vecMark [p]) x.rcNo) }
      else
        let a := x.varg 0 p
        let (c, rs) := scanLanes x a.ch (x.imm 8 8 == 1) carry a.lanes
        -- an elided position is no token: the carry stays
        let c := if p.isElided then carry else scanKeep x.md p.struct c
        .act (vecResult x { el with ctl := .scan c } (vecMark [p]) rs)
  | _ => .wait

def execVscan (f : Fab) (s : State) : Out := fire (.vscan f) vscanFire s

/-! ## VMAXR (R218) -/

/-- One lane: the latch after it, M' as a result, the difference d. -/
def maxrLane (x : FireIn) (ch : Chan) (m : W32) (w : Option W32) : W32 × (W32 × Flags) × (W32 × Flags) :=
  let mv := f32 m.toNat
  let (nv, f) := match w with
    | none => (mv, 0)
    | some w => XVal.max mv (ch.decode w)
  let (nw, g) := r32 nv
  let nv := f32 nw
  let (d, h) := if nv.isNaN then (nv, 0)
    else if XVal.eqv mv nv then (.zero, 0)
    else
      let (v, f1) := XVal.sub mv nv
      let (w, f2) := r32 v
      (f32 w, f1 ||| f2)
  let (wm, _, fm) := x.rc.encode nv
  let (wd, _, fd) := x.rc.encode d
  (BitVec.ofNat 32 nw, (wm, f ||| g ||| fm), (wd, h ||| fd))

def vmaxrFire (x : FireIn) : Fire :=
  let latch := match x.elem.ctl with
    | .maxr m => m
    | _ => 0
  let neutral := packLanes (List.replicate 16 0xFF800000)
  let after (m : Mark) (l : Line) : Line := if m.rank > x.md then neutral else l
  match x.heads [0] with
  | some [p] =>
    match endPair x [0] [p] true with
    | some r => r
    | none =>
      let el := x.elem.pop 0
      let mk := vecMark [p]
      if p.poison then
        .act { elem := { el with ctl := .maxr (after mk latch) }, emits := x.all fun k => .tok k (poisonTok true mk x.rcNo) }
      else
        let a := x.varg 0 p
        let rs := (List.range 16).map fun l => maxrLane x a.ch (lane latch l) (argAt a.lanes l)
        let m1 := packLanes (rs.map (·.1))
        let v := packLanes (rs.map (·.2.1.1))
        let d := packLanes (rs.map (·.2.2.1))
        let fl := rs.foldl (fun a r => a ||| r.2.1.2 ||| r.2.2.2) (0 : Flags)
        .act { elem := { el with ctl := .maxr (after mk m1) }
               emits := x.all fun k => .tok k (vecTok (if k = 0 then v else d) 0xFFFF mk x.rcNo)
               flags := fl }
  | _ => .wait

def execVmaxr (f : Fab) (s : State) : Out := fire (.vmaxr f) vmaxrFire s

/-! ## Lane movement -/

/-- VSHUF by the pattern in VK[KB] (R219). -/
def vshufFire (x : FireIn) : Fire :=
  let ks := x.ins
  vecStart x ks fun ps =>
    let pat := x.load.vk x.blk.page x.tile (x.imm 2 0)
    let srcs := (ks.zip ps).map fun e => (x.varg e.1 e.2).lanes
    let rs : List LaneRes := (List.range 16).map fun l =>
      let p := lane pat l
      if p.getLsbD 31 then none
      else (argAt (srcs.getD (fld p 4 4) []) (fld p 3 0)).map fun w => (w, .exact, 0)
    .act (vecResult x (x.elem.pops ks) (vecMark ps) rs)

def execVshuf (f : Fab) (s : State) : Out := fire (.vshuf f) vshufFire s

/-- The elements a position supplies to a pack: masked lanes and elided positions as none. -/
def packElems : Pos → List (Option W32)
  | .elided => List.replicate 16 none
  | .tok t => Pos.lanes (.tok t)

/-- VPACK in groups of `n` positions; `build` makes the result of a whole group (R220, R221). -/
def packFire (n : Nat) (build : List Pos → Mark → Fire) (x : FireIn) : Fire :=
  let held := match x.elem.ctl with
    | .pack h => h
    | _ => []
  match x.avail 0 with
  | none => .wait
  | some p =>
    if p.isEnd then
      if held.isEmpty then
        .act { elem := { x.elem.pop 0 with ended := p.mark == .eos }
               emits := x.all fun k => .tok k { eosTok true x.rcNo with mark := p.mark } }
      else .trap .markskew id
    else if held.length + 1 < n then
      if p.struct.rank > 0 then .trap .markskew id
      else .act { elem := { x.elem.pop 0 with ctl := .pack (held ++ [p]) } }
    else build (held ++ [p]) (vecMark [p])

/-- VPACK.code: one coded block of two positions (R220). -/
def packCode (x : FireIn) (ps : List Pos) (m : Mark) : Fire :=
  let el := { x.elem.pop 0 with ctl := .pack [] }
  if ps.any Pos.poison then .act { elem := el, emits := x.all fun k => .tok k (poisonTok true m x.rcNo) }
  else
    let els := ps.flatMap fun p => (packElems p).map fun w => (w.getD 0).toNat % 256
    match encodeBlock x.rc.fmt x.rc.ctab (x.load.ctabs.getD x.rc.ctab 0) els with
    | none => .trap .packerr id
    | some v => .act { elem := el, emits := x.all fun k => .tok k (vecTok v 0xFFFF m x.rcNo) }

def execVpackCode (f : Fab) (s : State) : Out := fire (.vpackCode f) (fun x => packFire 2 (packCode x) x) s

/-- Lanes of 32 bits from elements of `w` bits, lowest first; present when any of its elements is (R221). -/
def packWords (w : Nat) (els : List (Option W32)) : List LaneRes :=
  let n := 32 / w
  (List.range 16).map fun l =>
    let g := (els.drop (n * l)).take n
    if g.all Option.isNone then none
    else some (BitVec.ofNat 32 ((g.map fun e => (e.getD 0).toNat % 2 ^ w).foldr (fun e acc => acc * 2 ^ w + e) 0), .exact, 0)

def packRaw (x : FireIn) (w : Nat) (ps : List Pos) (m : Mark) : Fire :=
  let el := { x.elem.pop 0 with ctl := .pack [] }
  if ps.any Pos.poison then .act { elem := el, emits := x.all fun k => .tok k (poisonTok true m x.rcNo) }
  else .act (vecResult x el m (packWords w (ps.flatMap packElems)))

def execVpackRaw (f : Fab) (s : State) : Out :=
  fire (.vpackRaw f) (fun x =>
    let w := 8 * fmtBytes (x.inChan 0).fmt
    packFire (32 / w) (packRaw x w) x) s

/-- VUNPK: 32/w tokens for each input token, one a cycle (R206, R221). -/
def vunpkFire (x : FireIn) : Fire :=
  let w := 8 * fmtBytes x.rc.fmt
  let n := 32 / w
  match x.heads [0] with
  | some [p] =>
    match endPair x [0] [p] true with
    | some r => r
    | none =>
      match p with
      | .elided => .act { elem := x.elem.pop 0, emits := x.all fun k => .elide k n true x.rcNo }
      | .tok t =>
        let mk (j : Nat) : Mark := if j + 1 = n then vecMark [p] else .data
        let one (j : Nat) : List Emit :=
          if t.isPoison then x.all fun k => .tok k (poisonTok true (mk j) x.rcNo)
          else
            let pick (l : Nat) : Option W32 :=
              let bit := w * (16 * j + l)
              if t.lmask.getLsbD (bit / 32) then some (BitVec.ofNat 32 (fld t.data (bit + w - 1) bit)) else none
            let ls := (List.range 16).map pick
            x.all fun k => emitVec k (packLanes (ls.map (·.getD 0))) (packMask (ls.map Option.isSome)) (mk j) x.rcNo
        .act { elem := x.elem.pop 0, emits := one 0, later := laterItems ((List.range (n - 1)).map fun j => one (j + 1)) }
  | _ => .wait

def execVunpk (f : Fab) (s : State) : Out := fire (.vunpk f) vunpkFire s

/-! ## Seeds, exponentials, scaling (R222 to R224) -/

def seedLane (g : XVal → Nat × Cause × Flags) (_ : FireIn) (cs : List Chan) (ws : List (Option W32)) : LaneRes :=
  let (w, c, f) := g (laneVal (chanAt cs 0) (argAt ws 0))
  some (BitVec.ofNat 32 w, c, f)

def execVrcp (f : Fab) (s : State) : Out := fire (.vrcp f) (elementwise false (seedLane seedRcp)) s
def execVrsq (f : Fab) (s : State) : Out := fire (.vrsq f) (elementwise false (seedLane seedRsq)) s

def expLane (g : (XVal → W32 × Cause × Flags) → XVal → W32 × Cause × Flags) (x : FireIn) (cs : List Chan)
    (ws : List (Option W32)) : LaneRes :=
  some (g x.rc.encode (laneVal (chanAt cs 0) (argAt ws 0)))

def execVexp2 (f : Fab) (s : State) : Out := fire (.vexp2 f) (elementwise false (expLane exp2With)) s
def execVlog2 (f : Fab) (s : State) : Out := fire (.vlog2 f) (elementwise false (expLane log2With)) s

/-- a × 2^n, rounded once. Beyond ±4,096 every result is the one at that bound. -/
def scaleLane (x : FireIn) (cs : List Chan) (ws : List (Option W32)) : LaneRes :=
  match argAt ws 0 with
  | none => none
  | some a =>
    let n := clampInt (-4096) 4096 (laneInt (chanAt cs 1) (argAt ws 1)).toInt
    encF x (((chanAt cs 0).decode a).scale2 n, 0)

def execVscale (f : Fab) (s : State) : Out := fire (.vscale f) (elementwise true scaleLane) s

/-! ## Function tables (R225, R226) -/

def XVal.floorInt : XVal → Int
  | .num s n d => if s then -(((n + d - 1) / d : Nat) : Int) else ((n / d : Nat) : Int)
  | _ => 0

/-- A knot of the table that begins at pool word `q`. -/
def knot (x : FireIn) (q s : Nat) : XVal := f32 (fld (x.pool (q + s / 2)) (32 * (s % 2) + 31) (32 * (s % 2)))

/-- The interpolation of R226 over the knots that begin at pool word `q`. -/
def tableAt (x : FireIn) (q : Nat) (v : XVal) : XVal × Flags :=
  let p := x.imm 9 0
  let lo := f32 (fld (x.pool p) 31 0)
  let hi := f32 (fld (x.pool p) 63 32)
  let extrap := (x.pool (p + 1)).getLsbD 0
  let chord (s : Nat) (u : XVal) : XVal × Flags :=
    let (df, _) := XVal.sub (knot x q (s + 1)) (knot x q s)
    let (m, _) := XVal.mul df u
    XVal.add (knot x q s) m
  match v with
  | .nan g => (.nan false, if g then fNV else 0)
  | .inf neg =>
    if !extrap then (knot x q (if neg then 0 else 64), 0)
    else
      let s := if neg then 0 else 63
      let (df, _) := XVal.sub (knot x q (s + 1)) (knot x q s)
      if df.isZero then (knot x q (if neg then 0 else 64), 0) else (.inf (neg != df.isNeg), 0)
  | v =>
    let (num, _) := XVal.sub v lo
    let (den, _) := XVal.sub hi lo
    let tau := XVal.divNum (XVal.mul num (.num false 64 1)).1 den
    let fl := tau.floorInt
    if !extrap && fl < 0 then (knot x q 0, 0)
    else if !extrap && fl ≥ 64 then (knot x q 64, 0)
    else
      let s := (clampInt 0 63 fl).toNat
      let (u, _) := XVal.sub tau (.num false s 1)
      chord s u

def sfnLane (x : FireIn) (cs : List Chan) (ws : List (Option W32)) : LaneRes :=
  encF x (tableAt x (x.imm 9 0 + 2) (laneVal (chanAt cs 0) (argAt ws 0)))

def execVsfn (f : Fab) (s : State) : Out := fire (.vsfn f) (elementwise false sfnLane) s

/-- VSFN.d: round(g × D(x)), zero-preserving in g. -/
def sfnDLane (x : FireIn) (cs : List Chan) (ws : List (Option W32)) : LaneRes :=
  match argAt ws 1 with
  | none => none
  | some g =>
    let (d, f) := tableAt x (x.imm 9 0 + 35) (laneVal (chanAt cs 0) (argAt ws 0))
    let (p, h) := XVal.mul ((chanAt cs 1).decode g) d
    encF x (p, f ||| h)

def execVsfnD (f : Fab) (s : State) : Out := fire (.vsfnD f) (elementwise true sfnDLane) s

/-! ## Quantisation (R227, R228) -/

/-- The operand that MOD may replace by +0. -/
def optArg (ws : List (Option W32)) (cs : List Chan) : XVal := laneVal (chanAt cs 1) (argAt ws 1)

def quantLane (x : FireIn) (cs : List Chan) (ws : List (Option W32)) : LaneRes :=
  let (d, f) := XVal.sub (laneVal (chanAt cs 0) (argAt ws 0)) (optArg ws cs)
  if d.isNaN then some (0, .quantZero, fNV)
  else
    let (w, _, g) := x.rc.encode d
    let zero := if x.rc.fmt = 7 then w == 0 else w.toNat % 128 == 0
    if zero then some (0, .quantZero, f)
    else some (w, .exact, f ||| (if x.rc.fmt = 7 then g &&& fNX else g))

/-- An elided run passes where b is +0 or elided too; a VK operand b is never elided, so each position is evaluated. -/
def execVquant (f : Fab) (s : State) : Out := fire (.vquant f) (fun x => elementwise (x.md != 1) quantLane x) s

def deqLane (x : FireIn) (cs : List Chan) (ws : List (Option W32)) : LaneRes :=
  match argAt ws 0 with
  | none => encF x (optArg ws cs, 0)
  | some a => encF x (XVal.add ((chanAt cs 0).decode a) (optArg ws cs))

def execVdeq (f : Fab) (s : State) : Out := fire (.vdeq f) (elementwise false deqLane) s

/-! ## ROB (R229, R230) -/

/-- The arrival number and marker of place `j` of a window, from the descriptor. -/
def robPlace (d : BitVec 128) (j : Nat) : Nat × Mark :=
  let nl := fld d 95 94
  let c0 := fld d 73 64 + 1
  let c1 := fld d 83 74 + 1
  let i0 := j % c0
  let i1 := if nl ≥ 1 then j / c0 % c1 else 0
  let i2 := if nl ≥ 2 then j / (c0 * c1) else 0
  let n : Int := (d.extractLsb' 96 10).toInt * i0 + (d.extractLsb' 106 10).toInt * i1 + (d.extractLsb' 116 10).toInt * i2
  (n.toNat, if (j + 1) % c0 ≠ 0 then .data else if nl ≥ 1 && (j + 1) % (c0 * c1) = 0 then .last2 else .last)

/-- Address in the tile store of place `j` of a half of the operand bank at BUF: 72 bytes a position (R229). -/
def robAddr (d : BitVec 128) (half j : Nat) : Nat := 1024 * fld d 22 16 + 72 * (half * (fld d 9 0 + 1) + j)

/-- Writes a position of the filling window into the tile store (02 R18, R231): the 542 bits of its token, an elided one with LMASK
zero. -/
def FireIn.robStore (x : FireIn) (d : BitVec 128) (half j : Nat) (p : Pos) (s : State) : State :=
  let t : Token := match p with
    | .elided => vecTok 0 0 .data x.rcNo
    | .tok t => t
  s.bankWrite x.run x.blk.page x.tile (robAddr d half j) (natBytes 68 t.vectorBits.toNat)

/-- A position of a window, from the tile store; a word with an uncorrectable error makes it POISON (22 R362). -/
def FireIn.robLoad (x : FireIn) (d : BitVec 128) (half j : Nat) : Token :=
  let a := robAddr d half j
  let t := Token.ofVectorBits (BitVec.ofNat 542 (bytesNat (x.s.bankRead x.run x.blk.page x.tile a 68)))
  if x.s.bankBad x.run x.blk.page x.tile a 68 then poisonTok true .data x.rcNo else t

/-- The result at place `j` of a whole window in a half of the bank. -/
def robOut (x : FireIn) (t : Bool) (d : BitVec 128) (half j : Nat) : List Emit :=
  if t then
    let m : Mark := if j = 15 then .last else .data
    let win := (List.range 16).map (x.robLoad d half)
    if win.any Token.isPoison then x.all fun k => .tok k (poisonTok true m x.rcNo)
    else
      let ls := win.map fun p => argAt (Pos.tok p).lanes j
      x.all fun k => emitVec k (packLanes (ls.map (·.getD 0))) (packMask (ls.map Option.isSome)) m x.rcNo
  else
    let (n, m) := robPlace d j
    let p := x.robLoad d half n
    if p.isPoison then x.all fun k => .tok k (poisonTok true m x.rcNo)
    else
      let ls := (Pos.tok p).lanes
      x.all fun k => emitVec k (packLanes (ls.map (·.getD 0))) (packMask (ls.map Option.isSome)) m x.rcNo

/-- One window fills while the other is emitted; at most one arrival and one emission a firing. The windows stand in the tile store. -/
def robFire (t : Bool) (x : FireIn) : Fire :=
  let d : BitVec 128 := x.pool (x.imm 9 0 + 1) ++ x.pool (x.imm 9 0)
  let n := fld d 9 0 + 1
  let (fill, emit, nxt, half) := match x.elem.ctl with
    | .rob a b k h => (a, b, k, h)
    | _ => (0, 0, 0, 0)
  let send := decide (emit ≠ 0)
  let emits := if send then robOut x t d (1 - half) nxt else []
  let (em, k) := if send then (if nxt + 1 = emit then (0, 0) else (emit, nxt + 1)) else (emit, nxt)
  let settle (el : Elem) (fill : Nat) : Elem :=
    if em = 0 ∧ fill = n then { el with ctl := .rob 0 fill 0 (1 - half) } else { el with ctl := .rob fill em k half }
  match x.avail 0 with
  | some p =>
    if p.isEnd then
      if fill ≠ 0 ∧ fill < n then .trap .robpart id
      else if send then .act { elem := settle x.elem fill, emits := emits }
      else if fill = 0 then
        .act { elem := { x.elem.pop 0 with ended := p.mark == .eos }
               emits := x.all fun k => .tok k { eosTok true x.rcNo with mark := p.mark } }
      else .wait
    else if fill < n then .act { elem := settle (x.elem.pop 0) (fill + 1), emits := emits, eff := x.robStore d half fill p }
    else if send then .act { elem := settle x.elem fill, emits := emits }
    else .wait
  | none => if send then .act { elem := settle x.elem fill, emits := emits } else .wait

def execRob (f : Fab) (s : State) : Out := fire (.rob f) (robFire false) s
def execRobT (f : Fab) (s : State) : Out := fire (.robT f) (robFire true) s

end Sys2Proof.Machine
end

