-- ==== Sys2Proof/Machine/Matrix.lean ====
section
/-! DEFINITION. The dense product of the matrix node, the bank loader and the drain, with the events of the scoreboard
(12 R232 to R239). -/

namespace Sys2Proof.Machine

/-! ## Operands in banks (R234) -/

/-- An address token's DATA: tile within the page, byte address. -/
def bankTile (a : W32) : Nat := fld a 22 17
def bankAddr (a : W32) : Nat := fld a 16 0

/-- `count` elements of a channel's width from a bank of the node's page, as exact values; none: a word with an uncorrectable
error. -/
def FireIn.bankElems (x : FireIn) (a : W32) (ch : Chan) (count : Nat) : Array (Option XVal) :=
  let w := fmtBytes ch.fmt
  let bs := (x.s.bankRead x.run x.blk.page (bankTile a) (bankAddr a) (w * count)).toArray
  let anyBad := !x.s.mem.storeBad.isEmpty
  ((List.range count).map fun j =>
    if anyBad && x.s.bankBad x.run x.blk.page (bankTile a) (bankAddr a + w * j) w then none
    else some (ch.decode (BitVec.ofNat 32 (bytesNat ((List.range w).map fun b => bs.getD (w * j + b) 0))))).toArray

/-- Format classes: 0 none, 1 BF16 and FP16, 2 FP8, 3 integers. -/
def mmaClass (fmt : Nat) : Nat :=
  if fmt = 1 ∨ fmt = 2 then 1 else if fmt = 3 ∨ fmt = 4 then 2 else if fmt = 7 ∨ fmt = 10 then 3 else 0

/-- Multiply-accumulates of a class in a cycle. -/
def mmaRate (cls : Nat) : Nat := if cls = 1 then 512 else 1024

/-! ## MMA (R233 to R236) -/

def mmaOp (c : W32) : Nat := fld c 31 30
def mmaM (c : W32) : Nat := 32 * (fld c 29 28 + 1)
def mmaN (c : W32) : Nat := 32 * (fld c 27 26 + 1)
def mmaK (c : W32) : Nat := 32 * (fld c 25 20 + 1)
/-- Output tiles, minus one. -/
def mmaNT (c : W32) : Nat := (fld c 29 28 + 1) * (fld c 27 26 + 1) - 1

/-- Output tiles the operation forms. -/
def mmaTiles (c : W32) : List Nat :=
  (List.range (mmaNT c + 1)).filter fun t => mmaOp c != 1 || c.getLsbD t

/-- Accumulators that an operation writes: those of all its output tiles, formed or not (R233). -/
def MmaOp.writes (o : MmaOp) : List Nat := (List.range (mmaNT o.ctrl + 1)).map fun t => fld o.ctrl 18 16 + t

/-- Cycles of an operation (R235). -/
def FireIn.mmaCycles (x : FireIn) (o : MmaOp) : Nat :=
  if mmaOp o.ctrl = 2 then 2
  else mmaM o.ctrl * mmaN o.ctrl * mmaK o.ctrl / mmaRate (mmaClass (x.load.chan o.aChan).fmt)

/-- The CTRL token alone is malformed (R233, R235). -/
def mmaCtrlBad (c : W32) : Bool :=
  mmaOp c == 3 || fld c 13 8 != 0 || (mmaOp c != 1 && fld c 7 0 != 0) || fld c 18 16 + mmaNT c > 7
    || (mmaOp c == 2 && (fld c 25 20 != 0 || c.getLsbD 19 || c.getLsbD 15 || c.getLsbD 14))

/-- An address token is malformed, or its operand runs past the store (R234, R235). -/
def addrBad (a : W32) (bytes : Nat) : Bool := fld a 31 23 != 0 || bankAddr a % 64 != 0 || bankAddr a + bytes > 0x20000

/-- The first `n` positions of a queue. -/
def firstPos : Nat → List Token → List Pos
  | 0, _ => []
  | n + 1, q => match headPos q with
    | none => []
    | some p => p :: firstPos n (popPos q)

/-- A mask or address token may be any data position. -/
def Pos.isData (p : Pos) : Bool := !p.isEnd && p.mark != .ctrl && p.mark != .steer

/-- A completion token (R232). -/
def completionWord (status slot nt accn : Nat) : W32 :=
  BitVec.ofNat 32 (status * 2 ^ 28 + slot * 2 ^ 7 + nt * 2 ^ 4 + accn)

/-- Places reserved on a link by operations that have not delivered their completion tokens (R235). -/
def FireIn.placeFree (x : FireIn) (c : Option Con) (pending : Nat) : Bool :=
  match c with
  | none => true
  | some c => decide ((queueOf x.load x.ref.blk x.blk c).length + pending < max 1 (linkCap x.load x.ref.blk c))

def mmaState (x : FireIn) : List MmaOp × Option (Nat × Nat) :=
  match x.elem.ctl with
  | .mma o l => (o, l)
  | _ => ([], none)

/-- Accepts one operation: its tokens stand at the head of i0, and CONA has a place to reserve (R235). -/
def mmaFire (x : FireIn) : Fire :=
  let (ops, last) := mmaState x
  match x.head 0 with
  | none => .wait
  | some p =>
    if p.isEnd then
      if ops.isEmpty then
        .act { elem := { x.elem.pop 0 with ended := p.mark == .eos }
               emits := x.all fun k => .tok k { eosTok false x.rcNo with mark := p.mark } }
      else .wait
    else if !(ops.length < 4 && x.placeFree x.f.cona ops.length) then .wait
    else if p.mark != .ctrl then .trap .badctrl id
    else
      let c := p.word
      let n := if mmaOp c = 0 then 3 else if mmaOp c = 1 then 4 else 1
      let ps := firstPos n (x.elem.queue 0)
      if (ps.drop 1).any Pos.isEnd then .trap .markskew id
      else if ps.length < n then .wait
      else if mmaCtrlBad c || (ps.drop 1).any (fun q => !q.isData) then .trap .badctrl id
      else
        let rest := ps.drop (if mmaOp c = 1 then 2 else 1)
        let a := rest.getD 0 .elided
        let b := rest.getD 1 .elided
        let op : MmaOp := ⟨c, if mmaOp c = 1 then (ps.getD 1 .elided).word else 0xFFFFFFFF, a.word, a.chan x.rcNo, b.word,
          b.chan x.rcNo, (ps.drop 1).any Pos.poison, none, 0⟩
        let ca := x.load.chan op.aChan
        let cb := x.load.chan op.bChan
        let bad := mmaOp c != 2 && !op.poisoned
          && (addrBad a.word (mmaM c * mmaK c * fmtBytes ca.fmt) || addrBad b.word (mmaK c * mmaN c * fmtBytes cb.fmt)
              || mmaClass ca.fmt == 0 || mmaClass ca.fmt != mmaClass cb.fmt)
        if bad then .trap .badctrl id
        else .act { elem := { x.elem.pops (List.replicate n 0) with ctl := .mma (ops ++ [op]) last } }

def execMma (f : Fab) (s : State) : Out := fire (.mma f) mmaFire s

/-- Accumulators that the drains of a node's MDRAIN elements hold (R236, R239). -/
def drainHolds (d : Drain) : List Nat :=
  if !d.taken then []
  else if d.begun && d.fetched = (if d.vec then 64 else 1024) then d.accs.drop 1
  else d.accs

/-- The element that feeds an MDRAIN's i0. -/
def drainSource (b : Blk) (idx : Nat) : Option Nat := (linkInto b idx 0).map (·.1)

/-- Accumulators of node `idx` that are draining. -/
def drainingOf (b : Blk) (idx : Nat) : List Nat :=
  (b.elems.zipIdx).flatMap fun (e, j) =>
    match e.ctl with
    | .drain (some d) => if drainSource b j = some idx then drainHolds d else []
    | _ => []

/-- One accumulator word of a product: K-groups `g0` to `g1` in ascending order (05 R97). None: an operand with an uncorrectable
error. -/
def dotGroups (acc : W32) (g0 g1 : Nat) (a b : Nat → Option XVal) : Option W32 × Flags :=
  (List.range (g1 - g0)).foldl (fun r g =>
    match r with
    | (none, f) => (none, f)
    | (some acc, f) =>
      let prods := (List.range 32).map fun j => match a (32 * (g0 + g) + j), b (32 * (g0 + g) + j) with
        | some u, some v => some (prod u v)
        | _, _ => none
      if prods.any Option.isNone then (none, f)
      else
        let (w, h) := accGroup acc (prods.filterMap id)
        (some w, f ||| h)) (some acc, 0)

/-- Word i of output tile t is formed: the whole tile under OP 0b10, else the rows of RMASK (R233). -/
def MmaOp.forms (o : MmaOp) (i : Nat) : Bool := mmaOp o.ctrl == 2 || o.rmask.getLsbD (i / 32)

/-- An output tile as the operation finds it once it has started: formed words zero unless it accumulates (R235). -/
def mmaZero (o : MmaOp) (old : AccTile) : AccTile :=
  if o.ctrl.getLsbD 19 then old
  else { old with
    vals := (List.range 1024).map fun i => if o.forms i then 0 else old.vals.getD i 0
    bad := old.bad.filter fun i => !o.forms i }

/-- K-groups `g0` to `g1` of output tile t: words, words with errors, flags (R233, R235). -/
def mmaTile (o : MmaOp) (old : AccTile) (g0 g1 t : Nat) (A B : Array (Option XVal)) : AccTile × Flags :=
  let c := o.ctrl
  let nc := fld c 27 26 + 1
  let (M, N, K) := (mmaM c, mmaN c, mmaK c)
  let res := (List.range 1024).map fun i =>
    let r := i / 32
    let m := 32 * (t / nc) + r
    let n := 32 * (t % nc) + i % 32
    if old.bad.contains i then (none, (0 : Flags))
    else if !o.forms i then (some (old.vals.getD i 0), 0)
    else
      dotGroups (old.vals.getD i 0) g0 g1
        (fun k => A.getD (if c.getLsbD 15 then k * M + m else m * K + k) none)
        (fun k => B.getD (if c.getLsbD 14 then n * K + k else k * N + n) none)
  ({ old with
      vals := res.map fun r => r.1.getD 0
      bad := (List.range 1024).filter fun i => ((res[i]?).map (·.1.isNone)).getD false },
    res.foldl (fun f r => f ||| r.2) 0)

/-- K-groups of an operation; zeroing forms none. -/
def MmaOp.all (o : MmaOp) : Nat := if o.poisoned || mmaOp o.ctrl == 2 then 0 else mmaK o.ctrl / 32

/-- K-groups that an operation has formed after so many cycles (R232; log 107): they are spread evenly over its P cycles. -/
def FireIn.mmaDue (x : FireIn) (o : MmaOp) : Nat :=
  match o.started with
  | none => 0
  | some t => min o.all ((x.run.cycles - t) * o.all / x.mmaCycles o)

/-- Puts accumulators into the plane's bank. -/
def State.putAccs (s : State) (ref : ElemRef) (l : List AccTile) : State :=
  s.modRun ref.run fun r => r.setPlane ref.plane (l.foldl Plane.setAcc (r.plane ref.plane))

/-- Forms the groups of an operation from those it has formed up to `g1`: its output tiles and the flags. -/
def FireIn.mmaForm (x : FireIn) (o : MmaOp) (g1 : Nat) : List (AccTile × Flags) :=
  if g1 ≤ o.groups then []
  else
    let A := x.bankElems o.aAddr (x.load.chan o.aChan) (mmaM o.ctrl * mmaK o.ctrl)
    let B := x.bankElems o.bAddr (x.load.chan o.bChan) (mmaK o.ctrl * mmaN o.ctrl)
    let pl := x.run.plane x.ref.plane
    (mmaTiles o.ctrl).map fun t => mmaTile o (pl.acc x.blk.page x.tile (fld o.ctrl 18 16 + t)) o.groups g1 t A B

/-- The oldest accepted operation that may start (R236). -/
def mmaCandidate (x : FireIn) : Option Nat :=
  let (ops, last) := mmaState x
  let spaced := match last with
    | none => true
    | some (t, p) => decide (t + p ≤ x.run.cycles)
  if !spaced then none
  else
    let draining := drainingOf x.blk x.ref.idx
    (List.range ops.length).find? fun j =>
      match ops[j]? with
      | none => false
      | some o => o.started.isNone && o.writes.all fun a =>
          !draining.contains a && (ops.take j).all fun older => !older.writes.contains a

/-- MMA_START: the candidate starts; words that it forms without accumulating are zero (R235, R236). -/
def mmaStart (x : FireIn) (_ : Instr) : Fire :=
  let (ops, _) := mmaState x
  match mmaCandidate x with
  | none => .wait
  | some j =>
    match ops[j]? with
    | none => .wait
    | some o =>
      let p := x.mmaCycles o
      let el := { x.elem with ctl := .mma (setAt ops j { o with started := some x.run.cycles, groups := 0 }) (some (x.run.cycles, p)) }
      if o.poisoned then .act { elem := el }
      else
        let pl := x.run.plane x.ref.plane
        .act { elem := el
               eff := fun s => s.putAccs x.ref
                 ((mmaTiles o.ctrl).map fun t => mmaZero o (pl.acc x.blk.page x.tile (fld o.ctrl 18 16 + t))) }

def execMmaStart (e : ElemRef) (s : State) : Out := .next (driveElem e mmaStart s)

/-- As a cycle begins: of the oldest operation under way that is behind, the K-groups that have become due are added (R232). A freeze
stops the cycles of the run, so it stops the operation at the end of a group; the groups formed are its progress counter. -/
def mmaProgress (x : FireIn) (_ : Instr) : Fire :=
  let (ops, last) := mmaState x
  match (List.range ops.length).find? fun j => match ops[j]? with
    | some o => decide (o.groups < x.mmaDue o)
    | none => false with
  | none => .wait
  | some j => match ops[j]? with
    | none => .wait
    | some o =>
      let res := x.mmaForm o (x.mmaDue o)
      .act { elem := { x.elem with ctl := .mma (setAt ops j { o with groups := x.mmaDue o }) last }
             flags := res.foldl (fun f r => f ||| r.2) 0
             eff := fun s => s.putAccs x.ref (res.map (·.1)) }

/-- MMA_COMPLETE: the completion token of the operation that completes first, P + 6 cycles after its start; groups that have not been
formed by then are. -/
def mmaComplete (x : FireIn) (_ : Instr) : Fire :=
  let (ops, last) := mmaState x
  let due (o : MmaOp) : Option Nat := o.started.map fun t => t + x.mmaCycles o + 6
  let best := ops.foldl (fun (a : Option (Nat × MmaOp)) o => match due o, a with
    | none, a => a
    | some t, none => some (t, o)
    | some t, some (u, p) => if t < u then some (t, o) else some (u, p)) none
  match best with
  | none => .wait
  | some (t, o) =>
    if x.run.cycles < t then .wait
    else
      let tok := if o.poisoned then poisonTok false .data x.rcNo
        else scalarTok (completionWord 0 0 (mmaNT o.ctrl) (fld o.ctrl 18 16)) .data x.rcNo
      let res := x.mmaForm o o.all
      .act { elem := { x.elem with ctl := .mma (ops.erase o) last }
             emits := x.all fun k => .tok k tok
             flags := res.foldl (fun f r => f ||| r.2) 0
             eff := fun s => s.putAccs x.ref (res.map (·.1)) }

def execMmaComplete (e : ElemRef) (s : State) : Out := .next (driveElem e mmaComplete s)

/-! ## MOPF (R237) -/

def mopfFire (x : FireIn) : Fire :=
  let p := x.imm 9 0
  let tmask := x.pool p
  let base := fld (x.pool (p + 1)) 16 0
  let n := fld (x.pool (p + 1)) 27 17 + 1
  let (k, psn) := match x.elem.ctl with
    | .count k b => (k, b)
    | _ => (0, false)
  match x.avail 0 with
  | none => .wait
  | some q =>
    if q.isEnd then
      if k = 0 then
        .act { elem := { x.elem.pop 0 with ended := q.mark == .eos }
               emits := x.all fun o => .tok o { eosTok false x.rcNo with mark := q.mark } }
      else .trap .mopfpart id
    else
      let bytes := if q.poison then List.replicate 64 (0 : Byte)
        else (q.lanes.map fun w => natBytes 4 (w.getD 0).toNat).flatten
      let tiles := (List.range 64).filter fun t => tmask.getLsbD t
      let write (s : State) : State := tiles.foldl (fun s t => s.bankWrite x.run x.blk.page t (base + 64 * k) bytes) s
      let psn := psn || q.poison
      let el := x.elem.pop 0
      if k + 1 < n then .act { elem := { el with ctl := .count (k + 1) psn }, eff := write }
      else
        let tok := if psn then poisonTok false .data x.rcNo
          else scalarTok (BitVec.ofNat 32 (tiles.headD 0 * 2 ^ 17 + base)) .data x.rcNo
        .act { elem := { el with ctl := .count 0 false }, emits := x.all fun o => .tok o tok, eff := write }

def execMopf (f : Fab) (s : State) : Out := fire (.mopf f) mopfFire s

/-! ## MDRAIN (R238, R239) -/

/-- A route carries vector tokens (09 R404): the kind of its consumer, SOUT where that is neutral too. -/
def routeVec (b : Blk) (idx : Nat) (c : Con) : Bool :=
  match instrAt b c.idx.toNat with
  | none => false
  | some i => match fabOf i with
    | none => false
    | some f => match inKind (opcodeOf i) f.md c.inp.toNat with
      | .scalar => false
      | .vector => true
      | .neutral => !b.sout idx

/-- Routes of an MDRAIN with their consumers. -/
def routesOf (x : FireIn) (i : Instr) : List (Nat × Con) :=
  (List.range 8).filterMap fun k => (conOf x.blk i x.f k).map fun c => (k, c)

/-- Reads token t of an accumulator. -/
def drainRead (x : FireIn) (d : Drain) (t : Nat) : List (Option W32) :=
  match d.accs, drainSource x.blk x.ref.idx with
  | n :: _, some j =>
    match instrAt x.blk j with
    | some i => match fabOf i with
      | some f =>
        let a := (x.run.plane x.ref.plane).acc x.blk.page (pageTile x.blk f) n
        let len := if d.vec then 16 else 1
        (List.range len).map fun q => if a.bad.contains (t * len + q) then none else some (a.vals.getD (t * len + q) 0)
      | none => []
    | none => []
  | _, _ => []

/-- Reads on to four tokens ahead of emission. -/
def drainFill (x : FireIn) (d : Drain) : Drain :=
  let n := if d.vec then 64 else 1024
  (List.range 4).foldl (fun d _ =>
    if d.fetched < n ∧ d.read.length < 4 then { d with read := d.read ++ [drainRead x d d.fetched], fetched := d.fetched + 1 }
    else d) d

/-- Accumulators that the DLMULs of an element claim: from the request on, or only those under way (R235, R255). -/
def FireIn.mulAccs (x : FireIn) (idx : Nat) (begun : Bool) : List Nat :=
  (x.s.eng.dreqs.filter fun q => q.op == 1 && q.elem == { x.ref with idx := idx } && (!begun || q.begun)).flatMap fun q =>
    (List.range (fld q.ctrl 29 28 + 1)).map fun t => fld q.ctrl 21 19 + t

/-- The accumulator in hand is claimed by an incomplete operation of its node, a product or a DLMUL. Once the completion token is
consumed every accumulator it names is marked draining (R239), so an operation that has not started cannot start before the mark
goes: a later drain of the token waits only for operations that have started (log 50, DEDUCED). -/
def drainClaimed (x : FireIn) (d : Drain) : Bool :=
  match d.accs, drainSource x.blk x.ref.idx with
  | n :: _, some j => (x.mulAccs j d.taken).contains n || (match x.blk.elems[j]? with
    | some e => match e.ctl with
      | .mma ops _ => ops.any fun o => o.writes.contains n && (!d.taken || o.started.isSome)
      | _ => false
    | none => false)
  | _, _ => false

/-- The drain in hand ends; the next accumulator of an MDRAIN.all waits for its own beginning. -/
def drainNext (d : Drain) : Option Drain :=
  match d.accs.drop 1 with
  | [] => none
  | l => if d.poisoned then none else some { d with accs := l, pos := 0, fetched := 0, read := [], begun := false }

/-- Begins the drain in hand: the completion token (and the STEER token on i1) is consumed by the first. -/
def drainStart (x : FireIn) (d : Drain) : Act :=
  let el := if d.taken then x.elem else x.elem.pops x.ins
  let d := { d with begun := true, taken := true }
  if d.rtmask = 0 then { elem := { el with ctl := .drain (drainNext d) } }
  else { elem := { el with ctl := .drain (some (drainFill x d)) } }

/-- Consumes a completion token, or leaves its drain pending (R239). -/
def mdrainFire (all : Bool) (i : Instr) (x : FireIn) : Fire :=
  match x.elem.ctl with
  | .drain (some _) => .wait
  | _ =>
    match x.head 0 with
    | none => .wait
    | some p =>
      let routes := routesOf x i
      if p.isEnd then
        -- an equal end token on i1 goes with it; a STEER token left there stays and is a STRAY later (26 R397; log 48)
        let past (ks : List Nat) : Fire :=
          .act { elem := { x.elem.pops ks with ended := p.mark == .eos }
                 emits := routes.map fun r => .tok r.1 { eosTok (routeVec x.blk x.ref.idx r.2) x.rcNo with mark := p.mark } }
        if x.md ≠ 1 then past [0]
        else match x.head 1 with
          | none => .wait
          | some q => if q.mark == p.mark then past [0, 1] else if q.isEnd then .trap .markskew id else past [0]
      else
        let c := p.word
        let n := x.imm 12 10
        let lo := fld c 2 0
        let hi := lo + fld c 6 4
        let ok := fld c 31 28 ≤ 4 || fld c 31 28 = 12
        let accs := if p.poison then [n] else if !ok then [] else if all then (List.range (hi + 1 - lo)).map (lo + ·)
          else if lo ≤ n ∧ n ≤ hi then [n] else []
        if accs.isEmpty then .act { elem := x.elem.pop 0 }
        else
          let steer : Option W32 := if x.md = 1 then (x.head 1).map Pos.word else some ((x.pool (x.imm 9 0)).setWidth 32)
          match steer with
          | none => .wait
          | some w =>
            if x.md = 1 && ((x.head 1).map Pos.isEnd).getD false then .trap .markskew id
            else
              let sel := (List.range 8).filter fun k => w.getLsbD k
              let vecs := sel.filterMap fun k => (routes.find? (fun r => r.1 == k)).map fun r => routeVec x.blk x.ref.idx r.2
              if fld w 31 8 != 0 || sel.any (fun k => !(routes.any fun r => r.1 == k)) || (vecs.any id && !vecs.all id) then
                .trap .drainrt id
              else
                let d : Drain := ⟨accs, 0, 0, fld w 7 0, [], false, false, p.poison, vecs.any id⟩
                if drainClaimed x d then .act { elem := { x.elem with ctl := .drain (some d) } }
                else .act (drainStart x d)

def execMdrain (f : Fab) (s : State) : Out := fire (.mdrain f) (mdrainFire false (.mdrain f)) s
def execMdrainAll (f : Fab) (s : State) : Out := fire (.mdrainAll f) (mdrainFire true (.mdrainAll f)) s

def drainBegin (x : FireIn) (_ : Instr) : Fire :=
  match x.elem.ctl with
  | .drain (some d) => if d.begun || drainClaimed x d then .wait else .act (drainStart x d)
  | _ => .wait

def execDrainBegin (e : ElemRef) (s : State) : Out := .next (driveElem e drainBegin s)

/-- Marker of token t of a drain. -/
def drainMark (vec : Bool) (t : Nat) : Mark :=
  if vec then (if t = 63 then .last2 else if t % 2 = 1 then .last else .data)
  else (if t = 1023 then .last2 else if t % 32 = 31 then .last else .data)

/-- Every selected route takes one word in the same cycle, at most one a cycle (R239, 04 R67); it is a firing of the element. -/
def drainWord (x : FireIn) (i : Instr) : Fire :=
  match x.elem.ctl with
  | .drain (some d) =>
    match d.begun, d.read with
    | true, ws :: rest =>
      let sel := (routesOf x i).filter fun r => d.rtmask.testBit r.1
      if x.elem.firedAt = x.s.cycle + 1 then .wait
      else if !(sel.all fun r => linkCap x.load x.ref.blk r.2 == 0 || hasRoom x.load x.ref.blk x.blk x.s.cycle x.ref.idx r.2 1) then .wait
      else
        let m := drainMark d.vec d.pos
        let d1 := drainFill x { d with read := rest, pos := d.pos + 1 }
        let ended := d1.pos = (if d.vec then 64 else 1024)
        let el := { x.elem with ctl := .drain (if ended then drainNext d1 else some d1), firedAt := x.s.cycle + 1 }
        if d.poisoned || ws.any Option.isNone then
          .act { elem := el, emits := sel.map fun r => .tok r.1 (poisonTok d.vec m x.rcNo) }
        else
          let enc := ws.map fun w => x.rc.encode (f32 (w.getD 0).toNat)
          let fl := enc.foldl (fun f e => f ||| e.2.2) (0 : Flags)
          if d.vec then
            let keep (e : W32 × Cause × Flags) : Bool := e.2.1 != .underflowZero
            let v := packLanes (enc.map fun e => if keep e then e.1 else 0)
            .act { elem := el, flags := fl, emits := sel.map fun r => emitVec r.1 v (packMask (enc.map keep)) m x.rcNo }
          else
            match enc with
            | (w, c, _) :: _ => .act { elem := el, flags := fl, emits := sel.map fun r => emitWord r.1 w c m x.rcNo }
            | [] => .wait
    | _, _ => .wait
  | _ => .wait

def execDrainWord (e : ElemRef) (s : State) : Out := .next (driveElem e drainWord s)

end Sys2Proof.Machine
end

