-- ==== Sys2Proof/Machine/Relation.lean ====
section
/-! DEFINITION. Relations (06): the header, tuple slots, the kinds, semirings, the owner node's operations on inserts and
aggregations, and the finding again of a witnessed derivation. Engines walk at each use (log 16). -/

namespace Sys2Proof.Machine

/-! ## The header (R105 to R107) -/

def hdrPass (h : Line) : Nat := fld h 511 480
def hdrShape (h : Line) : Nat := fld h 447 384
def hdrNext (h : Line) : Nat := fld h 376 320
def hdrDelta (h : Line) : Nat := fld h 312 256
def hdrFull (h : Line) : Nat := fld h 248 192
def hdrNNext (h : Line) : Nat := fld h 191 160
def hdrLcap (h : Line) : Nat := fld h 159 152
def hdrLlist (h : Line) : Nat := fld h 151 144
def hdrNFull (h : Line) : Nat := fld h 127 96
def hdrNDelta (h : Line) : Nat := fld h 95 64
/-- 0 DENSE, 1 HASH, 2 SORTED-FIBRE. -/
def hdrKind (h : Line) : Nat := fld h 59 58
/-- Key columns. -/
def hdrCols (h : Line) : Nat := fld h 57 56 + 1
def hdrWfmt (h : Line) : Nat := fld h 55 52
def hdrRing (h : Line) : Nat := fld h 51 49
def hdrStrat (h : Line) : Nat := fld h 48 44
def hdrWit (h : Line) : Bool := h.getLsbD 43
def hdrOpen (h : Line) : Bool := h.getLsbD 42
def hdrTent (h : Line) : Bool := h.getLsbD 41
def hdrWver (h : Line) : W32 := h.extractLsb' 0 32

/-- Replaces the `w` bits at `lo`. -/
def putFld (h : Line) (lo w v : Nat) : Line :=
  BitVec.ofNat 512 (h.toNat - (h.toNat / 2 ^ lo % 2 ^ w) * 2 ^ lo + (v % 2 ^ w) * 2 ^ lo)

/-- Weight formats that a semiring permits (R112). -/
def wfmtOk (ring fmt : Nat) : Bool :=
  match ring with
  | 0 => fmt == 10
  | 1 => fmt == 9
  | 2 => fmt == 0
  | 3 => fmt == 0 || fmt == 9
  | 4 => fmt ≤ 4 || fmt == 7 || fmt == 9
  | 5 => fmt == 0
  | 6 => fmt == 0 || fmt == 9
  | _ => false

/-- The defects of R107. -/
def hdrBad (h : Line) : Bool :=
  fld h 63 60 != 1 || hdrKind h == 3 || hdrRing h == 7
    || fld h 479 448 != 0 || fld h 383 377 != 0 || fld h 319 313 != 0 || fld h 255 249 != 0 || fld h 143 128 != 0
    || fld h 40 32 != 0
    || !wfmtOk (hdrRing h) (hdrWfmt h)
    || hdrLcap h < 4 || hdrLcap h > 30 || hdrLlist h < 4 || hdrLlist h > 30
    || hdrFull h % 64 != 0 || hdrDelta h % 64 != 0 || hdrNext h % 64 != 0
    || (hdrRing h == 2 && hdrWit h && hdrLcap h > 24)

/-- Why a header could not be had: RELHDR (with its poison bit), or a translation fault of the engine read. -/
inductive HdrErr where
  | trap (psn : Bool)
  | xlat (e : WalkFault)
  deriving DecidableEq, Repr

/-- The header a context's address names, as the owner node holds it (R106, R247). -/
def State.relHold (s : State) (slot va : Nat) : Option RelHold := s.ord.rels.find? fun r => r.slot == slot && r.addr == va

/-- The header, unchecked for R107. -/
def State.relRaw (s : State) (slot va : Nat) : Except HdrErr Line :=
  if va % 64 ≠ 0 then .error (.trap false)
  else match s.relHold slot va with
    | some r => .ok r.hdr
    | none => match s.vline slot va with
      | .error e => .error (.xlat e)
      | .ok (h, psn) => if psn then .error (.trap true) else .ok h

def State.relHdr (s : State) (slot va : Nat) : Except HdrErr Line :=
  match s.relRaw slot va with
  | .error e => .error e
  | .ok h => if hdrBad h then .error (.trap false) else .ok h

/-- Puts a changed header back: into the owner node's copy while it holds one, else to memory as one 64-byte store. A write-back to a
page that can no longer be written is dropped: the spec does not say what becomes of it (DESIGN CHOICE, log 108). -/
def State.relPut (s : State) (slot va : Nat) (h : Line) : State :=
  if (s.relHold slot va).isSome then
    { s with ord := { s.ord with rels := s.ord.rels.map fun r => if r.slot = slot ∧ r.addr = va then { r with hdr := h } else r } }
  else match s.vwrite slot va (bytesOfLine h) with
    | .ok t => t
    | .error _ => s

/-- The binding that owns a relation (12 R275). -/
def State.relOwner (s : State) (slot va : Nat) : Option Owner :=
  s.ord.owners.find? fun o => o.rel && o.slot == slot && o.base == va

/-! ## Tuple slots (R108 to R110) -/

abbrev Slot := BitVec 256

def slotBorn (t : Slot) : Nat := fld t 255 224
/-- 0 EMPTY, 1 LIVE, 2 TENT, 3 DEAD. -/
def slotState (t : Slot) : Nat := fld t 223 222
def slotNidx (t : Slot) : Nat := fld t 215 192
def slotWit (t : Slot) : W32 := t.extractLsb' 160 32
def slotWgt (t : Slot) : W32 := t.extractLsb' 128 32
def slotKey (t : Slot) (c : Nat) : Nat := fld t (32 * c + 31) (32 * c)
def slotKeys (t : Slot) (n : Nat) : List Nat := (List.range n).map (slotKey t)

/-- A slot. NIDX and the slot of a witness are 24 bits wide where LLIST and LCAP reach 30: an index of 2^24 or more keeps its low 24 bits
(DESIGN CHOICE, log 109). -/
def mkSlot (born state nidx : Nat) (wit wgt : W32) (key : List Nat) : Slot :=
  BitVec.ofNat 256 (born * 2 ^ 224 + state * 2 ^ 222 + nidx % 2 ^ 24 * 2 ^ 192 + wit.toNat * 2 ^ 160 + wgt.toNat * 2 ^ 128
    + (key.zipIdx.map fun (k, c) => k % 2 ^ 32 * 2 ^ (32 * c)).foldl (· + ·) 0)

/-- Entry i of a part of 32-byte slots, and whether its line is poisoned. -/
def State.slotAt (s : State) (slot base i : Nat) : Except WalkFault (Slot × Bool) :=
  match s.vread slot (base + 32 * i) 32 with
  | .error e => .error e
  | .ok (bs, p) => .ok (BitVec.ofNat 256 (bytesNat bs), p)

def State.putSlot (s : State) (slot base i : Nat) (t : Slot) : Except WalkFault State :=
  s.vwrite slot (base + 32 * i) (natBytes 32 t.toNat)

/-- Extents of a DENSE relation (R108). -/
def extents (h : Line) : List Nat :=
  (List.range (hdrCols h)).map fun c => 32 * (hdrShape h / 2 ^ (16 * c) % 65536 + 1)

/-- Element number of a key in storage order; none beyond an extent. -/
def denseIndex (h : Line) (key : List Nat) : Option Nat :=
  let ex := extents h
  if (key.zip ex).any fun (k, e) => decide (e ≤ k) then none
  else match key.reverse, ex.reverse with
    | [k], _ => some k
    | c :: r :: lead, ec :: er :: elead =>
      let outer := ((lead.zip elead).reverse).foldl (fun a (k, e) => a * e + k) 0
      some (outer * er * ec + (r / 32 * (ec / 32) + c / 32) * 1024 + r % 32 * 32 + c % 32)
    | _, _ => none

/-- The key of an element number. -/
def denseKey (h : Line) (i : Nat) : List Nat :=
  match (extents h).reverse with
  | [_] => [i]
  | ec :: er :: elead =>
    let outer := i / (er * ec)
    let r := i % (er * ec)
    let t := r / 1024
    let w := r % 1024
    let lead := elead.foldl (fun (a : Nat × List Nat) e => (a.1 / e, a.1 % e :: a.2)) (outer, [])
    lead.2 ++ [t / (ec / 32) * 32 + w / 32, t % (ec / 32) * 32 + w % 32]
  | [] => []

/-- Home slot of a key (R109). -/
def homeSlot (h : Line) (key : List Nat) : Nat :=
  crc32c (hdrShape h / 2 ^ 32) (key.flatMap (natBytes 4)) % 2 ^ hdrLcap h

/-! ## Semirings (R112, R113, R99) -/

/-- A weight format as a channel of scale one under RNE. -/
def wchan (fmt : Nat) : Chan := ⟨fmt, 0, 0, 0x3F800000⟩

def wOne : W32 := 0x3F800000

/-- The bits of a weight's own width. -/
def wmask (fmt : Nat) (w : W32) : W32 := BitVec.ofNat 32 (w.toNat % 2 ^ (8 * fmtBytes fmt))

/-- The weight equals the semiring zero. -/
def ringZero (ring fmt : Nat) (w : W32) : Bool :=
  if ring = 3 then (if fmt = 9 then w == 0x7FFFFFFF else f32 w.toNat == .inf false)
  else if ring = 5 ∨ ring = 6 then (if fmt = 9 then w == 0x80000000 else f32 w.toNat == .inf true)
  else ((wchan fmt).decode w).isZero

def wNaN (fmt : Nat) (w : W32) : Bool := isFloatFmt fmt && ((wchan fmt).decode w).isNaN

/-- A MAXPROD weight outside [0, 1] is clamped and raises NV. -/
def clamp01 (w : W32) : W32 × Flags :=
  let v := f32 w.toNat
  if v.isNaN then (w, 0)
  else if v.isNeg && !v.isZero then (0, fNV)
  else if XVal.lt (f32 wOne.toNat) v then (wOne, fNV)
  else (w, 0)

/-- ⊕ of two weights, rounded to the format under RNE. BOOL weights other than 0 and 1 are taken bitwise (DESIGN CHOICE, log 110). -/
def oplus (ring fmt : Nat) (a b : W32) : W32 × Flags :=
  let c := wchan fmt
  match ring with
  | 0 => (wmask fmt (a ||| b), 0)
  | 1 => (BitVec.ofNat 32 (Nat.min (a.toNat + b.toNat) 0xFFFFFFFF), 0)
  | 5 => lse a b
  | 4 =>
    if isFloatFmt fmt then
      let (v, f) := XVal.add (c.decode a) (c.decode b)
      let (w, _, g) := c.encode v
      (w, f ||| g)
    else (c.encodeInt (BitVec.ofInt 32 (intOf fmt a + intOf fmt b)), 0)
  | _ =>
    let big := ring == 2 || ring == 6
    if isFloatFmt fmt then
      let (v, f) := (if big then XVal.max else XVal.min) (c.decode a) (c.decode b)
      ((c.encode v).1, f)
    else (if decide (intOf fmt b ≤ intOf fmt a) == big then a else b, 0)

/-- ⊗ of two weights, rounded to the format under RNE; none when it gives NaN. BOOL weights other than 0 and 1 are taken bitwise; an integer
0x7FFFFFFF or 0x80000000 of MINPLUS or MAXPLUS adds like any other number, saturating, and does not absorb as an infinity would (DESIGN
CHOICE, log 110). -/
def otimes (ring fmt : Nat) (a b : W32) : Option W32 × Flags :=
  let c := wchan fmt
  match ring with
  | 0 => (some (wmask fmt (a &&& b)), 0)
  | 1 => (some (BitVec.ofNat 32 (Nat.min (a.toNat * b.toNat) 0xFFFFFFFF)), 0)
  | _ =>
    let prod := ring == 2 || ring == 4
    if isFloatFmt fmt then
      let (v, f) := (if prod then XVal.mul else XVal.add) (c.decode a) (c.decode b)
      if v.isNaN then (none, f ||| fNV)
      else
        let (w, _, g) := c.encode v
        if ring = 2 then
          let (w, k) := clamp01 w
          (some w, f ||| g ||| k)
        else (some w, f ||| g)
    else if prod then (some (c.encodeInt (BitVec.ofInt 32 (intOf fmt a * intOf fmt b))), 0)
    else (some (BitVec.ofInt 32 (clampInt (-2147483648) 2147483647 (intOf fmt a + intOf fmt b))), 0)

/-- round(FP32, RNE, 1.0 − w) (R121). -/
def oneMinus (w : W32) : W32 × Flags :=
  let (v, f) := XVal.sub (f32 wOne.toNat) (f32 w.toNat)
  let (r, g) := r32 v
  (BitVec.ofNat 32 r, f ||| g)

/-! ## Items and lookups -/

/-- A tuple as an element reads it: keys, weight, state, FULL index or SRC, witness; its line is poisoned (log 28). -/
structure Tuple where
  keys  : List Nat
  wgt   : W32
  state : Nat
  src   : Nat
  wit   : W32
  psn   : Bool
  deriving DecidableEq, Repr

/-- Slots of a part: 0 FULL, 1 DELTA, 2 NEXT (R248). -/
def partCount (h : Line) (part : Nat) : Nat :=
  if part = 1 then hdrNDelta h
  else if part = 2 then hdrNNext h
  else if hdrKind h = 0 then (extents h).foldl (· * ·) 1
  else if hdrKind h = 1 then 2 ^ hdrLcap h
  else hdrNFull h

/-- Item i of a part. A SORTED-FIBRE slot and an entry count as LIVE; a DENSE element is LIVE when it is not the semiring
zero. -/
def State.partItem (s : State) (slot : Nat) (h : Line) (part i : Nat) : Except WalkFault Tuple :=
  if part = 0 ∧ hdrKind h = 0 then
    let n := fmtBytes (hdrWfmt h)
    match s.vread slot (hdrFull h + n * i) n with
    | .error e => .error e
    | .ok (bs, p) =>
      let w := BitVec.ofNat 32 (bytesNat bs)
      .ok ⟨denseKey h i, w, if ringZero (hdrRing h) (hdrWfmt h) w then 0 else 1, i, 0, p⟩
  else
    let base := if part = 1 then hdrDelta h else if part = 2 then hdrNext h else hdrFull h
    match s.slotAt slot base i with
    | .error e => .error e
    | .ok (t, p) =>
      .ok ⟨slotKeys t (hdrCols h), slotWgt t, if part = 0 ∧ hdrKind h = 1 then slotState t else 1,
        if part = 0 then i else slotNidx t, slotWit t, p⟩

/-- Result of a lookup in a HASH relation (R109). -/
inductive Found where
  /-- The slot that holds the key, LIVE or TENT. -/
  | hit (i : Nat) (t : Slot)
  /-- Not there; the slot that an insert would take. -/
  | miss (free : Option Nat)
  /-- A poisoned slot on the path (log 28). -/
  | psn
  deriving DecidableEq, Repr

def State.findGo (s : State) (slot : Nat) (h : Line) (key : List Nat) : Nat → Nat → Option Nat → Except WalkFault Found
  | 0, _, dead => .ok (.miss dead)
  | fuel + 1, i, dead =>
    match s.slotAt slot (hdrFull h) i with
    | .error e => .error e
    | .ok (t, p) =>
      let nxt := (i + 1) % 2 ^ hdrLcap h
      if p then .ok .psn
      else if slotState t = 0 then .ok (.miss (some (dead.getD i)))
      else if slotState t = 3 then s.findGo slot h key fuel nxt (some (dead.getD i))
      else if slotKeys t (hdrCols h) = key then .ok (.hit i t)
      else s.findGo slot h key fuel nxt dead

def State.find (s : State) (slot : Nat) (h : Line) (key : List Nat) : Except WalkFault Found :=
  s.findGo slot h key (2 ^ hdrLcap h) (homeSlot h key) none

/-- First index from `lo` to `hi` of a SORTED-FIBRE whose slot is not before a test; `fuel` halvings. -/
def State.lowerBound (s : State) (slot : Nat) (h : Line) (before : List Nat → Bool) : Nat → Nat → Nat → Except WalkFault Nat
  | 0, lo, _ => .ok lo
  | fuel + 1, lo, hi =>
    if hi ≤ lo then .ok lo
    else
      let mid := (lo + hi) / 2
      match s.slotAt slot (hdrFull h) mid with
      | .error e => .error e
      | .ok (t, _) =>
        if before (slotKeys t (hdrCols h)) then s.lowerBound slot h before fuel (mid + 1) hi
        else s.lowerBound slot h before fuel lo mid

/-- Unsigned lexicographic order of keys (R110). -/
def keyLt : List Nat → List Nat → Bool
  | a :: as, b :: bs => decide (a < b) || (a == b && keyLt as bs)
  | [], _ :: _ => true
  | _, [] => false

/-- A key of any kind: the tuple it names, whatever its state; none when absent. -/
def State.lookup (s : State) (slot : Nat) (h : Line) (key : List Nat) : Except WalkFault (Option Tuple) :=
  if hdrKind h = 1 then
    match s.find slot h key with
    | .error e => .error e
    | .ok (.hit i t) => .ok (some ⟨slotKeys t (hdrCols h), slotWgt t, slotState t, i, slotWit t, false⟩)
    | .ok (.miss _) => .ok none
    | .ok .psn => .ok (some ⟨key, 0, 1, 0, 0, true⟩)
  else if hdrKind h = 0 then
    match denseIndex h key with
    | none => .ok none
    | some i => match s.partItem slot h 0 i with
      | .error e => .error e
      | .ok t => .ok (if t.state = 1 ∨ t.psn then some t else none)
  else
    match s.lowerBound slot h (fun k => keyLt k key) 33 0 (hdrNFull h) with
    | .error e => .error e
    | .ok i =>
      if i < hdrNFull h then
        match s.partItem slot h 0 i with
        | .error e => .error e
        | .ok t => .ok (if t.keys = key then some t else none)
      else .ok none

/-! ## The owner node: inserts and aggregations (R117, R118, R250) -/

/-- What an application at the owner node comes to. -/
inductive Applied where
  | done (s : State) (flags : Flags)
  /-- RELFULL: nothing changes and the message stays queued. -/
  | full
  /-- The relation's memory cannot be reached: nothing changes, the message stays queued. -/
  | xlat (e : WalkFault)
  /-- A poisoned line, or a header the owner cannot use: the message is discarded. -/
  | discard

/-- One insert (`ins`) or aggregation. -/
def State.relApply (s : State) (slot va : Nat) (ins : Bool) (key : List Nat) (w wit : W32) : Applied :=
  match s.relHdr slot va with
  | .error (.xlat e) => .xlat e
  | .error (.trap _) => .discard
  | .ok h =>
    let ring := hdrRing h
    let fmt := hdrWfmt h
    if hdrKind h = 0 then
      match denseIndex h key with
      | none => .discard
      | some i =>
        let n := fmtBytes fmt
        match s.partItem slot h 0 i with
        | .error e => .xlat e
        | .ok t =>
          if t.psn then .discard
          else
            let (nw, f) := oplus ring fmt t.wgt w
            match s.vwrite slot (hdrFull h + n * i) (natBytes n nw.toNat) with
            | .error e => .xlat e
            | .ok s1 => .done s1 f
    else if hdrKind h = 2 then .discard
    else
      let wit := if hdrWit h then wit else 0
      let lim := decide (2 ^ hdrLlist h ≤ hdrNNext h + 1)
      -- FULL slot written at i, with its NEXT entry when `entry` names an index
      let put (i : Nat) (st : Nat) (born nidx : Nat) (wit w : W32) (entry : Option Nat) (h' : Line) (f : Flags) : Applied :=
        match s.putSlot slot (hdrFull h) i (mkSlot born st nidx wit w key) with
        | .error e => .xlat e
        | .ok s1 =>
          match entry with
          | none => .done (s1.relPut slot va h') f
          | some k =>
            match s1.putSlot slot (hdrNext h) k (mkSlot (hdrPass h) 1 i wit w key) with
            | .error e => .xlat e
            | .ok s2 => .done (s2.relPut slot va h') f
      let counted := putFld h 160 32 (hdrNNext h + 1)
      match s.find slot h key with
      | .error e => .xlat e
      | .ok .psn => .discard
      | .ok (.hit i t) =>
        if slotState t = 1 then
          let (nw, f) := oplus ring fmt (slotWgt t) w
          if nw = slotWgt t then .done s f
          else if !ins then put i 1 (slotBorn t) (slotNidx t) (slotWit t) nw none h f
          else if slotBorn t = hdrPass h then put i 1 (slotBorn t) (slotNidx t) wit nw (some (slotNidx t)) h f
          else if lim then .full
          else put i 1 (hdrPass h) (hdrNNext h) wit nw (some (hdrNNext h)) counted f
        else if !ins then put i 1 (slotBorn t) (slotNidx t) wit w none h 0
        else if lim then .full
        else put i 1 (hdrPass h) (hdrNNext h) wit w (some (hdrNNext h)) counted 0
      | .ok (.miss free) =>
        match free with
        | none => .full
        | some i =>
          if decide (7 * 2 ^ hdrLcap h < 8 * (hdrNFull h + 1)) || (ins && lim) then .full
          else if ins then
            put i 1 (hdrPass h) (hdrNNext h) wit w (some (hdrNNext h)) (putFld counted 96 32 (hdrNFull h + 1)) 0
          else put i 1 0xFFFFFFFF 0 wit w none (putFld h 96 32 (hdrNFull h + 1)) 0

/-! ## Derivations found again (R406) -/

/-- A factor of a derivation: positive or negated atom, relation, FULL tuple (none: absent negated key), factor word. -/
structure Factor where
  neg  : Bool
  rel  : Nat
  tup  : Option Tuple
  wgt  : W32
  deriving DecidableEq, Repr

/-- A partial derivation: columns so far, weight, factors. -/
structure Deriv where
  cols : List Nat
  wgt  : W32
  facs : List Factor
  deriving DecidableEq, Repr

/-- Joins agree: every pair of input column and relation column. -/
def pairsMatch (pairs : List (Nat × Nat)) (cols keys : List Nat) : Bool :=
  pairs.all fun (a, b) => match cols[a]?, keys[b]? with
    | some x, some y => x == y
    | _, _ => false

/-- Tuples of FULL that a probe sees, in the order HPROBE emits them, from item i on; `fuel` items. -/
def State.scanMatches (s : State) (slot : Nat) (h : Line) (seen : Nat → Bool) (ok : List Nat → Bool) :
    Nat → Nat → Except HdrErr (List Tuple)
  | 0, _ => .ok []
  | fuel + 1, i =>
    match s.partItem slot h 0 i with
    | .error e => .error (.xlat e)
    | .ok t =>
      match s.scanMatches slot h seen ok fuel (i + 1) with
      | .error e => .error e
      | .ok rest => .ok (if !t.psn && seen t.state && ok t.keys then t :: rest else rest)

/-- The tuples that a probe atom yields for the columns so far. -/
def State.probeMatches (s : State) (slot : Nat) (h : Line) (seen : Nat → Bool) (pairs : List (Nat × Nat)) (cols : List Nat) :
    Except HdrErr (List Tuple) :=
  let n := hdrCols h
  let bound := (List.range n).map fun c => ((pairs.find? fun p => p.2 == c).bind fun p => cols[p.1]?)
  if hdrKind h = 1 ∧ bound.all Option.isSome then
    match s.lookup slot h (bound.filterMap id) with
    | .error e => .error (.xlat e)
    | .ok none => .ok []
    | .ok (some t) => .ok (if !t.psn && seen t.state && pairsMatch pairs cols t.keys then [t] else [])
  else s.scanMatches slot h seen (pairsMatch pairs cols) (partCount h 0) 0

/-- Extends every partial derivation by one further atom. `seen`: states that a probe, negated ones included, sees (R406). A MAXPROD
product of 0 yields no tuple (R121). -/
def State.extend (s : State) (slot : Nat) (seen : Nat → Bool) (a : Atom) : List Deriv → Except HdrErr (List Deriv)
  | [] => .ok []
  | d :: ds =>
    match s.extend slot seen a ds, s.relHdr slot a.rel with
    | .error e, _ => .error e
    | _, .error e => .error e
    | .ok rest, .ok h =>
      if a.kind = 2 then
        let key := (List.range (hdrCols h)).map fun c => (((a.pairs.find? fun p => p.2 == c).bind fun p => d.cols[p.1]?)).getD 0
        match s.lookup slot h key with
        | .error e => .error (.xlat e)
        | .ok t =>
          let live := match t with
            | some u => if seen u.state then some u else none
            | none => none
          if hdrRing h = 0 then
            .ok (if live.isSome then rest else { d with facs := d.facs ++ [⟨true, a.rel, none, 1⟩] } :: rest)
          else
            let v := match live with
              | some u => (oneMinus u.wgt).1
              | none => wOne
            match (otimes 2 0 d.wgt v).1 with
            | none => .ok rest
            | some w => if (f32 w.toNat).isZero then .ok rest else .ok ({ d with wgt := w, facs := d.facs ++ [⟨true, a.rel, live, v⟩] } :: rest)
      else
        match s.probeMatches slot h seen a.pairs d.cols with
        | .error e => .error e
        | .ok us =>
          .ok (us.filterMap (fun u => match (otimes (hdrRing h) (hdrWfmt h) d.wgt u.wgt).1 with
            | none => none
            | some w => some { cols := d.cols ++ u.keys, wgt := w, facs := d.facs ++ [⟨false, a.rel, some u, u.wgt⟩] }) ++ rest)

def State.extendAll (s : State) (slot : Nat) (seen : Nat → Bool) : List Atom → List Deriv → Except HdrErr (List Deriv)
  | [], ds => .ok ds
  | a :: as, ds =>
    match s.extend slot seen a ds with
    | .error e => .error e
    | .ok ds => s.extendAll slot seen as ds

/-- The factors of the derivation that a tuple's witness names under a rule; none when it is not found. The slot that the witness names is
taken as the first body atom as it stands, whatever its state: the spec does not say what a slot that has since become EMPTY, DEAD or
poisoned comes to (DESIGN CHOICE, log 111). -/
def State.refind (s : State) (slot : Nat) (rule : RuleRec) (seen : Nat → Bool) (t : Tuple) :
    Except HdrErr (Option (List Factor)) :=
  match rule.atoms with
  | [] => .ok none
  | first :: more =>
    match s.relHdr slot first.rel with
    | .error e => .error e
    | .ok h =>
      match s.partItem slot h 0 (fld t.wit 23 0) with
      | .error e => .error (.xlat e)
      | .ok b =>
        match s.extendAll slot seen more [⟨b.keys, b.wgt, [⟨false, first.rel, some b, b.wgt⟩]⟩] with
        | .error e => .error e
        | .ok ds =>
          let good := ds.filter fun d => rule.cols.map (fun c => d.cols[c]?) == t.keys.map some
          .ok (((good.find? fun d => d.wgt == t.wgt).orElse fun _ => good.head?).map (·.facs))

/-- The rule-table entry of a rule number and head relation (R405). -/
def Image.rule? (i : Image) (num head : Nat) : Option RuleRec := i.rules.find? fun r => r.num == num && r.head == head

/-- Position of a header in the image's relation table: the distinct headers of the relation lists in order of first appearance;
0xFF for another (log 27). -/
def Image.relPos (i : Image) (va : Nat) : Nat :=
  (((i.rlists.flatMap (·.2)).eraseDups).idxOf? va).getD 0xFF

end Sys2Proof.Machine
end

