-- ==== Sys2Proof/Machine/Relational.lean ====
section
/-! DEFINITION. The relational elements (12 R240, R247 to R253) and the owner node's turn (06 R116 to R118). -/

namespace Sys2Proof.Machine

/-! ## Tuple tokens (R240) -/

/-- A position is empty: elided, or a vector token with lane 0 masked. -/
def Pos.empty : Pos → Bool
  | .elided => true
  | .tok t => !t.lmask.getLsbD 0

def Pos.lane (p : Pos) (l : Nat) : W32 :=
  match p with
  | .elided => 0
  | .tok t => if t.lmask.getLsbD l then Machine.lane t.data l else 0

def Pos.maskOf : Pos → BitVec 16
  | .elided => 0
  | .tok t => t.lmask

/-- Columns in use: present lanes from 0 on. -/
def Pos.ncols (p : Pos) : Nat := ((List.range 8).takeWhile fun l => p.maskOf.getLsbD l).length

/-- A tuple token: columns, weight, SRC. -/
def tupleTok (keys : List Nat) (w : W32) (src : Nat) (m : Mark) (chan : Nat) : Token :=
  let n := keys.length
  let ls := (keys.map (BitVec.ofNat 32 ·)) ++ List.replicate (8 - n) 0 ++ [w, BitVec.ofNat 32 src]
  vecTok (packLanes ls) (BitVec.ofNat 16 (2 ^ n - 1 + 0x300)) m chan

/-- An output token with a marker; a POISON token keeps its structural marker. -/
def Token.withMark (t : Token) (m : Mark) : Token := if t.isPoison then poisonTok t.vec m t.chan else { t with mark := m }

/-- Header address of an element (R247). -/
def FireIn.relVa (x : FireIn) : Nat := (x.pool (x.imm 9 0)).toNat % 2 ^ 57

/-- The outcome for a header or slot that cannot be had (06 R107, 07 R146). -/
def FireIn.relErr (va : Nat) (e : HdrErr) : Fire :=
  match e with
  | .trap psn => .trap .relhdr fun i => { i with va := va, flags := if psn then 8 else 0 }
  | .xlat w => .fault (xlatInfo w va 3)

/-- An empty position with a marker (R247). -/
def emptyOut (x : FireIn) (m : Mark) : List Emit := x.all fun k => emitVec k 0 0 m x.rcNo

/-- What every relational element with an input does for end tokens, POISON and empty positions (R240, R247); `sink` emits
nothing. -/
def relInput (x : FireIn) (body : Pos → Fire) : Fire :=
  match x.avail 0 with
  | none => .wait
  | some p =>
    match endPair x [0] [p] true with
    | some r => r
    | none =>
      if p.poison then .act { elem := x.elem.pop 0, emits := x.all fun k => .tok k (poisonTok true p.struct x.rcNo) }
      else if p.empty then .act { elem := x.elem.pop 0, emits := emptyOut x (resultMark [p]) }
      else body p

/-! ## RSCAN (R248) -/

/-- The part an RSCAN reads: FULL in place of DELTA under RULE.full (R244). -/
def FireIn.scanPart (x : FireIn) : Nat := if x.md = 1 ∧ x.load.full then 0 else x.md

/-- The first tuple of a part from item i on; `fuel` items. One that cannot be read ends the look. -/
def State.tupleFrom (s : State) (slot : Nat) (h : Line) (part : Nat) : Nat → Nat → Option Tuple
  | 0, _ => none
  | fuel + 1, i => match s.partItem slot h part i with
    | .error _ => none
    | .ok t => if t.state = 1 ∨ t.psn then some t else s.tupleFrom slot h part fuel (i + 1)

/-- A tuple with the marker that another one behind it leaves it: LAST at the end of a fibre. -/
def fibreMark (sorted : Bool) (col : Nat) (o : Token) : Token :=
  o.withMark (if sorted && (Machine.lane o.data 0).toNat != col then .last else .data)

/-- One slot visited in a firing. A tuple leaves as soon as another one stands behind it, else once the part has ended, for it may be the
last. A slot counts as it stands when it is visited (17 R321). -/
def rscanFire (x : FireIn) : Fire :=
  match x.elem.ctl with
  | .rscan i held ended =>
    if ended then .wait
    else
      let va := x.relVa
      match x.s.relHdr x.run.slot va with
      | .error e => FireIn.relErr va e
      | .ok h =>
        let part := x.scanPart
        let sorted := hdrKind h == 2 && part == 0
        if partCount h part ≤ i then
          match held with
          | some t => .act { elem := { x.elem with ctl := .rscan i none false }
                             emits := x.all fun k => .tok k (t.withMark (if sorted then .last2 else .last)) }
          | none => .act { elem := { x.elem with ctl := .rscan i none true, ended := true }
                           emits := x.all fun k => .tok k (eosTok true x.rcNo) }
        else
          match x.s.partItem x.run.slot h part i with
          | .error e => FireIn.relErr va (.xlat e)
          | .ok t =>
            let out (col : Nat) (o : Token) : List Emit := x.all fun k => .tok k (fibreMark sorted col o)
            let here : Option Token := if t.state = 1 ∨ t.psn then
              some (if t.psn then poisonTok true .data x.rcNo else tupleTok t.keys t.wgt t.src .data x.rcNo) else none
            match held, here with
            | some o, some n => .act { elem := { x.elem with ctl := .rscan (i + 1) (some n) false }, emits := out (t.keys.headD 0) o }
            | o, n =>
              match o.orElse fun _ => n, x.s.tupleFrom x.run.slot h part (partCount h part - (i + 1)) (i + 1) with
              | some a, some b => .act { elem := { x.elem with ctl := .rscan (i + 1) none false }, emits := out (b.keys.headD 0) a }
              | a, _ => .act { elem := { x.elem with ctl := .rscan (i + 1) a false } }
  | _ => .wait

def execRscan (f : Fab) (s : State) : Out := fire (.rscan f) rscanFire s

/-! ## HPROBE (R249) -/

/-- Pairs of input column and relation column. -/
def FireIn.probePairs (x : FireIn) : List (Nat × Nat) :=
  (x.imm 12 10, x.imm 14 13) :: (if x.md = 1 then [(x.imm 17 15, x.imm 19 18)] else [])

/-- How a probe searches: 0 hashed, 1 fibre, 2 scan; the first slot, and how many slots at most. -/
def probePlan (s : State) (slot : Nat) (h : Line) (pairs : List (Nat × Nat)) (cols : List Nat) :
    Except WalkFault (Nat × Nat × Nat) :=
  let bound := (List.range (hdrCols h)).map fun c => (pairs.find? fun p => p.2 == c).map fun p => cols.getD p.1 0
  if hdrKind h = 1 ∧ bound.all Option.isSome then .ok (0, homeSlot h (bound.filterMap id), 2 ^ hdrLcap h)
  else if hdrKind h = 2 then
    match bound.headD none with
    | some c =>
      match s.lowerBound slot h (fun k => decide (k.headD 0 < c)) 33 0 (hdrNFull h) with
      | .error e => .error e
      | .ok i => .ok (1, i, hdrNFull h - i)
    | none => .ok (2, 0, partCount h 0)
  else .ok (2, 0, partCount h 0)

/-- The probe of a position ends: its last match, or an empty position, carries its marker. -/
def probeEnd (x : FireIn) (p : Pos) (held : Option Token) : Fire :=
  let m := resultMark [p]
  .act { elem := { x.elem.pop 0 with ctl := .probe none 0 0 none }
         emits := match held with
           | some t => x.all fun k => .tok k (t.withMark m)
           | none => emptyOut x m }

/-- One slot visited in a firing. The input stands at the head until its last slot has been visited (log 29). -/
def hprobeFire (x : FireIn) : Fire :=
  relInput x fun p =>
    let va := x.relVa
    match x.s.relHdr x.run.slot va with
    | .error e => FireIn.relErr va e
    | .ok h =>
      let n := p.ncols
      let cols := (List.range n).map fun l => (p.lane l).toNat
      let pairs := x.probePairs
      match probePlan x.s x.run.slot h pairs cols with
      | .error e => FireIn.relErr va (.xlat e)
      | .ok (mode, first, limit) =>
        let (seen, held) := match x.elem.ctl with
          | .probe (some _) _ seen held => (seen, held)
          | _ => (0, none)
        let cur := match p with
          | .tok t => some t
          | .elided => none
        if limit ≤ seen then probeEnd x p held
        else
          let i := if mode = 0 then (first + seen) % 2 ^ hdrLcap h else first + seen
          match x.s.partItem x.run.slot h 0 i with
          | .error e => FireIn.relErr va (.xlat e)
          | .ok u =>
            let go (held : Option Token) (out : List Emit) (flags : Flags) : Fire :=
              .act { elem := { x.elem with ctl := .probe cur (i + 1) (seen + 1) held }, emits := out, flags := flags }
            let out (o : Option Token) : List Emit := match o with
              | some t => x.all fun k => .tok k (t.withMark .data)
              | none => []
            let key := pairsMatch pairs cols u.keys
            if u.psn then go (some (poisonTok true .data x.rcNo)) (out held) 0
            else if mode = 0 ∧ u.state = 0 then probeEnd x p held
            else if mode = 1 ∧ u.keys.headD 0 ≠ cols.getD ((pairs.find? fun q => q.2 == 0).map (·.1) |>.getD 0) 0 then probeEnd x p held
            else if u.state = 1 ∧ key then
              let m := hdrCols h
              if n + m > 8 then .trap .relwide fun i => { i with va := va }
              else
                let (w, f) := otimes (hdrRing h) (hdrWfmt h) (p.lane 8) u.wgt
                -- a hashed lookup ends at its match
                let seen' := if mode = 0 then limit else seen + 1
                match w with
                | none => .act { elem := { x.elem with ctl := .probe cur (i + 1) seen' held }, flags := f }
                | some w =>
                  let ls := (List.range 16).map fun l =>
                    if l < n then p.lane l else if l < n + m then BitVec.ofNat 32 (u.keys.getD (l - n) 0)
                    else if l = 8 then w else p.lane l
                  let mask := (p.maskOf &&& 0xFF00) ||| BitVec.ofNat 16 (2 ^ (n + m) - 1)
                  let tok := vecTok (packLanes ls) (mask ||| 0x100) .data x.rcNo
                  .act { elem := { x.elem with ctl := .probe cur (i + 1) seen' (some tok) }, emits := out held, flags := f }
            else if mode = 0 ∧ u.state = 2 ∧ key then
              -- the lookup ends at a TENT slot of its key and sees nothing (06 R109, R111)
              .act { elem := { x.elem with ctl := .probe cur (i + 1) limit held } }
            else go held [] 0

def execHprobe (f : Fab) (s : State) : Out := fire (.hprobe f) hprobeFire s

/-! ## INSNEW and AGG (R250) -/

/-- The key of the head or negated relation, built through the column map; none when it names a masked lane (RELCOL). -/
def FireIn.mapKey (x : FireIn) (h : Line) (p : Pos) : Option (List Nat) :=
  let w := x.pool (x.imm 9 0 + 1)
  let cols := (List.range (hdrCols h)).map fun k => fld w (3 * k + 2) (3 * k)
  if cols.all fun c => p.maskOf.getLsbD c then some (cols.map fun c => (p.lane c).toNat) else none

/-- Input link of the die network by which a quadrant's inserts arrive at owner nodes: 64 port tiles, then the quadrants. -/
def FireIn.linkNo (x : FireIn) : Nat := 64 + 4 * x.run.phys x.blk.page + x.blk.quad

/-- Sends an insert or aggregation to the owner node. -/
def sendInsert (x : FireIn) (ins : Bool) (va : Nat) (o : Owner) (key : List Nat) (w : W32) (src : W32) (s : State) : State :=
  let k := (key.zipIdx.map fun (k, c) => k * 2 ^ (32 * c)).foldl (· + ·) 0
  let wit := BitVec.ofNat 32 (x.load.rule * 2 ^ 24 + fld src 23 0)
  let m : OwnMsg := ⟨o.die, x.linkNo, x.ref.run, x.run.slot, if ins then .insert else .agg, va, BitVec.ofNat 128 k, w, wit, o.run,
    s.cycle, none, []⟩
  let s := { s with ord := { s.ord with ownq := s.ord.ownq ++ [m] } }
  s.modRun x.ref.run fun r => { r with sent := r.sent + 1 }

/-- A poisoned value is discarded and the discard logged (04 R63, 22 R362). -/
def FireIn.logPoison (x : FireIn) (va : Nat) (s : State) : State :=
  s.logEvent x.run.die 0x30D none (some (s.identity x.ref.run)) (some (siteCode x.blk x.f)) none (some va)

def insertFire (ins : Bool) (x : FireIn) : Fire :=
  match x.avail 0 with
  | none => .wait
  | some p =>
    let el := x.elem.pop 0
    if p.isEnd then .act { elem := { el with ended := p.mark == .eos } }
    else
      let va := x.relVa
      match x.s.relHdr x.run.slot va with
      | .error e => FireIn.relErr va e
      | .ok h =>
        let at_ (i : FaultInfo) : FaultInfo := { i with va := va }
        if hdrKind h = 2 ∨ (ins ∧ hdrKind h = 0) then .trap .relkind at_
        else match x.s.relOwner x.run.slot va with
          | none => .trap .noowner at_
          | some o =>
            if p.poison then .act { elem := el, eff := x.logPoison va }
            else if p.empty then .act { elem := el }
            else match x.mapKey h p with
              | none => .trap .relcol at_
              | some key =>
                if hdrKind h = 0 ∧ (denseIndex h key).isNone then .trap .relrange at_
                else
                  let w := wmask (hdrWfmt h) (p.lane 8)
                  if wNaN (hdrWfmt h) w then .act { elem := el }
                  else
                    let (w, f) := if hdrRing h = 2 then clamp01 w else (w, 0)
                    if ringZero (hdrRing h) (hdrWfmt h) w then .act { elem := el, flags := f }
                    else .act { elem := el, flags := f, eff := sendInsert x ins va o key w (p.lane 9) }

def execInsnew (f : Fab) (s : State) : Out := fire (.insnew f) (insertFire true) s
def execAgg (f : Fab) (s : State) : Out := fire (.agg f) (insertFire false) s

/-! ## NEGATE (R251) -/

def negateFire (x : FireIn) : Fire :=
  relInput x fun p =>
    let va := x.relVa
    match x.s.relHdr x.run.slot va with
    | .error e => FireIn.relErr va e
    | .ok h =>
      let at_ (i : FaultInfo) : FaultInfo := { i with va := va }
      if hdrRing h ≠ 0 ∧ hdrRing h ≠ 2 then .trap .relkind at_
      else match x.mapKey h p with
        | none => .trap .relcol at_
        | some key =>
          match x.s.lookup x.run.slot h key with
          | .error e => FireIn.relErr va (.xlat e)
          | .ok u =>
            let el := x.elem.pop 0
            let m := resultMark [p]
            let live := match u with
              | some t => if t.state = 1 then some t else none
              | none => none
            let pass (w : W32) : List Emit :=
              let ls := (List.range 16).map fun l => if l = 8 then w else p.lane l
              x.all fun k => .tok k (vecTok (packLanes ls) (p.maskOf ||| 0x100) m x.rcNo)
            if (live.map (·.psn)).getD false then .act { elem := el, emits := x.all fun k => .tok k (poisonTok true m x.rcNo) }
            else if hdrRing h = 0 then
              match p, live with
              | .tok t, none => .act { elem := el, emits := x.all fun k => .tok k { t with mark := m, chan := x.rcNo } }
              | _, _ => .act { elem := el, emits := emptyOut x m }
            else
              let (v, f) := match live with
                | some t => oneMinus t.wgt
                | none => (wOne, 0)
              let (w, g) := otimes 2 0 (p.lane 8) v
              match w with
              | none => .act { elem := el, emits := emptyOut x m, flags := f ||| g }
              | some w =>
                if (f32 w.toNat).isZero then .act { elem := el, emits := emptyOut x m, flags := f ||| g }
                else .act { elem := el, emits := pass w, flags := f ||| g }

def execNegate (f : Fab) (s : State) : Out := fire (.negate f) negateFire s

/-! ## RPART (R252) -/

/-- Groups a finished window by ascending digit. A position's digit waits in its `skip` field. Each pair: on CONB or CONA. -/
def partWindow (width : Nat) (chan : Nat) (w : List Token) : List (Bool × Token) :=
  let groups := ((List.range (2 ^ width)).map fun d => (d, w.filter fun t => t.skip == d)).filter fun g => !g.2.isEmpty
  let n := groups.length
  groups.zipIdx.flatMap fun (g, j) =>
    let last := j + 1 == n
    let k := g.2.length
    (g.2.zipIdx.map fun (t, q) =>
      let m : Mark := if q + 1 = k then (if last then .last2 else .last) else .data
      (false, { t with skip := 0 }.withMark m))
      ++ [(true, scalarTok (BitVec.ofNat 32 (g.1 * 65536 + k)) (if last then .last2 else .data) chan)]

/-- What leaves in this cycle: one position on CONA, with the count token that follows it on CONB. -/
def partNow (l : List (Bool × Token)) : List Emit × List (Bool × Token) :=
  match l with
  | (false, t) :: (true, c) :: rest => ([.tok 0 t, .tok 1 c], rest)
  | (b, t) :: rest => ([.tok (if b then 1 else 0) t], rest)
  | [] => ([], [])

/-- Digit of a position. A POISON position has no word to take it from: a free value (log 4). -/
def FireIn.digit (x : FireIn) (p : Pos) : Nat × Bool :=
  let b := x.imm 11 9 + 1
  if p.poison then ((Config.freeWord x.s.free).toNat % 2 ^ b, true)
  else
    let w := if x.md = 0 then p.lane (x.imm 2 0) else p.word
    let v := if x.imm 3 3 = 1 then crc32c 0 (natBytes 4 w.toNat) else w.toNat
    (v / 2 ^ x.imm 8 4 % 2 ^ b, false)

def rpartFire (x : FireIn) : Fire :=
  match x.elem.ctl with
  | .rpart fill emits eos =>
    let (now, rest) := partNow emits
    let width := x.imm 11 9 + 1
    let vec := x.md = 0
    let ends (m : Mark) : List Emit :=
      (if x.f.cona.isSome then [.tok 0 { eosTok vec x.rcNo with mark := m }] else [])
        ++ (if x.f.conb.isSome then [.tok 1 { eosTok false x.rcNo with mark := m }] else [])
    let outOnly : Fire := if emits.isEmpty then .wait else .act { elem := { x.elem with ctl := .rpart fill rest eos }, emits := now }
    match x.avail 0 with
    | none => outOnly
    | some p =>
      if p.isEnd then
        if !emits.isEmpty then outOnly
        else if fill.isEmpty then
          .act { elem := { x.elem.pop 0 with ctl := .rpart [] [] false, ended := p.mark == .eos }, emits := ends p.mark }
        else
          -- the window ends; the end token follows it
          let (now, rest) := partNow (partWindow width x.rcNo fill)
          .act { elem := { x.elem with ctl := .rpart [] rest true }, emits := now }
      else
        let drop := match p with
          | .elided => true
          | .tok t => vec && !t.isPoison && p.empty && t.vec
        let closes := p.struct == .last2
        if fill.length = 1024 ∧ !drop then .trap .rpartfull id
        else if closes ∧ !emits.isEmpty then outOnly
        else
          let (d, free) := x.digit p
          let fill' := if drop then fill else match p with
            | .tok t => fill ++ [{ t with skip := d }]
            | .elided => fill
          let eff (s : State) : State := if free then { s with free := s.free + 1 } else s
          if closes then
            let (now, rest) := partNow (partWindow width x.rcNo fill')
            .act { elem := { x.elem.pop 0 with ctl := .rpart [] rest false }, emits := now, eff := eff }
          else .act { elem := { x.elem.pop 0 with ctl := .rpart fill' rest eos }, emits := now, eff := eff }
  | _ => .wait

def execRpart (f : Fab) (s : State) : Out := fire (.rpart f) rpartFire s

/-! ## GRADB (R127, R253) -/

/-- What a walk comes to: pairs in order (producer, gradient, FULL index, relation position) and flags. -/
inductive Walk where
  | ok (pairs : List (W32 × W32 × Nat × Nat)) (flags : Flags)
  | trap (t : Trap) (va : Nat)
  | err (va : Nat) (e : HdrErr)

def Walk.append : Walk → Walk → Walk
  | .ok a f, .ok b g => .ok (a ++ b) (f ||| g)
  | .ok _ _, w => w
  | w, _ => w

/-- A body tuple that receives a gradient. -/
structure Child where
  rel : Nat
  tup : Tuple
  g   : W32
  deriving DecidableEq, Repr

/-- Gradients of the factors of a derivation: g times the other factors, exact and rounded once. -/
def childGrads (g : W32) (facs : List Factor) : List (Option Child × Flags) :=
  facs.zipIdx.map fun (c, j) =>
    match c.tup with
    | none => (none, 0)
    | some t =>
      if t.state = 2 then (none, 0)
      else
        let p := (facs.zipIdx.filter fun o => o.2 != j).foldl (fun v o => (XVal.mul v (f32 o.1.wgt.toNat)).1) (f32 g.toNat)
        let (w, cause, f) := roundFp 0 0 (if c.neg then p.neg else p)
        if cause = .underflowZero then (none, f) else (some ⟨c.rel, t, BitVec.ofNat 32 w⟩, f)

/-- Walks the witness of a derived tuple of relation `va`; `fuel` counts down from 64. -/
def gradWalk (s : State) (slot : Nat) (img : Image) (every : Bool) : Nat → Nat → Tuple → W32 → Walk
  | 0, va, _, _ => .trap .graddeep va
  | fuel + 1, va, t, g =>
    match img.rule? (fld t.wit 31 24) va with
    | none => .trap .relrule va
    | some rule =>
      match s.refind slot rule (· == 1) t with
      | .error e => .err va e
      | .ok none => .ok [] 0
      | .ok (some facs) =>
        let cs := childGrads g facs
        let kids := cs.filterMap (·.1)
        let base (c : Child) : Bool := fld c.tup.wit 31 24 == 0
        let own := kids.filterMap fun c =>
          if base c || every then some (BitVec.ofNat 32 (fld c.tup.wit 23 0), c.g, c.tup.src, img.relPos c.rel) else none
        (kids.filter fun c => !base c).foldl (fun w c => w.append (gradWalk s slot img every fuel c.rel c.tup c.g))
          (.ok own (cs.foldl (fun f c => f ||| c.2) 0))

def gradbFire (x : FireIn) : Fire :=
  relInput x fun p =>
    let va := x.relVa
    match x.s.relHdr x.run.slot va with
    | .error e => FireIn.relErr va e
    | .ok h =>
      if hdrRing h ≠ 2 ∨ hdrKind h = 0 then .trap .relkind fun i => { i with va := va }
      else
        let key := (List.range (hdrCols h)).map fun l => (p.lane l).toNat
        match x.s.lookup x.run.slot h key with
        | .error e => FireIn.relErr va (.xlat e)
        | .ok u =>
          let el := x.elem.pop 0
          let m := resultMark [p]
          let live := match u with
            | some t => if t.state = 1 then some t else none
            | none => none
          match live with
          | none => .act { elem := el, emits := emptyOut x m }
          | some t =>
            if t.psn then .act { elem := el, emits := x.all fun k => .tok k (poisonTok true m x.rcNo) }
            else match x.s.image? x.run with
              | none => .trap .relrule fun i => { i with va := va }
              | some img =>
                let base := fld t.wit 31 24 = 0
                let own := if base ∨ x.md = 1 then [(BitVec.ofNat 32 (fld t.wit 23 0), p.lane 10, t.src, img.relPos va)] else []
                let w := if base then Walk.ok own 0
                  else (Walk.ok own 0).append (gradWalk x.s x.run.slot img (x.md == 1) 63 va t (p.lane 10))
                match w with
                | .trap tr at_ => .trap tr fun i => { i with va := at_ }
                | .err at_ e => FireIn.relErr at_ e
                | .ok pairs f =>
                  let n := pairs.length
                  let toks := pairs.zipIdx.map fun (q, j) =>
                    let v := packLanes [q.1, q.2.1, BitVec.ofNat 32 q.2.2.1, BitVec.ofNat 32 q.2.2.2]
                    x.all fun k => .tok k (vecTok v 0xF (if j + 1 = n then m else .data) x.rcNo)
                  match toks with
                  | [] => .act { elem := el, emits := emptyOut x m, flags := f }
                  | t :: rest => .act { elem := el, emits := t, later := laterItems rest, flags := f }

def execGradb (f : Fab) (s : State) : Out := fire (.gradb f) gradbFire s

end Sys2Proof.Machine
end

