-- ==== Sys2Proof/Machine/Port.lean ====
section
/-! DEFINITION. The quadrant-port elements as they fire (13 R265 to R292): ENTER of the ordering machine (08 R149). What their
accesses do afterwards stands in Access.lean and Engine.lean. -/

namespace Sys2Proof.Machine

/-! ## Issue queues and return buffers (R265) -/

def FireIn.port (x : FireIn) : Nat := x.imm 19 16

/-- Entries of an issue queue in use. -/
def State.queued (s : State) (run port : Nat) : Nat :=
  (s.ord.accs.filter fun a => a.run == run && a.port == port && a.stage == .queued).length

/-- The issue queue has room for `n` accesses. -/
def FireIn.room (x : FireIn) (port n : Nat) : Bool := decide (x.s.queued x.ref.run port + n ≤ 64)

/-- Joins the tail of its issue queue; same-cycle entries stand in ascending order of tile (R265). -/
def insertAcc (a : Access) (l : List Access) : List Access :=
  let after := (l.reverse.takeWhile fun b =>
    b.run == a.run && b.port == a.port && b.stamp == a.stamp && b.stage == .queued && decide (a.site < b.site)).length
  l.take (l.length - after) ++ [a] ++ l.drop (l.length - after)

/-- One access asked for by a firing. -/
structure Ask where
  kind  : AccKind
  va    : Nat
  width : Nat
  data  : Line := 0
  aux   : Line := 0
  lane  : Option Nat := none
  epoch : Nat := 0
  /-- An element of a generator, which may share an access with its neighbours (10 R188). -/
  gather : Bool := false

def FireIn.access (x : FireIn) (port rid id : Nat) (m : Mark) (q : Ask) : Access where
  id := id
  run := x.ref.run
  port := port
  stamp := x.s.cycle
  site := 64 * x.blk.page + x.tile
  serial := x.load.serial
  elem := x.ref
  rid := rid
  kind := q.kind
  va := q.va
  width := q.width
  fmt := x.rc.fmt
  chan := x.rcNo
  mark := m
  data := q.data
  aux := q.aux
  lane := q.lane
  parts := if q.gather then [(rid, 0, m)] else []
  ew := q.width
  enable := BitVec.ofNat 64 (2 ^ q.width - 1)
  stage := .queued
  place := none
  units := []
  got := 0
  psn := false
  epoch := q.epoch
  poll := 0
  walked := none
  hops := 0
  ats := 0
  wave := if x.blk.tx then some x.elem.fires else none
  fault := none

/-- An access that gathers joins the one at the tail of its port's queue: an access of the same element and kind, still queued, on the
same 64-byte line (10 R188). -/
def Access.joins (a b : Access) : Bool :=
  a.stage == .queued && a.elem == b.elem && a.kind == b.kind && !a.parts.isEmpty && !b.parts.isEmpty && a.ew == b.ew
    && a.serial == b.serial && a.va / 64 == b.va / 64 && (a.va + a.width - 1) / 64 == a.va / 64 && (b.va + b.width - 1) / 64 == a.va / 64

/-- The access with one more element: it spans both, later bytes over earlier ones. -/
def Access.merge (a b : Access) : Access :=
  let lo := min a.va b.va
  let ones : Line := BitVec.ofNat 512 (2 ^ (8 * b.width) - 1)
  let da := a.va - lo
  let db := b.va - lo
  { a with
    va := lo
    width := max (a.va + a.width) (b.va + b.width) - lo
    data := ((a.data <<< (8 * da)) &&& ~~~(ones <<< (8 * db))) ||| ((b.data &&& ones) <<< (8 * db))
    enable := (a.enable <<< da) ||| (b.enable <<< db)
    parts := (a.parts.map fun p => (p.1, p.2.1 + da, p.2.2)) ++ b.parts.map fun p => (p.1, p.2.1 + db, p.2.2) }

/-- The access at the tail of a port's queue. -/
def tailAcc (b : Access) (l : List Access) : Option Access := (l.filter fun a => a.run == b.run && a.port == b.port).getLast?

/-- ENTER of one access: into the gathered access at the tail, or at the tail of the queue. -/
def enterAcc (b : Access) (l : List Access) : List Access :=
  match tailAcc b l with
  | some a => if a.joins b then l.map fun x => if x.id = a.id then a.merge b else x else insertAcc b l
  | none => insertAcc b l

/-- A place in the return buffer that is complete. -/
def readyItem (rid : Nat) (es : List Emit) (takes : List (Nat × Pos)) (g : Option GenUndo) : OutItem :=
  ⟨rid, true, es, 0, takes, g, none⟩

/-- Moves the counter of identifiers on. -/
def State.nextId (s : State) (n : Nat) : State := { s with ord := { s.ord with nextId := n } }

/-- What a firing consumes and advances besides. -/
structure Taken where
  elem  : Elem
  takes : List (Nat × Pos)
  gen   : Option GenUndo := none
  eff   : State → State := id

/-- ENTER: accesses join their issue queue, and a place in the return buffer waits for them. -/
def FireIn.enter (x : FireIn) (k : Taken) (port : Nat) (m : Mark) (asks : List Ask) (emits : List Emit := [])
    (after : List OutItem := []) : Fire :=
  let rid := x.s.ord.nextId
  -- an access that joins the one at the tail takes no entry of its own
  let need := (asks.filter fun q => match tailAcc (x.access port rid rid m q) x.s.ord.accs with
    | some a => !a.joins (x.access port rid rid m q)
    | none => true).length
  if !x.room port need then .wait
  else
    let item : OutItem := ⟨rid, asks.isEmpty, emits, asks.length, k.takes, k.gen, none⟩
    .act { elem := k.elem
           later := item :: after
           eff := fun s =>
             let s := k.eff s
             let accs := asks.zipIdx.foldl (fun l q => enterAcc (x.access port rid (rid + 1 + q.2) m q.1) l) s.ord.accs
             { s with ord := { s.ord with accs := accs, nextId := rid + 1 + asks.length } } }

/-- A result that waits for nothing. -/
def FireIn.answer (x : FireIn) (k : Taken) (es : List Emit) (eff : State → State := id) : Fire :=
  let rid := x.s.ord.nextId
  .act { elem := k.elem, later := [readyItem rid es k.takes k.gen], eff := fun s => (eff (k.eff s)).nextId (rid + 1) }

/-- The positions a firing takes, one from each input. -/
def FireIn.take (x : FireIn) (ks : List Nat) (ps : List Pos) : Taken := { elem := x.elem.pops ks, takes := ks.zip ps }

/-- End tokens of a port element (R268): behind every token of earlier firings. -/
def portEnd (x : FireIn) (ks : List Nat) (ps : List Pos) (vec : Bool) (g : Option GenUndo) (eff : State → State) : Option Fire :=
  if !(ps.any Pos.isEnd) then none
  else
    let m := ((ps.find? Pos.isEnd).map Pos.mark).getD .eos
    if ps.all (fun p => p.mark == m) then
      let el := x.elem.pops ks
      some (.act { elem := { el with ended := m == .eos }
                   later := [readyItem x.s.ord.nextId (x.outs.map fun k => .tok k { eosTok vec x.rcNo with mark := m }) (ks.zip ps) g]
                   eff := fun s => (eff s).nextId (x.s.ord.nextId + 1) })
    else some (.trap .markskew id)

/-- Heads of every read input, with end tokens dealt with. -/
def portInput (x : FireIn) (vec : Bool) (body : List Pos → Fire) : Fire :=
  match x.heads x.ins with
  | none => .wait
  | some ps => match portEnd x x.ins ps vec none id with
    | some r => r
    | none => body ps

/-- A POISON operand: nothing is issued, POISON stands in the place of the result (R268). -/
def FireIn.poisoned (x : FireIn) (k : Taken) (vec : Bool) (m : Mark) : Fire :=
  x.answer k (x.all fun o => .tok o (poisonTok vec m x.rcNo))

/-! ## Addresses (R267, 10 R188) -/

/-- Iterations of a binding. -/
def Binding.count (b : Binding) : Nat := b.counts.foldl (· * ·) 1

/-- Address and marker of the next element of a binding, loop 0 innermost. -/
def Binding.next (b : Binding) : Nat × Mark :=
  let go := (b.counts.zip b.strides).foldl
    (fun (a : Nat × Int × List Bool) c =>
      let i := a.1 % c.1
      (a.1 / c.1, a.2.1 + i * c.2, a.2.2 ++ [i + 1 == c.1])) (b.pos, (0 : Int), [])
  let addr := ((b.base : Int) + b.offset.toNat + go.2.1) % (2 ^ 57 : Int)
  let inner := go.2.2.headD false
  let outer := (go.2.2.drop 1).headD false
  (addr.toNat, if inner && outer then .last2 else if inner then .last else .data)

/-- The binding ends; a pending one becomes active (R189). -/
def Gen.close (g : Gen) (b : Binding) : Gen × Bool :=
  match g.pending with
  | [] => ({ g with active := some { b with ended := true } }, false)
  | p :: ps => (⟨some p, ps⟩, true)

/-- One address taken from the active binding. -/
def Gen.advance (g : Gen) (b : Binding) : Gen × Bool :=
  let b' := { b with pos := b.pos + 1 }
  if b'.pos < b.count then (⟨some b', g.pending⟩, false) else g.close b'

def State.setGen (s : State) (run port ag : Nat) (g : Gen) : State :=
  s.modRun run fun r => { r with region := { r.region with gens := modAt (fun l => setAt l ag g) r.region.gens port } }

/-- Generator AGk of the element's port. -/
def FireIn.gen? (x : FireIn) : Option Gen := (x.run.region.gens[x.port]?).bind (·[x.imm 13 12]?)

/-- Address mode. -/
def FireIn.am (x : FireIn) : Nat := x.imm 15 14

/-- Address under AM 1 and 2; `off` is the head of the offset input. -/
def FireIn.fixedVa (x : FireIn) (off : Option Pos) : Nat :=
  let a := (x.pool (x.imm 9 0)).toNat
  match off with
  | none => a
  | some p => (a + p.word.toNat) % 2 ^ 57

/-- Kind of the link into an input (09 R404). -/
def inputVec (b : Blk) (idx inp : Nat) : Bool :=
  match linkInto b idx inp with
  | none => false
  | some (j, k, _) =>
    match instrAt b idx, instrAt b j with
    | some i, some p =>
      match fabOf i, fabOf p with
      | some f, some g =>
        match inKind (opcodeOf i) f.md inp, outKind (opcodeOf p) g.md g.imm k with
        | .vector, _ => true
        | .scalar, _ => false
        | .neutral, .vector => true
        | .neutral, .scalar => false
        | .neutral, .neutral => !b.sout j
      | _, _ => false
    | _, _ => false

/-! ## Loads, stores, SETE and the atomics (R270, R273) -/

/-- Loads and stores gather under a generator; every other access stands alone. In a transactional block each belongs to its own
wave. -/
def AccKind.gathers : AccKind → Bool
  | .load | .acquire | .ldsync | .store | .release => true
  | _ => false

/-- What one access of an element is, its address apart. -/
structure AccSpec where
  kind  : AccKind
  /-- Data inputs. -/
  nd    : Nat
  /-- Width of the access from the width of the format. -/
  width : Nat → Nat
  /-- Alignment required whatever the address mode; 0: by R267. -/
  align : Nat := 0
  data  : List Pos → Line
  aux   : Line := 0
  auxOf : List Pos → Line := fun _ => 0
  store : Bool := false
  log   : Bool := false

/-- The marker of a firing: of its positions, or of the generator when it reads none. -/
def FireIn.accMark (x : FireIn) (ps : List Pos) (m : Mark) : Mark := let _ := x; if ps.isEmpty then m else resultMark ps

/-- One firing of an access element. -/
def memFire (a : AccSpec) (x : FireIn) : Fire :=
  if x.elem.ended then .wait
  else match x.heads x.ins with
  | none => .wait
  | some ps =>
    let g := if x.am = 0 then x.gen? else none
    let active := g.bind (·.active)
    -- EOS ends the binding of a store (R188)
    let endUndo : Option GenUndo := match g, active with
      | some g, some b => if b.ended then none else some ⟨x.port, x.imm 13 12, some b, (g.close b).2⟩
      | _, _ => none
    let endEff (s : State) : State := match g, active with
      | some g, some b => if b.ended then s else s.setGen x.ref.run x.port (x.imm 13 12) (g.close b).1
      | _, _ => s
    let isEos := ps.any fun p => p.mark == .eos
    match portEnd x x.ins ps false (if isEos then endUndo else none) (if isEos then endEff else id) with
    | some r => r
    | none =>
      let ds := ps.take a.nd
      let off := if x.am = 2 then ps[a.nd]? else none
      let vec := a.store && inputVec x.blk x.ref.idx 0
      let taken := x.take x.ins ps
      let psn := ps.any Pos.poison
      -- address, width, marker, what is advanced, whether the pattern ends
      let go (va w : Nat) (m : Mark) (k : Taken) (lastOne : Bool) : Fire :=
        let w := if vec then 64 else a.width w
        let al := if a.align ≠ 0 then a.align else if vec then 64 else if x.am = 0 then 1 else w
        let after := if lastOne ∧ x.ins.isEmpty then [readyItem x.s.ord.nextId (x.all fun o => .tok o (eosTok false x.rcNo)) [] none] else []
        let k := if lastOne ∧ x.ins.isEmpty then { k with elem := { k.elem with ended := true } } else k
        if psn then
          let log (s : State) : State := if a.log then x.logPoison va s else s
          x.answer k (x.all fun o => .tok o (poisonTok false m x.rcNo)) log
        else if va % al ≠ 0 then .trap .misalign fun i => { i with va := va }
        else
          let gather := decide (x.am = 0) && !x.blk.tx && a.kind.gathers
          x.enter k x.port m [{ kind := a.kind, va := va, width := w, data := a.data ds, aux := a.aux ||| a.auxOf ds, gather := gather }] [] after
      if x.am = 0 then
        match g, active with
        | some g, some b =>
          if b.ended then (if a.nd = 0 then .wait else .trap .strmovr id)
          else
            let (va, m) := b.next
            let (g', sh) := g.advance b
            let k := { taken with gen := some ⟨x.port, x.imm 13 12, some b, sh⟩
                                  eff := fun s => s.setGen x.ref.run x.port (x.imm 13 12) g' }
            go va (fmtBytes (x.load.chan b.chan).fmt) (x.accMark ps m) k (decide (b.count ≤ b.pos + 1))
        | _, _ => .wait
      else go (x.fixedVa off) (fmtBytes x.rc.fmt) (x.accMark ps .data) taken false

/-- The word of a data position (R268): as it stands; the sixteen lanes of a vector position, masked ones zero (27 R401). -/
def dataLine (ds : List Pos) : Line :=
  match ds with
  | .tok t :: _ =>
    if t.vec then packLanes ((List.range 16).map fun l => if t.lmask.getLsbD l then lane t.data l else 0) else t.word.setWidth 512
  | _ => 0

/-- The plain access elements have no data beside these. -/
def plainSpec (k : AccKind) : AccSpec := { kind := k, nd := 0, width := id, data := fun _ => 0 }
def storeSpec (k : AccKind) : AccSpec := { kind := k, nd := 1, width := id, data := dataLine, store := true, log := true }

def execLd (f : Fab) (s : State) : Out := fire (.ld f) (memFire (plainSpec .load)) s
def execSt (f : Fab) (s : State) : Out := fire (.st f) (memFire (storeSpec .store)) s
def execLda (f : Fab) (s : State) : Out := fire (.lda f) (memFire (plainSpec .acquire)) s
def execStl (f : Fab) (s : State) : Out := fire (.stl f) (memFire (storeSpec .release)) s
def execLdsync (f : Fab) (s : State) : Out := fire (.ldsync f) (memFire (plainSpec .ldsync)) s
def execSete (f : Fab) (s : State) : Out :=
  fire (.sete f) (memFire { plainSpec .sete with width := fun _ => 64, align := 64 }) s

/-- The operand of an atomic. -/
def operandLine (ds : List Pos) : Line := match ds with
  | p :: _ => p.word.setWidth 512
  | [] => 0

def atomSpec (o : Nat) : AccSpec :=
  { kind := .atomic o, nd := 1, width := fun _ => 4, data := operandLine, log := true }

/-- `st`: the form that reports LOST by a status (R274). -/
def execFadd (f : Fab) (s : State) : Out :=
  fire (.fadd f) (memFire { atomSpec 0xBA with aux := if f.md = 1 then 1 else 0 }) s
def execFadd64 (f : Fab) (s : State) : Out :=
  fire (.fadd64 f) (memFire { atomSpec 0xBB with
    width := fun _ => 8
    data := fun ds => ((operandLine ds).setWidth 32 : W32).signExtend 64 |>.setWidth 512
    aux := if f.md = 1 then 1 else 0 }) s
def execAmax (f : Fab) (s : State) : Out := fire (.amax f) (memFire (atomSpec 0xBC)) s
def execAmin (f : Fab) (s : State) : Out := fire (.amin f) (memFire (atomSpec 0xBD)) s
def execAswap (f : Fab) (s : State) : Out := fire (.aswap f) (memFire (atomSpec 0xBE)) s
def execAcas (f : Fab) (s : State) : Out :=
  fire (.acas f) (memFire { atomSpec 0xBF with nd := 2, auxOf := fun ds => operandLine (ds.drop 1) }) s
def execAor (f : Fab) (s : State) : Out := fire (.aor f) (memFire (atomSpec 0xC0)) s
def execAand (f : Fab) (s : State) : Out := fire (.aand f) (memFire (atomSpec 0xC1)) s
def execAmaxr (f : Fab) (s : State) : Out := fire (.amaxr f) (memFire { atomSpec 0xC2 with nd := 0, log := false }) s

/-! ## Fences, gathers, scatters (R271, R272) -/

def fenceFire (x : FireIn) : Fire :=
  portInput x false fun ps =>
    x.enter (x.take x.ins ps) x.port (resultMark ps) [{ kind := .fence (x.imm 2 0), va := 0, width := 0 }]

def execFence (f : Fab) (s : State) : Out := fire (.fence f) fenceFire s

/-- LDX and STX: one access per present lane, all stamped with the cycle of the firing. -/
def gatherFire (store : Bool) (x : FireIn) : Fire :=
  portInput x (!store) fun ps =>
    let w := fmtBytes x.rc.fmt
    let base := (x.pool (x.imm 9 0)).toNat
    let k := x.take x.ins ps
    let m := resultMark ps
    if ps.any Pos.poison then
      x.answer k (x.all fun o => .tok o (poisonTok (!store) m x.rcNo)) (if store then x.logPoison base else id)
    else
      let offs := match ps.getLast? with
        | some p => p.lanes
        | none => []
      let vals := match ps.head? with
        | some p => p.lanes
        | none => []
      let lanes := (List.range 16).filterMap fun l => ((offs.getD l none)).map fun o => (l, (base + o.toNat) % 2 ^ 57)
      match lanes.find? fun q => q.2 % w != 0 with
      | some q => .trap .misalign fun i => { i with va := q.2 }
      | none =>
        let mask := packMask ((List.range 16).map fun l => (offs.getD l none).isSome)
        let asks := lanes.map fun q =>
          { kind := if store then .store else .load, va := q.2, width := w, lane := some q.1
            data := if store then ((vals.getD q.1 none).getD 0).setWidth 512 else 0 : Ask }
        x.enter k x.port m asks (if store then [.tok 0 (scalarTok 0 m x.rcNo)] else [.tok 0 (vecTok 0 mask m x.rcNo), .tok 1 (vecTok 0 mask m x.rcNo)])

def execLdx (f : Fab) (s : State) : Out := fire (.ldx f) (gatherFire false) s
def execStx (f : Fab) (s : State) : Out := fire (.stx f) (gatherFire true) s

/-! ## Owner bindings (R275) -/

/-- Bindings in use on a die. -/
def State.bindings (s : State) (die : Nat) : Nat := (s.ord.owners.filter fun o => o.die == die).length

/-- Makes or releases a binding: status and state. A held header goes back to memory when its binding is released. -/
def State.bindRange (s : State) (r : Run) (base log2 : Nat) : Nat × State :=
  if s.ord.owners.any fun o => !o.rel && o.slot == r.slot && decide (base < o.base + 2 ^ o.log2) && decide (o.base < base + 2 ^ log2)
  then (1, s)
  else if 64 ≤ s.bindings r.die then (2, s)
  else (0, { s with ord := { s.ord with owners := s.ord.owners ++ [⟨r.die, r.id, r.slot, false, base, log2⟩] } })

def State.bindRel (s : State) (r : Run) (va : Nat) : Nat × State :=
  if (s.relOwner r.slot va).isSome then (1, s)
  else if 64 ≤ s.bindings r.die then (2, s)
  else (0, { s with ord := { s.ord with owners := s.ord.owners ++ [⟨r.die, r.id, r.slot, true, va, 0⟩] } })

/-- A relation's header as its owner node holds it goes back to memory (06 R106). -/
def State.dropHold (s : State) (slot va : Nat) : State :=
  match s.relHold slot va with
  | none => s
  | some h =>
    let s1 := { s with ord := { s.ord with rels := s.ord.rels.filter fun r => !(r.slot == slot && r.addr == va) } }
    match s1.vwrite slot va (bytesOfLine h.hdr) with
    | .ok t => t
    | .error _ => s1

def State.freeOwner (s : State) (r : Run) (va : Nat) : Nat × State :=
  match s.ord.owners.find? fun o => o.run == r.id && o.slot == r.slot && o.base == va with
  | none => (3, s)
  | some o =>
    let s1 := { s with ord := { s.ord with owners := s.ord.owners.filter fun q => q != o } }
    (0, if o.rel then s1.dropHold r.slot va else s1)

def ownerFire (act : FireIn → State → Run → Nat × State) (x : FireIn) : Fire :=
  portInput x false fun ps =>
    let k := x.take x.ins ps
    let m := resultMark ps
    if ps.any Pos.poison then x.poisoned k false m
    else
      let (st, s') := act x x.s x.run
      -- the binding takes effect at this instant
      x.answer k [.tok 0 (scalarTok (BitVec.ofNat 32 st) m x.rcNo)]
        fun s => { s with ord := { s.ord with owners := s'.ord.owners, rels := s'.ord.rels }, mem := s'.mem }

def execOwnerRange (f : Fab) (s : State) : Out :=
  fire (.ownerRange f) (ownerFire fun x s r => s.bindRange r x.relVa (fld (x.pool (x.imm 9 0 + 1)) 4 0)) s
def execOwnerRel (f : Fab) (s : State) : Out := fire (.ownerRel f) (ownerFire fun x s r => s.bindRel r x.relVa) s
def execOwnerFree (f : Fab) (s : State) : Out := fire (.ownerFree f) (ownerFire fun x s r => s.freeOwner r x.relVa) s

/-! ## Waiting on an address (R276 to R278) -/

/-- Die of the stacks that hold a physical address; two stacks a die (02 R11, log 5). -/
def homeDie (phys : Nat) : Nat := Config.homeStack phys % 16 / 2

/-- Home die of a virtual address as translation now stands. -/
def State.homeOf (s : State) (slot va : Nat) : Nat :=
  match s.vplace slot va false with
  | .ok (.hbm p) => homeDie p
  | _ => 0

/-- Wake bucket of a word (R277). -/
def bucketOf (va : Nat) : Nat := crc32c 0 (natBytes 8 (va % 2 ^ 57)) % 1024

def State.epoch (s : State) (die b : Nat) : Nat := (((s.die die).epochs.find? fun e => e.1 == b).map (·.2)).getD 0

def waitaFire (x : FireIn) : Fire :=
  portInput x false fun ps =>
    let k := x.take x.ins ps
    let m := resultMark ps
    if ps.any Pos.poison then x.poisoned k false m
    else
      let va := x.fixedVa (if x.am = 2 then ps[1]? else none)
      if va % 4 ≠ 0 then .trap .misalign fun i => { i with va := va }
      else x.enter k x.port m [{ kind := .waita, va := va, width := 4, data := operandLine ps
                                 epoch := x.s.epoch (x.s.homeOf x.run.slot va) (bucketOf va) }]

def execWaita (f : Fab) (s : State) : Out := fire (.waita f) waitaFire s

def wakeaFire (x : FireIn) : Fire :=
  portInput x false fun ps =>
    let k := x.take x.ins ps
    let m := resultMark ps
    if ps.any Pos.poison then x.poisoned k false m
    else
      let va := x.fixedVa (if x.am = 2 then ps[0]? else none)
      if va % 4 ≠ 0 then .trap .misalign fun i => { i with va := va }
      else x.enter k x.port m [{ kind := .wakea, va := va, width := 4 }]

def execWakea (f : Fab) (s : State) : Out := fire (.wakea f) wakeaFire s

/-! ## Pins (07 R139) -/

/-- A token passed whole: its skip count goes before it. -/
def passEmit (k : Nat) (t : Token) : List Emit :=
  (if t.skip = 0 then [] else [.elide k t.skip t.vec t.chan]) ++ [.tok k t]

/-- Takes the token at the head of a queue with the elided positions before it. -/
def Elem.popToken (e : Elem) (k : Nat) : Elem :=
  let e1 := e.setQueue k ((e.queue k).drop 1)
  match e.queue k with
  | t :: _ => if t.mark = .eos then { e1 with eos := insertNew k e1.eos, ended := true } else e1
  | [] => e1

/-- The token at the head of i0 whole, with the elided positions before it (R139): the body gets it and what its firing takes. -/
def portToken (x : FireIn) (body : Token → Taken → Fire) : Fire :=
  match x.elem.queue 0 with
  | [] => .wait
  | t :: _ =>
    let k : Taken := { elem := x.elem.popToken 0, takes := List.replicate t.skip (0, Pos.elided) ++ [(0, .tok t)] }
    if t.mark.isEnd then
      x.answer { k with elem := { k.elem with ended := t.mark == .eos } } (x.outs.flatMap fun o => passEmit o { t with chan := x.rcNo })
    else body t k

/-- The elided positions that stood before a token, on every output. -/
def FireIn.skipped (x : FireIn) (t : Token) : List Emit := if t.skip = 0 then [] else x.outs.map fun o => .elide o t.skip false x.rcNo

/-- PIN fires once for each token of i0 and emits the version with the token's skip count (R139). -/
def pinFire (x : FireIn) : Fire :=
  portToken x fun t k =>
    if t.isPoison then x.answer k (x.skipped t ++ x.all fun o => .tok o (poisonTok false t.struct x.rcNo))
    else
      let snap := if x.imm 19 10 = 0x3FF then [] else
        [{ kind := .snapshot, va := (x.pool (x.imm 19 10)).toNat, width := 64 : Ask }]
      x.enter k 0 t.mark ({ kind := .pin, va := x.relVa, width := 64 } :: snap) (x.skipped t)

def execPin (f : Fab) (s : State) : Out := fire (.pin f) pinFire s

/-- UNPIN fires once for each version token and emits it whole (R139). -/
def unpinFire (x : FireIn) : Fire :=
  portToken x fun t k =>
    if t.isPoison then x.answer k (x.skipped t ++ x.all fun o => .tok o (poisonTok false t.struct x.rcNo))
    else x.enter k 0 t.mark [{ kind := .unpin, va := x.relVa, width := 64, data := t.word.setWidth 512 }] (x.outs.flatMap fun o => passEmit o t)

def execUnpin (f : Fab) (s : State) : Out := fire (.unpin f) unpinFire s

/-! ## Requests to engines: messaging, copies, stashes (R282, R285, R289, R290) -/

/-- The element asks an engine; the descriptor address or value goes with the request. -/
def messageFire (kind : AccKind) (x : FireIn) : Fire :=
  portInput x (kind == .probeq) fun ps =>
    let k := x.take x.ins ps
    let m := resultMark ps
    if ps.any Pos.poison then x.poisoned k (kind == .probeq) m
    else
      let va := if kind = .cancelr then 0 else x.fixedVa (if x.am = 2 then ps[0]? else none)
      x.enter k x.port m [{ kind := kind, va := va, width := 0, data := operandLine ps }]

def execSend (f : Fab) (s : State) : Out := fire (.send f) (messageFire .send) s
def execPostr (f : Fab) (s : State) : Out := fire (.postr f) (messageFire .postr) s
def execProbeq (f : Fab) (s : State) : Out := fire (.probeq f) (messageFire .probeq) s
def execCancelr (f : Fab) (s : State) : Out := fire (.cancelr f) (messageFire .cancelr) s

/-- The configuration holds a stream element of PEER 1 (`o` its opcode) for a stream port (R292). -/
def peerPort (l : Loaded) (o port : Nat) : Bool :=
  l.blks.any fun b => b.words.any fun w =>
    (w.extractLsb' 56 8).toNat == o
      && (let p := b.poolW (fld w 9 0)
          fld p 5 0 == port && p.getLsbD 6)

/-- A malformed XFER packet (R285). -/
def packetBad (l : Loaded) (p : Line) : Bool :=
  let fk := fld p 161 160
  let tk := fld p 163 162
  let mode := fld p 165 164
  mode > 1 || fk == 3 || tk == 3
    || fld p 511 313 != 0 || fld p 255 249 != 0 || fld p 191 166 != 0 || fld p 127 121 != 0 || fld p 63 57 != 0
    || (fld p 159 128 == 0 && fk != 2 && tk != 2)
    || (fk == 1 && !peerPort l 0xDB (fld p 5 0)) || (tk == 1 && !peerPort l 0xDA (fld p 69 64))
    || (mode == 1 && (fk != 0 || tk != 0))

def xferFire (x : FireIn) : Fire :=
  portInput x false fun ps =>
    let k := x.take x.ins ps
    let m := resultMark ps
    if ps.any Pos.poison then x.poisoned k false m
    else
      let p := dataLine ps
      if packetBad x.load p then .trap .xferpkt fun i => { i with packet := p }
      else x.enter k x.port m [{ kind := .xfer, va := 0, width := 0, data := p }]

def execXfer (f : Fab) (s : State) : Out := fire (.xfer f) xferFire s

/-- 64-byte units of a record of n positions of e bytes (R289). -/
def recordUnits (n e : Nat) : Nat := 1 + (n * e + 63) / 64 + (4 * n + 63) / 64

def unstashFire (x : FireIn) : Fire :=
  portInput x false fun ps =>
    let k := x.take x.ins ps
    let m := resultMark ps
    if ps.any Pos.poison then x.poisoned k false m
    else x.enter k x.port m [{ kind := .unstash, va := x.relVa, width := 0, data := operandLine ps }]

def execUnstash (f : Fab) (s : State) : Out := fire (.unstash f) unstashFire s

/-! ## Streams and host channels (R291, R292) -/

/-- The stream word of a STRMO or STRMI. -/
def FireIn.strm (x : FireIn) : W64 := x.pool (x.imm 9 0)

/-- A copy of the configuration takes from a stream port, or will. -/
def FireIn.copying (x : FireIn) (p : Nat) : Bool :=
  let mine (e : ElemRef) (packet : Line) : Bool :=
    e.run == x.ref.run && e.plane == x.ref.plane && e.load == x.ref.load && fld packet 161 160 == 1 && fld packet 5 0 == p
  x.s.ord.accs.any (fun a => a.kind == .xfer && mine a.elem a.data)
    || x.s.ord.reqs.any fun q => q.kind == .xfer && !q.finished && mine q.elem q.packet

/-- The stream port, or the circuit that it is bound to, has room for a token (04 R74, 24 R386); `code`: where tokens of it that uncommitted
waves hold go. -/
def FireIn.strmRoom (x : FireIn) (w : W64) (code : Nat) (t : Token) : Bool :=
  let p := fld w 5 0
  match x.s.circuitOf x.ref.run p true with
  | some c => x.s.circuitUp c && decide (x.s.heldOut x.ref.run code < c.credits)
  | none => decide (skidUsed (x.run.skidOf p) + 64 * x.s.heldOut x.ref.run code + skidBytes t ≤ 128 * fld w 22 7)

/-- PEER 0: into the Skid buffer, or onto its circuit, exactly; PEER 1: an endpoint of the transfer unit, which takes the positions itself (R286); an EOS that no copy
waits for finishes it. -/
def strmoFire (x : FireIn) : Fire :=
  let w := x.strm
  if w.getLsbD 6 then
    match x.head 0 with
    | some p => if p.mark = .eos ∧ !x.copying (fld w 5 0) then .act { elem := { x.elem.pop 0 with ended := true } } else .wait
    | none => .wait
  else match x.elem.queue 0 with
  | [] => .wait
  | t :: _ =>
    let p := fld w 5 0
    -- where the tokens go: the port with its compression threshold
    let code := 16 + p + 64 * fld w 38 23
    if x.strmRoom w code t then
      .act { elem := x.elem.popToken 0, eff := x.sendOut code t }
    else .wait

def execStrmo (f : Fab) (s : State) : Out := fire (.strmo f) strmoFire s

/-- What an element passes on of the token at the head of a place outside: the whole of it with the elided positions before it; in a
transactional block one position a firing (03 R49). What was taken, and the place's head after it. -/
def FireIn.passOne (x : FireIn) (t : Token) : Pos × Option Token :=
  if x.blk.tx ∧ t.skip ≠ 0 then (.elided, some { t with skip := t.skip - 1 }) else (.tok t, none)

/-- The results of passing it, under channel `chan`. -/
def FireIn.passed (x : FireIn) (chan : Nat) (q : Pos) (t : Token) : List Emit :=
  x.outs.flatMap fun k => match q with
    | .elided => [.elide k 1 t.vec chan]
    | .tok t => passEmit k { t with chan := chan }

/-- A token taken of a circuit's gives its credit back. -/
def State.creditBack (s : State) (run port : Nat) : State := match s.circuitOf run port false with
  | some c => s.circuitSend c none
  | none => s

def strmiFire (x : FireIn) : Fire :=
  let w := x.strm
  if w.getLsbD 6 ∨ x.elem.ended then .wait
  else
    let p := fld w 5 0
    match skidPop (x.run.skidOf p) with
    | none => .wait
    | some (t, rest) =>
      let (q, left) := x.passOne t
      .act { elem := { x.elem with ended := left.isNone && t.mark == .eos }
             emits := x.passed t.chan q t
             src := [(16 + p, q)]
             eff := fun s => (if left.isNone then s.creditBack x.ref.run p else s).modRun x.ref.run fun r => r.setSkid p (match left with
               | some u => .plain u :: rest
               | none => rest) }

def execStrmi (f : Fab) (s : State) : Out := fire (.strmi f) strmiFire s

/-- The port returns a credit when the token enters the consumer queue (04 R75). -/
def State.backCredit (s : State) (p : Option (Nat × Nat)) : State :=
  let ports := s.adm.ports.map fun q => if p = some (q.die, q.port) then { q with used := q.used - 1 } else q
  { s with adm := { s.adm with ports := ports } }

/-- Channel 0: the host ingress port of the run; 1 to 15: completions of the Landing engine. -/
def ingressFire (x : FireIn) : Fire :=
  let n := x.imm 3 0
  if x.elem.ended then .wait
  else
    match if n = 0 then x.run.inq else x.run.comps.getD n [] with
    | [] => .wait
    | t :: rest =>
      let (q, left) := x.passOne t
      let rest := left.toList ++ rest
      .act { elem := { x.elem with ended := left.isNone && t.mark == .eos }
             emits := x.passed (if n = 0 then t.chan else x.rcNo) q t
             src := [(n, q)]
             eff := fun s => (if n = 0 ∧ left.isNone then s.backCredit x.run.ingress else s).modRun x.ref.run fun r =>
               if n = 0 then { r with inq := rest } else { r with comps := setAt r.comps n rest } }

def execIngress (f : Fab) (s : State) : Out := fire (.ingress f) ingressFire s

/-- An egress ring (24 R382); zero unless written. -/
def State.ring (s : State) (slot n : Nat) : BitVec 128 :=
  ((s.adm.rings.find? fun r => r.slot == slot && r.ring == n).map (·.val)).getD 0

/-- Entries that wait for a ring: in issue queues and in the egress queue. -/
def State.ringHeld (s : State) (slot n : Nat) : Nat :=
  (s.ord.egq.filter fun t => t.slot == slot && t.ring == n).length
    + (s.ord.accs.filter fun a => a.kind == .egress && (match s.run? a.run with
        | some r => r.slot == slot && r.ring == n
        | none => false)).length

/-- The ring has room for one more entry (R382). -/
def State.ringRoom (s : State) (slot n : Nat) : Bool :=
  let v := s.ring slot n
  decide ((fld v 95 64 + 2 ^ 32 - fld v 127 96) % 2 ^ 32 + s.ringHeld slot n < 2 ^ (6 + fld v 3 0))

/-- Every token of i0 goes to the host with its skip count; it enters the issue queue of the configuration's pt0 as an access. -/
def egressFire (x : FireIn) : Fire :=
  match x.elem.queue 0 with
  | [] => .wait
  | t :: _ =>
    if !x.s.ringRoom x.run.slot x.run.ring then .wait
    else
      x.enter { elem := x.elem.popToken 0, takes := [] } 0 t.mark
        [{ kind := .egress, va := 0, width := 0, data := t.scalarBits.setWidth 512 }]

def execEgress (f : Fab) (s : State) : Out := fire (.egress f) egressFire s

end Sys2Proof.Machine
end

