-- ==== Sys2Proof/Machine/Effect.lean ====
section
/-! DEFINITION. What the events of the ordering machine share: accesses and their order (08 R150), replies to the elements, the
undoing of firings (21 R359), flits to other modules (24 R387), and the one way a write, an atomic or a weight store takes
effect at memory. -/

namespace Sys2Proof.Machine

/-! ## Accesses -/

def State.acc? (s : State) (id : Nat) : Option Access := s.ord.accs.find? fun a => a.id == id

def State.setAccs (s : State) (l : List Access) : State := { s with ord := { s.ord with accs := l } }

def State.modAcc (s : State) (id : Nat) (f : Access → Access) : State :=
  s.setAccs (s.ord.accs.map fun a => if a.id = id then f a else a)

def State.dropAcc (s : State) (id : Nat) : State := s.setAccs (s.ord.accs.filter fun a => a.id != id)

def Access.blk (a : Access) : BlkRef := ⟨a.elem.run, a.elem.plane, a.elem.load, a.elem.blk⟩

/-- Entry-earlier accesses that have not performed (R150). -/
def State.earlier (s : State) (b : Access) : List Access :=
  ((s.ord.accs.takeWhile fun a => a.id != b.id).filter fun a => a.run == b.run && a.port == b.port)
    ++ s.ord.accs.filter fun a => a.run == b.run && a.port != b.port && decide (a.stamp < b.stamp)

def Access.overlaps (a b : Access) : Bool := decide (a.va < b.va + b.width) && decide (b.va < a.va + a.width)

/-- Held by a wave of the block that b belongs to, whose later waves see it (03 R50); a token for the host leaves with the commit. -/
def Access.heldFor (a b : Access) : Bool := (a.stage == .done || (a.kind == .egress && a.wave.isSome)) && b.wave.isSome && a.blk == b.blk

/-- Accesses that carry an address to translate. -/
def Access.addressed (a : Access) : Bool :=
  match a.kind with
  | .fence _ | .xfer | .stash | .unstash | .send | .postr | .probeq | .cancelr | .egress => false
  | _ => true

/-! ## Replies (13 R268) -/

def replyGo (rid : Nat) (f : OutItem → List OutItem) : List OutItem → List OutItem
  | [] => []
  | i :: rest => if i.rid = rid ∧ !i.ready then f i ++ rest else i :: replyGo rid f rest

/-- Changes the place in the return buffer that a firing left. -/
def State.onItem (s : State) (e : ElemRef) (rid : Nat) (f : OutItem → List OutItem) : State :=
  s.modElem e fun el => { el with out := dropEmpty (replyGo rid f el.out) }

/-- One access of the place has replied with these results. -/
def OutItem.part (es : List Emit) (i : OutItem) : List OutItem :=
  [{ i with parts := i.parts - 1, ready := decide (i.parts ≤ 1), emits := i.emits ++ es }]

/-- The place of `i` followed by one more position of the same firing. -/
def OutItem.twoParts (a b : List Emit) (i : OutItem) : List OutItem :=
  [{ i with parts := 0, ready := true, emits := a }, ⟨i.rid, true, b, 0, [], none, none⟩]

/-- The access has performed: its reply lands and it is gone. -/
def State.finish (s : State) (a : Access) (f : OutItem → List OutItem) : State := (s.onItem a.elem a.rid f).dropAcc a.id

/-- A place whose lane L receives a word (13 R272); POISON on a poisoned lane makes the token POISON. -/
def fillLane (l : Nat) (w : W32) (psn : Bool) (es : List Emit) : List Emit :=
  es.map fun e => match e with
    | .tok k t =>
      if t.isPoison then e
      else if psn then .tok k { poisonTok true t.mark t.chan with lmask := t.lmask }
      else .tok k { t with data := packLanes ((List.range 16).map fun i => if i = l then w else lane t.data i) }
    | _ => e

/-- The elements of an access: place, first byte and marker of each. -/
def Access.places (a : Access) : List (Nat × Nat × Mark) := if a.parts.isEmpty then [(a.rid, 0, a.mark)] else a.parts

/-- The access has performed: the reply of each of its elements lands, by its first byte and marker, and it is gone. -/
def State.finishEach (s : State) (a : Access) (f : Nat → Mark → OutItem → List OutItem) : State :=
  (a.places.foldl (fun s p => s.onItem a.elem p.1 (f p.2.1 p.2.2)) s).dropAcc a.id

/-- A value goes to both consumers (01 R8: an element with two references fills CONA and CONB; log 47). -/
def bothOut (t : Token) : List Emit := [.tok 0 t, .tok 1 t]

/-- Reply of a load with the bytes it returns. -/
def State.loadDone (s : State) (a : Access) (bs : List Byte) (psn : Bool) : State :=
  match a.lane with
  | some l => s.finish a fun i =>
      [{ i with parts := i.parts - 1, ready := decide (i.parts ≤ 1), emits := fillLane l (BitVec.ofNat 32 (bytesNat bs)) psn i.emits }]
  | none =>
    -- the bytes are unpacked into the elements that the access carries (07 R129)
    s.finishEach a fun off m =>
      let vec := a.ew == 64
      let t := if psn then poisonTok vec m a.chan
        else if vec then vecTok (lineOf bs) 0xFFFF m a.chan
        else scalarTok (BitVec.ofNat 32 (bytesNat ((bs.drop off).take a.ew))) m a.chan
      OutItem.part (bothOut t)

/-- Reply of a store, a SETE, a fence: the done token; an STX emits its own when every lane has performed. -/
def State.doneToken (s : State) (a : Access) : State :=
  s.finishEach a fun _ m => OutItem.part (if a.lane.isSome then [] else [.tok 0 (scalarTok 0 m a.chan)])

/-- Reply of an atomic: the old value, as two tokens for FADD64; under .st with its status; LOST traps at delivery (R274). -/
def State.atomDone (s : State) (a : Access) (old : W64) (lost psn : Bool) : State :=
  let wide := a.width == 8
  let st := a.aux != 0 && (a.kind == .atomic 0xBA || a.kind == .atomic 0xBB)
  let lo : Token := scalarTok (old.setWidth 32) (if wide then .data else a.mark) a.chan
  let hi : Token := scalarTok (old.extractLsb' 32 32) a.mark a.chan
  let bad : Token := poisonTok false a.mark a.chan
  let status : Emit := .tok 1 (scalarTok (if lost then 1 else 0) a.mark a.chan)
  let value (t : Token) : List Emit := if st then [.tok 0 t] else bothOut t
  if psn then s.finish a (OutItem.part (bothOut bad))
  else if lost && !st then
    s.finish a fun i => (OutItem.part (bothOut bad) i).map fun i => { i with lost := some (a.va, old) }
  else if wide then s.finish a (OutItem.twoParts (value lo) (value hi ++ if st then [status] else []))
  else s.finish a (OutItem.part (value lo ++ if st then [status] else []))

/-! ## Undoing firings (21 R359) -/

/-- Puts consumed positions back at the heads of their queues, last taken first. -/
def untake (e : Elem) (takes : List (Nat × Pos)) : Elem :=
  takes.foldr (fun q e =>
    let l := e.queue q.1
    match q.2 with
    | .elided => match l with
      | t :: rest => e.setQueue q.1 ({ t with skip := t.skip + 1 } :: rest)
      | [] => e
    | .tok t => { e.setQueue q.1 ({ t with skip := 0 } :: l) with eos := if t.mark = .eos then e.eos.filter (· != q.1) else e.eos }) e

/-- Items of an element from the first that one of the places names on. -/
def undone (rids : List Nat) (e : Elem) : List OutItem := e.out.dropWhile fun i => i.ready || !rids.contains i.rid

/-- Inserts by ascending place, keeping the order of equals. -/
def insertRid (x : Nat × Option GenUndo) : List (Nat × Option GenUndo) → List (Nat × Option GenUndo)
  | [] => [x]
  | y :: ys => if y.1 ≤ x.1 then y :: insertRid x ys else x :: y :: ys

/-- Undoes firings of elements from the places named on: their positions stand again at the heads of their queues, generators
step back. An element of a TX block is undone by the abort of its wave. -/
def State.undoPlaces (s : State) (run : Nat) (places : List (ElemRef × Nat)) : State :=
  let elems := (places.map (·.1)).eraseDups
  let rids (e : ElemRef) : List Nat := (places.filter fun a => a.1 == e).map (·.2)
  let gens := elems.flatMap fun e => match s.site e with
    | some h => if h.blk.tx then [] else (undone (rids e) h.elem).map fun i => (i.rid, i.gen)
    | none => []
  let s := elems.foldl (fun s e => match s.site e with
    | none => s
    | some h =>
      if h.blk.tx then s
      else
        let us := undone (rids e) h.elem
        let n := (us.filter fun i => !i.takes.isEmpty || i.gen.isSome).length
        let s := s.modElem e fun el =>
          { us.foldr (fun i el => untake el i.takes) el with
            out := el.out.take (el.out.length - us.length)
            ctl := match el.ctl with
              | .stash _ => .stash none
              | c => c
            ended := false
            finished := false
            fires := el.fires - n }
        s.modLoad e.run e.plane e.load fun l => if allDone l then l else { l with doneAt := none, registered := false }) s
  let order := gens.foldr insertRid []
  s.modRun run fun r => order.foldr (fun g r => ungen r g.2) r

/-- Undoes the firings that entered these accesses, which are gone. -/
def State.undo (s : State) (as : List Access) : State :=
  match as.head? with
  | none => s
  | some a =>
    (s.setAccs (s.ord.accs.filter fun x => !(as.any fun b => b.id == x.id))).undoPlaces a.run (as.map fun b => (b.elem, b.rid))

/-- Record fields of an element that an event, not a firing, makes trap. -/
def State.elemInfo (s : State) (e : ElemRef) (code kind : Nat) : FaultInfo :=
  let i := { FaultInfo.base code kind with idx := e.idx, blk := e.blk }
  match s.site e with
  | none => i
  | some h => match instrAt h.blk e.idx with
    | none => i
    | some k => match fabOf k with
      | none => i
      | some f => { i with site := siteCode h.blk f }

/-- A U-level trap precise at a firing whose accesses are undone. -/
def State.trapUndo (s : State) (a : Access) (t : Trap) : State :=
  let mine := s.ord.accs.filter fun b => b.elem == a.elem && decide (a.rid ≤ b.rid)
  (s.undo mine).takeTrap a.run t { s.elemInfo a.elem t.code 1 with va := a.va, port := a.port }

/-- Access kind of a fault record (21 R357). -/
def AccKind.recordCode : AccKind → Nat
  | .store | .release | .snapshot => 1
  | .atomic _ => 2
  | .sete => 5
  | _ => 0

/-- A translation or grant fault on an access (21 R359, R361): the access and the entry-later ones of its port leave, their
firings are undone, and the run freezes for the system software. While the run is frozen the fault waits for its resumption. -/
def State.faultAcc (s : State) (a : Access) (f : XFault) (level aux aux64 : Nat) : State :=
  match s.run? a.run with
  | none => s
  | some r =>
    if r.st ≠ .resident then s.modAcc a.id fun x => { x with stage := .parked, place := none, ats := 0, fault := some (f, aux) }
    else
      let later := (s.ord.accs.dropWhile fun b => b.id != a.id).filter fun b => b.run == a.run && b.port == a.port
      let info := { s.elemInfo a.elem f.code (if f = .grantdeny then 3 else 2) with
        va := a.va, access := a.kind.recordCode, port := a.port
        level := if level = 0 then none else some level, aux := if f = .grantdeny then some aux else none
        aux64 := if level = 0 ∧ f ≠ .hostdeny then none else some aux64 }
      (s.undo later).supervisorFault a.run info

/-! ## Flits (24 R387) -/

/-- A flit to another module. -/
def State.sendFlit (s : State) (type : Byte) (f : Flit) : State := { s with chip := { s.chip with flits := s.chip.flits ++ [(type, f)] } }

/-- A free request tag. -/
def State.freeTag (s : State) : Option Nat := (List.range 4096).find? fun t => !(s.chip.tags.any fun x => x.tag == t)

/-- Sends a request with a tag of its own; none when all 4,096 tags are out. -/
def State.request (s : State) (type : Byte) (modn : Nat) (grant : W64) (addr aop nreq len : Nat) (payload : Line) (what : Requester)
    (g : Option (ElemRef × Nat × Nat)) : Option State :=
  s.freeTag.map fun t =>
    let f : Flit := ⟨grant, BitVec.ofNat 52 addr, BitVec.ofNat 8 aop, s.chip.modnum, BitVec.ofNat 8 modn, BitVec.ofNat 12 t,
      BitVec.ofNat 12 nreq, BitVec.ofNat 7 len, 0, 0, payload⟩
    { s.sendFlit type f with chip := { (s.sendFlit type f).chip with tags := s.chip.tags ++ [⟨t, modn, what, g⟩] } }

/-! ## Writes at a perform point -/

/-- A reply to a flit. -/
def State.replyFlit (s : State) (type : Byte) (f : Flit) (stat reason len : Nat) (payload : Line) : State :=
  s.sendFlit type { f with
    grant := 0, src := s.chip.modnum, dst := f.src, len := BitVec.ofNat 7 len
    stat := BitVec.ofNat 4 stat, reason := BitVec.ofNat 4 reason, payload := payload }

/-- Completes a waiting WAITA (13 R276) with the word's value and a status; its entry is free. -/
def State.waitaDone (s : State) (a : Access) (w : W32) (psn : Bool) (st : Nat) : State :=
  let v : Token := if psn then poisonTok false a.mark a.chan else scalarTok w a.mark a.chan
  let s := { s with ord := { s.ord with monitors := s.ord.monitors.filter fun m => m.who != Requester.acc a.id } }
  s.finish a (OutItem.part [.tok 0 v, .tok 1 (scalarTok (BitVec.ofNat 32 st) a.mark a.chan)])

/-- What the home of a word answers to the WAITA of another module (log 33): the value, the status, the epoch of the word's bucket. -/
def State.waitaReply (s : State) (f : Flit) (w : W32) (psn : Bool) (st epoch : Nat) : State :=
  s.replyFlit 2 f (if psn then 3 else 0) 0 12 (BitVec.ofNat 512 (w.toNat + st * 2 ^ 32 + epoch * 2 ^ 64))

/-- A monitor entry completes. -/
def State.monitorDone (s : State) (m : Monitor) (w : W32) (psn : Bool) (st : Nat) : State :=
  match m.who with
  | .acc id => match s.acc? id with
    | none => s
    | some a => s.waitaDone a w psn st
  | .flit _ f => { s with ord := { s.ord with monitors := s.ord.monitors.erase m } }.waitaReply f w psn st 0
  | _ => s

/-- The monitor entries on words of a range re-read them after a write. -/
def State.rereadMonitors (s : State) (phys n : Nat) : State :=
  (s.ord.monitors.filter fun m => decide (m.phys < phys + n) && decide (phys < m.phys + 4)).foldl (fun s m =>
    let w := BitVec.ofNat 32 (bytesNat (s.hbmRead m.phys 4))
    if s.poisoned m.phys then s.monitorDone m w true 0 else if w = m.val then s else s.monitorDone m w false 0) s

/-- Writes bytes at a place of this module or its host, as a single write at its perform point; `true`: a partial write to a
poisoned line, discarded. -/
def State.writeAt (s : State) (p : Place) (bs : List Byte) : State × Bool :=
  match p with
  | .hbm a =>
    let (t, d) := s.hbmWrite a bs
    if d then (s, true) else (t.rereadMonitors a bs.length, false)
  | .host a => ({ s with mem := { s.mem with host := cellWrite s.mem.host a bs } }, false)
  | .remote _ _ _ => (s, false)

/-- Bytes of the FULL extent that a header names (07 R137). A SORTED-FIBRE part holds NFULL slots. -/
def fullExtent (h : Line) : Nat :=
  if hdrKind h = 0 then (extents h).foldl (· * ·) 1 * fmtBytes (hdrWfmt h)
  else if hdrKind h = 1 then 32 * 2 ^ hdrLcap h
  else 32 * hdrNFull h

/-- A stash descriptor that raises STASHHDR (07 R143, R144). -/
def stashBad (d : Line) : Bool :=
  fld d 63 60 != 1 || fld d 59 0 != 0 || fld d 255 64 != 0 || fld d 319 313 != 0 || fld d 383 377 != 0
    || fld d 312 256 % 64 != 0 || fld d 376 320 % 64 != 0

/-- Bytes of HBM fall in the FULL extent of a pinned version, whatever context names them (07 R138): page by page of the extent. -/
def State.pinnedPhys (s : State) (phys n : Nat) : Bool :=
  s.ord.vtab.any fun e => decide (e.pins ≠ 0) && (List.range (e.extent / 4096 + 2)).any fun i =>
    let lo := max e.base ((e.base / 4096 + i) * 4096)
    let hi := min (e.base + e.extent) ((e.base / 4096 + i + 1) * 4096)
    decide (lo < hi) && match s.vplace e.slot lo false with
      | .ok (.hbm p) => decide (p < phys + n) && decide (phys < p + (hi - lo))
      | _ => false

def State.pinnedAt (s : State) (p : Place) (n : Nat) : Bool := match p with
  | .hbm x => s.pinnedPhys x n
  | _ => false

/-- Who stores: the die and the site that a discard is logged for, the runs it is reported to, each with its port (07 R138, R146), the
context and the virtual address. -/
structure Writer where
  die  : Nat
  slot : Nat
  va   : Nat
  site : Option Nat
  runs : List (Nat × Nat)
  deriving DecidableEq, Repr

def Writer.ident (w : Writer) (s : State) : Option Nat := w.runs.head?.map fun r => s.identity r.1

/-- The discard of a write into a pinned extent: logged, and reported to the storing runs at their next gates. -/
def State.pinWrite (s : State) (w : Writer) : State :=
  w.runs.foldl (fun s q => s.modRun q.1 fun r => { r with pinned := some (r.pinned.getD (q.2, w.va)) })
    (s.logEvent w.die 0x311 none (w.ident s) w.site none (some w.va))

/-- Reuse slots that are bound to the header at a place: their die, tenant and header address. -/
def State.boundTo (s : State) (phys : Nat) : List (BitVec 6 × Nat) :=
  (s.eng.slots.filterMap fun x =>
    let t := fld x.val 235 230
    let va := fld x.val 306 256 * 64
    if fld x.val 229 228 ≠ 0 ∧ s.adm.ctxs.any (fun c => ctxTenant c.desc == t && match s.vplace c.slot va false with
        | .ok (.hbm p) => p == phys
        | _ => false) then some (BitVec.ofNat 6 t, va) else none).eraseDups

/-- A header store that changes WVER invalidates the old version at the delta engines of all eight dies (07 R138), under every address
that a reuse slot names the header by. -/
def State.weightStore (s : State) (slot va : Nat) (p : Place) (old new : Line) (oldPsn : Bool) : State :=
  match p with
  | .hbm phys =>
    if oldPsn || hdrBad old || hdrWver old == hdrWver new then s
    else
      let names := insertNew (BitVec.ofNat 6 (s.tenantOf slot), va) (s.boundTo phys)
      let invs := names.flatMap fun n => (List.range 8).map fun d => (⟨d, n.1, n.2, hdrWver old⟩ : Inval)
      { s with eng := { s.eng with invals := s.eng.invals ++ invs } }
  | _ => s

/-- A store takes effect: bytes within one line at a place. Into a pinned extent it is discarded, and partly into a poisoned line. -/
def State.storeBy (s : State) (w : Writer) (p : Place) (bs : List Byte) : State :=
  if s.pinnedAt p bs.length then s.pinWrite w
  else
    let old := if bs.length = 64 then s.placeRead p 64 else none
    let (t, d) := s.writeAt p bs
    if d then s.logEvent w.die 0x30D none (w.ident s) w.site none (some w.va)
    else match old with
      | some (ob, psn) => t.weightStore w.slot w.va p (lineOf ob) (lineOf bs) psn
      | none => t

def State.writer (s : State) (a : Access) (r : Run) : Writer :=
  ⟨r.die, r.slot, a.va, (s.elemInfo a.elem 0 0).site, [(a.run, a.port)]⟩

/-- A store of a run takes effect. -/
def State.storeAt (s : State) (a : Access) (r : Run) (p : Place) (bs : List Byte) : State := s.storeBy (s.writer a r) p bs

/-- The place `n` bytes on. -/
def Place.plus (p : Place) (n : Nat) : Place := match p with
  | .hbm x => .hbm (x + n)
  | .host x => .host (x + n)
  | .remote m x g => .remote m (x + n) g

/-! ### Bytes of an access (07 R129, 10 R188) -/

/-- Runs of consecutive set bits among `n` from bit `i` on, cut where a line of 64 bytes begins: first bit and length. `off` is the place
of bit 0 in its line. -/
def byteRuns (m : W64) (off : Nat) : Nat → Nat → List (Nat × Nat)
  | 0, _ => []
  | n + 1, i =>
    if !m.getLsbD i then byteRuns m off n (i + 1)
    else match byteRuns m off n (i + 1) with
      | [] => [(i, 1)]
      | (j, k) :: rest => if j = i + 1 ∧ (off + j) % 64 ≠ 0 then (i, k + 1) :: rest else (i, 1) :: (j, k) :: rest

/-- The stored bytes of an access: runs, each its offset and its bytes. A gathered store writes only the bytes of its elements. -/
def Access.runs (a : Access) (off : Nat) : List (Nat × List Byte) :=
  let bs := natBytes a.width a.data.toNat
  (byteRuns a.enable off a.width 0).map fun q => (q.1, (bs.drop q.1).take q.2)

/-- The stores of an access, one after the other with no step between. Partial ones to a poisoned line are logged once. -/
def State.storeRuns (s : State) (a : Access) (r : Run) (p : Place) : State :=
  let off := match p with
    | .hbm x => x % 64
    | .host x => x % 64
    | .remote _ x _ => x % 64
  let go (s : State) (q : Nat × List Byte) : State := s.storeAt { a with va := a.va + q.1 } r (p.plus q.1) q.2
  match a.runs off, p with
  | q :: rest, .hbm x =>
    let t := go s q
    -- a discard of the first run is one for the whole access
    if s.poisoned x ∧ q.2.length ≠ 64 ∧ (x % 64 + a.width ≤ 64) then t else rest.foldl go t
  | l, _ => l.foldl go s

/-! ## Atomics (13 R273) -/

/-- Least value of a format, which AMAXR writes back. -/
def leastOf (fmt : Nat) : W64 := if fmt = 0 then 0xFF800000 else if fmt = 11 then 0 else 0x80000000

/-- New value of an atomic and the flags of the issuing run. -/
def atomicNew (op fmt : Nat) (old v expect : W64) : W64 × Flags :=
  let o := old.setWidth 32
  let w : W32 := v.setWidth 32
  let pick (big : Bool) : W64 × Flags :=
    if fmt = 0 then
      let a := f32 o.toNat
      let b := f32 w.toNat
      if a.isNaN || b.isNaN then (old, fNV)
      else (if XVal.less a b == big then w.setWidth 64 else old, 0)
    else
      let lt := if fmt = 11 then decide (o.toNat < w.toNat) else decide (o.toInt < w.toInt)
      (if lt == big then w.setWidth 64 else old, 0)
  match op with
  | 0xBA => ((o + w).setWidth 64, 0)
  | 0xBB => (old + v, 0)
  | 0xBC => pick true
  | 0xBD => pick false
  | 0xBE => (w.setWidth 64, 0)
  | 0xBF => (if o = expect.setWidth 32 then w.setWidth 64 else old, 0)
  | 0xC0 => ((o ||| w).setWidth 64, 0)
  | 0xC1 => ((o &&& w).setWidth 64, 0)
  | _ => (leastOf fmt, 0)

def Access.op (a : Access) : Nat := match a.kind with
  | .atomic o => o
  | _ => 0

/-- One atomic of a run at its perform point: a poisoned line performs nothing and returns POISON (07 R146). -/
def State.atomicAt (s : State) (a : Access) (r : Run) (p : Place) : State :=
  match s.placeRead p a.width with
  | none => s
  | some (bs, psn) =>
    if psn then s.atomDone a 0 false true
    else
      let old := BitVec.ofNat 64 (bytesNat bs)
      let (new, f) := atomicNew a.op a.fmt old (a.data.setWidth 64) (a.aux.setWidth 64)
      let s := (s.storeAt a r p (natBytes a.width new.toNat)).raise a.run f
      s.atomDone a old false false

/-- Reads of HBM that find an illegal CODE log BDIERR, once for each block (07 R136). `run` is the identity of the reader's run. -/
def State.noteCode (s : State) (run : Option Nat) (phys n : Nat) : State :=
  (List.range ((phys % 128 + n + 127) / 128)).foldl (fun s i =>
    let b := phys / 128 * 128 + 128 * i
    if s.codeBad b then s.logEvent (homeDie b) 0x310 none run none none (some b) else s) s

/-- A read of a place. -/
def State.noteAt (s : State) (run : Option Nat) (p : Place) (n : Nat) : State := match p with
  | .hbm x => s.noteCode run x n
  | _ => s

/-- A read of virtual memory by an engine, page by page. -/
def State.noteRead (s : State) (run : Option Nat) (slot va n : Nat) : State :=
  (List.range ((va % 4096 + n + 4095) / 4096)).foldl (fun s i =>
    let lo := max va (va / 4096 * 4096 + 4096 * i)
    let hi := min (va + n) (va / 4096 * 4096 + 4096 * (i + 1))
    match s.vplace slot lo false with
    | .ok p => s.noteAt run p (hi - lo)
    | .error _ => s) s

/-! ## Waves (03 R49 to R53) -/

/-- Key of the line of a place. -/
def placeKey : Place → Nat
  | .hbm p => p / 64
  | .host a => 2 ^ 60 + a / 64
  | .remote m p _ => 2 ^ 61 + m * 2 ^ 47 + p / 64

def placeOff : Place → Nat
  | .hbm p => p % 64
  | .host a => a % 64
  | .remote _ p _ => p % 64

/-- Bytes as a wave sees them, over the held stores of its own and earlier waves of its block. -/
def State.overlay (s : State) (b : BlkRef) (k key off : Nat) (bs : List Byte) : List Byte :=
  (s.ord.waves.filter fun w => w.blk == b && decide (w.k ≤ k)).foldl (fun bs w =>
    match w.lines.find? (fun l => l.addr == key) with
    | none => bs
    | some l => bs.zipIdx.map fun (x, i) => ((l.bytes.reverse.find? fun q => q.1 == off + i).map (·.2)).getD x) bs

/-- Lines that the commit unit of a die holds. -/
def State.heldLines (s : State) (die : Nat) : Nat :=
  ((s.ord.waves.filter fun w => ((s.run? w.blk.run).map (·.die)) == some die).map fun w => w.lines.length).foldl (· + ·) 0

def State.wave? (s : State) (b : BlkRef) (k : Nat) : Option Wave := s.ord.waves.find? fun w => w.blk == b && w.k == k

/-- The wave already holds the line. -/
def State.hasLine (s : State) (b : BlkRef) (k key : Nat) : Bool :=
  ((s.wave? b k).map fun w => w.lines.any fun l => l.addr == key).getD false

/-- Adds a line to a wave's set, with held bytes when it is written. -/
def State.addLine (s : State) (b : BlkRef) (k key : Nat) (wr : List (Nat × Byte)) : State :=
  let up (w : Wave) : Wave :=
    if w.blk = b ∧ w.k = k then
      if w.lines.any (fun l => l.addr == key) then
        { w with lines := w.lines.map fun l =>
            if l.addr = key then { l with wrote := l.wrote || !wr.isEmpty, bytes := l.bytes ++ wr } else l }
      else { w with lines := w.lines ++ [⟨key, !wr.isEmpty, wr⟩] }
    else w
  { s with ord := { s.ord with waves := s.ord.waves.map up } }

/-- Waves of other agents that an access to a line conflicts with (03 R52). -/
def State.conflicts (s : State) (key : Nat) (write : Bool) (self : Option BlkRef) : List Wave :=
  s.ord.waves.filter fun w => some w.blk != self && w.lines.any fun l => l.addr == key && (write || l.wrote)

/-- An atomic of a wave has the bytes of its word: it computes in the wave's line set (03 R50), raises its flags there, and is a store
from then on. -/
def State.waveAtomic (s : State) (a : Access) (k key off : Nat) (bs : List Byte) (psn : Bool) : State :=
  if psn then s.atomDone a 0 false true
  else
    let old := BitVec.ofNat 64 (bytesNat (s.overlay a.blk k key off bs))
    let (new, f) := atomicNew a.op a.fmt old (a.data.setWidth 64) (a.aux.setWidth 64)
    let s := s.addLine a.blk k key ((natBytes a.width new.toNat).zipIdx.map fun (b, i) => (off + i, b))
    let s := s.modWave a.blk k fun w => { w with flags := w.flags ||| f }
    let kept := s.ord.accs
    let s := s.atomDone a old false false
    -- the write itself performs at commit
    (s.setAccs kept).modAcc a.id fun x => { x with stage := .done, kind := .store, data := new.setWidth 512 }

/-- A block's wave aborts, counted (03 R53): the fourth time it runs serialised under the die's lock, which it takes when it is free, else as
it starts again. -/
def State.countAbort (s : State) (b : BlkRef) (k : Nat) : State :=
  match s.run? b.run with
  | none => s
  | some r =>
    let n := ((((r.load? b.plane b.load).bind fun l => l.blks[b.blk]?).map (·.aborts)).getD 0) + 1
    let s := (s.dropWaves b k).modBlk b fun y => { y with
      aborts := y.aborts + 1
      serial := if 4 ≤ y.aborts + 1 then y.serial.orElse (fun _ => some k) else y.serial }
    if n = 4 then
      (s.modDie r.die fun d => { d with lock := d.lock.orElse fun _ => some b }).logEvent r.die 0x315 none (some (s.identity b.run)) none (some k) none
    else s

/-- The wave runs serialised: its block's, under a lock that its block holds. -/
def State.serialised (s : State) (w : Wave) : Bool :=
  (s.dies.any fun d => d.lock == some w.blk)
    && (match s.run? w.blk.run with
      | none => false
      | some r => match (r.load? w.blk.plane w.blk.load).bind fun l => l.blks[w.blk.blk]? with
        | none => false
        | some x => x.serial == some w.k)

/-- Accesses of an agent that aborts what it meets (03 R52, R53), each a line and whether it is written: every wave in conflict aborts,
counted; none while a serialised wave holds one of the lines, for then the agent waits. -/
def State.yieldTo (s : State) (ls : List (Nat × Bool)) : Option State :=
  let hit := (ls.flatMap fun l => s.conflicts l.1 l.2 none).eraseDups
  if hit.any s.serialised then none
  else some (((hit.map (·.blk)).eraseDups).foldl (fun s b =>
    match (hit.filter fun w => w.blk == b).map (·.k) with
    | [] => s
    | k :: ks => s.countAbort b (ks.foldl min k)) s)

/-- Runs of bytes that differ between two memories, each within one line: from the first that differs to the last. -/
def changedRuns (old new : List Host.Cell) : List (Nat × List Byte) :=
  let as := (((old ++ new).map (·.1)).filter fun a => cellGet old a != cellGet new a).eraseDups
  ((as.map (· / 64)).eraseDups).filterMap fun l => match as.filter fun a => a / 64 == l with
    | [] => none
    | a :: rest =>
      let lo := rest.foldl min a
      some (lo, cellRead new lo (rest.foldl max a + 1 - lo))

/-- The writes by which one memory becomes the other, line by line (08 R158). -/
def Mems.writesTo (old new : Mems) : List (Place × List Byte) :=
  (changedRuns old.hbm new.hbm).map (fun q => (.hbm q.1, q.2)) ++ (changedRuns old.host new.host).map fun q => (.host q.1, q.2)

/-- Lines of virtual memory that an engine reads or writes. -/
def State.linesOf (s : State) (slot va n : Nat) (write : Bool) : List (Nat × Bool) :=
  (List.range ((va % 64 + n + 63) / 64)).filterMap fun i => match s.vplace slot (va / 64 * 64 + 64 * i) write with
    | .ok p => some (placeKey p, write)
    | .error _ => none

/-- An engine reads virtual memory: waves that have written it abort; none while a serialised wave has. -/
def State.engineReads (s : State) (slot va n : Nat) : Option State :=
  if s.ord.waves.isEmpty then some s else s.yieldTo (s.linesOf slot va n false)

/-- Writes memory. -/
def AccKind.writes : AccKind → Bool
  | .store | .release | .snapshot | .atomic _ => true
  | _ => false

end Sys2Proof.Machine
end

