-- ==== Sys2Proof/Machine/Access.lean ====
section
/-! DEFINITION. The steps of the ordering machine on accesses (08 R149): ISSUE, UNPARK, the translation fault, PERFORM, waves
and their commit, the phase gate, the combining points, the owner nodes' applications, the host queues. A step that is not
enabled leaves the state as it is (log 1). -/

namespace Sys2Proof.Machine

/-! ## ISSUE (R151, R351) -/

/-- Rights of a leaf for a kind of access (21 R349). -/
def rightsOk (k : AccKind) (pte : W64) : Bool := !needsWrite k || pte.getLsbD 1

/-- Physical port tile of an access. -/
def Run.portOf (r : Run) (port : Nat) : Nat := r.region.ports.getD port 0

/-- The place that a cached translation gives. A host entry holds the address that ATS answered (21 R352). -/
def TlbEntry.place (e : TlbEntry) (va : Nat) : Place :=
  if pteTgt e.pte = 2 then .host (e.grant.toNat * 4096 + va % 2 ^ e.size) else leafPlace ⟨e.pte, e.size, e.grant⟩ va

def State.cached (s : State) (r : Run) (a : Access) : Option Place :=
  match s.tlbHit r.die (some (r.portOf a.port)) r.slot a.va with
  | some e => if decide (a.va < 2 ^ 57) && rightsOk a.kind e.pte then some (e.place a.va) else none
  | none => none

/-- Configuration index of an access. -/
def State.cfgOf (s : State) (a : Access) : Option Nat := (s.site a.elem).map (·.load.cfg)

/-- The access leads to another module, whose grant check can still fail its firing. -/
def Access.offModule (a : Access) : Bool := match a.place with
  | some (.remote _ _ _) => true
  | _ => false

/-- A closed gate of the run keeps the access in its queue (R157). -/
def State.gated (s : State) (r : Run) (a : Access) : Bool :=
  r.gates.any fun g => decide (g.1 < a.serial) && (g.2.isNone || g.2 == s.cfgOf a)

/-- The conditions of R151 and R155 that keep an access in its issue queue. -/
def State.blocked (s : State) (r : Run) (b : Access) : Bool :=
  let es := (s.earlier b).filter fun a => !a.heldFor b
  es.any (fun a => a.port == b.port && a.overlaps b)
    || es.any (fun a => a.kind == .acquire)
    || es.any (fun a => match a.kind with
        | .fence sc => sc != 0 || a.port == b.port
        | _ => false)
    || (b.kind == .release && !es.isEmpty)
    || (match b.kind with
        | .fence _ => es.any fun a => a.port == b.port && a.stage == .queued
        | _ => false)
    || es.any (fun a => a.port == b.port && (a.stage == .parked || a.offModule))
    || s.gated r b
    || (b.kind == .egress && (b.wave.bind (s.wave? b.blk)).isSome)

/-- The access leaves the issue queue; translations are given in entry order, a miss parks it. -/
def State.issue (s : State) (id : Nat) : State :=
  match s.acc? id with
  | none => s
  | some b =>
    match s.run? b.run with
    | none => s
    | some r =>
      if b.stage ≠ .queued ∨ r.st ≠ .resident ∨ s.blocked r b then s
      else if !b.addressed then s.modAcc id fun a => { a with stage := .pending }
      else
        let ahead := (s.earlier b).filter fun a => a.port == b.port && a.stage == .queued && a.addressed && a.place.isNone
        if ahead.any (fun a => (s.cached r a).isNone) then s
        else
          let s := ahead.foldl (fun s a => s.modAcc a.id fun x => { x with place := s.cached r a }) s
          match b.place.orElse fun _ => s.cached r b with
          | some p => s.modAcc id fun a => { a with stage := .pending, place := some p }
          | none => s.modAcc id fun a => { a with stage := .parked }

def execIssue (acc : Nat) (s : State) : Out := .next (s.issue acc)

/-! ## Translation (21 R348 to R352) -/

/-- A word to the host: what it is (1 ATS request, 2 PRI request, 3 ATS completion, 4 BAR 4 read data) and its bytes. -/
def State.toHost (s : State) (what : Nat) (bs : List Byte) : State :=
  { s with chip := { s.chip with hostOut := s.chip.hostOut ++ [BitVec.ofNat 8 what :: bs] } }

/-- The address an ATS or PRI request names: PASID and FRAME. -/
def askBytes (slot : Nat) (pte : W64) : List Byte := natBytes 2 slot ++ natBytes 8 (pteFrame pte)

/-- Walks of a die that have read an entry; at most 128 run at once (21 R350). -/
def State.walksOn (s : State) (die : Nat) : Nat :=
  (s.ord.accs.filter fun a => a.walked.isSome && (match s.run? a.run with
    | some r => r.die == die
    | none => false)).length

/-- The walk of a parked access reads its next entry, which names a table (21 R348). -/
def State.walkNext (s : State) (id : Nat) : State :=
  match s.acc? id with
  | none => s
  | some a =>
    match s.run? a.run with
    | none => s
    | some r =>
      match s.ctx? r.slot with
      | none => s
      | some d =>
        if a.stage ≠ .parked ∨ a.ats ≠ 0 ∨ a.fault.isSome ∨ 2 ^ 57 ≤ a.va ∨ (a.walked.isNone ∧ 128 ≤ s.walksOn r.die) then s
        else
          let (lv, table) := a.walked.getD (5, ctxRoot d)
          match walkEntry s (s.tenant (ctxTenant d)) (ctxArea d) a.va lv table with
          | .ok (.table t) => s.modAcc id fun x => { x with walked := some (lv - 1, t) }
          | _ => s

/-- The walk of a parked access completes (R149). -/
def State.unpark (s : State) (id : Nat) : State :=
  match s.acc? id with
  | none => s
  | some a =>
    match s.run? a.run with
    | none => s
    | some r =>
      if a.stage ≠ .parked ∨ a.ats ≠ 0 ∨ a.fault.isSome then s
      else match s.walkOn r.slot a.va a.walked with
        | .error _ => s
        | .ok l =>
          if !rightsOk a.kind l.pte then s
          else if pteTgt l.pte = 2 then
            match s.cached r a with
            | some p => s.modAcc id fun x => { x with stage := .pending, place := some p, walked := none }
            | none => (s.toHost 1 (askBytes r.slot l.pte)).modAcc id fun x => { x with ats := 1, walked := none }
          else
            (s.tlbFill r.die (some (r.portOf a.port)) r.slot a.va l).modAcc id fun x =>
              { x with stage := .pending, place := some (leafPlace l a.va), walked := none }

def execUnpark (acc : Nat) (s : State) : Out := .next (s.unpark acc)

/-- A walk ends in a fault, or rights are missing. -/
def State.translationFault (s : State) (id : Nat) : State :=
  match s.acc? id with
  | none => s
  | some a =>
    match s.run? a.run with
    | none => s
    | some r =>
      if a.stage ≠ .parked ∨ r.st ≠ .resident ∨ a.ats ≠ 0 then s
      else match a.fault with
        | some (f, x) => s.faultAcc a f 0 x 0
        | none =>
          match s.walkOn r.slot a.va a.walked with
          | .error e => s.faultAcc a e.fault e.level 0 e.entry.toNat
          | .ok l => if rightsOk a.kind l.pte then s else s.faultAcc a .rights l.level 0 l.pte.toNat

def execTranslationFault (acc : Nat) (s : State) : Out := .next (s.translationFault acc)

/-- An ATS translation response: cached in the die TLB, or a page request when the page is not present. At most 256 page requests are
out (24 R380); beyond, the response is not taken and its event comes again. -/
def State.atsResponse (s : State) (id : Nat) (present : Bool) (frame : BitVec 52) : State :=
  match s.acc? id with
  | none => s
  | some a =>
    match s.run? a.run with
    | none => s
    | some r =>
      if a.stage ≠ .parked ∨ a.ats ≠ 1 then s
      else match s.walk r.slot a.va with
        | .error _ => s.modAcc id fun x => { x with ats := 0 }
        | .ok l =>
          if present then
            (s.tlbFill r.die none r.slot a.va { l with grant := frame.setWidth 64 }).modAcc id fun x =>
              { x with stage := .pending, ats := 0, place := some (.host (frame.toNat * 4096 + a.va % 2 ^ l.size)) }
          else if 256 ≤ s.ord.accs.countP (fun x => x.ats == 2) then s
          else (s.toHost 2 (askBytes r.slot l.pte)).modAcc id fun x => { x with ats := 2, poll := s.cycle }

def execAtsResponse (acc : Nat) (present : Bool) (frame : BitVec 52) (s : State) : Out := .next (s.atsResponse acc present frame)

/-- A PRI response: Success retries the translation, another faults HOSTDENY; `late`: none came within 2^24 cycles. -/
def State.priResponse (s : State) (id : Nat) (success late : Bool) : State :=
  match s.acc? id with
  | none => s
  | some a =>
    match s.run? a.run with
    | none => s
    | some _ =>
      if a.stage ≠ .parked ∨ a.ats ≠ 2 ∨ (late ∧ s.cycle < a.poll + 2 ^ 24) then s
      else if success then (s.modAcc id fun x => { x with ats := 0 }).unpark id
      else s.faultAcc { a with ats := 0 } .hostdeny 0 0 0

def execPriResponse (acc : Nat) (success : Bool) (s : State) : Out := .next (s.priResponse acc success false)
def execPriTimeout (acc : Nat) (s : State) : Out := .next (s.priResponse acc false true)

/-! ## What a fence waits for (R155) -/

/-- The request still has engine writes of memory to make, beside those that stand in a write buffer. -/
def Req.willWrite (q : Req) : Bool := (q.kind == .xfer && !q.finished && fld q.packet 163 162 != 1) || q.kind == .stash

/-- Every operation of a fence's wait set has performed. A request of the fence's own port that has performed stood before it, for the fence
holds back what stands behind it. -/
def State.fenceReady (s : State) (r : Run) (a : Access) (scope : Nat) : Bool :=
  let es := s.earlier a
  let before (port stamp : Nat) : Bool := decide (stamp < a.stamp) || port == a.port
  let near (d : Nat) : Bool := d == r.die || scope ≥ 3
  if scope = 0 then es.all fun b => b.port != a.port
  else es.isEmpty
    && (scope < 2 || ((s.ord.reqs.all fun q => !(q.run == a.run && q.willWrite && before q.port q.stamp && near q.die))
      && (s.ord.wbuf.all fun w => !(w.run == a.run && before w.port w.stamp && near w.die))
      && s.ord.ownq.all fun m => !(m.run == a.run && decide (m.stamp < a.stamp) && near m.die && (m.kind == .insert || m.kind == .agg))))
    && (scope < 5 || s.ord.egq.all fun t => !(t.fault.isNone && t.run == a.run && (decide (t.stamp < a.stamp) || a.port == 0)))

/-! ## PERFORM (R148, R152, R159) -/

/-- The owner node of an address (13 R275). -/
def State.rangeOwner (s : State) (slot va : Nat) : Option Owner :=
  s.ord.owners.find? fun o => !o.rel && o.slot == slot && decide (o.base ≤ va) && decide (va < o.base + 2 ^ o.log2)

/-- A request of an access leaves for another module; without a free tag it stays. -/
def State.fly (s : State) (a : Access) (modn phys : Nat) (grant : W64) (type : Byte) (aop len : Nat) (payload : Line) : State :=
  match s.request type modn grant phys aop 1 len payload (.acc a.id) none with
  | some t => t.modAcc a.id fun x => { x with stage := .flying }
  | none => s

/-- Request of an access to another module (log 33). A SETE is a WRREQ of no bytes. An LDSYNC and a WAITA are RDREQs, a WAKEA an ATREQ, with
their opcode in AOP, by which the home waits for the line to be full, or for the word, or wakes. An atomic's payload is its operand,
then its expected value, and its format in byte 16. A store with gaps writes its runs one after the other, the first of them now: `enable`
keeps the others. -/
def State.sendRemote (s : State) (a : Access) (modn phys : Nat) (grant : W64) : State :=
  match a.kind with
  | .load | .acquire => s.fly a modn phys grant 1 0 a.width 0
  | .ldsync => s.fly a modn phys grant 1 0xB4 a.width 0
  | .waita => s.fly a modn phys grant 1 0xC4 a.width
      (a.data ||| BitVec.ofNat 512 ((if a.poll = 0 then 0 else 2 ^ 32) + a.va * 2 ^ 64 + a.epoch * 2 ^ 128))
  | .wakea => s.fly a modn phys grant 5 0xC5 8 (BitVec.ofNat 512 (a.va * 2 ^ 64))
  | .store | .release | .snapshot =>
    match a.runs (phys % 64) with
    | [] => s
    | (i, bs) :: _ => s.fly a modn (phys + i) grant 3 0 bs.length (lineOf bs)
  | .sete => s.fly a modn phys grant 3 0 0 0
  | .atomic o => s.fly a modn phys grant 5 o 17 (a.data ||| (a.aux <<< (8 * a.width)) ||| BitVec.ofNat 512 (a.fmt * 2 ^ 128))
  | _ => s

/-- An atomic of a wave reads its word at the other module (03 R50). -/
def State.readRemote (s : State) (a : Access) (modn phys : Nat) (grant : W64) : State := s.fly a modn phys grant 1 0 a.width 0

/-- A WAITA finds the monitor table full: it reports FULL once and polls (13 R277). -/
def State.waitaFull (s : State) (a : Access) (first : Bool) : State :=
  let note : OutItem := ⟨a.rid, true, [.tok 1 (scalarTok 2 a.mark a.chan)], 0, [], none, none⟩
  let s := if first then s.onItem a.elem a.rid fun i => [note, i] else s
  s.modAcc a.id fun x => { x with stage := .polling, poll := s.cycle + 1600 }

/-- The monitor table of a die has room. -/
def State.monitorRoom (s : State) (d : Nat) : Bool := decide ((s.ord.monitors.filter fun m => m.die == d).length < 256)

def State.addMonitor (s : State) (m : Monitor) : State := { s with ord := { s.ord with monitors := s.ord.monitors ++ [m] } }

/-- A WAITA reads its word: it completes, takes a monitor entry, or polls (13 R276, R277). -/
def State.waitaAt (s : State) (a : Access) (p : Place) (w : W32) (psn first : Bool) : State :=
  if psn then s.waitaDone a w true 0
  else if w ≠ a.data.setWidth 32 then s.waitaDone a w false 0
  else match p with
    | .hbm phys =>
      let d := homeDie phys
      if s.monitorRoom d then (s.addMonitor ⟨d, .acc a.id, phys, a.data.setWidth 32⟩).modAcc a.id fun x => { x with stage := .monitor }
      else s.waitaFull a first
    | _ => s.waitaFull a first

/-- The wake of a word at its home die (13 R278): every entry on it completes, the bucket of its address moves on. How many completed. -/
def State.wake (s : State) (phys va : Nat) : Nat × State :=
  let d := homeDie phys
  let ms := s.ord.monitors.filter fun m => m.phys == phys
  let w := BitVec.ofNat 32 (bytesNat (s.hbmRead phys 4))
  let s := ms.foldl (fun s m => s.monitorDone m w (s.poisoned phys) 1) s
  let b := bucketOf va
  let e := s.epoch d b + 1
  (ms.length, s.modDie d fun x => { x with epochs := (x.epochs.filter fun q => q.1 != b) ++ [(b, e)] })

/-- Reply of a WAKEA. -/
def State.wakeaDone (s : State) (a : Access) (n : Nat) : State :=
  s.finish a (OutItem.part [.tok 0 (scalarTok (BitVec.ofNat 32 n) a.mark a.chan)])

/-- A WAKEA at the word's home die (13 R278). -/
def State.wakeaAt (s : State) (a : Access) (phys : Nat) : State :=
  let (n, s) := s.wake phys a.va
  s.wakeaDone a n

/-- Stack of a physical address. -/
def stackOf (phys : Nat) : Nat := Config.homeStack phys % 16

/-- Version-table entries of a stack (07 R137). -/
def State.vtabOf (s : State) (stack : Nat) : Nat :=
  (s.ord.vtab.filter fun e => match s.vplace e.slot e.hdr false with
    | .ok (.hbm p) => stackOf p == stack
    | _ => false).length

/-- PIN at the header's home controller (07 R139). Its snapshot is translated by then, so that no fault can undo it. -/
def State.pinAt (s : State) (a : Access) (r : Run) (phys : Nat) : State :=
  let snap := s.ord.accs.find? fun b => b.rid == a.rid && b.kind == .snapshot
  let ready := match snap with
    | none => true
    | some b => b.stage == .pending || b.overlaps a
  if !ready then s
  else if s.poisoned phys then
    -- a poisoned header pins nothing and its version is POISON
    let s := match snap with
      | some b => s.dropAcc b.id
      | none => s
    s.finish a fun i => [{ i with ready := true, parts := 0, emits := bothOut (poisonTok false a.mark a.chan) }]
  else
    let h := lineOf (s.hbmRead phys 64)
    let v := hdrWver h
    let full := if r.st = .resident then s.trapUndo a .pinfull else s
    let pinned (s : State) : State :=
      let s := match snap with
        | some b => s.modAcc b.id fun x => { x with data := h }
        | none => s
      s.finish a (OutItem.part (bothOut (scalarTok v a.mark a.chan)))
    match s.ord.vtab.find? fun e => e.slot == r.slot && e.hdr == a.va && e.ver == v with
    | some e =>
      if 65535 ≤ e.pins then full
      else
        let vt := s.ord.vtab.map fun x => if x = e then { x with pins := x.pins + 1 } else x
        pinned { s with ord := { s.ord with vtab := vt } }
    | none =>
      if 64 ≤ s.vtabOf (stackOf phys) then full
      else pinned { s with ord := { s.ord with vtab := s.ord.vtab ++ [⟨r.slot, a.va, v, hdrFull h, fullExtent h, 1⟩] } }

/-- UNPIN: the entry is freed at zero. -/
def State.unpinAt (s : State) (a : Access) (r : Run) : State :=
  let v : W32 := a.data.setWidth 32
  match s.ord.vtab.find? fun e => e.slot == r.slot && e.hdr == a.va && e.ver == v && decide (e.pins ≠ 0) with
  | none => if r.st = .resident then s.trapUndo a .pinerr else s
  | some e =>
    let vt := (s.ord.vtab.map fun x => if x = e then { x with pins := x.pins - 1 } else x).filter fun x => decide (x.pins ≠ 0)
    let s := { s with ord := { s.ord with vtab := vt } }
    s.finish a (OutItem.part (bothOut (scalarTok v a.mark a.chan)))

/-- An engine's request performs as an access of its port and waits for its DEQUEUE (R161). -/
def State.requestAt (s : State) (a : Access) (r : Run) : State :=
  let q : Req :=
    { id := a.id, run := a.run, die := r.die, elem := a.elem, rid := a.rid, kind := a.kind, va := a.va, packet := a.data, mark := a.mark
      chan := a.chan, serial := a.serial, port := a.port, stamp := a.stamp, taken := false
      src := 0, dst := 0, len := 0, desc := 0, first := 0, doneS := [], inflight := []
      status := 0, held := [], changed := 0, off := 0, area := 0, stallAt := none, finished := false, order := 0, opened := [], sender := none }
  { s.dropAcc a.id with ord := { (s.dropAcc a.id).ord with reqs := s.ord.reqs ++ [q] } }

/-- An egress token joins its egress queue (R164). -/
def State.egressAt (s : State) (a : Access) (r : Run) : State :=
  let before := ((s.earlier a).filter fun b => b.kind == .release || b.kind == .fence 5).map (·.id)
  let t : EgTok := ⟨r.slot, r.ring, a.run, a.data.setWidth 64, before, a.stamp, none⟩
  let s := s.finish a (OutItem.part [])
  { s with ord := { s.ord with egq := s.ord.egq ++ [t] } }

/-- An access of a wave: it reads its line into the set, its writes are held (03 R50). -/
def State.waveAt (s : State) (a : Access) (r : Run) (p : Place) (k : Nat) : State :=
  let key := placeKey p
  let off := placeOff p
  if !s.hasLine a.blk k key ∧ 16 ≤ s.heldLines r.die then s
  else
    let hold (s : State) (bs : List Byte) : State := s.addLine a.blk k key (bs.zipIdx.map fun (b, i) => (off + i, b))
    match a.kind with
    | .store | .release =>
      let s := hold s (natBytes a.width a.data.toNat)
      let done : Emit := .tok 0 (scalarTok 0 a.mark a.chan)
      (s.onItem a.elem a.rid (OutItem.part (if a.lane.isSome then [] else [done]))).modAcc a.id fun x => { x with stage := .done }
    | .atomic _ =>
      match s.placeRead p a.width, p with
      | some (bs, psn), _ => (s.noteAt (some (s.identity a.run)) p a.width).waveAtomic a k key off bs psn
      | none, .remote m x g => (s.addLine a.blk k key []).readRemote a m x g
      | none, _ => s
    | _ =>
      match s.placeRead p a.width, p with
      | some (bs, psn), _ =>
        ((s.noteAt (some (s.identity a.run)) p a.width).addLine a.blk k key []).loadDone a (s.overlay a.blk k key off bs) psn
      | none, .remote m x g => (s.addLine a.blk k key []).readRemote a m x g
      | none, _ => s

/-- Place of a place's first byte in its line. -/
def Place.off (p : Place) : Nat := placeOff p

/-- Aligned 8-byte units of its line that hold bytes of the access (08 R159). -/
def Access.unitsOf (a : Access) (off : Nat) : List Nat :=
  (((List.range a.width).filter fun i => a.enable.getLsbD i).map fun i => (off + i) / 8).eraseDups

/-- The bytes of one unit, as the access counts them: the first and how many. -/
def Access.unitSpan (a : Access) (off u : Nat) : Nat × Nat :=
  let lo := 8 * u - off
  (lo, min a.width (8 * u + 8 - off) - lo)

/-- The store without the units that have performed. -/
def Access.rest (a : Access) (off : Nat) : Access :=
  { a with enable := BitVec.ofNat 64 (((List.range a.width).filter fun i => a.enable.getLsbD i && !a.units.contains ((off + i) / 8)).foldl
      (fun m i => m + 2 ^ i) 0) }

/-- The store covers its line. -/
def Access.wholeLine (a : Access) (off : Nat) : Bool := off == 0 && a.width == 64 && a.enable == BitVec.allOnes 64

/-- A SETE clears the full bit of a line; an engine's completion of the same cycle comes after it (07 R135). -/
def State.setEmpty (s : State) (phys : Nat) : State :=
  if s.mem.fullNow.contains (phys / 64) then s else { s with mem := { s.mem with notFull := insertNew (phys / 64) s.mem.notFull } }

/-- An engine's completion sets a line full (07 R134). -/
def State.setFull (s : State) (phys : Nat) : State :=
  { s with mem := { s.mem with notFull := s.mem.notFull.filter (· ≠ phys / 64), fullNow := insertNew (phys / 64) s.mem.fullNow } }

def State.markPoison (s : State) (phys : Nat) : State := { s with mem := { s.mem with poison := insertNew (phys / 64) s.mem.poison } }

/-- The access performs whole: all of its units that have not yet. -/
def State.performAt (s : State) (a : Access) (r : Run) (p : Place) : State :=
  match a.kind with
  | .load | .acquire | .ldsync =>
    match s.placeRead p a.width with
    | none => s
    | some (bs, psn) =>
      let full := match p with
        | .hbm x => s.isFull x
        | _ => true
      if a.kind = .ldsync ∧ !full then s
      else
        let got := bytesOfLine a.got
        let bs := bs.zipIdx.map fun (b, i) => if a.units.contains ((p.off + i) / 8) then got.getD i 0 else b
        (s.noteAt (some (s.identity a.run)) p a.width).loadDone a bs (psn || a.psn)
  | .store | .release =>
    -- a store of all 64 bytes clears the poison of its line, also when units of it have met it (07 R146)
    let clears := a.wholeLine p.off && match p with
      | .hbm x => s.poisoned x
      | _ => false
    (s.storeRuns (if a.units.isEmpty || clears then a else a.rest p.off) r p).doneToken a
  | .snapshot =>
    if s.ord.accs.any (fun b => b.rid == a.rid && b.kind == .pin) then s
    else (s.storeAt a r p (bytesOfLine a.data)).finish a (OutItem.part [])
  | .sete =>
    match p with
    | .hbm x => (s.setEmpty x).doneToken a
    | _ => s.doneToken a
  | .atomic o =>
    if (o = 0xBA ∨ o = 0xBB) ∧ a.hops < 2 then s
    else match s.rangeOwner r.slot a.va with
      | some w =>
        let m : OwnMsg := ⟨w.die, r.portOf a.port, a.run, r.slot, .atomic a.id, a.va, 0, 0, 0, w.run, s.cycle, none, []⟩
        let s := { s with ord := { s.ord with ownq := s.ord.ownq ++ [m] } }
        s.modAcc a.id fun x => { x with stage := .owner }
      | none => (s.noteAt (some (s.identity a.run)) p a.width).atomicAt a r p
  | .waita =>
    match s.placeRead p 4 with
    | none => s
    | some (bs, psn) => (s.noteAt (some (s.identity a.run)) p 4).waitaAt a p (BitVec.ofNat 32 (bytesNat bs)) psn true
  | .wakea =>
    match p with
    | .hbm x => s.wakeaAt a x
    | _ => s.wakeaDone a 0
  | .pin =>
    match p with
    | .hbm x => s.pinAt a r x
    | _ => s
  | .unpin => s.unpinAt a r
  | _ => s

/-- A host write behind the line in hand, none behind its last. -/
def HostItem.advance (h : HostItem) : Option HostItem :=
  let n := min h.bytes.length (64 - h.b % 64)
  if h.bytes.length ≤ n then none else some { h with b := h.b + n, bytes := h.bytes.drop n, sent := false }

/-- The line in hand of a host write has performed, or is dropped; a write without a further line leaves the queue. -/
def State.hostAdvance (s : State) (id : Nat) : State :=
  { s with ord := { s.ord with hostq := s.ord.hostq.filterMap fun h => if h.id = id then h.advance else some h } }

/-- The first write of the host ingress queue performs its next line (24 R381, R158): in queue order (R163). A line that its context does
not translate is dropped. -/
def State.performHost (s : State) (id : Nat) : State :=
  match s.ord.hostq.find? fun h => h.write with
  | none => s
  | some h =>
    if h.id ≠ id ∨ h.sent then s else
      match s.vplace h.a h.b true with
      | .error _ => s.hostAdvance id
      | .ok p =>
        let bs := h.bytes.take (64 - h.b % 64)
        match p with
        | .remote m x g => match s.request 3 m g x 0 1 bs.length (lineOf bs) (.host id) none with
          | none => s
          | some t => { t with ord := { t.ord with hostq := t.ord.hostq.map fun x => if x.id = id then { x with sent := true } else x } }
        | _ =>
          if !(s.conflicts (placeKey p) true none).isEmpty then s
          else
            let die := match p with
              | .hbm x => homeDie x
              | _ => 0
            (s.storeBy ⟨die, h.a, h.b, none, []⟩ p bs).hostAdvance id

/-- PERFORM of an access. -/
def State.performAcc (s : State) (a : Access) : State :=
  match s.run? a.run with
  | none => s
  | some r =>
    if a.stage ≠ .pending then s
    else match a.kind with
      | .fence sc => if s.fenceReady r a sc then s.doneToken a else s
      | .xfer | .stash | .unstash | .send | .postr | .probeq | .cancelr => s.requestAt a r
      | .egress => s.egressAt a r
      | _ =>
        match a.place with
        | none => s
        | some p =>
          let self := if a.wave.isSome then some a.blk else none
          if !(s.conflicts (placeKey p) a.kind.writes self).isEmpty then s
          else match a.wave, p with
            | some k, .hbm _ => s.waveAt a r p k
            | some k, .host _ => s.waveAt a r p k
            | some k, .remote _ _ _ => s.waveAt a r p k
            | none, .remote m x g => s.sendRemote a m x g
            | none, _ => s.performAt a r p

/-- A line of bytes that is a relation header or a stash descriptor: a unit of its own. -/
def wholeUnit (l : Line) : Bool := !hdrBad l || !stashBad l

/-- One aligned 8-byte unit of an access to several units of a line performs (R159). A header and a stash descriptor, read or written, is
one unit as a whole line (06 R105, 07 R143); accesses of a wave perform whole. -/
def State.performUnit (s : State) (a : Access) (u : Nat) : State :=
  match s.run? a.run, a.place with
  | some r, some p =>
    let off := p.off
    let us := a.unitsOf off
    let line := match s.placeRead (p.plus 0) a.width with
      | some (bs, _) => lineOf bs
      | none => 0
    let whole := a.width == 64 && (wholeUnit line || (a.kind.writes && wholeUnit a.data))
    if a.stage ≠ .pending ∨ 64 < off + a.width ∨ a.wave.isSome ∨ !us.contains u ∨ a.units.contains u ∨ us.length = 1 ∨ whole then s
    else if !(s.conflicts (placeKey p) a.kind.writes none).isEmpty then s
    else
      let (lo, n) := a.unitSpan off u
      let last := a.units.length + 1 = us.length
      match a.kind, s.placeRead (p.plus lo) n with
      | .load, some (bs, psn) | .acquire, some (bs, psn) =>
        if last then s.performAt a r p
        else s.modAcc a.id fun y => { y with
          units := u :: y.units, got := y.got ||| BitVec.ofNat 512 (bytesNat bs * 2 ^ (8 * lo)), psn := y.psn || psn }
      | .store, some _ | .release, some _ =>
        if last then s.performAt a r p
        else
          let clears := a.wholeLine off && match p with
            | .hbm x => s.poisoned x
            | _ => false
          let one := { a with enable := a.enable &&& BitVec.ofNat 64 ((2 ^ n - 1) * 2 ^ lo) }
          (if clears then s else s.storeRuns one r p).modAcc a.id fun y => { y with units := u :: y.units }
      | _, _ => s
  | _, _ => s

/-! ## Combining points (R165, R166, R407) -/

/-- The points that a fetch-and-add meets: its own die's switch port, then, off the die, the module-switch port. -/
def State.pointsOf (s : State) (die slot va : Nat) (p : Place) : List Nat :=
  match s.rangeOwner slot va with
  | some o => if o.die = die then [die * 32 + 2] else [die * 32 + 3, 512 + o.die]
  | none => match p with
    | .hbm x => if homeDie x = die then [die * 32 + stackOf x % 2] else [die * 32 + 3, 512 + homeDie x]
    | .remote m _ _ => [die * 32 + 3, 1024 + m]
    | .host _ => [die * 32 + 3, 2048]

def State.rec? (s : State) (id : Nat) : Option BoomRec := s.ord.boom.find? fun b => b.id == id

def State.modRec (s : State) (id : Nat) (f : BoomRec → BoomRec) : State :=
  { s with ord := { s.ord with boom := s.ord.boom.map fun b => if b.id = id then f b else b } }

/-- Same-cycle arrivals stand in ascending order of input. -/
def insertMember (m : Requester × W64 × Nat × Nat) (l : List (Requester × W64 × Nat × Nat)) : List (Requester × W64 × Nat × Nat) :=
  let after := (l.reverse.takeWhile fun x => x.2.2.1 == m.2.2.1 && decide (m.2.2.2 < x.2.2.2)).length
  l.take (l.length - after) ++ [m] ++ l.drop (l.length - after)

/-- The sum of a record's increments. -/
def BoomRec.sum (b : BoomRec) : W64 := b.members.foldl (fun v m => v + m.2.1) 0

/-- Two ATREQ flits combine only under one GRANT (24 R388). -/
def sameGrant (who : Requester) (m : Requester × W64 × Nat × Nat) : Bool :=
  match who, m.1 with
  | .flit _ f, .flit _ g => f.grant == g.grant
  | _, _ => true

/-- An open record for the address at the point that the requester may join, or none. -/
def State.openRec (s : State) (point : Nat) (p : Place) (op : Nat) (who : Requester) : Option BoomRec :=
  s.ord.boom.find? fun b => b.point == point && b.place == p && b.op == op && !b.closed && decide (b.members.length < 8)
    && decide (s.cycle < b.opened + 8) && b.members.all (sameGrant who)

/-- The point has a free record. -/
def State.tableRoom (s : State) (point : Nat) : Bool := decide ((s.ord.boom.filter fun b => b.point == point).length < 64)

/-- A request meets a point: it joins the open record, opens one, or passes (none). -/
def State.meet (s : State) (point slot va op n : Nat) (p : Place) (who : Requester) (inc : W64) (input : Nat) : Option State :=
  let m := (who, inc, s.cycle, input)
  match s.openRec point p op who with
  | some b =>
    some (s.modRec b.id fun b =>
      let ms := insertMember m b.members
      { b with members := ms, nreq := b.nreq + n, closed := decide (8 ≤ ms.length) })
  | none =>
    if s.tableRoom point then
      let (id, s) := s.fresh
      let b : BoomRec :=
        { id := id, point := point, place := p, slot := slot, va := va, op := op, members := [m], opened := s.cycle, closed := false
          nreq := n, sent := false, reply := none, lost := false, psn := false }
      some { s with ord := { s.ord with boom := s.ord.boom ++ [b] } }
    else none

/-- The points still before a record. -/
def State.nextPoint (s : State) (b : BoomRec) : Option Nat :=
  if b.point < 512 then (s.pointsOf (b.point / 32) b.slot b.va b.place)[1]? else none

/-- A fetch-and-add, by its access, or a combined request, by its record, reaches its next combining point. -/
def State.faddArrival (s : State) (id : Nat) : State :=
  match s.acc? id with
  | some a =>
    match s.run? a.run, a.place with
    | some r, some p =>
      if a.stage ≠ .pending ∨ !(a.op == 0xBA || a.op == 0xBB) ∨ a.wave.isSome then s
      else match (s.pointsOf r.die r.slot a.va p)[a.hops]? with
        | none => s.modAcc id fun x => { x with hops := 2 }
        | some pt =>
          -- inputs of the first point are the die's port tiles, of a further one the dies (R407)
          match s.meet pt r.slot a.va a.op 1 p (.acc id) (a.data.setWidth 64) (if a.hops = 0 then r.portOf a.port else r.die) with
          | some t => t.modAcc id fun x => { x with stage := .combining, hops := x.hops + 1 }
          | none => s.modAcc id fun x => { x with hops := x.hops + 1 }
    | _, _ => s
  | none =>
    match s.rec? id with
    | none => s
    | some b =>
      if !b.closed ∨ b.sent then s
      else match s.nextPoint b with
        | none => s
        | some pt =>
          match s.meet pt b.slot b.va b.op b.nreq b.place (.boom id) b.sum (b.point / 32) with
          | some t => t.modRec id fun b => { b with sent := true }
          | none => s

def execFaddArrival (acc : Nat) (s : State) : Out := .next (s.faddArrival acc)

/-- The window of a record ends and its combined request leaves. -/
def State.windowClose (s : State) (point id : Nat) : State :=
  match s.rec? id with
  | none => s
  | some b => if b.point = point ∧ !b.closed ∧ b.opened + 8 ≤ s.cycle then s.modRec id fun b => { b with closed := true } else s

def execBoomWindowClose (point id : Nat) (s : State) : Out := .next (s.windowClose point id)

/-- The accesses whose adds a record carries, those of its members' records among them; `fuel` levels. -/
def State.addersOf (s : State) : Nat → Nat → List Nat
  | 0, _ => []
  | fuel + 1, id => match s.rec? id with
    | none => []
    | some b => b.members.flatMap fun m => match m.1 with
      | .acc i => [i]
      | .boom i => s.addersOf fuel i
      | _ => []

/-- Adds the sum of a record to its word; a poisoned word performs nothing. -/
def State.addRec (s : State) (b : BoomRec) : State :=
  let w := if b.op = 0xBB then 8 else 4
  match s.placeRead b.place w with
  | none => s
  | some (bs, psn) =>
    if psn then s.modRec b.id fun x => { x with sent := true, reply := some 0, psn := true }
    else
      let old := BitVec.ofNat 64 (bytesNat bs)
      let (new, _) := atomicNew b.op 9 old b.sum 0
      -- every run whose add the record carries stores
      let who := (s.addersOf 8 b.id).filterMap fun i => (s.acc? i).map fun a => (a.run, a.port)
      let die := match b.place with
        | .hbm x => homeDie x
        | _ => 0
      let s := (s.noteAt none b.place w).storeBy ⟨die, b.slot, b.va, none, who⟩ b.place (natBytes w new.toNat)
      s.modRec b.id fun x => { x with sent := true, reply := some old }

/-- The combined request performs once at the perform point, or leaves for the owner node or the other module. It performs
without a further point when that point's table has no room and no open record for it. -/
def State.performRec (s : State) (point id : Nat) : State :=
  match s.rec? id with
  | none => s
  | some b =>
    let pass := match s.nextPoint b with
      | none => true
      | some pt => (s.openRec pt b.place b.op (.boom b.id)).isNone && !s.tableRoom pt
    if b.point ≠ point ∨ !b.closed ∨ b.sent ∨ !pass then s
    else if !(s.conflicts (placeKey b.place) true none).isEmpty then s
    else match s.rangeOwner b.slot b.va with
      | some o =>
        let first := b.members.findSome? fun m => match m.1 with
          | .acc i => s.acc? i
          | _ => none
        let input := (b.members.head?.map (·.2.2.2)).getD 0
        let m : OwnMsg := ⟨o.die, input, (first.map (·.run)).getD 0, b.slot, .combined id, b.va, 0, 0, 0, o.run, s.cycle, none, []⟩
        let s := { s with ord := { s.ord with ownq := s.ord.ownq ++ [m] } }
        s.modRec id fun b => { b with sent := true }
      | none => match b.place with
        | .remote m x g =>
          match s.request 5 m g x b.op b.nreq 17 (b.sum.setWidth 512 ||| BitVec.ofNat 512 (9 * 2 ^ 128)) (.boom id) none with
          | some t => t.modRec id fun b => { b with sent := true }
          | none => s
        | _ => s.addRec b

/-- SPLIT: requester j receives the old value plus the increments before it (R165); a lost record gives each the old value it
received, with status LOST (R166). -/
def State.split (s : State) (point id : Nat) : State :=
  match s.rec? id with
  | none => s
  | some b =>
    if b.point ≠ point then s
    else match b.reply with
      | none => s
      | some old =>
        let s := { s with ord := { s.ord with boom := s.ord.boom.filter fun x => x.id != id } }
        (b.members.foldl (fun (acc : State × W64) m =>
          let v := if b.lost then old else acc.2
          let s := acc.1
          let s := match m.1 with
            | .acc i => match s.acc? i with
              | some a => s.atomDone a (if a.width = 4 then (v.setWidth 32).setWidth 64 else v) b.lost b.psn
              | none => s
            | .boom i => s.modRec i fun x => { x with reply := some v, lost := x.lost || b.lost, psn := b.psn }
            | .flit _ f =>
              let w := if b.op = 0xBB then 8 else 4
              s.replyFlit 6 f (if b.psn then 3 else if b.lost then 1 else 0) 0 w (BitVec.ofNat 512 (v.toNat % 2 ^ (8 * w)))
            | _ => s
          (s, acc.2 + m.2.1)) (s, old)).1

def execSplit (point id : Nat) (s : State) : Out := .next (s.split point id)

def State.perform (s : State) (p : PerfRef) : State :=
  match p with
  | .whole id =>
    match s.acc? id with
    | some a => s.performAcc a
    | none => s.performHost id
  | .unit id u =>
    match s.acc? id with
    | some a => s.performUnit a u
    | none => s
  | .record point id => s.performRec point id

def execPerform (p : PerfRef) (s : State) : Out := .next (s.perform p)

/-! ## Waves (03 R51 to R53) -/

def State.blk? (s : State) (b : BlkRef) : Option Blk :=
  match s.run? b.run with
  | none => none
  | some r => (r.load? b.plane b.load).bind (·.blks[b.blk]?)

/-- COMMIT: every instruction of the oldest wave has fired and its accesses are held; all its writes perform together, its flags are raised
and its tokens leave the block, those for the host through their issue queue. A serialised wave gives the lock back. -/
def State.commit (s : State) (b : BlkRef) : State :=
  match s.run? b.run, s.blk? b with
  | some r, some x =>
    let k := x.committed
    let mine := s.ord.accs.filter fun a => a.blk == b && a.wave == some k
    if r.st ≠ .resident ∨ !x.tx ∨ (s.wave? b k).isNone ∨ !(x.elems.all fun e => decide (k < e.fires))
        ∨ !(mine.all fun a => a.stage == .done || a.kind == .egress) then s
    else
      let ext := ((s.wave? b k).map (·.ext)).getD []
      let flags := ((s.wave? b k).map (·.flags)).getD 0
      let s := mine.foldl (fun s a => match a.kind, a.place with
        | .egress, _ => s.modAcc a.id fun y => { y with wave := none }
        | _, some (.remote m p g) =>
          (s.modAcc a.id fun y => { y with wave := none, stage := .pending }).sendRemote { a with wave := none } m p g
        | _, some p => (s.storeRuns a r p).dropAcc a.id
        | _, none => s.dropAcc a.id) s
      let own := x.serial == some k
      let s := s.modBlk b fun y => { y with
        committed := k + 1
        aborts := 0
        serial := if own then none else y.serial
        elems := y.elems.map fun e => { e with snaps := e.snaps.filter fun w => decide (k < w.wave) } }
      let s := s.modDie r.die fun d => if own && d.lock == some b then { d with lock := none } else d
      let s := { s with ord := { s.ord with waves := s.ord.waves.filter fun w => !(w.blk == b && w.k == k) } }
      ext.foldl (fun s e => s.pushOut b.run e.1 e.2) (s.raise b.run flags)
  | _, _ => s

def execCommit (b : BlkRef) (s : State) : Out := .next (s.commit b)

/-- Some agent waits to write a line of the wave, or to read one that it has written. -/
def State.waveHit (s : State) (b : BlkRef) (k : Nat) : Bool :=
  match s.wave? b k with
  | none => false
  | some w =>
    let hits (key : Nat) (write : Bool) : Bool := w.lines.any fun l => l.addr == key && (write || l.wrote)
    s.ord.accs.any (fun a => (a.stage == .pending || a.stage == .owner) && a.blk != b && (match a.place with
        | some p => hits (placeKey p) a.kind.writes
        | none => false))
      || s.ord.wbuf.any (fun e => match s.vplace e.slot e.va true with
        | .ok p => hits (placeKey p) true
        | .error _ => false)
      || s.ord.boom.any (fun x => x.closed && !x.sent && hits (placeKey x.place) true)
      || s.ord.hostq.any (fun h => h.write && (match s.vplace h.a h.b true with
        | .ok p => hits (placeKey p) true
        | .error _ => false))

/-- An access of the wave needs one line more than the commit unit holds. -/
def State.waveFull (s : State) (b : BlkRef) (k die : Nat) : Bool :=
  decide (16 ≤ s.heldLines die) && s.ord.accs.any fun a => a.stage == .pending && a.blk == b && a.wave == some k && (match a.place with
    | some p => !s.hasLine b k (placeKey p)
    | none => false)

/-- A wave aborts with every later one of its block (R52); conflicts and capacity overflows count, the fourth runs serialised
(R53). -/
def State.txAbort (s : State) (b : BlkRef) (k : Nat) (c : TxCause) : State :=
  match s.run? b.run, s.wave? b k with
  | some r, some w =>
    match c with
    | .preempt => if r.st = .frozen then s.dropWaves b k else s
    | .lineError => s.dropWaves b k
    | .conflict => if r.st = .resident ∧ !s.serialised w ∧ s.waveHit b k then s.countAbort b k else s
    | .capacity =>
      if r.st ≠ .resident ∨ !s.waveFull b k r.die then s
      else if s.serialised w then
        -- a serialised wave that alone needs more than sixteen lines traps at its first firing
        if 16 ≤ w.lines.length then
          let e : ElemRef := ⟨b.run, b.plane, b.load, b.blk, w.first⟩
          (s.dropWaves b k).takeTrap b.run .txcap (s.elemInfo e Trap.txcap.code 1)
        else s
      else s.countAbort b k
  | _, _ => s

def execTxAbort (b : BlkRef) (k : Nat) (c : TxCause) (s : State) : Out := .next (s.txAbort b k c)

/-! ## The phase gate (R157) -/

/-- GATE of a run: every access of the configuration before it has performed, and every engine write of its requests. It opens also while
the run is frozen. A pinned write is reported as WPINNED (07 R138), by a run that can take the trap. -/
def State.gateOpen (s : State) (run g : Nat) : State :=
  match s.run? run with
  | none => s
  | some r =>
    match r.gates.find? fun x => x.1 == g with
    | none => s
    | some (n, c) =>
      let mine (serial : Nat) (e : ElemRef) : Bool :=
        decide (serial ≤ n) && (c.isNone || ((s.site e).map (·.load.cfg)) == c)
      if s.ord.accs.any (fun a => a.run == run && mine a.serial a.elem)
          || s.ord.reqs.any (fun q => q.run == run && q.willWrite && mine q.serial q.elem)
          || s.ord.wbuf.any (fun w => w.run == run && mine w.serial w.elem)
          || (r.pinned.isSome && r.st != .resident) then s
      else
        let s := s.modRun run fun r => { r with gates := r.gates.filter fun x => x.1 != g, pinned := none }
        match r.pinned with
        | none => s
        | some (port, va) => s.takeTrap run .wpinned { FaultInfo.base Trap.wpinned.code 1 with va := va, port := port }

def execPhaseGateOpen (run g : Nat) (s : State) : Out := .next (s.gateOpen run g)

/-! ## Owner nodes (06 R118, 08 R167) -/

/-- Replaces the first occurrence. -/
def setFirst {α : Type} [DecidableEq α] (x y : α) : List α → List α
  | [] => []
  | z :: zs => if z = x then y :: zs else z :: setFirst x y zs

/-- Removes the first occurrence. -/
def State.popOwn (s : State) (m : OwnMsg) : State := { s with ord := { s.ord with ownq := s.ord.ownq.erase m } }

/-- One update applied counts in the run that holds the binding. -/
def State.countApplied (s : State) (run : Nat) : State := s.modRun run fun r => { r with applied := r.applied + 1 }

/-- The next message of an input reaches its owner node. In one cycle they do so in ascending order of input: not after one that came
this cycle on a higher input has been applied (06 R118, 08 R167). -/
def State.ownerArrive (s : State) (die input : Nat) : State :=
  let late := match (s.die die).applied with
    | some (c, a, i) => c == s.cycle && a == s.cycle && decide (input < i)
    | none => false
  match s.ord.ownq.find? fun m => m.die == die && m.input == input && m.arrived.isNone with
  | none => s
  | some m => if late then s else { s with ord := { s.ord with ownq := setFirst m { m with arrived := some s.cycle } s.ord.ownq } }

/-- The message that the owner node of a die takes next: the first to arrive, by input among those of one cycle, first in first out on each
input. -/
def State.ownerNext (s : State) (die : Nat) : Option OwnMsg :=
  (s.ord.ownq.filter fun m => m.die == die && m.arrived.isSome).foldl (fun best m => match best with
    | none => some m
    | some b =>
      let ca := m.arrived.getD 0
      let cb := b.arrived.getD 0
      if ca < cb ∨ (ca = cb ∧ m.input < b.input) then some m else best) none

/-- The node is done with a message: it has had its one of this cycle. -/
def State.ownerTook (s : State) (m : OwnMsg) : State :=
  (s.popOwn m).modDie m.die fun d => { d with applied := some (s.cycle, m.arrived.getD 0, m.input) }

/-- The writes of an update perform one by one (08 R158); waves that hold their lines abort, a serialised one makes them wait. With the
last of them the update is applied. -/
def State.ownerWrites (s : State) (m : OwnMsg) : State :=
  match m.todo with
  | [] => (s.popOwn m).countApplied m.holder
  | (p, bs) :: rest => match s.yieldTo [(placeKey p, true)] with
    | none => s
    | some s =>
      let s := (s.writeAt p bs).1
      if rest.isEmpty then (s.popOwn m).countApplied m.holder
      else { s with ord := { s.ord with ownq := setFirst m { m with todo := rest } s.ord.ownq } }

/-- An update of a relation at its owner node. -/
def State.ownerUpdate (s : State) (m : OwnMsg) : State :=
  let bound := (s.relOwner m.slot m.rel).any fun o => o.die == m.die && o.run == m.holder
  if !bound then
    -- ORPHAN: discarded, and counted as applied while the run exists (13 R275)
    ((s.ownerTook m).logEvent m.die 0x319 none (some (s.identity m.run)) none none (some m.rel)).countApplied m.holder
  else
    let n := match s.relHdr m.slot m.rel with
      | .ok h => hdrCols h
      | .error _ => 0
    let key := (List.range n).map fun c => fld m.key (32 * c + 31) (32 * c)
    let up : Bool := match s.run? m.holder with
      | some r => r.st == .resident
      | none => false
    match s.relApply m.slot m.rel (m.kind == .insert) key m.wgt m.wit with
    | .done t f =>
      let ws := s.mem.writesTo t.mem
      let s := s.noteRead (some (s.identity m.run)) m.slot m.rel 64
      match ws with
      | [] => (({ s with ord := t.ord }.ownerTook m).raise m.holder f).countApplied m.holder
      | ws =>
        -- what the node itself holds changes at once, the lines of memory follow
        let m' := { m with todo := ws }
        let s := { s with ord := { t.ord with ownq := setFirst m m' t.ord.ownq } }
        let s := (s.modDie m.die fun d => { d with applied := some (s.cycle, m.arrived.getD 0, m.input) }).raise m.holder f
        s.ownerWrites m'
    | .full => if up then s.takeTrap m.holder .relfull { FaultInfo.base Trap.relfull.code 1 with va := m.rel } else s
    | .xlat e => if up then s.supervisorFault m.holder (xlatInfo e m.rel 4 (FaultInfo.base 0 2)) else s
    | .discard => ((s.ownerTook m).logEvent m.die 0x30D none (some (s.identity m.run)) none none (some m.rel)).countApplied m.holder

/-- The owner node of a die takes a message (06 R118, 08 R167): one in a cycle. -/
def State.ownerTake (s : State) (m : OwnMsg) : State :=
  if ((s.die m.die).applied.map (·.1)) = some s.cycle then s
  else match m.kind with
    | .atomic id =>
      match s.acc? id with
      | none => s.popOwn m
      | some a => match s.run? a.run, a.place with
        | some r, some p =>
          if (s.conflicts (placeKey p) true none).isEmpty then ((s.noteAt (some (s.identity a.run)) p a.width).ownerTook m).atomicAt a r p
          else s
        | _, _ => s.popOwn m
    | .combined id =>
      match s.rec? id with
      | none => s.popOwn m
      | some b => if (s.conflicts (placeKey b.place) true none).isEmpty then (s.ownerTook m).addRec b else s
    | _ => s.ownerUpdate m

/-- A step of the owner node of a die: a message reaches it on the input named, if one is under way there; then the writes of an update go
on, or the node takes its next message. -/
def State.ownerApply (s : State) (die input : Nat) : State :=
  let s := s.ownerArrive die input
  match s.ord.ownq.find? fun m => m.die == die && !m.todo.isEmpty with
  | some m => s.ownerWrites m
  | none => match s.ownerNext die with
    | none => s
    | some m => s.ownerTake m

def execOwnerApply (die input : Nat) (s : State) : Out := .next (s.ownerApply die input)

/-! ## WAITA_POLL (13 R277) -/

/-- A poll of a WAITA that holds no entry; a moved epoch completes it at once. -/
def State.waitaPoll (s : State) (id : Nat) : State :=
  match s.acc? id with
  | none => s
  | some a =>
    match a.place with
    | none => s
    | some p =>
      if a.stage ≠ .polling then s
      else
        let moved := match p with
          | .hbm x => s.epoch (homeDie x) (bucketOf a.va) != a.epoch
          | _ => false
        match p, s.placeRead p 4 with
        | .remote m x g, _ => if a.poll ≤ s.cycle then s.sendRemote a m x g else s
        | _, none => s
        | _, some (bs, psn) =>
          let w := BitVec.ofNat 32 (bytesNat bs)
          if moved then s.waitaDone a w psn 1
          else if a.poll ≤ s.cycle then s.waitaAt a p w psn false
          else s

def execWaitaPoll (acc : Nat) (s : State) : Out := .next (s.waitaPoll acc)

/-! ## Host queues (R163, R164) -/

/-- HDELIVER: the head token of an ingress port reaches its run once every host write ahead of it has performed. -/
def State.hdeliver (s : State) (die port : Nat) : State :=
  let mine (h : HostItem) : Bool := !h.write && h.a == die && h.b == port
  match s.ord.hostq.find? mine, s.adm.ports.find? fun p => p.die == die && p.port == port with
  | some h, some p =>
    let ahead := s.ord.hostq.takeWhile fun x => x.id != h.id
    match p.run with
    | none => s
    | some run =>
      if ahead.any (·.write) ∨ (s.run? run).isNone then s
      else
        let s := { s with ord := { s.ord with hostq := s.ord.hostq.filter fun x => x.id != h.id } }
        s.modRun run fun r => { r with inq := r.inq ++ [Token.ofScalarBits (h.word.setWidth 46)] }
  | _, _ => s

def execHdeliver (die port : Nat) (s : State) : Out := .next (s.hdeliver die port)

/-- Writes a ring register. -/
def State.setRing (s : State) (slot n : Nat) (v : BitVec 128) : State :=
  { s with adm := { s.adm with rings := (s.adm.rings.filter fun r => !(r.slot == slot && r.ring == n)) ++ [⟨slot, n, v⟩] } }

/-- One 16-byte posted write of a ring entry (24 R382); the phase bit is 1 on the first pass (log 34). -/
def State.postEntry (s : State) (slot n : Nat) (tok : W64) (identity : Nat) : State :=
  let v := s.ring slot n
  let head := fld v 95 64
  let size := 2 ^ (6 + fld v 3 0)
  let phase := (head / size + 1) % 2
  let at_ := fld v 63 12 * 4096 + 16 * (head % size)
  let bs := natBytes 8 (tok.toNat % 2 ^ 46) ++ natBytes 8 (identity % 2 ^ 24 + phase * 2 ^ 63)
  let s := { s with mem := { s.mem with host := cellWrite s.mem.host at_ bs } }
  s.setRing slot n (BitVec.ofNat 128 (v.toNat - head * 2 ^ 64 + (head + 1) % 2 ^ 32 * 2 ^ 64))

/-- EDELIVER: after every entry-earlier STL and SYSTEM fence of the run, while the ring has room. -/
def State.edeliver (s : State) (slot ring : Nat) : State :=
  match s.ord.egq.find? fun t => t.slot == slot && t.ring == ring with
  | none => s
  | some t =>
    let held := s.ord.accs.any fun a => t.before.contains a.id
    let v := s.ring slot ring
    let full := decide (2 ^ (6 + fld v 3 0) ≤ (fld v 95 64 + 2 ^ 32 - fld v 127 96) % 2 ^ 32)
    if held || full then s
    else
      let s := { s with ord := { s.ord with egq := s.ord.egq.erase t } }
      let s := match t.fault with
        | none => s
        | some d => s.modDie d fun x => { x with unread := x.unread.filter s.isUnread ++ [some (slot, ring, fld v 95 64)] }
      s.postEntry slot ring t.word (s.identity t.run)

def execEdeliver (slot ring : Nat) (s : State) : Out := .next (s.edeliver slot ring)

end Sys2Proof.Machine
end

