-- ==== Sys2Proof/Machine/Sequence.lean ====
section
/-! DEFINITION. The sequence words that need nothing but the escapement: the G-register words, branches, loops, the iteration
counter, stream bindings, escapement inputs and traps by program (03 R32 to R34, R41, 10 R186 to R195, 21 R360). -/

namespace Sys2Proof.Machine

/-! ## How a word issues (03 R32) -/

/-- The escapement issues: the run is resident, or frozen while its handler runs (21 R360). -/
def Run.issues (r : Run) : Bool := r.st == .resident || (r.st == .frozen && r.hold == .handler)

/-- A sequence word of the run in focus. -/
def onWord (s : State) (body : Run → State) : Out :=
  match s.focus with
  | none => .next s
  | some f => match s.run? f.run with
    | none => .next s
    | some r => .next (if r.issues then body r else s)

/-- The word completes with its effect: SQC moves on by one (R186). The last word of the sequence raises SEQRANGE instead, at the
word and with nothing done (03 R33). -/
def State.complWord (s : State) (r : Run) (effect : Run → Run) : State :=
  if r.esc.sqc + 1 < (s.seqOf r).length then s.setRun ((effect r).setSqc (r.esc.sqc + 1)) else s.trapWord r.id .seqrange

def State.nextWord (s : State) (r : Run) : State := s.complWord r id

/-- A word that handler state does not allow raises HNEST (21 R360). -/
def notInHandler (s : State) (r : Run) (go : State) : State := if r.esc.handler.isSome then s.trapWord r.id .hnest else go

/-- Sign extension of IMM38 (R186). -/
def sext38 (imm : BitVec 38) : W64 := imm.signExtend 64

/-! ## The G-register words (R186, R192) -/

/-- Operand b. -/
def gOperand (r : Run) (gc : BitVec 6) (imm : BitVec 38) : W64 := r.getG gc + sext38 imm

/-- G[GA] takes a value and the word completes. -/
def State.writeG (s : State) (r : Run) (ga : BitVec 6) (v : W64) : State := s.complWord r fun r => r.setG ga v

/-- G[GA] := op (G[GB], b). -/
def gWord (op : W64 → W64 → W64) (ga gb gc : BitVec 6) (imm : BitVec 38) (s : State) : Out :=
  onWord s fun r => s.writeG r ga (op (r.getG gb) (gOperand r gc imm))

def execGli (ga : BitVec 6) (imm : BitVec 38) (s : State) : Out := onWord s fun r => s.writeG r ga (sext38 imm)
def execGadd (ga gb gc : BitVec 6) (imm : BitVec 38) (s : State) : Out := gWord (· + ·) ga gb gc imm s
def execGsub (ga gb gc : BitVec 6) (imm : BitVec 38) (s : State) : Out := gWord (· - ·) ga gb gc imm s
def execGand (ga gb gc : BitVec 6) (imm : BitVec 38) (s : State) : Out := gWord (· &&& ·) ga gb gc imm s
def execGor (ga gb gc : BitVec 6) (imm : BitVec 38) (s : State) : Out := gWord (· ||| ·) ga gb gc imm s
def execGxor (ga gb gc : BitVec 6) (imm : BitVec 38) (s : State) : Out := gWord (· ^^^ ·) ga gb gc imm s

/-- Shift amount: bits 5 to 0 of b. -/
def shiftAmount (b : W64) : Nat := fld b 5 0

def execGshl (ga gb gc : BitVec 6) (imm : BitVec 38) (s : State) : Out := gWord (fun a b => a <<< shiftAmount b) ga gb gc imm s
def execGshr (ga gb gc : BitVec 6) (imm : BitVec 38) (s : State) : Out := gWord (fun a b => a >>> shiftAmount b) ga gb gc imm s
def execGslt (ga gb gc : BitVec 6) (imm : BitVec 38) (s : State) : Out := gWord (fun a b => if a.slt b then 1 else 0) ga gb gc imm s

/-! ## Branches (03 R33, 10 R191) -/

/-- Goes to SQC + off; a target outside the sequence raises SEQRANGE at the word. -/
def State.branch (s : State) (r : Run) (off : BitVec 38) : State :=
  let t : Int := r.esc.sqc + off.toInt
  if t < 0 ∨ ((s.seqOf r).length : Int) ≤ t then s.trapWord r.id .seqrange else s.setRun (r.setSqc t.toNat)

def execBr (off : BitVec 38) (s : State) : Out := onWord s fun r => s.branch r off
def execBrz (ga : BitVec 6) (off : BitVec 38) (s : State) : Out :=
  onWord s fun r => if r.getG ga = 0 then s.branch r off else s.nextWord r
def execBrnz (ga : BitVec 6) (off : BitVec 38) (s : State) : Out :=
  onWord s fun r => if r.getG ga ≠ 0 then s.branch r off else s.nextWord r

/-! ## Loops and the iteration counter (03 R34, R41, 10 R190) -/

/-- The count of ITER and LOOP: from G[GB] unless GB is G0. -/
def countOf (r : Run) (gb : BitVec 6) (imm : Nat) : Nat := if gb = 0 then imm else (r.getG gb).toNat

/-- Goes on at a place of the sequence; past its end SEQRANGE is raised at the word. -/
def State.goto (s : State) (r : Run) (q : Nat) : State :=
  if q < (s.seqOf r).length then s.setRun (r.setSqc q) else s.trapWord r.id .seqrange

/-- The matching ENDL that the loader recorded. -/
def State.endlOf (s : State) (r : Run) : Nat :=
  (((s.image? r).bind fun i => i.loops.find? fun p => p.1 == r.esc.sqc).map (·.2)).getD r.esc.sqc

/-- LOOP. A count of zero pushes nothing and continues after the matching ENDL. DESIGN CHOICE (log 117): it does so with eight entries on the
stack too, where R34 gives both this and SEQOVF. -/
def State.loopWord (s : State) (r : Run) (gb : BitVec 6) (kind depth count : Nat) : State :=
  let n := countOf r gb count
  if 2 ^ 32 ≤ n then s.trapWord r.id .seqrange
  else if n = 0 then s.goto r (s.endlOf r + 1)
  else if 8 ≤ r.esc.loops.length then s.trapWord r.id .seqovf
  else
    let top : LoopLevel := ⟨n, r.esc.sqc + 1, kind, depth + 1, r.esc.pushes + 1⟩
    s.complWord r fun r => { r with esc := { r.esc with loops := top :: r.esc.loops, pushes := r.esc.pushes + 1 } }

/-- ENDL. A trap leaves the stack unchanged. -/
def State.endlWord (s : State) (r : Run) : State :=
  match r.esc.loops with
  | [] => s.trapWord r.id .sequnf
  | top :: rest =>
    if 1 < top.count then
      s.setRun ({ r with esc := { r.esc with loops := { top with count := top.count - 1 } :: rest } }.setSqc top.ret)
    else s.complWord r fun r => { r with esc := { r.esc with loops := rest } }

def execEndl (s : State) : Out := onWord s fun r => s.endlWord r

/-- ITER: the iteration-space counter takes the count; nothing of it is completed. -/
def State.iterWord (s : State) (r : Run) (gb : BitVec 6) (count : Nat) : State :=
  let n := countOf r gb count
  if n = 0 ∨ 2 ^ 38 ≤ n then s.trapWord r.id .seqrange
  else s.complWord r fun r => { r with esc := { r.esc with iterCount := n, iterDone := 0 } }

def execIter (gb : BitVec 6) (count : BitVec 38) (s : State) : Out :=
  onWord s fun r => notInHandler s r (s.iterWord r gb count.toNat)

/-! ## Stream bindings (10 R187 to R189) -/

/-- The binding that a stream-table entry describes, with the value of G[GB] added to its base. -/
def bindingOf (e : Line) (offset : W64) : Binding :=
  let n := fld e 392 390
  { base := fld e 56 0
    offset := offset
    nloop := n
    dir := e.getLsbD 389
    chan := fld e 388 384
    counts := (List.range n).map fun k => fld e (64 * k + 95) (64 * k + 64)
    strides := (List.range n).map fun k => (e.extractLsb' (64 * k + 96) 32).toInt
    pos := 0
    ended := false }

/-- A binding joins its generator: active when none is, pending behind at most two others; none: the scoreboard is full. -/
def Gen.bindNew (g : Gen) (b : Binding) : Option Gen :=
  match g.active with
  | none => some ⟨some b, []⟩
  | some a =>
    if a.ended && g.pending.isEmpty then some ⟨some b, []⟩
    else if g.pending.length < 3 then some ⟨some a, g.pending ++ [b]⟩
    else none

/-- The generator that a STREAM word names, with the word's binding; the loader lets no entry beyond the table and no port beyond the image's
pass (R187). -/
def State.boundGen (s : State) (r : Run) (gb : BitVec 6) (port gen entry : Nat) : Option (Option Gen) :=
  match (s.image? r).bind (·.streams[entry]?), (r.region.gens[port]?).bind (·[gen]?) with
  | some e, some g => some (g.bindNew (bindingOf e (r.getG gb)))
  | _, _ => none

def Run.setGen (r : Run) (port gen : Nat) (g : Gen) : Run :=
  { r with region := { r.region with gens := modAt (fun l => setAt l gen g) r.region.gens port } }

/-- STREAM. -/
def State.streamWord (s : State) (r : Run) (gb : BitVec 6) (port gen entry : Nat) : State :=
  match s.boundGen r gb port gen entry with
  | none => s.nextWord r
  | some none => s.trapWord r.id .strqfull
  | some (some g) => s.complWord r fun r => r.setGen port gen g

def execStream (gb : BitVec 6) (port : BitVec 4) (gen : BitVec 2) (entry : BitVec 16) (s : State) : Out :=
  onWord s fun r => notInHandler s r (s.streamWord r gb port.toNat gen.toNat entry.toNat)

/-! ## Escapement inputs and traps (R193, R195) -/

/-- WAITTOK: one position of Ee; an elided one reads as a +0 DATA token. -/
def State.waitTok (s : State) (r : Run) (ga : BitVec 6) (e : Nat) : State :=
  let q := r.esc.e.getD e []
  match headPos q with
  | none => s
  | some p =>
    let v : W64 := BitVec.ofNat 64 (p.mark.code * 2 ^ 32 + p.word.toNat)
    s.complWord r fun r => { r with esc := { r.esc with e := setAt r.esc.e e (popPos q) } }.setG ga v

def execWaittok (ga : BitVec 6) (e : BitVec 3) (s : State) : Out := onWord s fun r => s.waitTok r ga e.toNat

/-- TRAPS raises SEQTRAP with its code; in handler state code 0xFFFF ends it and any other raises HNEST (21 R360). -/
def State.trapsWord (s : State) (r : Run) (code : Nat) : State :=
  if r.esc.handler.isSome then (if code = 0xFFFF then s.endHandler r.id else s.trapWord r.id .hnest)
  else s.takeTrap r.id .seqtrap { FaultInfo.atWord .seqtrap with aux := code }

def execTraps (code : BitVec 16) (s : State) : Out := onWord s fun r => s.trapsWord r code.toNat

end Sys2Proof.Machine
end

