-- ==== Sys2Proof/Machine/Image.lean ====
section
/-! DEFINITION. The run image as the graph loader reads it: image header, table headers, configuration-table entries, block headers
(09 R168 to R172, R403, R408, 20 R338). -/

namespace Sys2Proof.Machine

/-- A load fault at a place. -/
def fault3 (c : LoadCode) (block index : Nat) : LoadFault := ⟨c, block, index⟩

/-- Fault `f` when a condition holds. -/
def faultIf (c : Bool) (f : LoadFault) : Option LoadFault := if c then some f else none

/-- The first fault of a list of checks in their order (R181). -/
def firstFault (l : List (Option LoadFault)) : Option LoadFault := l.findSome? id

/-- Reads bytes of an image, by offset: none where memory cannot be read or is poisoned. -/
abbrev ImgRead := Nat → Nat → Option (List Byte)

def State.imgRead (s : State) (slot va : Nat) : ImgRead := fun off n =>
  match s.vread slot (va + off) n with
  | .ok (bs, false) => some bs
  | _ => none

/-- The 64-bit word at a byte offset of a list of bytes. -/
def word64 (bs : List Byte) (off : Nat) : W64 := wordOfBytes ((bs.drop off).take 8)

def word32 (bs : List Byte) (off : Nat) : W32 := BitVec.ofNat 32 (bytesNat ((bs.drop off).take 4))

def allZero (bs : List Byte) : Bool := bs.all (· == 0)

/-- The next multiple of 64. -/
def align64 (n : Nat) : Nat := (n + 63) / 64 * 64

/-! ## The image header (20 R338) -/

structure ImgHdr where
  pgh   : Nat
  pgw   : Nat
  nport : Nat
  /-- Sequence, configuration table, stream table, relation lists, group table, data contents. -/
  offs  : List Nat
  dlen  : Nat
  dva   : Nat
  deriving DecidableEq, Repr

/-- The header of an image at a virtual address, checked. -/
def readHeader (rd : ImgRead) (va : Nat) : Except LoadCode ImgHdr :=
  match rd 0 64 with
  | none => .error .badhdr
  | some bs =>
    let h := lineOf bs
    let offs := (List.range 6).map fun k => fld h (320 + 32 * k + 31) (320 + 32 * k)
    let bad := va % 64 != 0 || fld h 63 60 != 1 || fld h 48 0 != 0 || fld h 191 64 != 0 || fld h 287 249 != 0
      || offs.any (fun o => o % 64 != 0) || fld h 248 192 % 4096 != 0 || decide (5 < fld h 59 57)
    if bad then .error .badhdr
    else if 16 < fld h 53 49 then .error .badsite
    else .ok ⟨fld h 59 57, fld h 56 54, fld h 53 49, offs, fld h 319 288, fld h 248 192⟩

/-- Pages of the region. -/
def ImgHdr.pages (h : ImgHdr) : Nat := (h.pgh + 1) * (h.pgw + 1)

/-! ## Tables (R408) -/

/-- Entries of the table at an offset. -/
def tableCount (rd : ImgRead) (off : Nat) : Option Nat :=
  match rd off 64 with
  | none => none
  | some bs => if allZero (bs.drop 4) then some (word32 bs 0).toNat else none

/-- A table of entries of one size: its entries' bytes, and the offset past them. -/
def readTable (rd : ImgRead) (off size : Nat) : Option (List (List Byte) × Nat) :=
  match tableCount rd off with
  | none => none
  | some n => match rd (off + 64) (size * n) with
    | none => none
    | some bs => some ((List.range n).map fun i => (bs.drop (size * i)).take size, off + 64 + size * n)

/-- Offsets and lengths of the entries of the configuration table from `off` on, and the offset past them. -/
def cfgEntries (rd : ImgRead) : Nat → Nat → Option (List (Nat × Nat) × Nat)
  | 0, off => some ([], off)
  | n + 1, off =>
    match rd (off + 8) 4 with
    | none => none
    | some bs =>
      let len := bytesNat bs
      if len < 0x180 then none
      else match cfgEntries rd n (align64 (off + len)) with
        | none => none
        | some (rest, last) => some ((off, len) :: rest, last)

/-- Offset and length of every entry of the configuration table, and the offset past them. -/
def cfgTable (rd : ImgRead) (h : ImgHdr) : Option (List (Nat × Nat) × Nat) :=
  let off := h.offs.getD 1 0
  match tableCount rd off with
  | none => none
  | some n => cfgEntries rd n (off + 64)

/-- Two of the spans share a byte. -/
def spansMeet : List (Nat × Nat) → Bool
  | [] => false
  | (a, b) :: rest => rest.any (fun x => decide (a < x.2) && decide (x.1 < b)) || spansMeet rest

/-! ## A configuration-table entry (R403) -/

/-- PLACE is well formed for the entry and the region. -/
def placeOk (nblk pages x : Nat) : Bool :=
  x / 4096 % 8 == 0 && (if x / 2 ^ 15 = 1 then decide (x % 64 < pages) else decide (x % 256 < nblk))

def carveWordsOk (nblk pages : Nat) (w : W64 × W64) : Bool :=
  let a := w.1
  let b := w.2
  let link := fld b 63 26 == 0 && fld b 23 23 == 0
  placeOk nblk pages (fld a 15 0) && fld a 23 19 == 0 && fld a 31 31 == 0 && fld a 63 40 == 0
    && (match fld a 17 16 with
        | 0 => b == 0
        | 1 => link && fld b 7 4 == 0
        | 2 => link && fld b 7 0 == 0
        | _ => true)

def vkWordsOk (nblk pages : Nat) (l : List W64) : Bool :=
  let a := l.getD 0 0
  placeOk nblk pages (fld a 15 0) && fld a 63 19 == 0 && l.getD 1 0 == 0

/-- `dbytes`: bytes of the data contents. -/
def preWordsOk (nblk pages dbytes : Nat) (w : W64 × W64) : Bool :=
  let addr := fld w.1 32 16
  let len := fld w.1 50 33
  placeOk nblk pages (fld w.1 15 0) && fld w.1 63 51 == 0 && fld w.2 63 32 == 0 && addr % 4 == 0
    && decide (addr + len ≤ 0x20000) && decide (fld w.2 31 0 + len ≤ dbytes)

/-- The entry at an offset of the image; none: malformed. -/
def readCfg (rd : ImgRead) (h : ImgHdr) (off len : Nat) : Option CfgImage :=
  match rd off len with
  | none => none
  | some bs =>
    let w0 := word64 bs 0
    let w1 := word64 bs 8
    let nblk := fld w0 15 0
    let ncarve := fld w0 31 16
    let nvk := fld w0 47 32
    let npre := fld w0 63 48
    let e0 := 0x180 + 8 * nblk
    let p1 := align64 e0
    let e1 := p1 + 16 * ncarve
    let p2 := align64 e1
    let e2 := p2 + 80 * nvk
    let p3 := align64 e2
    let e3 := p3 + 16 * npre
    let p4 := align64 e3
    let gap (a b : Nat) : Bool := allZero ((bs.drop a).take (b - a))
    let pair (p : Nat) : W64 × W64 := (word64 bs p, word64 bs (p + 8))
    let blks := (List.range nblk).map fun k => word64 bs (0x180 + 8 * k)
    let carves := (List.range ncarve).map fun k => pair (p1 + 16 * k)
    let vks := (List.range nvk).map fun k => (List.range 10).map fun j => word64 bs (p2 + 80 * k + 8 * j)
    let pres := (List.range npre).map fun k => pair (p3 + 16 * k)
    let blkOk (w : W64) : Bool := fld w 31 0 % 64 == 0 && decide (p4 ≤ fld w 31 0) && decide (fld w 31 0 + 8 * fld w 63 32 ≤ len)
    let ok := fld w1 63 37 == 0 && fld w1 31 0 == len && gap 0x10 0x40 && decide (e3 ≤ len)
      && gap e0 p1 && gap e1 p2 && gap e2 p3 && gap e3 p4
      && blks.all blkOk
      && carves.all (carveWordsOk nblk h.pages) && vks.all (vkWordsOk nblk h.pages)
      && pres.all (preWordsOk nblk h.pages (4096 * h.dlen))
      && decide (fld w1 36 32 ≤ h.nport)
    if !ok then none
    else some {
      chans := (List.range 32).map fun n => word32 bs (0x40 + 4 * n)
      scales := (List.range 32).map fun n => word32 bs (0xC0 + 4 * n)
      ctabs := (List.range 8).map fun n => word64 bs (0x140 + 8 * n)
      ports := fld w1 36 32
      blocks := blks.map fun w => (List.range (fld w 63 32)).map fun j => word64 bs (fld w 31 0 + 8 * j)
      carves := carves
      vks := vks
      pres := pres }

/-! ## Block headers (R169, R172) -/

def bhdrIcnt (h : BitVec 128) : Nat := if fld h 123 117 = 0 then 128 else fld h 123 117
def bhdrPosv (h : BitVec 128) : Bool := h.getLsbD 91
def bhdrPage (h : BitVec 128) : Nat := fld h 90 85
def bhdrQuad (h : BitVec 128) : Nat := fld h 84 83

/-- Opcodes with a neutral output (R404). -/
def hasNeutralOut (o : Nat) : Bool := o == 0x92 || o == 0xCA || o == 0xDA

/-- A block image as its header, words, channel map and pool; none: a malformed header or channel map. -/
def readBlk (pages : Nat) (ws : List W64) : Option Blk :=
  match ws with
  | w0 :: w1 :: rest =>
    let h : BitVec 128 := w1 ++ w0
    let n := bhdrIcnt h
    let nmap := if h.getLsbD 93 then (n + 7) / 8 else 0
    let cplen := fld h 115 106
    let cpoff := fld h 105 94
    let instrs := rest.take n
    let map := ((rest.drop n).take nmap).flatMap fun w => natBytes 8 w.toNat
    let sout := (map.zip instrs).any fun (b, w) => b.getLsbD 5 && !hasNeutralOut (w.extractLsb' 56 8).toNat
    let bad := fld h 127 124 != 1 || h.getLsbD 92 || fld h 82 65 != 0
      || decide (ws.length < 2 + n + nmap)
      || (if cplen = 0 then cpoff != 0 else decide (cpoff < 2 + n + nmap) || decide (ws.length < cpoff + cplen))
      || decide (pages ≤ bhdrPage h)
      || (map.take n).any (fun b => fld b 7 6 != 0) || (map.drop n).any (· != 0) || sout
    if bad then none
    else some {
      hdr := h
      words := instrs
      cmap := map.take n
      pool := (ws.drop cpoff).take cplen
      page := if bhdrPosv h then bhdrPage h else 0
      quad := if bhdrPosv h then bhdrQuad h else 0
      elems := instrs.map fun w => initElem (w.extractLsb' 56 8).toNat (w.extractLsb' 20 2) (w.extractLsb' 0 20)
      committed := 0
      aborts := 0
      serial := none }
  | _ => none

/-- Step 1 of R181: the headers of the blocks, in block order. -/
def readBlks (pages : Nat) : Nat → List (List W64) → Except LoadFault (List Blk)
  | _, [] => .ok []
  | k, ws :: rest =>
    match readBlk pages ws with
    | none => .error (fault3 .badhdr k 0)
    | some b => match readBlks pages (k + 1) rest with
      | .error e => .error e
      | .ok bs => .ok (b :: bs)

/-! ## Placing blocks (R170) -/

/-- A quadrant of the region, as 4 × page + quadrant. -/
def Blk.spot (b : Blk) : Nat := 4 * b.page + b.quad

/-- Blocks with a position of their own keep it; the others take the lowest quadrants that no block of the plane holds. `used`: held
quadrants; the fixed ones of this configuration are among them. -/
def placeFree (spots : Nat) : Nat → List Nat → List Blk → Except LoadFault (List Blk)
  | _, _, [] => .ok []
  | k, used, b :: rest =>
    if bhdrPosv b.hdr then
      match placeFree spots (k + 1) used rest with
      | .error e => .error e
      | .ok bs => .ok (b :: bs)
    else match (List.range spots).find? fun q => !used.contains q with
      | none => .error (fault3 .badpos k 0)
      | some q => match placeFree spots (k + 1) (q :: used) rest with
        | .error e => .error e
        | .ok bs => .ok ({ b with page := q / 4, quad := q % 4 } :: bs)

/-- Two blocks of one plane on one quadrant: the first block whose fixed position is taken. -/
def fixedClash : Nat → List Nat → List Blk → Option Nat
  | _, _, [] => none
  | k, used, b :: rest =>
    if bhdrPosv b.hdr then
      if used.contains b.spot then some k else fixedClash (k + 1) (b.spot :: used) rest
    else fixedClash (k + 1) used rest

/-- Places the blocks of a configuration beside the quadrants that running configurations of the plane hold. -/
def placeBlks (pages : Nat) (held : List Nat) (bs : List Blk) : Except LoadFault (List Blk) :=
  match fixedClash 0 held bs with
  | some k => .error (fault3 .badpos k 0)
  | none => placeFree (4 * pages) 0 (held ++ (bs.filter fun b => bhdrPosv b.hdr).map Blk.spot) bs

/-- Page and tile of a PLACE field. -/
def placeTile (bs : List Blk) (x : Nat) : Nat × Nat :=
  let t := x / 256 % 16
  if x / 2 ^ 15 = 1 then (x % 64, 16 * (x / 64 % 4) + t)
  else match bs[x % 256]? with
    | some b => (b.page, 16 * b.quad + t)
    | none => (0, t)

/-! ## A configuration as the load leaves it -/

def carveOf (bs : List Blk) (w : W64 × W64) : Carve :=
  let p := placeTile bs (fld w.1 15 0)
  ⟨p.1, p.2, fld w.1 17 16, w.1.getLsbD 18, fld w.1 30 24, fld w.1 39 32, w.2⟩

/-- Lanes 2j and 2j+1 in word j (R173). -/
def vkOf (bs : List Blk) (l : List W64) : VkReg :=
  let a := l.getD 0 0
  let p := placeTile bs (fld a 15 0)
  ⟨p.1, p.2, fld a 18 16, BitVec.ofNat 512 (((l.drop 2).zipIdx.map fun (w, j) => w.toNat * 2 ^ (64 * j)).foldl (· + ·) 0)⟩

/-- The write-once buffers of a configuration (04 R73). -/
def woBufs (cs : List Carve) : List WoBuf := (cs.filter fun c => c.kind == 2).map fun c =>
  ⟨fld c.info 15 8, fld c.info 22 16, fld c.info 25 24, c.page, c.tile, c.baseK, c.lenK, [], 0, 0⟩

/-- Elements that a write-once buffer feeds have a write port beside each of their inputs. -/
def withPorts (ws : List WoBuf) (k : Nat) (b : Blk) : Blk :=
  { b with elems := b.elems.zipIdx.map fun e =>
      if ws.any fun w => w.blk == k && w.idx == e.2 then { e.1 with q := List.replicate 8 [] } else e.1 }

/-- The configuration, its blocks placed: not started. -/
def loadedOf (cfg : Nat) (c : CfgImage) (bs : List Blk) : Loaded where
  cfg := cfg
  rule := 0
  full := false
  chans := c.chans
  scales := c.scales
  ctabs := c.ctabs
  ports := c.ports
  carves := c.carves.map (carveOf bs)
  bufs := woBufs (c.carves.map (carveOf bs))
  atLoad := []
  vks := c.vks.map (vkOf bs)
  blks := bs.zipIdx.map fun q => withPorts (woBufs (c.carves.map (carveOf bs))) q.2 q.1
  iters := 0
  serial := 0
  running := false
  doneAt := none
  registered := false
  stray := false
  path := []
  sqc := 0

end Sys2Proof.Machine
end

