-- ==== Sys2Proof/Machine/Words.lean ====
section
/-! DEFINITION. Step 2 of the graph loader's validation (09 R181): each block's words in index order, their opcode, site, formats,
consumers and pool indices; and the descriptors that an instruction's own rule has it check. -/

namespace Sys2Proof.Machine

/-- The fields of a fabric word but for its consumers. -/
def bareFab (w : W64) : Fab := ⟨w.extractLsb' 52 4, w.extractLsb' 48 4, none, none, w.extractLsb' 20 2, w.extractLsb' 0 20⟩

def wordOpc (w : W64) : Nat := (w.extractLsb' 56 8).toNat

/-! ## Formats -/

/-- Float formats (R80). -/
def fmtFloat (fm : Nat) : Bool := decide (fm ≤ 6)

/-- Coded FP8 formats. -/
def fmtCoded (fm : Nat) : Bool := fm == 5 || fm == 6

/-- A 32-bit format. -/
def fmtWide (fm : Nat) : Bool := fm == 0 || fm == 9 || fm == 11

/-- The result channel's format is one that the instruction rejects with BADFMT (10 R196, 11 R208 to R228, 12 R260, 13 R267, R273,
R297). -/
def resultFmtBad (o : Nat) (f : Fab) (fm : Nat) : Bool :=
  let am := fld f.imm 15 14
  if 0x20 ≤ o && o ≤ 0x42 && o != 0x41 then fmtFloat fm
  else if o == 0x82 && f.md == 0 then !fmtCoded fm
  else if 0x60 ≤ o && o < 0x90 && fmtCoded fm then true
  else if o == 0x82 then fm != 9
  else if o == 0x83 then !(fm == 1 || fm == 2 || fm == 3 || fm == 4 || fm == 7 || fm == 8 || fm == 10)
  else if o == 0x78 || o == 0x79 then fm != 0
  else if o == 0x75 || o == 0x77 || o == 0x7A || o == 0x7B || o == 0x81 then !fmtFloat fm
  else if o == 0x69 || (0x6B ≤ o && o ≤ 0x6E) then fmtFloat fm
  else if o == 0x80 then !(fm == 3 || fm == 4 || fm == 7)
  else if o == 0xA9 then !(fm == 9 || fm == 11)
  else if o == 0xBB then fm != 9
  else if o == 0xBA || o == 0xC0 || o == 0xC1 then !(fm == 9 || fm == 11)
  else if 0xBC ≤ o && o ≤ 0xC2 then !fmtWide fm
  else if o == 0xE4 || o == 0xE5 || o == 0xE8 then !(fm == 9 || fm == 11)
  else if (isMemLayout o || o == 0xB7 || o == 0xB8) && (am == 1 || am == 2) then fmtCoded fm
  else false

/-- Instructions whose operands all have the mode of the result (11 R208). -/
def sameMode (o : Nat) : Bool :=
  (0x60 ≤ o && o ≤ 0x68) || (0x6B ≤ o && o ≤ 0x6E) || (0x70 ≤ o && o ≤ 0x73) || o == 0x75 || o == 0x76 || (0x78 ≤ o && o ≤ 0x7C)

/-- Operands of the given formats (operand number and format) do not fit the result's format. -/
def operandFmtBad (o : Nat) (f : Fab) (fm : Nat) (ins : List (Nat × Nat)) : Bool :=
  let any (p : Nat → Nat → Bool) : Bool := ins.any fun (k, x) => p k x
  if 0x20 ≤ o && o ≤ 0x42 && o != 0x41 then any fun _ x => fmtFloat x
  else if sameMode o then any fun _ x => fmtFloat x != fmtFloat fm
  else if o == 0x69 then (ins.any fun (_, x) => fmtFloat x) && ins.any fun (_, x) => !fmtFloat x
  else if o == 0x6A then any fun k x => if k = 2 then fmtFloat x || (fmtFloat fm && x == 11) else x != fm
  else if o == 0x6F then any fun _ x => (x == 11 && fmtFloat fm) || (fmtFloat x && fm == 11)
  else if o == 0x74 then any fun _ x => x != fm
  else if o == 0x77 then any fun k x => fmtFloat x != (k == 0) || x == 11
  else if o == 0x80 then any fun _ x => !fmtFloat x
  else if o == 0x81 then any fun k x => if k = 0 then !(x == 3 || x == 4 || x == 7) else !fmtFloat x
  else if o == 0x82 then
    (if f.md == 0 then any fun _ x => x + 2 != fm else any fun _ x => !(fmtBytes x == 1 || fmtBytes x == 2))
  else if o == 0x83 then any fun _ x => !(x == 9 || x == 11)
  else if o == 0x90 || o == 0xA8 then any fun k x => k == 0 && x == 11
  else if o == 0xA1 then any fun _ x => x == 11
  else if o == 0xA9 then any fun _ x => !fmtFloat x
  else false

/-- Operands that an instruction reads from VK registers under channel VKCH (11 R207). -/
def vkOperands (o : Nat) (f : Fab) : List Nat :=
  (if isVBinary o && f.md == 1 then [1] else []) ++ (if isVTernary o && f.imm.getLsbD 6 then [2] else [])

/-! ## Pool words (R173) -/

/-- A run of pool words that an instruction names, with the bits that its use defines. -/
structure PoolRef where
  at_  : Nat
  n    : Nat
  bits : Nat

/-- The pool words that an instruction names. -/
def poolRefs (o : Nat) (f : Fab) : List PoolRef :=
  let p := fld f.imm 9 0
  let am := fld f.imm 15 14
  let vad (n : Nat) : PoolRef := ⟨p, n, 64⟩
  let adr (at_ : Nat) : PoolRef := ⟨at_, 1, 57⟩
  if isBinaryAlu o && f.md == 2 then [⟨p, 1, 32⟩]
  else if o == 0x40 then [⟨fld f.imm 19 10, 1, 32⟩]
  else if o == 0x41 then [⟨p, fld f.imm 19 10 + 1, 35⟩]
  else if o == 0x7C then [vad 68]
  else if o == 0x88 || o == 0x91 then [vad 2]
  else if o == 0x92 then
    (if f.md == 1 then (if f.imm.getLsbD 13 then [vad 2] else [])
     else ⟨p, 1, 35⟩ :: (if f.imm.getLsbD 13 then [⟨p + 1, 2, 64⟩] else []))
  else if o == 0x98 || o == 0x9D || o == 0x9E then [adr p]
  else if o == 0x99 || o == 0x9B || o == 0x9C then [adr p, ⟨p + 1, 1, 12⟩]
  else if o == 0xA0 then [adr p, ⟨p + 1, 3, 64⟩, ⟨p + 4, 1, 24⟩]
  else if o == 0xA8 then [⟨p, 1, 39⟩]
  else if o == 0xAA || o == 0xAB then [⟨fld f.imm 16 7, 1, 48⟩, ⟨fld f.imm 16 7 + 1, 1, 32⟩]
  else if (isMemLayout o || (0xD0 ≤ o && o ≤ 0xD2)) && am != 0 then [adr p]
  else if o == 0xB7 || o == 0xB8 then [adr p]
  else if o == 0xC3 then adr p :: (if f.md == 0 then [⟨p + 1, 1, 64⟩] else [])
  else if o == 0xC9 then [adr p, ⟨p + 1, 1, 64⟩]
  else if o == 0xCA || o == 0xCD || o == 0xEC || o == 0xED then [adr p]
  else if o == 0xCC then adr p :: (if fld f.imm 19 10 = 0x3FF then [] else [adr (fld f.imm 19 10)])
  else if o == 0xDA || o == 0xDB then [⟨p, 1, 39⟩]
  else if (o == 0xE0 || o == 0xE1) && f.md == 1 then [⟨p, 1, 32⟩]
  else []

def poolRefOk (b : Blk) (r : PoolRef) : Bool :=
  decide (r.at_ + r.n ≤ b.pool.length) && ((b.pool.drop r.at_).take r.n).all fun w => decide (w.toNat < 2 ^ r.bits)

/-! ## Descriptors -/

/-- A function table (11 R225). -/
def vsfnBad (b : Blk) (p : Nat) : Bool :=
  let w (k : Nat) : W64 := b.poolW (p + k)
  let lo := f32 (fld (w 0) 31 0)
  let hi := f32 (fld (w 0) 63 32)
  let finite (x : XVal) : Bool := match x with
    | .num _ _ _ => true
    | _ => false
  let knots (base : Nat) : List Nat := (List.range 33).flatMap fun j =>
    if j = 32 then [fld (w (base + j)) 31 0] else [fld (w (base + j)) 31 0, fld (w (base + j)) 63 32]
  !finite lo || !finite hi || !XVal.lt lo hi || fld (w 1) 63 1 != 0 || fld (w 34) 63 32 != 0 || fld (w 67) 63 32 != 0
    || (knots 2 ++ knots 35).any fun x => !finite (f32 x)

/-- A signed ten-bit field. -/
def sfld10 (w : W64) (lo : Nat) : Int := (w.extractLsb' lo 10).toInt

/-- Arrival numbers that a ROB's counter generates (11 R229), loop 0 innermost. -/
def robNumbers : List (Nat × Int) → List Int
  | [] => [0]
  | (n, st) :: rest => (robNumbers rest).flatMap fun x => (List.range n).map fun (i : Nat) => x + st * (i : Int)

/-- A ROB descriptor. -/
def robBad (w0 w1 : W64) (md : BitVec 2) : Bool :=
  let n := fld w0 9 0 + 1
  let nl := fld w1 31 30
  let cnt (k : Nat) : Nat := fld w1 (10 * k + 9) (10 * k) + 1
  let st (k : Nat) : Int := sfld10 w1 (32 + 10 * k)
  if fld w0 63 23 ≠ 0 ∨ fld w0 15 10 ≠ 0 ∨ fld w1 63 62 ≠ 0 then true
  else if md = 1 then n != 16 || w1 != 0
  else if nl = 3 then true
  else
    let used := List.range (nl + 1)
    let free := (List.range 3).drop (nl + 1)
    free.any (fun k => cnt k != 1 || st k != 0)
      || (used.map cnt).foldl (· * ·) 1 != n
      || (let nums := robNumbers ((used.map fun k => (cnt k, st k)).reverse)
          !((List.range n).all fun i => nums.contains (i : Int)))

/-- An MOPF descriptor (12 R237): each tile named has one operand bank that covers the window. -/
def mopfBad (l : Loaded) (b : Blk) (w0 w1 : W64) : Bool :=
  let base := fld w1 16 0
  let size := 64 * (fld w1 27 17 + 1)
  w0 == 0 || fld w1 63 28 != 0 || base % 64 != 0 || decide (0x20000 < base + size)
    || (List.range 64).any fun t => w0.getLsbD t && !(l.carves.any fun c =>
        c.kind == 0 && c.page == b.page && c.tile == t && decide (1024 * c.baseK ≤ base)
          && decide (base + size ≤ 1024 * (c.baseK + c.lenK)))

/-- A DLBIND descriptor (12 R256). -/
def dlbindBad (b : Blk) (p : Nat) : Bool :=
  let w (k : Nat) : W64 := b.poolW (p + k)
  let ex (x : Nat) : Nat := x / 2 ^ 23 % 256
  let ds := fld (w 1) 63 32
  let dl := fld (w 2) 31 0
  let wb := fld (w 2) 63 32
  (w 0).toNat % 64 != 0
    || ds / 2 ^ 31 != 0 || ex ds == 0 || ex ds == 255
    || dl / 2 ^ 31 != 0 || ex dl == 255 || dl % 2 ^ 31 == 0
    || ex wb == 255 || (wb / 2 ^ 31 != 0 && wb % 2 ^ 31 != 0)
    || fld (w 4) 15 0 == 0 || fld (w 4) 23 16 == 0

/-- A cache range (12 R261). -/
def cacheBad (w0 w1 : W64) : Bool :=
  let ini := fld w1 31 0
  decide (65536 < fld w0 15 0 + fld w0 31 16 + 1) || decide (fld w0 31 16 + 1 ≤ fld w0 47 32)
    || ini / 2 ^ 23 % 256 == 255 || (ini / 2 ^ 31 != 0 && ini % 2 ^ 31 != 0)

/-- A route word field set (12 R238). -/
def routesBad (b : Blk) (w0 w1 : W64) : Bool :=
  let con (c : BitVec 13) : Bool := if c.getLsbD 12 then decide (b.words.length ≤ (c.extractLsb' 5 7).toNat) else c != 0
  fld w0 63 52 != 0 || fld w1 63 26 != 0
    || con (w0.extractLsb' 0 13) || con (w0.extractLsb' 13 13) || con (w0.extractLsb' 26 13) || con (w0.extractLsb' 39 13)
    || con (w1.extractLsb' 0 13) || con (w1.extractLsb' 13 13)

/-- A VSHUF pattern (11 R219), read from the register as the load fills it. -/
def shufBad (l : Loaded) (b : Blk) (f : Fab) : Bool :=
  let v := l.vk b.page (pageTile b f) (fld f.imm 2 0)
  (List.range 16).any fun k => fld (lane v k) 30 5 != 0 || (f.md == 1 && (lane v k).getLsbD 4)

/-- The descriptor of an instruction is malformed (BADCON). -/
def descBad (l : Loaded) (b : Blk) (o : Nat) (f : Fab) : Bool :=
  let p := fld f.imm 9 0
  let w (k : Nat) : W64 := b.poolW (p + k)
  if o == 0x74 then shufBad l b f
  else if o == 0x7C then vsfnBad b p
  else if o == 0x88 then robBad (w 0) (w 1) f.md
  else if o == 0x91 then mopfBad l b (w 0) (w 1)
  else if o == 0x92 then
    (if f.imm.getLsbD 13 then (if f.md == 1 then routesBad b (w 0) (w 1) else routesBad b (w 1) (w 2))
     else f.md == 1 && p != 0x3FF)
  else if o == 0xA0 then dlbindBad b p
  else if o == 0xAA || o == 0xAB then cacheBad (b.poolW (fld f.imm 16 7)) (b.poolW (fld f.imm 16 7 + 1))
  else if o == 0xC3 && f.md == 0 then
    (let lg := fld (w 1) 4 0
     decide (lg < 6) || decide (30 < lg) || (w 0).toNat % 2 ^ lg != 0)
  else if o == 0xC9 then (w 1).toNat == 0 || decide (2 ^ 24 < (w 1).toNat)
  else if o == 0xCC then fld f.imm 19 10 != 0x3FF && (b.poolW (fld f.imm 19 10)).toNat % 64 != 0
  else if o == 0xDA || o == 0xDB then !(w 0).getLsbD 6 && fld (w 0) 22 7 == 0
  else false

/-- An element that names a port tile beyond those the configuration names. -/
def portBad (l : Loaded) (o : Nat) (f : Fab) : Bool :=
  ((0xB0 ≤ o && o ≤ 0xD3 && o != 0xCC && o != 0xCD) || (0xEA ≤ o && o ≤ 0xEE)) && decide (l.ports ≤ fld f.imm 19 16)

/-! ## Links -/

/-- The instruction of a word with its fields. -/
def fabAt (b : Blk) (i : Nat) : Option (Nat × Fab) := (instrAt b i).bind fun ins => (fabOf ins).map fun f => (opcodeOf ins, f)

/-- Every link of a block with the output that makes it: producer, output, consumer. -/
abbrev Link3 := Nat × Nat × Con

def Link3.dest (l : Link3) : Nat × Nat := (l.2.2.idx.toNat, l.2.2.inp.toNat)

/-! ## Formats through the links (10 R202) -/

/-- Inputs whose positions an element forwards with their channels. -/
def forwards (o : Nat) : List Nat :=
  if o == 0x48 || o == 0x4B || o == 0x4C || o == 0xE2 || o == 0xE3 || o == 0x88 then [0]
  else if o == 0x49 || o == 0x4A then [0, 1]
  else []

/-- Word of a stream element. -/
def strmWord (b : Blk) (f : Fab) : W64 := b.poolW (fld f.imm 9 0)

/-- Elements of an opcode with a stream-port word, in a configuration. -/
def strmsOf (l : Loaded) (o : Nat) : List (Nat × Nat × W64) :=
  l.blks.zipIdx.flatMap fun q => (List.range q.1.words.length).filterMap fun i =>
    match fabAt q.1 i with
    | some (p, f) => if p = o then some (q.2, i, strmWord q.1 f) else none
    | none => none

/-- Formats of the positions that instructions form: a worklist of (block, instruction), what has been seen. Tokens of an UNSTASH
have the channels they were stored with, tokens of a STRMI those of its STRMO. -/
def formsFrom (l : Loaded) : Nat → List (Nat × Nat) → List (Nat × Nat) → List Nat
  | 0, _, _ => []
  | _, [], _ => []
  | fuel + 1, (bi, i) :: todo, seen =>
    if seen.contains (bi, i) then formsFrom l fuel todo seen
    else match l.blks[bi]? with
      | none => formsFrom l fuel todo seen
      | some b => match fabAt b i with
        | none => formsFrom l fuel todo seen
        | some (o, f) =>
          let into (bj : Nat) (b : Blk) (j : Nat) (ks : List Nat) : List (Nat × Nat) :=
            (blkLinks b).filterMap fun q => if q.2.2.idx.toNat = j ∧ ks.contains q.2.2.inp.toNat then some (bj, q.1) else none
          if o = 0xCA then formsFrom l fuel todo ((bi, i) :: seen)
          else if o = 0xDA then
            let w := strmWord b f
            let more := (strmsOf l 0xDB).flatMap fun q => if q.2.2 = w then (match l.blks[q.1]? with
              | some c => into q.1 c q.2.1 [0]
              | none => []) else []
            formsFrom l fuel (more ++ todo) ((bi, i) :: seen)
          else if forwards o = [] then (l.chan (b.chanNo i)).fmt :: formsFrom l fuel todo ((bi, i) :: seen)
          else formsFrom l fuel (into bi b i (forwards o) ++ todo) ((bi, i) :: seen)

/-- A format at a pipe or cell: coded blocks have been expanded (05 R89). -/
def arriveFmt (fm : Nat) : Nat := if fm = 5 then 3 else if fm = 6 then 4 else fm

/-- An operand of an instruction on a link has a format that the instruction rejects. Operands of one firing may differ, so each
pair of a format of one and one of another is tried. -/
def linkFmtBad (l : Loaded) (bi : Nat) (b : Blk) (i : Nat) : Bool :=
  match fabAt b i with
  | none => false
  | some (o, f) =>
    let fm := (l.chan (b.chanNo i)).fmt
    let fed := (blkLinks b).filter fun q => q.2.2.idx.toNat == i
    let ins := fed.flatMap fun q => ((formsFrom l 20000 [(bi, q.1)] []).eraseDups).map fun x => (q.2.2.inp.toNat, arriveFmt x)
    let vk := (vkOperands o f).map fun k => (k, (l.chan (fld f.imm 15 11)).fmt)
    operandFmtBad o f fm (ins ++ vk)

/-- A store with a vector data input (27 R401). -/
def vectorStoreFault (l : Loaded) (b : Blk) (i : Nat) : Option LoadCode :=
  match fabAt b i with
  | some (o, f) =>
    if (o == 0xB1 || o == 0xB3) && inputVec b i 0 then
      (if fld f.imm 15 14 = 0 then some .badopc else if fmtWide (l.chan (b.chanNo i)).fmt then none else some .badfmt)
    else none
  | none => none

/-! ## One word -/

/-- A consumer names an instruction beyond the block. -/
def conBad (b : Blk) (c : Option Con) : Bool := match c with
  | some c => decide (b.words.length ≤ c.idx.toNat)
  | none => false

/-- What is wrong with word `i` of a block; `sites`: tile and UNIT of the words before it. -/
def wordFault (levelS : Bool) (l : Loaded) (bi : Nat) (b : Blk) (sites : List (Nat × Nat)) (i : Nat) (w : W64) : Option LoadCode :=
  let o := wordOpc w
  let f := bareFab w
  if 1 ≤ o ∧ o ≤ 0x1F then some .badsite
  else match fabInstr o f with
    | none => some .badopc
    | some ins =>
      if (isPrivileged o && !levelS) || !(modsOf ins).contains f.md.toNat || !immBitsOk o f.md f.imm
          || vectorStoreFault l b i == some .badopc then some .badopc
      else if siteOfUnit f.unit != siteOfOpcode o || sites.contains (f.tile.toNat, f.unit.toNat)
          || ((o == 0xCC || o == 0xCD) && l.ports == 0) then some .badsite
      else
        let fm := (l.chan (b.chanNo i)).fmt
        if resultFmtBad o f fm || operandFmtBad o f fm ((vkOperands o f).map fun k => (k, (l.chan (fld f.imm 15 11)).fmt))
            || linkFmtBad l bi b i || (vectorStoreFault l b i).isSome then some .badfmt
        else match decodeFabric w with
          | .error _ => some .badcon
          | .ok j =>
            let g := (fabOf j).getD f
            if conBad b g.cona || conBad b g.conb || portBad l o f then some .badcon
            else if !(poolRefs o f).all (poolRefOk b) || descBad l b o f then some .badcon
            else none

/-- Step 2 for a block, from word `i` on. -/
def wordsFault (levelS : Bool) (l : Loaded) (b : Blk) (k : Nat) : Nat → List (Nat × Nat) → List W64 → Option LoadFault
  | _, _, [] => none
  | i, sites, w :: rest =>
    match wordFault levelS l k b sites i w with
    | some c => some (fault3 c k i)
    | none => wordsFault levelS l b k (i + 1) (((bareFab w).tile.toNat, (bareFab w).unit.toNat) :: sites) rest

end Sys2Proof.Machine
end

