-- ==== Sys2Proof/Machine/Graph.lean ====
section
/-! DEFINITION. Steps 3 to 5 of the graph loader's validation (09 R181): the links as a graph, the lanes they need, the TX rules, the
channel table, code tables, scales and carving. -/

namespace Sys2Proof.Machine

/-! ## Links (04 R68, 09 R404) -/

/-- A second link to one input: the producer of the later one. -/
def secondLink : List (Nat × Nat) → List Link3 → Option Nat
  | _, [] => none
  | seen, l :: rest => if seen.contains l.dest then some l.1 else secondLink (l.dest :: seen) rest

/-- Every input that an instruction reads is fed, and none other. -/
def feedBad (b : Blk) (ls : List Link3) (i : Nat) : Bool :=
  match fabAt b i with
  | none => false
  | some (o, f) =>
    let (need, may) := inputsOf o f.md f.imm
    let fed := (ls.filter fun l => l.2.2.idx.toNat == i).map fun l => l.2.2.inp.toNat
    need.any (fun k => !fed.contains k) || fed.any fun k => !need.contains k && !may.contains k

/-- A link whose two fixed ends differ in kind. -/
def kindBad (b : Blk) (l : Link3) : Bool :=
  match fabAt b l.1, fabAt b l.2.2.idx.toNat with
  | some (o, f), some (p, g) =>
    match outKind o f.md f.imm l.2.1, inKind p g.md l.2.2.inp.toNat with
    | .scalar, .vector | .vector, .scalar => true
    | _, _ => false
  | _, _ => false

/-- The node that feeds an MDRAIN is an MMA or a DLMUL (12 R238). -/
def sourceBad (b : Blk) (ls : List Link3) (i : Nat) : Bool :=
  match fabAt b i with
  | some (0x92, _) => match ls.find? fun l => l.dest == (i, 0) with
    | some l => match fabAt b l.1 with
      | some (o, _) => o != 0x90 && o != 0xA1
      | none => true
    | none => true
  | _ => false

/-! ## Cycles of 0-slot links (04 R70) -/

/-- Instructions that lead nowhere by links of no slots leave the graph, round by round; what is left holds a cycle. -/
def pruneZero (edges : List (Nat × Nat)) : Nat → List Nat → List Nat
  | 0, live => live
  | n + 1, live => pruneZero edges n (live.filter fun i => edges.any fun e => e.1 == i && live.contains e.2)

def zeroCycle (b : Blk) (ls : List Link3) : Option Nat :=
  let edges := (ls.filter fun l => l.2.2.slots == 0).map fun l => (l.1, l.2.2.idx.toNat)
  (pruneZero edges b.words.length (List.range b.words.length)).head?

/-! ## Lanes (02 R23; log 41) -/

/-- The edges of a route between two tiles of a quadrant, along the row first and the column then: tile left and tile entered. -/
def routeEdges : Nat → Nat → Nat → List (Nat × Nat)
  | 0, _, _ => []
  | fuel + 1, a, b =>
    if a = b then []
    else
      let next := if a % 4 < b % 4 then a + 1 else if b % 4 < a % 4 then a - 1 else if a < b then a + 4 else a - 4
      (a, next) :: routeEdges fuel next b

/-- The producer of the first link for which an edge has no lane of its kind left. -/
def lanesShort (b : Blk) : List (Nat × Nat × Bool) → List Link3 → Option Nat
  | _, [] => none
  | used, l :: rest =>
    match fabAt b l.1, fabAt b l.2.2.idx.toNat with
    | some (_, f), some (_, g) =>
      let vec := inputVec b l.2.2.idx.toNat l.2.2.inp.toNat
      let path := (routeEdges 8 f.tile.toNat g.tile.toNat).map fun e => (e.1, e.2, vec)
      let cap := if vec then 1 else 8
      if path.any fun e => decide (cap ≤ used.count e) then some l.1 else lanesShort b (path ++ used) rest
    | _, _ => lanesShort b used rest

/-! ## Stream elements (13 R292, 09 R404) -/

/-- Kinds of the links out of an element: vector. -/
def outVecs (b : Blk) (i : Nat) : List Bool :=
  ((blkLinks b).filter fun l => l.1 == i).map fun l => inputVec b l.2.2.idx.toNat l.2.2.inp.toNat

/-- Stream elements of an opcode that stand on a port of partner elements: block, instruction, word. -/
def strmsAt (l : Loaded) (o port : Nat) : List (Nat × Nat × W64) :=
  (strmsOf l o).filter fun q => !q.2.2.getLsbD 6 && fld q.2.2 5 0 == port

/-- Kinds of the links at a stream element. -/
def strmKinds (l : Loaded) (o : Nat) (q : Nat × Nat × W64) : List Bool := match l.blks[q.1]? with
  | none => []
  | some b => if o = 0xDB then [inputVec b q.2.1 0] else outVecs b q.2.1

/-- One STRMO and one STRMI of a port stand among the configurations that the run holds at once, with one word and one kind (log 115): a
configuration has at most one of each, some configuration of the image has the partner, and those that are held (`res`) have neither
another of the same nor a partner with another word or kind. A port that the loader binds to a circuit (`circ`: port, out) needs no partner
(24 R386). -/
def strmBad (circ : List (Nat × Bool)) (all res : List Loaded) (l : Loaded) (b : Blk) (i : Nat) : Bool :=
  match fabAt b i with
  | some (o, f) =>
    if o = 0xDA ∨ o = 0xDB then
      let w := strmWord b f
      if w.getLsbD 6 then false
      else
        let port := fld w 5 0
        let other := if o = 0xDA then 0xDB else 0xDA
        let kinds := if o = 0xDB then [inputVec b i 0] else outVecs b i
        let fits (c : Loaded) (q : Nat × Nat × W64) : Bool :=
          q.2.2 == w && (strmKinds c other q).all fun k => kinds.all (· == k)
        decide (1 < (strmsAt l o port).length) || (!circ.contains (port, o == 0xDB) && !all.any fun c => (strmsAt c other port).any (fits c))
          || (strmsAt l other port).any (fun q => !fits l q)
          || res.any fun c => !(strmsAt c o port).isEmpty || (strmsAt c other port).any fun q => !fits c q
    else false
  | none => false

/-! ## Step 3 for a block -/

def linksFault (circ : List (Nat × Bool)) (all res : List Loaded) (l : Loaded) (bi : Nat) (b : Blk) : Option LoadFault :=
  let ls := blkLinks b
  let at_ (c : LoadCode) (i : Nat) : LoadFault := fault3 c bi i
  let each (g : Nat → Option LoadCode) : Option LoadFault :=
    (List.range b.words.length).findSome? fun i => (g i).map fun c => at_ c i
  let one (c : LoadCode) (p : Nat → Bool) : Option LoadFault := each fun i => if p i then some c else none
  firstFault [
    (secondLink [] ls).map (at_ .badcon),
    one .badcon (feedBad b ls),
    (ls.find? (kindBad b)).map fun q => at_ .badcon q.2.2.idx.toNat,
    one .badcon (sourceBad b ls),
    one .badcon (strmBad circ all res l b),
    (zeroCycle b ls).map (at_ .badslot),
    (lanesShort b [] ls).map (at_ .badlanes)]

/-! ## Step 4: the TX rules (03 R49, 07 R145) -/

/-- An instruction that may stand in a transactional block: it fires once for each root iteration, and reaches memory only by loads,
stores and owner-node atomics. -/
def txOk (o : Nat) (f : Fab) : Bool :=
  if !oncePerIteration o f then false
  else if 0xB0 ≤ o && o < 0xD8 then o ≤ 0xB3 || (0xBC ≤ o && o ≤ 0xC2)
  else if o == 0xE0 || o == 0xE1 then o == 0xE1 && f.md == 0
  else if o == 0xE4 || o == 0xE5 || o == 0xE8 then f.md != 2
  else o < 0xEA

def txFault (bi : Nat) (b : Blk) : Option LoadFault :=
  if !b.tx then none
  else (List.range b.words.length).findSome? fun i => match fabAt b i with
    | some (o, f) => if txOk o f then none else some (fault3 .badtx bi i)
    | none => none

/-! ## Step 5: channels, code tables, scales, carving -/

/-- A code table (05 R88): a length above 8, or a Kraft sum above one. -/
def ctabBad (w : W64) : Bool :=
  let ls := (List.range 16).map fun k => fld w (4 * k + 3) (4 * k)
  ls.any (fun n => decide (8 < n)) || decide (256 < (ls.map fun n => if n = 0 then 0 else 2 ^ (8 - n)).foldl (· + ·) 0)

/-- A scale that is zero, subnormal, infinite or NaN (05 R92). -/
def scaleBad (w : W32) : Bool := fld w 30 23 == 0 || fld w 30 23 == 255

def chansBad (c : CfgImage) : Bool :=
  c.chans.any (fun w => decide (12 ≤ fld w 3 0) || decide (5 ≤ fld w 14 12) || fld w 31 15 != 0 || scaleBad (c.scales.getD (fld w 8 4) 0))
    || c.ctabs.any ctabBad

/-- Ranges of one plane overlap (07 R131). -/
def carvesMeet : List Carve → Bool
  | [] => false
  | c :: rest =>
    rest.any (fun d => c.page == d.page && c.tile == d.tile && decide (c.baseK < d.baseK + d.lenK) && decide (d.baseK < c.baseK + c.lenK))
      || carvesMeet rest

/-- One carving: its kind, its extent, and for a buffer the link whose tokens it holds (09 R403), and its capacity, which must fit: 8
bytes for a scalar token, 72 for a vector token (04 R72). -/
def carveBad (l : Loaded) (c : Carve) : Bool :=
  let fed := match l.blks[fld c.info 15 8]? with
    | none => false
    | some b => (linkInto b (fld c.info 22 16) (fld c.info 25 24)).isSome
  c.kind == 3 || c.lenK == 0 || decide (128 < c.lenK) || decide (128 < c.baseK + c.lenK)
    || (c.kind == 1 && (decide (fld c.info 3 0 < 4) || decide (13 < fld c.info 3 0)
      || decide (1024 * c.lenK < 2 ^ fld c.info 3 0 * (if (match l.blks[fld c.info 15 8]? with
          | some b => inputVec b (fld c.info 22 16) (fld c.info 25 24)
          | none => false) then 72 else 8))))
    || (c.kind != 0 && !fed)

/-- The range of a tile store that a ROB's two windows take: page, tile, first byte, length. -/
def robRange (b : Blk) (i : Nat) : Option (Nat × Nat × Nat × Nat) :=
  match fabAt b i with
  | some (0x88, f) =>
    let w := b.poolW (fld f.imm 9 0)
    some (b.page, pageTile b f, 1024 * fld w 22 16, 2 * (fld w 9 0 + 1) * 72)
  | _ => none

/-- Ranges of operand banks that an element's own words name: a ROB's windows, an MOPF's window on each of its tiles. Other elements reach
banks by addresses that the program forms, which no load can check (log 116). -/
def bankRanges (b : Blk) (i : Nat) : List (Nat × Nat × Nat × Nat) :=
  match fabAt b i with
  | some (0x91, f) =>
    let w0 := b.poolW (fld f.imm 9 0)
    let w1 := b.poolW (fld f.imm 9 0 + 1)
    ((List.range 64).filter fun t => w0.getLsbD t).map fun t => (b.page, t, fld w1 16 0, 64 * (fld w1 27 17 + 1))
  | _ => (robRange b i).toList

def bankRangesMeet (x y : Nat × Nat × Nat × Nat) : Bool :=
  x.1 == y.1 && x.2.1 == y.2.1 && decide (x.2.2.1 < y.2.2.1 + y.2.2.2) && decide (y.2.2.1 < x.2.2.1 + x.2.2.2)

/-- A ROB has an operand bank of its own at BUF, which no other element names (11 R229). -/
def robCarveBad (l : Loaded) (bi : Nat) (b : Blk) (i : Nat) : Bool :=
  match robRange b i with
  | none => false
  | some r =>
    !(l.carves.any fun c => c.kind == 0 && c.page == r.1 && c.tile == r.2.1 && 1024 * c.baseK == r.2.2.1 && decide (r.2.2.2 ≤ 1024 * c.lenK))
      || l.blks.zipIdx.any fun q => (List.range q.1.words.length).any fun j =>
        !(q.2 == bi && j == i) && (bankRanges q.1 j).any (bankRangesMeet r)

/-- Two caches of the configuration overlap on one cache tile (12 R261). Two elements may name one cache. -/
def cachesOf (l : Loaded) : List (Nat × Nat × Nat × W64) :=
  l.blks.flatMap fun b => (List.range b.words.length).filterMap fun i => match fabAt b i with
    | some (o, f) =>
      if o = 0xAA ∨ o = 0xAB then
        let w := b.poolW (fld f.imm 16 7)
        some (fld f.imm 19 17, fld w 15 0, fld w 31 16 + 1, w)
      else none
    | none => none

def cachesMeet (cs : List (Nat × Nat × Nat × W64)) : Bool :=
  cs.any fun a => cs.any fun b => a.1 == b.1 && a.2.2.2 != b.2.2.2 && decide (a.2.1 < b.2.1 + b.2.2.1) && decide (b.2.1 < a.2.1 + a.2.2.1)

def step5 (c : CfgImage) (l : Loaded) : Option LoadFault :=
  firstFault [
    faultIf (chansBad c) (fault3 .badfmt 0 0),
    faultIf (l.carves.any (carveBad l) || carvesMeet l.carves) (fault3 .badcarve 0 0),
    l.blks.zipIdx.findSome? fun q => (List.range q.1.words.length).findSome? fun i =>
      if robCarveBad l q.2 q.1 i then some (fault3 .badcarve q.2 i) else none,
    faultIf (cachesMeet (cachesOf l)) (fault3 .badcon 0 0)]

/-- Carvings of one plane overlap (07 R131). -/
def carvesClash (a b : List Carve) : Bool :=
  a.any fun c => b.any fun d => c.page == d.page && c.tile == d.tile && decide (c.baseK < d.baseK + d.lenK)
    && decide (d.baseK < c.baseK + c.lenK)

/-- Carvings of two planes overlap outside ranges that both declare shared (03 R46, 07 R131). -/
def planesClash (a b : List Carve) : Bool :=
  a.any fun c => b.any fun d => c.page == d.page && c.tile == d.tile && decide (c.baseK < d.baseK + d.lenK)
    && decide (d.baseK < c.baseK + c.lenK) && !(c.shared && d.shared)

end Sys2Proof.Machine
end

