-- ==== Sys2Proof/Machine/Rules.lean ====
section
/-! DEFINITION. Step 6 of the graph loader's validation (09 R181): the chains of a configuration that a RULE word names (12 R405),
their checks, and the rule table that they make. -/

namespace Sys2Proof.Machine

/-- How the loader reads a relation header; none: it cannot be read, or has a defect of R107. -/
abbrev HdrRead := Nat → Option Line

/-- A chain on its way: the element it has reached, its columns as variables (a joined column is the variable it is joined with),
atoms, headers of positive atoms, negated atoms with their headers and column maps. -/
structure Chain where
  idx  : Nat
  vars : List Nat
  atoms : List Atom
  pos  : List Line
  negs : List (Line × List Nat × Nat)
  deriving DecidableEq, Repr

/-- A chain that has ended at an INSNEW or AGG. -/
structure ChainEnd where
  blk  : Nat
  idx  : Nat
  head : Nat
  hhdr : Line
  cols : List Nat
  arity0 : Nat
  chain : Chain
  deriving DecidableEq, Repr

/-- The relation that an element names, and its column map. -/
def relOf (b : Blk) (f : Fab) : Nat := (b.poolW (fld f.imm 9 0)).toNat % 2 ^ 57

def colMap (b : Blk) (f : Fab) (n : Nat) : List Nat :=
  let w := b.poolW (fld f.imm 9 0 + 1)
  (List.range n).map fun k => fld w (3 * k + 2) (3 * k)

/-- Join pairs of an HPROBE (12 R247): input column and relation column. -/
def joinPairs (f : Fab) : List (Nat × Nat) :=
  (fld f.imm 12 10, fld f.imm 14 13) :: (if f.md = 1 then [(fld f.imm 17 15, fld f.imm 19 18)] else [])

/-- Follows the links out of an element of a chain; the chains that end. -/
def chaseChain (hdr : HdrRead) (bi : Nat) (b : Blk) (arity0 : Nat) : Nat → Chain → List ChainEnd
  | 0, _ => []
  | fuel + 1, c =>
    ((blkLinks b).filter fun l => l.1 == c.idx).flatMap fun l =>
      let j := l.2.2.idx.toNat
      match fabAt b j with
      | none => []
      | some (o, f) =>
        if o ≠ 0x98 ∧ o ≠ 0x99 ∧ o ≠ 0x9B ∧ o ≠ 0x9C then []
        else match hdr (relOf b f) with
          | none => []
          | some h =>
            let n := hdrCols h
            if o = 0x98 then
              let w := c.vars.length
              let new := (List.range n).map fun k => ((joinPairs f).find? fun p => p.2 == k).elim (w + k) fun p => c.vars.getD p.1 (w + k)
              chaseChain hdr bi b arity0 fuel { c with
                idx := j, vars := c.vars ++ new, atoms := c.atoms ++ [⟨relOf b f, 1, joinPairs f⟩], pos := c.pos ++ [h] }
            else if o = 0x9C then
              let m := colMap b f n
              chaseChain hdr bi b arity0 fuel { c with
                idx := j
                atoms := c.atoms ++ [⟨relOf b f, 2, m.zipIdx⟩]
                negs := c.negs ++ [(h, m, c.vars.length)] }
            else [⟨bi, j, relOf b f, h, colMap b f n, arity0, c⟩]

/-- Every chain of a configuration. -/
def chainsOf (hdr : HdrRead) (l : Loaded) : List ChainEnd :=
  l.blks.zipIdx.flatMap fun q => (List.range q.1.words.length).flatMap fun i =>
    match fabAt q.1 i with
    | some (0x9E, f) => match hdr (relOf q.1 f) with
      | none => []
      | some h =>
        let n := hdrCols h
        chaseChain hdr q.2 q.1 n 130 ⟨i, List.range n, [⟨relOf q.1 f, 0, []⟩], [h], []⟩
    | _ => []

/-- What a chain is rejected for: BADRING (06 R114), BADSTRAT (R120), BADNEG (R121), BADRULE (R126, 12 R405). -/
def chainFault (e : ChainEnd) : Option LoadCode :=
  let h := e.hhdr
  let s := hdrStrat h
  let ring := hdrRing h
  let same (g : Line) : Bool := hdrRing g == ring && hdrWfmt g == hdrWfmt h
  let headVars := e.cols.map fun c => e.chain.vars.getD c 0
  if (ring = 1 ∨ ring = 4 ∨ ring = 5) ∧ e.chain.pos.any fun g => hdrStrat g == s then some .badring
  else if (e.chain.pos.any fun g => decide (s < hdrStrat g)) ∨ (e.chain.negs.any fun g => decide (s ≤ hdrStrat g.1)) then some .badstrat
  else if e.chain.negs.any fun g =>
      !(hdrRing g.1 == 0 || hdrRing g.1 == 2) || hdrRing g.1 != ring || g.2.1.any (fun k => decide (g.2.2 ≤ k)) then some .badneg
  else if hdrWit h ∧ e.chain.vars.any fun v => decide (e.arity0 ≤ v) && !headVars.contains v then some .badrule
  else if (e.chain.pos.any fun g => !same g) ∨ (e.chain.negs.any fun g => !same g.1) then some .badrule
  else none

/-- A later chain that ends on a WIT relation on which an earlier one ends. -/
def witTwice : List Nat → List ChainEnd → Option ChainEnd
  | _, [] => none
  | seen, e :: rest =>
    if hdrWit e.hhdr then (if seen.contains e.head then some e else witTwice (e.head :: seen) rest) else witTwice seen rest

/-- Step 6: the rules of a configuration that a RULE word names. -/
def rulesFault (hdr : HdrRead) (l : Loaded) : Option LoadFault :=
  let ends := chainsOf hdr l
  let unfed := l.blks.zipIdx.findSome? fun q => (List.range q.1.words.length).findSome? fun i => match fabAt q.1 i with
    | some (o, _) => if (o = 0x99 ∨ o = 0x9B) ∧ !(ends.any fun e => e.blk == q.2 && e.idx == i) then some (fault3 .badrule q.2 i) else none
    | none => none
  firstFault [
    unfed,
    ends.findSome? fun e => (chainFault e).map fun c => fault3 c e.blk e.idx,
    (witTwice [] ends).map fun e => fault3 .badrule e.blk e.idx]

/-- The rule-table entries of a configuration under a rule number (12 R244). -/
def rulesOf (hdr : HdrRead) (num : Nat) (l : Loaded) : List RuleRec :=
  (chainsOf hdr l).map fun e => ⟨num, e.head, e.chain.atoms, e.cols⟩

end Sys2Proof.Machine
end

