-- ==== Sys2Proof/Machine/Loader.lean ====
section
/-! DEFINITION. The graph loader: the whole validation of a configuration and of an image (09 R181 to R185, 20 R338, R408), and
the load of a configuration into a plane (03 R35, R46, 09 R171, R403). -/

namespace Sys2Proof.Machine

/-! ## A configuration -/

/-- What a validation looks at beside the entry: pages of the region, level of the context, relation headers, the other
configurations of the image and those that the run holds (13 R292), quadrants of the plane that running configurations hold, stream ports
that are bound to circuits (24 R386). -/
structure LoadCtx where
  pages  : Nat
  levelS : Bool
  hdr    : HdrRead
  all    : List Loaded
  res    : List Loaded
  held   : List Nat
  circ   : List (Nat × Bool)

/-- Steps 1 to 6 of R181 for a configuration; `isRule`: a RULE word names it. -/
def checkCfg (x : LoadCtx) (isRule : Bool) (cfg : Nat) (c : CfgImage) : Except LoadFault Loaded :=
  match readBlks x.pages 0 c.blocks with
  | .error e => .error e
  | .ok bs0 => match placeBlks x.pages x.held bs0 with
    | .error e => .error e
    | .ok bs =>
      let l := loadedOf cfg c bs
      let step (g : Nat → Blk → Option LoadFault) : Option LoadFault := bs.zipIdx.findSome? fun q => g q.2 q.1
      match firstFault [
          step fun k b => wordsFault x.levelS l b k 0 [] b.words,
          step fun k b => linksFault x.circ x.all x.res l k b,
          step txFault,
          step5 c l,
          if isRule then rulesFault x.hdr l else none] with
      | some e => .error e
      | none => .ok l

/-- A configuration without its checks, for what other configurations need of it. -/
def looseCfg (pages cfg : Nat) (c : CfgImage) : Option Loaded :=
  match readBlks pages 0 c.blocks with
  | .error _ => none
  | .ok bs => match placeBlks pages [] bs with
    | .error _ => none
    | .ok bs => some (loadedOf cfg c bs)

/-! ## The tables of an image -/

/-- A relation-list entry (12 R242): stratum and header addresses; none: malformed. -/
def rlistOf (bs : List Byte) : Option (Nat × List Nat) :=
  let ws := (List.range 16).map fun k => word64 bs (8 * k)
  let w0 := ws.getD 0 0
  let n := fld w0 3 0
  if n < 1 ∨ 8 < n ∨ fld w0 63 9 ≠ 0 ∨ ((ws.drop 1).take n).any (fun w => decide (2 ^ 57 ≤ w.toNat)) ∨ (ws.drop (1 + n)).any (· != 0) then none
  else some (fld w0 8 4, ((ws.drop 1).take n).map (·.toNat))

def groupEntryBad (w : W64) : Bool := w != selfGroup && decide (2 ^ 20 ≤ w.toNat)

/-- A stream-table entry (10 R187), its alignment apart. -/
def streamBad (e : Line) : Bool :=
  let n := fld e 392 390
  fld e 511 448 != 0 || fld e 447 393 != 0 || fld e 63 57 != 0 || decide (n < 1) || decide (5 < n)
    || (List.range 5).any fun k =>
      let c := fld e (64 * k + 95) (64 * k + 64)
      let st := fld e (64 * k + 127) (64 * k + 96)
      if k < n then c == 0 else c != 0 || st != 0

/-! ## Step 7: the sequence words -/

/-- What the walk over the sequence holds: the configuration started last, open LOOPs with the FIXB state of each level (that of the
top level last; true once a FIXB stands in it), whether a FIXB has no FIXE yet, rule numbers given, and the LOOP pairs. -/
structure SeqWalk where
  cur   : Option Nat
  stack : List Nat
  fix   : List Bool
  fixOpen : Bool
  nums  : List (Nat × Nat)
  pairs : List (Nat × Nat)

/-- The tables that sequence words index. -/
structure SeqTables where
  cfgs    : List Loaded
  nport   : Nat
  streams : List Line
  rlists  : List (Option (Nat × List Nat))
  gtab    : List W64

def SeqTables.rlistBad (t : SeqTables) (k : Nat) : Bool := match t.rlists[k]? with
  | some (some _) => false
  | _ => true

def SeqTables.groupBad (t : SeqTables) (gb : BitVec 6) (k : Nat) : Bool :=
  gb == 0 && (match t.gtab[k]? with
    | some w => groupEntryBad w
    | none => true)

/-- A STREAM word: after the first configuration, a port of the image, an entry of the table that is well formed and aligned to the
width of its channel. -/
def SeqTables.streamWordBad (t : SeqTables) (cur : Option Nat) (port k : Nat) : Bool :=
  match cur, t.streams[k]? with
  | some c, some e =>
    let w := match t.cfgs[c]? with
      | some l => max 1 (fmtBytes (l.chan (fld e 388 384)).fmt)
      | none => 1
    decide (t.nport ≤ port) || streamBad e || fld e 56 0 % w != 0
  | _, _ => true

/-- One sequence word: what is wrong with it, and the walk after it. -/
def seqWord (levelS : Bool) (t : SeqTables) (x : SeqWalk) (i : Nat) (w : W64) : Except LoadCode SeqWalk :=
  let o := wordOpc w
  if 0x20 ≤ o ∨ o = 0 then .error (if (fabInstr o (bareFab w)).isSome && (levelS || !isPrivileged o) then .badsite else .badopc)
  else match decodeSeq w with
    | .error .badCon => .error .badcon
    | .error _ => .error .badopc
    | .ok ins =>
      let cfgBad (c : BitVec 16) : Bool := decide (t.cfgs.length ≤ c.toNat)
      let rule (c : BitVec 16) (n : BitVec 8) : Except LoadCode SeqWalk :=
        if cfgBad c ∨ x.nums.any fun q => q.1 == n.toNat && q.2 != c.toNat then .error .badcon
        else .ok { x with cur := some c.toNat, nums := (n.toNat, c.toNat) :: x.nums }
      match ins with
      | .conf c => if cfgBad c then .error .badcon else .ok { x with cur := some c.toNat }
      | .shadow _ c => if cfgBad c then .error .badcon else .ok x
      | .stream _ port _ e => if t.streamWordBad x.cur port.toNat e.toNat then .error .badcon else .ok x
      | .loop _ _ _ _ => .ok { x with stack := i :: x.stack, fix := false :: x.fix }
      | .endl => match x.stack with
        | [] => .error .badcon
        | q :: rest => .ok { x with stack := rest, fix := x.fix.drop 1, pairs := (q, i) :: x.pairs }
      | .fixb gb r g =>
        if t.rlistBad r.toNat ∨ t.groupBad gb g.toNat ∨ x.fixOpen then .error .badcon
        else .ok { x with fix := true :: x.fix.drop 1, fixOpen := true }
      | .fixe _ gb g =>
        if t.groupBad gb g.toNat ∨ !x.fix.headD false then .error .badcon else .ok { x with fixOpen := false }
      | .rule c n => rule c n
      | .ruleFull c n => rule c n
      | .rotate r => if t.rlistBad r.toNat then .error .badcon else .ok x
      | .retract _ _ r => if t.rlistBad r.toNat then .error .badcon else .ok x
      | _ => .ok x

/-- Step 7 from word `i` on. -/
def seqWalk (levelS : Bool) (t : SeqTables) : SeqWalk → Nat → List W64 → Except LoadFault SeqWalk
  | x, _, [] => match x.stack with
    | [] => .ok x
    | q :: _ => .error (fault3 .badcon 256 q)
  | x, i, w :: rest => match seqWord levelS t x i w with
    | .error c => .error (fault3 c 256 i)
    | .ok x => seqWalk levelS t x (i + 1) rest

/-! ## An image -/

/-- Relation headers as a validation sees them: a data segment that has not been copied yet stands in the image. -/
def State.hdrRead (s : State) (slot : Nat) (rd : ImgRead) (h : ImgHdr) (copied : Bool) : HdrRead := fun va =>
  let inSeg := decide (h.dva ≤ va) && decide (va + 64 ≤ h.dva + 4096 * h.dlen) && !copied
  let raw : Option Line := if inSeg then
      (if va % 64 ≠ 0 then none else (rd (h.offs.getD 5 0 + (va - h.dva)) 64).map lineOf)
    else match s.relRaw slot va with
      | .ok l => some l
      | .error _ => none
  raw.bind fun l => if hdrBad l then none else some l

/-- Configurations that RULE words name. -/
def ruleCfgs (seq : List W64) : List Nat :=
  (seq.filter fun w => wordOpc w == 0x1D).map fun w => fld w 15 0

/-- Checks every configuration in index order. -/
def checkCfgs (x : LoadCtx) (rules : List Nat) : Nat → List (Option CfgImage) → Except LoadFault (List Loaded)
  | _, [] => .ok []
  | k, c :: rest => match c with
    | none => .error (fault3 .badhdr 0 0)
    | some c => match checkCfg x (rules.contains k) k c with
      | .error e => .error e
      | .ok l => match checkCfgs x rules (k + 1) rest with
        | .error e => .error e
        | .ok ls => .ok (l :: ls)

/-- Stream ports of an image that the circuit table lists: the port, whether it goes out. -/
def State.circuitPorts (s : State) (slot image : Nat) : List (Nat × Bool) :=
  (s.chip.circuits.filter fun c => c.slot == slot && c.image == image).map fun c => (c.port, c.out)

/-- The image at a virtual address of a context, validated whole. -/
def State.validate (s : State) (slot va : Nat) : Except LoadFault Image :=
  let rd := s.imgRead slot va
  let badhdr : Except LoadFault Image := .error (fault3 .badhdr 0 0)
  match readHeader rd va with
  | .error c => .error (fault3 c 0 0)
  | .ok h =>
    let off (k : Nat) : Nat := h.offs.getD k 0
    match readTable rd (off 0) 8, cfgTable rd h, readTable rd (off 2) 64, readTable rd (off 3) 128, readTable rd (off 4) 8 with
    | some (seqB, e0), some (ents, e1), some (strB, e2), some (rlB, e3), some (grB, e4) =>
      let spans := [(0, 64), (off 0, e0), (off 1, e1), (off 2, e2), (off 3, e3), (off 4, e4), (off 5, off 5 + 4096 * h.dlen)]
      if spansMeet spans ∨ 2 ^ 24 < seqB.length ∨ (rd (off 5) (4096 * h.dlen)).isNone then badhdr
      else
        let seq := seqB.map fun b => word64 b 0
        let cfgs := ents.map fun e => readCfg rd h e.1 e.2
        let copied := s.adm.copied.contains (slot, va)
        let hdr := s.hdrRead slot rd h copied
        let x : LoadCtx := ⟨h.pages, s.levelS slot, hdr, (cfgs.zipIdx.filterMap fun q => q.1.bind (looseCfg h.pages q.2)), [], [],
          s.circuitPorts slot va⟩
        match checkCfgs x (ruleCfgs seq) 0 cfgs with
        | .error e => .error e
        | .ok ls =>
          let streams := strB.map lineOf
          let rlists := rlB.map rlistOf
          let gtab := grB.map fun b => word64 b 0
          match seqWalk (s.levelS slot) ⟨ls, h.nport, streams, rlists, gtab⟩ ⟨none, [], [false], false, [], []⟩ 0 seq with
          | .error e => .error e
          | .ok w =>
            if streams.any streamBad ∨ rlists.any Option.isNone ∨ gtab.any groupEntryBad then .error (fault3 .badcon 0 0)
            else .ok {
              slot := slot
              addr := va
              pgh := h.pgh
              pgw := h.pgw
              nport := h.nport
              seq := seq
              ncfg := ls.length
              streams := streams
              rlists := rlists.map fun r => r.getD (0, [])
              gtab := gtab
              rules := w.nums.eraseDups.flatMap fun q => ((ls[q.2]?).map (rulesOf hdr q.1)).getD []
              loops := w.pairs
              doff := off 5
              dlen := 4096 * h.dlen
              dva := h.dva }
    | _, _, _, _, _ => badhdr

/-! ## Loading a configuration (R171, R403; log 22) -/

/-- Quadrants of a plane that configurations hold which have started and not drained. -/
def heldSpots (drained : Nat → Loaded → Bool) (p : Plane) : List Nat :=
  (p.loads.zipIdx.filter fun q => !drained q.2 q.1).flatMap fun q => q.1.blks.map Blk.spot

/-- Reads and validates a configuration of the run's image anew. -/
def State.fetchCfg (s : State) (r : Run) (isRule : Bool) (cfg : Nat) (held : List Nat) (res : List Loaded) :
    Except LoadFault (Loaded × CfgImage) :=
  let rd := s.imgRead r.slot r.image
  match readHeader rd r.image with
  | .error c => .error (fault3 c 0 0)
  | .ok h => match cfgTable rd h with
    | none => .error (fault3 .badhdr 0 0)
    | some (ents, _) =>
      let cfgs := ents.map fun e => readCfg rd h e.1 e.2
      match cfgs[cfg]? with
      | some (some c) =>
        let pages := r.region.pages.length
        let x : LoadCtx := ⟨pages, s.levelS r.slot, s.hdrRead r.slot rd h true,
          (cfgs.zipIdx.filterMap fun q => q.1.bind (looseCfg pages q.2)), res, held, s.circuitPorts r.slot r.image⟩
        match checkCfg x isRule cfg c with
        | .error e => .error e
        | .ok l => .ok (l, c)
      | _ => .error (fault3 .badhdr 0 0)

/-- Writes the preloads of a configuration into the operand banks. -/
def State.preload (s : State) (r : Run) (c : CfgImage) (l : Loaded) : State :=
  let doff := ((s.image? r).map (·.doff)).getD 0
  c.pres.foldl (fun s w =>
    let p := placeTile l.blks (fld w.1 15 0)
    match s.imgRead r.slot r.image (doff + fld w.2 31 0) (fld w.1 50 33) with
    | some bs => s.bankWrite r p.1 p.2 (fld w.1 32 16) bs
    | none => s) s

/-- A place of a plane that holds nothing. -/
def Loaded.gone : Loaded :=
  ⟨65536, 0, false, [], [], [], 0, [], [], [], [], [], 0, 0, false, none, true, false, [], 0⟩

/-- Puts a configuration into a plane in place of an older load of it and of the idle ones whose quadrants it takes; the accumulators
of its quadrants are zero. -/
def Plane.install (p : Plane) (l : Loaded) : Plane × Nat :=
  let spots := l.blks.map Blk.spot
  let hit (x : Loaded) : Bool := x.cfg == l.cfg || x.blks.any fun b => spots.contains b.spot
  let loads := p.loads.map fun x => if hit x then Loaded.gone else x
  let accs := p.accs.filter fun a => !spots.contains (4 * a.page + a.tile / 16)
  match loads.findIdx? fun x => x.cfg == 65536 with
  | some i => ({ p with loads := setAt loads i l, accs := accs }, i)
  | none => ({ p with loads := loads ++ [l], accs := accs }, loads.length)

end Sys2Proof.Machine
end

