-- ==== Sys2Proof/Machine/Engine.lean ====
section
/-! DEFINITION. The engines of a die (08 R161, 13 R279 to R290): DEQUEUE, EWRITE, the transfer unit, the stash engine, the
Landing engine. -/

namespace Sys2Proof.Machine

/-! ## Requests and engine writes -/

def State.req? (s : State) (id : Nat) : Option Req := s.ord.reqs.find? fun q => q.id == id

def State.modReq (s : State) (id : Nat) (f : Req → Req) : State :=
  { s with ord := { s.ord with reqs := s.ord.reqs.map fun q => if q.id = id then f q else q } }

def State.dropReq (s : State) (id : Nat) : State :=
  { s with
    ord := { s.ord with reqs := s.ord.reqs.filter fun q => q.id != id }
    eng := { s.eng with fetched := s.eng.fetched.filter fun f => f.req != id } }

/-- The request is answered with these results, one position each, and is gone. -/
def State.answerReq (s : State) (q : Req) (ess : List (List Emit)) : State :=
  (s.onItem q.elem q.rid fun i => match ess with
    | [] => [{ i with ready := true, parts := 0, emits := [] }]
    | e :: rest => { i with ready := true, parts := 0, emits := e } :: rest.map fun e => ⟨i.rid, true, e, 0, [], none, none⟩).dropReq q.id

/-- An INT32 status on CONA. -/
def State.statusReq (s : State) (q : Req) (st : Nat) : State :=
  s.answerReq q [[.tok 0 (scalarTok (BitVec.ofNat 32 st) q.mark q.chan)]]

/-- Undoes the firing of a request and of the element's later ones. -/
def State.undoReq (s : State) (q : Req) : State :=
  let later (e : ElemRef) (rid : Nat) : Bool := e == q.elem && decide (q.rid ≤ rid)
  let s := s.setAccs (s.ord.accs.filter fun a => !later a.elem a.rid)
  let s := { s with ord := { s.ord with reqs := s.ord.reqs.filter fun x => !later x.elem x.rid } }
  s.undoPlaces q.run [(q.elem, q.rid)]

/-- The run of a request, while it may take a trap. -/
def State.reqRun (s : State) (q : Req) : Option Run := (s.run? q.run).bind fun r => if r.st = .resident then some r else none

def State.trapReq (s : State) (q : Req) (t : Trap) : State :=
  match s.reqRun q with
  | none => s
  | some _ => (s.undoReq q).takeTrap q.run t { s.elemInfo q.elem t.code 1 with va := q.va, port := q.port }

/-- A translation fault of an engine on a request (21 R359): precise at its firing, except that a copy keeps its packet and
progress (13 R287). A fault that meets a frozen run is taken again on resume. -/
def State.faultReq (s : State) (q : Req) (e : WalkFault) (va access : Nat) (sector : Nat) : State :=
  match s.reqRun q with
  | none => s
  | some _ =>
    let i := { xlatInfo e va access (s.elemInfo q.elem 0 2) with
      port := q.port, aux := if q.kind = .xfer then some sector else none }
    if q.kind = .xfer then s.supervisorFault q.run { i with packet := q.packet }
    else (s.undoReq q).supervisorFault q.run i

/-- Cuts bytes at 64-byte lines. -/
def lineChunks : Nat → Nat → List Byte → List (Nat × List Byte)
  | 0, _, _ => []
  | fuel + 1, va, bs =>
    if bs.isEmpty then []
    else
      let n := min bs.length (64 - va % 64)
      (va, bs.take n) :: lineChunks fuel (va + n) (bs.drop n)

def chunksOf (va : Nat) (bs : List Byte) : List (Nat × List Byte) := lineChunks (bs.length / 64 + 2) va bs

/-! ### Engine reads -/

/-- What an engine has read: bytes, the poisoned lines by number, the lines of other modules that it has still to ask for. -/
structure EngRead where
  bytes : List Byte
  psn   : List Nat
  miss  : List (Nat × Place)
  deriving DecidableEq, Repr

/-- Reads virtual memory for a request, line by line; a line of another module is one that the request has had. A fault comes with its
address. -/
def State.eread (s : State) (req slot : Nat) : Nat → Nat → Nat → Except (WalkFault × Nat) EngRead
  | 0, _, _ => .ok ⟨[], [], []⟩
  | fuel + 1, va, n =>
    if n = 0 then .ok ⟨[], [], []⟩
    else
      let k := min n (64 - va % 64)
      match s.vplace slot va false with
      | .error e => .error (e, va)
      | .ok p => match s.eread req slot fuel (va + k) (n - k) with
        | .error e => .error e
        | .ok r =>
          match s.placeRead p k with
          | some (bs, psn) => .ok { r with bytes := bs ++ r.bytes, psn := if psn then va / 64 :: r.psn else r.psn }
          | none =>
            let line := va / 64 * 64
            match (s.eng.fetched.find? fun f => f.req == req && f.va == line).bind (·.got) with
            | some (l, psn) =>
              .ok { r with bytes := ((bytesOfLine l).drop (va % 64)).take k ++ r.bytes, psn := if psn then va / 64 :: r.psn else r.psn }
            | none => match p with
              | .remote m x g => .ok { r with miss := (line, .remote m (x / 64 * 64) g) :: r.miss }
              | _ => .ok r

/-- Asks other modules for lines that the request has not asked for, as far as there are tags. -/
def State.fetch (s : State) (req : Nat) (ls : List (Nat × Place)) : State :=
  ls.foldl (fun s l => match l.2 with
    | .remote m x g =>
      if s.eng.fetched.any fun f => f.req == req && f.va == l.1 then s
      else match s.request 1 m g x 0 1 64 0 (.fetch req l.1) none with
        | none => s
        | some t => { t with eng := { t.eng with fetched := t.eng.fetched ++ [⟨req, l.1, none⟩] } }
    | _ => s) s

/-- An engine reads bytes for a request and goes on with them and the poisoned lines. It waits while a serialised wave holds a line of them,
and while lines of other modules are under way; every other wave that has written one of them aborts (03 R52). -/
def State.withRead (s : State) (q : Req) (slot va n : Nat) (bad : State → WalkFault → Nat → State)
    (go : State → List Byte → List Nat → State) : State :=
  match s.engineReads slot va n with
  | none => s
  | some s => match s.eread q.id slot (n / 64 + 2) va n with
    | .error (e, x) => bad s e x
    | .ok r =>
      if !r.miss.isEmpty then s.fetch q.id r.miss
      else
        let s := { s with eng := { s.eng with fetched := s.eng.fetched.filter fun f =>
          !(f.req == q.id && decide (va < f.va + 64) && decide (f.va < va + n)) } }
        go (s.noteRead (some (s.identity q.run)) slot va n) r.bytes r.psn

/-- Reads one line for a request. -/
def State.withLine (s : State) (q : Req) (slot va : Nat) (go : State → Line → Bool → State) : State :=
  s.withRead q slot va 64 (fun s e x => s.faultReq q e x 3 0) fun s bs psn => go s (lineOf bs) (!psn.isEmpty)

/-! ### Engine writes -/

/-- Writes of a request join the engine's write buffer; the flag of each says that it marks its line poisoned. -/
def State.bufWrites (s : State) (q : Req) (slot : Nat) (ws : List (Nat × List Byte × Bool)) : State :=
  let id := s.ord.nextId
  let new := ws.zipIdx.map fun (w, i) =>
    (⟨id + i, q.id, q.run, q.die, slot, w.1, w.2.1, w.2.2, q.kind != .stash, q.kind, q.order, false, q.elem, q.serial, q.port, q.stamp⟩ : EWrite)
  { s with ord := { s.ord with wbuf := s.ord.wbuf ++ new, nextId := id + ws.length } }

def plainWrites (va : Nat) (bs : List Byte) : List (Nat × List Byte × Bool) := (chunksOf va bs).map fun c => (c.1, c.2, false)

/-- Writes of bytes that stood from `src` on, `bad` the poisoned lines there. -/
def psnWrites (dst src : Nat) (bs : List Byte) (bad : List Nat) : List (Nat × List Byte × Bool) :=
  (chunksOf dst bs).map fun c =>
    let a := src + (c.1 - dst)
    (c.1, c.2, bad.any fun l => decide (a / 64 ≤ l) && decide (l ≤ (a + c.2.length - 1) / 64))

/-- The request is taken. -/
def Req.take (q : Req) (s : State) : Req := { q with taken := true, order := s.ord.nextId }

def State.takeReq (s : State) (q : Req) : State := (s.modReq q.id fun _ => q.take s).nextId (s.ord.nextId + 1)

/-- Writes of the request that have not performed. -/
def State.pendingWrites (s : State) (id : Nat) : Bool := s.ord.wbuf.any fun w => w.req == id

def Req.slotOf (q : Req) (s : State) : Nat := ((s.run? q.run).map (·.slot)).getD 0

/-! ## Completions of the Landing engine (13 R283) -/

/-- A completion on a channel of a run. A queue that is full holds the engine's next completion for it, in order. -/
def State.complete (s : State) (run cchan : Nat) (t : Token) : State :=
  s.modRun run fun r => { r with comps := modAt (fun l => l ++ [t]) r.comps cchan }

/-- Layout of a completion. -/
def completionTok (status src : Nat) (tag : W32) (len : Nat) (cookie : W32) (m : Mark) (chan : Nat) : Token :=
  vecTok (packLanes [BitVec.ofNat 32 status, BitVec.ofNat 32 src, tag, BitVec.ofNat 32 len, cookie]) 0x1F m chan

def recvCookie (d : Line) : W32 := d.extractLsb' 256 32

/-! ## The transfer unit (R285 to R288) -/

def xfFrom (p : Line) : Nat := fld p 56 0
def xfTo (p : Line) : Nat := fld p 120 64
def xfFkind (p : Line) : Nat := fld p 161 160
def xfTkind (p : Line) : Nat := fld p 163 162
def xfCheck (p : Line) : Bool := fld p 165 164 == 1

/-- Sectors of a copy. -/
def Req.sectors (q : Req) : Nat := (q.len + 4095) / 4096

def Req.sectorDone (q : Req) (k : Nat) : Bool := decide (k < q.first) || q.doneS.contains k

/-- The lowest sixteen incomplete sectors. -/
def Req.window (q : Req) : List Nat :=
  ((List.range (min 64 (q.sectors - q.first))).map (q.first + ·)).filter (fun k => !q.sectorDone k) |>.take 16

/-- Marks a sector complete; while the run is not frozen (`live`) the next ones start (R287). -/
def Req.advance (q : Req) (k : Nat) (live : Bool) : Req :=
  let d := k :: q.doneS
  let n := ((List.range 65).takeWhile fun i => d.contains (q.first + i)).length
  let q := { q with first := q.first + n, doneS := d.filter fun x => decide (q.first + n ≤ x) }
  { q with inflight := if live then q.window else q.inflight.filter (· != k) }

/-- More writes of the request may come into the line of an address. -/
def Req.lineOpen (q : Req) (va : Nat) : Bool :=
  let l := va / 64 * 64
  let meets (a n : Nat) : Bool := decide (a < l + 64) && decide (l < a + n)
  q.kind == .xfer && !q.finished && (if xfCheck q.packet then
      ((List.range ((q.sectors + 15) / 16)).any fun b => decide (q.first ≤ 16 * b + 15) && meets (fld q.packet 312 256 + 32 * b) 32)
        || ((q.dst + q.off) % 64 != 0 && (q.dst + q.off) / 64 == va / 64)
    else (List.range q.sectors).any fun k =>
      let done := if k = q.first then q.off else 0
      !q.sectorDone k && meets (q.dst + 4096 * k + done) (min 4096 (q.len - 4096 * k) - done))

/-- Writes that the request may still make meet bytes: what it has not buffered yet (R161). -/
def Req.willMeet (q : Req) (va n : Nat) : Bool :=
  let meets (a m : Nat) : Bool := decide (a < va + n) && decide (va < a + m)
  q.kind == .xfer && q.taken && !q.finished && fld q.packet 163 162 != 1 && (if xfCheck q.packet then
      meets (fld q.packet 312 256) (32 * ((q.sectors + 15) / 16)) || meets (q.dst + q.off) (q.len + 64 * ((q.sectors + 15) / 16))
    else (List.range q.sectors).any fun k => !q.sectorDone k && meets (q.dst + 4096 * k) (min 4096 (q.len - 4096 * k)))

/-- The stream element of PEER 1 of a port in the request's configuration. -/
def State.peerElem (s : State) (e : ElemRef) (opc port : Nat) : Option ElemRef :=
  match s.site e with
  | none => none
  | some h =>
    (h.load.blks.zipIdx.flatMap fun (b, i) => b.words.zipIdx.filterMap fun (w, j) =>
      let p := b.poolW (fld w 9 0)
      if (w.extractLsb' 56 8).toNat = opc ∧ fld p 5 0 = port ∧ p.getLsbD 6 then some (⟨e.run, e.plane, e.load, i, j⟩ : ElemRef)
      else none).head?

/-- Bytes that a position gives a copy. -/
def posBytes (vec : Bool) (p : Pos) : List Byte :=
  match p with
  | .elided => List.replicate (if vec then 64 else 4) 0
  | .tok t => if t.vec then bytesOfLine (dataLine [p]) else natBytes 4 t.word.toNat

/-- Bytes as DATA tokens of a channel, vector tokens on a vector link. -/
def bytesTokens (vec : Bool) (fmt chan : Nat) (bs : List Byte) : List Token :=
  let w := if vec then 64 else fmtBytes fmt
  (List.range ((bs.length + w - 1) / w)).map fun i =>
    let x := (bs.drop (w * i)).take w
    if w = 64 then vecTok (lineOf x) 0xFFFF .data chan else scalarTok (BitVec.ofNat 32 (bytesNat x)) .data chan

/-- Kind of the links out of a stream element: vector. -/
def Here.outVec (h : Here) (idx : Nat) : Bool :=
  (((blkLinks h.blk).find? fun l => l.1 == idx).map fun l => inputVec h.blk l.2.2.idx.toNat l.2.2.inp.toNat).getD false

/-- Puts tokens behind the results of a stream element. -/
def State.emitAt (s : State) (e : ElemRef) (ts : List Token) : State :=
  match s.site e with
  | none => s
  | some h =>
    match (instrAt h.blk e.idx).bind fabOf with
    | none => s
    | some f =>
      let outs := (if f.cona.isSome then [0] else []) ++ if f.conb.isSome then [1] else []
      s.modElem e fun el => { el with out := el.out ++ laterItems (ts.map fun t => outs.map fun k => .tok k t) }

/-- The copy is complete: its completion token. -/
def State.xferEnd (s : State) (q : Req) : State :=
  s.statusReq q (q.status + 256 * q.changed)

/-- Ends a copy whose sectors and writes have all performed. -/
def State.xferTry (s : State) (id : Nat) : State :=
  match s.req? id with
  | none => s
  | some q =>
    if q.kind = .xfer ∧ q.taken ∧ q.finished ∧ !s.pendingWrites id then s.xferEnd q else s

/-- Lines of the request that its last write has left open until now are set full, when none of its writes in them is still to perform
(07 R134). -/
def State.closeLines (s : State) (id : Nat) : State :=
  match s.req? id with
  | none => s
  | some q =>
    let ready (l : Nat) : Bool := !q.lineOpen l && !(s.ord.wbuf.any fun w => w.req == id && w.va / 64 == l / 64 && !w.sent)
    let slot := q.slotOf s
    let s := (q.opened.filter ready).foldl (fun s l => match s.vplace slot l true with
      | .ok (.hbm a) => s.setFull a
      | .ok (.remote m x g) => s.sendFlit 3 ⟨g, BitVec.ofNat 52 x, 0xF1, s.chip.modnum, BitVec.ofNat 8 m, 0, 1, 0, 0, 0, 0⟩
      | _ => s) s
    s.modReq id fun q => { q with opened := q.opened.filter fun l => !ready l }

/-- A relation header that a copy names: what its owner node holds, else the line (R161); none: it has a defect of 06 R107. -/
def State.withHdr (s : State) (q : Req) (slot va : Nat) (go : State → Option Line → State) : State :=
  let use (s : State) (h : Line) (psn : Bool) : State := go s (if psn || hdrBad h then none else some h)
  if va % 64 ≠ 0 then go s none
  else match s.relHold slot va with
    | some x => use s x.hdr false
    | none => s.withLine q slot va use

/-- Address and extent of an end of a copy. -/
def State.withEnd (s : State) (q : Req) (slot kind va : Nat) (go : State → Option (Nat × Nat) → State) : State :=
  if kind = 2 then s.withHdr q slot va fun s o => go s (o.map fun h => (hdrFull h, fullExtent h)) else go s (some (va, 0))

/-- DEQUEUE of a copy: headers are read now, as whole lines (R161). -/
def State.dequeueXfer (s : State) (q : Req) (slot : Nat) : State :=
  let p := q.packet
  s.withEnd q slot (xfFkind p) (xfFrom p) fun s from_ => s.withEnd q slot (xfTkind p) (xfTo p) fun s to_ =>
    match from_, to_ with
    | some (src, en), some (dst, em) =>
      let len := if fld p 159 128 ≠ 0 then fld p 159 128 else if xfFkind p = 2 then en else em
      let q' := { q with src := src, dst := dst, len := len, finished := decide (len = 0) }
      (s.takeReq { q' with inflight := q'.window }).xferTry q.id
    | _, _ => s.statusReq q 3

/-- One block of a checkpoint (R288): its hash, its manifest entry and, when it changed, its record; `bad`: the poisoned source lines. -/
def State.checkBlock (s : State) (q : Req) (slot k : Nat) (bs : List Byte) (bad : List Nat) (old : List Byte) : State :=
  let p := q.packet
  let psn := !bad.isEmpty
  let hash := if psn then List.replicate 32 255 else sha3 bs
  let changed := psn || fld p 248 192 = 0 || hash != old
  let man := plainWrites (fld p 312 256 + 32 * k) hash
  let at_ := q.dst + q.off
  let pad := bs ++ List.replicate ((64 - bs.length % 64) % 64) 0
  let recs := plainWrites at_ (natBytes 4 k ++ natBytes 4 bs.length ++ List.replicate 56 0)
    ++ psnWrites (at_ + 64) (q.src + 65536 * k) pad bad
  let s := s.bufWrites q slot (man ++ if changed then recs else [])
  s.modReq q.id fun x => if changed then { x with changed := x.changed + 1, off := x.off + 64 + pad.length } else x

/-- Takes what the stream element holds, up to `n` bytes; an EOS before them is taken too, and ends the copy. -/
def takeStream (vec : Bool) : Nat → Nat → Elem → List Byte → Elem × List Byte × Bool
  | 0, _, e, acc => (e, acc, false)
  | fuel + 1, n, e, acc =>
    if n ≤ acc.length then (e, acc, false)
    else if e.finished then (e, acc, true)
    else match e.head 0 with
      | none => (e, acc, false)
      | some p =>
        if p.mark = .eos then ({ e.pop 0 with finished := true, ended := true }, acc, true)
        else if p.isEnd then takeStream vec fuel n (e.pop 0) acc
        else takeStream vec fuel n (e.pop 0) (acc ++ posBytes vec p)

/-- A fault of a copy on sector `k`. In a freeze it is logged as deferred and the sector is taken again on resume (R287). -/
def State.failSector (s : State) (q : Req) (r : Run) (k : Nat) (e : WalkFault) (va access : Nat) : State :=
  if r.st = .resident then s.faultReq q e va access k
  else
    let i := { xlatInfo e va access (s.elemInfo q.elem 0 2) with flags := 2, aux := k, packet := q.packet }
    (s.reportRing r.die (s.identity q.run) (some r.esc.sqc) (some (r.getG 62).toNat) (some (r.getG 63).toNat) i).modReq q.id fun x =>
      { x with inflight := x.inflight.filter (· != k) }

/-- The sector is complete. The last, or one that an EOS cut short, ends the copy; an EOT follows on a stream. -/
def State.closeSector (s : State) (id k : Nat) (live short : Bool) (toStream : Option ElemRef) : State :=
  let s := s.modReq id fun x =>
    let x := x.advance k live
    let x := if short then { x with status := 1 } else x
    { x with finished := short || decide (x.sectors ≤ x.first) }
  let s := s.closeLines id
  match s.req? id, toStream with
  | some q, some e =>
    if q.finished then
      let ch := ((s.site e).map fun h => h.blk.chanNo e.idx).getD 0
      let vec := ((s.site e).map fun h => h.outVec e.idx).getD false
      s.emitAt e [{ eosTok vec ch with mark := .eot }]
    else s
  | _, _ => s.xferTry id

/-- Bytes of a copy leave: to the stream, or into the write buffer. -/
def State.putBytes (s : State) (q : Req) (slot at_ src : Nat) (bs : List Byte) (bad : List Nat) (toStream : Option ElemRef) : State :=
  match toStream with
  | some e => match s.site e with
    | some h => s.emitAt e (bytesTokens (h.outVec e.idx) (h.load.chan (h.blk.chanNo e.idx)).fmt (h.blk.chanNo e.idx) bs)
    | none => s
  | none => s.bufWrites q slot (psnWrites at_ src bs bad)

/-- The first line of a range that cannot be written. -/
def State.unwritable (s : State) (slot va n : Nat) : Option (WalkFault × Nat) :=
  (chunksOf va (List.replicate n 0)).findSome? fun c => match s.vplace slot c.1 true with
    | .ok _ => none
    | .error e => some (e, c.1)

/-- A source line was poisoned (R286). -/
def State.notePoison (s : State) (id : Nat) (bad : List Nat) : State := if bad.isEmpty then s else s.modReq id fun x => { x with status := 2 }

/-- A stream source gives what it holds: positions in order, so only the first sector goes on; `off` bytes of it have been taken. -/
def State.streamSector (s : State) (q : Req) (r : Run) (k n : Nat) (toStream : Option ElemRef) : State :=
  match s.peerElem q.elem 0xDB (fld q.packet 5 0) with
  | none => s
  | some e => match s.site e with
    | none => s
    | some h =>
      if k ≠ q.first ∨ r.st ≠ .resident then s
      else
        let (el, bs, eos) := takeStream (inputVec h.blk e.idx 0) 4096 (n - q.off) h.elem []
        let bs := bs.take (n - q.off)
        let s := ((s.modElem e fun _ => el).noteDone e).putBytes q r.slot (q.dst + 4096 * k + q.off) 0 bs [] toStream
        if q.off + bs.length = n then (s.modReq q.id fun x => { x with off := 0 }).closeSector q.id k true false toStream
        else
          let s := s.modReq q.id fun x => { x with off := q.off + bs.length }
          if eos then s.closeSector q.id k true true toStream else s

/-- A sector of a checkpoint: its block is hashed with the block's last sector (R288). -/
def State.checkSector (s : State) (q : Req) (r : Run) (k : Nat) : State :=
  let p := q.packet
  let live := r.st == .resident
  if k ≠ q.first then s
  else if (k + 1) % 16 ≠ 0 ∧ k + 1 ≠ q.sectors then s.closeSector q.id k live false none
  else
    let b := k / 16
    let m := min 65536 (q.len - 65536 * b)
    let bad (s : State) (e : WalkFault) (x : Nat) : State := s.failSector q r k e x 3
    s.withRead q r.slot (q.src + 65536 * b) m bad fun s bs psn =>
      let finish (s : State) (old : List Byte) : State :=
        match (s.unwritable r.slot (q.dst + q.off) (m + 64)).orElse fun _ => s.unwritable r.slot (fld p 312 256 + 32 * b) 32 with
        | some (e, x) => s.failSector q r k e x 4
        | none => ((s.checkBlock q r.slot b bs psn old).notePoison q.id psn).closeSector q.id k live false none
      if fld p 248 192 = 0 then finish s []
      else s.withRead q r.slot (fld p 248 192 + 32 * b) 32 bad fun s old psn => finish s (if psn.isEmpty then old else [])

/-- A sector completes: its bytes are read and its writes enter the buffer (R286, R287). Sectors in flight complete during a freeze,
no new one starts. -/
def State.sectorDone (s : State) (id k : Nat) : State :=
  match s.req? id with
  | none => s
  | some q =>
    match s.run? q.run with
    | none => s
    | some r =>
      let p := q.packet
      let live := r.st == .resident
      let toStream := if xfTkind p = 1 then s.peerElem q.elem 0xDA (fld p 69 64) else none
      if q.kind ≠ .xfer ∨ !q.taken then s
      else if q.finished then
        -- the EOT of a stream destination has left
        match toStream with
        | none => s.xferTry id
        | some e => if ((s.site e).map fun h => (dropEmpty h.elem.out).isEmpty).getD true then s.xferTry id else s
      else if q.sectorDone k ∨ !(q.inflight.contains k || (live && q.window.contains k)) then s
      else
        let n := min 4096 (q.len - 4096 * k)
        if xfFkind p = 1 then s.streamSector q r k n toStream
        else if xfCheck p then s.checkSector q r k
        else if toStream.isSome ∧ k ≠ q.first then s
        else
          s.withRead q r.slot (q.src + 4096 * k) n (fun s e x => s.failSector q r k e x 3) fun s bs psn =>
            match if toStream.isSome then none else s.unwritable r.slot (q.dst + 4096 * k) n with
            | some (e, x) => s.failSector q r k e x 4
            | none =>
              ((s.putBytes q r.slot (q.dst + 4096 * k) (q.src + 4096 * k) bs psn toStream).notePoison id psn).closeSector id k live false toStream

def execXferSectorDone (req sector : Nat) (s : State) : Out := .next (s.sectorDone req sector)

/-! ## Stashes (07 R143, R144, 13 R289, R290) -/

/-- Pool word p+1 of a STASH: RMAX. -/
def State.rmaxOf (s : State) (e : ElemRef) : Nat :=
  match s.site e with
  | none => 0
  | some h => match (instrAt h.blk e.idx).bind fabOf with
    | none => 0
    | some f => fld (h.blk.poolW (fld f.imm 9 0 + 1)) 24 0

/-- Units reserved in an area by the open records of a descriptor. -/
def State.reserved (s : State) (slot va area : Nat) : Nat :=
  ((s.ord.reqs.filter fun q => q.kind == .stash && q.taken && q.va == va && q.area == area && q.slotOf s == slot).map fun q => q.off).foldl (· + ·) 0

/-- DEQUEUE of a STASH: the descriptor is read and RMAX units reserved, or it stalls. -/
def State.dequeueStash (s : State) (q : Req) (slot : Nat) : State :=
  s.withLine q slot q.va fun s d psn =>
    if psn || stashBad d then s.trapReq q .stashhdr
    else
      let rmax := s.rmaxOf q.elem
      let take (area : Nat) : State := s.takeReq { q with area := area, off := rmax, stallAt := none, desc := d }
      if fld d 511 480 + s.reserved slot q.va 0 + rmax ≤ fld d 447 416 then take 0
      else if fld d 479 448 + s.reserved slot q.va 1 + rmax ≤ fld d 415 384 then take 1
      else s.modReq q.id fun x => { x with stallAt := some (x.stallAt.getD s.cycle) }

/-- Bytes of a record: header, data, side entries, each padded (R289). -/
def recordOf (vec : Bool) (chan : Nat) (ts : List Token) : List Byte :=
  let pad (l : List Byte) : List Byte := l ++ List.replicate ((64 - l.length % 64) % 64) 0
  let n := ts.length
  let head := natBytes 64 (n + (if vec then 2 ^ 32 else 0) + chan * 2 ^ 33)
  let data := ts.flatMap fun t => if t.vec then bytesOfLine t.data else natBytes 4 t.word.toNat
  let side := ts.flatMap fun t => natBytes 4 (t.lmask.toNat + 65536 * t.mark.code)
  head ++ pad data ++ pad side

/-- The open STASHes of a descriptor, and the first of them in dequeue order (R289). -/
def State.openStashes (s : State) (slot va : Nat) : List Req :=
  s.ord.reqs.filter fun q => q.kind == .stash && q.taken && q.va == va && q.slotOf s == slot

def State.firstStash (s : State) (slot va : Nat) : Option Req :=
  (s.openStashes slot va).foldl (fun b q => match b with
    | none => some q
    | some b => if q.order < b.order then some q else some b) none

/-- Where a record goes: the area's place behind what is used. -/
def stashPlace (d : Line) (area : Nat) : Nat :=
  if area = 0 then fld d 312 256 + 64 * fld d 511 480 else fld d 376 320 + 64 * fld d 479 448

/-- The used counts of an engine's copy of a descriptor. -/
def withUsed (d e : Line) : Line := putFld (putFld d 480 32 (fld e 511 480)) 448 32 (fld e 479 448)

/-- The record of the earliest open request of a descriptor is complete: its writes and the descriptor's write-back begin. The write-back is the
descriptor as DEQUEUE read it (R161) with the used count raised; the requests open behind it count on from there (log 112). -/
def State.stashTry (s : State) (slot va : Nat) : State :=
  match s.firstStash slot va with
  | none => s
  | some q =>
    if !q.finished ∨ s.pendingWrites q.id ∨ q.changed ≠ 0 then s
    else
      let d := q.desc
      let vec := (q.held.head?.map (·.vec)).getD false
      let chan := (q.held.head?.map (·.chan)).getD 0
      let used := if q.area = 0 then fld d 511 480 else fld d 479 448
      let d' := putFld d (if q.area = 0 then 480 else 448) 32 (used + recordUnits q.held.length (if vec then 64 else 4))
      let behind := ((s.openStashes slot va).filter fun x => x.id != q.id).map (·.id)
      let ws := plainWrites (stashPlace d q.area) (recordOf vec chan q.held) ++ plainWrites va (bytesOfLine d')
      let s := behind.foldl (fun s i => s.modReq i fun x => { x with desc := withUsed x.desc d' }) s
      (s.modReq q.id fun x => { x with changed := 1, src := used }).bufWrites q slot ws

/-- The record's writes and the write-back have performed: its handle. -/
def State.stashEnd (s : State) (q : Req) : State :=
  let slot := q.slotOf s
  let m := ((q.held.getLast?).map Token.struct).getD .data
  let h := BitVec.ofNat 32 (q.area * 2 ^ 31 + q.src % 2 ^ 31)
  (s.answerReq q [bothOut (scalarTok h m q.chan)]).stashTry slot q.va

/-- A position as a stash keeps it; an elided one has no lane. -/
def heldTok (vec : Bool) (chan : Nat) (p : Pos) : Token :=
  match p with
  | .elided => ⟨vec, 0, 0, .data, 0, chan⟩
  | .tok t => { t with skip := 0 }

/-- STASH fires: its first position sends the request and waits; then one position a firing joins the record. An end token ends an
open record (log 35) and is passed on behind it. -/
def stashFire (x : FireIn) : Fire :=
  match x.elem.ctl, x.avail 0 with
  | _, none => .wait
  | .stash none, some p =>
    match portEnd x [0] [p] false none id with
    | some r => r
    | none =>
      match x.enter { elem := x.elem, takes := [] } x.port p.struct [{ kind := .stash, va := x.relVa, width := 0 }] with
      | .act a => .act { a with elem := { a.elem with ctl := .stash (some (x.s.ord.nextId + 1)) } }
      | r => r
  | .stash (some id), some p =>
    match x.s.req? id with
    | none => .wait
    | some q =>
      if !q.taken then .wait
      else
        let fin (s : State) : State := (s.modReq id fun y => { y with finished := true }).stashTry x.run.slot q.va
        if p.isEnd then
          .act { elem := { x.elem with ctl := .stash none }, eff := fin }
        else
          let vec := inputVec x.blk x.ref.idx 0
          let n := q.held.length + 1
          let rmax := fld (x.pool (x.imm 9 0 + 1)) 24 0
          if rmax < recordUnits n (if vec then 64 else 4) then
            -- STASHREC: what has been taken stays written, the record is not counted
            .act { elem := { x.elem with ctl := .stash none, out := x.elem.out.filter fun i => i.rid != q.rid || i.ready }
                   eff := fun s =>
                     let ws := plainWrites (stashPlace q.desc q.area) (recordOf vec ((q.held.head?.map (·.chan)).getD 0) q.held)
                     let s := (s.bufWrites q x.run.slot ws).dropReq id
                     (s.stashTry x.run.slot q.va).takeTrap x.ref.run .stashrec (x.info .stashrec) }
          else
            let last := p.struct == .last2 || (x.md == 0 && p.struct == .last)
            -- an elided position is on the channel of the token that carries it
            let t := heldTok vec (((x.elem.queue 0).head?.map (·.chan)).getD x.rcNo) p
            .act { elem := { x.elem.pop 0 with ctl := if last then .stash none else x.elem.ctl }
                   eff := fun s =>
                     let s := s.modReq id fun y => { y with held := y.held ++ [t] }
                     if last then fin s else s }
  | _, _ => .wait

def execStash (f : Fab) (s : State) : Out := fire (.stash f) stashFire s

/-- A STASH stalled for 2^16 cycles raises STASHFULL with its record unwritten (07 R144). -/
def State.stashTimeout (s : State) (id : Nat) : State :=
  match s.req? id with
  | none => s
  | some q =>
    match q.stallAt with
    | none => s
    | some c => if q.kind = .stash ∧ !q.taken ∧ c + 2 ^ 16 ≤ s.cycle then s.trapReq q .stashfull else s

def execStashStallTimeout (req : Nat) (s : State) : Out := .next (s.stashTimeout req)

/-- The positions of a record, on one output. -/
def recordEmit (vec : Bool) (chan : Nat) (data side : List Byte) (bad : Nat → Bool) (i o : Nat) : Emit :=
  let e := if vec then 64 else 4
  let w := bytesNat ((side.drop (4 * i)).take 4)
  let mask := BitVec.ofNat 16 w
  let m := Mark.ofCode (w / 65536 % 8)
  let v := lineOf ((data.drop (e * i)).take e)
  if bad i then .tok o (poisonTok vec m chan)
  else if vec then emitVec o v mask m chan
  else if mask = 0 ∧ m = .data then .elide o 1 false chan
  else .tok o (scalarTok (v.setWidth 32) m chan)

/-- DEQUEUE of an UNSTASH: descriptor, record header, positions (R290). -/
def State.dequeueUnstash (s : State) (q : Req) (slot : Nat) : State :=
  let h := fld q.packet 31 0
  let area := h / 2 ^ 31
  let off := h % 2 ^ 31
  let fail (s : State) (e : WalkFault) (x : Nat) : State := s.faultReq q e x 3 0
  s.withLine q slot q.va fun s d psn =>
    let used := if area = 0 then fld d 511 480 else fld d 479 448
    let base := (if area = 0 then fld d 312 256 else fld d 376 320) + 64 * off
    if psn || stashBad d || decide (used ≤ off) then s.trapReq q .stashhdr
    else s.withLine q slot base fun s hd hpsn =>
      let n := fld hd 31 0
      let vec := hd.getLsbD 32
      let e := if vec then 64 else 4
      let dlen := (n * e + 63) / 64 * 64
      if hpsn || fld hd 511 38 != 0 || decide (used < off + recordUnits n e) then s.trapReq q .stashhdr
      else s.withRead q slot (base + 64) (dlen + 4 * n) fail fun s bs psn =>
        let bad (i : Nat) : Bool := psn.any fun l => l == (base + 64 + e * i) / 64 || l == (base + 64 + dlen + 4 * i) / 64
        let pos := recordEmit vec (fld hd 37 33) (bs.take dlen) (bs.drop dlen) bad
        s.answerReq q ((List.range n).map fun i => [pos i 0, pos i 1])

/-! ## Messaging (R279 to R284) -/

def recvMatches (d : Line) (run : Nat) (dst : Nat) (src : Nat) (tag : W32) : Bool :=
  run == dst && Nat.land src (fld d 239 216) == Nat.land (fld d 215 192) (fld d 239 216)
    && Nat.land tag.toNat (fld d 191 160) == Nat.land (fld d 159 128) (fld d 191 160)

def recvBad (d : Line) : Bool :=
  fld d 511 288 != 0 || fld d 255 240 != 0 || fld d 127 101 != 0 || fld d 63 57 != 0 || fld d 56 0 % 64 != 0 || fld d 100 97 == 0

def sendBad (d : Line) : Bool :=
  fld d 511 216 != 0 || fld d 191 160 != 0 || fld d 127 96 != 0 || fld d 63 57 != 0 || fld d 56 0 % 64 != 0
    || decide (2 ^ 24 < fld d 95 64)

/-- The sender's status, on its element or back to its module. -/
def State.answerSender (s : State) (req : Nat) (back : Option Flit) (st : Nat) : State :=
  match back with
  | some f => s.replyFlit 8 f 0 0 4 (BitVec.ofNat 512 st)
  | none => match s.req? req with
    | some q => s.statusReq q st
    | none => s

def State.sendStatus (s : State) (m : Msg) (st : Nat) : State := s.answerSender m.req m.back st

/-- The message is on its way no more. -/
def State.dropMsg (s : State) (m : Msg) : State :=
  { s with eng := { s.eng with arrivals := s.eng.arrivals.erase m, unexpected := s.eng.unexpected.erase m } }

/-- Goes on with the payload of a message and its poisoned lines, read from the sender's buffer unless it travelled. A translation fault there is
the SEND's, precise at its firing (13 R269); the receive that it had matched stands in its list again. -/
def State.withPayload (s : State) (m : Msg) (go : State → List Byte → List Nat → State) : State :=
  if m.bytes.length = m.len then go s m.bytes m.poison
  else match s.req? m.req with
    | none => s
    | some q => s.withRead q (q.slotOf s) q.src m.len (fun s e x =>
        if (s.reqRun q).isNone then s
        else
          let s := s.dropMsg m
          let s := { s with eng := { s.eng with posts := m.matched.toList ++ s.eng.posts } }
          s.faultReq q e x 3 0) fun s bs psn => go s bs (psn.map (· - q.src / 64))

/-- The header of a relation that a message lands in: the engine's own write of it that has not performed, or what stands in memory. -/
def State.landHdr (s : State) (slot va : Nat) : Except HdrErr Line :=
  match (s.ord.wbuf.filter fun w => w.slot == slot && w.va == va && w.eng == .postr && w.bytes.length == 64).getLast? with
  | some w => if hdrBad (lineOf w.bytes) then .error (.trap false) else .ok (lineOf w.bytes)
  | none => s.relHdr slot va

/-- REL with a LEN that is not a multiple of 32: BADDESC, nothing done (R283). -/
def relLenBad (d : Line) (len : Nat) : Bool := d.getLsbD 96 && len % 32 != 0

/-- The landing of a request has performed its writes: the completion, and the sender's status (R282, 18 "Messages, chained"). -/
def State.landed (s : State) (q : Req) : State :=
  let s := q.held.foldl (fun s t => s.complete q.run q.chan t) (s.dropReq q.id)
  match q.sender with
  | some (req, back) => s.answerSender req back q.changed
  | none => s

/-- Lands a payload at a receive. The completion and the sender's status follow when its writes have performed. -/
def State.land (s : State) (r : Run) (p : Post) (m : Msg) (bs : List Byte) (bad : List Nat) : State :=
  let d := p.desc
  let dest := fld d 56 0
  let psn := !bad.isEmpty
  let (id, s) := { s with eng := { s.eng with matched := insertNew (r.id, recvCookie d) s.eng.matched } }.fresh
  let finish (st n : Nat) (ws : List (Nat × List Byte × Bool)) : State :=
    let q : Req :=
      { id := id, run := r.id, die := r.die, elem := p.elem, rid := 0, kind := .postr, va := dest, packet := d
        mark := .data, chan := fld d 100 97, serial := p.serial, port := p.port, stamp := p.stamp, taken := true
        src := 0, dst := 0, len := 0, desc := d, first := 0, doneS := [], inflight := []
        status := st, held := [completionTok st m.src m.tag n (recvCookie d) .data 0], changed := if psn then 3 else 0
        off := 0, area := 0, stallAt := none, finished := true, order := id, opened := [], sender := some (m.req, m.back) }
    if ws.isEmpty then s.landed q
    else ({ s with ord := { s.ord with reqs := s.ord.reqs ++ [q] } }).bufWrites q r.slot ws
  if !d.getLsbD 96 then
    let n := min m.len (fld d 95 64)
    finish (if psn then 3 else if fld d 95 64 < m.len then 1 else 0) n (psnWrites dest 0 (bs.take n) bad)
  else match s.landHdr r.slot dest with
    | .error _ => finish 4 0 []
    | .ok h =>
      if hdrOpen h then finish 4 0 []
      else
        let fit := min (m.len / 32) (2 ^ hdrLlist h - hdrNDelta h)
        let h' := putFld h 64 32 (hdrNDelta h + fit)
        let ws := psnWrites (hdrDelta h + 32 * hdrNDelta h) 0 (bs.take (32 * fit)) bad ++ plainWrites dest (bytesOfLine h')
        finish (if psn then 3 else if fit < m.len / 32 then 1 else 0) (32 * fit) ws

/-- A message to another module sets out: the envelope, then the payload in 64-byte flits under the same tag (log 36). -/
def State.sendFar (s : State) (q : Req) (dst : Nat) (tag : W32) (len : Nat) (bs : List Byte) (bad : List Nat) : State :=
  let env : Line := BitVec.ofNat 512 (s.identity q.run + dst * 2 ^ 32 + tag.toNat * 2 ^ 64 + len * 2 ^ 96)
  match s.request 7 (dst / 65536) 0 0 0 1 16 env (.acc q.id) none with
  | none => s
  | some t =>
    match t.chip.flits.getLast? with
    | none => s
    | some (_, f) =>
      let t := (chunksOf 0 bs).foldl (fun t c =>
        t.sendFlit 7 { f with addr := BitVec.ofNat 52 (c.1 + 1), len := BitVec.ofNat 7 c.2.length
                              stat := if bad.contains (c.1 / 64) then 3 else 0, payload := lineOf c.2 }) t
      t.takeReq q

/-- DEQUEUE of a SEND: the descriptor is read; the message sets out (R281). -/
def State.dequeueSend (s : State) (q : Req) (slot : Nat) : State :=
  let go (s : State) (d : Line) (psn : Bool) : State :=
    if psn || sendBad d then s.statusReq q 7
    else
      let dst := fld d 215 192
      let len := fld d 95 64
      let tag := d.extractLsb' 128 32
      let q' := { q with desc := d, src := fld d 56 0, len := len }
      match s.own? dst with
      | some run => match s.run? run with
        | none => s.statusReq q 5
        | some t =>
          if t.slot ≠ slot then s.statusReq q 6
          else
            let m : Msg := ⟨t.die, s.identity q.run, run, tag, len, [], [], q.id, false, 0, none, none⟩
            let s := s.takeReq q'
            { s with eng := { s.eng with arrivals := s.eng.arrivals ++ [m] } }
      | none =>
        if !s.chip.peers.contains (dst / 65536) then s.statusReq q 5
        else s.withRead q slot (fld d 56 0) len (fun s e x => s.faultReq q e x 3 0) fun s bs psn =>
          s.sendFar q' dst tag len bs (psn.map (· - q'.src / 64))
  if q.va % 64 ≠ 0 then s.statusReq q 7 else s.withLine q slot q.va go

/-- Messages of a die in a list, numbered. -/
def nthOf (die k : Nat) (l : List Msg) : Option Msg := (l.filter fun m => m.die == die)[k]?

/-- A receive that a CANCELR of this cycle has removed would match: the arrival of such a message comes before that CANCELR, in an
earlier cycle, or after it, in a later one (R284). -/
def State.cancelledNow (s : State) (m : Msg) : Bool :=
  s.eng.cancels.any fun c => match c.2.2 with
    | some p => p.die == m.die && recvMatches p.desc p.run m.dst m.src m.tag
    | none => false

/-- The unexpected queue of a die, or the area of the tenant, is full. -/
def State.unexpectedFull (s : State) (die slot : Nat) : Bool :=
  let here := s.eng.unexpected.filter fun x => x.die == die
  let mine := here.filter fun x => ((s.run? x.dst).map fun z => s.tenantOf z.slot) == some (s.tenantOf slot)
  decide (4096 ≤ here.length) || decide (fld (s.tenant (s.tenantOf slot)) 107 95 ≤ mine.length)

/-- The message is refused: its sender's port sends it again 1,600 cycles later. -/
def State.refuse (s : State) (m : Msg) : State :=
  let m' := { m with refused := true, since := s.cycle }
  let s := { s with eng := { s.eng with arrivals := s.eng.arrivals.map fun x => if x = m then m' else x } }
  s.modReq m.req fun q => { q with stallAt := some s.cycle }

/-- The message joins the unexpected queue; a short one with its payload. -/
def State.storeMsg (s : State) (m : Msg) : State :=
  let add (s : State) (m : Msg) : State := { s with eng := { s.eng with unexpected := s.eng.unexpected ++ [m] } }
  if m.len ≤ 4096 then
    s.withPayload m fun s bs bad =>
      (add (s.dropMsg m) { m with bytes := bs, poison := bad, back := none, req := 0 }).sendStatus m (if bad.isEmpty then 0 else 3)
  else add (s.dropMsg m) m

/-- A message reaches the Landing engine (R282): the first matching receive in post order takes it, or it joins the unexpected
queue, or it is refused. Messages of one source, destination and tag class arrive in the order sent. One of another module that was
refused comes again when its time has passed. -/
def State.messageArrival (s : State) (die k : Nat) : State :=
  match nthOf die k s.eng.arrivals with
  | none => s
  | some m =>
    let before := (s.eng.arrivals.takeWhile fun x => x != m).any fun x =>
      x.src == m.src && x.dst == m.dst && x.tag.toNat / 2 ^ 24 == m.tag.toNat / 2 ^ 24
    let whole := m.back.isNone || m.bytes.length == m.len
    let wait := m.refused && (m.back.isNone || decide (s.cycle < m.since + 1600))
    if before || wait || !whole || s.cancelledNow m then s
    else match s.run? m.dst with
      | none => (s.dropMsg m).sendStatus m 5
      | some r =>
        match s.eng.posts.find? fun p => p.die == die && recvMatches p.desc p.run m.dst m.src m.tag with
        | some p =>
          if relLenBad p.desc m.len then (s.dropMsg m).sendStatus m 7
          else s.withPayload m fun s bs bad =>
            let s := s.dropMsg m
            ({ s with eng := { s.eng with posts := s.eng.posts.erase p } }).land r p m bs bad
        | none => if s.unexpectedFull die r.slot then s.refuse m else s.storeMsg m

def execMessageArrival (die k : Nat) (s : State) : Out := .next (s.messageArrival die k)

/-- The sender's port resends a refused message every 1,600 cycles. -/
def State.sendRetry (s : State) (id : Nat) : State :=
  match s.req? id with
  | none => s
  | some q =>
    match q.stallAt with
    | none => s
    | some c =>
      if q.kind ≠ .send ∨ s.cycle < c + 1600 then s
      else
        let as := s.eng.arrivals.map fun (m : Msg) => if m.req = id then { m with refused := false } else m
        let s := { s with eng := { s.eng with arrivals := as } }
        s.modReq id fun x => { x with stallAt := none }

def execSendRetry (req : Nat) (s : State) : Out := .next (s.sendRetry req)

/-- A long message that matched from the unexpected queue is pulled and completes. -/
def State.rendezvousPull (s : State) (die k : Nat) : State :=
  match nthOf die k s.eng.unexpected with
  | none => s
  | some m =>
    match m.matched, s.run? m.dst with
    | some p, some r => s.withPayload m fun s bs bad => (s.dropMsg m).land r p m bs bad
    | _, _ => s

def execRendezvousPull (die k : Nat) (s : State) : Out := .next (s.rendezvousPull die k)

/-- The first unexpected message that a receive of the run matches. -/
def State.firstUnexpected (s : State) (q : Req) (d : Line) : Option Msg :=
  s.eng.unexpected.find? fun m => m.die == q.die && m.matched.isNone && recvMatches d q.run m.dst m.src m.tag

/-- A receive as its request posts it. -/
def Req.post (q : Req) (d : Line) : Post := ⟨q.die, q.run, d, q.elem, q.serial, q.port, q.stamp⟩

/-- The posted-receive list of a die, or the tenant's part of it, is full. -/
def State.postsFull (s : State) (die slot : Nat) : Bool :=
  let here := s.eng.posts.filter fun p => p.die == die
  let mine := here.filter fun p => ((s.run? p.run).map fun r => s.tenantOf r.slot) == some (s.tenantOf slot)
  decide (1024 ≤ here.length) || decide (fld (s.tenant (s.tenantOf slot)) 94 84 ≤ mine.length)

/-- A POSTR with its descriptor. -/
def State.postRecv (s : State) (q : Req) (slot : Nat) (d : Line) : State :=
  match s.firstUnexpected q d, s.run? q.run with
  | some m, some r =>
    if relLenBad d m.len then s.statusReq q 7
    else if m.bytes.length = m.len then ((s.dropMsg m).land r (q.post d) m m.bytes m.poison).statusReq q 0
    else
      let un := s.eng.unexpected.map fun x => if x = m then { m with matched := some (q.post d) } else x
      let mt := insertNew (q.run, recvCookie d) s.eng.matched
      ({ s with eng := { s.eng with unexpected := un, matched := mt } }).statusReq q 0
  | none, _ =>
    if s.postsFull q.die slot then s.statusReq q 8
    else ({ s with eng := { s.eng with posts := s.eng.posts ++ [q.post d] } }).statusReq q 0
  | some _, none => s.dropReq q.id

/-- DEQUEUE of a POSTR or PROBEQ. A POSTR does not follow a CANCELR of its COOKIE in one cycle (R284). -/
def State.dequeueRecv (s : State) (q : Req) (slot : Nat) : State :=
  let probe := q.kind = .probeq
  let tok (st : Nat) (m : Option Msg) (d : Line) : Token :=
    completionTok st ((m.map (·.src)).getD 0) ((m.map (·.tag)).getD 0)
      ((m.map fun m => if d.getLsbD 96 then m.len else min m.len (fld d 95 64)).getD 0) (recvCookie d) q.mark q.chan
  let go (s : State) (d : Line) (psn : Bool) : State :=
    if psn || recvBad d then (if probe then s.answerReq q [[.tok 0 (tok 7 none d)]] else s.statusReq q 7)
    else if probe then
      let m := s.firstUnexpected q d
      let st := match m with
        | none => 9
        | some m => if relLenBad d m.len then 7 else 0
      s.answerReq q [[.tok 0 (tok st (if st = 0 then m else none) d)]]
    else if s.eng.cancels.any fun c => c.1 == q.run && c.2.1 == recvCookie d then s
    else s.postRecv q slot d
  if q.va % 64 ≠ 0 then go s 0 true else s.withLine q slot q.va go

/-- DEQUEUE of a CANCELR. -/
def State.dequeueCancel (s : State) (q : Req) : State :=
  let cookie : W32 := q.packet.setWidth 32
  let found := s.eng.posts.find? fun p => p.run == q.run && recvCookie p.desc == cookie
  let s := { s with eng := { s.eng with cancels := s.eng.cancels ++ [(q.run, cookie, found)] } }
  match found with
  | some p =>
    let s := { s with eng := { s.eng with posts := s.eng.posts.erase p } }
    (s.complete q.run (fld p.desc 100 97) (completionTok 2 0 0 0 cookie .data 0)).statusReq q 0
  | none => s.statusReq q (if s.eng.matched.contains (q.run, cookie) then 10 else 11)

/-! ## DEQUEUE and EWRITE -/

/-- DEQUEUE: an engine takes a request that has performed as an access of its port. -/
def State.dequeue (s : State) (id : Nat) : State :=
  match s.req? id with
  | none => s
  | some q =>
    match s.run? q.run with
    | none => s
    | some r =>
      if q.taken then s
      else match q.kind with
        | .xfer => s.dequeueXfer q r.slot
        | .stash => s.dequeueStash q r.slot
        | .unstash => s.dequeueUnstash q r.slot
        | .send => s.dequeueSend q r.slot
        | .postr | .probeq => s.dequeueRecv q r.slot
        | .cancelr => s.dequeueCancel q
        | _ => s

def execDequeue (req : Nat) (s : State) : Out := .next (s.dequeue req)

/-- What the last write of a request brings about. -/
def State.afterWrites (s : State) (id : Nat) : State :=
  if s.pendingWrites id then s
  else match s.req? id with
    | none => s
    | some q =>
      match q.kind with
      | .xfer => if xfTkind q.packet = 1 then s else s.xferTry id
      | .stash => if q.finished ∧ q.changed ≠ 0 then s.stashEnd q else s
      | .postr => s.landed q
      | _ => s

/-- A write of an earlier request of the engine on some of its bytes has still to come, or an earlier one of its own request (R161). -/
def State.writeHeld (s : State) (w : EWrite) : Bool :=
  let n := w.bytes.length
  (s.ord.wbuf.any fun x => x.die == w.die && x.eng == w.eng && x.slot == w.slot && decide (x.va < w.va + n) && decide (w.va < x.va + x.bytes.length)
      && (decide (x.order < w.order) || (x.order == w.order && decide (x.id < w.id))))
    || s.ord.reqs.any fun q => q.die == w.die && q.kind == w.eng && decide (q.order < w.order) && q.slotOf s == w.slot && q.willMeet w.va n

/-- The write is the last of its request in its line: none stands in the buffer, none can come. -/
def State.lineLast (s : State) (w : EWrite) : Bool :=
  !(s.ord.wbuf.any fun x => x.req == w.req && x.id != w.id && x.va / 64 == w.va / 64 && !x.sent)
    && !((s.req? w.req).map fun q => q.lineOpen w.va).getD false

/-- The write has performed and leaves the buffer. -/
def State.wroteOne (s : State) (id : Nat) : State :=
  match s.ord.wbuf.find? fun w => w.id == id with
  | none => s
  | some w => { s with ord := { s.ord with wbuf := s.ord.wbuf.filter fun x => x.id != id } }.afterWrites w.req

/-- A line that stays open is set full when the request is done with it. -/
def State.noteOpen (s : State) (w : EWrite) : State :=
  if w.sets && !s.lineLast w then s.modReq w.req fun q => { q with opened := insertNew (w.va / 64 * 64) q.opened } else s

/-- EWRITE (08 R161, R162): overlapping writes perform in request order; the last write of a request in a line sets it full. A write to
another module leaves as a WRREQ and has performed with its WRACK (log 33). A partial write to a poisoned line is discarded and logged
(07 R146). -/
def State.ewrite (s : State) (id : Nat) : State :=
  match s.ord.wbuf.find? fun w => w.id == id with
  | none => s
  | some w =>
    if w.sent || s.writeHeld w then s
    else match s.vplace w.slot w.va true with
      | .error e =>
        let up : Bool := match s.run? w.run with
          | some r => r.st == .resident
          | none => false
        if up then s.supervisorFault w.run (xlatInfo e w.va 4 (FaultInfo.base 0 2)) else s
      | .ok p => match s.yieldTo [(placeKey p, true)] with
        | none => s
        | some s =>
          let last := w.sets && s.lineLast w
          match p with
          | .remote m x g =>
            let op := 0xF0 + (if last then 1 else 0) + (if w.poison then 2 else 0)
            match s.request 3 m g x op 1 w.bytes.length (lineOf w.bytes) (.ewrite id) none with
            | none => s
            | some t => { t with ord := { t.ord with wbuf := t.ord.wbuf.map fun (y : EWrite) => if y.id = id then { y with sent := true } else y } }.noteOpen w
          | _ =>
            let (t, lost) := s.writeAt p w.bytes
            let s := if lost then s.logEvent w.die 0x30D none (some (s.identity w.run)) none none (some w.va) else t
            let s := match p with
              | .hbm a =>
                let s := if w.poison then s.markPoison a else s
                if last then s.setFull a else s
              | _ => s
            (s.noteOpen w).wroteOne id

def execEwrite (wr : Nat) (s : State) : Out := .next (s.ewrite wr)

/-- The answer to an engine's write at another module: done, or DENIED, which faults the run and leaves the write to be sent again. -/
def State.ewriteAnswer (s : State) (id : Nat) (f : Flit) : State :=
  if f.stat ≠ 2 then s.wroteOne id
  else match s.ord.wbuf.find? fun w => w.id == id with
    | none => s
    | some w =>
      let s := { s with ord := { s.ord with wbuf := s.ord.wbuf.map fun (y : EWrite) => if y.id = id then { y with sent := false } else y } }
      s.supervisorFault w.run { FaultInfo.base XFault.grantdeny.code 3 with va := w.va, access := some 4, aux := f.reason.toNat }

/-- A line that a request asked for has come, or is DENIED. -/
def State.fetchAnswer (s : State) (req va : Nat) (f : Flit) : State :=
  if f.stat ≠ 2 then
    { s with eng := { s.eng with fetched := s.eng.fetched.map fun x =>
        if x.req = req ∧ x.va = va then { x with got := some (f.payload, f.stat == 3) } else x } }
  else
    let s := { s with eng := { s.eng with fetched := s.eng.fetched.filter fun x => !(x.req == req && x.va == va) } }
    match s.req? req with
    | none => s
    | some q => match s.reqRun q with
      | none => s
      | some _ =>
        let i := { s.elemInfo q.elem XFault.grantdeny.code 3 with va := va, access := some 3, port := q.port, aux := f.reason.toNat }
        if q.kind = .xfer then s.supervisorFault q.run { i with packet := q.packet } else (s.undoReq q).supervisorFault q.run i

end Sys2Proof.Machine
end

