-- ==== Sys2Proof/Machine/Delta.lean ====
section
/-! DEFINITION. The delta engine and its reuse slots (07 R140 to R142, 12 R254 to R258), and the ingress decoder (05 R89). -/

namespace Sys2Proof.Machine

/-! ## Slots -/

/-- Record of a physical slot; zero, so FREE, unless bound. -/
def State.dslot (s : State) (die n : Nat) : Line := ((s.eng.slots.find? fun x => x.die == die && x.n == n).map (·.val)).getD 0

/-- Writes a record; a FREE slot's record is zero. -/
def State.setDslot (s : State) (die n : Nat) (v : Line) : State :=
  let rest := s.eng.slots.filter fun x => !(x.die == die && x.n == n)
  { s with eng := { s.eng with slots := if v = 0 then rest else rest ++ [⟨die, n, v⟩] } }

/-- 0 FREE, 1 BOUND, 2 WARM, 3 STALE. -/
def dsState (v : Line) : Nat := fld v 229 228
def dsTenant (v : Line) : Nat := fld v 235 230
def dsWver (v : Line) : W32 := v.extractLsb' 320 32
def dsHdr (v : Line) : Nat := fld v 306 256 * 64
def dsShape (v : Line) : Nat := fld v 140 128

/-- First slot and count of a tenant's range (23 R370). -/
def State.slotRange (s : State) (t : Nat) : Nat × Nat := (fld (s.tenant t) 73 65, fld (s.tenant t) 83 74)

/-- End of the reuse area of a tenant's range, in 64-byte units, and its start (23 R373). -/
def State.areaRange (s : State) (die t : Nat) : Nat × Nat :=
  let p := fld (s.die die).reusesize 31 0 / 512
  let (b, n) := s.slotRange t
  (p * b, p * (b + n))

/-- Physical address of a unit of the reuse area. -/
def State.areaAddr (s : State) (die u : Nat) : Nat := fld (s.die die).reusebase 56 12 * 4096 + 64 * u

/-- The tenant of a run. -/
def State.runTenant (s : State) (r : Run) : Nat := s.tenantOf r.slot

/-! ## Requests (R254) -/

/-- Slot that a program's number names for a run, when it is in range. -/
def State.slotOf (s : State) (r : Run) (n : Nat) : Option Nat :=
  let (b, c) := s.slotRange (s.runTenant r)
  if n < c then some (b + n) else none

/-- The oldest request for each slot begins as soon as it is the oldest. -/
def beginHeads : List Nat → List DReq → List DReq
  | _, [] => []
  | seen, q :: rest => if seen.contains q.num then q :: beginHeads seen rest else { q with begun := true } :: beginHeads (q.num :: seen) rest

def State.setDreqs (s : State) (die : Nat) (l : List DReq) : State :=
  let others := l.filter fun q => q.die != die
  { s with eng := { s.eng with dreqs := others ++ beginHeads [] (l.filter fun q => q.die == die) } }

/-- Sends a request to the die's engine; its completion token has a place behind the element's results. -/
def FireIn.delta (x : FireIn) (el : Elem) (op n : Nat) (ctrl xa : W32) (xc : Nat) (wa : W32) (wc : Nat) (takes : List (Nat × Pos)) : Fire :=
  let id := x.s.ord.nextId
  let num := (x.s.slotOf x.run n).getD (1000 + n)
  let q : DReq := ⟨id, x.run.die, x.ref.run, x.ref, id, op, n, ctrl, xa, xc, wa, wc, .data, x.rcNo, false, false, x.s.cycle⟩
  let q := { q with num := if op = 0 ∧ n = 0xFFFFFFFF then 512 else num }
  .act { elem := el
         later := [⟨id, false, [], 1, takes, none, none⟩]
         eff := fun s => (s.nextId (id + 1)).setDreqs x.run.die (s.eng.dreqs ++ [q]) }

/-- A completion token at once: of a POISON operand (R258). -/
def FireIn.deltaPoison (x : FireIn) (el : Elem) : Fire :=
  .act { elem := el, emits := x.all fun k => .tok k (poisonTok false .data x.rcNo) }

/-- DLBIND, DLREF and DLDROP: a slot number on i0. -/
def slotFire (op : Nat) (x : FireIn) : Fire :=
  match x.heads x.ins with
  | none => .wait
  | some ps =>
    match endPair x x.ins ps false with
    | some r => r
    | none =>
      let el := x.elem.pops x.ins
      if ps.any Pos.poison then x.deltaPoison el
      else x.delta el op ((ps.headD .elided).word.toNat) 0 0 0 0 0 (x.ins.zip ps)

def execDlbind (f : Fab) (s : State) : Out := fire (.dlbind f) (slotFire 0) s
def execDlref (f : Fab) (s : State) : Out := fire (.dlref f) (slotFire 2) s
def execDldrop (f : Fab) (s : State) : Out := fire (.dldrop f) (slotFire 3) s

def dlM (c : W32) : Nat := fld c 18 14 + 1
def dlN (c : W32) : Nat := 32 * (fld c 29 28 + 1)
def dlK (c : W32) : Nat := 32 * (fld c 27 22 + 1)
/-- MR, NC and KC as KSHAPE holds them. -/
def dlShape (c : W32) : Nat := fld c 18 14 * 256 + fld c 29 28 * 64 + fld c 27 22

/-- DLMUL reads its CTRL, X and W tokens (R257). -/
def dlmulFire (x : FireIn) : Fire :=
  match x.head 0 with
  | none => .wait
  | some p =>
    if p.isEnd then
      .act { elem := { x.elem.pop 0 with ended := p.mark == .eos }, emits := x.all fun k => .tok k { eosTok false x.rcNo with mark := p.mark } }
    else if p.mark != .ctrl then .trap .badctrl id
    else
      let c := p.word
      let ps := firstPos 3 (x.elem.queue 0)
      if (ps.drop 1).any Pos.isEnd then .trap .markskew id
      else if ps.length < 3 then .wait
      else if fld c 31 30 ≠ 0 ∨ fld c 13 9 ≠ 0 ∨ fld c 21 19 + fld c 29 28 > 7 ∨ (ps.drop 1).any (fun q => !q.isData) then .trap .badctrl id
      else
        let a := ps.getD 1 .elided
        let b := ps.getD 2 .elided
        let ca := x.load.chan (a.chan x.rcNo)
        let cb := x.load.chan (b.chan x.rcNo)
        let el := x.elem.pops [0, 0, 0]
        if a.poison || b.poison then x.deltaPoison el
        else if addrBad a.word (dlM c * dlK c * fmtBytes ca.fmt) || addrBad b.word (dlK c * dlN c * fmtBytes cb.fmt)
            || !(ca.fmt ≤ 2) || !((1 ≤ cb.fmt && cb.fmt ≤ 4) || cb.fmt == 7) then .trap .badctrl id
        else x.delta el 1 (fld c 8 0) c a.word (a.chan x.rcNo) b.word (b.chan x.rcNo) ([0, 0, 0].zip ps)

def execDlmul (f : Fab) (s : State) : Out := fire (.dlmul f) dlmulFire s

/-! ## Completion (R255 to R258) -/

/-- What a completed request does: status, slot that the token names, NT and ACCN, and the state. -/
structure Delta where
  status : Nat
  num    : Nat
  nt     : Nat := 0
  accn   : Nat := 0
  s      : State
  flags  : Flags := 0
  /-- An operand word with an uncorrectable error: a POISON completion and no change (log 37). -/
  psn    : Bool := false

/-- The request's number of the program. -/
def DReq.prog (q : DReq) (base : Nat) : Nat := if q.num = 512 then 512 else if q.num ≥ 1000 then q.num - 1000 else q.num - base

/-- FP32 units of the reuse area. -/
def State.areaWords (s : State) (die u n : Nat) : List W32 :=
  let bs := s.hbmRead (s.areaAddr die u) (4 * n)
  (List.range n).map fun i => BitVec.ofNat 32 (bytesNat ((bs.drop (4 * i)).take 4))

def State.putArea (s : State) (die u : Nat) (ws : List W32) : State :=
  let bs := ws.flatMap fun w => natBytes 4 w.toNat
  (chunksOf (s.areaAddr die u) bs).foldl (fun s c => (s.hbmWrite c.1 c.2).1) s

/-- DLBIND's record of a descriptor (R256). -/
def bindRecord (x : FireIn) (tenant : Nat) : Line :=
  let p := x.imm 9 0
  let w (i : Nat) : Nat := (x.pool (p + i)).toNat
  BitVec.ofNat 512 (w 2 % 2 ^ 32 * 2 ^ 448 + w 1 / 2 ^ 32 * 2 ^ 416 + w 2 / 2 ^ 32 * 2 ^ 384 + w 1 % 2 ^ 32 * 2 ^ 352
    + w 0 % 2 ^ 57 / 64 * 2 ^ 256 + w 4 / 2 ^ 16 % 256 * 2 ^ 248 + tenant * 2 ^ 230 + 2 ^ 228
    + w 3 % 2 ^ 32 * 2 ^ 192 + w 3 / 2 ^ 32 * 2 ^ 160 + w 4 % 2 ^ 16 * 2 ^ 144)

def bindDone (x : FireIn) (q : DReq) : Delta :=
  let s := x.s
  let t := s.runTenant x.run
  let (b, n) := s.slotRange t
  let (lo, hi) := s.areaRange x.run.die t
  let rec_ := bindRecord x t
  let oo := fld rec_ 223 192
  let ro := fld rec_ 191 160
  let ol := fld rec_ 159 144
  -- a slot of another tenant counts as FREE (R254)
  let free (i : Nat) : Bool := dsState (s.dslot x.run.die (b + i)) == 0 || dsTenant (s.dslot x.run.die (b + i)) != t
  let place (i : Nat) : Delta :=
    if oo < lo ∨ hi < oo + ol ∨ ro < lo ∨ hi ≤ ro then { status := 9, num := i, s := s }
    else match s.relRaw x.run.slot (dsHdr rec_) with
      | .ok h =>
        if hdrBad h || hdrKind h != 0 then { status := 11, num := i, s := s }
        else { status := 0, num := i, s := s.setDslot x.run.die (b + i) rec_ }
      | .error _ => { status := 11, num := i, s := s }
  if q.num = 512 then
    match (List.range n).find? free with
    | none => { status := 6, num := 512, s := s }
    | some i => place i
  else if q.num ≥ 1000 then { status := 8, num := q.num - 1000, s := s }
  else
    let i := q.num - b
    if free i then place i else { status := 7, num := i, s := s }

/-- Signed INT8 quantum of a difference over DSCALE, saturated. -/
def quantum (d scale : XVal) : Int :=
  if d.isNaN then 0
  else match d with
    | .inf n => if n then -128 else 127
    | _ => clampInt (-128) 127 (roundToInt 0 (XVal.divNum d scale)).1

/-- The full product of one row element: K-groups in ascending order from +0 (05 R97). -/
def fullWord (K : Nat) (row : Nat → XVal) (col : Nat → XVal) : W32 × Flags :=
  (List.range (K / 32)).foldl (fun r g =>
    let (w, f) := accGroup r.1 ((List.range 32).map fun j => prod (row (32 * g + j)) (col (32 * g + j)))
    (w, r.2 ||| f)) (0, 0)

/-- The delta product of one element: a zero quantum is an elided operand, for which no product is formed (04 R66, 05 R97). -/
def deltaWord (K : Nat) (y : W32) (scale : XVal) (qs : Nat → Int) (col : Nat → XVal) : W32 × Flags :=
  (List.range (K / 32)).foldl (fun r g =>
    let (w, f) := accGroup r.1 (((List.range 32).filter fun j => qs (32 * g + j) != 0).map fun j =>
      prod (XVal.mul (XVal.ofInt (qs (32 * g + j))) scale).1 (col (32 * g + j)))
    (w, r.2 ||| f)) (y, 0)

def mulDone (x : FireIn) (q : DReq) : Delta :=
  let s := x.s
  let die := x.run.die
  let t := s.runTenant x.run
  let (b, _) := s.slotRange t
  let (_, hi) := s.areaRange die t
  let c := q.ctrl
  let (M, N, K) := (dlM c, dlN c, dlK c)
  let n := fld c 8 0
  let stop (st : Nat) : Delta := { status := st, num := n, nt := fld c 29 28, accn := fld c 21 19, s := s }
  if q.num ≥ 1000 then stop 8
  else
    let v := s.dslot die (b + n)
    let st := dsState v
    if st = 0 ∨ dsTenant v ≠ t then stop 5
    else if M * K / 16 ≠ fld v 159 144 ∨ hi < fld v 191 160 + M * N / 16 then stop 10
    else
      let ca := x.load.chan q.xChan
      let cb := x.load.chan q.wChan
      let X := x.bankElems q.xAddr ca (M * K)
      let W := x.bankElems q.wAddr cb (K * N)
      if X.any Option.isNone || W.any Option.isNone then { stop 0 with psn := true }
      else
        let xv (i : Nat) : XVal := (X.getD i none).getD XVal.zero
        let wv (i : Nat) : XVal := (W.getD i none).getD XVal.zero
        let reshape := st = 2 ∧ dlShape c ≠ dsShape v
        let inv := fld v 247 240
        let refinv := inv = fld v 255 248
        let drift : W32 := v.extractLsb' 480 32
        let dlim : W32 := v.extractLsb' 448 32
        let refdrift := XVal.lt (f32 dlim.toNat) (f32 drift.toNat)
        let full := st ≠ 2 || reshape || refinv || refdrift
        let status := if st = 1 then 1 else if st = 3 then 2 else if reshape then 12 else if refinv then 3 else if refdrift then 4 else 0
        let keep (s : State) (v : Line) (ys : List W32) : State :=
          if q.hit then s.setDslot die (b + n) (putFld (s.dslot die (b + n)) 228 2 3)
          else
            let xs := (List.range (M * K)).map fun i => BitVec.ofNat 32 (r32 (xv i)).1
            ((s.setDslot die (b + n) v).putArea die (fld v 223 192) xs).putArea die (fld v 191 160) ys
        let show_ (s : State) (ys : List W32) : State :=
          s.modRun x.ref.run fun r =>
            let pl := r.plane x.ref.plane
            let ya := ys.toArray
            r.setPlane x.ref.plane ((List.range (N / 32)).foldl (fun pl j =>
              let a := pl.acc x.blk.page x.tile (fld c 21 19 + j)
              pl.setAcc { a with
                vals := a.vals.zipIdx.map fun (w, i) => if i / 32 < M then ya.getD (i / 32 * N + 32 * j + i % 32) 0 else w
                bad := a.bad.filter fun i => decide (M ≤ i / 32) }) pl)
        if full then
          match s.relRaw x.run.slot (dsHdr v) with
          | .error _ => stop 11
          | .ok h =>
            if hdrBad h || hdrKind h != 0 then stop 11
            else
              let ws := (List.range (M * N)).map fun i => fullWord K (fun k => xv (i / N * K + k)) (fun k => wv (k * N + i % N))
              let ys := ws.map (·.1)
              let v1 := putFld (putFld (putFld (putFld (putFld v 320 32 (hdrWver h).toNat) 228 2 2) 240 8 0) 480 32 0) 128 13 (dlShape c)
              { stop status with s := show_ (keep s v1 ys) ys, flags := ws.foldl (fun f w => f ||| w.2) 0 }
        else
          let prev := (s.areaWords die (fld v 223 192) (M * K)).toArray
          let yold := (s.areaWords die (fld v 191 160) (M * N)).toArray
          let scale := f32 (fld v 447 416)
          let ds := ((List.range (M * K)).map fun i => (XVal.sub (xv i) (f32 (prev.getD i 0).toNat)).1).toArray
          let qs := ds.map fun d => quantum d scale
          let ws := (List.range (M * N)).map fun i =>
            deltaWord K (yold.getD i 0) scale (fun k => qs.getD (i / N * K + k) 0) (fun k => wv (k * N + i % N))
          let ys := ws.map (·.1)
          let dropped := (List.range (M * K)).foldl (fun a i =>
            (XVal.add a (XVal.abs (XVal.sub (ds.getD i XVal.zero) (XVal.mul (XVal.ofInt (qs.getD i 0)) scale).1).1)).1) XVal.zero
          let nd := (roundFp 0 3 (XVal.add (f32 drift.toNat) (XVal.mul dropped (f32 (fld v 415 384))).1).1).1
          let v1 := putFld (putFld (putFld v 240 8 (inv + 1)) 480 32 nd) 128 13 (dlShape c)
          { stop 0 with s := show_ (keep s v1 ys) ys, flags := ws.foldl (fun f w => f ||| w.2) 0 }

def refDone (x : FireIn) (q : DReq) (drop : Bool) : Delta :=
  let s := x.s
  let t := s.runTenant x.run
  let (b, _) := s.slotRange t
  if q.num ≥ 1000 then { status := 8, num := q.num - 1000, s := s }
  else
    let n := q.num - b
    let v := s.dslot x.run.die q.num
    if dsState v = 0 ∨ dsTenant v ≠ t then { status := 5, num := n, s := s }
    else if drop then { status := 0, num := n, s := s.setDslot x.run.die q.num 0 }
    else { status := 0, num := n, s := if dsState v = 2 then s.setDslot x.run.die q.num (putFld v 228 2 1) else s }

/-- DELTA_COMPLETE: the oldest request for its slot finishes, and its completion token stands in its place. A DLMUL writes no
accumulator that is draining (R236). -/
def deltaComplete (id : Nat) (x : FireIn) (_ : Instr) : Fire :=
  match x.s.eng.dreqs.find? fun q => q.id == id with
  | none => .wait
  | some q =>
    if !q.begun then .wait
    else if q.op = 1 ∧ (List.range (fld q.ctrl 29 28 + 1)).any fun j => (drainingOf x.blk x.ref.idx).contains (fld q.ctrl 21 19 + j) then .wait
    else
      let d := if q.op = 0 then bindDone x q else if q.op = 1 then mulDone x q else refDone x q (q.op == 3)
      -- a slot number that the field cannot hold, and the slot of an automatic DLBIND that found none, have no stated NUM (log 51)
      let num := if d.num < 512 then d.num else (Config.freeWord x.s.free).toNat % 512
      let tok := if d.psn then poisonTok false .data x.rcNo else scalarTok (completionWord d.status num d.nt d.accn) .data x.rcNo
      let out := replyGo q.rid (fun i => [{ i with ready := true, parts := 0, emits := x.all fun k => .tok k tok }]) x.elem.out
      .act { elem := { x.elem with out := out }
             flags := d.flags
             eff := fun s =>
               let s := { s with mem := d.s.mem, eng := d.s.eng, free := s.free + (if d.num < 512 then 0 else 1) }
               let s := if q.op = 1 ∧ !d.psn then s.modRun x.ref.run fun r => { r with
                   p0 := { r.p0 with accs := ((d.s.run? x.ref.run).map fun z => z.p0.accs).getD r.p0.accs }
                   p1 := { r.p1 with accs := ((d.s.run? x.ref.run).map fun z => z.p1.accs).getD r.p1.accs } } else s
               s.setDreqs q.die (s.eng.dreqs.filter fun y => y.id != id) }

def State.deltaEvent (s : State) (die id : Nat) : State :=
  match s.eng.dreqs.find? fun q => q.id == id && q.die == die with
  | none => s
  | some q => driveElem q.elem (deltaComplete id) s

def execDeltaComplete (die req : Nat) (s : State) : Out := .next (s.deltaEvent die req)

/-! ## Invalidations (R141, 23 R373) -/

/-- The k-th invalidation on its way to a die arrives: BOUND and WARM slots of that tenant, header and version become STALE; a
DLMUL under way on one completes first. It is applied before a request that reaches the engine in the same cycle (R254). -/
def State.invalidate (s : State) (die k : Nat) : State :=
  match (s.eng.invals.filter fun i => i.die == die)[k]? with
  | none => s
  | some v =>
    let s := { s with eng := { s.eng with invals := s.eng.invals.erase v } }
    let hit (x : DSlot) : Bool := x.die == die && (dsState x.val == 1 || dsState x.val == 2) && dsTenant x.val == v.tenant.toNat
      && dsHdr x.val == v.hdr && dsWver x.val == v.ver
    let nums := (s.eng.slots.filter hit).map (·.n)
    let busy (n : Nat) : Bool := s.eng.dreqs.any fun q => q.die == die && q.op == 1 && q.begun && decide (q.stamp < s.cycle) && q.num == n
    let slots := s.eng.slots.map fun x => if hit x && !busy x.n then { x with val := putFld x.val 228 2 3 } else x
    let dreqs := s.eng.dreqs.map fun q => if q.die == die && q.op == 1 && q.begun && decide (q.stamp < s.cycle) && nums.contains q.num then { q with hit := true } else q
    { s with eng := { s.eng with slots := slots, dreqs := dreqs } }

def execInvalidateArrival (die k : Nat) (s : State) : Out := .next (s.invalidate die k)

/-! ## The ingress decoder (05 R89, R90) -/

/-- Expands the coded block at the head of an input into two vector tokens; a malformed block, or one already POISON, into two
POISON tokens. An expanded token stands on channel 32 + n. -/
def State.decodeHead (s : State) (e : ElemRef) (input : Nat) : State :=
  match s.site e with
  | none => s
  | some h =>
    match (instrAt h.blk e.idx).bind fabOf, h.elem.queue input with
    | some f, t :: rest =>
      let c := h.load.chan t.chan
      if !t.vec || !(c.fmt == 5 || c.fmt == 6) || f.unit == 15#4 || t.mark.isEnd || h.run.st != .resident then s
      else
        let put (a b : Token) : State := s.modElem e fun el => el.setQueue input ({ a with skip := t.skip } :: b :: rest)
        let psn (m : Mark) : Token := poisonTok true m (32 + t.chan)
        if t.isPoison then put (psn .data) (psn t.struct)
        else match decodeBlock c.fmt h.load.ctabs t.data with
          | some els =>
            let half (i : Nat) (m : Mark) : Token :=
              vecTok (packLanes ((List.range 16).map fun l => BitVec.ofNat 32 (els.getD (16 * i + l) 0))) 0xFFFF m (32 + t.chan)
            put (half 0 .data) (half 1 t.mark)
          | none => (put (psn .data) (psn t.struct)).logEvent h.run.die 0x30F none (some (s.identity e.run)) (some (siteCode h.blk f)) none none
    | _, _ => s

def execCodedBlockDecode (e : ElemRef) (input : Nat) (s : State) : Out := .next (s.decodeHead e input)

end Sys2Proof.Machine
end

