-- ==== Sys2Proof/Machine/Attention.lean ====
section
/-! DEFINITION. Attention: block scores, block selection and cache tiles (12 R259 to R263). -/

namespace Sys2Proof.Machine

/-- A later result of a port element that is complete. -/
def portItems (rid : Nat) (ess : List (List Emit)) : List OutItem := ess.map fun es => readyItem rid es [] none

/-! ## BSCORE (R259) -/

/-- Fields of its descriptor word. -/
def bsKeys (w : W64) : W32 := BitVec.ofNat 32 (fld w 22 0)
def bsDim (w : W64) : Nat := 32 * (fld w 28 23 + 1)
def bsBlocks (w : W64) : Nat := fld w 38 29 + 1

/-- The score tokens of one query; a token with an operand word in error is POISON (22 R362). -/
def scoreTokens (nkb : Nat) (m : Mark) (chan : Nat) (scores : List (Option W32)) : List Token :=
  let n := (nkb + 15) / 16
  (List.range n).map fun i =>
    let part := (scores.drop (16 * i)).take 16
    let mk := if i + 1 = n then m else .data
    if part.any Option.isNone then poisonTok true mk chan
    else
      let ws := part.map fun w => w.getD 0
      vecTok (packLanes (ws ++ List.replicate (16 - ws.length) 0)) (packMask ((List.range 16).map fun l => decide (l < ws.length))) mk chan

def bscoreFire (x : FireIn) : Fire :=
  match x.heads [0] with
  | some [p] =>
    match endPair x [0] [p] true with
    | some r => r
    | none =>
      let w := x.pool (x.imm 9 0)
      let nkb := bsBlocks w
      let d := bsDim w
      let m : Mark := if p.struct = .last2 then .last2 else .last
      let el := x.elem.pop 0
      let c := x.ch p
      let out (ts : List Token) (f : Flags) : Fire :=
        let es := ts.map fun t => x.all fun k => .tok k t
        .act { elem := el, emits := es.headD [], later := laterItems (es.drop 1), flags := f }
      if p.poison then out (scoreTokens nkb m x.rcNo (List.replicate nkb none)) 0
      else if !p.isData || mmaClass c.fmt != 1 || addrBad p.word (d * fmtBytes c.fmt) || addrBad (bsKeys w) (nkb * d * fmtBytes c.fmt) then
        .trap .badctrl id
      else
        let q := x.bankElems p.word c d
        let ks := x.bankElems (bsKeys w) c (nkb * d)
        let rs : List (Option W32 × Flags) := (List.range nkb).map fun j =>
          if q.any Option.isNone || (List.range d).any fun i => (ks.getD (j * d + i) none).isNone then (none, 0)
          else
            let (s, f) := fullWord d (fun i => (q.getD i none).getD XVal.zero) fun i => (ks.getD (j * d + i) none).getD XVal.zero
            (some s, f)
        out (scoreTokens nkb m x.rcNo (rs.map (·.1))) (rs.foldl (fun f r => f ||| r.2) 0)
  | _ => .wait

def execBscore (f : Fab) (s : State) : Out := fire (.bscore f) bscoreFire s

/-! ## TOPKB (R260) -/

/-- Score a ranks above b: NaN below −∞, ties to the earlier. -/
def ranksAbove (a b : XVal) : Bool := if b.isNaN then !a.isNaN else XVal.lt b a

/-- The highest score of a list, the earliest of equals. -/
def bestScore : List (Nat × XVal) → Option (Nat × XVal)
  | [] => none
  | a :: rest => match bestScore rest with
    | none => some a
    | some b => if ranksAbove b.2 a.2 then some b else some a

/-- The k highest. -/
def topScores : Nat → List (Nat × XVal) → List Nat
  | 0, _ => []
  | k + 1, l => match bestScore l with
    | none => []
    | some b => b.1 :: topScores k (l.filter fun a => a.1 != b.1)

/-- The selected block indices. -/
def selectBlocks (k : Nat) (keep : Bool) (scores : List (Option XVal)) : List Nat :=
  let present := scores.zipIdx.filterMap fun q => q.1.map fun v => (q.2, v)
  match if keep then present.getLast? else none with
  | none => topScores k present
  | some l => l.1 :: topScores (k - 1) (present.filter fun a => a.1 != l.1)

/-- The mask tokens of n scores. -/
def maskTokens (sel : List Nat) (n : Nat) (m : Mark) (rc : Chan) (chan : Nat) : List Token :=
  let cnt := (n + 511) / 512
  (List.range cnt).map fun i =>
    let word (l : Nat) : W32 := BitVec.ofNat 32 ((sel.filter fun b => b / 32 == 16 * i + l).foldl (fun a b => a + 2 ^ (b % 32)) 0)
    vecTok (packLanes ((List.range 16).map fun l => rc.encodeInt (word l))) 0xFFFF (if i + 1 = cnt then m else .data) chan

/-- One token of scores a firing; an elided position is sixteen absent lanes (log 25). An end token inside a block discards its
scores. -/
def topkbFire (x : FireIn) : Fire :=
  let (held, psn) := match x.elem.ctl with
    | .topk s p => (s, p)
    | _ => ([], false)
  match x.heads [0] with
  | some [p] =>
    if p.isEnd then
      match endPair x [0] [p] true with
      | some (.act a) => .act { a with elem := { a.elem with ctl := .topk [] false } }
      | _ => .wait
    else if held.length + 16 > 1024 then .trap .topklen id
    else
      let c := x.ch p
      let vals : List (Option W32) := if p.poison then List.replicate 16 none else p.lanes.map fun w => w.map fun w =>
        -- held as FP32: every float format of a channel fits
        BitVec.ofNat 32 (r32 (c.decode w)).1
      let all := held ++ vals
      let psn := psn || p.poison
      let el := x.elem.pop 0
      if p.struct.rank = 0 then .act { elem := { el with ctl := .topk all psn } }
      else
        let ts := if psn then
            let cnt := (all.length + 511) / 512
            (List.range cnt).map fun i => poisonTok true (if i + 1 = cnt then p.struct else .data) x.rcNo
          else
            let sel := selectBlocks (x.imm 6 0) (x.f.imm.getLsbD 7) (all.map fun w => w.map fun w => f32 w.toNat)
            maskTokens sel all.length p.struct x.rc x.rcNo
        let es := ts.map fun t => x.all fun k => .tok k t
        .act { elem := { el with ctl := .topk [] false }, emits := es.headD [], later := laterItems (es.drop 1) }
  | _ => .wait

def execTopkb (f : Fab) (s : State) : Out := fire (.topkb f) topkbFire s

/-! ## Cache tiles (R261) -/

/-- A cache as its two pool words give it: cache tile, base, budget, protected, initial count. -/
structure Cache where
  die     : Nat
  tile    : Nat
  slot    : Nat
  base    : Nat
  budget  : Nat
  protect : Nat
  init    : W32

def FireIn.cache (x : FireIn) : Cache :=
  let w := x.pool (x.imm 16 7)
  ⟨x.run.die, x.run.region.caches.getD (x.imm 19 17) 0, x.run.slot, fld w 15 0, fld w 31 16 + 1, fld w 47 32,
    (x.pool (x.imm 16 7 + 1)).setWidth 32⟩

/-- The entry belongs to the cache's context and range. -/
def Cache.has (c : Cache) (e : CacheEntry) : Bool :=
  e.die == c.die && e.tile == c.tile && e.slot == c.slot && decide (c.base ≤ e.idx) && decide (e.idx < c.base + c.budget)

/-- LIVE entries, by index relative to the base. -/
def State.live (s : State) (c : Cache) : List CacheEntry := s.eng.cache.filter c.has

def State.setCache (s : State) (l : List CacheEntry) : State := { s with eng := { s.eng with cache := l } }

/-- COUNT := COUNT + w of a LIVE entry (R262): the word and its flags. -/
def bumpCount (old : W32) (w : XVal) : W32 × Flags :=
  let (v, f) := XVal.add (f32 old.toNat) w
  let (r, g) := r32 v
  (BitVec.ofNat 32 r, f ||| g)

/-- One token of weights: the entries after it and the flags. -/
def attnApply (c : Cache) (ch : Chan) (pos : Nat) (lanes : List (Option W32)) (l : List CacheEntry) : List CacheEntry × Flags :=
  lanes.zipIdx.foldl (fun (a : List CacheEntry × Flags) q =>
    match q.1 with
    | none => a
    | some w =>
      let v := ch.decode w
      if v.isNaN then (a.1, a.2 ||| fNV)
      else
        let idx := c.base + 16 * pos + q.2
        match a.1.find? fun e => c.has e && e.idx == idx with
        | none => a
        | some e =>
          let (n, f) := bumpCount e.cnt v
          (a.1.map fun y => if y = e then { y with cnt := n } else y, a.2 ||| f)) (l, 0)

def attnaccFire (x : FireIn) : Fire :=
  let pos := match x.elem.ctl with
    | .count n _ => n
    | _ => 0
  match x.avail 0 with
  | none => .wait
  | some p =>
    let el := x.elem.pop 0
    if p.isEnd then .act { elem := { el with ended := p.mark == .eos, ctl := .count 0 false } }
    else
      let c := x.cache
      let next : Elem := { el with ctl := .count (if p.struct.rank = 0 then pos + 1 else 0) false }
      if p.poison then .act { elem := next, eff := x.logPoison 0 }
      else if p.lanes.zipIdx.any fun q => q.1.isSome && decide (c.budget ≤ 16 * pos + q.2) then .trap .attnrange id
      else
        let (l, f) := attnApply c (x.ch p) pos p.lanes x.s.eng.cache
        .act { elem := next, flags := f, eff := fun s => s.setCache l }

def execAttnacc (f : Fab) (s : State) : Out := fire (.attnacc f) attnaccFire s

/-! ## EVICT (R263) -/

/-- Word of an emitted entry: index, evicted. -/
def evictWord (idx : Nat) (evicted : Bool) : W32 := BitVec.ofNat 32 (idx % 65536 + if evicted then 2 ^ 31 else 0)

/-- Entry a is evicted before b: lowest COUNT, NaN first; oldest STAMP; lowest index. -/
def evictsBefore (a b : CacheEntry) : Bool :=
  let va := f32 a.cnt.toNat
  let vb := f32 b.cnt.toNat
  let below (u v : XVal) : Bool := if u.isNaN then !v.isNaN else !v.isNaN && XVal.lt u v
  below va vb || (!below vb va && (decide (a.stamp < b.stamp) || (a.stamp == b.stamp && decide (a.idx < b.idx))))

/-- Inserts in the order of `before`. -/
def insertBy (before : CacheEntry → CacheEntry → Bool) (a : CacheEntry) : List CacheEntry → List CacheEntry
  | [] => [a]
  | b :: rest => if before a b then a :: b :: rest else b :: insertBy before a rest

def sortBy (before : CacheEntry → CacheEntry → Bool) (l : List CacheEntry) : List CacheEntry := l.foldr (insertBy before) []

/-- Allocation count of a cache. -/
def State.allocs (s : State) (c : Cache) : Nat :=
  ((s.eng.counts.find? fun x => x.die == c.die && x.tile == c.tile && x.base == c.base).map (·.n)).getD 0

/-- The entries that a request takes, each with whether it was evicted; none: too few to evict. -/
def State.pickEntries (s : State) (c : Cache) (n : Nat) : Option (List (Nat × Bool)) :=
  let live := s.live c
  let free := (List.range c.budget).filter fun i => !(live.any fun e => e.idx == c.base + i)
  let fromFree := free.take n
  let short := n - fromFree.length
  -- most recently allocated first
  let recent := sortBy (fun a b => decide (b.stamp < a.stamp) || (a.stamp == b.stamp && decide (b.idx < a.idx))) live
  let open_ := sortBy evictsBefore (recent.drop c.protect)
  if open_.length < short then none
  else some (fromFree.map (fun i => (i, false)) ++ (open_.take short).map fun e => (e.idx - c.base, true))

/-- Each allocated entry becomes LIVE with the initial count and the next stamp. -/
def State.allocate (s : State) (c : Cache) (es : List (Nat × Bool)) : State :=
  let start := s.allocs c
  let gone (e : CacheEntry) : Bool := c.has e && es.any fun q => e.idx == c.base + q.1
  let new := es.zipIdx.map fun q => (⟨c.die, c.tile, c.slot, c.base + q.1.1, c.init, (start + q.2) % 2 ^ 32⟩ : CacheEntry)
  let counts := (s.eng.counts.filter fun x => !(x.die == c.die && x.tile == c.tile && x.base == c.base))
    ++ [(⟨c.die, c.tile, c.base, (start + es.length) % 2 ^ 32⟩ : CacheCount)]
  { s with eng := { s.eng with cache := (s.eng.cache.filter fun e => !gone e) ++ new, counts := counts } }

/-- An ATTNACC of the same cache tile can still fire in this cycle; it goes first (R263). -/
def State.attnFirst (s : State) (die tile : Nat) : Bool :=
  s.runs.any fun r => r.die == die && (r.plane r.act).loads.zipIdx.any fun l => l.1.blks.zipIdx.any fun b => b.1.words.zipIdx.any fun w =>
    (w.1.extractLsb' 56 8).toNat == 0xAA
      && (match s.site ⟨r.id, r.act, l.2, b.2, w.2⟩, (instrAt b.1 w.2).bind fabOf with
          | some h, some f =>
            let x : FireIn := ⟨s, ⟨r.id, r.act, l.2, b.2, w.2⟩, h, f, 0xAA⟩
            x.live && x.elem.firedAt != s.cycle + 1 && (x.avail 0).isSome && r.region.caches.getD (x.imm 19 17) 0 == tile
          | _, _ => false)

def evictFire (x : FireIn) : Fire :=
  portInput x false fun ps =>
    let c := x.cache
    let k := x.take x.ins ps
    let m := resultMark ps
    if ps.any Pos.poison then x.poisoned k false m
    else if x.s.attnFirst c.die c.tile then .wait
    else
      let n := (x.ival (ps.headD .elided)).toInt
      if n < 1 ∨ (c.budget : Int) < n then .trap .evictn id
      else match x.s.pickEntries c n.toNat with
        | none => .trap .evictn id
        | some es =>
          let items := es.zipIdx.map fun q =>
            let mk := if q.2 + 1 = es.length then m else .data
            x.all fun o => .tok o (scalarTok (x.rc.encodeInt (evictWord q.1.1 q.1.2)) mk x.rcNo)
          let rid := x.s.ord.nextId
          .act { elem := k.elem, later := portItems rid items, eff := fun s => (s.allocate c es).nextId (rid + 1) }

def execEvict (f : Fab) (s : State) : Out := fire (.evict f) evictFire s

/-- EVICT.reset: every entry of the cache FREE. -/
def evictResetFire (x : FireIn) : Fire :=
  portInput x false fun ps =>
    let c := x.cache
    let k := x.take x.ins ps
    let m := resultMark ps
    if ps.any Pos.poison then x.poisoned k false m
    else if x.s.attnFirst c.die c.tile then .wait
    else
      x.answer k (x.all fun o => .tok o (scalarTok 0 m x.rcNo)) fun s => s.setCache (s.eng.cache.filter fun e => !c.has e)

def execEvictReset (f : Fab) (s : State) : Out := fire (.evictReset f) evictResetFire s

end Sys2Proof.Machine
end

