-- ==== Sys2Proof/Machine/Regs.lean ====
section
/-! DEFINITION. The system registers (19 R328 to R330, 22 R367): who may read and write them, their values, and the writes, which
take effect at the end of the cycle (13 R298). -/

namespace Sys2Proof.Machine

/-- What a level may do with a register (19 R328). -/
inductive SysAcc where
  | none | ro | rw
  deriving DecidableEq, Repr

/-- Access to register n at level U or S. -/
def sysAcc (levelS : Bool) (n : Nat) : SysAcc :=
  if n = 0x001 ∨ n = 0x014 ∨ n = 0x015 then .rw
  else if n = 0x010 ∨ n = 0x011 ∨ n = 0x012 then .ro
  else if n = 0x013 ∨ n = 0x016 then (if levelS then .rw else .ro)
  else if n = 0x100 ∨ n = 0x101 ∨ n = 0x102 ∨ n = 0x103 then (if levelS then .rw else .none)
  else if n = 0x104 then (if levelS then .ro else .none)
  else .none

/-- Bits of `run.handler` and of `die.faultchan`, `die.errlog` that can be written. -/
def handlerMask : W64 := 0x81FFFFFFFFFFFF00
def faultchanMask : W64 := 0x81FFFFFFFFFFFF0F
def errlogMask : W64 := 0x81FFFFFFFFFFFF00
def reusebaseMask : W64 := 0x01FFFFFFFFFFF000

/-- Value of register n for a run. -/
def State.sysRead (s : State) (r : Run) (n : Nat) : W64 :=
  let d := s.die r.die
  match n with
  | 0x001 => r.esc.flags.setWidth 64
  | 0x010 => BitVec.ofNat 64 (s.identity r.id)
  | 0x011 => BitVec.ofNat 64 (s.tenantOf r.slot)
  | 0x012 => if s.levelS r.slot then 1 else 0
  | 0x013 => r.regs.prio.setWidth 64
  | 0x014 => r.regs.handler
  | 0x015 => r.regs.hsqc.setWidth 64
  | 0x016 => if r.regs.debug then 1 else 0
  | 0x100 => d.faultchan
  | 0x101 => d.reusebase
  | 0x102 => d.reusesize
  | 0x103 => d.errlog
  | 0x104 => (d.errLost ++ d.errWritten : BitVec 64)
  | _ => 0

/-- Some reuse slot of the die is not FREE (19 R328). -/
def State.slotsInUse (s : State) (die : Nat) : Bool := s.eng.slots.any fun x => x.die == die && fld x.val 229 228 != 0

/-- Register n of a run takes a value, each field by its access code. -/
def State.sysWrite (s : State) (r : Run) (n : Nat) (v : W64) : State :=
  let keep (old mask : W64) : W64 := writeMasked old v mask
  let reg (f : RunRegs → RunRegs) : State := s.modRun r.id fun r => { r with regs := f r.regs }
  match n with
  | 0x001 => s.modRun r.id fun r => { r with esc := { r.esc with flags := w1c r.esc.flags v } }
  | 0x013 => reg fun x => { x with prio := v.setWidth 3 }
  | 0x014 => reg fun x => { x with handler := keep x.handler handlerMask }
  | 0x015 => reg fun x => { x with hsqc := v.setWidth 24 }
  | 0x016 => reg fun x => { x with debug := v.getLsbD 0 }
  | 0x100 => s.modDie r.die fun d => { d with faultchan := keep d.faultchan faultchanMask, unread := [] }
  | 0x101 => if s.slotsInUse r.die then s else s.modDie r.die fun d => { d with reusebase := keep d.reusebase reusebaseMask }
  | 0x102 => if s.slotsInUse r.die then s else s.modDie r.die fun d => { d with reusesize := keep d.reusesize 0xFFFFFFFF }
  | 0x103 => s.modDie r.die fun d => { d with errlog := keep d.errlog errlogMask, errMark := d.errWritten }
  | _ => s

/-- One register write: with `low` the high word stays, and of W1C bits none is cleared there. -/
def State.applyWrite (s : State) (w : RegWrite) : State :=
  match s.run? w.run with
  | none => s
  | some r =>
    let high := if w.reg = 0x001 then 0 else s.sysRead r w.reg &&& 0xFFFFFFFF00000000
    s.sysWrite r w.reg (if w.low then high ||| (w.val &&& 0xFFFFFFFF) else w.val)

/-- The register writes of the cycle. -/
def State.applyWrites (s : State) : State :=
  s.adm.regw.foldl State.applyWrite { s with adm := { s.adm with regw := [] } }

end Sys2Proof.Machine
end

