-- ==== Sys2Proof/Machine/System.lean ====
section
/-! DEFINITION. Barriers, traps by program, clocks and system registers (13 R293 to R298). -/

namespace Sys2Proof.Machine

/-! ## Groups at their home module (03 R42) -/

def groupHome (name : BitVec 20) : Nat := fld name 19 12
def groupNum (name : BitVec 20) : BitVec 12 := name.extractLsb' 0 12

/-- A group whose home is this module. -/
def State.group? (s : State) (name : BitVec 20) : Option Group :=
  if groupHome name = s.chip.modnum.toNat then s.adm.groups.find? fun g => g.num == groupNum name else none

def State.modGroup (s : State) (name : BitVec 20) (f : Group → Group) : State :=
  if groupHome name = s.chip.modnum.toNat then
    { s with adm := { s.adm with groups := s.adm.groups.map fun g => if g.num = groupNum name then f g else g } }
  else s

/-! ### Groups of other modules (03 R42, R43, 06 R122; log 33) -/

/-- The home module is another one. -/
def State.farGroup (s : State) (v : W64) : Bool := v != 0 && fld v 19 12 != s.chip.modnum.toNat

/-- What a run asks of a group's home module: a join, a leave, a part of a combining sum, an arrival, a drop. -/
inductive GroupOp where
  | join | leave | fixb | fixe | arrive | drop
  deriving DecidableEq, Repr

/-- The operation stands in the AOP field, as the opcode that asks. -/
def GroupOp.code : GroupOp → Nat
  | .join => 0x0E | .leave => 0x0F | .fixb => 0x1B | .fixe => 0x1C | .arrive => 0xE0 | .drop => 0xE1

/-- The payload: the name; bit 20: no answer is asked for; bit 21: the run is in sixteen groups; its identity, its part of the sums, its
pass. -/
def groupPayload (name : BitVec 20) (mute full : Bool) (identity n : Nat) (bal : Int) (pass : Nat) : Line :=
  BitVec.ofNat 512 (name.toNat + (if mute then 2 ^ 20 else 0) + (if full then 2 ^ 21 else 0) + identity * 2 ^ 32 + n % 2 ^ 64 * 2 ^ 64
    + (bal % 2 ^ 64).toNat * 2 ^ 128 + pass * 2 ^ 192)

/-- Sends it with a tag, by which the answer comes back. -/
def State.askGroup (s : State) (op : GroupOp) (name : BitVec 20) (p : Line) (what : Requester) : Option State :=
  s.request 7 (groupHome name) 0 0 op.code 1 32 p what none

/-- Sends it without one. -/
def State.tellGroup (s : State) (op : GroupOp) (name : BitVec 20) (run : Nat) : State :=
  s.sendFlit 7 ⟨0, 0, BitVec.ofNat 8 op.code, s.chip.modnum, BitVec.ofNat 8 (groupHome name), 0, 1, 32, 0, 0,
    groupPayload name true false (s.identity run) 0 0 0⟩

/-- An arrival at a group that is homed here. -/
def State.arriveAt (s : State) (name : BitVec 20) (identity : Nat) (who : Requester) : State :=
  s.modGroup name fun g => { g with arrivals := g.arrivals ++ [(identity, who)], lastAt := s.cycle }

def State.dropAt (s : State) (name : BitVec 20) (identity : Nat) : State :=
  s.modGroup name fun g => { g with drops := g.drops ++ [identity] }

/-! ## BARJ (R293) -/

/-- Drop value at the head of i1: consumed positions and amount. A POISON drop has no usable value: it is a free value (log 24). -/
def FireIn.dropHead (x : FireIn) : Option (Int × Bool) :=
  match x.avail 1 with
  | none => none
  | some p =>
    if p.isEnd then some (0, false)
    else if p.poison then some (((Config.freeWord x.s.free).setWidth 32 : W32).toInt, true)
    else some ((x.ival p).toInt, false)

def barjFire (x : FireIn) : Fire :=
  let (n, c, phase, left, ended) := match x.elem.ctl with
    | .barj n c p l e => (n, c, p, l, e)
    | _ => (x.imm 11 0, 0, 0, 0, false)
  if x.elem.ended then .wait
  else if ended then
    match x.avail 1 with
    | none => .wait
    | some p => .act { elem := { x.elem.pop 1 with ended := p.mark == .eos } }
  else
    let (v, isFree) := x.dropHead.getD (0, false)
    if v < 0 ∨ (n : Int) - v < c ∨ (n : Int) - v < 0 then .trap .barneg id
    else
      let drop := x.dropHead.isSome
      let n1 := ((n : Int) - v).toNat
      let head := x.avail 0
      -- a phase that is complete already takes no further arrival
      let arrive := (match head with
        | some p => !p.isEnd
        | none => false) && decide (c < n1)
      let c1 := if arrive then c + 1 else c
      let el := if drop then x.elem.pop 1 else x.elem
      let el := if arrive then el.pop 0 else el
      let eff (s : State) : State := if isFree then { s with free := s.free + 1 } else s
      -- one release of the phase; `l` are left after it
      let release (c l : Nat) : Fire :=
        let t := scalarTok (x.rc.encodeInt (BitVec.ofNat 32 phase)) (if l = 0 then .last else .data) x.rcNo
        .act { elem := { el with ctl := .barj n1 c (if l = 0 then phase + 1 else phase) l false }
               emits := x.all fun k => .tok k t, eff := eff }
      let eos := x.all fun k => .tok k (eosTok false x.rcNo)
      if left > 0 then release c1 (left - 1)
      else if n1 = 0 then .act { elem := { el with ctl := .barj 0 0 phase 0 false, ended := true }, emits := eos, eff := eff }
      else if c1 = n1 then release 0 (n1 - 1)
      else
        let stay : Elem := { el with ctl := .barj n1 c1 phase 0 false }
        match head with
        | some (.tok t) =>
          if t.mark = .eos ∧ c1 = 0 then
            let discard := (linkInto x.blk x.ref.idx 1).isSome && !el.eos.contains 1
            .act { elem := { stay.pop 0 with ctl := .barj n1 0 phase 0 true, ended := !discard }, emits := eos, eff := eff }
          else if t.mark = .eot then
            .act { elem := stay.pop 0, emits := x.all fun k => .tok k { eosTok false x.rcNo with mark := .eot }, eff := eff }
          else if drop || arrive then .act { elem := stay, eff := eff }
          else .wait
        | _ => if drop || arrive then .act { elem := stay, eff := eff } else .wait

def execBarj (f : Fab) (s : State) : Out := fire (.barj f) barjFire s

/-- The group name that a .grp form holds. -/
def FireIn.grp (x : FireIn) : BitVec 20 := (x.pool (x.imm 9 0)).setWidth 20

/-- BARJ.grp: an arrival at the group's home module; its release has a place behind the element's results. -/
def barjGrpFire (x : FireIn) : Fire :=
  match x.heads [0] with
  | some [p] =>
    match endPair x [0] [p] false with
    | some r => r
    | none =>
      if !x.run.groups.contains x.grp then .trap .bargrp id
      else
        let id := x.s.ord.nextId
        -- the place holds the arrival's marker until the phase number comes
        let item : OutItem := ⟨id, false, x.all fun k => .tok k (scalarTok 0 (resultMark [p]) x.rcNo), 1, [(0, p)], none, none⟩
        let me := x.s.identity x.ref.run
        if x.s.farGroup (x.grp.setWidth 64) then
          -- the arrival leaves with a tag of its own
          match x.s.freeTag with
          | none => .wait
          | some _ =>
            .act { elem := x.elem.pop 0
                   later := [item]
                   eff := fun s =>
                     let s := s.nextId (id + 1)
                     (s.askGroup .arrive x.grp (groupPayload x.grp false false me 0 0 0) (.place x.ref id)).getD s }
        else .act { elem := x.elem.pop 0, later := [item], eff := fun s => (s.nextId (id + 1)).arriveAt x.grp me (.place x.ref id) }
  | _ => .wait

def execBarjGrp (f : Fab) (s : State) : Out := fire (.barjGrp f) barjGrpFire s

/-- BARDROP: a drop token on each position (R294). -/
def bardropFire (x : FireIn) : Fire :=
  match x.heads [0] with
  | some [p] =>
    match endPair x [0] [p] false with
    | some r => r
    | none =>
      let m := resultMark [p]
      let t := if p.poison then poisonTok false m x.rcNo else scalarTok (x.rc.encodeInt (BitVec.ofNat 32 (x.imm 11 0))) m x.rcNo
      .act { elem := x.elem.pop 0, emits := x.all fun k => .tok k t }
  | _ => .wait

def execBardrop (f : Fab) (s : State) : Out := fire (.bardrop f) bardropFire s

/-- BARDROP.grp: an arrive-and-drop at the group's barrier. -/
def bardropGrpFire (x : FireIn) : Fire :=
  match x.heads [0] with
  | some [p] =>
    match endPair x [0] [p] false with
    | some r => r
    | none =>
      if !x.run.groups.contains x.grp then .trap .bargrp id
      else .act { elem := x.elem.pop 0
                  eff := fun s => if s.farGroup (x.grp.setWidth 64) then s.tellGroup .drop x.grp x.ref.run
                    else s.dropAt x.grp (s.identity x.ref.run) }
  | _ => .wait

def execBardropGrp (f : Fab) (s : State) : Out := fire (.bardropGrp f) bardropGrpFire s

/-- A release reaches the place that an arrival left: the phase number on the element's channel. -/
def State.releasePlace (s : State) (e : ElemRef) (rid phase : Nat) : State :=
  let w : W32 := match s.site e with
    | some h => (h.load.chan (h.blk.chanNo e.idx)).encodeInt (BitVec.ofNat 32 phase)
    | none => 0
  s.onItem e rid fun i =>
    [{ i with ready := true, parts := 0, emits := i.emits.map fun e => match e with
        | .tok k t => .tok k { t with data := w.setWidth 512 }
        | e => e }]

/-- Arrivals and drops of the phase equal the membership. -/
def Group.complete (g : Group) : Bool :=
  let n := g.arrivals.length + g.drops.length
  decide (n ≠ 0) && decide (g.members.length ≤ n)

/-- The barrier of a group fires when it is complete: each arrival gets the phase number, those of other modules by REL (log 33). -/
def State.barrierFires (s : State) (name : BitVec 20) : State :=
  match s.group? name with
  | none => s
  | some g =>
    if !g.complete then s
    else
      let s := s.modGroup name fun g => { g with arrivals := [], drops := [], phase := g.phase + 1 }
      g.arrivals.foldl (fun s a => match a.2 with
        | .place e rid => s.releasePlace e rid g.phase
        | .flit _ f => s.replyFlit 0x0B f 0 0 8 (BitVec.ofNat 512 (name.toNat + g.phase * 2 ^ 32))
        | _ => s) s

/-- BARRIER_RELEASE: not in the cycle of the last arrival, in which a drop or a LEAVE still comes first (R295). -/
def State.barrierRelease (s : State) (name : BitVec 20) : State :=
  match s.group? name with
  | none => s
  | some g => if g.lastAt = s.cycle then s else s.barrierFires name

def execBarrierRelease (group : BitVec 20) (s : State) : Out := .next (s.barrierRelease group)

/-! ## TRAP and BRK (R296) -/

/-- The trapping input is consumed and its token leaves on resume. -/
def trapFire (x : FireIn) : Fire :=
  match x.heads [0] with
  | some [p] =>
    match endPair x [0] [p] false with
    | some r => r
    | none =>
      let es := x.all fun o => x.forward false p o
      if x.md = 1 ∧ !p.poison ∧ p.word = 0 then .act { elem := x.elem.pop 0, emits := es }
      else
        let rid := x.s.ord.nextId
        .act { elem := x.elem.pop 0
               later := [readyItem rid es [] none]
               eff := fun s => (s.nextId (rid + 1)).takeTrapDone x.ref.run .usrtrap { x.info .usrtrap with aux := x.imm 15 0 } }
  | _ => .wait

def execTrap (f : Fab) (s : State) : Out := fire (.trap f) trapFire s

def brkFire (x : FireIn) : Fire :=
  match x.avail 0 with
  | none => .wait
  | some p =>
    .act { elem := { x.elem.pop 0 with ended := p.mark == .eos, ctl := .brk false }, emits := x.all fun o => x.forward false p o }

/-- The firing is about to happen and the debug enable is set: the region freezes before it, and BREAK is reported. The THAW that
follows lets it fire. -/
def brkHold (f : Fab) (s : State) : Option State :=
  match s.focus.bind (·.elem) with
  | none => none
  | some ref =>
    match s.site ref with
    | none => none
    | some h =>
      let x : FireIn := ⟨s, ref, h, f, 0xE3⟩
      if x.live && h.run.regs.debug && x.elem.ctl != .brk true && x.elem.firedAt != s.cycle + 1 && (dropEmpty x.elem.out).isEmpty
          && (x.avail 0).isSome
          && roomFor x.load x.ref.blk x.blk s.cycle ref.idx (.brk f) f true (x.outs.map fun k => (k, eosTok false 0)) then
        some ((s.supervisorFault ref.run (x.info .brk)).modElem ref fun e => { e with ctl := .brk true })
      else none

/-- BRK holds its firing back once, or fires. -/
def brkStep (f : Fab) (s : State) : Out :=
  match brkHold f s with
  | some t => .next t
  | none => fire (.brk f) brkFire s

def execBrk (f : Fab) (s : State) : Out := brkStep f s

/-! ## Clocks and registers (R297, R298) -/

/-- Emits a 64-bit sample by the MOD encoding of R297. -/
def sampleAct (x : FireIn) (p : Pos) (v : W64) : Act :=
  let m := resultMark [p]
  let tok (w : W32) (m : Mark) : Token := if p.poison then poisonTok false m x.rcNo else scalarTok (x.rc.encodeInt w) m x.rcNo
  let out (t : Token) : List Emit := x.all fun k => .tok k t
  let lo := v.setWidth 32
  let hi := v.extractLsb' 32 32
  match x.md with
  | 0 => { elem := x.elem.pop 0, emits := out (tok lo m) }
  | 1 => { elem := x.elem.pop 0, emits := out (tok hi m) }
  | _ => { elem := x.elem.pop 0, emits := out (tok lo .data), later := laterItems [out (tok hi m)] }

def sampleFire (value : FireIn → W64) (x : FireIn) : Fire :=
  match x.heads [0] with
  | some [p] =>
    match endPair x [0] [p] false with
    | some r => r
    | none => .act (sampleAct x p (value x))
  | _ => .wait

def execRdtime (f : Fab) (s : State) : Out := fire (.rdtime f) (sampleFire fun x => BitVec.ofNat 64 x.s.time) s
def execRdcyc (f : Fab) (s : State) : Out := fire (.rdcyc f) (sampleFire fun x => BitVec.ofNat 64 x.run.cycles) s

/-- PRIV with the register's number. -/
def privTrap (n : Nat) : Fire := .trap .priv fun i => { i with aux := n }

/-- RDSYS: PRIV comes before anything is consumed. -/
def rdsysFire (x : FireIn) : Fire :=
  match x.heads [0] with
  | some [p] =>
    match endPair x [0] [p] false with
    | some r => r
    | none =>
      let n := x.imm 11 0
      if sysAcc (x.s.levelS x.run.slot) n = .none then privTrap n
      else .act (sampleAct x p (x.s.sysRead x.run n))
  | _ => .wait

def execRdsys (f : Fab) (s : State) : Out := fire (.rdsys f) rdsysFire s

/-- WRSYS: the write takes effect from the next cycle; a POISON operand writes nothing. -/
def wrsysFire (x : FireIn) : Fire :=
  let ks := x.ins
  match x.heads ks with
  | none => .wait
  | some ps =>
    match endPair x ks ps false with
    | some r => r
    | none =>
      let n := x.imm 11 0
      let lvl := x.s.levelS x.run.slot
      let acc := sysAcc lvl n
      let m := resultMark ps
      let el := x.elem.pops ks
      if acc = .none ∨ (acc = .ro ∧ !lvl) then privTrap n
      else if ps.any Pos.poison then .act { elem := el, emits := x.all fun k => .tok k (poisonTok false m x.rcNo) }
      else
        let lo := (ps.headD .elided).word
        let hi := ((ps[1]?).map Pos.word).getD 0
        let w : RegWrite := ⟨x.ref.run, n, (hi ++ lo : BitVec 64), x.md != 0⟩
        .act { elem := el
               emits := x.all fun k => .tok k (scalarTok 0 m x.rcNo)
               eff := fun s => { s with adm := { s.adm with regw := s.adm.regw ++ [w] } } }

def execWrsys (f : Fab) (s : State) : Out := fire (.wrsys f) wrsysFire s

end Sys2Proof.Machine
end

