-- ==== Sys2Proof/Machine/Record.lean ====
section
/-! DEFINITION. The run record (19 R333 to R336): what a readout streams and a restore reads back. The spec gives the sections, their
places and sizes; the places of the fields inside a section are the model's (log 7). -/

namespace Sys2Proof.Machine

/-! ## Classes (09 R171) -/

/-- Class of the state of an instruction. -/
def classOf (f : Fab) : Nat := if f.unit.toNat < 8 ∨ f.unit.toNat = 15 then 0 else if f.unit.toNat = 14 then 2 else 1

/-- An element that holds what the load left: empty queues, no pending skips, the operation's first state. -/
def Elem.atLoad (o : Nat) (f : Fab) (e : Elem) : Bool :=
  let z := initElem o f.md f.imm
  e.q.all List.isEmpty && e.pend.all (· == 0) && e.latch == z.latch && e.ctl == z.ctl && e.out.isEmpty

/-- Cells of a carved range, keyed by logical page. -/
def Carve.cells (k : Carve) (cells : List Host.Cell) : List Host.Cell :=
  let lo := storeKey 0 k.page k.tile (1024 * k.baseK)
  cells.filter fun c => decide (lo ≤ c.1) && decide (c.1 < lo + 1024 * k.lenK)

/-- Carved ranges of a configuration on the tile of a block. -/
def Loaded.carvesAt (l : Loaded) (b : Blk) (tile : Nat) : List Carve :=
  l.carves.filter fun k => k.page == b.page && k.tile / 16 == b.quad && k.tile % 16 == tile

/-- Accumulator tiles of a block's tile. -/
def Plane.accsAt (p : Plane) (b : Blk) (tile : Nat) : List AccTile :=
  p.accs.filter fun a => a.page == b.page && a.tile / 16 == b.quad && a.tile % 16 == tile

/-- Elements of a block's tile whose state belongs to a class: index, opcode, fields, state. -/
def Blk.classElems (b : Blk) (tile c : Nat) : List (Nat × Nat × Fab × Elem) :=
  (List.range b.words.length).filterMap fun j =>
    match (instrAt b j).bind fun i => (fabOf i).map fun f => (opcodeOf i, f), b.elems[j]? with
    | some (o, f), some e => if f.tile.toNat = tile ∧ classOf f = c then some (j, o, f, e) else none
    | _, _ => none

/-- A class of a block's tile holds more than its configuration-load state; `cells`: the tile stores by logical page. -/
def classOccupied (l : Loaded) (p : Plane) (cells : List Host.Cell) (b : Blk) (tile c : Nat) : Bool :=
  (b.classElems tile c).any (fun q => !q.2.2.2.atLoad q.2.1 q.2.2.1)
    || (c == 2 && (p.accsAt b tile).any fun a => a.vals.any (· != 0))
    || (c == 3 && (l.carvesAt b tile).any fun k => k.cells cells != k.cells l.atLoad)

/-- Classes of a block that hold more than their load state: 4 t + c. -/
def blockOccupied (l : Loaded) (p : Plane) (cells : List Host.Cell) (b : Blk) : List Nat :=
  (List.range 64).filter fun k => classOccupied l p cells b (k / 4) (k % 4)

/-! ## The stream of a page (19 R333) -/

/-- A piece of the stream. -/
inductive Piece where
  /-- The occupied entries of one queue: 8 bytes for a scalar token, 72 for a vector token (19 R337). -/
  | queue (plane load blk idx inp : Nat) (toks : List Token)
  /-- Pending skip counts, a byte each, and ACC or the stage latch as a token. -/
  | elem (plane load blk idx : Nat) (pend : List Nat) (latch : Token)
  /-- The operation's own state, of which the spec gives no form: 64 free bytes. -/
  | own
  /-- An accumulator tile, row-major. -/
  | acc (plane : Nat) (a : AccTile)
  /-- A carved range. -/
  | bank (k : Carve)
  deriving DecidableEq, Repr

def tokenBytes (t : Token) : List Byte := if t.vec then natBytes 72 t.vectorBits.toNat else natBytes 8 t.scalarBits.toNat

def tokenOf (vec : Bool) (bs : List Byte) : Token :=
  if vec then Token.ofVectorBits (BitVec.ofNat 542 (bytesNat bs)) else Token.ofScalarBits (BitVec.ofNat 46 (bytesNat bs))

def tokenLen (t : Token) : Nat := if t.vec then 72 else 8

def Piece.len : Piece → Nat
  | .queue _ _ _ _ _ ts => (ts.map tokenLen).foldl (· + ·) 0
  | .elem _ _ _ _ pend t => pend.length + tokenLen t
  | .own => 64
  | .acc _ a => 4 * a.vals.length
  | .bank k => 1024 * k.lenK

/-- Bytes of a piece; `free` are its free bytes. -/
def Piece.bytes (cells : List Host.Cell) (free : Nat → Byte) : Piece → List Byte
  | .queue _ _ _ _ _ ts => ts.flatMap tokenBytes
  | .elem _ _ _ _ pend t => pend.map (BitVec.ofNat 8) ++ tokenBytes t
  | .own => (List.range 64).map free
  | .acc _ a => a.vals.flatMap fun w => natBytes 4 w.toNat
  | .bank k => cellRead cells (storeKey 0 k.page k.tile (1024 * k.baseK)) (1024 * k.lenK)

/-- Tokens of a queue from their bytes. -/
def tokensOf : List Token → List Byte → List Token
  | [], _ => []
  | t :: ts, bs => tokenOf t.vec (bs.take (tokenLen t)) :: tokensOf ts (bs.drop (tokenLen t))

/-- Changes an element of a run. -/
def Run.onElem (r : Run) (plane load blk idx : Nat) (f : Elem → Elem) : Run :=
  r.setPlane plane { r.plane plane with
    loads := modAt (fun l => { l with blks := modAt (fun b => { b with elems := modAt f b.elems idx }) l.blks blk }) (r.plane plane).loads load }

/-- A piece goes back where it came from; the tile stores wait in `saved`. -/
def Piece.put (r : Run) (bs : List Byte) : Piece → Run
  | .queue p l b j k ts => r.onElem p l b j fun e => e.setQueue k (tokensOf ts bs)
  | .elem p l b j pend t => r.onElem p l b j fun e =>
      { e with pend := (bs.take pend.length).map (·.toNat), latch := tokenOf t.vec (bs.drop pend.length) }
  | .own => r
  | .acc p a => r.setPlane p ((r.plane p).setAcc
      { a with vals := (List.range a.vals.length).map fun k => BitVec.ofNat 32 (bytesNat ((bs.drop (4 * k)).take 4)) })
  | .bank k => { r with saved := cellWrite r.saved (storeKey 0 k.page k.tile (1024 * k.baseK)) bs }

def Piece.putAll : List Piece → List Byte → Run → Run
  | [], _, r => r
  | p :: ps, bs, r => Piece.putAll ps (bs.drop p.len) (p.put r (bs.take p.len))

/-- Pieces of one class of a block's tile. -/
def classPieces (l : Loaded) (p : Plane) (b : Blk) (plane load blk tile c : Nat) : List Piece :=
  ((b.classElems tile c).flatMap fun q =>
    (q.2.2.2.q.zipIdx.map fun k => Piece.queue plane load blk q.1 k.2 k.1)
      ++ [.elem plane load blk q.1 q.2.2.2.pend q.2.2.2.latch] ++ (if q.2.2.2.ctl = .none then [] else [.own]))
    ++ (if c = 2 then (p.accsAt b tile).map (.acc plane) else [])
    ++ (if c = 3 then (l.carvesAt b tile).map .bank else [])

/-- What is streamed of a block: the classes whose bit of RMASK is set, and those that hold more than their load state. -/
def blockPieces (l : Loaded) (p : Plane) (cells : List Host.Cell) (b : Blk) (plane load blk : Nat) : List Piece :=
  (List.range 64).flatMap fun k =>
    if b.hdr.getLsbD k || classOccupied l p cells b (k / 4) (k % 4) then classPieces l p b plane load blk (k / 4) (k % 4) else []

/-- The blocks of a run in the order of their pages and quadrants, each with its RDBDI bit and its pieces. -/
def Run.stream (r : Run) (cells : List Host.Cell) (pages : Nat) : List (Bool × List Piece) :=
  (List.range (4 * pages)).flatMap fun k =>
    [0, 1].flatMap fun pl => (r.plane pl).loads.zipIdx.flatMap fun l => l.1.blks.zipIdx.filterMap fun b =>
      if b.1.page = k / 4 ∧ b.1.quad = k % 4 then
        some (b.1.hdr.getLsbD 64, blockPieces l.1 (r.plane pl) cells b.1 pl l.2 b.2)
      else none

/-- Bytes of a block's stream, packed where RDBDI is set. -/
def blockBytes (cells : List Host.Cell) (free : Nat → Byte) (b : Bool × List Piece) : List Byte :=
  let bs := b.2.zipIdx.flatMap fun p => p.1.bytes cells fun i => free (64 * p.2 + i)
  if b.1 then bdiPack (bs.length / 128 + 1) bs else bs

/-- Puts the streams of blocks back; what follows them. -/
def putBlocks : List (Bool × List Piece) → List Byte → Run → Run × List Byte
  | [], bs, r => (r, bs)
  | b :: rest, bs, r =>
    let n := (b.2.map Piece.len).foldl (· + ·) 0
    let (x, tail) := if b.1 then bdiUnpack (n / 128 + 1) n bs else (bs.take n, bs.drop n)
    putBlocks rest tail (Piece.putAll b.2 x r)

/-! ## The fixed sections (19 R334) -/

/-- Bytes filled up with zeros to a section's size. -/
def section_ (n : Nat) (bs : List Byte) : List Byte := bs.take n ++ List.replicate (n - min n bs.length) 0

/-- The header: format 1, identity, page count, total length, the RDBDI bits. -/
def recordHeader (identity pages len : Nat) (rdbdi : List Bool) : List Byte :=
  natBytes 4 1 ++ natBytes 4 identity ++ natBytes 8 pages ++ natBytes 8 len
    ++ natBytes 40 (rdbdi.foldr (fun b a => a * 2 + if b then 1 else 0) 0)

/-- A sent bit for each request of the waiting word that has left (03 R55). -/
def Wait.sentBits : Wait → List Bool
  | .sent _ => [true]
  | .opening acks => acks.map (·.1)
  | .rotating acks => acks.map (·.1)
  | .sum => [true]
  | _ => []

/-- Escapement state: SQC, G1 to G63, the loop stack, the iteration counter, memberships, tuple-insert counts, fixpoint bases, sent
bits. -/
def Run.escBytes (r : Run) : List Byte :=
  natBytes 4 r.esc.sqc ++ natBytes 4 r.esc.loops.length ++ ((r.esc.g.drop 1).flatMap fun w => natBytes 8 w.toNat)
    ++ section_ 128 (r.esc.loops.flatMap fun l => natBytes 8 l.count ++ natBytes 3 l.ret ++ natBytes 1 l.kind ++ natBytes 1 l.depth ++ natBytes 3 l.id)
    ++ natBytes 8 r.esc.iterCount ++ natBytes 8 r.esc.iterDone
    ++ section_ 64 (r.groups.flatMap fun g => natBytes 4 g.toNat)
    ++ natBytes 8 r.sent ++ natBytes 8 r.applied ++ natBytes 8 r.promoted ++ natBytes 8 r.base.1 ++ natBytes 8 r.base.2
    ++ natBytes 8 (r.esc.wait.sentBits.foldr (fun b a => a * 2 + if b then 1 else 0) 0)

/-- Loop levels from their bytes. -/
def loopsOf (n : Nat) (bs : List Byte) : List LoopLevel := (List.range n).map fun k =>
  let x := (bs.drop (16 * k)).take 16
  ⟨bytesNat (x.take 8), bytesNat ((x.drop 8).take 3), bytesNat ((x.drop 11).take 1), bytesNat ((x.drop 12).take 1), bytesNat ((x.drop 13).take 3)⟩

/-- The escapement state read back. -/
def Run.putEsc (r : Run) (bs : List Byte) : Run :=
  let at_ (off n : Nat) : Nat := bytesNat ((bs.drop off).take n)
  { r with
    esc := { r.esc with
      sqc := at_ 0 4
      g := 0 :: (List.range 63).map fun k => BitVec.ofNat 64 (at_ (8 + 8 * k) 8)
      loops := loopsOf (min 8 (at_ 4 4)) (bs.drop 512)
      iterCount := at_ 640 8
      iterDone := at_ 648 8 }
    sent := at_ 720 8
    applied := at_ 728 8
    promoted := at_ 736 8
    base := (at_ 744 8, at_ 752 8) }

/-- Registers 0x001 to 0x016, each at eight times its number. -/
def State.regBytes (s : State) (r : Run) : List Byte := (List.range 0x17).flatMap fun n => natBytes 8 (s.sysRead r n).toNat

/-- The registers that a run can write, read back. -/
def Run.putRegs (r : Run) (bs : List Byte) : Run :=
  let at_ (n : Nat) : W64 := BitVec.ofNat 64 (bytesNat ((bs.drop (8 * n)).take 8))
  { r with
    esc := { r.esc with flags := at_ 0x001 }
    regs := ⟨(at_ 0x013).setWidth 3, at_ 0x014 &&& handlerMask, (at_ 0x015).setWidth 24, (at_ 0x016).getLsbD 0⟩ }

/-- XFER packets with their progress: the packet, the first incomplete sector, the mask of the sectors after it (13 R287). -/
def State.xferBytes (s : State) (r : Run) : List Byte :=
  ((s.ord.reqs.filter fun q => q.run == r.id && q.kind == .xfer && !q.finished).take 16).flatMap fun q =>
    bytesOfLine q.packet ++ natBytes 8 q.first ++ natBytes 8 (q.doneS.foldl (fun a k => a + 2 ^ (k - q.first - 1)) 0) ++ List.replicate 48 0

/-- One access of an issue queue, in its place: address, identifier of its return-buffer place, start of its configuration, width, marker,
channel, epoch, data. -/
def Access.record (a : Access) : List Byte :=
  section_ 128 (natBytes 8 a.va ++ natBytes 8 a.rid ++ natBytes 4 a.serial ++ natBytes 1 a.width ++ natBytes 1 a.mark.code ++ natBytes 1 a.chan
    ++ natBytes 1 (if a.stage = .parked then 1 else 0) ++ natBytes 8 a.epoch ++ bytesOfLine a.data)

/-- A bound generator: position, chosen address base, loops. -/
def Binding.record (b : Binding) : List Byte := natBytes 8 b.base ++ natBytes 8 b.offset.toNat ++ natBytes 8 b.pos ++ natBytes 8 b.nloop

/-- State of a port tile: its scoreboard bindings and its issue queue. -/
def State.portBytes (s : State) (r : Run) (p : Nat) : List Byte :=
  section_ 4096 (section_ 512 ((r.region.gens.getD p []).flatMap fun g => (g.active.toList ++ g.pending).flatMap Binding.record)
    ++ (s.ord.accs.filter fun a => a.run == r.id && a.port == p).flatMap Access.record)

/-- Reuse-slot records of the run's tenant, in ascending order of slot; they stay in the delta engine too (19 R335). -/
def State.tenantSlots (s : State) (r : Run) : List DSlot :=
  s.eng.slots.filter fun x => x.die == r.die && fld x.val 229 228 != 0 && fld x.val 235 230 == s.tenantOf r.slot

/-! ## The record -/

/-- Free bytes from the counter on (log 7). -/
def State.freeByteAt (s : State) (k : Nat) : Byte := Config.freeByte (s.free + k)

/-- Bytes of the record from the port tiles on. -/
def State.recordTail (s : State) (r : Run) (cells : List Host.Cell) : List Byte :=
  ((List.range r.region.ports.length).flatMap (s.portBytes r))
    ++ ((r.stream cells r.region.pages.length).zipIdx.flatMap fun b => blockBytes cells (fun i => s.freeByteAt (65536 * b.2 + i)) b.1)
    ++ (s.tenantSlots r).flatMap fun x => bytesOfLine x.val

/-- The bytes of a run record. -/
def State.recordOfRun (s : State) (r : Run) (cells : List Host.Cell) : List Byte :=
  let tail := s.recordTail r cells
  recordHeader (s.identity r.id) r.region.pages.length (0x0D40 + tail.length) ((r.stream cells r.region.pages.length).map (·.1))
    ++ section_ 1024 r.escBytes ++ section_ 256 (s.regBytes r) ++ section_ 2048 (s.xferBytes r) ++ tail

/-- What a restore finds in a record: format and identity, page count and length. -/
def recordFits (identity pages : Nat) (hdr : List Byte) : Bool :=
  bytesNat (hdr.take 4) == 1 && bytesNat ((hdr.drop 4).take 4) == identity && bytesNat ((hdr.drop 8).take 8) == pages

/-- The run as its record says, with `slots` reuse-slot records at the end of it; none where its length disagrees with the pages. The
port state and the operations' own state stay as the readout found them (log 7). -/
def Run.fromRecord (r : Run) (ports pages slots : Nat) (bs : List Byte) : Option Run :=
  let body := bs.drop (0x0D40 + 4096 * ports)
  let (r1, rest) := putBlocks (r.stream r.saved pages) body r
  if rest.length = 64 * slots then some ((r1.putEsc (bs.drop 0x40)).putRegs (bs.drop 0x440)) else none

end Sys2Proof.Machine
end

