-- ==== Sys2Proof/Machine/Runs.lean ====
section
/-! DEFINITION. What ends or moves a run: leaving its groups, retirement (03 R31, R43, 20 R341), resumption (21 R361), readout and
restore of its state (19 R333 to R336). -/

namespace Sys2Proof.Machine

/-! ## Answers of privileged elements (13 R299) -/

/-- One target of a privileged element has its status; the first status that is not OK stands. -/
def State.answerPriv (s : State) (e : ElemRef) (rid st : Nat) : State :=
  s.onItem e rid fun i =>
    [{ i with
       parts := i.parts - 1
       ready := decide (i.parts ≤ 1)
       emits := i.emits.map fun m => match m with
         | .tok k t => if st ≠ 0 ∧ t.data = 0 then .tok k { t with data := BitVec.ofNat 512 st } else m
         | m => m }]

def State.answerWho (s : State) (who : Option (ElemRef × Nat)) (st : Nat) : State :=
  match who with
  | none => s
  | some (e, rid) => s.answerPriv e rid st

/-- An order on its way to a run: 0 FREEZE, 1 THAW, 2 READOUT, 3 RESTORE, 4 a FREEZE that met a reload. -/
def Run.order? (r : Run) (code : Nat) : Option (Nat × Option (ElemRef × Nat)) := r.orders.find? fun o => o.1 == code

def State.addOrder (s : State) (run code : Nat) (who : Option (ElemRef × Nat)) : State :=
  s.modRun run fun r => { r with orders := r.orders ++ [(code, who)] }

def State.dropOrder (s : State) (run : Nat) (o : Nat × Option (ElemRef × Nat)) : State :=
  s.modRun run fun r => { r with orders := r.orders.erase o }

/-! ## Groups -/

/-- A group without members is gone (03 R43). -/
def State.dissolve (s : State) : State :=
  { s with adm := { s.adm with groups := s.adm.groups.filter fun g => !g.members.isEmpty } }

/-- A run leaves a group at its home module, as an arrive-and-drop (03 R44): the barrier expects one member fewer. -/
def State.leaveHere (s : State) (identity : Nat) (name : BitVec 20) : State :=
  (s.modGroup name fun g => { g with
    members := g.members.filter (· != identity)
    arrivals := g.arrivals.filter fun a => a.1 != identity
    drops := g.drops.filter (· != identity)
    sums := g.sums.filter fun c => c.run != identity }).dissolve

/-- The run is no member any more. -/
def State.forgetGroup (s : State) (run : Nat) (name : BitVec 20) : State :=
  s.modRun run fun r => { r with
    groups := r.groups.filter (· != name)
    selfs := r.selfs.filter fun x => x.2 != name
    passes := r.passes.filter fun x => x.1 != name }

/-- A run leaves a group: at its home module, which is told when it is another one. -/
def State.leaveGroup (s : State) (run : Nat) (name : BitVec 20) : State :=
  (if s.farGroup (name.setWidth 64) then s.tellGroup .leave name run else s.leaveHere (s.identity run) name).forgetGroup run name

/-! ## Retirement -/

/-- The ingress port of a run is FREE again; its queued tokens are discarded (20 R340). -/
def State.freePort (s : State) (p : Nat × Nat) (lstat : Nat) : State :=
  let ports := s.adm.ports.map fun q => if q.die = p.1 ∧ q.port = p.2 then { q with words := [], run := none, lstat := lstat, used := 0 } else q
  { s with
    adm := { s.adm with ports := ports }
    ord := { s.ord with hostq := s.ord.hostq.filter fun h => h.write || !(h.a == p.1 && h.b == p.2) } }

/-- Owner bindings of a run are freed, the headers they hold go back to memory (13 R275). -/
def State.freeOwners (s : State) (r : Run) : State :=
  let mine := s.ord.owners.filter fun o => o.run == r.id
  let s := (mine.filter (·.rel)).foldl (fun s o => s.dropHold o.slot o.base) s
  { s with ord := { s.ord with owners := s.ord.owners.filter fun o => o.run != r.id } }

/-- A run retires: its identifier returns to the pool and no state of it is kept (03 R31). -/
def State.retire (s : State) (run : Nat) : State :=
  match s.run? run with
  | none => s
  | some r =>
    let s := r.orders.foldl (fun s o => s.answerWho o.2 1) s
    let s := r.groups.foldl (fun s g => s.leaveGroup run g) s
    let s := s.freeOwners r
    let s := match r.ingress with
      | none => s
      | some p => s.freePort p 0
    -- senders whose message the run held, or was receiving, have their status (13 R281)
    let s := (s.eng.unexpected.filter fun m => m.dst == run).foldl (fun s m => s.sendStatus m 5) s
    let s := (s.ord.reqs.filter fun q => q.run == run).foldl (fun s q => match q.sender with
      | some (req, back) => s.answerSender req back 5
      | none => s) s
    let ids := (s.ord.accs.filter fun a => a.run == run).map (·.id)
    let reqs := (s.ord.reqs.filter fun q => q.run == run).map (·.id)
    let ord := { s.ord with
      accs := s.ord.accs.filter fun a => a.run != run
      reqs := s.ord.reqs.filter fun q => q.run != run
      wbuf := s.ord.wbuf.filter fun w => w.run != run
      monitors := s.ord.monitors.filter fun m => match m.who with
        | .acc i => !ids.contains i
        | _ => true
      waves := s.ord.waves.filter fun w => w.blk.run != run }
    let eng := { s.eng with
      posts := s.eng.posts.filter fun p => p.run != run
      unexpected := s.eng.unexpected.filter fun m => m.dst != run && !reqs.contains m.req
      arrivals := s.eng.arrivals.filter fun m => !reqs.contains m.req
      fetched := s.eng.fetched.filter fun f => !reqs.contains f.req
      matched := s.eng.matched.filter fun m => m.1 != run
      dreqs := s.eng.dreqs.filter fun d => d.run != run }
    let dies := s.dies.map fun d => match d.lock with
      | some b => if b.run = run then { d with lock := none } else d
      | none => d
    let greqs := s.adm.greqs.filter fun g => g.run != run
    { s with
      ord := ord
      eng := eng
      dies := dies
      adm := { s.adm with greqs := greqs }
      runs := s.runs.filter fun x => x.id != run || x.st == .retired }

/-! ## Becoming RESIDENT -/

/-- The lowest number that no group has. -/
def State.freeGroup (s : State) : Option Nat := (List.range 4096).find? fun k => s.adm.groups.all fun g => g.num.toNat != k

/-- Makes a group with one member, a run of this module. -/
def State.newGroup (s : State) (run k : Nat) : BitVec 20 × State :=
  let name : BitVec 20 := BitVec.ofNat 20 (s.chip.modnum.toNat * 4096 + k)
  let g : Group := ⟨BitVec.ofNat 12 k, [s.identity run], false, [], 0, [], [], 0, s.cycle, 0, (0, 0, false), false⟩
  (name, { s with adm := { s.adm with groups := s.adm.groups ++ [g] } }.modRun run fun r => { r with groups := r.groups ++ [name] })

/-- SELF groups of an image are made when a run first becomes RESIDENT (03 R30, 12 R242), up to sixteen, the limit of a run's memberships
(R42). One that goes beyond the limit, or finds no free number in the module, is not made, and its entry then names no group of the run:
the spec gives no outcome (DESIGN CHOICE, log 113). -/
def State.makeSelfs (s : State) (run : Nat) : State :=
  match s.run? run with
  | none => s
  | some r =>
    let entries := ((s.image? r).map (·.gtab)).getD []
    ((entries.zipIdx.filter fun q => q.1 == selfGroup).take (16 - r.groups.length)).foldl (fun s q => match s.freeGroup with
      | none => s
      | some k =>
        let (name, s) := s.newGroup run k
        s.modRun run fun r => { r with selfs := r.selfs ++ [(q.2, name)] }) s

/-- A RESIDENT run that never was one before: its SELF groups are made. -/
def State.firstResident (s : State) (run : Nat) : State :=
  match s.run? run with
  | none => s
  | some r => if r.st = .resident ∧ r.been = false then (s.modRun run fun r => { r with been := true }).makeSelfs run else s

/-! ## Resuming -/

/-- The run goes on (19 R332, 21 R361); one that was in handler state is in it again, one whose active plane reloads waits for that (22
R363). -/
def State.resume (s : State) (run : Nat) : State :=
  (s.modRun run fun r =>
    if (r.plane r.act).reload.isSome then { r with st := .frozen, hold := .reload false }
    else if r.esc.handler.isSome then { r with st := .frozen, hold := .handler }
    else { r with st := .resident, hold := .none }).firstResident run

/-- FROZEN at the order of the system software, or in the inactive planes, with its state in place. -/
def Run.inPlace (r : Run) : Bool := r.st == .frozen && (r.hold == .supervisor || r.hold == .inactive)

/-! ## Readout and restore (19 R333 to R336) -/

/-- First cell of a physical page of a die. -/
def pageCell (die page : Nat) : Nat := storeKey die page 0 0

def pageCells : Nat := 64 * 2 ^ 17

/-- Tile-store cells of the run's pages, keyed by logical page. -/
def State.pageImage (s : State) (r : Run) : List Host.Cell :=
  r.region.pages.zipIdx.flatMap fun p =>
    let lo := pageCell r.die p.1
    (s.mem.store.filter fun c => decide (lo ≤ c.1) && decide (c.1 < lo + pageCells)).map fun c => (c.1 - lo + pageCell 0 p.2, c.2)

def State.pageBad (s : State) (r : Run) : List Nat :=
  r.region.pages.zipIdx.flatMap fun p =>
    let lo := pageCell r.die p.1
    (s.mem.storeBad.filter fun w => decide (lo ≤ 4 * w) && decide (4 * w < lo + pageCells)).map fun w => (4 * w - lo + pageCell 0 p.2) / 4

/-- A physical page whose store holds nothing. -/
def State.clearPage (s : State) (die page : Nat) : State :=
  let lo := pageCell die page
  let store := s.mem.store.filter fun c => decide (c.1 < lo) || decide (lo + pageCells ≤ c.1)
  let bad := s.mem.storeBad.filter fun w => decide (4 * w < lo) || decide (lo + pageCells ≤ 4 * w)
  { s with mem := { s.mem with store := store, storeBad := bad } }

/-- Puts the saved tile stores of a run onto the pages it now has. -/
def State.loadPages (s : State) (r : Run) : State :=
  let s := r.region.pages.foldl (fun s p => s.clearPage r.die p) s
  let key (k : Nat) : Nat := k % pageCells + pageCell r.die (r.phys (k / pageCells))
  let store := r.saved.foldl (fun m c => cellSet m (key c.1) c.2) s.mem.store
  let bad := s.mem.storeBad ++ r.savedBad.map fun w => key (4 * w) / 4
  { s with mem := { s.mem with store := store, storeBad := bad } }

/-- MASKMISS for each class whose bit of RMASK is clear and that holds more than its load state. -/
def State.logMaskMiss (s : State) (r : Run) : State :=
  let cells := s.pageImage r
  [r.p0, r.p1].foldl (fun s p => p.loads.foldl (fun s l => l.blks.foldl (fun s b =>
    (blockOccupied l p cells b).foldl (fun s k =>
      if b.hdr.getLsbD k then s
      else s.logEvent r.die 0x312 none (some (s.identity r.id)) (some (b.page + 64 * b.quad + 256 * (k / 4))) none none) s) s) s) s

/-- Writes the run record; none: an address of it cannot be written. -/
def State.writeRecord (s : State) (r : Run) : Option State :=
  let bs := s.recordOfRun r (s.pageImage r)
  -- a block's free bytes are numbered within 2^16
  let s := { s with free := s.free + 65536 * (r.stream (s.pageImage r) r.region.pages.length).length }
  match r.record with
  | none => some s
  | some (some slot, va) => (s.vwrite slot va bs).toOption
  | some (none, a) => some ((chunksOf a bs).foldl (fun s c => (s.hbmWrite c.1 c.2).1) s)

/-- Reads a run record back for a run that has its pages: the run as the record says; none: STATE (19 R336). -/
def State.readRecord (s : State) (r : Run) : Option Run :=
  let read (off n : Nat) : Option (List Byte) := match r.record with
    | none => none
    | some (some slot, va) => match s.vread slot (va + off) n with
      | .ok (bs, _) => some bs
      | .error _ => none
    | some (none, a) => some (s.hbmRead (a + off) n)
  match read 0 64 with
  | none => none
  | some h =>
    let len := bytesNat ((h.drop 16).take 8)
    -- no record is longer than its pages, their packing and the reuse slots of a die can make it
    if !recordFits (s.identity r.id) r.region.pages.length h || decide (2 ^ 30 < len) then none
    else match read 0 len with
      | none => none
      | some bs => r.fromRecord r.region.ports.length r.region.pages.length (s.tenantSlots r).length bs

/-- Accesses as a readout saves them (19 R335): a parked one issues again; a WAITA gives up its monitor entry and is saved with the wake
epoch of its bucket, one that polls already with the epoch that it recorded. -/
def State.savedAcc (s : State) (r : Run) (a : Access) : Access :=
  if a.run ≠ r.id then a
  else match a.stage with
    | .parked => { a with stage := .queued, place := none, ats := 0, fault := none, walked := none }
    | .monitor =>
      let ep := match a.place with
        | some (.hbm p) => s.epoch (homeDie p) (bucketOf a.va)
        | _ => a.epoch
      { a with stage := .polling, poll := 0, epoch := ep }
    | .polling => { a with poll := 0 }
    | _ => a

/-- What a readout waits for: accesses that are pending and not parked, sectors in flight, engine writes (19 R333, 13 R287). -/
def State.busyRun (s : State) (run : Nat) : Bool :=
  s.ord.accs.any (fun a => a.run == run && (a.stage == .pending || a.stage == .combining || a.stage == .flying || a.stage == .owner))
    || s.ord.reqs.any (fun q => q.run == run && !q.inflight.isEmpty) || s.ord.wbuf.any fun w => w.run == run

/-- READOUT_COMPLETE: nothing of the run is under way; the record is written, the pages are free. For the Arbor the run then waits to
be placed again (20 R345). -/
def State.readoutComplete (s : State) (run : Nat) : State :=
  match s.run? run with
  | none => s
  | some r =>
    match r.order? 2 with
    | none => s
    | some o =>
      if !r.inPlace then (s.dropOrder run o).answerWho o.2 2
      else if s.busyRun run then s
      else
        let s := s.logMaskMiss r
        match s.writeRecord r with
        | none => s
        | some s =>
          let ids := (s.ord.accs.filter fun a => a.run == run).map (·.id)
          let mine (m : Monitor) : Bool := match m.who with
            | .acc i => ids.contains i
            | _ => false
          let accs := s.ord.accs.map (s.savedAcc r)
          let img := s.pageImage r
          let bad := s.pageBad r
          let s := { s with ord := { s.ord with accs := accs, monitors := s.ord.monitors.filter fun m => !mine m } }
          let s := s.modRun run fun r => { r with
            hold := .readout
            region := { r.region with pages := [], ports := [] }
            saved := img
            savedBad := bad
            orders := r.orders.erase o ++ (if o.2.isNone then [(3, none)] else [])
            queuedAt := s.cycle
            aged := 0 }
          s.answerWho o.2 0

def execReadoutComplete (run : Nat) (s : State) : Out := .next (s.readoutComplete run)

/-- RESTORE_COMPLETE: the record is reloaded onto the pages that the Arbor has given; one that does not fit them gives STATE (19 R336). A
run of the Arbor's own goes on; another stays FROZEN for THAW. -/
def State.restoreComplete (s : State) (run : Nat) : State :=
  match s.run? run with
  | none => s
  | some r =>
    match r.order? 3 with
    | none => s
    | some o =>
      if r.st ≠ .frozen ∨ r.hold ≠ .readout ∨ r.region.pages.isEmpty then s
      else match s.readRecord r with
        | none => (s.modRun run fun r => { r with
            region := { r.region with pages := [], ports := [] }, orders := r.orders.erase o }).answerWho o.2 2
        | some r' =>
          let s := ((s.setRun r').loadPages r').modRun run fun r => { r with
            hold := .supervisor, saved := [], savedBad := [], record := none, orders := r.orders.erase o }
          if o.2.isNone then (s.resume run).modRun run fun r => { r with residentAt := s.cycle, quantum := false }
          else s.answerWho o.2 0

def execRestoreComplete (run : Nat) (s : State) : Out := .next (s.restoreComplete run)

end Sys2Proof.Machine
end

