-- ==== Sys2Proof/Machine/Configs.lean ====
section
/-! DEFINITION. Configurations on the planes: start, done, drain, phases, nested controllers, background loads and the exchange of
planes (03 R35 to R40, R45 to R48, 08 R157, 12 R244, 26 R395 to R398). -/

namespace Sys2Proof.Machine

/-! ## Drain (R36, R37) -/

/-- An element has no result on its way and no operation in flight. -/
def Elem.still (e : Elem) : Bool :=
  e.out.isEmpty && (match e.ctl with
    | .mma ops _ => ops.isEmpty
    | .drain d => d.isNone
    | .stash r => r.isNone
    | _ => true)

/-- Accesses and engine requests of a configuration that have not replied, and engine writes of its requests, a message's landing among
them, that have not performed (R36, 08 R157, 18 R322). -/
def State.outstanding (s : State) (run p i : Nat) : Bool :=
  let mine (e : ElemRef) : Bool := e.run == run && e.plane == p && e.load == i
  s.ord.accs.any (fun a => mine a.elem) || s.ord.wbuf.any (fun w => mine w.elem) || s.ord.reqs.any (fun q => mine q.elem && !q.finished) || s.eng.dreqs.any fun q => mine q.elem

def Loaded.elems (l : Loaded) : List Elem := l.blks.flatMap (·.elems)

def Loaded.queuesEmpty (l : Loaded) : Bool := l.elems.all fun e => e.q.all List.isEmpty

/-- Drained (R36). A configuration that has not started holds nothing to drain. -/
def State.drained (s : State) (run p i : Nat) (l : Loaded) : Bool :=
  l.serial == 0 || (l.registered && l.queuesEmpty && l.elems.all Elem.still && !s.outstanding run p i)

/-- The queues of a configuration that hold something: place in the order of page, quadrant, tile and UNIT, site code, block, index,
input, tokens. -/
def Loaded.strays (l : Loaded) : List (Nat × Nat × Nat × Nat × Nat × Nat) :=
  l.blks.zipIdx.flatMap fun q => q.1.elems.zipIdx.flatMap fun e =>
    match fabAt q.1 e.2 with
    | none => []
    | some (_, f) => e.1.q.zipIdx.filterMap fun k =>
        if k.1.isEmpty then none
        else some ((q.1.page * 4 + q.1.quad) * 256 + f.tile.toNat * 16 + f.unit.toNat, siteCode q.1 f, q.2, e.2, k.2, k.1.length)

/-- The first of them, as the fields of a STRAY record (26 R397). -/
def Loaded.stray? (l : Loaded) : Option FaultInfo :=
  (l.strays.foldl (fun (a : Option (Nat × Nat × Nat × Nat × Nat × Nat)) x => match a with
    | none => some x
    | some y => if x.1 < y.1 then some x else some y) none).map fun x =>
      { FaultInfo.base Trap.stray.code 1 with
        site := x.2.1, blk := x.2.2.1, idx := x.2.2.2.1, aux := some (x.2.2.2.2.1 + 4 * min 7 x.2.2.2.2.2) }

/-- What a word that waits for drains finds. -/
inductive Drain? where
  | ok | wait
  | stray (i : FaultInfo)

/-- The configurations of the active plane that a test picks out. A stray that stands is found again at once (26 R398). -/
def State.drainOf (s : State) (r : Run) (need : Loaded → Bool) : Drain? :=
  let ls := (r.plane r.act).loads.zipIdx.filter fun q => q.1.serial != 0 && need q.1
  match ls.findSome? fun q => if q.1.registered then q.1.stray? else none with
  | some i => .stray i
  | none => if ls.all fun q => s.drained r.id r.act q.2 q.1 then .ok else .wait

/-- Every configuration of the active plane drained. -/
def State.whenDrained (s : State) (r : Run) (need : Loaded → Bool) (go : State) : State :=
  match s.drainOf r need with
  | .ok => go
  | .wait => s
  | .stray i => (s.modRun r.id fun r => { r with esc := { r.esc with wait := .idle } }).takeTrap r.id .stray i

/-- CONFIG_DONE: four cycles after the last sink finished the escapement registers done, and examines the queues. -/
def State.configDone (s : State) (run plane load : Nat) : State :=
  match s.run? run with
  | none => s
  | some r => match r.load? plane load with
    | none => s
    | some l => match l.doneAt with
      | none => s
      | some c =>
        if r.st ≠ .resident ∨ l.registered ∨ s.cycle < c + 4 then s
        else
          let s := s.modLoad run plane load fun l => { l with registered := true }
          match l.stray? with
          | none => s
          | some i => (s.modLoad run plane load fun l => { l with stray := true }).takeTrap run .stray i

def execConfigDone (run plane load : Nat) (s : State) : Out := .next (s.configDone run plane load)

/-! ## The phase gate (08 R157) -/

/-- Closes the gate behind start number `n`; under pipelined and streaming controllers only for one child (R40). -/
def Run.closeGate (r : Run) (n : Nat) (c : Option Nat) : Run :=
  if n = 0 then r else { r with gates := r.gates.filter (fun g => g.1 != n) ++ [(n, c)] }

/-- The word completes: nothing waits, SQC moves on. -/
def State.doneWord (s : State) (run : Nat) (effect : Run → Run) : State :=
  match s.run? run with
  | none => s
  | some r => s.complWord r fun r => let r := effect r; { r with esc := { r.esc with wait := .idle } }

def execPhase (s : State) : Out :=
  onWord s fun r => notInHandler s r
    (s.whenDrained r (fun _ => true) (s.doneWord r.id fun r => r.closeGate r.esc.starts none))

/-- END: an implicit PHASE, then the run leaves its groups and retires; the tokens of its escapement inputs go with it. -/
def execSeqEnd (s : State) : Out :=
  onWord s fun r => notInHandler s r (s.whenDrained r (fun _ => true) (s.retire r.id))

/-! ## Nested controllers (R39, R40) -/

/-- How an earlier start stands to the word that starts now: in one iteration of the controller of the given kind, or in another
iteration of one (its start number, kind and depth, iteration of the earlier start, whether of the same child). -/
inductive Kin where
  | same (kind : Nat)
  | other (id kind depth iter : Nat) (child : Bool)
  deriving DecidableEq, Repr

/-- Walks down the controllers that both stand in; `kind` is that of the innermost common one so far, the top level sequential. -/
def kin (kind : Nat) : List (Nat × Nat × Nat) → List LoopLevel → Nat → Nat → Kin
  | (id, _, iter) :: pu, lv :: pc, su, sc =>
    if id ≠ lv.id then .same kind
    else if iter = lv.count then kin lv.kind pu pc su sc
    else
      let cu := (pu.head?.map (·.2.1)).getD su
      let cc := (pc.head?.map (·.ret)).getD sc
      .other id lv.kind lv.depth iter (cu == cc)
  | _, _, _, _ => .same kind

/-- Controllers around the escapement's word, outermost first. -/
def Run.kinOf (r : Run) (u : Loaded) : Kin := kin 0 u.path r.esc.loops.reverse u.sqc r.esc.sqc

/-- An earlier start that the order of the controllers puts wholly before the word. -/
def Run.ordered (r : Run) (u : Loaded) : Bool := match r.kinOf u with
  | .same 2 => false
  | .same _ => true
  | .other _ 1 _ _ child => child
  | .other _ _ _ _ _ => true

/-- An earlier start that must have drained before configuration `cfg` may start at the word. -/
def Run.mustDrain (r : Run) (cfg : Nat) (u : Loaded) : Bool := u.cfg == cfg || r.ordered u

/-- Iterations of pipelined controllers in flight beside the word's own, and the depth that bounds them. -/
def State.depthOk (s : State) (r : Run) : Bool :=
  let flying := ((r.plane r.act).loads.zipIdx.filter fun q => !s.drained r.id r.act q.2 q.1).filterMap fun q => match r.kinOf q.1 with
    | .other id 1 depth iter _ => some (id, depth, iter)
    | _ => none
  flying.all fun f => decide (((flying.filter fun g => g.1 == f.1).eraseDups).length < f.2.1)

/-! ## Starting a configuration -/

/-- Port tiles whose generators a configuration's elements name. -/
def Loaded.genPorts (l : Loaded) : List Nat :=
  l.blks.flatMap fun b => (List.range b.words.length).filterMap fun i => match fabAt b i with
    | some (o, f) => if isMemLayout o ∧ fld f.imm 15 14 = 0 then some (fld f.imm 19 16) else none
    | none => none

/-- Elements of a block as a start finds them; the accumulators keep what they hold. -/
def Blk.fresh (b : Blk) : Blk :=
  { b with
    elems := (b.words.zip b.elems).map fun q =>
      { initElem (wordOpc q.1) (q.1.extractLsb' 20 2) (q.1.extractLsb' 0 20) with q := q.2.q.map fun _ => [] }
    committed := 0
    aborts := 0
    serial := none }

/-- A configuration starts: its elements may fire. -/
def Loaded.start (l : Loaded) (r : Run) (rule : Nat) (full : Bool) (serial cycle : Nat) : Loaded :=
  let l := { l with
    rule := rule
    full := full
    blks := l.blks.map Blk.fresh
    bufs := l.bufs.map fun w => { w with present := [], wpos := 0, rpos := 0 }
    iters := r.esc.iterCount
    serial := serial
    running := true
    doneAt := none
    registered := false
    stray := false
    path := r.esc.loops.reverse.map fun v => (v.id, v.ret, v.count)
    sqc := r.esc.sqc }
  if allDone l then { l with doneAt := some cycle } else l

/-- CONF or RULE starts load `i` of the active plane: configurations that have drained fire no more, the phase gate closes behind
what came before, the generators that the configuration may use are free. -/
def State.startLoad (s : State) (r : Run) (i : Nat) (rule : Nat) (full : Bool) : State :=
  let p := r.act
  let n := r.esc.starts + 1
  let last := (r.plane p).loads.find? fun u => u.serial == r.esc.starts
  let seq : Bool := match last with
    | none => true
    | some u => match r.kinOf u with
      | .same 0 | .other _ 0 _ _ _ => true
      | _ => false
  let rest := (r.plane p).loads.zipIdx.map fun q => if q.2 ≠ i ∧ s.drained r.id p q.2 q.1 then { q.1 with running := false } else q.1
  match rest[i]? with
  | none => s
  | some l =>
    let l := l.start r rule full n s.cycle
    let ports := l.genPorts
    let gens := r.region.gens.zipIdx.map fun g => if seq ∨ ports.contains g.2 then List.replicate 4 (⟨none, []⟩ : Gen) else g.1
    let r := r.setPlane p { r.plane p with loads := setAt rest i l }
    let r := r.closeGate (n - 1) (if seq then none else some l.cfg)
    s.setRun { r with region := { r.region with gens := gens }, esc := { r.esc with starts := n } }

/-- A trap at a word with further fields of its record. -/
def State.trapWordWith (s : State) (run : Nat) (t : Trap) (i : FaultInfo → FaultInfo) : State :=
  (s.modRun run fun r => { r with esc := { r.esc with wait := .idle } }).takeTrap run t (i (FaultInfo.atWord t))

/-- LOADFLT with the record of a load fault (09 R182, R183). -/
def State.loadFault (s : State) (run : Nat) (f : LoadFault) : State :=
  s.trapWordWith run .loadflt fun i => { i with aux := f.code.code, blk := f.block, idx := f.index }

/-- Heads of the rules of a number that no run owns (13 R275). -/
def State.unowned (s : State) (r : Run) (num : Nat) : Option Nat :=
  match s.image? r with
  | none => none
  | some img => (img.rules.find? fun q => q.num == num && (s.relOwner r.slot q.head).isNone).map (·.head)

/-- CONF and RULE: wait for the configurations that must have drained, then start a resident configuration, or wait for its load. -/
def State.confWord (s : State) (r : Run) (cfg rule : Nat) (full : Bool) : State :=
  if r.esc.wait = .loading then s
  else s.whenDrained r (r.mustDrain cfg)
    (if !s.depthOk r then s
     else match (if rule = 0 then none else s.unowned r rule) with
       | some h => s.trapWordWith r.id .noowner fun i => { i with va := h }
       | none => match (r.plane r.act).loads.findIdx? fun l => l.cfg == cfg with
         | some i => (s.startLoad r i rule full).doneWord r.id id
         | none => s.setRun { r with esc := { r.esc with wait := .loading } })

def execConf (cfg : BitVec 16) (s : State) : Out :=
  onWord s fun r => notInHandler s r (s.confWord r cfg.toNat 0 false)

def execRule (cfg : BitVec 16) (num : BitVec 8) (s : State) : Out :=
  onWord s fun r => notInHandler s r (s.confWord r cfg.toNat num.toNat false)

def execRuleFull (cfg : BitVec 16) (num : BitVec 8) (s : State) : Out :=
  onWord s fun r => notInHandler s r (s.confWord r cfg.toNat num.toNat true)

/-- Configuration index, rule number and FULL of the word at SQC. -/
def State.confAt (s : State) (r : Run) : Option (Nat × Nat × Bool) :=
  match (s.seqOf r)[r.esc.sqc]? with
  | none => none
  | some w => match decodeSeq w with
    | .ok (.conf c) => some (c.toNat, 0, false)
    | .ok (.rule c n) => some (c.toNat, n.toNat, false)
    | .ok (.ruleFull c n) => some (c.toNat, n.toNat, true)
    | _ => none

/-- Carvings of a plane. -/
def Plane.carves (p : Plane) : List Carve := p.loads.flatMap (·.carves)

/-- A configuration as the load leaves it: its carved ranges are noted as they stand. -/
def State.noteLoad (s : State) (r : Run) (l : Loaded) : Loaded :=
  let cells := s.pageImage r
  { l with atLoad := l.carves.flatMap fun k => k.cells cells }

/-- Loads a configuration into the active plane beside the loads that `keep` picks out, which hold their quadrants and their carved
ranges (07 R131): the state, and its place in the plane. -/
def State.loadActive (s : State) (r : Run) (isRule : Bool) (cfg : Nat) (keep : Nat → Loaded → Bool) : Except LoadFault (State × Nat) :=
  let p := r.plane r.act
  let held := (p.loads.zipIdx.filter fun q => q.1.cfg != cfg && keep q.2 q.1).map (·.1)
  match s.fetchCfg r isRule cfg (heldSpots (fun i l => !keep i l) p) held with
  | .error f => .error f
  | .ok (l, c) =>
    if planesClash l.carves (r.plane (1 - r.act)).carves || carvesClash l.carves (held.flatMap (·.carves)) then
      .error (fault3 .badcarve 0 0)
    else
      let s := s.preload r c l
      let (p', i) := p.install (s.noteLoad r l)
      .ok (s.setRun (r.setPlane r.act p'), i)

/-! ## Background loads and the exchange of planes (R46 to R48) -/

/-- Some readout mask of a configuration is nonzero. -/
def Loaded.masked (l : Loaded) : Bool := l.blks.any fun b => fld b.hdr 63 0 != 0

/-- A configuration with a nonzero readout mask is on its way into a plane. -/
def State.loadingMasked (s : State) (r : Run) (p : Plane) : Bool :=
  match p.loading.map fun cfg => s.fetchCfg r false cfg [] [] with
  | some (.ok (l, _)) => l.masked
  | _ => false

/-- The inactive plane holds, or is being loaded with, a configuration whose readout mask is nonzero and which has not drained. One that
has not started has not drained (log 56). -/
def State.shadowBusy (s : State) (r : Run) : Bool :=
  let q := 1 - r.act
  let p := r.plane q
  s.loadingMasked r p || p.loads.zipIdx.any fun x => x.1.masked && (x.1.serial == 0 || !s.drained r.id q x.2 x.1)

/-- Status of a SHADOW of a configuration: 0 LOADED, 1 OVERLAP, 2 BUSY, tested in this order (DESIGN CHOICE, log 56). -/
def State.shadowStatus (s : State) (r : Run) (cfg : Nat) : Nat :=
  let p := r.plane (1 - r.act)
  if p.loads.any (fun l => l.cfg == cfg) ∨ p.loading = some cfg then 0
  else match s.fetchCfg r false cfg [] [] with
    | .ok (l, _) => if planesClash l.carves (r.plane r.act).carves then 1 else if s.shadowBusy r then 2 else 0
    | .error _ => if s.shadowBusy r then 2 else 0

def State.shadowWord (s : State) (r : Run) (ga : BitVec 6) (cfg : Nat) : State :=
  let q := 1 - r.act
  let st := s.shadowStatus r cfg
  let p := r.plane q
  let held := p.loads.any (fun l => l.cfg == cfg) || p.loading == some cfg
  let v : W64 := BitVec.ofNat 64 st
  s.complWord r fun r =>
    (if st = 0 ∧ !held then r.setPlane q { p with loading := some cfg, fault := none } else r).setG ga v

def execShadow (ga : BitVec 6) (cfg : BitVec 16) (s : State) : Out :=
  onWord s fun r => notInHandler s r (s.shadowWord r ga cfg.toNat)

/-- SHADOW_LOAD_COMPLETE: the inactive plane holds the configuration, or keeps what it held and the fault (09 R181, R183). Its carving is
checked against what the active plane carves by now (07 R131). -/
def State.shadowLoad (s : State) (run : Nat) : State :=
  match s.run? run with
  | none => s
  | some r =>
    let q := 1 - r.act
    let p := r.plane q
    match p.loading with
    | none => s
    | some cfg =>
      if r.st ≠ .resident then s
      else
        let fail (f : LoadFault) : State := s.setRun (r.setPlane q { p with loading := none, fault := some f })
        match s.fetchCfg r false cfg [] [] with
        | .error f => fail f
        | .ok (l, c) =>
          if planesClash l.carves (r.plane r.act).carves then fail (fault3 .badcarve 0 0)
          else
            let s := s.preload r c l
            s.setRun (r.setPlane q { p with loads := [s.noteLoad r l], accs := [], loading := none, fault := none })

def execShadowLoadComplete (run : Nat) (s : State) : Out := .next (s.shadowLoad run)

/-- The inactive plane holds no configuration and none is on its way. -/
def Plane.holdsNone (p : Plane) : Bool := p.loading.isNone && p.loads.all fun l => l.cfg == 65536

/-- SWAP waits for the drain of the active plane and for the load, or the reload (22 R363), then for forty cycles of the run. -/
def State.swapWord (s : State) (r : Run) : State :=
  let q := 1 - r.act
  let p := r.plane q
  match r.esc.wait with
  | .swapping _ => s
  | _ =>
    match p.fault with
    | some f => (s.modRun r.id fun r => r.setPlane q { r.plane q with fault := none }).loadFault r.id f
    | none =>
      if p.holdsNone then s.trapWord r.id .swapempty
      else s.whenDrained r (fun _ => true)
        (if p.loading.isSome || p.reload.isSome then s else s.setRun { r with esc := { r.esc with wait := .swapping r.cycles } })

def execSwap (s : State) : Out := onWord s fun r => notInHandler s r (s.swapWord r)

/-- Configurations of the plane that becomes active: one that a SHADOW loaded starts, one that has run goes on where it stood. -/
def startShadows (r : Run) (cycle : Nat) : Nat → List Loaded → List Loaded × Nat
  | n, [] => ([], n)
  | n, l :: ls =>
    if l.cfg = 65536 then
      let (rest, m) := startShadows r cycle n ls
      (l :: rest, m)
    else if l.serial = 0 then
      let (rest, m) := startShadows r cycle (n + 1) ls
      (l.start r 0 false (n + 1) cycle :: rest, m)
    else
      let (rest, m) := startShadows r cycle n ls
      ({ l with running := true } :: rest, m)

/-- PLANE_EXCHANGE. The formerly active plane keeps its configuration and its bank. -/
def State.planeExchange (s : State) (run : Nat) : State :=
  match s.run? run with
  | none => s
  | some r => match r.esc.wait with
    | .swapping c =>
      if r.st ≠ .resident ∨ r.cycles < c + 40 ∨ (r.plane (1 - r.act)).reload.isSome then s
      else
        let q := 1 - r.act
        let (ls, n) := startShadows r s.cycle r.esc.starts (r.plane q).loads
        let gens := r.region.gens.map fun _ => List.replicate 4 (⟨none, []⟩ : Gen)
        let r := r.setPlane q { r.plane q with loads := ls }
        (s.setRun { r with activeOne := !r.activeOne, region := { r.region with gens := gens }, esc := { r.esc with starts := n } }).doneWord run id
    | _ => s

def execPlaneExchange (run : Nat) (s : State) : Out := .next (s.planeExchange run)

end Sys2Proof.Machine
end

