-- ==== Sys2Proof/Machine/Groups.lean ====
section
/-! DEFINITION. Groups of runs: JOIN, LEAVE, their requests and replies (03 R42 to R44, R55, R56, 10 R186). -/

namespace Sys2Proof.Machine

/-! ## The request -/

/-- A group operand that no request leaves for: it names no group (10 R186). -/
def State.noSuchName (s : State) (join : Bool) (v : W64) : Bool :=
  let home := fld v 19 12
  decide (2 ^ 20 ≤ v.toNat)
    || (if v = 0 then !join else home != s.chip.modnum.toNat && !s.chip.peers.contains home)

/-- The word waits for the reply to request `id`, which leaves now. -/
def State.sendReq (s : State) (run id : Nat) : State :=
  s.modRun run fun r => { r with esc := { r.esc with wait := .sent id, sentAt := r.cycles } }

/-- JOIN and LEAVE send their request once. -/
def State.groupWord (s : State) (r : Run) (join : Bool) (v : W64) : State :=
  match r.esc.wait with
  | .sent _ => s
  | _ =>
    let (id, t) := s.fresh
    let none_ := s.noSuchName join v
    let far := !none_ && s.farGroup v
    let q : GroupReq := ⟨id, r.id, far, join, v, none_, if none_ then 2 else 0, 0⟩
    let add (s : State) : State := ({ s with adm := { s.adm with greqs := s.adm.greqs ++ [q] } }).sendReq r.id id
    if far then
      -- a request to another module needs a tag; without one the word waits
      match t.askGroup (if join then .join else .leave) (v.setWidth 20)
          (groupPayload (v.setWidth 20) false (decide (16 ≤ r.groups.length)) (s.identity r.id) 0 0 0) (.group id) with
      | some u => add u
      | none => s
    else add t

def execJoin (_ga gb : BitVec 6) (s : State) : Out := onWord s fun r => s.groupWord r true (r.getG gb)
def execLeave (_ga gb : BitVec 6) (s : State) : Out := onWord s fun r => s.groupWord r false (r.getG gb)

/-! ## At the home module -/

/-- The run is a member from now on. -/
def State.enrol (s : State) (run : Nat) (name : BitVec 20) (pass : Nat) : State :=
  s.modRun run fun r => if r.groups.contains name then r
    else { r with groups := r.groups ++ [name]
                  passes := if s.farGroup (name.setWidth 64) then r.passes ++ [(name, pass)] else r.passes }

/-- A JOIN of an existing group at its home module; `full`: the run is in sixteen groups. Status and state. A barrier that has its last
arrival releases first (R44). The statuses are tested in the order BUSY, ALREADY, LIMIT: the spec gives no order (DESIGN CHOICE, log 69). -/
def State.joinHere (s : State) (identity : Nat) (full : Bool) (name : BitVec 20) : Nat × State :=
  let s := s.barrierFires name
  match s.group? name with
  | none => (2, s)
  | some g =>
    if g.fixOpen then (8, s)
    else if g.members.contains identity then (5, s)
    else if full then (4, s)
    else (0, s.modGroup name fun g => { g with members := g.members ++ [identity] })

/-- A LEAVE at the home module. -/
def State.partHere (s : State) (identity : Nat) (name : BitVec 20) : Nat × State :=
  match s.group? name with
  | none => (6, s)
  | some g =>
    if g.fixOpen then (8, s)
    else if !g.members.contains identity then (6, s)
    else (if g.members.length = 1 then 7 else 0, s.leaveHere identity name)

/-- JOIN of a run of this module: status, new name, state. A JOIN of operand zero that meets both LIMIT and GFULL answers LIMIT: the spec gives
no order (DESIGN CHOICE, log 69). -/
def State.joinAt (s : State) (run : Nat) (v : W64) : Nat × BitVec 20 × State :=
  let name : BitVec 20 := v.setWidth 20
  let full := decide (16 ≤ (((s.run? run).map (·.groups)).getD []).length)
  if v = 0 then
    if full then (4, 0, s)
    else match s.freeGroup with
      | none => (3, 0, s)
      | some k =>
        let (name, t) := s.newGroup run k
        (1, name, t)
  else
    let (st, s) := s.joinHere (s.identity run) full name
    (st, 0, if st = 0 then s.enrol run name 0 else s)

/-- LEAVE of a run of this module. -/
def State.leaveAt (s : State) (run : Nat) (v : W64) : Nat × BitVec 20 × State :=
  let name : BitVec 20 := v.setWidth 20
  let (st, s) := s.partHere (s.identity run) name
  (st, 0, if st = 0 ∨ st = 7 then s.forgetGroup run name else s)

/-- The request of a number is answered. -/
def State.answerGroup (s : State) (k st : Nat) (made : BitVec 20) : State :=
  { s with adm := { s.adm with greqs := modAt (fun (x : GroupReq) => { x with arrived := true, status := st, made := made }) s.adm.greqs k } }

/-- GROUP_REQUEST_ARRIVAL: request number `k` reaches the home module, which is this one. -/
def State.groupArrival (s : State) (k : Nat) : State :=
  match s.adm.greqs[k]? with
  | none => s
  | some q =>
    if q.arrived || q.far then s
    else
      let (st, name, s) := if q.join then s.joinAt q.run q.group else s.leaveAt q.run q.group
      s.answerGroup k st name

def execGroupRequestArrival (k : Nat) (s : State) : Out := .next (s.groupArrival k)

/-! ## The reply -/

/-- The word at SQC of a run. -/
def State.wordAt (s : State) (r : Run) : Option Instr :=
  match (s.seqOf r)[r.esc.sqc]? with
  | none => none
  | some w => match decodeSeq w with
    | .ok i => some i
    | .error _ => none

/-- GROUP_REPLY: the status goes to G[GA], a new group's name to G[GB]. -/
def State.groupReply (s : State) (run : Nat) : State :=
  match s.run? run with
  | none => s
  | some r =>
    match r.esc.wait with
    | .sent id =>
      if !r.issues then s
      else match s.adm.greqs.find? fun q => q.id == id && q.arrived with
        | none => s
        | some q =>
          let s := { s with adm := { s.adm with greqs := s.adm.greqs.erase q } }
          match s.wordAt r with
          | some (.join ga gb) => s.doneWord run fun r =>
              let r := r.setG ga (BitVec.ofNat 64 q.status)
              if q.status = 1 then r.setG gb (q.made.setWidth 64) else r
          | some (.leave ga _) => s.doneWord run fun r => r.setG ga (BitVec.ofNat 64 q.status)
          | _ => s
    | _ => s

def execGroupReply (run : Nat) (s : State) : Out := .next (s.groupReply run)

/-- JOIN and LEAVE whose request or reply is lost: UNREACH (R56). -/
def State.lostGroup (s : State) (r : Run) : State :=
  match s.wordAt r with
  | some (.join ga _) => s.doneWord r.id fun r => r.setG ga 9
  | some (.leave ga _) => s.doneWord r.id fun r => r.setG ga 9
  | _ => s

end Sys2Proof.Machine
end

