-- ==== Sys2Proof/Machine/Privileged.lean ====
section
/-! DEFINITION. The privileged elements and the arrival of their requests (13 R299, 19 R331 to R336, 21 R354, R355). -/

namespace Sys2Proof.Machine

/-! ## Requests to runs -/

/-- A privileged element asks something of its targets: each answers with a status; `now` gives one at once. -/
def FireIn.ask (x : FireIn) (k : Taken) (m : Mark) (targets : List Nat) (now : State → Nat → Option Nat)
    (order : State → Nat → ElemRef × Nat → State) : Fire :=
  let rid := x.s.ord.nextId
  let who := (x.ref, rid)
  let item : OutItem := ⟨rid, false, x.all fun o => .tok o (scalarTok 0 m x.rcNo), max targets.length 1, k.takes, k.gen, none⟩
  .act { elem := k.elem
         later := [item]
         eff := fun s =>
           let s := (k.eff s).nextId (rid + 1)
           if targets.isEmpty then s.answerPriv x.ref rid 1
           else targets.foldl (fun s t => match now s t with
             | some st => s.answerPriv x.ref rid st
             | none => order s t who) s }

/-- NORUN and SELF (R299). -/
def FireIn.absent (x : FireIn) (s : State) (t : Nat) : Option Nat :=
  if t = x.ref.run then some 3 else if (s.run? t).isNone then some 1 else none

/-- FREEZE of a run, or of each member of a group. -/
def freezeFire (x : FireIn) : Fire :=
  portInput x false fun ps =>
    let k := x.take x.ins ps
    let m := resultMark ps
    let w := (ps.headD .elided).word
    if ps.any Pos.poison then x.poisoned k false m
    else
      let name : BitVec 20 := w.setWidth 20
      let targets := if x.md = 0 then [w.toNat] else (((x.s.group? name).map (·.members)).getD []).filterMap x.s.own?
      let unit (s : State) : State := if x.md = 0 then s else s.modGroup name fun g => { g with unit := true }
      x.ask { k with eff := unit } m targets x.absent fun s t who => s.addOrder t 0 (some who)

def execFreeze (f : Fab) (s : State) : Out := fire (.freeze f) freezeFire s

def thawFire (x : FireIn) : Fire :=
  portInput x false fun ps =>
    let k := x.take x.ins ps
    let m := resultMark ps
    if ps.any Pos.poison then x.poisoned k false m
    else x.ask k m [(ps.headD .elided).word.toNat] x.absent fun s t who => s.addOrder t 1 (some who)

def execThaw (f : Fab) (s : State) : Out := fire (.thaw f) thawFire s

/-- Address of the run record: the pool word and the offset on i1 (as R272). -/
def FireIn.recordVa (x : FireIn) (ps : List Pos) : Nat :=
  ((x.pool (x.imm 9 0)).toNat + ((ps[1]?).map fun p => p.word.toNat).getD 0) % 2 ^ 57

def readoutFire (x : FireIn) : Fire :=
  portInput x false fun ps =>
    let k := x.take x.ins ps
    let m := resultMark ps
    if ps.any Pos.poison then x.poisoned k false m
    else
      let now (s : State) (t : Nat) : Option Nat := match x.absent s t with
        | some st => some st
        | none => match s.run? t with
          | some r => if r.inPlace && (r.order? 2).isNone then none else some 2
          | none => some 1
      x.ask k m [(ps.headD .elided).word.toNat] now fun s t who =>
        (s.addOrder t 2 (some who)).modRun t fun r => { r with record := some (some x.run.slot, x.recordVa ps) }

def execReadout (f : Fab) (s : State) : Out := fire (.readout f) readoutFire s

/-- RESTORE of a run that is read out, from the record at the address given; the Arbor places its pages (20 R345). -/
def restoreFire (x : FireIn) : Fire :=
  portInput x false fun ps =>
    let k := x.take x.ins ps
    let m := resultMark ps
    if ps.any Pos.poison then x.poisoned k false m
    else
      let now (s : State) (t : Nat) : Option Nat := match x.absent s t with
        | some st => some st
        | none => match s.run? t with
          | some r =>
            if r.st = .frozen ∧ r.hold = .readout ∧ (r.order? 3).isNone then none else some 2
          | none => some 1
      x.ask k m [(ps.headD .elided).word.toNat] now fun s t who =>
        (s.addOrder t 3 (some who)).modRun t fun r =>
          { r with queuedAt := s.cycle, aged := 0, record := some (some x.run.slot, x.recordVa ps) }

def execRestore (f : Fab) (s : State) : Out := fire (.restore f) restoreFire s

/-! ## Arrivals (R331, R332) -/

/-- FREEZE_ARRIVAL: the region freezes at this cycle boundary; a trap of the same cycle has not been taken (R331). A freeze of the Arbor's
own goes on to the readout (20 R345). -/
def State.freezeArrival (s : State) (run : Nat) : State :=
  match s.run? run with
  | none => s
  | some r =>
    match r.order? 0 with
    | none => s
    | some o =>
      let s := s.dropOrder run o
      let done (s : State) : State := if o.2.isNone then s.addOrder run 2 none else s.answerWho o.2 0
      if r.st = .resident then done (s.freeze run .supervisor)
      else match r.hold with
        | .reload false => (s.addOrder run 4 o.2).modRun run fun r => { r with hold := .reload true }
        | _ => match s.uncatch run .supervisor with
          | some t => done t
          | none => s.answerWho o.2 2

def execFreezeArrival (run : Nat) (s : State) : Out := .next (s.freezeArrival run)

/-- Runs that hold pages of a run in their active planes. -/
def State.sharers (s : State) (r : Run) : List Run :=
  s.runs.filter fun x => x.id != r.id && x.die == r.die && (x.st == .resident || x.st == .frozen) && x.hold != .inactive
    && x.region.pages.any fun p => r.region.pages.contains p

/-- Some member of a group that was pre-empted as a unit is not restored yet (03 R57). -/
def State.unitHeld (s : State) (r : Run) : Bool :=
  r.groups.any fun name => match s.group? name with
    | none => false
    | some g => g.unit && g.members.any fun m => match (s.own? m).bind s.run? with
      | none => false
      | some x => x.hold == .readout

/-- THAW_ARRIVAL: the run resumes; from the inactive planes, in exchange with a FROZEN run. -/
def State.thawArrival (s : State) (run : Nat) : State :=
  match s.run? run with
  | none => s
  | some r =>
    match r.order? 1 with
    | none => s
    | some o =>
      let s := s.dropOrder run o
      if !r.inPlace || s.unitHeld r then s.answerWho o.2 2
      else
        let done (s : State) : State :=
          let s := r.groups.foldl (fun s g => s.modGroup g fun g => { g with unit := false }) s
          (s.resume run).answerWho o.2 0
        if r.hold = .supervisor then done s
        else
          let others := s.sharers r
          if others.all fun x => x.st == .frozen then
            done (others.foldl (fun s x => s.modRun x.id fun y => { y with hold := .inactive }) s)
          else s.answerWho o.2 2

def execThawArrival (run : Nat) (s : State) : Out := .next (s.thawArrival run)

/-! ## Grant tokens (21 R354, R355) -/

/-- The epoch of this module. -/
def State.grantEpoch (s : State) : Nat := s.time / 655360 % 256

/-- Token bits but for the MAC. -/
def grantBody (rights ecls base expiry : Nat) : W64 :=
  BitVec.ofNat 64 (rights % 8 * 2 ^ 61 + ecls % 32 * 2 ^ 56 + base % 2 ^ 20 * 2 ^ 36 + expiry % 256 * 2 ^ 28)

/-- Mints a token for a requesting module: the token and a status, 0 OK, 4 NOKEY, 6 BADCLASS. `a` is i0's word, `b` i1's. -/
def State.mint (s : State) (requester : Nat) (a b : W32) : W64 × Nat :=
  match s.chip.grantKey with
  | none => (0, 4)
  | some key =>
    let x := fld a 15 8
    if x < 1 ∨ 128 < x then (0, 6)
    else
      let t := grantBody (fld a 2 0) (fld a 7 3) (fld b 19 0) ((s.grantEpoch + x) % 256)
      (t + BitVec.ofNat 64 (grantMac key t requester s.chip.modnum.toNat), 0)

/-- The results of a GRANT: the token, low word first, and the status. -/
def grantEmits (m : Mark) (chan : Nat) (t : W64) (st : Nat) : List Emit × List Emit :=
  ([.tok 0 (scalarTok (t.setWidth 32) .data chan)],
   [.tok 0 (scalarTok (t.extractLsb' 32 32) m chan), .tok 1 (scalarTok (BitVec.ofNat 32 st) m chan)])

/-- GRANT: minted here, or asked of another module of the domain (log 33). -/
def grantFire (x : FireIn) : Fire :=
  portInput x false fun ps =>
    let k := x.take x.ins ps
    let m := resultMark ps
    if ps.any Pos.poison then
      x.answer k ((x.all fun o => .tok o (poisonTok false m x.rcNo)))
    else
      let a := (ps.headD .elided).word
      let b := ((ps[1]?).map Pos.word).getD 0
      let target := fld a 23 16
      let rid := x.s.ord.nextId
      let put (t : W64) (st : Nat) : Fire :=
        let (e1, e2) := grantEmits m x.rcNo t st
        .act { elem := k.elem
               later := [readyItem rid e1 k.takes k.gen, readyItem rid e2 [] none]
               eff := fun s => s.nextId (rid + 1) }
      if target = x.s.chip.modnum.toNat then
        let (t, st) := x.s.mint target a b
        put t st
      else if !x.s.chip.peers.contains target then put 0 5
      else match x.s.freeTag with
        | none => .wait
        | some _ =>
          .act { elem := k.elem
                 later := [⟨rid, false, [.tok 0 (scalarTok 0 m x.rcNo)], 1, k.takes, k.gen, none⟩]
                 eff := fun s =>
                   let s := s.nextId (rid + 1)
                   (s.request 9 target 0 0 0 1 8 (BitVec.ofNat 512 (a.toNat + b.toNat * 2 ^ 32)) (.acc 0) (some (x.ref, rid, 0))).getD s }

def execGrant (f : Fab) (s : State) : Out := fire (.grant f) grantFire s

end Sys2Proof.Machine
end

