-- ==== Sys2Proof/Machine/Errors.lean ====
section
/-! DEFINITION. Uncorrectable and corrected errors, and the reload of a configuration plane (22 R362 to R366). -/

namespace Sys2Proof.Machine

/-! ## Configuration stores (R363, R364) -/

/-- Bytes of a plane that the largest page of the region reloads. -/
def Plane.pageBytes (p : Plane) : Nat :=
  (List.range 48).foldl (fun a k =>
    max a ((p.loads.map fun l => ((l.blks.filter fun b => b.page == k).map fun b => 8 * b.words.length).foldl (· + ·) 0).foldl (· + ·) 0)) 0

/-- Cycle in which the last word of a reload that starts now arrives: the freeze, then 64 bytes a cycle. -/
def State.reloadEnd (s : State) (p : Plane) : Nat := s.cycle + 1 + (p.pageBytes + 63) / 64

/-- The signature of a plane (R363, 05 R402): the CRC-32C of its words in load order, as they were loaded. -/
def Plane.signature (p : Plane) : Nat :=
  crc32c 0 (p.loads.flatMap fun l => l.blks.flatMap fun b => b.words.flatMap fun w => natBytes 8 w.toNat)

/-- CFG_STORE_ERROR: CFGUE is logged and the plane reloads; for the active plane the region freezes with its banks untouched, and a trap of
the same cycle has not been taken (R364). An error in a later cycle of a reload spoils a word that has arrived, so the CRC of its words
is a free value (log 7). -/
def State.cfgError (s : State) (run plane : Nat) : State :=
  match s.run? run with
  | none => s
  | some r =>
    let s := s.logEvent r.die 0x306 (some 5) (some (s.identity run)) none none none
    let p := r.plane plane
    let start := s.reloadEnd p
    let rel := match p.reload with
      | none => some (start, p.signature)
      | some (c, crc) => if c = start then some (c, crc) else some (c, (Config.freeWord s.free).toNat % 2 ^ 32)
    let s := { s.modRun run fun r => r.setPlane plane { r.plane plane with reload := rel } with free := s.free + 1 }
    if plane ≠ r.act then s
    else if r.st = .resident then s.freeze run (.reload false)
    else (s.uncatch run (.reload false)).getD s

def execCfgStoreError (run plane : Nat) (s : State) : Out := .next (s.cfgError run plane)

/-- The CRC of a reloaded plane, four cycles after its last word. -/
def State.checkPlane (s : State) (run plane : Nat) : State :=
  match s.run? run with
  | none => s
  | some r =>
    match (r.plane plane).reload with
    | none => s
    | some (c, crc) =>
      let ok := crc == (r.plane plane).signature
      if s.cycle < c + 4 then s
      else
        let s := s.modRun run fun r => r.setPlane plane { r.plane plane with reload := none }
        let held := match r.hold with
          | .reload f => some f
          | _ => none
        -- a FREEZE that met the reload has its answer
        let asked (s : State) : State := match r.order? 4 with
          | some o => if o.2.isNone then (s.dropOrder run o).addOrder run 2 none else (s.dropOrder run o).answerWho o.2 0
          | none => s
        if !ok then
          asked (s.supervisorFault run (FaultInfo.base 0x30E 4))
        else if plane ≠ r.act then s
        else match held with
          | none => s
          | some true => asked (s.modRun run fun r => { r with hold := .supervisor })
          | some false => s.resume run

/-- CFG_RELOAD_CHECK, the active plane first. -/
def State.reloadCheck (s : State) (run : Nat) : State :=
  match s.run? run with
  | none => s
  | some r => (s.checkPlane run r.act).checkPlane run (1 - r.act)

def execCfgReloadCheck (run : Nat) (s : State) : Out := .next (s.reloadCheck run)

/-! ## Uncorrectable errors (R362) -/

/-- A token whose word is lost keeps its voted marker; an end token holds no word. -/
def errTok (t : Token) : Token := if t.mark.isEnd then t else { poisonTok t.vec t.struct t.chan with skip := t.skip }

/-- The operation that keeps a value in ACC or the latch has lost it (10 R204, 11 R216). -/
def Ctl.err : Ctl → Ctl
  | .accum total folded _ => .accum total folded true
  | .fold s psn pending => .fold s (psn || s.isSome) pending
  | c => c

/-- A result of the return buffer is lost; an elided position holds no word. -/
def errEmit : Emit → Emit
  | .tok k t => .tok k (errTok t)
  | m => m

/-- The token at a position of a stream buffer is lost. -/
def errSkid : Nat → List SkidItem → List SkidItem
  | _, [] => []
  | n, .plain t :: rest => if n = 0 then .plain (errTok t) :: rest else .plain t :: errSkid (n - 1) rest
  | n, .group ts c :: rest =>
    if n < ts.length then .group (modAt errTok ts n) c :: rest else .group ts c :: errSkid (n - ts.length) rest

/-- TOKUE at an element. -/
def State.logTok (s : State) (e : ElemRef) (die : Nat) : State :=
  s.logEvent die 0x304 (some 3) (some (s.identity e.run)) (s.elemInfo e 0 0).site none none

/-- An error in something that a run keeps: logged with the run. -/
def State.errRun (s : State) (run code dom : Nat) (f : Run → Run) : State :=
  match s.run? run with
  | none => s
  | some r => (s.modRun run f).logEvent r.die code (some dom) (some (s.identity run)) none none none

def State.poisonLine (s : State) (line : Nat) : State :=
  { s with mem := { s.mem with poison := insertNew line s.mem.poison } }

/-- The k-th entry of a die in a list. -/
def kthOf {α : Type} (dieOf : α → Nat) (die k : Nat) (l : List α) : Option α := (l.filter fun x => dieOf x == die)[k]?

/-- An uncorrectable error strikes one structure. -/
def State.uncorrectable (s : State) (t : ErrTarget) : State :=
  match t with
  | .hbmData line => (s.poisonLine line).logEvent (homeDie (64 * line)) 0x301 (some 0) none none none (some (64 * line))
  | .lineMeta b => ((s.poisonLine (2 * b)).poisonLine (2 * b + 1)).logEvent (homeDie (128 * b)) 0x302 (some 1) none none none (some (128 * b))
  | .tileStore run page tile word =>
    match s.run? run with
    | none => s
    | some r =>
      let w := storeKey r.die (r.phys page) tile (4 * word) / 4
      let s := { s with mem := { s.mem with storeBad := insertNew w s.mem.storeBad } }
      s.logEvent r.die 0x303 (some 2) (some (s.identity run)) (some (page + 64 * (tile / 16) + 256 * (tile % 16))) none (some (4 * word))
  | .queue e input pos =>
    match s.site e with
    | none => s
    | some h =>
      if pos < (h.elem.queue input).length then
        let s := s.modElem e fun el => el.setQueue input (modAt errTok (el.queue input) pos)
        s.logTok e h.run.die
      else s
  | .latch e =>
    match s.site e with
    | none => s
    | some h => (s.modElem e fun el => { el with latch := errTok el.latch, ctl := el.ctl.err }).logTok e h.run.die
  | .result e place pos =>
    match s.site e with
    | none => s
    | some h =>
      (s.modElem e fun el => { el with
        out := modAt (fun i => { i with emits := modAt errEmit i.emits pos }) el.out place }).logTok e h.run.die
  | .stream run port pos => s.errRun run 0x303 2 fun r => r.setSkid port (errSkid pos (r.skidOf port))
  | .escInput run n pos => s.errRun run 0x304 3 fun r =>
      { r with esc := { r.esc with e := modAt (fun ts => modAt errTok ts pos) r.esc.e n } }
  | .ingress run chan pos => s.errRun run 0x304 3 fun r =>
      if chan = 0 then { r with inq := modAt errTok r.inq pos } else { r with comps := modAt (fun ts => modAt errTok ts pos) r.comps chan }
  | .acc run plane page tile n word =>
    match s.run? run with
    | none => s
    | some r =>
      let s := s.modRun run fun r =>
        let a := (r.plane plane).acc page tile n
        r.setPlane plane ((r.plane plane).setAcc { a with bad := insertNew word a.bad })
      s.logEvent r.die 0x305 (some 4) (some (s.identity run)) (some (page + 64 * (tile / 16) + 256 * (tile % 16) + 4096 * 14)) none none
  | .cfgStore run plane => s.cfgError run plane
  | .boom point id =>
    match s.rec? id with
    | none => s
    | some b =>
      if b.point ≠ point then s
      else
        let s := s.modRec id fun x => { x with lost := true }
        s.logEvent (if point < 512 then point / 32 % 8 else 0) 0x307 (some 6) none none none none
  | .tlb die port entry =>
    let mine := s.ord.tlb.filter fun e => e.die == die && e.port == (if port < 64 then some port else none)
    match mine[entry]? with
    | none => s
    | some e => ({ s with ord := { s.ord with tlb := s.ord.tlb.erase e } }).logEvent die 0x308 (some 7) none none none (some e.base)
  | .commitLine b =>
    match s.run? b.run, s.blk? b with
    | some r, some x =>
      if (s.wave? b x.committed).isNone then s
      else (s.dropWaves b x.committed).logEvent r.die 0x309 (some 8) (some (s.identity b.run)) none none none
    | _, _ => s
  | .reuseSlot die slot =>
    let v := s.dslot die slot
    let s := if dsState v = 0 then s else s.setDslot die slot (putFld v 228 2 3)
    s.logEvent die 0x30A (some 9) none none none none
  | .recvEntry die k =>
    match kthOf Post.die die k s.eng.posts with
    | none => s
    | some p =>
      let s := { s with eng := { s.eng with posts := s.eng.posts.erase p } }
      let s := s.complete p.run (fld p.desc 100 97) (completionTok 3 0 0 0 (recvCookie p.desc) .data 0)
      s.logEvent die 0x30B (some 10) (some (s.identity p.run)) none none none
  | .unexpected die k =>
    match kthOf Msg.die die k s.eng.unexpected with
    | none => s
    | some m =>
      -- a sender that still waits for its pull has its status
      let s := ({ s with eng := { s.eng with unexpected := s.eng.unexpected.erase m } }).sendStatus m 3
      s.logEvent die 0x30B (some 10) none none (some m.src) none
  | .monitor die k =>
    match kthOf Monitor.die die k s.ord.monitors with
    | none => s
    | some m =>
      let w := BitVec.ofNat 32 (bytesNat (s.hbmRead m.phys 4))
      let run := match m.who with
        | .acc id => (s.acc? id).map fun a => s.identity a.run
        | _ => none
      (s.monitorDone m w (s.poisoned m.phys) 1).logEvent die 0x30C (some 11) run none none (some m.phys)

def execUncorrectableError (t : ErrTarget) (s : State) : Out := .next (s.uncorrectable t)

/-- CORRECTED_ERROR: counted in the log as CORR. -/
def execCorrectedError (die domain addr : Nat) (s : State) : Out := .next (s.logEvent die 0x300 (some domain) none none none (some addr))

end Sys2Proof.Machine
end

