-- ==== Sys2Proof/Machine/Security.lean ====
section
/-! DEFINITION. Alarms, keys and the SPDM responder (23 R374 to R379), and what the host may reach before READY (25 R391). -/

namespace Sys2Proof.Machine

/-! ## BOOTSTAT (25 R391) -/

def bootReady (b : W64) : Bool := b.getLsbD 36
def bootHalt (b : W64) : Bool := b.getLsbD 37

/-- BOOTSTAT from its fields. -/
def bootWord (halt ready : Bool) (step err dieok stkok : Nat) : W64 :=
  BitVec.ofNat 64 ((if halt then 2 ^ 37 else 0) + (if ready then 2 ^ 36 else 0) + step % 16 * 2 ^ 32 + err % 256 * 2 ^ 24
    + dieok % 256 * 2 ^ 16 + stkok % 65536)

def State.ready (s : State) : Bool := bootReady s.chip.bootstat

/-! ## Links: the bits that alarms and the host move (24 R384) -/

def linkState (w : W32) : Nat := fld w 3 0
def linkUp (w : W32) : Nat := fld w 23 20
def linkQuar (w : W32) : Bool := w.getLsbD 15
def linkLock (w : W32) : Bool := w.getLsbD 14

/-- LNKSTAT from its fields. -/
def linkWord (peer up circ : Nat) (quar lock : Bool) (reason st : Nat) : W32 :=
  BitVec.ofNat 32 (peer % 256 * 2 ^ 24 + up % 16 * 2 ^ 20 + circ % 16 * 2 ^ 16 + (if quar then 2 ^ 15 else 0)
    + (if lock then 2 ^ 14 else 0) + reason % 16 * 2 ^ 4 + st % 16)

def State.mapLinks (s : State) (f : Link → Link) : State := { s with chip := { s.chip with links := s.chip.links.map f } }
def State.modLink (s : State) (k : Nat) (f : Link → Link) : State := { s with chip := { s.chip with links := modAt f s.chip.links k } }
def State.link? (s : State) (k : Nat) : Option Link := s.chip.links[k]?

/-- Every link is locked (R378). -/
def State.lockLinks (s : State) : State := s.mapLinks fun l => { l with stat := l.stat ||| 0x4000 }

/-- The link starts its training at step 1, with every lane group. -/
def Link.retrain (l : Link) : Link :=
  { l with stat := linkWord (fld l.stat 31 24) 15 0 (linkQuar l.stat) false 0 1 }

/-! ## Alarms (R377 to R379) -/

def sensorCode : Sensor → Nat
  | .rail => 0 | .clock => 1 | .temperature => 2 | .mesh => 3

/-- Level 1: ALARM is logged, with the sensor in bits 7 to 0 and the level in bits 15 to 8 of AUX (log 38). -/
def State.logAlarm (s : State) (n level : Nat) : State := s.logEvent 0 0x317 none none none (some (n + 256 * level)) none

/-- Level 2: the grant key goes and the links are locked. -/
def State.eraseGrant (s : State) : State :=
  ({ s with chip := { s.chip with grantKey := none } }).lockLinks

/-- Level 3: every volatile key goes, every region freezes, the module is held. -/
def State.holdModule (s : State) : State :=
  let s := s.runs.foldl (fun s r => if r.st = .resident ∨ (r.st = .frozen ∧ r.hold = .handler) then s.freeze r.id .supervisor else s) s
  { s with chip := { s.chip with idKey := none, sessKey := none, held := true, spdm := { s.chip.spdm with session := 0 } } }

/-- An alarm between step 1 and READY stops bring-up (25 R394). -/
def State.alarmBoot (s : State) (level : Nat) : State :=
  let b := s.chip.bootstat
  if level ≥ 2 ∧ !bootReady b ∧ !bootHalt b ∧ fld b 35 32 ≠ 0 then
    { s with chip := { s.chip with bootstat := bootWord true false (fld b 35 32) 6 (fld b 23 16) (fld b 15 0) } }
  else s

/-- A sensor raises an alarm level. -/
def State.alarm (s : State) (n level : Nat) : State :=
  let s := s.logAlarm n level
  let s := { s with chip := { s.chip with alarm := ⟨if level ≥ 2 then max s.chip.alarm.level level else s.chip.alarm.level⟩ } }
  let s := if level ≥ 2 then s.eraseGrant else s
  let s := if level ≥ 3 then s.holdModule else s
  s.alarmBoot level

def execAlarmLevel1 (sensor : Sensor) (s : State) : Out := .next (s.alarm (sensorCode sensor) 1)
def execAlarmLevel2 (sensor : Sensor) (s : State) : Out := .next (s.alarm (sensorCode sensor) 2)
def execAlarmLevel3 (sensor : Sensor) (s : State) : Out := .next (s.alarm (sensorCode sensor) 3)

/-- ALMCLR after a level-2 alarm: a new grant key is drawn and the links retrain. Whether a sensor still stands at level 2 is the
environment's: a free value (log 38); then the write is ignored, as at any other time. -/
def State.almclr (s : State) : State :=
  if !s.ready || s.chip.alarm.level != 2 then s
  else
    let (w, s) := s.freeWord
    if w.getLsbD 0 then s
    else
      let key := Config.freeKey s.free
      ({ s with free := s.free + 1, chip := { s.chip with grantKey := some key, alarm := ⟨0⟩ } }).mapLinks Link.retrain

def execAlmclr (s : State) : Out := .next s.almclr

/-! ## SPDM (R376). Codes of requests and responses: PRESUMED (log 6) -/

/-- Answers a request: the response code, and a body that rests on keys, certificates or random numbers, a free value. -/
def State.spdmReply (s : State) (code : Byte) (body : List Byte) : State :=
  let r := (code, body ++ Config.freeReply s.free)
  { s with free := s.free + 1, chip := { s.chip with spdm := { s.chip.spdm with replies := r :: s.chip.spdm.replies } } }

/-- The ERROR response: an unexpected request. -/
def State.spdmError (s : State) : State :=
  { s with chip := { s.chip with spdm := { s.chip.spdm with replies := ((0x7F : Byte), [0x04]) :: s.chip.spdm.replies } } }

/-- A request is in place when the connection has come so far. -/
def State.spdmAt (s : State) (conn : Nat) (go : State → State) : State := if s.chip.spdm.conn < conn then s.spdmError else go s

def State.spdmSet (s : State) (f : Spdm → Spdm) : State := { s with chip := { s.chip with spdm := f s.chip.spdm } }

/-- The tenant table as it stands, entry 0 first: block 4 of the measurements is its SHA3-256. -/
def State.tenantHash (s : State) : List Byte := sha3 ((List.range 64).flatMap fun t => natBytes 16 (s.tenant t).toNat)

def execGetVersion (_r : SpdmReq) (s : State) : Out := .next ((s.spdmSet fun x => { x with conn := 1, session := 0 }).spdmReply 0x04 [])
def execGetCapabilities (_r : SpdmReq) (s : State) : Out :=
  .next (s.spdmAt 1 fun s => (s.spdmSet fun x => { x with conn := max x.conn 2 }).spdmReply 0x61 [])
def execNegotiateAlgorithms (_r : SpdmReq) (s : State) : Out :=
  .next (s.spdmAt 2 fun s => (s.spdmSet fun x => { x with conn := 3 }).spdmReply 0x63 [])

/-- Requests that the identity key answers. -/
def State.spdmSigned (s : State) (code : Byte) (body : State → List Byte) (then_ : State → State) : State :=
  s.spdmAt 3 fun s => if s.chip.idKey.isNone then s.spdmError else (then_ s).spdmReply code (body s)

def execGetDigests (_r : SpdmReq) (s : State) : Out := .next (s.spdmSigned 0x01 (fun _ => []) id)
def execGetCertificate (_r : SpdmReq) (s : State) : Out := .next (s.spdmSigned 0x02 (fun _ => []) id)
def execChallenge (_r : SpdmReq) (s : State) : Out := .next (s.spdmSigned 0x03 (fun _ => []) id)

/-- Measurement block 4, alone or among all, is the hash of the tenant table. -/
def execGetMeasurements (r : SpdmReq) (s : State) : Out :=
  .next (s.spdmSigned 0x60 (fun s => if r.param2 = 4 ∨ r.param2 = 0xFF then s.tenantHash else []) id)
def execKeyExchange (_r : SpdmReq) (s : State) : Out :=
  .next (s.spdmSigned 0x64 (fun _ => []) fun s => s.spdmSet fun x => { x with session := 1 })

/-- FINISH opens the session that a KEY_EXCHANGE began; its key is new. -/
def State.spdmFinish (s : State) : State :=
  if s.chip.spdm.session ≠ 1 then s.spdmError
  else
    let key := Config.freeKey s.free
    (({ s with free := s.free + 1, chip := { s.chip with sessKey := some key } }).spdmSet fun x => { x with session := 2 }).spdmReply 0x65 []

def execFinish (_r : SpdmReq) (s : State) : Out := .next s.spdmFinish

/-- END_SESSION erases the session key (R374). -/
def State.spdmEnd (s : State) : State :=
  if s.chip.spdm.session ≠ 2 then s.spdmError
  else (({ s with chip := { s.chip with sessKey := none } }).spdmSet fun x => { x with session := 0 }).spdmReply 0x6C []

def execEndSession (_r : SpdmReq) (s : State) : Out := .next s.spdmEnd

end Sys2Proof.Machine
end

