-- ==== Sys2Proof/Machine/Links.lean ====
section
/-! DEFINITION. Chigan links: training, circuits, and the flits of the packet plane as they arrive (24 R384 to R388, 21 R355,
R356). -/

namespace Sys2Proof.Machine

/-! ## Training (R384, R385) -/

/-- The lowest set bit of four. -/
def lowestBit (x : Nat) : Nat := if x % 2 = 1 then 1 else if x / 2 % 2 = 1 then 2 else if x / 4 % 2 = 1 then 4 else if x / 8 % 2 = 1 then 8 else 0

/-- Circuit groups by the agreement of R385: proposed by both ends and trained, but for one that the packet plane needs. -/
def circuitGroups (mine theirs up : Nat) : Nat :=
  let c := Nat.land (Nat.land mine theirs) up
  if c = up then c - lowestBit up else c

/-- What a training comes to. -/
def Link.train (l : Link) (p : LinkPeer) : Link :=
  let cand := if 1 ≤ linkState l.stat ∧ linkState l.stat ≤ 4 then linkUp l.stat else 15
  let up := Nat.land p.lanes.toNat cand
  let quar := linkQuar l.stat
  let lock := linkLock l.stat
  if !p.present ∨ up = 0 then { l with stat := linkWord 0 0 0 quar lock 1 0 }
  else if !p.sameDomain then { l with stat := linkWord p.modnum.toNat 0 0 quar lock 2 0 }
  else { l with stat := linkWord p.modnum.toNat up (circuitGroups l.circ.toNat p.circ.toNat up) quar lock 0 5, credits := 64 }

/-- LINK_TRAIN: the partner of a link that comes up belongs to the domain. -/
def State.linkTrain (s : State) (k : Nat) (p : LinkPeer) : State :=
  match s.link? k with
  | none => s
  | some l =>
    let l' := l.train p
    let s := s.modLink k fun _ => l'
    if linkState l'.stat = 5 ∧ p.modnum ≠ s.chip.modnum then
      { s with chip := { s.chip with peers := insertNew p.modnum.toNat s.chip.peers } }
    else s

def execLinkTrain (link : Nat) (peer : LinkPeer) (s : State) : Out := .next (s.linkTrain link peer)

/-- TRAINING_STEP_TIMEOUT drops the failing lane group; without a group the link is DOWN. -/
def State.trainTimeout (s : State) (k g : Nat) : State :=
  s.modLink k fun l =>
    if linkState l.stat < 1 ∨ 4 < linkState l.stat ∨ 4 ≤ g then l
    else
      let up := if linkUp l.stat / 2 ^ g % 2 = 1 then linkUp l.stat - 2 ^ g else linkUp l.stat
      if up = 0 then { l with stat := linkWord 0 0 0 (linkQuar l.stat) (linkLock l.stat) 1 0 }
      else { l with stat := linkWord (fld l.stat 31 24) up 0 (linkQuar l.stat) (linkLock l.stat) 0 (linkState l.stat) }

def execTrainingStepTimeout (link group : Nat) (s : State) : Out := .next (s.trainTimeout link group)

/-- CIRCUIT_CRC_FAIL: the word is replayed from the last acknowledged one, so no token is lost and none changes. -/
def execCircuitCrcFail (_link _group : Nat) (s : State) : Out := .next s

/-- A word comes in over a circuit group: a token, to the stream buffer of the port that the group is bound to, where up to 64 credits let it
stand; or a credit for the tokens that go out (R386). -/
def State.circuitWord (s : State) (k g : Nat) (w : Option Token) : State :=
  match s.chip.circuits.find? fun c => c.link == k && c.group == g && c.out == w.isNone with
  | none => s
  | some c =>
    if !s.circuitUp c then s
    else match w with
      | none =>
        let back (x : Circuit) : Circuit := if x = c then { x with credits := min 64 (x.credits + 1) } else x
        { s with chip := { s.chip with circuits := s.chip.circuits.map back } }
      | some t => match s.runs.find? fun r => r.slot == c.slot && r.image == c.image && (r.st == .resident || r.st == .frozen) with
        | none => s
        | some r =>
          if 64 ≤ ((r.skidOf c.port).map fun i => i.toks.length).foldl (· + ·) 0 then s
          else s.modRun r.id fun r => r.setSkid c.port (r.skidOf c.port ++ [.plain t])

/-- LINKDN: a group that does not recover within 2^20 cycles is logged. -/
def execLinkdn (link group : Nat) (s : State) : Out := .next (s.logEvent 0 0x318 none none none (some (link + 256 * group)) none)

/-- FLIT_CRC_FAIL: the flit is resent from the replay buffer, in order; what the machine holds does not change. -/
def execFlitCrcFail (_link : Nat) (s : State) : Out := .next s

/-! ## The target's checks (21 R355, R356) -/

/-- Rights that a request needs: bit 63 atomics, 62 writes, 61 reads of the token. -/
inductive FlitKind where
  | read | write | atomic
  deriving DecidableEq, Repr

def FlitKind.bit : FlitKind → Nat
  | .read => 61 | .write => 62 | .atomic => 63

/-- Extent of a token in bytes. -/
def grantExtent (t : W64) : Nat :=
  let c := fld t 60 56
  if c < 28 then 2 ^ (12 + c) else 2 ^ (41 + 2 * (c - 28))

/-- 0, or the reason of DENIED. -/
def State.grantCheck (s : State) (f : Flit) (k : FlitKind) (bytes : Nat) : Nat :=
  match s.chip.grantKey with
  | none => 1
  | some key =>
    let t := f.grant
    if grantMac key t f.src.toNat s.chip.modnum.toNat ≠ fld t 27 0 then 1
    else
      let left := (fld t 35 28 + 256 - s.grantEpoch) % 256
      if left < 1 ∨ 128 < left then 2
      else if !t.getLsbD k.bit then 3
      else
        let e := grantExtent t
        let base := fld t 55 36 * e
        if f.addr.toNat < base ∨ base + e < f.addr.toNat + max bytes 1 then 4 else 0

/-- Counts a MAC failure of a source: the eighth within 2^20 cycles quarantines the link and raises alarm level 1. -/
def State.macFailure (s : State) (k : Nat) (src : Nat) : State :=
  let s := s.modLink k fun l => { l with macs := (l.macs.filter fun m => decide (s.cycle < m.2 + 2 ^ 20)) ++ [(src, s.cycle)] }
  let n : Nat := ((s.link? k).map fun l => (l.macs.filter fun m => m.1 == src).length).getD 0
  if 8 ≤ n then ((s.modLink k fun l => { l with stat := l.stat ||| 0x8000 }).logEvent 0 0x316 none none none none none).alarm 4 1 else s

/-- A flit reaches this module over an UP link. One for another module passes on and changes nothing here (log 9). -/
def State.receives (s : State) (k : Nat) (f : Flit) : Bool :=
  (match s.link? k with
    | some l => linkState l.stat == 5
    | none => false) && f.dst == s.chip.modnum

/-- A request: DENIED by a quarantined or locked link, by the grant check, or served. -/
def State.serve (s : State) (k : Nat) (f : Flit) (reply : Byte) (kind : FlitKind) (bytes : Nat) (go : State → State) : State :=
  if !s.receives k f then s
  else
    let shut := match s.link? k with
      | some l => linkQuar l.stat || linkLock l.stat
      | none => true
    if shut then s.replyFlit reply f 2 5 0 0
    else
      match s.grantCheck f kind bytes with
      | 0 => go s
      | r =>
        let s := if r = 1 ∧ s.chip.grantKey.isSome then s.macFailure k f.src.toNat else s
        s.replyFlit reply f 2 r 0 0

/-! ## Requests from other modules -/

/-- Accesses of another module's run abort the waves that they meet; while a serialised wave holds one of the lines the flit is not taken,
and its event comes again. -/
def State.unlessHeld (s : State) (ls : List (Nat × Bool)) (go : State → State) : State :=
  match s.yieldTo ls with
  | some t => go t
  | none => s

/-- The home's part of a WAITA of another module (13 R276, R277; log 33). The payload holds the value it expects, whether it has polled
before, its address and the epoch that it recorded. -/
def State.waitaHome (s : State) (k : Nat) (f : Flit) : State :=
  let a := f.addr.toNat
  let d := homeDie a
  let va := fld f.payload 127 64
  let now := s.epoch d (bucketOf va)
  let w := BitVec.ofNat 32 (bytesNat (s.hbmRead a 4))
  let v : W32 := f.payload.setWidth 32
  if s.poisoned a then s.waitaReply f w true 0 now
  else if w ≠ v then s.waitaReply f w false 0 now
  else if f.payload.getLsbD 32 && now != fld f.payload 159 128 then s.waitaReply f w false 1 now
  else if s.monitorRoom d then s.addMonitor ⟨d, .flit k f, a, v⟩
  else s.waitaReply f w false 2 now

/-- RDREQ: LEN bytes at the address. AOP 0xB4 is an LDSYNC, which is not taken before the line is full; AOP 0xC4 is a WAITA (log 33). -/
def State.rdreq (s : State) (k : Nat) (f : Flit) : State :=
  s.serve k f 2 .read f.len.toNat fun s =>
    let a := f.addr.toNat
    let n := f.len.toNat
    s.unlessHeld [(a / 64, false)] fun s =>
      if f.aop = 0xC4 then (s.noteCode none a 4).waitaHome k f
      else if f.aop = 0xB4 ∧ !s.isFull a then s
      else (s.noteCode none a n).replyFlit 2 f (if s.poisoned a then 3 else 0) 0 n (lineOf (s.hbmRead a n))

def execRdreq (link : Nat) (f : Flit) (s : State) : Out := .next (s.rdreq link f)

/-- WRREQ: LEN bytes; a SETE has none (log 33). A write into a pinned extent and a partial write to a poisoned line are discarded
and logged. AOP 0xF0 marks an engine's write, with bit 0 one that sets its line full, with bit 1 one of poison. -/
def State.wrreq (s : State) (k : Nat) (f : Flit) : State :=
  s.serve k f 4 .write f.len.toNat fun s =>
    let a := f.addr.toNat
    let n := f.len.toNat
    s.unlessHeld [(a / 64, n != 0)] fun s =>
      let engine := fld f.aop 7 4 = 15
      let s := if n = 0 then (if engine then s else s.setEmpty a)
        else s.storeBy ⟨homeDie a, 256, a, none, []⟩ (.hbm a) (natBytes n f.payload.toNat)
      let s := if engine ∧ f.aop.getLsbD 1 then s.markPoison a else s
      let s := if engine ∧ f.aop.getLsbD 0 then s.setFull a else s
      s.replyFlit 4 f 0 0 0 0

def execWrreq (link : Nat) (f : Flit) (s : State) : Out := .next (s.wrreq link f)

/-- ATREQ: a fetch-and-add meets the combining point of its home die (R388, 08 R165); another atomic performs at once. AOP 0xC5 is a
WAKEA, answered with the number of entries that it completes (log 33). -/
def State.atreq (s : State) (k : Nat) (f : Flit) : State :=
  let op := f.aop.toNat
  let w := if op = 0xBB then 8 else 4
  s.serve k f 6 .atomic w fun s =>
    let a := f.addr.toNat
    let v := f.payload.setWidth 64
    let m := 2 ^ (8 * w)
    let inc : W64 := BitVec.ofNat 64 (v.toNat % m)
    let once (s : State) : State := s.unlessHeld [(a / 64, true)] fun s =>
      let s := s.noteCode none a w
      if s.poisoned a then s.replyFlit 6 f 3 0 w 0
      else
        let old := BitVec.ofNat 64 (bytesNat (s.hbmRead a w))
        let (new, _) := atomicNew op (fld f.payload 135 128) old inc (BitVec.ofNat 64 (f.payload.toNat / m % m))
        (s.storeBy ⟨homeDie a, 256, a, none, []⟩ (.hbm a) (natBytes w new.toNat)).replyFlit 6 f 0 0 w (old.setWidth 512)
    if op = 0xC5 then
      let (n, s) := s.wake a (fld f.payload 127 64)
      s.replyFlit 6 f 0 0 4 (BitVec.ofNat 512 n)
    else if op = 0xBA ∨ op = 0xBB then
      match s.meet (512 + homeDie a) 256 a op f.nreq.toNat (.hbm a) (.flit k f) inc k with
      | some t => t
      | none => once s
    else once s

def execAtreq (link : Nat) (f : Flit) (s : State) : Out := .next (s.atreq link f)

/-- GRNREQ: this module mints a token for the requester. -/
def State.grnreq (s : State) (k : Nat) (f : Flit) : State :=
  if !s.receives k f then s
  else match s.link? k with
    | none => s
    | some l =>
      if linkQuar l.stat || linkLock l.stat then s.replyFlit 10 f 2 5 0 0
      else
        let (t, st) := s.mint f.src.toNat (f.payload.setWidth 32) (f.payload.extractLsb' 32 32)
        s.replyFlit 10 f 0 0 12 (BitVec.ofNat 512 (t.toNat + st * 2 ^ 64))

def execGrnreq (link : Nat) (f : Flit) (s : State) : Out := .next (s.grnreq link f)

/-! ## Replies -/

/-- A reply of a tag that is out: the tag is free again. -/
def State.reply (s : State) (k : Nat) (f : Flit) (go : Tag → State → State) : State :=
  if !s.receives k f then s
  else match s.chip.tags.find? fun t => t.tag == f.tag.toNat && t.modn == f.src.toNat with
    | none => s
    | some t => go t { s with chip := { s.chip with tags := s.chip.tags.erase t } }

/-- The access of a reply; DENIED faults it with the reason. -/
def State.replyAcc (s : State) (t : Tag) (f : Flit) (go : Access → State → State) : State :=
  match t.what with
  | .acc id => match s.acc? id with
    | none => s
    | some a => if f.stat = 2 then s.faultAcc a .grantdeny 0 f.reason.toNat 0 else go a s
  | _ => s

/-- RDRSP: what a load, an atomic of a wave or a WAITA has read; of a WAITA the status too: 0 and 1 complete it, 2 says that the table is
full, and it polls from then on. -/
def State.rdrsp (s : State) (k : Nat) (f : Flit) : State :=
  s.reply k f fun t s => match t.what with
  | .fetch req va => s.fetchAnswer req va f
  | _ => s.replyAcc t f fun a s =>
    let bs := natBytes a.width f.payload.toNat
    let psn := f.stat = 3
    match a.kind with
    | .waita =>
      let w : W32 := f.payload.setWidth 32
      let st := fld f.payload 63 32
      if psn ∨ st ≠ 2 then s.waitaDone a w psn st
      else
        let s := if a.poll = 0 then s.modAcc a.id fun x => { x with epoch := fld f.payload 95 64 } else s
        s.waitaFull a (a.poll == 0)
    | .atomic _ => match a.wave, a.place with
      | some w, some p => s.waveAtomic a w (placeKey p) (placeOff p) bs psn
      | _, _ => s
    | _ =>
      let bs := match a.wave, a.place with
        | some w, some p => s.overlay a.blk w (placeKey p) (placeOff p) bs
        | _, _ => bs
      s.loadDone a bs psn

def execRdrsp (link : Nat) (f : Flit) (s : State) : Out := .next (s.rdrsp link f)

/-- The store without its first run of bytes, which has performed at the other module. -/
def Access.afterRun (a : Access) (off : Nat) : Access :=
  match byteRuns a.enable off a.width 0 with
  | [] => a
  | (i, n) :: _ => { a with enable := a.enable &&& ~~~(BitVec.ofNat 64 ((2 ^ n - 1) * 2 ^ i)) }

/-- WRACK: a write at another module has performed. A store of several runs of bytes goes on with the next; a SETE, or the last run, is done.
The done token of a wave's store left with its firing. A host write goes on to its next line. -/
def State.wrack (s : State) (k : Nat) (f : Flit) : State :=
  s.reply k f fun t s => match t.what with
    | .host id => s.hostAdvance id
    | .ewrite id => s.ewriteAnswer id f
    | _ => s.replyAcc t f fun a s =>
      let more := match a.place with
        | some (.remote m x g) =>
          let b := a.afterRun (x % 64)
          if a.kind == AccKind.sete || b.enable == 0 then none else some (b, m, x, g)
        | _ => none
      match more with
      | none => s.doneToken a
      | some (b, m, x, g) =>
        -- it is pending again, so that it can leave when a tag is free
        (s.modAcc a.id fun y => { y with enable := b.enable, stage := .pending }).sendRemote { b with stage := .pending } m x g

def execWrack (link : Nat) (f : Flit) (s : State) : Out := .next (s.wrack link f)

/-- ATRSP: the old value, for an access or for a combined request. -/
def State.atrsp (s : State) (k : Nat) (f : Flit) : State :=
  s.reply k f fun t s =>
    match t.what with
    | .boom id =>
      match s.rec? id with
      | none => s
      | some b =>
        if f.stat = 2 then
          let s := { s with ord := { s.ord with boom := s.ord.boom.filter fun x => x.id != id } }
          b.members.foldl (fun s m => match m.1 with
            | .acc i => match s.acc? i with
              | some a => s.faultAcc a .grantdeny 0 f.reason.toNat 0
              | none => s
            | _ => s) s
        else s.modRec id fun x => { x with reply := some (f.payload.setWidth 64), lost := x.lost || f.stat == 1, psn := f.stat == 3 }
    | _ => s.replyAcc t f fun a s =>
      let w : W64 := f.payload.setWidth 64
      if a.kind = .wakea then s.wakeaDone a (w.toNat % 2 ^ 32)
      else s.atomDone a (if a.width = 4 then (w.setWidth 32).setWidth 64 else w) (f.stat == 1) (f.stat == 3)

def execAtrsp (link : Nat) (f : Flit) (s : State) : Out := .next (s.atrsp link f)

/-- GRNRSP: the token and the status of a GRANT. -/
def State.grnrsp (s : State) (k : Nat) (f : Flit) : State :=
  s.reply k f fun t s => match t.grant with
    | none => s
    | some (e, rid, _) =>
      let denied := f.stat = 2
      let tok : W64 := if denied then 0 else f.payload.setWidth 64
      let st := if denied then 5 else fld f.payload 71 64
      s.onItem e rid fun i =>
        let (m, c) := match i.emits with
          | .tok _ x :: _ => (x.mark, x.chan)
          | _ => (.data, 0)
        let (e1, e2) := grantEmits m c tok st
        OutItem.twoParts e1 e2 i

def execGrnrsp (link : Nat) (f : Flit) (s : State) : Out := .next (s.grnrsp link f)

/-- CREDIT: NREQ credits of the link come back, 64 at most. -/
def State.creditFlit (s : State) (k : Nat) (f : Flit) : State :=
  if s.receives k f then s.modLink k fun l => { l with credits := min 64 (l.credits + f.nreq.toNat) } else s

def execCredit (link : Nat) (f : Flit) (s : State) : Out := .next (s.creditFlit link f)

end Sys2Proof.Machine
end

