-- ==== Sys2Proof/Machine/Host.lean ====
section
/-! DEFINITION. What the host does through the module's memory space (24 R380 to R383): contexts, tenants, translations, rings,
device memory (20 R341, 21 R353, 23 R370 to R372, 24 R381 to R385). -/

namespace Sys2Proof.Machine

/-! ## Registers with no behaviour of their own (00 R5) -/

/-- CTXEG: TAIL, BASE and LSZ are RW, HEAD is RO (24 R382). -/
def ctxegWrite (old w : BitVec 128) : BitVec 128 :=
  let m : BitVec 128 := 0xFFFFFFFF00000000FFFFFFFFFFFFF00F
  (old &&& ~~~m) ||| (w &&& m)

/-- REGISTER_WRITE: before READY only CTXEG of slot 0, ring 0 takes a write (25 R391). -/
def State.registerWrite (s : State) (r : HostReg) (w : BitVec 128) : State :=
  match r with
  | .ctxeg slot ring =>
    if (s.ready || (slot == 0 && ring == 0)) && decide (slot < 256) && decide (ring < 16) then
      s.setRing slot ring (ctxegWrite (s.ring slot ring) w)
    else s
  | .lnkcfg k => if s.ready then s.modLink k fun l => { l with circ := w.setWidth 4 } else s
  | .circuit k g out e =>
    if s.ready then
      let rest := s.chip.circuits.filter fun c => !(c.link == k && c.group == g && c.out == out)
      { s with chip := { s.chip with circuits := rest ++ (e.map fun q => (⟨k, g, out, q.1, q.2.1, q.2.2, 64⟩ : Circuit)).toList } }
    else s
  | .other _ => s

def execRegisterWrite (reg : HostReg) (w : BitVec 128) (s : State) : Out := .next (s.registerWrite reg w)

/-- What the host can read of the module's registers. -/
inductive HostRd where
  | bootstat | ctxeg (slot ring : Nat) | lnkcfg (link : Nat) | lnkstat (link : Nat) | tenant (n : Nat) | tenstat | tlbinv
  /-- Offsets 0x000, 0x008 and 0x010 of an ingress port. -/
  | portWord (die port : Nat) | portCredit (die port : Nat) | portStatus (die port : Nat)
  deriving DecidableEq, Repr

/-- An ingress port in its reset state: FREE. -/
def State.port (s : State) (die port : Nat) : HPort :=
  (s.adm.ports.find? fun p => p.die == die && p.port == port).getD ⟨die, port, [], none, 0, 0, 0⟩

/-- PSTATE (20 R340). -/
def HPort.pstate (p : HPort) : Nat := if p.run.isSome then 2 else if p.words.isEmpty then 0 else 1

/-- A read of a register by the host (00 R5): the fields' values; what is WO, and what is Reserved, reads as zero. Before READY every
register but BOOTSTAT and CTXEG of slot 0, ring 0 reads zero, and a port's CREDIT too (25 R391). -/
def State.hostRead (s : State) (r : HostRd) : BitVec 128 :=
  match r with
  | .bootstat => s.chip.bootstat.setWidth 128
  | .ctxeg slot ring => if s.ready || (slot == 0 && ring == 0) then s.ring slot ring else 0
  | r =>
    if !s.ready then 0
    else match r with
      | .lnkcfg k => ((s.link? k).map fun l => l.circ.setWidth 128).getD 0
      | .lnkstat k => ((s.link? k).map fun l => l.stat.setWidth 128).getD 0
      | .tenant n => s.tenant n
      | .tenstat => s.adm.tenstat.setWidth 128
      -- DONE; the request's fields are WO
      | .tlbinv => if s.adm.tlbDone then 1#128 <<< 127 else 0
      | .portCredit d p => BitVec.ofNat 128 (64 - (s.port d p).used)
      | .portStatus d p =>
        let x := s.port d p
        BitVec.ofNat 128 (x.lstat + x.pstate * 2 ^ 8 + x.ident % 2 ^ 24 * 2 ^ 16)
      | _ => 0

/-- LNKQCLR: ones lift the quarantine of their links and clear the counts of MAC failures (24 R385). -/
def State.lnkqclr (s : State) (w : W64) : State :=
  if !s.ready then s
  else
    let ls := s.chip.links.zipIdx.map fun q =>
      if w.getLsbD q.2 then { q.1 with stat := q.1.stat &&& 0xFFFF7FFF, macs := [] } else q.1
    { s with chip := { s.chip with links := ls } }

def execLnkqclr (w : W64) (s : State) : Out := .next (s.lnkqclr w)

/-! ## The tenant table (23 R370, R371) -/

def tenHbase (v : BitVec 128) : Nat := fld v 127 118
def tenHsize (v : BitVec 128) : Nat := fld v 117 108
def tenUq (v : BitVec 128) : Nat := fld v 107 95
def tenPr (v : BitVec 128) : Nat := fld v 94 84
def tenRs (v : BitVec 128) : Nat := fld v 83 74
def tenRsBase (v : BitVec 128) : Nat := fld v 73 65
def tenPg (v : BitVec 128) : Nat := fld v 64 59
def tenDies (v : BitVec 128) : Nat := fld v 58 51
def tenEn (v : BitVec 128) : Bool := v.getLsbD 0

/-- Two ranges share a place. -/
def rangesMeet (a n b m : Nat) : Bool := decide (a < b + m) && decide (b < a + n) && decide (0 < n) && decide (0 < m)

/-- TENSTAT of a write: 0 OK, 1 BUSY, 2 OVERLAP, 3 RANGE. -/
def State.tenantStatus (s : State) (t : Nat) (v : BitVec 128) : Nat :=
  let others := s.adm.tenants.filter fun x => x.n != t && tenEn x.val
  let sum (f : BitVec 128 → Nat) : Nat := (others.map fun x => f x.val).foldl (· + ·) (if tenEn v then f v else 0)
  if s.adm.ctxs.any fun c => ctxTenant c.desc == t then 1
  else if 4096 < tenUq v ∨ 1024 < tenPr v ∨ 512 < tenRs v ∨ 48 < tenPg v ∨ 512 < tenRsBase v + tenRs v
      ∨ Config.hbmBytes < (tenHbase v + tenHsize v) * 2 ^ 30 ∨ 1024 < sum tenPr ∨ 4096 < sum tenUq then 3
  else if others.any fun x =>
      rangesMeet (tenRsBase v) (tenRs v) (tenRsBase x.val) (tenRs x.val) || rangesMeet (tenHbase v) (tenHsize v) (tenHbase x.val) (tenHsize x.val)
    then 2
  else 0

/-- Bits of an entry that are not reserved. -/
def tenantMask : BitVec 128 := 0xFFFFFFFFFFFFFFFFFFF8000000000001

/-- TENANT_TABLE_WRITE: the write of an entry's high word makes it take effect. -/
def State.tenantWrite (s : State) (t : Nat) (w : BitVec 128) : State :=
  if !s.ready || decide (64 ≤ t) then s
  else
    let v := w &&& tenantMask
    let st := s.tenantStatus t v
    let tenants := if st = 0 then s.adm.tenants.filter (fun x => x.n != t) ++ [(⟨t, v⟩ : Tenant)] else s.adm.tenants
    { s with adm := { s.adm with tenants := tenants, tenstat := BitVec.ofNat 2 st } }

def execTenantTableWrite (tenant : Nat) (w : BitVec 128) (s : State) : Out := .next (s.tenantWrite tenant w)

/-! ## Contexts (19 R327, 20 R341, R342) -/

/-- CTXREG: the descriptor is read once, whole. A slot that is in use keeps its context, and a tenant with EN clear registers none. -/
def State.ctxreg (s : State) (slot : Nat) (w : W64) : State :=
  let a := fld w 56 6 * 64
  let d := lineOf (s.hbmRead a 64)
  if !s.ready || decide (256 ≤ slot) || (s.ctx? slot).isSome || s.poisoned a || !tenEn (s.tenant (ctxTenant d)) then s
  else { s with adm := { s.adm with ctxs := s.adm.ctxs ++ [(⟨slot, d⟩ : Ctx)] } }

def execCtxregWrite (slot : Nat) (w : W64) (s : State) : Out := .next (s.ctxreg slot w)

/-- Launches of a context are discarded; a port launch reports TORNDOWN. -/
def State.discardLaunches (s : State) (slot : Nat) : State :=
  let mine := s.adm.launches.filter fun l => l.slot == slot
  let s := mine.foldl (fun s l => match l.port with
    | none => s
    | some p => s.freePort p 4) s
  { s with adm := { s.adm with launches := s.adm.launches.filter fun l => l.slot != slot } }

/-- Frees what a tenant holds beyond its runs when its last context goes (12 R141, 19 R335). -/
def State.freeTenant (s : State) (t : Nat) : State :=
  if s.adm.ctxs.any fun c => ctxTenant c.desc == t then s
  else { s with eng := { s.eng with slots := s.eng.slots.filter fun x => dsState x.val == 0 || dsTenant x.val != t } }

/-- CTXTEAR: the teardown of a context, reported at a host address (log 39). -/
def State.ctxtear (s : State) (slot : Nat) (w : W64) : State :=
  match s.ctx? slot with
  | none => s
  | some d =>
    if !s.ready then s
    else
      let discarded := (s.adm.launches.filter fun l => l.slot == slot).length
      let runs := s.runs.filter fun r => r.slot == slot && r.st != .retired
      let s := s.discardLaunches slot
      let s := runs.foldl (fun s r => (s.freeze r.id .supervisor).retire r.id) s
      let cache := s.eng.cache.filter fun e => e.slot != slot
      let s := { s with
        adm := { s.adm with
          ctxs := s.adm.ctxs.filter fun c => c.slot != slot
          images := s.adm.images.filter fun i => i.slot != slot
          copied := s.adm.copied.filter fun c => c.1 != slot }
        eng := { s.eng with cache := cache } }
      let s := s.freeTenant (ctxTenant d)
      let rep := natBytes 4 runs.length ++ natBytes 4 discarded ++ natBytes 8 1
      let at_ := w.toNat / 64 * 64
      { s with
        mem := { s.mem with host := cellWrite s.mem.host at_ rep }
        adm := { s.adm with torn := s.adm.torn ++ [(slot, at_, discarded)] } }

def execCtxtearWrite (slot : Nat) (w : W64) (s : State) : Out := .next (s.ctxtear slot w)

/-! ## Invalidation of translations (21 R353, 24 R383) -/

/-- A TLB entry whose page meets a range of addresses. -/
def TlbEntry.meets (e : TlbEntry) (va n : Nat) : Bool := decide (e.base < va + n) && decide (va < e.base + 2 ^ e.size)

/-- The entries that a TLBINV request names. -/
def TlbReq.names (q : TlbReq) (e : TlbEntry) : Bool :=
  let va := fld q.lo 56 12 * 4096
  let slot := fld q.hi 7 0
  match fld q.hi 9 8 with
  | 0 => e.slot == slot && e.meets va 4096
  | 1 => e.slot == slot && e.meets va (4096 * 2 ^ fld q.hi 15 10)
  | 2 => e.slot == slot
  | _ => true

/-- Drops entries; the accesses that were translated through them and have not performed, in their queue ones without a
translation again. Walks that are under way begin anew. -/
def State.dropTlb (s : State) (names : TlbEntry → Bool) : State × List Nat :=
  let gone := s.ord.tlb.filter names
  let uses (a : Access) : Bool := a.place.isSome && (match s.run? a.run with
    | none => false
    | some r => gone.any fun e => e.die == r.die && e.slot == r.slot && decide (e.base ≤ a.va) && decide (a.va < e.base + 2 ^ e.size))
  let accs := s.ord.accs.map fun a => if a.stage = .queued ∧ uses a then { a with place := none } else { a with walked := none }
  let waits := (s.ord.accs.filter fun a => a.stage != .queued && uses a).map (·.id)
  ({ s with ord := { s.ord with tlb := s.ord.tlb.filter fun e => !names e, accs := accs } }, waits)

/-- Starts the oldest request. -/
def State.startTlb (s : State) : State :=
  match s.adm.tlbinv with
  | [] => { s with adm := { s.adm with tlbDone := true } }
  | q :: rest =>
    if q.started then s
    else
      let (s, waits) := s.dropTlb q.names
      { s with adm := { s.adm with tlbinv := { q with started := true, waits := waits } :: rest, tlbDone := false } }

/-- TLBINV: the write of the high word starts a request, or queues it behind an earlier one. -/
def State.tlbinvWrite (s : State) (lo hi : W64) : State :=
  if !s.ready then s
  else
    let s := { s with adm := { s.adm with tlbinv := s.adm.tlbinv ++ [(⟨lo, hi, false, []⟩ : TlbReq)] } }
    s.startTlb

def execTlbinvWrite (lo hi : W64) (s : State) : Out := .next (s.tlbinvWrite lo hi)

/-- No access of a list is still to perform. -/
def State.allPerformed (s : State) (ids : List Nat) : Bool := ids.all fun i => (s.acc? i).isNone

/-- TLBINV_DONE: every access translated through a dropped entry has performed. -/
def State.tlbinvDone (s : State) : State :=
  match s.adm.tlbinv with
  | [] => s
  | q :: rest =>
    if q.started && s.allPerformed q.waits then ({ s with adm := { s.adm with tlbinv := rest } }).startTlb else s

def execTlbinvDone (s : State) : Out := .next s.tlbinvDone

/-- An Invalidate Completion to the host. -/
def State.atsComplete (s : State) (pasid : Nat) : State := s.toHost 3 (natBytes 2 pasid)

/-- Sends the completions that are owed and whose accesses have performed. -/
def State.settleAts (s : State) : State :=
  let ready := s.adm.ats.filter fun q => s.allPerformed q.waits
  let s := { s with adm := { s.adm with ats := s.adm.ats.filter fun q => !s.allPerformed q.waits } }
  ready.foldl (fun s q => s.atsComplete q.pasid) s

/-- ATS_INVALIDATE: entries of TGT 2 leaves of the slot that is the request's PASID; the completion waits as for TLBINV. It leaves
with this step or with a later one of the host's (log 39). -/
def State.atsInvalidate (s : State) (pasid addr len : Nat) : State :=
  let (s, waits) := s.dropTlb fun e => pteTgt e.pte == 2 && e.slot == pasid
    && decide (pteFrame e.pte < addr + len) && decide (addr < pteFrame e.pte + 2 ^ e.size)
  ({ s with adm := { s.adm with ats := s.adm.ats ++ [(⟨pasid, waits⟩ : AtsReq)] } }).settleAts

def execAtsInvalidate (pasid addr len : Nat) (s : State) : Out := .next (s.atsInvalidate pasid addr len)

/-! ## Device memory through BAR 4 (24 R381) -/

/-- A host write is posted: it enters the host ingress queue. -/
def State.bar4Write (s : State) (slot addr : Nat) (bs : List Byte) : State :=
  let (id, s) := s.fresh
  { s with ord := { s.ord with hostq := s.ord.hostq ++ [(⟨id, true, slot, addr, bs, 0, false⟩ : HostItem)] } }

def execHostBar4Write (slot addr : Nat) (bytes : List Byte) (s : State) : Out := .next (s.bar4Write slot addr bytes)

/-- A host read performs at its perform point, like a load: waves that have written its lines abort, and while a serialised wave holds one of
them it is not taken. Where the context gives no translation, or leads to another module (log 33), the bytes are free values. -/
def State.bar4Read (s : State) (slot addr len : Nat) : State :=
  match s.engineReads slot addr len with
  | none => s
  | some s =>
    let s := s.noteRead none slot addr len
    match s.vread slot addr len with
    | .ok (bs, _) => s.toHost 4 bs
    | .error _ => { (s.toHost 4 ((List.range len).map s.freeByteAt)) with free := s.free + len }

def execHostBar4Read (slot addr len : Nat) (s : State) : Out := .next (s.bar4Read slot addr len)

end Sys2Proof.Machine
end

