-- ==== Sys2Proof/Machine/Launch.lean ====
section
/-! DEFINITION. The dispatcher: launches from ingress ports and from LAUNCH words, validation of images, tokens from the host
(09 R183, R185, 10 R194, 20 R338 to R343, 23 R372). -/

namespace Sys2Proof.Machine

/-! ## Identifiers and dies (03 R29, 20 R343) -/

/-- The lowest identifier that no run and no launch has (log 40). -/
def State.freeRunId (s : State) : Option Nat :=
  (List.range 4096).find? fun k => (s.run? k).isNone && s.adm.launches.all fun l => l.run != k

/-- Physical pages of a die that regions hold. -/
def State.usedPages (s : State) (die : Nat) : List Nat :=
  ((s.runs.filter fun r => r.die == die && (r.st == .resident || r.st == .frozen)).flatMap (·.region.pages)).eraseDups

/-- The tenant of a slot may use a die, and the die is in service (23 R372, 25 R391). -/
def State.dieAllowed (s : State) (slot d : Nat) : Bool :=
  s.chip.bootstat.getLsbD (16 + d) && (tenDies (s.tenant (s.tenantOf slot))).testBit d && decide (d < 8)

/-- The allowed die with the most free pages, the lowest on a tie. -/
def State.pickDie (s : State) (slot : Nat) : Option Nat :=
  ((List.range 8).filter (s.dieAllowed slot)).foldl (fun a d => match a with
    | none => some d
    | some b => if (s.usedPages d).length < (s.usedPages b).length then some d else some b) none

/-! ## LAUNCH (10 R194) -/

/-- Asks the dispatcher for a run; without an identifier the answer is NOIDS. -/
def State.askLaunch (s : State) (r : Run) (image : Nat) (args : List W64) : State :=
  let (id, s) := s.fresh
  let s := s.sendReq r.id id
  match s.freeRunId with
  | none => { s with adm := { s.adm with lreplies := s.adm.lreplies ++ [(id, 1, 0)] } }
  | some k =>
    let l : Launch := ⟨k, r.slot, image, (s.pickDie r.slot).getD r.die, none, some id, args, r.regs.prio.toNat, r.ring⟩
    { s with adm := { s.adm with launches := s.adm.launches ++ [l] } }

def State.launchWord (s : State) (r : Run) (gb gc : BitVec 6) : State :=
  match r.esc.wait with
  | .sent _ => s
  | _ => s.askLaunch r (r.getG gb).toNat ((List.range 8).map fun k => r.getG (BitVec.ofNat 6 (gc.toNat + k)))

def execLaunch (_ga gb gc : BitVec 6) (s : State) : Out := onWord s fun r => s.launchWord r gb gc

/-- LAUNCH_REPLY: the status and, on OK, the identity go to G[GA]. -/
def State.launchReply (s : State) (run : Nat) : State :=
  match s.run? run with
  | none => s
  | some r =>
    match r.esc.wait, s.wordAt r with
    | .sent id, some (.launch ga _ _) =>
      if !r.issues then s
      else match s.adm.lreplies.find? fun q => q.1 == id with
        | none => s
        | some q =>
          let s := { s with adm := { s.adm with lreplies := s.adm.lreplies.erase q } }
          s.doneWord run fun r => r.setG ga (BitVec.ofNat 64 (q.2.1 + q.2.2 * 2 ^ 16))
    | _, _ => s

def execLaunchReply (run : Nat) (s : State) : Out := .next (s.launchReply run)

/-! ## Ingress ports (20 R340) -/

def State.setPort (s : State) (p : HPort) : State :=
  { s with adm := { s.adm with ports := s.adm.ports.filter (fun q => !(q.die == p.die && q.port == p.port)) ++ [p] } }

/-- The port is FREE again with a status. -/
def State.portFree (s : State) (p : HPort) (lstat : Nat) : State :=
  s.setPort { p with words := [], run := none, ident := 0, lstat := lstat, used := 0 }

/-- A launch into a slot that is not registered: NOCTX; one that meets the teardown of its context in the same cycle is discarded, counted in
the report, and reports TORNDOWN (20 R342). -/
def State.noContext (s : State) (p : HPort) (slot : Nat) : State :=
  match s.adm.torn.find? fun t => t.1 == slot && (s.ctx? slot).isNone with
  | none => s.portFree p 3
  | some t =>
    let up (x : Nat × Nat × Nat) : Nat × Nat × Nat := if x = t then (x.1, x.2.1, x.2.2 + 1) else x
    let s := { s with mem := { s.mem with host := cellWrite s.mem.host (t.2.1 + 4) (natBytes 4 (t.2.2 + 1)) } }
    ({ s with adm := { s.adm with torn := s.adm.torn.map up } }).portFree p 4

/-- The ten launch words are complete. -/
def State.portLaunch (s : State) (p : HPort) (ws : List W64) : State :=
  let w0 := ws.getD 0 0
  let w1 := ws.getD 1 0
  let slot := fld w1 7 0
  let known := (s.ctx? slot).isSome && tenEn (s.tenant (s.tenantOf slot))
  let die := if w1.getLsbD 11 then (if s.dieAllowed slot (fld w1 14 12) then some (fld w1 14 12) else none) else s.pickDie slot
  if fld w0 63 57 ≠ 0 ∨ fld w1 63 15 ≠ 0 then s.portFree p 5
  else match known, die with
    | true, some d => match s.freeRunId with
      | none => s.portFree p 1
      | some k =>
        let l : Launch := ⟨k, slot, fld w0 56 0, d, some (p.die, p.port), none, ws.drop 2, fld w1 10 8, p.port % 16⟩
        let s := { s with adm := { s.adm with launches := s.adm.launches ++ [l] } }
        s.setPort { p with words := [], run := some k, ident := s.identity k, lstat := 0, used := 0 }
    | _, _ => s.noContext p slot

/-- INGRESS_LAUNCH_WORD: a word to a port that is not BOUND. -/
def State.launchIn (s : State) (die port : Nat) (w : W64) : State :=
  let p := s.port die port
  if !s.ready || decide (8 ≤ die) || decide (256 ≤ port) || p.run.isSome then s
  else
    let ws := p.words ++ [w]
    if ws.length < 10 then s.setPort { p with words := ws } else s.portLaunch p ws

def execIngressLaunchWord (die port : Nat) (w : W64) (s : State) : Out := .next (s.launchIn die port w)

/-- INGRESS_TOKEN_WORD: a token to a BOUND port; it holds one of the 64 credits. -/
def State.tokenIn (s : State) (die port : Nat) (w : W64) : State :=
  let p := s.port die port
  if p.run.isNone ∨ 64 ≤ p.used then s
  else
    let (id, s) := s.fresh
    let s := s.setPort { p with used := p.used + 1 }
    { s with ord := { s.ord with hostq := s.ord.hostq ++ [(⟨id, false, die, port, [], BitVec.ofNat 64 (w.toNat % 2 ^ 46), false⟩ : HostItem)] } }

def execIngressTokenWord (die port : Nat) (w : W64) (s : State) : Out := .next (s.tokenIn die port w)

/-! ## Validation (09 R185, 20 R339) -/

/-- The data contents go to the data segment of the context, once. -/
def State.copyData (s : State) (i : Image) : Except LoadFault State :=
  let bad : Except LoadFault State := .error (fault3 .badhdr 0 0)
  if s.adm.copied.contains (i.slot, i.addr) then .ok s
  else match s.vread i.slot (i.addr + i.doff) i.dlen with
    | .error _ => bad
    | .ok (bs, _) => match s.vwrite i.slot i.dva bs with
      | .error _ => bad
      | .ok t => .ok { t with adm := { t.adm with copied := t.adm.copied ++ [(i.slot, i.addr)] } }

/-- Makes room for an image: of 256 the oldest that no run and no launch uses goes. -/
def State.imageRoom (s : State) : State :=
  if s.adm.images.length < 256 then s
  else
    let used (i : Image) : Bool := (s.runs.any fun r => r.slot == i.slot && r.image == i.addr)
      || s.adm.launches.any fun l => l.slot == i.slot && l.image == i.addr
    match s.adm.images.find? fun i => !used i with
    | none => s
    | some i => { s with adm := { s.adm with images := s.adm.images.erase i } }

/-- The image of a launch: the validated copy, or the outcome of its validation; its data segment in place; its region within the
tenant's pages. -/
def State.imageFor (s : State) (slot va : Nat) : Except LoadFault State :=
  let found : Except LoadFault (Image × State) := match s.adm.images.find? fun i => i.slot == slot && i.addr == va with
    | some i => .ok (i, s)
    | none => match s.validate slot va with
      | .error f => .error f
      | .ok i =>
        let s := s.imageRoom
        .ok (i, { s with adm := { s.adm with images := s.adm.images ++ [i] } })
  match found with
  | .error f => .error f
  | .ok (i, t) =>
    if tenPg (s.tenant (s.tenantOf slot)) < (i.pgh + 1) * (i.pgw + 1) then .error (fault3 .badhdr 0 0)
    else t.copyData i

/-- A launch whose image is in place: its run is PENDING. -/
def State.launched (s : State) (l : Launch) : State :=
  let r := { Run.init l.run l.slot l.image l.die l.prio l.args with ingress := l.port, ring := l.ring, queuedAt := s.cycle }
  let lreplies := match l.by_ with
    | some q => s.adm.lreplies ++ [(q, 0, s.identity l.run)]
    | none => s.adm.lreplies
  { s with runs := s.runs ++ [r], adm := { s.adm with lreplies := lreplies } }

/-- A launch whose image fails: the record of KIND 0, LOADFLT to whoever asked. -/
def State.launchFailed (s : State) (f : LoadFault) (l : Launch) : State :=
  let info := { FaultInfo.base f.code.code 0 with blk := f.block, idx := f.index }
  let s := s.reportRing l.die (s.identity l.run) (if f.block = 256 then some f.index else none) none none info
  let s := match l.port with
    | none => s
    | some p => s.freePort p 2
  match l.by_ with
  | some q => { s with adm := { s.adm with lreplies := s.adm.lreplies ++ [(q, 2, 0)] } }
  | none => s

/-- IMAGE_VALIDATION_COMPLETE for the image of launch `k`: every launch that waits for it has the same outcome. -/
def State.validated (s : State) (k : Nat) : State :=
  match s.adm.launches[k]? with
  | none => s
  | some l =>
    let mine (x : Launch) : Bool := x.slot == l.slot && x.image == l.image
    let ls := s.adm.launches.filter mine
    let free (s : State) : State := { s with adm := { s.adm with launches := s.adm.launches.filter fun x => !mine x } }
    match s.imageFor l.slot l.image with
    | .error f => ls.foldl (fun s l => s.launchFailed f l) (free s)
    | .ok s => ls.foldl State.launched (free s)

def execImageValidationComplete (k : Nat) (s : State) : Out := .next (s.validated k)

end Sys2Proof.Machine
end

