-- ==== Sys2Proof/Machine/Arbor.lean ====
section
/-! DEFINITION. The Arbor of a die: queues, placement, compaction, displacement, backfill (20 R344 to R347, 19 R332, 23 R372). -/

namespace Sys2Proof.Machine

/-! ## Queues (R344) -/

/-- The run waits for pages: PENDING, or read out with a restore ordered. -/
def Run.waits (r : Run) (die : Nat) : Bool :=
  r.die == die && r.region.pages.isEmpty
    && (r.st == .pending || (r.st == .frozen && r.hold == .readout && (r.order? 3).isSome))

/-- Effective priority: an ageing step raises it by one, to at most 7. -/
def Run.effPrio (r : Run) : Nat := min 7 (r.regs.prio.toNat + r.aged)

/-- One run stands before another in the queues: priority, then the longer wait, then the lower identifier. -/
def Run.before (a b : Run) : Bool :=
  decide (b.effPrio < a.effPrio)
    || (a.effPrio == b.effPrio && (decide (a.queuedAt < b.queuedAt) || (a.queuedAt == b.queuedAt && decide (a.id < b.id))))

/-- Puts a run where it belongs among ordered ones. -/
def insertRun (before : Run → Run → Bool) (r : Run) : List Run → List Run
  | [] => [r]
  | x :: xs => if before r x then r :: x :: xs else x :: insertRun before r xs

def orderRuns (before : Run → Run → Bool) (l : List Run) : List Run := l.foldr (insertRun before) []

/-- Ageing steps that a waiting run has reached. -/
def Run.ageing (r : Run) (cycle : Nat) : Run := if r.waits r.die then { r with aged := (cycle - r.queuedAt) / 2 ^ 21 } else r

/-- AGEING_STEP: another 2^21 cycles of waiting. -/
def execAgeingStep (run : Nat) (s : State) : Out := .next (s.modRun run fun r => r.ageing s.cycle)

/-- A quantum of residence is done. -/
def Run.quantumDone (r : Run) (cycle : Nat) : Run :=
  if r.st = .resident ∧ r.residentAt + 2 ^ 23 ≤ cycle then { r with quantum := true } else r

/-- QUANTUM_EXPIRY: the run has been resident for 2^23 cycles. -/
def execQuantumExpiry (run : Nat) (s : State) : Out := .next (s.modRun run fun r => r.quantumDone s.cycle)

/-! ## Pages and ports -/

/-- Pages of the 6 × 8 grid of a rectangle with a given top-left page (02 R12, 20 R338). -/
def rectPages (p h w : Nat) : List Nat := (List.range h).flatMap fun i => (List.range w).map fun j => p + 8 * i + j

/-- The lowest top-left page of a rectangle of free pages. -/
def fitRect (free : List Nat) (h w : Nat) : Option Nat :=
  (List.range 48).find? fun p => decide (p % 8 + w ≤ 8) && decide (p / 8 + h ≤ 6) && (rectPages p h w).all free.contains

def State.freePages (s : State) (die : Nat) : List Nat := (List.range 48).filter fun p => !(s.usedPages die).contains p

def State.freePorts (s : State) (die : Nat) : List Nat :=
  let used := (s.runs.filter fun r => r.die == die && (r.st == .resident || r.st == .frozen)).flatMap (·.region.ports)
  (List.range 64).filter fun k => !used.contains k

/-- Distance of a port tile from the columns of a rectangle, in steps of two tile columns (02 R13). -/
def portDist (p w k : Nat) : Nat :=
  let lo := 4 * (p % 8)
  let hi := lo + 4 * w - 1
  let c := k % 32
  if c < lo then lo - c else c - hi

/-- The nearest free port tiles, the lower number on a tie (log 9). -/
def nearPorts (free : List Nat) (p w n : Nat) : List Nat :=
  (((List.range 33).flatMap fun d => free.filter fun k => portDist p w k == d)).take n

/-- Height, width and port tiles that a run needs. -/
def State.needs (s : State) (r : Run) : Nat × Nat × Nat :=
  ((s.image? r).map fun i => (i.pgh + 1, i.pgw + 1, i.nport)).getD (1, 1, 0)

/-- Pages that a tenant has on a die, some runs apart. -/
def State.tenantPages (s : State) (tenant die : Nat) (apart : List Nat) : Nat :=
  ((s.runs.filter fun x => x.die == die && (x.st == .resident || x.st == .frozen) && s.tenantOf x.slot == tenant && !apart.contains x.id).map
    fun x => x.region.pages.length).foldl (· + ·) 0

/-- The tenant's pages stay within PGMAX when the run is placed and some others are gone. -/
def State.withinPg (s : State) (r : Run) (apart : List Nat) : Bool :=
  let t := s.tenantOf r.slot
  let (h, w, _) := s.needs r
  decide (s.tenantPages t r.die apart + h * w ≤ tenPg (s.tenant t))

/-- Where a run fits when some resident runs are gone. -/
def State.fits (s : State) (r : Run) (gone : List Run) : Option Nat :=
  let (h, w, n) := s.needs r
  if !s.withinPg r (gone.map (·.id)) || decide ((s.freePorts r.die).length + (gone.flatMap (·.region.ports)).length < n) then none
  else fitRect (s.freePages r.die ++ gone.flatMap (·.region.pages)) h w

/-! ## Placing (R345 step 1, R347) -/

/-- Binds pages, port tiles and cache tiles to a run (log 9). -/
def State.bindRegion (s : State) (r : Run) (p : Nat) : State :=
  let (h, w, n) := s.needs r
  let ports := nearPorts (s.freePorts r.die) p w n
  s.modRun r.id fun r =>
    let gens := if r.region.gens.length = n then r.region.gens else List.replicate n (List.replicate 4 ⟨none, []⟩)
    { r with
      region := ⟨h, w, rectPages p h w, ports, List.range 8, gens⟩
      residentAt := s.cycle, quantum := false, moved := false, backfill := none, aged := 0 }

/-- A run gets its region: a PENDING one is RESIDENT, one that was read out waits for its state (19 R336). -/
def State.place (s : State) (r : Run) (p : Nat) : State :=
  let s := s.bindRegion r p
  if r.st = .pending then (s.modRun r.id fun r => { r with st := .resident }).firstResident r.id else s

/-! ## Sets of regions that must go -/

/-- The first set of `n` of some runs that passes a test, in their order. -/
def firstSet (ok : List Run → Bool) : Nat → List Run → List Run → Option (List Run)
  | 0, _, acc => if ok acc.reverse then some acc.reverse else none
  | _ + 1, [], _ => none
  | n + 1, x :: xs, acc => match firstSet ok n xs (x :: acc) with
    | some l => some l
    | none => firstSet ok (n + 1) xs acc

/-- The smallest set that passes a test. -/
def fewest (ok : List Run → Bool) (cands : List Run) : Option (List Run) :=
  (List.range cands.length).findSome? fun n => firstSet ok (n + 1) cands []

/-- A region of its own, with no other in the inactive planes of its pages. -/
def State.movable (s : State) (r : Run) : Bool := r.st == .resident && (s.runs.all fun x =>
  x.id == r.id || x.die != r.die || !(x.region.pages.any r.region.pages.contains))

/-- Regions that leave a free set, one after the other, each onto the lowest rectangle that is free. -/
def packAll (need : Run → Nat × Nat) : List Nat → List Run → Bool
  | _, [] => true
  | free, r :: rs => match fitRect free (need r).1 (need r).2 with
    | none => false
    | some p => packAll need (free.filter fun k => !(rectPages p (need r).1 (need r).2).contains k) rs

/-- Step 2: the regions to move; none when the free pages or port tiles are too few. -/
def State.compactSet (s : State) (r : Run) : Option (List Run) :=
  let (h, w, n) := s.needs r
  if (s.freePages r.die).length < h * w ∨ (s.freePorts r.die).length < n ∨ !s.withinPg r [] then none
  else
    let cands := orderRuns (fun a b => decide (a.id < b.id)) (s.runs.filter fun x => x.die == r.die && s.movable x)
    let need (x : Run) : Nat × Nat := ((s.needs x).1, (s.needs x).2.1)
    fewest (fun l => packAll need (s.freePages r.die ++ l.flatMap (·.region.pages)) (r :: l)) cands

/-- Step 3: the runs to displace. -/
def State.displaceSet (s : State) (r : Run) : Option (List Run) :=
  let e := r.effPrio
  let q (x : Run) : Bool := x.die == r.die && s.movable x
    && ((decide (x.regs.prio.toNat < e) && (x.quantum || x.backfill == some r.id)) || (e == 7 && x.regs.prio == 7 && x.quantum))
  let lower (a b : Run) : Bool := decide (a.regs.prio.toNat < b.regs.prio.toNat)
    || (a.regs.prio == b.regs.prio && (decide (a.residentAt < b.residentAt) || (a.residentAt == b.residentAt && decide (a.id < b.id))))
  fewest (fun l => (s.fits r l).isSome) (orderRuns lower (s.runs.filter q))

/-- The Arbor freezes a region to read it out: its record goes to the context area, at a place that the spec leaves open (log 45). -/
def State.sendAway (s : State) (moved : Bool) (r : Run) : State :=
  let (w, s) := s.freeWord
  let area := ((s.ctx? r.slot).map ctxArea).getD 0
  (s.addOrder r.id 0 none).modRun r.id fun r =>
    { r with record := some (none, area + 4096 * (1 + w.toNat % 2 ^ 20)), moved := moved }

/-! ## Inactive planes (19 R332) -/

/-- A rectangle that one run with idle inactive planes covers. -/
def State.inactiveSpot (s : State) (r : Run) : Option Nat :=
  let (h, w, n) := s.needs r
  if (s.freePorts r.die).length < n ∨ !s.withinPg r [] then none
  else
    let hosts := s.runs.filter fun x => x.die == r.die && s.movable x && (x.plane (1 - x.act)).loads.isEmpty
      && (x.plane (1 - x.act)).loading.isNone
    hosts.findSome? fun x => fitRect x.region.pages h w

/-- The run is placed there: FROZEN, until a THAW exchanges the planes; it becomes RESIDENT, and its SELF groups are made, then (03 R31,
12 R242). -/
def State.placeInactive (s : State) (r : Run) (p : Nat) : State :=
  (s.bindRegion r p).modRun r.id fun r => { r with st := .frozen, hold := .inactive }

/-! ## A decision (R345) -/

/-- Places those of some runs that fit by step 1. -/
def State.placeSome (mark : Option Nat) (s : State) (r : Run) : State :=
  match s.fits r [] with
  | none => s
  | some p => (s.place r p).modRun r.id fun r => { r with backfill := mark }

/-- The head does not fit: steps 2 to 4. Whether the Arbor uses inactive planes before the head waits is its own choice, a free
value (log 46). -/
def State.makeRoom (s : State) (head : Run) (later : List Run) : State :=
  match s.compactSet head with
  | some l => l.foldl (fun s r => s.sendAway true r) s
  | none => match s.displaceSet head with
    | some l => l.foldl (fun s r => s.sendAway false r) s
    | none =>
      let (w, s) := s.freeWord
      match (if w.getLsbD 0 ∧ head.st = .pending then s.inactiveSpot head else none) with
      | some p => s.placeInactive head p
      | none => later.foldl (State.placeSome (some head.id)) s

/-- ARBOR_DECISION of a die, once regions that it is moving or displacing have been read out. -/
def State.arbor (s : State) (die : Nat) : State :=
  if s.runs.any fun r => r.die == die && r.orders.any fun o => (o.1 == 0 || o.1 == 2) && o.2.isNone then s
  else
    let s := { s with runs := s.runs.map fun r => if r.die = die then (r.ageing s.cycle).quantumDone s.cycle else r }
    let waiting := orderRuns Run.before (s.runs.filter fun r => r.waits die)
    let moved := waiting.filter (·.moved)
    match waiting.filter fun r => !r.moved with
    | [] => moved.foldl (State.placeSome none) s
    | head :: later =>
      match s.fits head [] with
      | some p => moved.foldl (State.placeSome none) (s.place head p)
      | none => if moved.isEmpty then s.makeRoom head later else moved.foldl (State.placeSome none) s

def execArborDecision (die : Nat) (s : State) : Out := .next (s.arbor die)

end Sys2Proof.Machine
end

