-- ==== Sys2Proof/Machine/Bringup.lean ====
section
/-! DEFINITION. Bring-up: a cold reset with its steps, and the ready token (25 R391 to R394, 23 R374, R378). -/

namespace Sys2Proof.Machine

/-! ## The steps (R392) -/

/-- Where bring-up stands: the step, ERR (0: it goes on), dies still in service, stacks trained. -/
structure Boot where
  step  : Nat
  err   : Nat
  dieok : Nat
  stkok : Nat
  deriving DecidableEq, Repr

/-- Bits of `x` that are not in `y`. -/
def bitsWithout (n x y : Nat) : Nat := ((List.range n).filter fun k => x.testBit k && !y.testBit k).foldl (fun a k => a + 2 ^ k) 0

/-- Dies with a stack that failed (02 R11). -/
def stackDies (stkFail : Nat) : Nat :=
  ((List.range 8).filter fun d => stkFail.testBit (2 * d) || stkFail.testBit (2 * d + 1)).foldl (fun a d => a + 2 ^ d) 0

/-- Dies are removed; without any left bring-up stops with NODIE. -/
def Boot.remove (b : Boot) (dies : Nat) : Boot :=
  let ok := bitsWithout 8 b.dieok dies
  { b with dieok := ok, err := if ok = 0 then 5 else b.err }

/-- What a step decides. -/
def Boot.act (b : Boot) (env : BringUp) : Boot :=
  match b.step with
  | 1 => { b with err := if env.romOk then 0 else 1 }
  | 2 => { b with err := if !env.sigOk then 2 else if !env.svnOk then 3 else 0 }
  | 3 => { b with err := if env.fusesOk then 0 else 4 }
  | 4 => ({ b with stkok := bitsWithout 16 0xFFFF env.stkFail.toNat }).remove (stackDies env.stkFail.toNat)
  | 5 => b.remove env.d2dFail.toNat
  | 7 => b.remove env.fabFail.toNat
  | 8 => b.remove env.cfgFail.toNat
  | _ => b

/-- The alarm of level 2 or 3 that falls in the step; a failure of the step is decided first (R394). -/
def Boot.alarm (b : Boot) (env : BringUp) : Boot :=
  match env.alarm with
  | some (n, level) => if b.err = 0 ∧ n = b.step ∧ 2 ≤ level then { b with err := 6 } else b
  | none => b

/-- Steps from the one in hand on; step 9 is left to the ready token. -/
def Boot.go (env : BringUp) : Nat → Boot → Boot
  | 0, b => b
  | fuel + 1, b =>
    let b := (b.act env).alarm env
    if b.err ≠ 0 ∨ b.step = 9 then b else Boot.go env fuel { b with step := b.step + 1 }

def Boot.run (env : BringUp) : Boot := Boot.go env 9 ⟨1, 0, 0xFF, 0⟩

/-! ## COLD_RESET -/

/-- Partner of a link for which the environment names none. -/
def LinkPeer.absent : LinkPeer := ⟨false, 0, 0, false, 0⟩

/-- The links as training leaves them, when bring-up has come to step 6. -/
def Boot.links (b : Boot) (env : BringUp) : List Link :=
  if b.step < 6 then List.replicate 36 Link.reset
  else (List.range 36).map fun k => Link.reset.train (env.links.getD k LinkPeer.absent)

/-- Modules behind links that are UP. -/
def peersOf (own : BitVec 8) (ls : List Link) : List Nat :=
  ((ls.filter fun l => linkState l.stat == 5 && fld l.stat 31 24 != own.toNat).map fun l => fld l.stat 31 24).eraseDups

/-- COLD_RESET: everything the module holds is as reset leaves it; then the steps. What stands in host memory and in the agenda is not the
module's; the count of free values goes on. -/
def State.coldReset (s : State) (env : BringUp) : State :=
  let b := Boot.run env
  let links := b.links env
  let good := b.err == 0
  let z := State.reset
  let chip := { z.chip with
    bootstat := bootWord (!good) false b.step b.err b.dieok b.stkok
    modnum := env.modnum
    links := links
    peers := peersOf env.modnum links
    idKey := if good then some (Config.identityKey s.free) else none
    grantKey := if good then some (Config.freeKey s.free) else none }
  let t : State := { z with agenda := s.agenda, free := s.free + 1, mem := { z.mem with host := s.mem.host }, chip := chip }
  let t := match env.alarm1 with
    | some n => if 4 ≤ n ∧ n ≤ b.step then t.logAlarm 0 1 else t
    | none => t
  match env.alarm with
  | some (_, level) => if b.err = 6 then t.alarm 0 level else t
  | none => t

def execColdReset (env : BringUp) (s : State) : Out := .next (s.coldReset env)

/-! ## READY_TOKEN (R393) -/

/-- Links in state UP. -/
def State.linksUp (s : State) : Nat := (s.chip.links.filter fun l => linkState l.stat == 5).length

/-- The ready token goes to ring 0 of slot 0 once that ring has a base; READY sets. -/
def State.readyToken (s : State) : State :=
  let b := s.chip.bootstat
  if bootReady b ∨ bootHalt b ∨ fld b 35 32 ≠ 9 ∨ fld (s.ring 0 0) 63 12 = 0 then s
  else
    let s := s.postEntry 0 0 (BitVec.ofNat 64 ((fld b 23 16 + 2 ^ 8 * s.linksUp) * 2 ^ 14)) 0
    { s with chip := { s.chip with bootstat := b ||| 0x1000000000 } }

def execReadyToken (s : State) : Out := .next s.readyToken

end Sys2Proof.Machine
end

