-- ==== Sys2Proof/Machine/Controller.lean ====
section
/-! DEFINITION. Loads that CONF words and controllers wait for, and the controllers that start their children as they may: pipelined and
streaming ones whose body holds only CONF, RULE and STREAM words (03 R35, R39, R40; log 62). -/

namespace Sys2Proof.Machine

/-! ## The children of a controller -/

/-- A trap at a word that keeps what the word has done. -/
def State.trapKeep (s : State) (run : Nat) (t : Trap) (i : FaultInfo → FaultInfo) : State := s.takeTrap run t (i (FaultInfo.atWord t))

/-- A CONF or RULE word: configuration, rule number, FULL. -/
def confOf (w : W64) : Option (Nat × Nat × Bool) :=
  match decodeSeq w with
  | .ok (.conf c) => some (c.toNat, 0, false)
  | .ok (.rule c n) => some (c.toNat, n.toNat, false)
  | .ok (.ruleFull c n) => some (c.toNat, n.toNat, true)
  | _ => none

/-- A STREAM word: G register, port, generator, entry. -/
def streamOf (w : W64) : Option (BitVec 6 × Nat × Nat × Nat) :=
  match decodeSeq w with
  | .ok (.stream gb p g e) => some (gb, p.toNat, g.toNat, e.toNat)
  | _ => none

/-- The words of a sequence from one place up to another. -/
def wordsFrom (seq : List W64) (a b : Nat) : List W64 := (seq.drop a).take (b - a)

/-- The STREAM words that follow a CONF or RULE. -/
def streamsAfter (seq : List W64) (at_ endl : Nat) : List (BitVec 6 × Nat × Nat × Nat) :=
  ((wordsFrom seq (at_ + 1) endl).takeWhile fun w => (confOf w).isNone).filterMap streamOf

/-- The children of a body that holds only CONF and RULE words, each followed by at most four STREAM words for one generator; none for
any other body. -/
def kidsOf (seq : List W64) (a endl : Nat) : Option (List Kid) :=
  let ws := wordsFrom seq a endl
  let kids := (ws.zipIdx.filter fun q => (confOf q.1).isSome).map fun q => (⟨a + q.2, 0, 0⟩ : Kid)
  if ((ws.head?).bind confOf).isNone || ws.any (fun w => (confOf w).isNone && (streamOf w).isNone) then none
  else if kids.any fun k =>
    let st := (streamsAfter seq k.at_ endl).map fun x => (x.2.1, x.2.2.1)
    st.any fun x => decide (4 < st.count x) then none
  else some kids

/-- Child k may start its next iteration (R39). -/
def kidMay (kind depth n : Nat) (kids : List Kid) (k : Nat) : Bool :=
  match kids[k]? with
  | none => false
  | some x =>
    decide (x.started < n) && x.drained == x.started
      && if kind = 2 then kids.all fun y => decide (x.started ≤ y.drained)
         else match k with
           | 0 => decide (x.started < ((kids.getLast?).map (·.drained)).getD 0 + depth)
           | j + 1 => decide (x.started < ((kids[j]?).map (·.drained)).getD 0)

/-- A child with its configuration as the sequence gives it. -/
def State.kidConf (s : State) (r : Run) (x : Kid) : Option (Nat × Nat × Bool) := ((s.seqOf r)[x.at_]?).bind confOf

/-- The run as its child's CONF would find it: inside the loop, at the child's word. -/
def Run.asKid (r : Run) (kind depth id n : Nat) (x : Kid) : Run :=
  { r with esc := { r.esc with sqc := x.at_, loops := ⟨n - x.started, x.at_, kind, depth, id⟩ :: r.esc.loops } }

/-- Notes the children whose iteration has drained. -/
def State.kidDrained (s : State) (r : Run) (x : Kid) : Kid :=
  match s.kidConf r x with
  | none => x
  | some (cfg, _, _) =>
    if x.drained < x.started ∧ (r.plane r.act).loads.zipIdx.all fun q => q.1.cfg != cfg || q.1.serial == 0 || s.drained r.id r.act q.2 q.1
    then { x with drained := x.started } else x

def State.setKids (s : State) (run id n : Nat) (kids : List Kid) : State :=
  s.modRun run fun r => { r with esc := { r.esc with wait := .control id n kids } }

/-- Starts a child that may start and whose configuration is resident, with the STREAM words that follow it. -/
def State.startKid (s : State) (run kind depth id n k : Nat) : State :=
  match s.run? run with
  | none => s
  | some r =>
    match r.esc.wait with
    | .control _ _ kids =>
      match kids[k]? with
      | none => s
      | some x =>
        match s.kidConf r x with
        | none => s
        | some (cfg, rule, full) =>
          match (r.plane r.act).loads.findIdx? fun l => l.cfg == cfg with
          | none => s
          | some i =>
            if !kidMay kind depth n kids k then s
            else match (if rule = 0 then none else s.unowned r rule) with
              | some h => s.trapKeep run .noowner fun i => { i with va := h }
              | none =>
                let s := s.startLoad (r.asKid kind depth id n x) i rule full
                let s := s.modRun run fun y => { y with esc := { y.esc with sqc := r.esc.sqc, loops := r.esc.loops } }
                let s := (streamsAfter (s.seqOf r) x.at_ (s.endlOf r)).foldl (fun s w => match s.run? run with
                  | none => s
                  | some r => match s.boundGen r w.1 w.2.1 w.2.2.1 w.2.2.2 with
                    | some (some g) => s.setRun (r.setGen w.2.1 w.2.2.1 g)
                    | _ => s) s
                s.setKids run id n (modAt (fun y => { y with started := y.started + 1 }) kids k)
    | _ => s

/-- One issue of a controller that has begun: what has drained is noted; when every child has drained in the last iteration it goes on
behind its ENDL; otherwise the children that may start do so. A stray of a child traps first. -/
def State.driveControl (s : State) (r : Run) (kind depth id n : Nat) (kids : List Kid) : State :=
  let cfgs := kids.filterMap fun x => (s.kidConf r x).map (·.1)
  match s.drainOf r fun l => cfgs.contains l.cfg with
  | .stray i => s.takeTrap r.id .stray i
  | _ =>
    let kids := kids.map (s.kidDrained r)
    if kids.all fun x => decide (n ≤ x.drained) then
      s.goto { r with esc := { r.esc with wait := .idle } } (s.endlOf r + 1)
    else (List.range kids.length).foldl (fun s k => s.startKid r.id kind depth id n k) (s.setKids r.id id n kids)

/-- LOOP of a pipelined or streaming controller: one that starts its children itself once everything before it has drained. -/
def State.controlWord (s : State) (r : Run) (kind depth n : Nat) (kids : List Kid) : State :=
  match r.esc.wait with
  | .control id n kids => s.driveControl r kind depth id n kids
  | _ =>
    if 2 ^ 32 ≤ n then s.trapWord r.id .seqrange
    else if n = 0 then s.goto r (s.endlOf r + 1)
    else if 8 ≤ r.esc.loops.length then s.trapWord r.id .seqovf
    else
      let id := r.esc.pushes + 1
      s.whenDrained r r.ordered
        (s.setRun { r with esc := { r.esc with wait := .control id n kids, pushes := id } })

def execLoop (gb : BitVec 6) (kind : BitVec 2) (depth : BitVec 3) (count : BitVec 32) (s : State) : Out :=
  onWord s fun r =>
    match (if kind = 0 ∨ r.esc.handler.isSome then none else kidsOf (s.seqOf r) (r.esc.sqc + 1) (s.endlOf r)) with
    | some kids => s.controlWord r kind.toNat (depth.toNat + 1) (countOf r gb count.toNat) kids
    | none => s.loopWord r gb kind.toNat depth.toNat count.toNat

/-! ## Loads (R35) -/

/-- CONFIGURATION_LOAD_COMPLETE for a CONF or RULE that waits: the configuration that the word names is validated and loaded, and starts; or
the word traps LOADFLT and the plane is unchanged. -/
def State.loadWord (s : State) (r : Run) : State :=
  match s.confAt r with
  | none => s
  | some (cfg, rule, full) =>
    match s.loadActive r (rule != 0) cfg (fun i l => !s.drained r.id r.act i l) with
    | .error f => s.loadFault r.id f
    | .ok (s, i) => match s.run? r.id with
      | none => s
      | some r => (s.startLoad r i rule full).doneWord r.id id

/-- The same for a controller: the first child that may start and whose configuration is not resident is loaded beside the others, which
hold pages of their own (R40); the controller starts it when it next issues. -/
def State.loadKid (s : State) (r : Run) (kind depth n : Nat) (kids : List Kid) : State :=
  let cfgs := kids.filterMap fun x => (s.kidConf r x).map (·.1)
  match (List.range kids.length).findSome? fun k => match (kids[k]?).bind (s.kidConf r) with
    | some c => if kidMay kind depth n kids k ∧ !(r.plane r.act).loads.any (fun l => l.cfg == c.1) then some c else none
    | none => none with
  | none => s
  | some (cfg, rule, _) =>
    match s.loadActive r (rule != 0) cfg (fun i l => cfgs.contains l.cfg || !s.drained r.id r.act i l) with
    | .error f => s.trapKeep r.id .loadflt fun i => { i with aux := f.code.code, blk := f.block, idx := f.index }
    | .ok (s, _) => s

def State.configLoad (s : State) (run : Nat) : State :=
  match s.run? run with
  | none => s
  | some r =>
    if r.st ≠ .resident then s
    else match r.esc.wait, ((s.seqOf r)[r.esc.sqc]?).map decodeSeq with
      | .loading, _ => s.loadWord r
      | .control _ n kids, some (.ok (.loop _ kind depth _)) => s.loadKid r kind.toNat (depth.toNat + 1) n (kids.map (s.kidDrained r))
      | _, _ => s

def execConfigurationLoadComplete (run : Nat) (s : State) : Out := .next (s.configLoad run)

end Sys2Proof.Machine
end

