-- ==== Sys2Proof/Machine/Buffers.lean ====
section
/-! DEFINITION. The ports of the write-once buffers (04 R73), served once a cycle: a read, then a write. -/

namespace Sys2Proof.Machine

/-- A write-once buffer where it stands: run, plane, place of the configuration, place in its list. -/
structure WoRef where
  run   : Nat
  plane : Nat
  load  : Nat
  k     : Nat
  deriving DecidableEq, Repr

/-- A buffer with what surrounds it. -/
structure WoHere where
  run  : Run
  load : Loaded
  blk  : Blk
  elem : Elem
  buf  : WoBuf

def State.woHere (s : State) (b : WoRef) : Option WoHere :=
  match s.run? b.run with
  | none => none
  | some r => match r.load? b.plane b.load with
    | none => none
    | some l => match l.bufs[b.k]? with
      | none => none
      | some w => match l.blks[w.blk]? with
        | none => none
        | some x => (x.elems[w.idx]?).map fun e => ⟨r, l, x, e, w⟩

def WoRef.elem (b : WoRef) (w : WoBuf) : ElemRef := ⟨b.run, b.plane, b.load, w.blk, w.idx⟩

def State.modBuf (s : State) (b : WoRef) (f : WoBuf → WoBuf) : State :=
  s.modLoad b.run b.plane b.load fun l => { l with bufs := modAt f l.bufs b.k }

/-- Words of a buffer. -/
def WoBuf.size (w : WoBuf) : Nat := w.lenK * 256

/-- Byte of the tile store at which word n stands. -/
def WoBuf.byte (w : WoBuf) (n : Nat) : Nat := 1024 * w.baseK + 4 * n

/-- Slots of the input that a buffer feeds; over a link without slots one word at a time is read (log 103). -/
def WoHere.slots (h : WoHere) : Nat := max 1 (((linkInto h.blk h.buf.idx h.buf.inp).map fun l => l.2.2.slots.toNat).getD 0)

/-- The reader's input has a free slot. -/
def WoHere.free (h : WoHere) : Bool := decide ((h.elem.queue h.buf.inp).length < h.slots)

/-- The reader's input receives a token. -/
def WoHere.feed (b : WoRef) (h : WoHere) (t : Token) (s : State) : State :=
  s.modElem (b.elem h.buf) fun e => e.setQueue h.buf.inp (e.queue h.buf.inp ++ [t])

/-- The read port: the word at the read index, once it is present, as a DATA token on the reader's channel; a word that was stored from
POISON, or that has an uncorrectable error, reads as POISON. -/
def State.woRead (s : State) (b : WoRef) : State :=
  match s.woHere b with
  | none => s
  | some h =>
    let w := h.buf
    if !w.present.contains w.rpos || !h.free then s
    else
      let ch := h.blk.chanNo w.idx
      let t := if s.bankBad h.run w.page w.tile (w.byte w.rpos) 4 then poisonTok false .data ch
        else scalarTok (BitVec.ofNat 32 (bytesNat (s.bankRead h.run w.page w.tile (w.byte w.rpos) 4))) .data ch
      (h.feed b t s).modBuf b fun w => { w with rpos := w.rpos + 1 }

/-- Every word of the round has been read. -/
def WoBuf.readOut (w : WoBuf) : Bool := decide (w.wpos ≤ w.rpos)

/-- Takes the position at the head of the write port. -/
def State.woTake (s : State) (b : WoRef) (w : WoBuf) : State :=
  s.modElem (b.elem w) fun e => e.setQueue (w.inp + 4) (popPos (e.queue (w.inp + 4)))

/-- The write port: a data position's word at the write index sets its presence bit; a word already present, which past the end
of the buffer is the first one again, raises WODUP and nothing changes. EOS ends the round, and is handed on to the reader, once every word of it has been read; so is EOT, without ending the
round. Other tokens store nothing (log 103). -/
def State.woWrite (s : State) (b : WoRef) : State :=
  match s.woHere b with
  | none => s
  | some h =>
    let w := h.buf
    match headPos (h.elem.queue (w.inp + 4)) with
    | none => s
    | some p => match p.mark with
      | .eos =>
        if w.readOut && h.free then
          ((h.feed b (eosTok false (h.blk.chanNo w.idx)) s).woTake b w).modBuf b fun w => { w with present := [], wpos := 0, rpos := 0 }
        else s
      | .eot =>
        if w.readOut && h.free then (h.feed b { eosTok false (h.blk.chanNo w.idx) with mark := .eot } s).woTake b w else s
      | .ctrl | .steer => s.woTake b w
      | _ =>
        if w.present.contains (w.wpos % w.size) then s.takeTrap b.run .wodup (s.elemInfo (b.elem w) Trap.wodup.code 1)
        else
          let s := s.bankWrite h.run w.page w.tile (w.byte (w.wpos % w.size)) (natBytes 4 p.word.toNat)
          let s := if p.poison then
              let k := storeKey h.run.die (h.run.phys w.page) w.tile (w.byte (w.wpos % w.size)) / 4
              { s with mem := { s.mem with storeBad := insertNew k s.mem.storeBad } }
            else s
          (s.woTake b w).modBuf b fun w => { w with present := insertNew (w.wpos % w.size) w.present, wpos := w.wpos + 1 }

/-- The write-once buffers of the started configurations of a run. -/
def Run.buffers (r : Run) : List WoRef :=
  if r.st ≠ .resident then []
  else (r.plane r.act).loads.zipIdx.flatMap fun l => if !l.1.running then [] else (List.range l.1.bufs.length).map fun k => ⟨r.id, r.act, l.2, k⟩

/-- Every port of every buffer, reads first: a read and the EOS in the same cycle, the read is served first (R73). -/
def State.servePorts (s : State) : State :=
  let bs := s.runs.flatMap Run.buffers
  bs.foldl State.woWrite (bs.foldl State.woRead s)

end Sys2Proof.Machine
end

