-- ==== Sys2Proof/Machine/Fetch.lean ====
section
/-! DEFINITION. Which instruction executes next: the fetch of a sequence word at SQC, of the word of a configured element, of an
event; the end of a fabric cycle; and the placing of one word where the next step fetches. -/

namespace Sys2Proof.Machine

/-- What a turn executes. -/
inductive Fetched where
  /-- An instruction, with the state in which it executes. -/
  | exec (i : Instr) (s : State)
  /-- Nothing executes: the state afterwards. -/
  | other (s : State)
  /-- A word that decodes to no instruction. -/
  | bad
  deriving DecidableEq, Repr

/-- The matrix nodes of a run that have operations in hand. -/
def Run.nodes (r : Run) : List ElemRef :=
  if r.st ≠ .resident then []
  else (r.plane r.act).loads.zipIdx.flatMap fun l => l.1.blks.zipIdx.flatMap fun b => (b.1.elems.zipIdx.filter fun e => match e.1.ctl with
    | .mma (_ :: _) _ => true
    | _ => false).map fun e => ⟨r.id, r.act, l.2, b.2, e.2⟩

/-- K-groups that are due in a cycle that begins are formed (12 R232). -/
def State.progress (s : State) : State := (s.runs.flatMap Run.nodes).foldl (fun s e => driveElem e mmaProgress s) s

/-- A count of cycles of a run goes on while it is resident and not frozen (04 R76, 13 R297, 03 R56). -/
def Run.tick (r : Run) : Run := if r.st = .resident then { r with cycles := r.cycles + 1, idle := r.idle + 1 } else r

/-- What a cycle remembers of itself is forgotten: the old contents of written words (02 R19), the lines set full (07 R135), the
cancels (13 R284), the contexts torn down (20 R342). -/
def State.forget (s : State) : State :=
  { s with mem := { s.mem with storeOld := [], fullNow := [] }, eng := { s.eng with cancels := [] }, adm := { s.adm with torn := [] } }

/-- The end of a fabric cycle (00 R1): register writes take effect (13 R298), the write-once buffers are served (04 R73), completions owed
to the host leave (log 39), every count of cycles goes on; the next cycle begins. -/
def tick (s : State) : State :=
  let s := s.applyWrites.settleAts.servePorts.forget
  State.progress { s with cycle := s.cycle + 1, runs := s.runs.map Run.tick }

/-- Fetches the word at SQC of a run from the loader's validated copy (09 R184), at most one word a cycle (03 R32). An SQC outside
the sequence traps SEQRANGE (03 R33). -/
def fetchWord (s : State) (id : Nat) : Fetched :=
  match s.run? id with
  | none => .other s
  | some r =>
    if !r.issues || r.esc.issuedAt = s.cycle + 1 then .other s
    else
      let s := { s.setRun { r with esc := { r.esc with issuedAt := s.cycle + 1 } } with focus := some ⟨id, none⟩ }
      match (s.seqOf r)[r.esc.sqc]? with
      | none => .other (s.trapWord id .seqrange)
      | some w =>
        match decode (natBytes 8 w.toNat) with
        | .ok (i, _) => .exec i s
        | .error _ => .bad

/-- Fetches the word of a configured element. -/
def fetchElem (s : State) (e : ElemRef) : Fetched :=
  match s.site e with
  | none => .other s
  | some h =>
    match decode (natBytes 8 h.word.toNat) with
    | .ok (i, _) => .exec i { s with focus := some ⟨e.run, some e⟩ }
    | .error _ => .bad

/-- The turn that the state names: the head of its agenda, which it consumes; with an empty agenda the escapement of the run in
focus and, when that has issued or does not issue, the end of the cycle (log 1). -/
def fetchTurn (s : State) : Fetched :=
  match s.agenda with
  | .word r :: rest => fetchWord { s with agenda := rest } r
  | .fire e :: rest => fetchElem { s with agenda := rest } e
  | .event i :: rest => .exec i { s with agenda := rest }
  | .tick :: rest => .other (tick { s with agenda := rest })
  | .walk id :: rest => .other ({ s with agenda := rest }.walkNext id)
  | .circuit k g w :: rest => .other ({ s with agenda := rest }.circuitWord k g w)
  | [] =>
    match s.focus with
    | none => .other (tick s)
    | some f =>
      match s.run? f.run with
      | none => .other (tick s)
      | some r => if !r.issues || r.esc.issuedAt = s.cycle + 1 then .other (tick s) else fetchWord s f.run

/-- A module that a level-3 alarm holds does nothing until a cold reset (23 R378): other turns pass. -/
def fetch (s : State) : Fetched :=
  if !s.chip.held then fetchTurn s
  else match s.agenda with
    | .event (.coldReset env) :: rest => .exec (.coldReset env) { s with agenda := rest }
    | .tick :: rest => .other (tick { s with agenda := rest })
    | _ :: rest => .other { s with agenda := rest }
    | [] => .other (tick s)

/-! ## Placing a word -/

/-- The run that the placed word runs in: the one in focus when it issues. -/
def focusRun (s : State) : Option Run :=
  match s.focus with
  | none => none
  | some f => match s.run? f.run with
    | none => none
    | some r => if r.st = .resident then some r else none

/-- A resident run of context slot 0 with one page and one port tile, and nothing loaded. -/
def placedRun : Run :=
  { Run.init 0 0 0 0 0 [] with
    st := .resident
    been := true
    region := ⟨1, 1, [0], [0], [], [List.replicate 4 ⟨none, []⟩]⟩ }

/-- The image of a run with one sequence word at SQC and an END after it. -/
def placedImage (r : Run) (w : W64) : Image :=
  ⟨r.slot, r.image, 0, 0, 1, List.replicate r.esc.sqc 0x0100000000000000 ++ [w, 0x0100000000000000], 0, [], [], [], [], [], 0, 0, 0⟩

/-- A sequence word placed at SQC of the run in focus, or of a run made for it. -/
def placeSeq (s : State) (w : W64) : State :=
  let r := (focusRun s).getD placedRun
  let runs := if (focusRun s).isSome then s.runs else r :: s.runs.filter (fun x => x.id != r.id)
  let r1 := { r with esc := { r.esc with issuedAt := 0 } }
  { s with
    agenda := [.word r.id]
    focus := some ⟨r.id, none⟩
    runs := runs.map fun x => if x.id = r.id ∧ x.st ≠ .retired then r1 else x
    adm := { s.adm with images := placedImage r w :: s.adm.images.filter (fun i => !(i.slot == r.slot && i.addr == r.image)) } }

/-- A block of one instruction. -/
def placedBlk (w : W64) : Blk :=
  let o := (w.extractLsb' 56 8).toNat
  ⟨0, [w], [], [], 0, 0, [initElem o (w.extractLsb' 20 2) (w.extractLsb' 0 20)], 0, 0, none⟩

/-- A running configuration of one block of one instruction. -/
def placedLoad (w : W64) : Loaded :=
  ⟨0, 0, false, List.replicate 32 0, List.replicate 32 0x3F800000, List.replicate 8 0, 1, [], [], [], [], [placedBlk w], 1, 1, true, none,
    false, false, [], 0⟩

/-- A fabric word placed as the only element of a running configuration of the run in focus, or of a run made for it. -/
def placeFab (s : State) (w : W64) : State :=
  let r := (focusRun s).getD placedRun
  let runs := if (focusRun s).isSome then s.runs else r :: s.runs.filter (fun x => x.id != r.id)
  let p := r.act
  let n := (r.plane p).loads.length
  let r1 := r.setPlane p { r.plane p with loads := (r.plane p).loads ++ [placedLoad w] }
  let e : ElemRef := ⟨r.id, p, n, 0, 0⟩
  { s with
    agenda := [.fire e]
    focus := some ⟨r.id, some e⟩
    runs := runs.map fun x => if x.id = r.id ∧ x.st ≠ .retired then r1 else x }

/-- Stores the word where the next step fetches its instruction (log 11). -/
def placeWord (s : State) (nbits w : Nat) : State :=
  let x : W64 := BitVec.ofNat 64 (w % 2 ^ nbits)
  let opc := (x.extractLsb' 56 8).toNat
  if 1 ≤ opc ∧ opc ≤ 0x1F then placeSeq s x else placeFab s x

end Sys2Proof.Machine
end

