-- ==== Sys2Proof/Machine/Fixpoint.lean ====
section
/-! DEFINITION. The weighted fixed point: FIXB, FIXE, ROTATE, RETRACT, their requests to owner nodes and to the group's home module,
and lost requests (03 R55, R56, 06 R106, R119 to R126, 12 R241 to R246). -/

namespace Sys2Proof.Machine

/-! ## Traps of a word -/

/-- Why a word stops: a trap, or a fault of the engine's own access (none). -/
structure WordStop where
  trap : Option Trap
  info : FaultInfo
  deriving DecidableEq, Repr

def WordStop.at_ (t : Trap) (va : Nat) : WordStop := ⟨some t, { FaultInfo.atWord t with va := va }⟩

/-- A header or a slot that cannot be read; access kind 3 read, 4 write (21 R357). -/
def WordStop.hdr (e : HdrErr) (va access : Nat) : WordStop :=
  match e with
  | .trap psn => ⟨some .relhdr, { FaultInfo.atWord .relhdr with va := va, flags := if psn then 24 else 16 }⟩
  | .xlat w => ⟨none, xlatInfo w va access (FaultInfo.atWord .relhdr)⟩

/-- The word traps and keeps what it has done: on resume it goes on from there (R55). -/
def State.stopWord (s : State) (run : Nat) (w : WordStop) : State :=
  match w.trap with
  | some t => s.takeTrap run t w.info
  | none => s.supervisorFault run w.info

def State.setWait (s : State) (run : Nat) (w : Wait) : State :=
  s.modRun run fun r => { r with esc := { r.esc with wait := w } }

/-- Requests leave now. -/
def State.sendWait (s : State) (run : Nat) (w : Wait) : State :=
  s.modRun run fun r => { r with esc := { r.esc with wait := w, sentAt := r.cycles } }

/-! ## Operands -/

/-- Relation list of an index: stratum and header addresses. -/
def State.rlist (s : State) (r : Run) (k : Nat) : Nat × List Nat := (((s.image? r).bind (·.rlists[k]?))).getD (0, [])

/-- The group that FIXB and FIXE name: a register's low bits, or a group-table entry, SELF being the run's own (12 R242). -/
def State.fixGroup (s : State) (r : Run) (gb : BitVec 6) (grp : Nat) : BitVec 20 :=
  if gb ≠ 0 then (r.getG gb).setWidth 20
  else
    let w := ((s.image? r).bind (·.gtab[grp]?)).getD 0
    if w = selfGroup then ((r.selfs.find? fun x => x.1 == grp).map (·.2)).getD 0 else w.setWidth 20

/-- The first header of a list that has no owner binding. -/
def State.noOwner (s : State) (r : Run) (hs : List Nat) : Option Nat := hs.find? fun h => (s.relOwner r.slot h).isNone

/-- Why FIXB cannot begin: a header address that is not aligned (06 R105), or a relation without an owner. -/
def State.fixbStop (s : State) (r : Run) (hs : List Nat) : Option WordStop :=
  match hs.find? (fun h => h % 64 != 0), s.noOwner r hs with
  | some h, _ => some (.at_ .relhdr h)
  | none, some h => some (.at_ .noowner h)
  | none, none => none

/-- Every request of a list not yet sent leaves. -/
def sendAll (acks : List (Bool × Bool)) : List (Bool × Bool) := acks.map fun a => (true, a.2)

/-- Unanswered requests may be sent again. -/
def clearSent (acks : List (Bool × Bool)) : List (Bool × Bool) := acks.map fun a => (a.2, a.2)

/-! ## FIXB (R243) -/

/-- The answer to the contribution of a run of another module: the totals, whether the stratum ends, the pass (log 33). -/
def State.tellTotals (s : State) (f : Flit) (pass : Nat) (t : Nat × Int × Bool) : State :=
  s.replyFlit 8 f 0 0 28 (BitVec.ofNat 512 (t.1 % 2 ^ 64 + (t.2.1 % 2 ^ 64).toNat * 2 ^ 64 + (if t.2.2 then 2 ^ 128 else 0) + pass * 2 ^ 160))

/-- A member's contribution reaches the home module, which applies at most one for each run and pass (R56); that of a FIXB opens the
group's fixpoint (R44). One of the pass before, whose answer was lost, is answered with the totals of that pass. -/
def State.contributeHere (s : State) (g : BitVec 20) (c : Contrib) (pass : Nat) : State :=
  match s.group? g with
  | none => s
  | some x =>
    if !x.members.contains c.run then s
    else match c.back with
      | some f =>
        if pass + 1 = x.pass then s.tellTotals f pass x.totals
        else if pass ≠ x.pass then s
        else s.modGroup g (add c)
      | none => s.modGroup g (add c)
where
  add (c : Contrib) (x : Group) : Group :=
    { x with
      fixOpen := x.fixOpen || !c.atEnd
      sums := if x.sums.any fun y => y.run == c.run then x.sums.map fun y => if y.run = c.run then { y with back := c.back } else y
        else x.sums ++ [c] }

/-- A run's contribution leaves, to this module's groups at once; none while no tag is free for a request to another module. -/
def State.contribute (s : State) (r : Run) (g : BitVec 20) (atEnd : Bool) (n : Nat) (bal : Int) : Option State :=
  if s.farGroup (g.setWidth 64) then
    let pass := ((r.passes.find? fun p => p.1 == g).map (·.2)).getD 0
    s.askGroup (if atEnd then .fixe else .fixb) g (groupPayload g false false (s.identity r.id) n bal pass) (.sum r.id)
  else some (s.contributeHere g ⟨s.identity r.id, n, bal, atEnd, none⟩ 0)

/-- The sum of a FIXB. -/
def State.fixbSum (s : State) (r : Run) (g : BitVec 20) : State :=
  match s.contribute r g false 0 ((r.sent : Int) - (r.applied : Int)) with
  | none => s
  | some s => (s.modRun r.id fun r => { r with esc := { r.esc with fix := some g } }).sendWait r.id .sum

def State.fixbWord (s : State) (r : Run) (gb : BitVec 6) (rlist grp : Nat) : State :=
  let hs := (s.rlist r rlist).2
  match r.esc.wait with
  | .idle => s.whenDrained r (fun _ => true)
      (match s.fixbStop r hs with
        | some w => s.stopWord r.id w
        | none => s.sendWait r.id (.opening (hs.map fun _ => (true, false))))
  | .opening acks =>
    if acks.all (·.2) then s.fixbSum r (s.fixGroup r gb grp)
    else if acks.all (·.1) then s
    else s.sendWait r.id (.opening (sendAll acks))
  | _ => s

def execFixb (gb : BitVec 6) (rlist : BitVec 16) (grp : BitVec 8) (s : State) : Out :=
  onWord s fun r => notInHandler s r (s.fixbWord r gb rlist.toNat grp.toNat)

/-- The owner opens a relation for a group: the header it holds from now on. -/
def State.openRel (s : State) (slot va stratum : Nat) (g : BitVec 20) : Except WordStop State :=
  if (s.relOwner slot va).isNone then .error (.at_ .noowner va)
  else match s.relHdr slot va with
    | .error e => .error (.hdr e va 3)
    | .ok h =>
      let other := match s.relHold slot va with
        | some x => x.group != g
        | none => true
      if hdrOpen h && other then .error (.at_ .relbusy va)
      else if hdrStrat h ≠ stratum then .error (.at_ .relhdr va)
      else
        let h := putFld (putFld h 42 1 1) 480 32 0
        let rels := s.ord.rels.filter fun x => !(x.slot == slot && x.addr == va)
        .ok { s with ord := { s.ord with rels := rels ++ [⟨slot, va, h, g⟩] } }

/-- FIXB_OPEN_ACK: the owner of relation `k` of the list answers. -/
def State.fixbAck (s : State) (run k : Nat) : State :=
  match s.run? run with
  | none => s
  | some r =>
    match r.esc.wait, s.wordAt r with
    | .opening acks, some (.fixb gb rlist grp) =>
      let l := s.rlist r rlist.toNat
      match acks[k]?, l.2[k]? with
      | some (true, false), some h =>
        if r.st ≠ .resident then s
        else match s.openRel r.slot h l.1 (s.fixGroup r gb grp.toNat) with
          | .error w => (s.setWait run (.opening (setAt acks k (false, false)))).stopWord run w
          | .ok t => t.setWait run (.opening (setAt acks k (true, true)))
      | _, _ => s
    | _, _ => s

def execFixbOpenAck (run k : Nat) (s : State) : Out := .next (s.fixbAck run k)

/-- FIXB_RETRY: 64 cycles after a nonzero balance the sum is formed again. -/
def State.fixbRetry (s : State) (run : Nat) : State :=
  match s.run? run with
  | none => s
  | some r =>
    match r.esc.wait, s.wordAt r with
    | .retry c, some (.fixb gb _ grp) =>
      if r.st = .resident ∧ c + 64 ≤ s.cycle then s.fixbSum r (s.fixGroup r gb grp.toNat) else s
    | _, _ => s

def execFixbRetry (run : Nat) (s : State) : Out := .next (s.fixbRetry run)

/-! ## FIXE (06 R122, R123) -/

/-- The FIXB before a FIXE in the same loop level, looking back over the words before it, nearest first, with their places. -/
def fixbBefore : Nat → List (W64 × Nat) → Option Nat
  | _, [] => none
  | depth, (w, i) :: rest =>
    let o := wordOpc w
    if o = 0x09 then fixbBefore (depth + 1) rest
    else if o = 0x08 then (if depth = 0 then none else fixbBefore (depth - 1) rest)
    else if o = 0x1B ∧ depth = 0 then some i
    else fixbBefore depth rest

def State.fixbOf (s : State) (r : Run) : Option Nat := fixbBefore 0 ((s.seqOf r).take r.esc.sqc).zipIdx.reverse

def State.fixeWord (s : State) (r : Run) (gb : BitVec 6) (grp : Nat) : State :=
  let g := s.fixGroup r gb grp
  match r.esc.wait with
  | .idle =>
    if gb ≠ 0 ∧ r.esc.fix ≠ some g then s.stopWord r.id ⟨some .fixgrp, FaultInfo.atWord .fixgrp⟩
    else s.whenDrained r (fun _ => true)
      (let bal : Int := ((r.sent : Int) - (r.applied : Int)) - ((r.base.1 : Int) - (r.base.2 : Int))
       match s.contribute r g true r.promoted bal with
       | none => s
       | some s => s.sendWait r.id .sum)
  | _ => s

def execFixe (_ga gb : BitVec 6) (grp : BitVec 8) (s : State) : Out :=
  onWord s fun r => notInHandler s r (s.fixeWord r gb grp.toNat)

/-- TENT slots of a FULL part become DEAD: how many, from slot i on. A slot that cannot be reached stays (log 43). -/
def State.buryTent (slot : Nat) (h : Line) : Nat → Nat → State → Nat × State
  | 0, _, s => (0, s)
  | fuel + 1, i, s =>
    match s.slotAt slot (hdrFull h) i with
    | .error _ => State.buryTent slot h fuel (i + 1) s
    | .ok (t, psn) =>
      if psn ∨ slotState t ≠ 2 then State.buryTent slot h fuel (i + 1) s
      else match s.putSlot slot (hdrFull h) i (t ||| (3 : Slot) <<< 222) with
        | .error _ => State.buryTent slot h fuel (i + 1) s
        | .ok s =>
          let (n, s) := State.buryTent slot h fuel (i + 1) s
          (n + 1, s)

/-- The owner closes a relation at the end of the stratum; a later member's close finds it closed. -/
def State.closeRel (s : State) (slot va : Nat) (g : BitVec 20) : State :=
  match s.relHold slot va with
  | none => s
  | some x =>
    if x.group ≠ g then s
    else
      let h := x.hdr
      let (n, s) := if hdrKind h = 1 then State.buryTent slot h (2 ^ hdrLcap h) 0 s else (0, s)
      let h := putFld (putFld (putFld (putFld (putFld h 42 1 0) 41 1 0) 64 32 0) 160 32 0) 96 32 (hdrNFull h - n)
      (s.relPut slot va h).dropHold slot va

/-- The totals reach a member's FIXB or FIXE. -/
def State.sumTo (tn : Nat) (tb : Int) (last : Bool) (g : BitVec 20) (s : State) (run : Nat) : State :=
  match s.run? run with
  | none => s
  | some r =>
    match s.wordAt r with
    | some (.fixb _ _ _) =>
      if tb = 0 then s.doneWord run fun r => { r with base := (r.sent, r.applied), promoted := 0 }
      else s.setWait run (.retry s.cycle)
    | some (.fixe ga _ _) =>
      let got (r : Run) : Run := { r with promoted := 0 }.setG ga (BitVec.ofNat 64 tn)
      let q := s.fixbOf r
      if last then
        let hs := ((q.bind fun q => (s.seqOf r)[q]?).map fun w => (s.rlist r (fld w 15 0)).2).getD []
        (hs.foldl (fun s h => s.closeRel r.slot h g) s).doneWord run got
      else s.modRun run fun r =>
        let r := { r with esc := { r.esc with wait := .idle } }
        (got r).setSqc ((q.map (· + 1)).getD r.esc.sqc)
    | _ => s

/-- A run can take the totals: it waits for them and is resident. -/
def State.hears (s : State) (run : Nat) : Bool := match s.run? run with
  | some r => r.st == .resident && r.esc.wait == .sum
  | none => false

/-- COMBINE_SUMS_REPLY: every member has contributed and, of this module's, can hear; the home module answers each with the totals, those
of other modules by a flit. -/
def State.combineReply (s : State) (name : BitVec 20) : State :=
  match s.group? name with
  | none => s
  | some g =>
    let ready (m : Nat) : Bool := (g.sums.any fun c => c.run == m) && (match s.own? m with
      | some run => s.hears run
      | none => true)
    if g.members.isEmpty ∨ !(g.members.all ready) then s
    else
      let tn := (g.sums.map (·.n)).foldl (· + ·) 0
      let tb := (g.sums.map (·.bal)).foldl (· + ·) 0
      let quiet := if g.sums.all (·.atEnd) && tn == 0 && tb == 0 then g.quiet + 1 else 0
      let last := quiet == 2
      let quiet := if last then 0 else quiet
      let s := s.modGroup name fun g =>
        { g with sums := [], quiet := quiet, fixOpen := !last, pass := g.pass + 1, totals := (tn, tb, last) }
      g.sums.foldl (fun s c => match c.back, s.own? c.run with
        | some f, _ => s.tellTotals f g.pass (tn, tb, last)
        | none, some run => State.sumTo tn tb last name s run
        | none, none => s) s

def execCombineSumsReply (group : BitVec 20) (s : State) : Out := .next (s.combineReply group)

/-! ## ROTATE (R119, R245) -/

/-- A relation whose well-formed header says DENSE or SORTED-FIBRE. -/
def State.notHash (s : State) (r : Run) (h : Nat) : Bool :=
  match s.relHdr r.slot h with
  | .ok x => hdrKind x != 1
  | .error _ => false

/-- The owner node does not hold the relation open. -/
def State.notOpen (s : State) (r : Run) (h : Nat) : Bool :=
  match s.relHold r.slot h with
  | some x => !hdrOpen x.hdr
  | none => true

/-- Why ROTATE cannot begin: a header address that is not aligned (06 R105), a DENSE or SORTED-FIBRE relation (R108, R110), one without an
owner, one that is not open. The spec gives no order between them (DESIGN CHOICE, log 118). -/
def State.rotateStop (s : State) (r : Run) (hs : List Nat) : Option WordStop :=
  match hs.find? (fun h => h % 64 != 0), hs.find? (s.notHash r), s.noOwner r hs, hs.find? (s.notOpen r) with
  | some h, _, _, _ => some (.at_ .relhdr h)
  | none, some h, _, _ => some (.at_ .relkind h)
  | none, none, some h, _ => some (.at_ .noowner h)
  | none, none, none, some h => some (.at_ .relnofix h)
  | none, none, none, none => none

def State.rotateWord (s : State) (r : Run) (rlist : Nat) : State :=
  let hs := (s.rlist r rlist).2
  match r.esc.wait with
  | .idle => s.whenDrained r (fun _ => true)
      (match s.rotateStop r hs with
        | some w => s.stopWord r.id w
        | none => s.sendWait r.id (.rotating (hs.map fun _ => (true, false))))
  | .rotating acks => if acks.all (·.1) then s else s.sendWait r.id (.rotating (sendAll acks))
  | _ => s

def execRotate (rlist : BitVec 16) (s : State) : Out :=
  onWord s fun r => notInHandler s r (s.rotateWord r rlist.toNat)

/-- The header after a rotation. -/
def rotated (h : Line) : Line :=
  let d := hdrDelta h
  let h := putFld (putFld h 256 57 (hdrNext h)) 320 57 d
  let h := putFld (putFld h 64 32 (hdrNNext h)) 160 32 0
  putFld h 480 32 (if hdrPass h = 0xFFFFFFFE then 0 else hdrPass h + 1)

/-- The owner node rotates a relation for the run that bound it, and writes the header back. -/
def State.rotateRel (s : State) (r : Run) (va : Nat) : State :=
  match s.relOwner r.slot va, s.relHold r.slot va with
  | some o, some x =>
    if o.run ≠ r.id then s
    else
      let n := hdrNNext x.hdr
      let h := rotated x.hdr
      let s := s.relPut r.slot va h
      let s := match s.vwrite r.slot va (bytesOfLine h) with
        | .ok t => t
        | .error _ => s
      s.modRun r.id fun r => { r with promoted := r.promoted + n }
  | _, _ => s

/-- ROTATE_ACK: the owner of relation `k` of the list answers; after the last of them the word is done. -/
def State.rotateAck (s : State) (run k : Nat) : State :=
  match s.run? run with
  | none => s
  | some r =>
    match r.esc.wait, s.wordAt r with
    | .rotating acks, some (.rotate rlist) =>
      match acks[k]?, (s.rlist r rlist.toNat).2[k]? with
      | some (true, false), some h =>
        if r.st ≠ .resident then s
        else
          let s := s.rotateRel r h
          let acks := setAt acks k (true, true)
          if acks.all (·.2) then s.doneWord run id else s.setWait run (.rotating acks)
      | _, _ => s
    | _, _ => s

def execRotateAck (run k : Nat) (s : State) : Out := .next (s.rotateAck run k)

/-! ## RETRACT (R124, R246, R406) -/

/-- A relation of the list with its header, checked. -/
def State.retractHdr (s : State) (slot va : Nat) : Except WordStop Line :=
  match s.relHdr slot va with
  | .error e => .error (.hdr e va 3)
  | .ok h =>
    if hdrOpen h then .error (.at_ .relbusy va)
    else if !hdrWit h ∨ hdrKind h ≠ 1 then .error (.at_ .relkind va)
    else .ok h

def State.retractHdrs (s : State) (slot : Nat) : List Nat → Except WordStop (List (Nat × Line))
  | [] => .ok []
  | va :: rest => match s.retractHdr slot va with
    | .error w => .error w
    | .ok h => match s.retractHdrs slot rest with
      | .error w => .error w
      | .ok hs => .ok ((va, h) :: hs)

/-- Entries of the retraction list from address `a` on, `n` of them; `k` relations. -/
def State.retractEntries (s : State) (slot k : Nat) : Nat → Nat → Except WordStop (List (BitVec 256))
  | 0, _ => .ok []
  | n + 1, a =>
    match s.vread slot a 32 with
    | .error e => .error (.hdr (.xlat e) a 3)
    | .ok (bs, psn) =>
      let w : BitVec 256 := BitVec.ofNat 256 (bytesNat bs)
      if psn then .error (.hdr (.trap true) a 3)
      else if k ≤ fld w 130 128 ∨ fld w 255 131 ≠ 0 then .error (.at_ .relhdr a)
      else match s.retractEntries slot k n (a + 32) with
        | .error e => .error e
        | .ok rest => .ok (w :: rest)

/-- What RETRACT checks before it marks anything. -/
def State.retractCheck (s : State) (r : Run) (rlist : Nat) (list : W64) : Except WordStop (List (Nat × Line) × List (BitVec 256)) :=
  let a := list.toNat
  if a % 64 ≠ 0 then .error (.at_ .relhdr (a % 2 ^ 57))
  else
    match s.retractHdrs r.slot (s.rlist r rlist).2 with
    | .error w => .error w
    | .ok hs => match s.vread r.slot a 8 with
      | .error e => .error (.hdr (.xlat e) a 3)
      | .ok (bs, psn) =>
        if psn then .error (.hdr (.trap true) a 3)
        else match s.retractEntries r.slot hs.length (min (bytesNat bs) (2 ^ 24)) (a + 64) with
          | .error w => .error w
          | .ok es => .ok (hs, es)

/-- Marks made so far: state, tuples set TENT, why it stopped. -/
structure Marks where
  s    : State
  n    : Nat
  stop : Option WordStop

/-- Sets the tuple of slot `i` TENT, and the header's TENT bit with it. -/
def Marks.mark (m : Marks) (slot va : Nat) (h : Line) (i : Nat) (t : Slot) : Marks :=
  match m.s.putSlot slot (hdrFull h) i ((t &&& ~~~((3 : Slot) <<< 222)) ||| (2 : Slot) <<< 222) with
  | .error e => { m with stop := some (.hdr (.xlat e) va 4) }
  | .ok s =>
    let h := match s.relRaw slot va with
      | .ok h => h
      | .error _ => h
    { m with s := s.relPut slot va (putFld h 41 1 1), n := m.n + 1 }

/-- Step 1: a named tuple; an absent one or one that is not LIVE is skipped. -/
def Marks.named (slot : Nat) (hs : List (Nat × Line)) (m : Marks) (e : BitVec 256) : Marks :=
  match m.stop, hs[fld e 130 128]? with
  | none, some (va, h) =>
    match m.s.find slot h ((List.range (hdrCols h)).map fun c => fld e (32 * c + 31) (32 * c)) with
    | .error x => { m with stop := some (.hdr (.xlat x) va 3) }
    | .ok (.hit i t) => if slotState t = 1 then m.mark slot va h i t else m
    | .ok _ => m
  | _, _ => m

/-- Step 2 at one slot: a LIVE tuple whose witnessed derivation has a TENT positive body tuple. -/
def Marks.scanSlot (slot : Nat) (img : Option Image) (va : Nat) (h : Line) (m : Marks) (i : Nat) : Marks :=
  match m.stop with
  | some _ => m
  | none =>
    match m.s.slotAt slot (hdrFull h) i with
    | .error x => { m with stop := some (.hdr (.xlat x) va 3) }
    | .ok (t, psn) =>
      let num := fld (slotWit t) 31 24
      if psn ∨ slotState t ≠ 1 ∨ num = 0 then m
      else match img.bind (·.rule? num va) with
        | none => { m with stop := some (.at_ .relrule va) }
        | some rule =>
          let tup : Tuple := ⟨slotKeys t (hdrCols h), slotWgt t, 1, i, slotWit t, false⟩
          match m.s.refind slot rule (fun st => st == 1 || st == 2) tup with
          | .error e => { m with stop := some (.hdr e va 3) }
          | .ok none => m
          | .ok (some facs) =>
            let hit := facs.any fun f => !f.neg && (match f.tup with
              | some u => u.state == 2
              | none => false)
            if hit then m.mark slot va h i t else m

/-- Slots i and on of a relation, `fuel` of them. -/
def Marks.scanFrom (slot : Nat) (img : Option Image) (va : Nat) (h : Line) : Nat → Nat → Marks → Marks
  | 0, _, m => m
  | fuel + 1, i, m => Marks.scanFrom slot img va h fuel (i + 1) (m.scanSlot slot img va h i)

/-- Scans the relations until a scan marks nothing; each scan but the last marks one of the `fuel` tuples there may be. -/
def Marks.scans (slot : Nat) (img : Option Image) (hs : List (Nat × Line)) : Nat → Marks → Marks
  | 0, m => m
  | fuel + 1, m =>
    let m' := hs.foldl (fun m x => Marks.scanFrom slot img x.1 x.2 (2 ^ hdrLcap x.2) 0 m) m
    if m'.n = m.n ∨ m'.stop.isSome then m' else Marks.scans slot img hs fuel m'

/-- RETRACT checks, then waits for the relational engine. -/
def State.retractWord (s : State) (r : Run) (gb : BitVec 6) (rlist : Nat) : State :=
  match r.esc.wait with
  | .retracting => s
  | _ => match s.retractCheck r rlist (r.getG gb) with
    | .error w => s.stopWord r.id w
    | .ok _ => s.setWait r.id .retracting

def execRetract (_ga gb : BitVec 6) (rlist : BitVec 16) (s : State) : Out :=
  onWord s fun r => notInHandler s r (s.retractWord r gb rlist.toNat)

/-- RETRACT_COMPLETE: the marks are made. -/
def State.retractComplete (s : State) (run : Nat) : State :=
  match s.run? run with
  | none => s
  | some r =>
    match r.esc.wait, s.wordAt r with
    | .retracting, some (.retract ga gb rlist) =>
      if r.st ≠ .resident then s
      else match s.retractCheck r rlist.toNat (r.getG gb) with
        | .error w => (s.setWait run .idle).stopWord run w
        | .ok (hs, es) =>
          let total := (hs.map fun x => 2 ^ hdrLcap x.2).foldl (· + ·) 1
          let m := Marks.scans r.slot (s.image? r) hs total (es.foldl (Marks.named r.slot hs) ⟨s, 0, none⟩)
          match m.stop with
          | some w => (m.s.setWait run .idle).stopWord run w
          | none => m.s.doneWord run fun r => r.setG ga (BitVec.ofNat 64 m.n)
    | _, _ => s

def execRetractComplete (run : Nat) (s : State) : Out := .next (s.retractComplete run)

/-! ## Lost requests (03 R56) -/

/-- FIXLOST at the word, the sent bit of the lost request cleared. -/
def State.fixLost (s : State) (run : Nat) (w : Wait) : State :=
  (s.setWait run w).takeTrap run .fixlost (FaultInfo.atWord .fixlost)

/-- REQUEST_LOST: the network answers that a request to another module cannot be delivered, or no reply came within 2^24 cycles. -/
def State.requestLost (s : State) (run : Nat) (cause : LostCause) : State :=
  match s.run? run with
  | none => s
  | some r =>
    let late := match cause with
      | .timeout => decide (r.esc.sentAt + 2 ^ 24 ≤ r.cycles)
      | .undeliverable => false
    let far (v : W64) : Bool := cause == .undeliverable && s.farGroup v
    if !r.issues then s
    else match r.esc.wait, s.wordAt r with
      | .sent _, some (.join _ gb) => if late || far (r.getG gb) then s.lostGroup r else s
      | .sent _, some (.leave _ gb) => if late || far (r.getG gb) then s.lostGroup r else s
      | .opening acks, _ => if late && acks.any (fun a => a.1 && !a.2) then s.fixLost run (.opening (clearSent acks)) else s
      | .rotating acks, _ => if late && acks.any (fun a => a.1 && !a.2) then s.fixLost run (.rotating (clearSent acks)) else s
      | .sum, some (.fixb gb rlist grp) =>
        if late || far ((s.fixGroup r gb grp.toNat).setWidth 64) then
          s.fixLost run (.opening ((s.rlist r rlist.toNat).2.map fun _ => (true, true)))
        else s
      | .sum, some (.fixe _ gb grp) =>
        if late || far ((s.fixGroup r gb grp.toNat).setWidth 64) then s.fixLost run .idle else s
      | _, _ => s

def execRequestLost (run : Nat) (cause : LostCause) (s : State) : Out := .next (s.requestLost run cause)

end Sys2Proof.Machine
end

