-- ==== Sys2Proof/Machine/Messages.lean ====
section
/-! DEFINITION. The flits of messages between modules: MSG, MSGACK and REL, which carry messages of runs (13 R281 to R283) and what members
of a group and its home module say to each other (03 R42, R43, R56, 06 R122, 13 R293, R294; layouts by log 33 and 36). -/

namespace Sys2Proof.Machine

/-! ## At a group's home module -/

/-- A request of a run of another module at a group of this one. -/
def State.groupFlit (s : State) (k : Nat) (f : Flit) : State :=
  let name : BitVec 20 := f.payload.setWidth 20
  let mute := f.payload.getLsbD 20
  let who := fld f.payload 63 32
  let n := fld f.payload 127 64
  let bal := (f.payload.extractLsb' 128 64 : W64).toInt
  let pass := fld f.payload 223 192
  let answer (st pass : Nat) (s : State) : State :=
    if mute then s else s.replyFlit 8 f 0 0 8 (BitVec.ofNat 512 (st + pass * 2 ^ 32))
  match f.aop.toNat with
  | 0x0E =>
    let (st, s) := s.joinHere who (f.payload.getLsbD 21) name
    answer st (((s.group? name).map (·.pass)).getD 0) s
  | 0x0F =>
    let (st, s) := s.partHere who name
    answer st 0 s
  | 0x1B => s.contributeHere name ⟨who, n, bal, false, some f⟩ pass
  | 0x1C => s.contributeHere name ⟨who, n, bal, true, some f⟩ pass
  | 0xE0 =>
    if ((s.group? name).map fun g => g.members.contains who).getD false then s.arriveAt name who (.flit k f) else answer 6 0 s
  | 0xE1 => if ((s.group? name).map fun g => g.members.contains who).getD false then s.dropAt name who else s
  | _ => s

/-- MSG: a request to a group, by its AOP; else the envelope of a message, then its payload under the same tag (log 36). -/
def State.msgFlit (s : State) (k : Nat) (f : Flit) : State :=
  if !s.receives k f then s
  else match s.link? k with
    | none => s
    | some l =>
      if linkQuar l.stat || linkLock l.stat then s.replyFlit 8 f 2 5 0 0
      else if f.aop ≠ 0 then s.groupFlit k f
      else if f.addr = 0 then
        let dst := fld f.payload 63 32
        let die := ((s.run? (dst % 65536)).map (·.die)).getD 0
        let m : Msg := ⟨die, fld f.payload 31 0, dst % 65536, f.payload.extractLsb' 64 32, fld f.payload 127 96, [], [], 0, false, 0, none, some f⟩
        { s with eng := { s.eng with arrivals := s.eng.arrivals ++ [m] } }
      else
        let mine (m : Msg) : Bool := match m.back with
          | some g => g.tag == f.tag && g.src == f.src && decide (m.bytes.length < m.len)
          | none => false
        let add (m : Msg) : Msg := { m with bytes := m.bytes ++ natBytes f.len.toNat f.payload.toNat, poison := if f.stat = 3 then m.poison ++ [m.bytes.length / 64] else m.poison }
        let as := s.eng.arrivals.map fun m => if mine m then add m else m
        { s with eng := { s.eng with arrivals := as } }

def execMsg (link : Nat) (f : Flit) (s : State) : Out := .next (s.msgFlit link f)

/-! ## At a member's module -/

/-- The home module's answer to a JOIN or LEAVE (03 R43). The membership follows it even when the word has given up (R56). -/
def State.groupAnswer (s : State) (req : Nat) (f : Flit) : State :=
  match s.adm.greqs.findIdx? fun q => q.id == req && q.far && !q.arrived with
  | none => s
  | some k => match s.adm.greqs[k]? with
    | none => s
    | some q =>
      if f.stat = 2 then s.answerGroup k 9 0
      else
        let st := fld f.payload 31 0
        let name : BitVec 20 := q.group.setWidth 20
        let s := s.answerGroup k st 0
        if q.join then (if st = 0 then s.enrol q.run name (fld f.payload 63 32) else s)
        else if st = 0 ∨ st = 7 then s.forgetGroup q.run name
        else s

/-- The totals of a combining sum reach a member of another module's group; those of another pass are of a request sent again. -/
def State.totalsAnswer (s : State) (run : Nat) (f : Flit) : State :=
  match s.run? run with
  | none => s
  | some r =>
    let name : BitVec 20 := match s.wordAt r with
      | some (.fixb gb _ grp) => s.fixGroup r gb grp.toNat
      | some (.fixe _ gb grp) => s.fixGroup r gb grp.toNat
      | _ => 0
    let pass := fld f.payload 191 160
    if f.stat = 2 then s.requestLost run .undeliverable
    else if r.passes.any fun p => p.1 == name && p.2 == pass then
      let s := s.modRun run fun r => { r with passes := r.passes.map fun p => if p.1 = name then (name, pass + 1) else p }
      State.sumTo (fld f.payload 63 0) (f.payload.extractLsb' 64 64 : W64).toInt (f.payload.getLsbD 128) name s run
    else s

/-- A barrier's home module knows no such member: BARGRP (13 R293). -/
def State.arrivalRefused (s : State) (e : ElemRef) (rid : Nat) : State :=
  (s.undoPlaces e.run [(e, rid)]).takeTrap e.run .bargrp (s.elemInfo e Trap.bargrp.code 1)

/-- The flit answers a combining sum of a run that cannot take totals now: it is frozen, its word put aside or under the handler. -/
def State.sumWaits (s : State) (f : Flit) : Bool :=
  match s.chip.tags.find? fun t => t.tag == f.tag.toNat && t.modn == f.src.toNat with
  | some t => (match t.what with
    | .sum run => (match s.run? run with
      | some r => r.st == .frozen && (r.esc.wait == .sum || r.esc.handler.isSome)
      | none => false)
    | _ => false)
  | none => false

/-- MSGACK: the status of a SEND, 5 when a link that is shut leaves it undeliverable; or what a group's home module answers. Totals for a
run that cannot take them now are not taken, and the event comes again. -/
def State.msgack (s : State) (k : Nat) (f : Flit) : State :=
  if s.sumWaits f then s
  else s.reply k f fun t s => match t.what with
    | .acc id => match s.req? id with
      | some q => s.statusReq q (if f.stat = 2 then 5 else fld f.payload 7 0)
      | none => s
    | .group req => s.groupAnswer req f
    | .sum run => if s.hears run then s.totalsAnswer run f else s
    | .place e rid => if f.stat = 2 then s else s.arrivalRefused e rid
    | _ => s

def execMsgack (link : Nat) (f : Flit) (s : State) : Out := .next (s.msgack link f)

/-- REL: a group's home module releases its barrier, with the phase number (13 R293), to the arrival that its tag names. -/
def State.relFlit (s : State) (k : Nat) (f : Flit) : State :=
  s.reply k f fun t s => match t.what with
    | .place e rid => s.releasePlace e rid (fld f.payload 63 32)
    | _ => s

def execRel (link : Nat) (f : Flit) (s : State) : Out := .next (s.relFlit link f)

end Sys2Proof.Machine
end

