-- ==== Sys2Proof/Machine/Fabric.lean ====
section
/-! DEFINITION. The meaning of a fabric instruction by its word, for those that ask whether an element can fire (04 R76 to R78). -/

namespace Sys2Proof.Machine

/-- What the firing of an element does; a word of the sequence, or an event, is no element's. -/
def fabExec (i : Instr) (s : State) : Out :=
  match i with
  | .add f => execAdd f s
  | .sub f => execSub f s
  | .mul f => execMul f s
  | .mulh f => execMulh f s
  | .mulhu f => execMulhu f s
  | .div f => execDiv f s
  | .divu f => execDivu f s
  | .rem f => execRem f s
  | .remu f => execRemu f s
  | .and f => execAnd f s
  | .or f => execOr f s
  | .xor f => execXor f s
  | .andn f => execAndn f s
  | .shl f => execShl f s
  | .shr f => execShr f s
  | .sar f => execSar f s
  | .rol f => execRol f s
  | .ror f => execRor f s
  | .clz f => execClz f s
  | .popc f => execPopc f s
  | .min f => execMin f s
  | .max f => execMax f s
  | .minu f => execMinu f s
  | .maxu f => execMaxu f s
  | .ceq f => execCeq f s
  | .cne f => execCne f s
  | .clt f => execClt f s
  | .cle f => execCle f s
  | .cgt f => execCgt f s
  | .cge f => execCge f s
  | .cltu f => execCltu f s
  | .cgeu f => execCgeu f s
  | .mov f => execMov f s
  | .agen f => execAgen f s
  | .constk f => execConstk f s
  | .steer f => execSteer f s
  | .merge f => execMerge f s
  | .cmerge f => execCmerge f s
  | .copy f => execCopy f s
  | .gate f => execGate f s
  | .ctr f => execCtr f s
  | .ctrRoot f => execCtrRoot f s
  | .drop f => execDrop f s
  | .sink f => execSink f s
  | .sinkEsc f => execSinkEsc f s
  | .acc f => execAcc f s
  | .accmax f => execAccmax f s
  | .accmin f => execAccmin f s
  | .vadd f => execVadd f s
  | .vsub f => execVsub f s
  | .vmul f => execVmul f s
  | .vfma f => execVfma f s
  | .vfms f => execVfms f s
  | .vmin f => execVmin f s
  | .vmax f => execVmax f s
  | .vabs f => execVabs f s
  | .vneg f => execVneg f s
  | .vcmp f => execVcmp f s
  | .vblend f => execVblend f s
  | .vand f => execVand f s
  | .vor f => execVor f s
  | .vxor f => execVxor f s
  | .vshl f => execVshl f s
  | .vcvt f => execVcvt f s
  | .vred f => execVred f s
  | .vredmax f => execVredmax f s
  | .vredmin f => execVredmin f s
  | .vscan f => execVscan f s
  | .vshuf f => execVshuf f s
  | .vmaxr f => execVmaxr f s
  | .vamax f => execVamax f s
  | .vscale f => execVscale f s
  | .vrcp f => execVrcp f s
  | .vrsq f => execVrsq f s
  | .vexp2 f => execVexp2 f s
  | .vlog2 f => execVlog2 f s
  | .vsfn f => execVsfn f s
  | .vsfnD f => execVsfnD f s
  | .vquant f => execVquant f s
  | .vdeq f => execVdeq f s
  | .vpackCode f => execVpackCode f s
  | .vpackRaw f => execVpackRaw f s
  | .vunpk f => execVunpk f s
  | .rob f => execRob f s
  | .robT f => execRobT f s
  | .mma f => execMma f s
  | .mopf f => execMopf f s
  | .mdrain f => execMdrain f s
  | .mdrainAll f => execMdrainAll f s
  | .hprobe f => execHprobe f s
  | .insnew f => execInsnew f s
  | .rpart f => execRpart f s
  | .agg f => execAgg f s
  | .negate f => execNegate f s
  | .gradb f => execGradb f s
  | .rscan f => execRscan f s
  | .dlbind f => execDlbind f s
  | .dlmul f => execDlmul f s
  | .dlref f => execDlref f s
  | .dldrop f => execDldrop f s
  | .bscore f => execBscore f s
  | .topkb f => execTopkb f s
  | .attnacc f => execAttnacc f s
  | .evict f => execEvict f s
  | .evictReset f => execEvictReset f s
  | .ld f => execLd f s
  | .st f => execSt f s
  | .lda f => execLda f s
  | .stl f => execStl f s
  | .ldsync f => execLdsync f s
  | .sete f => execSete f s
  | .fence f => execFence f s
  | .ldx f => execLdx f s
  | .stx f => execStx f s
  | .fadd f => execFadd f s
  | .fadd64 f => execFadd64 f s
  | .amax f => execAmax f s
  | .amin f => execAmin f s
  | .aswap f => execAswap f s
  | .acas f => execAcas f s
  | .aor f => execAor f s
  | .aand f => execAand f s
  | .amaxr f => execAmaxr f s
  | .ownerRange f => execOwnerRange f s
  | .ownerRel f => execOwnerRel f s
  | .ownerFree f => execOwnerFree f s
  | .waita f => execWaita f s
  | .wakea f => execWakea f s
  | .xfer f => execXfer f s
  | .stash f => execStash f s
  | .unstash f => execUnstash f s
  | .pin f => execPin f s
  | .unpin f => execUnpin f s
  | .send f => execSend f s
  | .postr f => execPostr f s
  | .probeq f => execProbeq f s
  | .cancelr f => execCancelr f s
  | .ingress f => execIngress f s
  | .egress f => execEgress f s
  | .strmi f => execStrmi f s
  | .strmo f => execStrmo f s
  | .barj f => execBarj f s
  | .barjGrp f => execBarjGrp f s
  | .bardrop f => execBardrop f s
  | .bardropGrp f => execBardropGrp f s
  | .trap f => execTrap f s
  | .brk f => execBrk f s
  | .rdtime f => execRdtime f s
  | .rdcyc f => execRdcyc f s
  | .rdsys f => execRdsys f s
  | .wrsys f => execWrsys f s
  | .freeze f => execFreeze f s
  | .thaw f => execThaw f s
  | .readout f => execReadout f s
  | .restore f => execRestore f s
  | .grant f => execGrant f s
  | _ => .next s

/-- The element could fire now, or hand on a result: its turn would change something. -/
def State.canFire (s : State) (e : ElemRef) : Bool :=
  match (s.site e).bind fun h => instrAt h.blk e.idx with
  | none => false
  | some i =>
    let t : State := { s with focus := some ⟨e.run, some e⟩ }
    match fabExec i t with
    | .next u => decide (u.runs ≠ t.runs)
    | _ => false

end Sys2Proof.Machine
end

