-- ==== Sys2Proof/Machine/Watchdog.lean ====
section
/-! DEFINITION. The watchdog of a region and its Cruise probe (04 R76 to R79). -/

namespace Sys2Proof.Machine

/-- Elements of the configurations that run in the active plane, with page, quadrant, tile and UNIT as one number. -/
def State.regionElems (_s : State) (r : Run) : List (Nat × ElemRef) :=
  (r.plane r.act).loads.zipIdx.flatMap fun l => if !l.1.running then [] else
    l.1.blks.zipIdx.flatMap fun b => (List.range b.1.words.length).filterMap fun i =>
      (fabAt b.1 i).map fun f => ((b.1.page * 4 + b.1.quad) * 256 + f.2.tile.toNat * 16 + f.2.unit.toNat, ⟨r.id, r.act, l.2, b.2, i⟩)

/-- The first of a list of numbered elements. -/
def firstElem (l : List (Nat × ElemRef)) : Option ElemRef :=
  (l.foldl (fun (a : Option (Nat × ElemRef)) x => match a with
    | none => some x
    | some y => if x.1 < y.1 then some x else some y) none).map (·.2)

/-- Why a probe ends without a cycle (R78); the causes of LONGWAIT are 1 to 6 (log 44). -/
inductive ProbeStop where
  | fires
  | wait (cause : Nat)
  deriving DecidableEq, Repr

def causeRemote : Nat := 1
def causeHost : Nat := 2
def causeMsg : Nat := 3
def causeReply : Nat := 4
def causeFrozen : Nat := 5
def causeLimit : Nat := 6

/-- The partner of a stream element in its run: the other end of its Skid buffer (13 R292). -/
def State.streamPeer (s : State) (r : Run) (o : Nat) (w : W64) : Option ElemRef :=
  firstElem ((s.regionElems r).filter fun q => match s.site q.2 with
    | none => false
    | some h => wordOpc h.word == o && h.blk.poolW (fld h.word 9 0) == w)

/-- A matrix node's i0 holds the beginning of an operation only (12 R235, R257). -/
def opBegun (h : Here) (o : Nat) : Bool :=
  let n := match (h.elem.queue 0).head? with
    | none => 1
    | some t => if o = 0xA1 ∨ mmaOp t.word = 0 then 3 else if mmaOp t.word = 1 then 4 else 1
  (o == 0x90 || o == 0xA1) && decide ((firstPos n (h.elem.queue 0)).length < n)

/-- Inputs that the next firing needs and lacks: the lowest of those that it needs all; else, of inputs of which any one would do, all
(R77). -/
def lacks (h : Here) (o : Nat) (f : Fab) (idx : Nat) : List Nat :=
  let has (k : Nat) : Bool := !(h.elem.queue k).isEmpty
  let linked (k : Nat) : Bool := (linkInto h.blk idx k).isSome
  let need := h.elem.needs h.blk.tx o f has
  match need.1.filter fun k => linked k && !has k with
  | k :: _ => [k]
  | [] =>
    if !need.2.isEmpty && !need.2.any has then need.2.filter linked
    else if opBegun h o then [0]
    else []

/-- Outputs without a free slot, in order: those that the firing, or the drain in hand, has to have a slot at. -/
def fullOutputs (h : Here) (ref : ElemRef) (cyc : Nat) (i : Instr) (f : Fab) : List Nat :=
  let routes (k : Nat) : Bool := match h.elem.ctl with
    | .drain (some d) => d.rtmask.testBit k
    | _ => true
  (List.range 8).filterMap fun k => if h.elem.spares (opcodeOf i) k || !routes k then none else match conOf h.blk i f k with
    | none => none
    | some c => if hasRoom h.load ref.blk h.blk cyc ref.idx c 1 then none else some c.idx.toNat

/-- The run waits at the port tile of an element: the element's accesses and requests, or those that fill the port. -/
def State.portWaits (s : State) (r : Run) (ref : ElemRef) (port : Nat) (ready : Bool) : Bool :=
  s.ord.accs.any (fun a => a.elem == ref) || s.ord.reqs.any (fun q => q.elem == ref && !q.finished)
    || (ready && s.ord.accs.any fun a => a.run == r.id && a.port == port)

/-- Where a probe that left in cycle `since` goes on from an element: the next elements, or why it stops. -/
def State.probeStep (s : State) (since : Nat) (ref : ElemRef) : ProbeStop ⊕ List ElemRef :=
  match s.site ref with
  | none => .inl .fires
  | some h =>
    match instrAt h.blk ref.idx with
    | none => .inl .fires
    | some i =>
      match fabOf i with
      | none => .inl .fires
      | some f =>
        let o := opcodeOf i
        let lk := lacks h o f ref.idx
        let at_ (k : Nat) : ElemRef := { ref with idx := k }
        let stream := o = 0xDA ∨ o = 0xDB
        let chan := fld f.imm 3 0
        if h.run.st ≠ .resident then .inl (.wait causeFrozen)
        else if since < h.elem.firedAt || s.canFire ref then .inl .fires
        else if o = 0xD8 ∧ chan = 0 ∧ h.run.inq.isEmpty then .inl (.wait causeHost)
        else if o = 0xD8 ∧ chan ≠ 0 ∧ (h.run.comps.getD chan []).isEmpty then .inl (.wait causeMsg)
        -- a stream element that a circuit feeds, or drains, waits for the partner module (24 R386)
        else if stream ∧ (s.circuitOf h.run.id (fld (h.blk.poolW (fld f.imm 9 0)) 5 0) (o == 0xDB)).isSome
            ∧ (if o = 0xDA then (h.run.skidOf (fld (h.blk.poolW (fld f.imm 9 0)) 5 0)).isEmpty else lk.isEmpty)
        then .inl (.wait causeRemote)
        else if f.unit = 15 ∧ ¬ stream ∧ s.portWaits h.run ref (fld f.imm 19 16) lk.isEmpty then .inl (.wait causeRemote)
        else
          let back := (lk.filterMap fun k => (linkInto h.blk ref.idx k).map fun l => at_ l.1)
          let peer (p : Nat) : List ElemRef := (s.streamPeer h.run p (h.blk.poolW (fld f.imm 9 0))).toList
          let out := (fullOutputs h ref s.cycle i f).take 1
          let nxt := if !back.isEmpty then back
            else if o = 0xDA ∧ (h.run.skidOf (fld (h.blk.poolW (fld f.imm 9 0)) 5 0)).isEmpty then peer 0xDB
            else if !out.isEmpty then out.map at_
            else if o = 0xDB then peer 0xDA
            else []
          if nxt.isEmpty then .inl .fires else .inr nxt

/-- How a branch ends: a cycle in path order, no event, or a long wait at an element. -/
inductive BranchEnd where
  | cycle (path : List ElemRef)
  | fires
  | wait (cause : Nat) (at_ : ElemRef)
  deriving DecidableEq, Repr

/-- Follows the branches in hand, each a path with the newest element first; `hops` and `branches` so far. -/
def State.probeWalk (s : State) (since : Nat) : Nat → Nat → Nat → List (List ElemRef) → List BranchEnd
  | 0, _, _, _ => []
  | _, _, _, [] => []
  | fuel + 1, hops, branches, path :: rest =>
    match path with
    | [] => s.probeWalk since fuel hops branches rest
    | x :: _ =>
      match s.probeStep since x with
      | .inl .fires => .fires :: s.probeWalk since fuel hops branches rest
      | .inl (.wait c) => .wait c x :: s.probeWalk since fuel hops branches rest
      | .inr nxt =>
        let branches := branches + nxt.length - 1
        let hops := hops + nxt.length
        let ends := nxt.filterMap fun y =>
          if path.contains y then some (BranchEnd.cycle ((path.takeWhile (· != y)) ++ [y]).reverse)
          else if 256 < hops ∨ 16 < branches then some (.wait causeLimit y)
          else none
        let more := if 256 < hops ∨ 16 < branches then [] else (nxt.filter fun y => !path.contains y).map fun y => y :: path
        ends ++ s.probeWalk since fuel hops branches (rest ++ more)

/-- The element holds a token or an elided position and cannot fire (R76). -/
def State.blockedAt (s : State) (e : ElemRef) : Bool :=
  match s.site e with
  | none => false
  | some h => (h.elem.q.any (fun l => !l.isEmpty) || h.elem.out.any (fun i => !i.emits.isEmpty)) && !s.canFire e

/-- The first blocked element of a region. -/
def State.firstBlocked (s : State) (r : Run) : Option ElemRef := firstElem ((s.regionElems r).filter fun q => s.blockedAt q.2)

/-- What a probe that starts at the escapement finds (R77): an element to go on from, or why it ends. -/
def State.probeEscapement (s : State) (r : Run) : ProbeStop ⊕ ElemRef :=
  if r.st ≠ .resident then .inl (.wait causeFrozen)
  else match r.esc.wait with
    | .sent _ | .sum | .opening _ | .rotating _ => .inl (.wait causeReply)
    | _ => match s.wordAt r with
      | some (.waittok _ e) =>
        if (r.esc.e.getD e.toNat []).isEmpty then
          match firstElem ((s.regionElems r).filter fun q => match s.site q.2 with
            | none => false
            | some h => wordOpc h.word == 0x4F && fld h.word 21 20 == 1 && fld h.word 2 0 == e.toNat) with
          | some x => .inr x
          | none => .inl .fires
        else .inl .fires
      | _ => .inl .fires

/-- The outcome over all branches (R78). -/
def probeOutcome (ends : List BranchEnd) : BranchEnd :=
  if ends.contains .fires then .fires
  else match ends.find? fun e => match e with
      | .wait _ _ => true
      | _ => false with
    | some e => e
    | none => ends.headD .fires

/-- WATCHDOG_EXPIRY: 2^20 cycles without a firing; the probe leaves from the first blocked element, or from the escapement. -/
def State.watchdog (s : State) (run : Nat) : State :=
  match s.run? run with
  | none => s
  | some r => if r.st = .resident ∧ 2 ^ 20 ≤ r.idle ∧ r.probing.isNone then
    let e := s.firstBlocked r
    s.modRun run fun r => { r with probing := some (s.cycle, e) }
  else s

def execWatchdogExpiry (run : Nat) (s : State) : Out := .next (s.watchdog run)

/-- Site, index and block of an element, as a fault record names it. -/
def State.siteOf (s : State) (e : ElemRef) : Nat × Nat × Nat :=
  match s.site e with
  | none => (0, e.idx, e.blk)
  | some h => (siteCode h.blk (bareFab h.word), e.idx, e.blk)

/-- LONGWAIT goes to the error log with its cause and the element reached. -/
def State.longWait (s : State) (r : Run) (cause : Nat) (e : Option ElemRef) : State :=
  let site := e.map fun e => (s.siteOf e).1
  (s.logEvent r.die 0x313 none (some (s.identity r.id)) site (some cause) none).modRun r.id fun r => { r with idle := 0 }

/-- DEADLOCK freezes the region, with the elements of the cycle in the record. -/
def State.deadlock (s : State) (run : Nat) (cyc : List ElemRef) : State :=
  let es := cyc.map s.siteOf
  let first := es.headD (0, 0, 0)
  s.takeTrap run .deadlock { FaultInfo.base Trap.deadlock.code 1 with
    flags := if 16 < es.length then 4 else 0
    site := first.1, idx := first.2.1, blk := first.2.2, cyc := es }

/-- CRUISE_PROBE_END. -/
def State.probeEnd (s : State) (run : Nat) : State :=
  match s.run? run with
  | none => s
  | some r =>
    match r.probing with
    | none => s
    | some (since, origin) =>
      let s := s.modRun run fun r => { r with probing := none }
      let calm (s : State) : State := s.modRun run fun r => { r with idle := 0 }
      match (match origin with
        | some e => .inr e
        | none => s.probeEscapement r : ProbeStop ⊕ ElemRef) with
      | .inl .fires => calm s
      | .inl (.wait c) => s.longWait r c none
      | .inr e =>
        match probeOutcome (s.probeWalk since 600 0 1 [[e]]) with
        | .fires => calm s
        | .wait c x => s.longWait r c (some x)
        | .cycle p => s.deadlock run p

def execCruiseProbeEnd (run : Nat) (s : State) : Out := .next (s.probeEnd run)

end Sys2Proof.Machine
end

