-- ==== Sys2Proof/Machine/Dispatch.lean ====
section
/-! DEFINITION. The dispatch: one arm for each instruction and event, each a direct call of its meaning. -/

namespace Sys2Proof.Machine

def exec (i : Instr) (s : State) : Host.Outcome State Fault Refusal :=
  match i with
  | .seqEnd => Sys2Proof.Machine.execSeqEnd s
  | .conf cfg => Sys2Proof.Machine.execConf cfg s
  | .shadow ga cfg => Sys2Proof.Machine.execShadow ga cfg s
  | .swap => Sys2Proof.Machine.execSwap s
  | .phase => Sys2Proof.Machine.execPhase s
  | .stream gb port gen entry => Sys2Proof.Machine.execStream gb port gen entry s
  | .iter gb count => Sys2Proof.Machine.execIter gb count s
  | .loop gb kind depth count => Sys2Proof.Machine.execLoop gb kind depth count s
  | .endl => Sys2Proof.Machine.execEndl s
  | .br off => Sys2Proof.Machine.execBr off s
  | .brz ga off => Sys2Proof.Machine.execBrz ga off s
  | .brnz ga off => Sys2Proof.Machine.execBrnz ga off s
  | .waittok ga e => Sys2Proof.Machine.execWaittok ga e s
  | .join ga gb => Sys2Proof.Machine.execJoin ga gb s
  | .leave ga gb => Sys2Proof.Machine.execLeave ga gb s
  | .launch ga gb gc => Sys2Proof.Machine.execLaunch ga gb gc s
  | .traps code => Sys2Proof.Machine.execTraps code s
  | .gli ga imm => Sys2Proof.Machine.execGli ga imm s
  | .gadd ga gb gc imm => Sys2Proof.Machine.execGadd ga gb gc imm s
  | .gsub ga gb gc imm => Sys2Proof.Machine.execGsub ga gb gc imm s
  | .gand ga gb gc imm => Sys2Proof.Machine.execGand ga gb gc imm s
  | .gor ga gb gc imm => Sys2Proof.Machine.execGor ga gb gc imm s
  | .gxor ga gb gc imm => Sys2Proof.Machine.execGxor ga gb gc imm s
  | .gshl ga gb gc imm => Sys2Proof.Machine.execGshl ga gb gc imm s
  | .gshr ga gb gc imm => Sys2Proof.Machine.execGshr ga gb gc imm s
  | .gslt ga gb gc imm => Sys2Proof.Machine.execGslt ga gb gc imm s
  | .fixb gb rlist grp => Sys2Proof.Machine.execFixb gb rlist grp s
  | .fixe ga gb grp => Sys2Proof.Machine.execFixe ga gb grp s
  | .rule cfg num => Sys2Proof.Machine.execRule cfg num s
  | .ruleFull cfg num => Sys2Proof.Machine.execRuleFull cfg num s
  | .rotate rlist => Sys2Proof.Machine.execRotate rlist s
  | .retract ga gb rlist => Sys2Proof.Machine.execRetract ga gb rlist s
  | .add f => Sys2Proof.Machine.execAdd f s
  | .sub f => Sys2Proof.Machine.execSub f s
  | .mul f => Sys2Proof.Machine.execMul f s
  | .mulh f => Sys2Proof.Machine.execMulh f s
  | .mulhu f => Sys2Proof.Machine.execMulhu f s
  | .div f => Sys2Proof.Machine.execDiv f s
  | .divu f => Sys2Proof.Machine.execDivu f s
  | .rem f => Sys2Proof.Machine.execRem f s
  | .remu f => Sys2Proof.Machine.execRemu f s
  | .and f => Sys2Proof.Machine.execAnd f s
  | .or f => Sys2Proof.Machine.execOr f s
  | .xor f => Sys2Proof.Machine.execXor f s
  | .andn f => Sys2Proof.Machine.execAndn f s
  | .shl f => Sys2Proof.Machine.execShl f s
  | .shr f => Sys2Proof.Machine.execShr f s
  | .sar f => Sys2Proof.Machine.execSar f s
  | .rol f => Sys2Proof.Machine.execRol f s
  | .ror f => Sys2Proof.Machine.execRor f s
  | .clz f => Sys2Proof.Machine.execClz f s
  | .popc f => Sys2Proof.Machine.execPopc f s
  | .min f => Sys2Proof.Machine.execMin f s
  | .max f => Sys2Proof.Machine.execMax f s
  | .minu f => Sys2Proof.Machine.execMinu f s
  | .maxu f => Sys2Proof.Machine.execMaxu f s
  | .ceq f => Sys2Proof.Machine.execCeq f s
  | .cne f => Sys2Proof.Machine.execCne f s
  | .clt f => Sys2Proof.Machine.execClt f s
  | .cle f => Sys2Proof.Machine.execCle f s
  | .cgt f => Sys2Proof.Machine.execCgt f s
  | .cge f => Sys2Proof.Machine.execCge f s
  | .cltu f => Sys2Proof.Machine.execCltu f s
  | .cgeu f => Sys2Proof.Machine.execCgeu f s
  | .mov f => Sys2Proof.Machine.execMov f s
  | .agen f => Sys2Proof.Machine.execAgen f s
  | .constk f => Sys2Proof.Machine.execConstk f s
  | .steer f => Sys2Proof.Machine.execSteer f s
  | .merge f => Sys2Proof.Machine.execMerge f s
  | .cmerge f => Sys2Proof.Machine.execCmerge f s
  | .copy f => Sys2Proof.Machine.execCopy f s
  | .gate f => Sys2Proof.Machine.execGate f s
  | .ctr f => Sys2Proof.Machine.execCtr f s
  | .ctrRoot f => Sys2Proof.Machine.execCtrRoot f s
  | .drop f => Sys2Proof.Machine.execDrop f s
  | .sink f => Sys2Proof.Machine.execSink f s
  | .sinkEsc f => Sys2Proof.Machine.execSinkEsc f s
  | .acc f => Sys2Proof.Machine.execAcc f s
  | .accmax f => Sys2Proof.Machine.execAccmax f s
  | .accmin f => Sys2Proof.Machine.execAccmin f s
  | .vadd f => Sys2Proof.Machine.execVadd f s
  | .vsub f => Sys2Proof.Machine.execVsub f s
  | .vmul f => Sys2Proof.Machine.execVmul f s
  | .vfma f => Sys2Proof.Machine.execVfma f s
  | .vfms f => Sys2Proof.Machine.execVfms f s
  | .vmin f => Sys2Proof.Machine.execVmin f s
  | .vmax f => Sys2Proof.Machine.execVmax f s
  | .vabs f => Sys2Proof.Machine.execVabs f s
  | .vneg f => Sys2Proof.Machine.execVneg f s
  | .vcmp f => Sys2Proof.Machine.execVcmp f s
  | .vblend f => Sys2Proof.Machine.execVblend f s
  | .vand f => Sys2Proof.Machine.execVand f s
  | .vor f => Sys2Proof.Machine.execVor f s
  | .vxor f => Sys2Proof.Machine.execVxor f s
  | .vshl f => Sys2Proof.Machine.execVshl f s
  | .vcvt f => Sys2Proof.Machine.execVcvt f s
  | .vred f => Sys2Proof.Machine.execVred f s
  | .vredmax f => Sys2Proof.Machine.execVredmax f s
  | .vredmin f => Sys2Proof.Machine.execVredmin f s
  | .vscan f => Sys2Proof.Machine.execVscan f s
  | .vshuf f => Sys2Proof.Machine.execVshuf f s
  | .vmaxr f => Sys2Proof.Machine.execVmaxr f s
  | .vamax f => Sys2Proof.Machine.execVamax f s
  | .vscale f => Sys2Proof.Machine.execVscale f s
  | .vrcp f => Sys2Proof.Machine.execVrcp f s
  | .vrsq f => Sys2Proof.Machine.execVrsq f s
  | .vexp2 f => Sys2Proof.Machine.execVexp2 f s
  | .vlog2 f => Sys2Proof.Machine.execVlog2 f s
  | .vsfn f => Sys2Proof.Machine.execVsfn f s
  | .vsfnD f => Sys2Proof.Machine.execVsfnD f s
  | .vquant f => Sys2Proof.Machine.execVquant f s
  | .vdeq f => Sys2Proof.Machine.execVdeq f s
  | .vpackCode f => Sys2Proof.Machine.execVpackCode f s
  | .vpackRaw f => Sys2Proof.Machine.execVpackRaw f s
  | .vunpk f => Sys2Proof.Machine.execVunpk f s
  | .rob f => Sys2Proof.Machine.execRob f s
  | .robT f => Sys2Proof.Machine.execRobT f s
  | .mma f => Sys2Proof.Machine.execMma f s
  | .mopf f => Sys2Proof.Machine.execMopf f s
  | .mdrain f => Sys2Proof.Machine.execMdrain f s
  | .mdrainAll f => Sys2Proof.Machine.execMdrainAll f s
  | .hprobe f => Sys2Proof.Machine.execHprobe f s
  | .insnew f => Sys2Proof.Machine.execInsnew f s
  | .rpart f => Sys2Proof.Machine.execRpart f s
  | .agg f => Sys2Proof.Machine.execAgg f s
  | .negate f => Sys2Proof.Machine.execNegate f s
  | .gradb f => Sys2Proof.Machine.execGradb f s
  | .rscan f => Sys2Proof.Machine.execRscan f s
  | .dlbind f => Sys2Proof.Machine.execDlbind f s
  | .dlmul f => Sys2Proof.Machine.execDlmul f s
  | .dlref f => Sys2Proof.Machine.execDlref f s
  | .dldrop f => Sys2Proof.Machine.execDldrop f s
  | .bscore f => Sys2Proof.Machine.execBscore f s
  | .topkb f => Sys2Proof.Machine.execTopkb f s
  | .attnacc f => Sys2Proof.Machine.execAttnacc f s
  | .evict f => Sys2Proof.Machine.execEvict f s
  | .evictReset f => Sys2Proof.Machine.execEvictReset f s
  | .ld f => Sys2Proof.Machine.execLd f s
  | .st f => Sys2Proof.Machine.execSt f s
  | .lda f => Sys2Proof.Machine.execLda f s
  | .stl f => Sys2Proof.Machine.execStl f s
  | .ldsync f => Sys2Proof.Machine.execLdsync f s
  | .sete f => Sys2Proof.Machine.execSete f s
  | .fence f => Sys2Proof.Machine.execFence f s
  | .ldx f => Sys2Proof.Machine.execLdx f s
  | .stx f => Sys2Proof.Machine.execStx f s
  | .fadd f => Sys2Proof.Machine.execFadd f s
  | .fadd64 f => Sys2Proof.Machine.execFadd64 f s
  | .amax f => Sys2Proof.Machine.execAmax f s
  | .amin f => Sys2Proof.Machine.execAmin f s
  | .aswap f => Sys2Proof.Machine.execAswap f s
  | .acas f => Sys2Proof.Machine.execAcas f s
  | .aor f => Sys2Proof.Machine.execAor f s
  | .aand f => Sys2Proof.Machine.execAand f s
  | .amaxr f => Sys2Proof.Machine.execAmaxr f s
  | .ownerRange f => Sys2Proof.Machine.execOwnerRange f s
  | .ownerRel f => Sys2Proof.Machine.execOwnerRel f s
  | .ownerFree f => Sys2Proof.Machine.execOwnerFree f s
  | .waita f => Sys2Proof.Machine.execWaita f s
  | .wakea f => Sys2Proof.Machine.execWakea f s
  | .xfer f => Sys2Proof.Machine.execXfer f s
  | .stash f => Sys2Proof.Machine.execStash f s
  | .unstash f => Sys2Proof.Machine.execUnstash f s
  | .pin f => Sys2Proof.Machine.execPin f s
  | .unpin f => Sys2Proof.Machine.execUnpin f s
  | .send f => Sys2Proof.Machine.execSend f s
  | .postr f => Sys2Proof.Machine.execPostr f s
  | .probeq f => Sys2Proof.Machine.execProbeq f s
  | .cancelr f => Sys2Proof.Machine.execCancelr f s
  | .ingress f => Sys2Proof.Machine.execIngress f s
  | .egress f => Sys2Proof.Machine.execEgress f s
  | .strmi f => Sys2Proof.Machine.execStrmi f s
  | .strmo f => Sys2Proof.Machine.execStrmo f s
  | .barj f => Sys2Proof.Machine.execBarj f s
  | .barjGrp f => Sys2Proof.Machine.execBarjGrp f s
  | .bardrop f => Sys2Proof.Machine.execBardrop f s
  | .bardropGrp f => Sys2Proof.Machine.execBardropGrp f s
  | .trap f => Sys2Proof.Machine.execTrap f s
  | .brk f => Sys2Proof.Machine.execBrk f s
  | .rdtime f => Sys2Proof.Machine.execRdtime f s
  | .rdcyc f => Sys2Proof.Machine.execRdcyc f s
  | .rdsys f => Sys2Proof.Machine.execRdsys f s
  | .wrsys f => Sys2Proof.Machine.execWrsys f s
  | .freeze f => Sys2Proof.Machine.execFreeze f s
  | .thaw f => Sys2Proof.Machine.execThaw f s
  | .readout f => Sys2Proof.Machine.execReadout f s
  | .restore f => Sys2Proof.Machine.execRestore f s
  | .grant f => Sys2Proof.Machine.execGrant f s
  | .issue acc => Sys2Proof.Machine.execIssue acc s
  | .unpark acc => Sys2Proof.Machine.execUnpark acc s
  | .translationFault acc => Sys2Proof.Machine.execTranslationFault acc s
  | .perform p => Sys2Proof.Machine.execPerform p s
  | .dequeue req => Sys2Proof.Machine.execDequeue req s
  | .ewrite wr => Sys2Proof.Machine.execEwrite wr s
  | .commit b => Sys2Proof.Machine.execCommit b s
  | .txAbort b wave cause => Sys2Proof.Machine.execTxAbort b wave cause s
  | .phaseGateOpen run gate => Sys2Proof.Machine.execPhaseGateOpen run gate s
  | .hdeliver die port => Sys2Proof.Machine.execHdeliver die port s
  | .edeliver slot ring => Sys2Proof.Machine.execEdeliver slot ring s
  | .faddArrival acc => Sys2Proof.Machine.execFaddArrival acc s
  | .boomWindowClose point rec => Sys2Proof.Machine.execBoomWindowClose point rec s
  | .split point rec => Sys2Proof.Machine.execSplit point rec s
  | .ownerApply die input => Sys2Proof.Machine.execOwnerApply die input s
  | .groupReply run => Sys2Proof.Machine.execGroupReply run s
  | .launchReply run => Sys2Proof.Machine.execLaunchReply run s
  | .combineSumsReply group => Sys2Proof.Machine.execCombineSumsReply group s
  | .fixbRetry run => Sys2Proof.Machine.execFixbRetry run s
  | .rotateAck run k => Sys2Proof.Machine.execRotateAck run k s
  | .requestLost run cause => Sys2Proof.Machine.execRequestLost run cause s
  | .barrierRelease group => Sys2Proof.Machine.execBarrierRelease group s
  | .mmaStart e => Sys2Proof.Machine.execMmaStart e s
  | .mmaComplete e => Sys2Proof.Machine.execMmaComplete e s
  | .drainBegin e => Sys2Proof.Machine.execDrainBegin e s
  | .drainWord e => Sys2Proof.Machine.execDrainWord e s
  | .deltaComplete die req => Sys2Proof.Machine.execDeltaComplete die req s
  | .invalidateArrival die k => Sys2Proof.Machine.execInvalidateArrival die k s
  | .codedBlockDecode e input => Sys2Proof.Machine.execCodedBlockDecode e input s
  | .configDone run plane load => Sys2Proof.Machine.execConfigDone run plane load s
  | .shadowLoadComplete run => Sys2Proof.Machine.execShadowLoadComplete run s
  | .planeExchange run => Sys2Proof.Machine.execPlaneExchange run s
  | .watchdogExpiry run => Sys2Proof.Machine.execWatchdogExpiry run s
  | .cruiseProbeEnd run => Sys2Proof.Machine.execCruiseProbeEnd run s
  | .stashStallTimeout req => Sys2Proof.Machine.execStashStallTimeout req s
  | .waitaPoll acc => Sys2Proof.Machine.execWaitaPoll acc s
  | .sendRetry req => Sys2Proof.Machine.execSendRetry req s
  | .messageArrival die k => Sys2Proof.Machine.execMessageArrival die k s
  | .rendezvousPull die k => Sys2Proof.Machine.execRendezvousPull die k s
  | .xferSectorDone req sector => Sys2Proof.Machine.execXferSectorDone req sector s
  | .cfgStoreError run plane => Sys2Proof.Machine.execCfgStoreError run plane s
  | .cfgReloadCheck run => Sys2Proof.Machine.execCfgReloadCheck run s
  | .uncorrectableError t => Sys2Proof.Machine.execUncorrectableError t s
  | .correctedError die domain addr => Sys2Proof.Machine.execCorrectedError die domain addr s
  | .arborDecision die => Sys2Proof.Machine.execArborDecision die s
  | .ageingStep run => Sys2Proof.Machine.execAgeingStep run s
  | .quantumExpiry run => Sys2Proof.Machine.execQuantumExpiry run s
  | .ingressLaunchWord die port w => Sys2Proof.Machine.execIngressLaunchWord die port w s
  | .ingressTokenWord die port w => Sys2Proof.Machine.execIngressTokenWord die port w s
  | .ctxregWrite slot w => Sys2Proof.Machine.execCtxregWrite slot w s
  | .ctxtearWrite slot w => Sys2Proof.Machine.execCtxtearWrite slot w s
  | .tlbinvWrite lo hi => Sys2Proof.Machine.execTlbinvWrite lo hi s
  | .tlbinvDone => Sys2Proof.Machine.execTlbinvDone s
  | .tenantTableWrite tenant w => Sys2Proof.Machine.execTenantTableWrite tenant w s
  | .almclr => Sys2Proof.Machine.execAlmclr s
  | .lnkqclr w => Sys2Proof.Machine.execLnkqclr w s
  | .registerWrite reg w => Sys2Proof.Machine.execRegisterWrite reg w s
  | .hostBar4Write slot addr bytes => Sys2Proof.Machine.execHostBar4Write slot addr bytes s
  | .hostBar4Read slot addr len => Sys2Proof.Machine.execHostBar4Read slot addr len s
  | .atsResponse acc present frame => Sys2Proof.Machine.execAtsResponse acc present frame s
  | .priResponse acc success => Sys2Proof.Machine.execPriResponse acc success s
  | .priTimeout acc => Sys2Proof.Machine.execPriTimeout acc s
  | .atsInvalidate pasid addr len => Sys2Proof.Machine.execAtsInvalidate pasid addr len s
  | .getVersion r => Sys2Proof.Machine.execGetVersion r s
  | .getCapabilities r => Sys2Proof.Machine.execGetCapabilities r s
  | .negotiateAlgorithms r => Sys2Proof.Machine.execNegotiateAlgorithms r s
  | .getDigests r => Sys2Proof.Machine.execGetDigests r s
  | .getCertificate r => Sys2Proof.Machine.execGetCertificate r s
  | .challenge r => Sys2Proof.Machine.execChallenge r s
  | .getMeasurements r => Sys2Proof.Machine.execGetMeasurements r s
  | .keyExchange r => Sys2Proof.Machine.execKeyExchange r s
  | .finish r => Sys2Proof.Machine.execFinish r s
  | .endSession r => Sys2Proof.Machine.execEndSession r s
  | .coldReset env => Sys2Proof.Machine.execColdReset env s
  | .readyToken => Sys2Proof.Machine.execReadyToken s
  | .alarmLevel1 sensor => Sys2Proof.Machine.execAlarmLevel1 sensor s
  | .alarmLevel2 sensor => Sys2Proof.Machine.execAlarmLevel2 sensor s
  | .alarmLevel3 sensor => Sys2Proof.Machine.execAlarmLevel3 sensor s
  | .linkTrain link peer => Sys2Proof.Machine.execLinkTrain link peer s
  | .trainingStepTimeout link group => Sys2Proof.Machine.execTrainingStepTimeout link group s
  | .circuitCrcFail link group => Sys2Proof.Machine.execCircuitCrcFail link group s
  | .linkdn link group => Sys2Proof.Machine.execLinkdn link group s
  | .flitCrcFail link => Sys2Proof.Machine.execFlitCrcFail link s
  | .rdreq link f => Sys2Proof.Machine.execRdreq link f s
  | .rdrsp link f => Sys2Proof.Machine.execRdrsp link f s
  | .wrreq link f => Sys2Proof.Machine.execWrreq link f s
  | .wrack link f => Sys2Proof.Machine.execWrack link f s
  | .atreq link f => Sys2Proof.Machine.execAtreq link f s
  | .atrsp link f => Sys2Proof.Machine.execAtrsp link f s
  | .msg link f => Sys2Proof.Machine.execMsg link f s
  | .msgack link f => Sys2Proof.Machine.execMsgack link f s
  | .grnreq link f => Sys2Proof.Machine.execGrnreq link f s
  | .grnrsp link f => Sys2Proof.Machine.execGrnrsp link f s
  | .rel link f => Sys2Proof.Machine.execRel link f s
  | .credit link f => Sys2Proof.Machine.execCredit link f s
  | .retractComplete run => Sys2Proof.Machine.execRetractComplete run s
  | .fixbOpenAck run k => Sys2Proof.Machine.execFixbOpenAck run k s
  | .configurationLoadComplete run => Sys2Proof.Machine.execConfigurationLoadComplete run s
  | .imageValidationComplete k => Sys2Proof.Machine.execImageValidationComplete k s
  | .readoutComplete run => Sys2Proof.Machine.execReadoutComplete run s
  | .restoreComplete run => Sys2Proof.Machine.execRestoreComplete run s
  | .freezeArrival run => Sys2Proof.Machine.execFreezeArrival run s
  | .thawArrival run => Sys2Proof.Machine.execThawArrival run s
  | .groupRequestArrival k => Sys2Proof.Machine.execGroupRequestArrival k s

end Sys2Proof.Machine
end

