-- ==== Sys2Proof/Machine/Step.lean ====
section
/-! DEFINITION. One step of the module: the instruction that the fetch gives is executed. -/

namespace Sys2Proof.Machine

/-- One step (log 1). Only a word of a validated copy that decodes to nothing stops the machine. -/
def step (s : State) : Host.Outcome State Fault Refusal :=
  match fetch s with
  | .exec i t => exec i t
  | .other t => .next t
  | .bad => .fault .undecodable

/-- The state with one instruction stored where the next step fetches it (log 11). -/
def State.withFetchWord (s : State) (nbits w : Nat) : State := placeWord s nbits w

end Sys2Proof.Machine
end

