-- ==== Sys2Proof/Safety.lean ====
section
/-! DEFINITION. What a safe run is, and the terms in which claims speak: memory in canonical form, the element or the word that an
instruction in focus belongs to and whether it may execute, what the rules give as results. -/

namespace Sys2Proof.Machine

/-! ## Safe states -/

/-- All memories are in canonical form (log 2), the codes of HBM blocks too (log 75). -/
def Mems.wf (m : Mems) : Bool := Memory.wf m.hbm && Memory.wf m.host && Memory.wf m.store && Memory.wf m.codes

/-- The outcome is a next state. -/
def isNext {σ φ ρ : Type} : Host.Outcome σ φ ρ → Bool
  | .next _ => true
  | _ => false

/-- What every reachable state satisfies. -/
def State.Safe (s : State) : Prop := s.mem.wf = true

/-- A step from the state goes on, and to a safe state. -/
def State.SafeStep (s : State) : Prop := ∃ t, step s = .next t ∧ t.Safe

/-! ## Where an instruction stands -/

/-- The element in focus as a firing of the fabric instruction `i` sees it, when it may fire: its run is resident, its plane
active, its configuration running (03 R31, R35, R45), it has not fired in this cycle (04 R69), no serialised wave forbids it to start a
wave (03 R53), no result of it waits for its consumers, or it stands at a quadrant port and the result at its front is not ready (13 R268). -/
def firingOf (i : Instr) (s : State) : Option FireIn :=
  match s.focus, fabOf i with
  | some fo, some f =>
    match fo.elem with
    | none => none
    | some ref =>
      match s.site ref with
      | none => none
      | some h =>
        let x : FireIn := ⟨s, ref, h, f, opcodeOf i⟩
        if x.live && (deliver x i).isNone && h.elem.firedAt != s.cycle + 1 && x.mayStart && (f.unit == 15 || (dropEmpty h.elem.out).isEmpty) then some x
        else none
  | _, _ => none

/-- The run whose escapement issues the sequence word in focus (03 R32). -/
def wordRun (s : State) : Option Run :=
  match s.focus with
  | none => none
  | some fo => match s.run? fo.run with
    | none => none
    | some r => if r.issues then some r else none

/-- An element as an event that acts on it sees it, while its run is resident, its plane active, its configuration running. -/
def driveOf (e : ElemRef) (s : State) : Option (FireIn × Instr) :=
  match s.site e with
  | none => none
  | some h =>
    match instrAt h.blk e.idx with
    | none => none
    | some i =>
      match fabOf i with
      | none => none
      | some f =>
        let x : FireIn := ⟨s, e, h, f, opcodeOf i⟩
        if x.live then some (x, i) else none

end Sys2Proof.Machine
end

