-- ==== Sys2Proof/Certificates/Slice0/Obligations.lean ====
section
/-! DEFINITION. The statements for the provers, family by family, and the tables in whose terms they speak. -/

namespace Sys2Proof.Machine

/-! ## The tables of the scalar ALU -/

/-- The binary operations of the scalar ALU (05 R84, R85, 10 R199), with their zero-preserving column (04 R66). -/
def binRows : List ((Fab → Instr) × Bool × (W32 → W32 → W32)) :=
  [ (.add, false, fun a b => BitVec.ofInt 32 (a.toInt + b.toInt)),
    (.sub, false, fun a b => BitVec.ofInt 32 (a.toInt - b.toInt)),
    (.mul, true, fun a b => BitVec.ofInt 32 (a.toInt * b.toInt)),
    (.mulh, true, fun a b => BitVec.ofInt 32 (a.toInt * b.toInt / 2 ^ 32)),
    (.mulhu, true, fun a b => BitVec.ofNat 32 (a.toNat * b.toNat / 2 ^ 32)),
    (.div, false, fun a b => if b = 0 then BitVec.ofInt 32 (-1) else BitVec.ofInt 32 (a.toInt.tdiv b.toInt)),
    (.divu, false, fun a b => if b = 0 then BitVec.ofNat 32 (2 ^ 32 - 1) else BitVec.ofNat 32 (a.toNat / b.toNat)),
    (.rem, false, fun a b => if b = 0 then a else BitVec.ofInt 32 (a.toInt.tmod b.toInt)),
    (.remu, false, fun a b => if b = 0 then a else BitVec.ofNat 32 (a.toNat % b.toNat)),
    (.and, true, fun a b => a &&& b),
    (.or, false, fun a b => a ||| b),
    (.xor, false, fun a b => a ^^^ b),
    (.andn, true, fun a b => a &&& ~~~b),
    (.shl, true, fun a b => BitVec.ofNat 32 (a.toNat * 2 ^ (b.toNat % 32))),
    (.shr, true, fun a b => BitVec.ofNat 32 (a.toNat / 2 ^ (b.toNat % 32))),
    (.sar, true, fun a b => BitVec.ofInt 32 (a.toInt / 2 ^ (b.toNat % 32))),
    (.rol, true, fun a b => a.rotateLeft (b.toNat % 32)),
    (.ror, true, fun a b => a.rotateRight (b.toNat % 32)),
    (.min, false, fun a b => if a.toInt ≤ b.toInt then a else b),
    (.max, false, fun a b => if b.toInt ≤ a.toInt then a else b),
    (.minu, false, fun a b => if a.toNat ≤ b.toNat then a else b),
    (.maxu, false, fun a b => if b.toNat ≤ a.toNat then a else b),
    (.ceq, false, fun a b => if a = b then 1 else 0),
    (.cne, false, fun a b => if a = b then 0 else 1),
    (.clt, false, fun a b => if a.toInt < b.toInt then 1 else 0),
    (.cle, false, fun a b => if a.toInt ≤ b.toInt then 1 else 0),
    (.cgt, false, fun a b => if b.toInt < a.toInt then 1 else 0),
    (.cge, false, fun a b => if b.toInt ≤ a.toInt then 1 else 0),
    (.cltu, false, fun a b => if a.toNat < b.toNat then 1 else 0),
    (.cgeu, false, fun a b => if b.toNat ≤ a.toNat then 1 else 0) ]

/-- Every instruction of the scalar ALU with its zero-preserving column. -/
def aluRows : List ((Fab → Instr) × Bool) :=
  binRows.map (fun r => (r.1, r.2.1)) ++ [(.clz, false), (.popc, true), (.mov, true), (.agen, false)]

/-! ## The table of the elementwise vector instructions -/

/-- The elementwise instructions of the vector pipe (11 R211 to R215, R222 to R228): whether elided runs pass in the form at hand (VQUANT
is zero-preserving in a and b together, and its b of MOD 0b01 is a VK register), and the result of one lane from the channels and the
lanes of its operands; a lane is masked when one that `shared` names is. -/
def vecRows : List ((Fab → Instr) × (FireIn → Bool) × (FireIn → List Chan → List (Option W32) → LaneRes)) :=
  [ (.vadd, (fun _ => false), lane2 XVal.add fun _ a b => BitVec.ofInt 32 (a.toInt + b.toInt)),
    (.vsub, (fun _ => false), lane2 XVal.sub fun _ a b => BitVec.ofInt 32 (a.toInt - b.toInt)),
    (.vmul, (fun _ => true), shared [0, 1] (lane2 XVal.mul fun _ a b => BitVec.ofInt 32 (a.toInt * b.toInt))),
    (.vfma, (fun _ => true), fmaLane false),
    (.vfms, (fun _ => true), fmaLane true),
    (.vmin, (fun _ => false), lane2 XVal.min minW),
    (.vmax, (fun _ => false), lane2 XVal.max maxW),
    (.vabs, (fun _ => true), shared [0] (lane1 XVal.abs absW)),
    (.vneg, (fun _ => true), shared [0] (lane1 XVal.neg fun _ a => BitVec.ofInt 32 (-a.toInt))),
    (.vcmp, (fun _ => false), cmpLane),
    (.vblend, (fun _ => false), blendLane),
    (.vand, (fun _ => true), shared [0, 1] (lane2 XVal.add fun _ a b => a &&& b)),
    (.vor, (fun _ => false), lane2 XVal.add fun _ a b => a ||| b),
    (.vxor, (fun _ => false), lane2 XVal.add fun _ a b => a ^^^ b),
    (.vshl, (fun _ => true), shared [0] fun x => lane2 XVal.add (fun _ a b => vshlW (x.imm 8 8 == 1) a b) x),
    (.vcvt, (fun _ => true), cvtLane),
    (.vscale, (fun _ => true), scaleLane),
    (.vrcp, (fun _ => false), seedLane seedRcp),
    (.vrsq, (fun _ => false), seedLane seedRsq),
    (.vexp2, (fun _ => false), expLane exp2With),
    (.vlog2, (fun _ => false), expLane log2With),
    (.vsfn, (fun _ => false), sfnLane),
    (.vsfnD, (fun _ => true), sfnDLane),
    (.vquant, (fun x => x.md != 1), quantLane),
    (.vdeq, (fun _ => false), deqLane) ]

/-! ## Memory elements by row -/

/-- One row of 13 R270 and R273: what an access element asks for. `width` from the width of the format; `align` from the width. -/
structure AccRow where
  instr : Fab → Instr
  kind  : AccKind
  nd    : Nat
  width : Nat → Nat
  data  : List Pos → Line
  aux   : Nat → List Pos → Line
  store : Bool

/-- The word on the first data input, sign-extended to 64 bits (13 R273, FADD64). -/
def sextLine (ps : List Pos) : Line := (((ps.headD .elided).word).signExtend 64).setWidth 512

def wordLine (ps : List Pos) : Line := ((ps.headD .elided).word).setWidth 512

/-- The elements of 13 R270 and R273. -/
def accRows : List AccRow :=
  let none2 (_ : List Pos) : Line := 0
  let noAux (_ : Nat) (_ : List Pos) : Line := 0
  [⟨.ld, .load, 0, id, none2, noAux, false⟩, ⟨.lda, .acquire, 0, id, none2, noAux, false⟩,
   ⟨.ldsync, .ldsync, 0, id, none2, noAux, false⟩, ⟨.sete, .sete, 0, fun _ => 64, none2, noAux, false⟩,
   ⟨.st, .store, 1, id, dataLine, noAux, true⟩, ⟨.stl, .release, 1, id, dataLine, noAux, true⟩]
  ++ [⟨.fadd, .atomic 0xBA, 1, fun _ => 4, wordLine, fun md _ => if md = 1 then 1 else 0, false⟩,
   ⟨.fadd64, .atomic 0xBB, 1, fun _ => 8, sextLine, fun md _ => if md = 1 then 1 else 0, false⟩,
   ⟨.amax, .atomic 0xBC, 1, fun _ => 4, wordLine, noAux, false⟩, ⟨.amin, .atomic 0xBD, 1, fun _ => 4, wordLine, noAux, false⟩,
   ⟨.aswap, .atomic 0xBE, 1, fun _ => 4, wordLine, noAux, false⟩,
   ⟨.acas, .atomic 0xBF, 2, fun _ => 4, wordLine, fun _ ps => wordLine (ps.drop 1), false⟩,
   ⟨.aor, .atomic 0xC0, 1, fun _ => 4, wordLine, noAux, false⟩, ⟨.aand, .atomic 0xC1, 1, fun _ => 4, wordLine, noAux, false⟩,
   ⟨.amaxr, .atomic 0xC2, 0, fun _ => 4, none2, noAux, false⟩]

/-- The three-operand G-register words (10 R192): constructor and value from G[GB] and b. -/
def gRows : List ((BitVec 6 → BitVec 6 → BitVec 6 → BitVec 38 → Instr) × (W64 → W64 → W64)) :=
  [(.gadd, fun a b => a + b), (.gsub, fun a b => a - b), (.gand, fun a b => a &&& b), (.gor, fun a b => a ||| b),
   (.gxor, fun a b => a ^^^ b), (.gshl, fun a b => a <<< (b.toNat % 64)), (.gshr, fun a b => a >>> (b.toNat % 64)),
   (.gslt, fun a b => if a.toInt < b.toInt then 1 else 0)]

end Sys2Proof.Machine

open Sys2Proof Sys2Proof.Machine

/-- 10 R199, 05 R84, R85: a binary instruction of the scalar ALU with ordinary positions on the inputs it reads puts the value of
its row, in the format of the result channel, on its outputs. A zero-preserving one is not asked about elided positions alone. -/
def Obligations.BinaryAluResult : Prop :=
  ∀ row ∈ binRows, ∀ (f : Fab) (s t : State) (x : FireIn) (ps : List Pos),
    firingOf (row.1 f) s = some x → x.heads x.ins = some ps → ps.any Pos.isEnd = false → ps.any Pos.poison = false →
    (row.2.1 && ps.all Pos.isElided) = false →
    let r := scalarTok (x.rc.encodeInt (row.2.2 (x.ival (ps.headD .elided)) (x.opB ((ps[1]?).map x.ival)))) (resultMark ps) x.rcNo
    x.fireAct (row.1 f) { elem := x.elem.pops x.ins, emits := x.all fun k => .tok k r } = some t →
    exec (row.1 f) s = .next t

/-- 10 R196, R199, R200: operand b of the three forms; the unary instructions and AGEN in all their forms. -/
def Obligations.UnaryAluAndAgenResult : Prop :=
  (∀ (x : FireIn) (b : W32), x.f.md = 0 → x.opB (some b) = BitVec.ofInt 32 x.f.imm.toInt)
  ∧ (∀ (x : FireIn) (b : W32), x.f.md = 1 → x.opB (some b) = b)
  ∧ (∀ (x : FireIn) (b : Option W32), x.f.md = 2 → x.opB b = BitVec.ofNat 32 (x.pool (x.imm 9 0)).toNat)
  ∧ (∀ (row : (Fab → Instr) × Bool × (W32 → W32)),
      row ∈ [((.mov : Fab → Instr), true, fun a => a), (.clz, false, clz32), (.popc, true, popc32)] →
      ∀ (f : Fab) (s t : State) (x : FireIn) (p : Pos), firingOf (row.1 f) s = some x → x.heads [0] = some [p] → p.isEnd = false →
        p.poison = false → (row.2.1 && p.isElided) = false →
        let r := scalarTok (x.rc.encodeInt (row.2.2 (x.ival p))) (resultMark [p]) x.rcNo
        x.fireAct (row.1 f) { elem := x.elem.pop 0, emits := x.all fun k => .tok k r } = some t →
        exec (row.1 f) s = .next t)
  ∧ (∀ (f : Fab) (s t : State) (x : FireIn) (ps : List Pos), firingOf (.agen f) s = some x → x.heads x.ins = some ps →
      ps.any Pos.isEnd = false → ps.any Pos.poison = false →
      let v : W32 := BitVec.ofNat 32 ((x.ival (ps.headD .elided)).toNat * 2 ^ fld f.imm 4 0 + ((ps[1]?).map fun p => (x.ival p).toNat).getD 0
        + (x.pool (fld f.imm 19 10)).toNat)
      let r := scalarTok (x.rc.encodeInt v) (resultMark ps) x.rcNo
      x.fireAct (.agen f) { elem := x.elem.pops x.ins, emits := x.all fun k => .tok k r } = some t →
      exec (.agen f) s = .next t)

/-- 10 R199, R200, R198, 04 R62, R63, R66: what every instruction of the scalar ALU does with a POISON operand, with end tokens,
and what the zero-preserving ones do with elided positions on every input they read. -/
def Obligations.AluSpecialPositions : Prop :=
  ∀ row ∈ aluRows, ∀ (f : Fab) (s t : State) (x : FireIn) (ps : List Pos),
    firingOf (row.1 f) s = some x → x.heads x.ins = some ps →
    (ps.any Pos.isEnd = false → ps.any Pos.poison = true →
      x.fireAct (row.1 f) { elem := x.elem.pops x.ins
                            emits := x.all fun k => .tok k (poisonTok false (resultMark ps) x.rcNo) } = some t →
      exec (row.1 f) s = .next t)
    ∧ (∀ m : Mark, m.isEnd = true → ps ≠ [] → ps.all (fun p => p.mark == m) = true →
      x.fireAct (row.1 f) { elem := { x.elem.pops x.ins with ended := m == .eos }
                            emits := x.all fun k => .tok k { eosTok false x.rcNo with mark := m } } = some t →
      exec (row.1 f) s = .next t)
    ∧ (ps.any Pos.isEnd = true → (∀ m : Mark, m.isEnd = true → ps.all (fun p => p.mark == m) = false) →
      exec (row.1 f) s = .next (s.takeTrap x.ref.run .markskew (x.info .markskew)))
    ∧ (row.2 = true → ps.all Pos.isElided = true → ps ≠ [] →
      let n := (x.ins.map fun k => elidedRun (x.elem.queue k)).foldl Nat.min 63
      x.fireAct (row.1 f) { elem := x.ins.foldl (fun e k => e.setQueue k (popElided n (e.queue k))) x.elem
                            emits := x.all fun k => .elide k n false x.rcNo } = some t →
      exec (row.1 f) s = .next t)

/-- 04 R64, R67, R70, 05 R97, 02 R14, R26, 03 R52: FRAME of every firing whose effect stays in its block: memory, every run but its own,
links, groups, engines, time and the rest of the module stay, and only turns of elements of its block are put before the agenda; of its
run the G registers, SQC, loops, handler state, system registers and region stay and the flags are the old ones with those raised. A
firing in a transactional block raises no flag of the run: it may open its wave in the commit unit, which keeps its flags, every other
wave stays, and a serialised wave takes the die's lock. Every other element of the run keeps its operation state, its latch, its waiting
results and its pending elisions, and every queue keeps the tokens that it held in front. -/
def Obligations.FiringFrame : Prop :=
  ∀ (i : Instr) (s t : State) (x : FireIn) (a : Act), firingOf i s = some x → x.fireAct i a = some t → a.eff = id →
    let br : BlkRef := ⟨x.ref.run, x.ref.plane, x.ref.load, x.ref.blk⟩
    (x.blk.tx = false → t.ord = s.ord)
      ∧ (x.blk.tx = true → t.ord = { s.ord with waves := t.ord.waves }
        ∧ (∀ w ∈ s.ord.waves, w.blk ≠ br ∨ w.k ≠ x.elem.fires → w ∈ t.ord.waves)
        ∧ ∃ w ∈ t.ord.waves, w.blk = br ∧ w.k = x.elem.fires ∧ w.flags ||| a.flags = w.flags)
      ∧ t.dies = (if x.blk.tx = true ∧ x.blk.serial = some x.elem.fires then (s.modDie x.run.die fun d => { d with lock := some br }).dies
          else s.dies)
      ∧ t.mem = s.mem ∧ t.chip = s.chip ∧ t.adm = s.adm ∧ t.eng = s.eng ∧ t.cycle = s.cycle ∧ t.free = s.free
      ∧ t.focus = s.focus ∧ t.runs.length = s.runs.length
      ∧ (∃ ts, t.agenda = ts ++ s.agenda ∧ ∀ y ∈ ts, ∃ j, y = .fire { x.ref with idx := j })
      ∧ (∀ id, id ≠ x.ref.run → t.run? id = s.run? id)
      ∧ ∃ r, t.run? x.ref.run = some r ∧ r.esc.g = x.run.esc.g ∧ r.esc.sqc = x.run.esc.sqc ∧ r.esc.loops = x.run.esc.loops
        ∧ r.esc.handler = x.run.esc.handler ∧ r.esc.e = x.run.esc.e ∧ r.esc.wait = x.run.esc.wait
        ∧ r.esc.flags = (if x.blk.tx then x.run.esc.flags else x.run.esc.flags ||| (a.flags &&& flagMask))
        ∧ r.regs = x.run.regs ∧ r.region = x.run.region ∧ r.st = x.run.st ∧ r.groups = x.run.groups ∧ r.inq = x.run.inq
        ∧ ∀ e, e.run = x.ref.run → e.plane ≤ 1 → e ≠ x.ref → ∀ h, s.site e = some h → ∃ h', t.site e = some h'
          ∧ h'.word = h.word ∧ h'.elem.ctl = h.elem.ctl ∧ h'.elem.out = h.elem.out ∧ h'.elem.pend = h.elem.pend
          ∧ h'.elem.fires = h.elem.fires ∧ h'.elem.firedAt = h.elem.firedAt ∧ h'.elem.latch = h.elem.latch
          ∧ ∀ k, h.elem.queue k <+: h'.elem.queue k

/-- 04 R64, R67, R73: a result goes to the tail of its consumer's queue, or of the write port of its write-once buffer, with the count of the
elided zeros before it as SKIP, and an elided zero only raises that count, until the count of 63 goes out with an explicit zero; while a
consumer that an ALU element names has no slot, its firing does not happen, also where it would put no token there, and nothing of it
takes effect: no input is consumed and no output written. -/
def Obligations.TokensReachTheirConsumer : Prop :=
  (∀ (i : Instr) (s t : State) (x : FireIn) (c : Con) (el : Elem), firingOf i s = some x → conOf x.blk i x.f 0 = some c →
    c.idx.toNat ≠ x.ref.idx → (∀ e, x.blk.elems[c.idx.toNat]? = some e → conQueue x.load x.ref.blk c < e.q.length) →
    c.idx.toNat < x.blk.elems.length → c.idx.toNat < x.blk.words.length → 0 < el.pend.length →
    let k := conQueue x.load x.ref.blk c
    ((∀ tok, x.fireAct i { elem := el, emits := [.tok 0 tok] } = some t →
        ∃ h h', s.site { x.ref with idx := c.idx.toNat } = some h ∧ t.site { x.ref with idx := c.idx.toNat } = some h'
          ∧ h'.elem.queue k = h.elem.queue k ++ [{ tok with skip := el.pend.getD 0 0 }]
          ∧ ∃ e, t.site x.ref = some e ∧ e.elem.pend = setAt el.pend 0 0)
    ∧ (∀ v ch, el.pend.getD 0 0 < 63 → x.fireAct i { elem := el, emits := [.elide 0 1 v ch] } = some t →
        ∃ h h', s.site { x.ref with idx := c.idx.toNat } = some h ∧ t.site { x.ref with idx := c.idx.toNat } = some h'
          ∧ h'.elem.queue k = h.elem.queue k
          ∧ ∃ e, t.site x.ref = some e ∧ e.elem.pend = setAt el.pend 0 (el.pend.getD 0 0 + 1))
    ∧ (∀ ch, el.pend.getD 0 0 = 63 → x.fireAct i { elem := el, emits := [.elide 0 1 false ch] } = some t →
        ∃ h h', s.site { x.ref with idx := c.idx.toNat } = some h ∧ t.site { x.ref with idx := c.idx.toNat } = some h'
          ∧ h'.elem.queue k = h.elem.queue k ++ [{ scalarTok 0 .data ch with skip := 63 }]
          ∧ ∃ e, t.site x.ref = some e ∧ e.elem.pend = setAt el.pend 0 0)))
  ∧ (∀ row ∈ binRows, ∀ (f : Fab) (s : State) (x : FireIn) (ps : List Pos) (k : Nat) (c : Con),
    firingOf (row.1 f) s = some x → x.heads x.ins = some ps → ps.any Pos.isEnd = false → k < 2 →
    conOf x.blk (row.1 f) x.f k = some c → c.idx.toNat ≠ x.ref.idx →
    0 < linkCap x.load x.ref.blk c → linkCap x.load x.ref.blk c ≤ (queueOf x.load x.ref.blk x.blk c).length →
    exec (row.1 f) s = .next s)

/-- 10 R192: the G-register words give G[GA] the value of their row, with b = G[GC] + sext(IMM38), modulo 2^64; no flag changes. -/
def Obligations.GRegisterWords : Prop :=
  ∀ row ∈ gRows,
    ∀ (ga gb gc : BitVec 6) (imm : BitVec 38) (s : State) (r : Run), wordRun s = some r → r.esc.sqc + 1 < (s.seqOf r).length →
      exec (row.1 ga gb gc imm) s =
        .next (s.setRun ((r.setG ga (row.2 (r.getG gb) (r.getG gc + imm.signExtend 64))).setSqc (r.esc.sqc + 1)))
      ∧ ((r.setG ga (row.2 (r.getG gb) (r.getG gc + imm.signExtend 64))).setSqc (r.esc.sqc + 1)).esc.flags = r.esc.flags

/-- 02 R25, 10 R186: G0 reads zero and discards writes; a write to another G register is what it reads from then on, and every
other G register, the flags, the loops and the rest of the escapement stay; GLI writes its immediate. A G-register word or GLI that is
the last word of its sequence raises SEQRANGE at the word with no effect (03 R33; that the register stays is the model's reading,
log 53). -/
def Obligations.GRegistersReadBack : Prop :=
  (∀ (r : Run) (n m : BitVec 6) (v : W64), r.esc.g.length = 64 →
    r.getG 0 = 0 ∧ r.setG 0 v = r ∧ (n ≠ 0 → (r.setG n v).getG n = v) ∧ (m ≠ n → (r.setG n v).getG m = r.getG m)
      ∧ (r.setG n v).esc.flags = r.esc.flags ∧ (r.setG n v).esc.loops = r.esc.loops ∧ (r.setG n v).esc.sqc = r.esc.sqc
      ∧ (r.setG n v).esc.g.length = 64 ∧ (r.setG n v).regs = r.regs ∧ (r.setG n v).st = r.st ∧ (r.setG n v).id = r.id)
  ∧ (∀ (ga gb gc : BitVec 6) (imm : BitVec 38) (s : State) (r : Run), wordRun s = some r →
    (r.esc.sqc + 1 < (s.seqOf r).length →
      exec (.gli ga imm) s = .next (s.setRun ((r.setG ga (imm.signExtend 64)).setSqc (r.esc.sqc + 1))))
    ∧ ((s.seqOf r).length ≤ r.esc.sqc + 1 → exec (.gli ga imm) s = .next (s.trapWord r.id .seqrange)
      ∧ ∀ row ∈ gRows, exec (row.1 ga gb gc imm) s = .next (s.trapWord r.id .seqrange)))

/-- 10 R191: BR always branches, BRZ on G[GA] = 0 and BRNZ on G[GA] ≠ 0, to SQC + sext(IMM38), raising SEQRANGE at the word where that
lies outside the sequence (03 R33); a branch not taken goes on to the next word; the loop stack stays; the loader rejects an offset of
zero with BADCON. -/
def Obligations.BranchWords : Prop :=
  (∀ (s : State) (r : Run) (ga : BitVec 6) (off : BitVec 38), wordRun s = some r →
    let t : Int := r.esc.sqc + off.toInt
    let taken := if 0 ≤ t ∧ t < (s.seqOf r).length then s.setRun (r.setSqc t.toNat) else s.trapWord r.id .seqrange
    let next := if r.esc.sqc + 1 < (s.seqOf r).length then s.setRun (r.setSqc (r.esc.sqc + 1)) else s.trapWord r.id .seqrange
    exec (.br off) s = .next taken
    ∧ exec (.brz ga off) s = .next (if r.getG ga = 0 then taken else next)
    ∧ exec (.brnz ga off) s = .next (if r.getG ga ≠ 0 then taken else next)
    ∧ ∀ n, (r.setSqc n).esc.loops = r.esc.loops ∧ (r.setSqc n).esc.sqc = n)
  ∧ (∀ ga : BitVec 6, decodeSeq (encodeSeq 0x0A 0 0 0 0) = .error .badCon ∧ decodeSeq (encodeSeq 0x0B ga 0 0 0) = .error .badCon
    ∧ decodeSeq (encodeSeq 0x0C ga 0 0 0) = .error .badCon)

/-- 03 R34, R39, 10 R190, R193, R195, 21 R360: loops and the controllers that start their children themselves, the iteration counter,
escapement inputs and TRAPS. A LOOP of count zero goes on behind its ENDL; with eight entries on the stack that is the model's choice
(log 117), and which bodies a controller drives itself is log 62. -/
def Obligations.SequenceControlWords : Prop :=
  ∀ (s : State) (r : Run), wordRun s = some r →
    (∀ (gb : BitVec 6) (kind : BitVec 2) (depth : BitVec 3) (count : BitVec 32),
      let n := if gb = 0 then count.toNat else (r.getG gb).toNat
      let kids := if kind = 0 ∨ r.esc.handler.isSome then none else kidsOf (s.seqOf r) (r.esc.sqc + 1) (s.endlOf r)
      (kids = none → 0 < n → n < 2 ^ 32 → r.esc.loops.length < 8 → r.esc.sqc + 1 < (s.seqOf r).length →
        exec (.loop gb kind depth count) s = .next (s.setRun ({ r with esc := { r.esc with
          loops := ⟨n, r.esc.sqc + 1, kind.toNat, depth.toNat + 1, r.esc.pushes + 1⟩ :: r.esc.loops
          pushes := r.esc.pushes + 1 } }.setSqc (r.esc.sqc + 1))))
      ∧ (∀ ks, kids = some ks → (∀ a b c, r.esc.wait ≠ .control a b c) → 0 < n → n < 2 ^ 32 → r.esc.loops.length < 8 →
        s.drainOf r r.ordered = .ok → exec (.loop gb kind depth count) s = .next (s.setRun { r with esc := { r.esc with
          wait := .control (r.esc.pushes + 1) n ks, pushes := r.esc.pushes + 1 } }))
      ∧ (∀ ks id m xs, kids = some ks → r.esc.wait = .control id m xs → (∀ x ∈ xs, m ≤ x.drained) →
        s.drainOf r (fun l => (xs.filterMap fun x => (s.kidConf r x).map (·.1)).contains l.cfg) = .ok → s.endlOf r + 1 < (s.seqOf r).length →
        exec (.loop gb kind depth count) s = .next (s.setRun ({ r with esc := { r.esc with wait := .idle } }.setSqc (s.endlOf r + 1))))
      ∧ ((∀ a b c, r.esc.wait ≠ .control a b c) → 0 < n → n < 2 ^ 32 → 8 ≤ r.esc.loops.length → exec (.loop gb kind depth count) s = .next (s.trapWord r.id .seqovf))
      ∧ ((∀ a b c, r.esc.wait ≠ .control a b c) → n = 0 → s.endlOf r + 1 < (s.seqOf r).length →
        exec (.loop gb kind depth count) s = .next (s.setRun (r.setSqc (s.endlOf r + 1)))))
    ∧ (∀ (top : LoopLevel) (rest : List LoopLevel), r.esc.loops = top :: rest →
      (1 < top.count → exec .endl s = .next (s.setRun
        ({ r with esc := { r.esc with loops := { top with count := top.count - 1 } :: rest } }.setSqc top.ret)))
      ∧ (top.count ≤ 1 → r.esc.sqc + 1 < (s.seqOf r).length →
        exec .endl s = .next (s.setRun ({ r with esc := { r.esc with loops := rest } }.setSqc (r.esc.sqc + 1)))))
    ∧ (r.esc.loops = [] → exec .endl s = .next (s.trapWord r.id .sequnf))
    ∧ (∀ (gb : BitVec 6) (count : BitVec 38), r.esc.handler = none → r.esc.sqc + 1 < (s.seqOf r).length →
      let n := if gb = 0 then count.toNat else (r.getG gb).toNat
      0 < n → n < 2 ^ 38 →
      exec (.iter gb count) s = .next (s.setRun ({ r with esc := { r.esc with iterCount := n, iterDone := 0 } }.setSqc (r.esc.sqc + 1))))
    ∧ (∀ (ga : BitVec 6) (e : BitVec 3) (p : Pos), headPos (r.esc.e.getD e.toNat []) = some p → r.esc.sqc + 1 < (s.seqOf r).length →
      exec (.waittok ga e) s = .next (s.setRun
        (({ r with esc := { r.esc with e := setAt r.esc.e e.toNat (popPos (r.esc.e.getD e.toNat [])) } }.setG ga
          (BitVec.ofNat 64 (p.mark.code * 2 ^ 32 + p.word.toNat))).setSqc (r.esc.sqc + 1))))
    ∧ (∀ (ga : BitVec 6) (e : BitVec 3), headPos (r.esc.e.getD e.toNat []) = none → exec (.waittok ga e) s = .next s)
    ∧ (∀ code : BitVec 16, r.esc.handler = none →
      exec (.traps code) s = .next (s.takeTrap r.id .seqtrap { FaultInfo.atWord .seqtrap with aux := code.toNat }))
    ∧ (r.esc.handler ≠ none → exec (.traps 0xFFFF) s = .next (s.endHandler r.id))

/-- 10 R187 to R189: STREAM binds an entry of the stream table to a generator with the value of G[GB]: active at once when none is,
pending behind at most two others, else STRQFULL. -/
def Obligations.StreamBindsAGenerator : Prop :=
  ∀ (s : State) (r : Run) (img : Image) (gb : BitVec 6) (port : BitVec 4) (gen : BitVec 2) (entry : BitVec 16) (e : Line)
    (gs : List Gen) (g : Gen), wordRun s = some r → r.esc.handler = none → s.image? r = some img → img.streams[entry.toNat]? = some e →
    r.region.gens[port.toNat]? = some gs → gs[gen.toNat]? = some g → r.esc.sqc + 1 < (s.seqOf r).length →
    let b : Binding := ⟨fld e 56 0, r.getG gb, fld e 392 390, e.getLsbD 389, fld e 388 384,
      (List.range (fld e 392 390)).map fun k => fld e (64 * k + 95) (64 * k + 64),
      (List.range (fld e 392 390)).map fun k => (e.extractLsb' (64 * k + 96) 32).toInt, 0, false⟩
    let put (g' : Gen) := Host.Outcome.next (φ := Fault) (ρ := Refusal) (s.setRun ({ r with region := { r.region with
      gens := modAt (fun l => setAt l gen.toNat g') r.region.gens port.toNat } }.setSqc (r.esc.sqc + 1)))
    (g.active = none → exec (.stream gb port gen entry) s = put ⟨some b, []⟩)
    ∧ (∀ a, g.active = some a → a.ended = true → g.pending = [] → exec (.stream gb port gen entry) s = put ⟨some b, []⟩)
    ∧ (∀ a, g.active = some a → a.ended = false → g.pending.length < 3 →
      exec (.stream gb port gen entry) s = put ⟨some a, g.pending ++ [b]⟩)
    ∧ (∀ a, g.active = some a → a.ended = false → 3 ≤ g.pending.length →
      exec (.stream gb port gen entry) s = .next (s.trapWord r.id .strqfull))

/-- 03 R35 to R40, R46 to R48, 08 R157: CONF and the RULE words start a resident configuration once what must drain has drained and
wait for the load of another; PHASE closes the gate, END retires the run; SHADOW asks for a background load; SWAP of an empty plane
is SWAPEMPTY, and otherwise it waits forty cycles after the drain. -/
def Obligations.ConfigurationWords : Prop :=
  ∀ (s : State) (r : Run), wordRun s = some r → r.esc.handler = none → r.st = .resident →
    (∀ (row : Instr × Nat × Nat × Bool), (∃ (cfg : BitVec 16) (num : BitVec 8), row = (.conf cfg, cfg.toNat, 0, false)
        ∨ row = (.rule cfg num, cfg.toNat, num.toNat, false) ∨ row = (.ruleFull cfg num, cfg.toNat, num.toNat, true)) →
      r.esc.wait ≠ .loading → s.drainOf r (r.mustDrain row.2.1) = .ok → s.depthOk r = true →
      (row.2.2.1 = 0 ∨ s.unowned r row.2.2.1 = none) →
      (∀ i, ((r.plane r.act).loads.findIdx? fun l => l.cfg == row.2.1) = some i →
        exec row.1 s = .next ((s.startLoad r i row.2.2.1 row.2.2.2).doneWord r.id id))
      ∧ (((r.plane r.act).loads.findIdx? fun l => l.cfg == row.2.1) = none →
        exec row.1 s = .next (s.setRun { r with esc := { r.esc with wait := .loading } })))
    ∧ (s.drainOf r (fun _ => true) = .ok →
      exec .phase s = .next (s.doneWord r.id fun r => r.closeGate r.esc.starts none)
      ∧ exec .seqEnd s = .next (s.retire r.id)
      ∧ ((∀ c, r.esc.wait ≠ .swapping c) → (r.plane (1 - r.act)).fault = none → (r.plane (1 - r.act)).holdsNone = false →
        (r.plane (1 - r.act)).loading = none → (r.plane (1 - r.act)).reload = none →
        exec .swap s = .next (s.setRun { r with esc := { r.esc with wait := .swapping r.cycles } })))
    ∧ (s.drainOf r (fun _ => true) = .wait → exec .phase s = .next s ∧ exec .seqEnd s = .next s)
    ∧ ((∀ c, r.esc.wait ≠ .swapping c) → (r.plane (1 - r.act)).fault = none → (r.plane (1 - r.act)).holdsNone = true →
        exec .swap s = .next (s.trapWord r.id .swapempty))
    ∧ (∀ (ga : BitVec 6) (cfg : BitVec 16), r.esc.sqc + 1 < (s.seqOf r).length →
      let q := 1 - r.act
      let st := s.shadowStatus r cfg.toNat
      let held := (r.plane q).loads.any (fun l => l.cfg == cfg.toNat) || (r.plane q).loading == some cfg.toNat
      exec (.shadow ga cfg) s = .next (s.setRun ((
        (if st = 0 ∧ held = false then r.setPlane q { r.plane q with loading := some cfg.toNat, fault := none } else r).setG ga
          (BitVec.ofNat 64 st)).setSqc (r.esc.sqc + 1))))

/-- 03 R35, R36, R39: a configuration that a word starts runs, with its rule number and the latched iteration count, with every queue
and buffer empty and every element as at its load; whatever has drained fires no more, and the other configurations keep their state. -/
def Obligations.StartedConfiguration : Prop :=
  ∀ (s : State) (r : Run) (i rule : Nat) (full : Bool) (l : Loaded), s.run? r.id = some r → (r.plane r.act).loads[i]? = some l →
    ∃ r' l', (s.startLoad r i rule full).run? r.id = some r' ∧ r'.load? r.act i = some l' ∧ r'.act = r.act ∧ l'.running = true
      ∧ l'.rule = rule ∧ l'.full = full ∧ l'.iters = r.esc.iterCount ∧ l'.serial = r.esc.starts + 1 ∧ l'.registered = false
      ∧ l'.blks.length = l.blks.length
      ∧ (∀ (b : Nat) (k : Blk), l'.blks[b]? = some k → ∃ k0, l.blks[b]? = some k0 ∧ k.words = k0.words
          ∧ k.elems = (k0.words.zip k0.elems).map fun q => { initElem (q.1.extractLsb' 56 8).toNat (q.1.extractLsb' 20 2) (q.1.extractLsb' 0 20)
            with q := q.2.q.map fun _ => [] })
      ∧ (∀ w ∈ l'.bufs, w.present = [] ∧ w.wpos = 0 ∧ w.rpos = 0)
      ∧ (∀ (j : Nat) (u : Loaded), j ≠ i → (r.plane r.act).loads[j]? = some u → ∃ u', r'.load? r.act j = some u' ∧ u'.blks = u.blks
          ∧ u'.cfg = u.cfg ∧ u'.running = (u.running && !s.drained r.id r.act j u))
      ∧ r'.esc.g = r.esc.g ∧ r'.esc.sqc = r.esc.sqc ∧ r'.esc.flags = r.esc.flags ∧ r'.esc.starts = r.esc.starts + 1
      ∧ r'.plane (1 - r.act) = r.plane (1 - r.act)

/-- 03 R42, R43, R55, 06 R119, R122 to R124, 10 R194: the words that ask something of a home module, an owner, the dispatcher or the
relational engine send their request once and wait for its reply. -/
def Obligations.RequestWords : Prop :=
  ∀ (s : State) (r : Run), wordRun s = some r →
    (∀ (ga gb : BitVec 6) (join : Bool), (∀ n, r.esc.wait ≠ .sent n) →
      let v := r.getG gb
      let far := !s.noSuchName join v && s.farGroup v
      (far = false ∨ s.freeTag ≠ none →
        ∃ t q, exec (if join then .join ga gb else .leave ga gb) s = .next t ∧ t.run? r.id = some q ∧ q.esc.wait = .sent s.ord.nextId
          ∧ q.esc.sentAt = r.cycles ∧ q.esc.sqc = r.esc.sqc ∧ q.esc.g = r.esc.g
          ∧ (s.noSuchName join v = true → t.adm.greqs = s.adm.greqs ++ [⟨s.ord.nextId, r.id, false, join, v, true, 2, 0⟩])
          ∧ (s.noSuchName join v = false → t.adm.greqs = s.adm.greqs ++ [⟨s.ord.nextId, r.id, far, join, v, false, 0, 0⟩])
          ∧ (far = false → t.chip = s.chip)
          ∧ (∀ k, far = true → s.freeTag = some k →
            t.chip.tags = s.chip.tags ++ [⟨k, groupHome (v.setWidth 20), .group s.ord.nextId, none⟩]
            ∧ ∃ f : Flit, t.chip.flits = s.chip.flits ++ [(7, f)] ∧ f.dst = BitVec.ofNat 8 (groupHome (v.setWidth 20))
              ∧ f.tag = BitVec.ofNat 12 k ∧ f.aop = (if join then 0x0E else 0x0F)))
      ∧ (far = true → s.freeTag = none → exec (if join then .join ga gb else .leave ga gb) s = .next s))
    ∧ (∀ (ga gb : BitVec 6) (n : Nat), r.esc.wait = .sent n → exec (.join ga gb) s = .next s ∧ exec (.leave ga gb) s = .next s)
    ∧ (∀ (ga gb gc : BitVec 6), (∀ n, r.esc.wait ≠ .sent n) →
      exec (.launch ga gb gc) s =
        .next (s.askLaunch r (r.getG gb).toNat ((List.range 8).map fun k => r.getG (BitVec.ofNat 6 (gc.toNat + k)))))
    ∧ (r.esc.handler = none → r.esc.wait = .idle → s.drainOf r (fun _ => true) = .ok →
      (∀ (gb : BitVec 6) (rl : BitVec 16) (grp : BitVec 8),
        ((∀ h ∈ (s.rlist r rl.toNat).2, h % 64 = 0) → s.noOwner r (s.rlist r rl.toNat).2 = none → exec (.fixb gb rl grp) s =
          .next (s.sendWait r.id (.opening ((s.rlist r rl.toNat).2.map fun _ => (true, false)))))
        ∧ (∀ h, (s.rlist r rl.toNat).2.find? (fun h => h % 64 != 0) = some h →
          exec (.fixb gb rl grp) s = .next (s.takeTrap r.id .relhdr { FaultInfo.atWord .relhdr with va := h }))
        ∧ (∀ h, (∀ h ∈ (s.rlist r rl.toNat).2, h % 64 = 0) → s.noOwner r (s.rlist r rl.toNat).2 = some h →
          exec (.fixb gb rl grp) s = .next (s.takeTrap r.id .noowner { FaultInfo.atWord .noowner with va := h })))
      ∧ (∀ (ga gb : BitVec 6) (grp : BitVec 8), gb = 0 ∨ r.esc.fix = some (s.fixGroup r gb grp.toNat) →
        let g := s.fixGroup r gb grp.toNat
        let bal := ((r.sent : Int) - r.applied) - ((r.base.1 : Int) - r.base.2)
        (s.farGroup (g.setWidth 64) = false → exec (.fixe ga gb grp) s =
          .next ((s.contributeHere g ⟨s.identity r.id, r.promoted, bal, true, none⟩ 0).sendWait r.id .sum))
        ∧ (s.farGroup (g.setWidth 64) = true → (s.freeTag = none → exec (.fixe ga gb grp) s = .next s)
          ∧ (s.freeTag ≠ none → ∃ t, s.contribute r g true r.promoted bal = some t
            ∧ exec (.fixe ga gb grp) s = .next (t.sendWait r.id .sum) ∧ t.runs = s.runs ∧ t.chip.tags.length = s.chip.tags.length + 1)))
      ∧ (∀ (ga gb : BitVec 6) (grp : BitVec 8), gb ≠ 0 → r.esc.fix ≠ some (s.fixGroup r gb grp.toNat) →
        exec (.fixe ga gb grp) s = .next (s.takeTrap r.id .fixgrp (FaultInfo.atWord .fixgrp)))
      ∧ (∀ rl : BitVec 16, s.noOwner r (s.rlist r rl.toNat).2 = none →
        (∀ h ∈ (s.rlist r rl.toNat).2, h % 64 = 0 ∧ s.notHash r h = false ∧ ∃ x, s.relHold r.slot h = some x ∧ hdrOpen x.hdr = true) →
        exec (.rotate rl) s = .next (s.sendWait r.id (.rotating ((s.rlist r rl.toNat).2.map fun _ => (true, false))))))
    ∧ (∀ (ga gb : BitVec 6) (rl : BitVec 16) (x : List (Nat × Line) × List (BitVec 256)), r.esc.handler = none →
      r.esc.wait ≠ .retracting → s.retractCheck r rl.toNat (r.getG gb) = .ok x →
      exec (.retract ga gb rl) s = .next (s.setWait r.id .retracting))

/-- 21 R357, R360, R361, 03 R52: TAKING A TRAP. A run whose handler is enabled and not running freezes in handler state: the record,
with G62, G63 and SQC of the run in it, stands at FRA, G62 is FRA, G63 the code, SQC the handler's word; every other G register, the
flags, the loops and the system registers stay, and where no wave of the run is uncommitted so do its elements and its region. While the handler runs a trap is HNEST; with EN clear,
and for BREAK and HNEST, the run freezes for the system software. -/
def Obligations.TakingATrap : Prop :=
  ∀ (s : State) (run : Nat) (t : Trap) (i : FaultInfo) (r : Run), s.run? run = some r →
    (r.esc.handler = none → t ≠ .brk → t ≠ .hnest → r.regs.handler.getLsbD 63 = true → r.esc.g.length = 64 →
      let fra := fld r.regs.handler 56 8 * 256
      ∀ s1, { s with free := s.free + 256 }.vwrite r.slot fra
        (recordBytes (fun k => Config.freeByte (s.free + k)) i 32 (s.identity run) s.time (some r.esc.sqc) (some (r.getG 62).toNat)
          (some (r.getG 63).toNat)) = .ok s1 →
      ∃ r', (s.takeTrap run t i).run? run = some r' ∧ (s.takeTrap run t i).mem.hbm = s1.mem.hbm ∧ r'.st = .frozen ∧ r'.hold = .handler
        ∧ r'.getG 62 = BitVec.ofNat 64 fra ∧ r'.getG 63 = BitVec.ofNat 64 i.code ∧ r'.esc.sqc = r.regs.hsqc.toNat
        ∧ r'.esc.handler = some (r.getG 62, r.getG 63, r.esc.sqc, t == .seqtrap, r.esc.wait)
        ∧ (∀ n, n ≠ 62 → n ≠ 63 → r'.getG n = r.getG n) ∧ r'.esc.flags = r.esc.flags ∧ r'.esc.loops = r.esc.loops ∧ r'.regs = r.regs
        ∧ r'.groups = r.groups ∧ r'.caught = some ⟨s.cycle, r.esc, none, false⟩
        ∧ ((∀ w ∈ s.ord.waves, w.blk.run ≠ run) → r'.p0 = r.p0 ∧ r'.p1 = r.p1 ∧ r'.region = r.region ∧ (s.takeTrap run t i).ord.accs = s.ord.accs)
        ∧ ∀ id, id ≠ run → (∀ w ∈ s.ord.waves, w.blk.run ≠ run) → (s.takeTrap run t i).run? id = s.run? id)
    ∧ (r.esc.handler ≠ none → s.takeTrap run t i = s.supervisorFault run { i with code := 0x155 })
    ∧ (r.esc.handler = none → t = .brk ∨ t = .hnest ∨ r.regs.handler.getLsbD 63 = false →
      s.takeTrap run t i = s.supervisorFault run i)
    ∧ (∃ r', (s.supervisorFault run i).run? run = some r' ∧ r'.st = .frozen ∧ r'.hold = .supervisor ∧ r'.esc = r.esc ∧ r'.regs = r.regs)

/-- 21 R360, 10 R195: RETURNING FROM A TRAP. `TRAPS #0xFFFF` in handler state restores G62, G63 and SQC from the record, clears its
VALID bit and lets the region go on; after SEQTRAP the sequence resumes at the word behind. -/
def Obligations.ReturningFromATrap : Prop :=
  ∀ (s : State) (r : Run) (g62 g63 : W64) (sqc : Nat) (skip : Bool) (w : Wait) (bs : List Byte) (p : Bool), wordRun s = some r →
    r.esc.handler = some (g62, g63, sqc, skip, w) → r.esc.g.length = 64 → s.vread r.slot (fraOf r.regs.handler) 64 = .ok (bs, p) →
    let q := bytesNat ((bs.drop 0x10).take 4)
    ∃ t r', exec (.traps 0xFFFF) s = .next t ∧ t.run? r.id = some r' ∧ r'.st = .resident ∧ r'.hold = .none ∧ r'.esc.handler = none
      ∧ r'.getG 62 = BitVec.ofNat 64 (bytesNat ((bs.drop 0x30).take 8)) ∧ r'.getG 63 = BitVec.ofNat 64 (bytesNat ((bs.drop 0x38).take 8))
      ∧ r'.esc.sqc = (if skip then q + 1 else q) ∧ (∀ n, n ≠ 62 → n ≠ 63 → r'.getG n = r.getG n) ∧ r'.esc.flags = r.esc.flags
      ∧ r'.regs = r.regs ∧ r'.p0 = r.p0 ∧ r'.p1 = r.p1

/-- 21 R357, 22 R367, R368: a fault record is 256 bytes with the code, the kind, the flags, the identity, the time, SQC, G62 and G63
at their offsets; an error-log entry is 32 bytes; an event of a disabled log only counts as lost, one of an enabled log is written
and counted. -/
def Obligations.RecordsAndErrorLog : Prop :=
  (∀ (free : Nat → Byte) (i : FaultInfo) (fl id time sqc g62 g63 : Nat), i.cyc.length ≤ 16 → i.code < 2 ^ 16 → i.kind < 2 ^ 8 →
    i.flags ||| fl < 2 ^ 8 → id < 2 ^ 32 → time < 2 ^ 64 → sqc < 2 ^ 32 → g62 < 2 ^ 64 → g63 < 2 ^ 64 →
    let bs := recordBytes free i fl id time (some sqc) (some g62) (some g63)
    bs.length = 256 ∧ bytesNat (bs.take 2) = i.code ∧ bytesNat ((bs.drop 2).take 1) = i.kind ∧ bytesNat ((bs.drop 3).take 1) = i.flags ||| fl
      ∧ bytesNat ((bs.drop 4).take 4) = id ∧ bytesNat ((bs.drop 8).take 8) = time ∧ bytesNat ((bs.drop 0x10).take 4) = sqc
      ∧ bytesNat ((bs.drop 0x30).take 8) = g62 ∧ bytesNat ((bs.drop 0x38).take 8) = g63)
  ∧ (∀ (s : State) (d code : Nat) (dom run site aux addr : Option Nat), (s.die d).errlog.getLsbD 63 = false → d < s.dies.length →
    ∃ x, s.logEvent d code dom run site aux addr = { s with dies := setAt s.dies d x } ∧ x.errLost = (s.die d).errLost + 1
      ∧ x.errWritten = (s.die d).errWritten ∧ x.errlog = (s.die d).errlog)
  ∧ (∀ (s : State) (d code : Nat) (dom run site aux addr : Option Nat), (s.die d).errlog.getLsbD 63 = true → d < s.dies.length →
    code ≠ 0x300 →
    ((s.logEvent d code dom run site aux addr).die d).errWritten = (s.die d).errWritten + 1
      ∧ (s.logEvent d code dom run site aux addr).runs = s.runs ∧ (s.logEvent d code dom run site aux addr).free = s.free + 32)

/-- 08 R149 to R151, 21 R348 to R352, R359: ISSUE hands on a queued access that nothing holds back, with its cached translation or
parked; UNPARK completes its walk, which may have read some of its entries before (they change nothing but how far it has come), over ATS for a leaf of the host; a failing walk faults it; a PRI response retries or denies. -/
def Obligations.IssueAndTranslation : Prop :=
  ∀ (s : State) (id : Nat) (a : Access) (r : Run), s.acc? id = some a → s.run? a.run = some r → r.st = .resident →
    (a.stage = .queued → s.blocked r a = false →
      (a.addressed = false → exec (.issue id) s = .next (s.modAcc id fun x => { x with stage := .pending }))
      ∧ (a.addressed = true → a.place = none → (∀ b ∈ s.earlier a, b.port = a.port → b.stage ≠ .queued) →
        (∀ p, s.cached r a = some p → exec (.issue id) s = .next (s.modAcc id fun x => { x with stage := .pending, place := some p }))
        ∧ (s.cached r a = none → exec (.issue id) s = .next (s.modAcc id fun x => { x with stage := .parked }))))
    ∧ (a.stage = .queued → s.blocked r a = true → exec (.issue id) s = .next s)
    ∧ (a.stage = .parked → a.ats = 0 → a.fault = none →
      (∀ l, s.walkOn r.slot a.va a.walked = .ok l → rightsOk a.kind l.pte = true →
        (pteTgt l.pte ≠ 2 → exec (.unpark id) s = .next
          ((s.tlbFill r.die (some (r.portOf a.port)) r.slot a.va l).modAcc id fun x => { x with stage := .pending, place := some (leafPlace l a.va), walked := none }))
        ∧ (pteTgt l.pte = 2 → s.cached r a = none → exec (.unpark id) s = .next
          ((s.toHost 1 (natBytes 2 r.slot ++ natBytes 8 (pteFrame l.pte))).modAcc id fun x => { x with ats := 1, walked := none })))
      ∧ (∀ e, s.walkOn r.slot a.va a.walked = .error e →
        exec (.translationFault id) s = .next (s.faultAcc a e.fault e.level 0 e.entry.toNat) ∧ exec (.unpark id) s = .next s)
      ∧ (∀ l, s.walkOn r.slot a.va a.walked = .ok l → rightsOk a.kind l.pte = false →
        exec (.translationFault id) s = .next (s.faultAcc a .rights l.level 0 l.pte.toNat)))
    ∧ (a.stage = .parked → a.ats = 1 → ∀ (l : Leaf) (frame : BitVec 52), s.walk r.slot a.va = .ok l →
      exec (.atsResponse id true frame) s = .next
        ((s.tlbFill r.die none r.slot a.va { l with grant := frame.setWidth 64 }).modAcc id fun x =>
          { x with stage := .pending, ats := 0, place := some (.host (frame.toNat * 4096 + a.va % 2 ^ l.size)) })
      ∧ (s.ord.accs.countP (fun x => x.ats == 2) < 256 → exec (.atsResponse id false frame) s = .next
        ((s.toHost 2 (natBytes 2 r.slot ++ natBytes 8 (pteFrame l.pte))).modAcc id fun x => { x with ats := 2, poll := s.cycle })))
    -- the entries of a walk one by one: what is left of a walk that has read some of them comes to what the whole walk comes to
    ∧ (a.stage = .parked → a.ats = 0 → a.fault = none →
      (s.walkNext id).ord.tlb = s.ord.tlb ∧ (s.walkNext id).runs = s.runs ∧ (s.walkNext id).mem = s.mem
        ∧ ∀ b, (s.walkNext id).acc? id = some b → b = { a with walked := b.walked } ∧ s.walkOn r.slot a.va b.walked = s.walkOn r.slot a.va a.walked)
    ∧ (a.stage = .parked → a.ats = 2 →
      exec (.priResponse id true) s = .next ((s.modAcc id fun x => { x with ats := 0 }).unpark id)
      ∧ exec (.priResponse id false) s = .next (s.faultAcc { a with ats := 0 } .hostdeny 0 0 0)
      ∧ (a.poll + 2 ^ 24 ≤ s.cycle → exec (.priTimeout id) s = .next (s.faultAcc { a with ats := 0 } .hostdeny 0 0 0)))

/-- 08 R153, R154: no access of the run that is entry-later (R150) than an LDA issues until the LDA has performed; an STL issues only
after every entry-earlier access of the run has performed, and once issued it performs like a store. An access whose write a wave holds
for its commit (stage done, 03 R50), and a host token of a wave, which leaves with the commit, hold back no access of their own block's
waves. -/
def Obligations.AcquireAndRelease : Prop :=
  (∀ (s : State) (id : Nat) (a b : Access), s.acc? id = some b → a.run = b.run →
    ((a.port = b.port ∧ ∃ l m n, s.ord.accs = l ++ a :: (m ++ b :: n) ∧ ∀ x ∈ l ++ a :: m, x.id ≠ id)
      ∨ (a.port ≠ b.port ∧ a ∈ s.ord.accs ∧ a.stamp < b.stamp)) →
    (b.wave = none ∨ (a.stage ≠ .done ∧ (a.kind = .egress → a.wave = none))) →
    a.kind = .acquire ∨ b.kind = .release → exec (.issue id) s = .next s)
  ∧ (∀ (s : State) (id : Nat) (b : Access) (r : Run), s.acc? id = some b → s.run? b.run = some r → r.st = .resident → b.stage = .queued →
    b.kind = .acquire ∨ b.kind = .release → s.earlier b = [] → s.gated r b = false →
    (∀ p, b.place.orElse (fun _ => s.cached r b) = some p →
      exec (.issue id) s = .next (s.modAcc id fun x => { x with stage := .pending, place := some p }))
    ∧ (b.place.orElse (fun _ => s.cached r b) = none → exec (.issue id) s = .next (s.modAcc id fun x => { x with stage := .parked })))
  ∧ (∀ (s : State) (id : Nat) (a : Access) (r : Run) (p : Place), s.acc? id = some a → s.run? a.run = some r → a.stage = .pending →
    a.place = some p → a.wave = none → s.conflicts (placeKey p) a.kind.writes none = [] → a.units = [] → a.psn = false →
    (∀ m x g, p ≠ .remote m x g) → ∀ bs psn, s.placeRead p a.width = some (bs, psn) →
    (a.kind = .acquire → exec (.perform (.whole id)) s = .next ((s.noteAt (some (s.identity a.run)) p a.width).loadDone a bs psn))
    ∧ (a.kind = .release → exec (.perform (.whole id)) s = .next ((s.storeRuns a r p).doneToken a)))

/-- 08 R148, R152 to R157, 07 R139, 13 R268, R276 to R278: PERFORM of an access that has issued and translated, outside waves: what a load
reads and replies, a store writes, and what LDSYNC, SETE, the fences, the atomics, WAITA, WAKEA, PIN, UNPIN, requests to engines
and egress tokens do; an access to another module leaves as a flit with a free tag; the poll of a WAITA; the gate opens when
everything before it has performed. How LDSYNC, SETE, WAITA and WAKEA are carried to another module is the model's choice (log 33). -/
def Obligations.AccessesPerform : Prop :=
  (∀ (s : State) (id : Nat) (a : Access) (r : Run) (p : Place), s.acc? id = some a → s.run? a.run = some r → a.stage = .pending →
    a.place = some p → a.wave = none → s.conflicts (placeKey p) a.kind.writes none = [] → a.units = [] → a.psn = false →
    (∀ m x g, p ≠ .remote m x g) →
    (∀ bs psn, s.placeRead p a.width = some (bs, psn) →
      (a.kind = .load ∨ a.kind = .acquire →
        exec (.perform (.whole id)) s = .next ((s.noteAt (some (s.identity a.run)) p a.width).loadDone a bs psn))
      ∧ (a.kind = .ldsync → (∀ x, p = .hbm x → s.isFull x = true) →
        exec (.perform (.whole id)) s = .next ((s.noteAt (some (s.identity a.run)) p a.width).loadDone a bs psn))
      ∧ (∀ x, a.kind = .ldsync → p = .hbm x → s.isFull x = false → exec (.perform (.whole id)) s = .next s))
    ∧ (a.kind = .store ∨ a.kind = .release →
      exec (.perform (.whole id)) s = .next ((s.storeRuns a r p).doneToken a))
    ∧ (∀ x, a.kind = .sete → p = .hbm x → exec (.perform (.whole id)) s = .next
        ((if s.mem.fullNow.contains (x / 64) then s
          else { s with mem := { s.mem with notFull := insertNew (x / 64) s.mem.notFull } } : State).doneToken a))
    ∧ (∀ o, a.kind = .atomic o → (o = 0xBA ∨ o = 0xBB → 2 ≤ a.hops) → s.rangeOwner r.slot a.va = none →
        exec (.perform (.whole id)) s = .next ((s.noteAt (some (s.identity a.run)) p a.width).atomicAt a r p))
    ∧ (∀ bs psn, a.kind = .waita → s.placeRead p 4 = some (bs, psn) → exec (.perform (.whole id)) s = .next
        ((s.noteAt (some (s.identity a.run)) p 4).waitaAt a p (BitVec.ofNat 32 (bytesNat bs)) psn true))
    ∧ (∀ x, p = .hbm x →
        (a.kind = .wakea → exec (.perform (.whole id)) s = .next (s.wakeaAt a x))
        ∧ (a.kind = .pin → exec (.perform (.whole id)) s = .next (s.pinAt a r x))
        ∧ (a.kind = .unpin → exec (.perform (.whole id)) s = .next (s.unpinAt a r))))
  ∧ (∀ (s : State) (id : Nat) (a : Access) (r : Run), s.acc? id = some a → s.run? a.run = some r → a.stage = .pending →
    (∀ sc, a.kind = .fence sc → s.fenceReady r a sc = true → exec (.perform (.whole id)) s = .next (s.doneToken a))
    ∧ (∀ sc, a.kind = .fence sc → s.fenceReady r a sc = false → exec (.perform (.whole id)) s = .next s)
    ∧ (a.kind ∈ [AccKind.xfer, .stash, .unstash, .send, .postr, .probeq, .cancelr] →
      exec (.perform (.whole id)) s = .next (s.requestAt a r))
    ∧ (a.kind = .egress → exec (.perform (.whole id)) s = .next (s.egressAt a r)))
  ∧ (∀ (s : State) (id k m x : Nat) (g : W64) (a : Access) (r : Run), s.acc? id = some a → s.run? a.run = some r → a.stage = .pending →
    a.place = some (.remote m x g) → a.wave = none → s.conflicts (placeKey (.remote m x g)) a.kind.writes none = [] → s.freeTag = some k →
    ∀ row ∈ [(AccKind.load, (1 : Byte), (0 : Byte)), (.acquire, 1, 0), (.ldsync, 1, 0xB4), (.waita, 1, 0xC4), (.wakea, 5, 0xC5), (.sete, 3, 0)],
    a.kind = row.1 → ∃ (t : State) (f : Flit), exec (.perform (.whole id)) s = .next t ∧ t.chip.flits = s.chip.flits ++ [(row.2.1, f)]
      ∧ f.aop = row.2.2 ∧ f.addr = BitVec.ofNat 52 x ∧ f.dst = BitVec.ofNat 8 m ∧ f.grant = g ∧ f.tag = BitVec.ofNat 12 k
      ∧ t.chip.tags = s.chip.tags ++ [⟨k, m, .acc id, none⟩] ∧ t.acc? id = some { a with stage := .flying } ∧ t.mem = s.mem)
  ∧ (∀ (s : State) (id : Nat) (a : Access) (p : Place) (bs : List Byte) (psn : Bool), s.acc? id = some a → a.place = some p →
    a.stage = .polling → s.placeRead p 4 = some (bs, psn) →
    (∀ x, p = .hbm x → s.epoch (homeDie x) (bucketOf a.va) ≠ a.epoch →
      exec (.waitaPoll id) s = .next (s.waitaDone a (BitVec.ofNat 32 (bytesNat bs)) psn 1))
    ∧ (∀ x, p = .hbm x → s.epoch (homeDie x) (bucketOf a.va) = a.epoch → a.poll ≤ s.cycle →
      exec (.waitaPoll id) s = .next (s.waitaAt a p (BitVec.ofNat 32 (bytesNat bs)) psn false)))
  ∧ (∀ (s : State) (run g n : Nat) (r : Run), s.run? run = some r → r.gates.find? (fun x => x.1 == g) = some (n, none) →
    (∀ a ∈ s.ord.accs, a.run = run → n < a.serial) → (∀ q ∈ s.ord.reqs, q.run = run → q.willWrite = true → n < q.serial) →
    (∀ w ∈ s.ord.wbuf, w.run = run → n < w.serial) →
    let t := s.modRun run fun r => { r with gates := r.gates.filter fun x => x.1 != g, pinned := none }
    (r.pinned = none → exec (.phaseGateOpen run g) s = .next t)
    ∧ (∀ port va, r.pinned = some (port, va) → r.st = .resident →
      exec (.phaseGateOpen run g) s = .next (t.takeTrap run .wpinned { FaultInfo.base 0x146 1 with va := va, port := port })))

/-- 13 R268, R274, 07 R138, R146, 08 R156: what the effects come to: a store to an address of HBM that is neither pinned nor poisoned
writes its bytes there and no other byte; the old value that an atomic replies is what it read, and the new value of FADD, ASWAP,
AOR and AAND stands there afterwards. -/
def Obligations.StoresAndAtomics : Prop :=
  ∀ (s : State) (a : Access) (r : Run) (x : Nat), s.mem.wf = true → s.pinnedAt (.hbm x) a.width = false → s.poisoned x = false →
    s.ord.monitors = [] → a.width ≠ 64 →
    (∀ bs : List Byte, bs.length = a.width →
      let t := s.storeAt a r (.hbm x) bs
      (∀ k, k < bs.length → cellGet t.mem.hbm (x + k) = bs.getD k 0) ∧ (∀ b, b < x ∨ x + bs.length ≤ b → cellGet t.mem.hbm b = cellGet s.mem.hbm b)
        ∧ t.mem.host = s.mem.host ∧ t.mem.store = s.mem.store ∧ t.mem.wf = true ∧ t.runs = s.runs)
    ∧ (a.width = 4 → x % 64 ≤ 60 → a.fmt = 9 → ∀ op f, (op, f) ∈ [(0xBA, fun (o v : W32) => o + v), (0xBE, fun _ v => v), (0xC0, fun o v => o ||| v),
        (0xC1, fun o v => o &&& v)] → a.kind = .atomic op →
      let old := BitVec.ofNat 32 (bytesNat (cellRead s.mem.hbm x 4))
      bytesNat (cellRead (s.atomicAt a r (.hbm x)).mem.hbm x 4) = (f old (a.data.setWidth 32)).toNat)

/-- 08 R165, R166, R407, R167, 06 R118, 13 R275: a fetch-and-add meets its combining points, opens or joins a record; a record closes
after eight cycles, performs once and splits its reply: each member receives the old value plus the increments before it; an owner
node takes one request a cycle, the first to arrive, performs the writes of its update one by one, and logs an update of a relation
that is bound no more. -/
def Obligations.CombiningAndOwnerNodes : Prop :=
  (∀ (s : State) (id : Nat) (a : Access) (r : Run) (p : Place), s.acc? id = some a → s.run? a.run = some r → a.place = some p →
    a.stage = .pending → a.op = 0xBA ∨ a.op = 0xBB → a.wave = none →
    ((s.pointsOf r.die r.slot a.va p)[a.hops]? = none →
      exec (.faddArrival id) s = .next (s.modAcc id fun x => { x with hops := 2 }))
    ∧ (∀ pt t, (s.pointsOf r.die r.slot a.va p)[a.hops]? = some pt →
      s.meet pt r.slot a.va a.op 1 p (.acc id) (a.data.setWidth 64) (if a.hops = 0 then r.portOf a.port else r.die) = some t →
      exec (.faddArrival id) s = .next (t.modAcc id fun x => { x with stage := .combining, hops := x.hops + 1 })))
  ∧ (∀ (s : State) (pt slot va op n : Nat) (p : Place) (who : Requester) (inc : W64) (input : Nat), s.openRec pt p op who = none →
    s.tableRoom pt = true → ∃ t b, s.meet pt slot va op n p who inc input = some t ∧ t.ord.boom = s.ord.boom ++ [b] ∧ b.point = pt
      ∧ b.members = [(who, inc, s.cycle, input)] ∧ b.opened = s.cycle ∧ b.closed = false ∧ b.sum = inc)
  ∧ (∀ (s : State) (pt id : Nat) (b : BoomRec), s.rec? id = some b → b.point = pt → b.closed = false → b.opened + 8 ≤ s.cycle →
    exec (.boomWindowClose pt id) s = .next (s.modRec id fun b => { b with closed := true }))
  ∧ (∀ (s : State) (pt id : Nat) (b : BoomRec), s.rec? id = some b → b.point = pt → b.closed = true → b.sent = false →
    s.nextPoint b = none → s.conflicts (placeKey b.place) true none = [] → s.rangeOwner b.slot b.va = none →
    (∀ m x g, b.place ≠ .remote m x g) → exec (.perform (.record pt id)) s = .next (s.addRec b))
  ∧ (∀ (s : State) (pt id i j : Nat) (b : BoomRec) (old v w : W64) (a c : Access) (ci cj ni nj : Nat), s.rec? id = some b → b.point = pt →
    b.reply = some old → b.lost = false → b.psn = false → b.op = 0xBA → b.members = [(.acc i, v, ci, ni), (.acc j, w, cj, nj)] →
    s.acc? i = some a → i ≠ j → s.acc? j = some c → a.width = 4 → c.width = 4 →
    let s0 := { s with ord := { s.ord with boom := s.ord.boom.filter fun x => x.id != id } }
    exec (.split pt id) s = .next ((s0.atomDone a ((old.setWidth 32).setWidth 64) false false).atomDone c
      (((old + v).setWidth 32).setWidth 64) false false))
  ∧ (∀ (s : State) (die input : Nat) (m : OwnMsg),
    s.ord.ownq.find? (fun m => m.die == die && m.input == input && m.arrived.isNone) = some m →
    (∀ x ∈ s.ord.ownq, x.die = die → x.arrived = none ∧ x.todo = []) → (s.die die).applied.map (·.1) ≠ some s.cycle →
    let m' := { m with arrived := some s.cycle }
    let s1 : State := { s with ord := { s.ord with ownq := setFirst m m' s.ord.ownq } }
    (m.kind = .insert ∨ m.kind = .agg →
      let n := match s1.relHdr m.slot m.rel with
        | .ok h => hdrCols h
        | .error _ => 0
      let key := (List.range n).map fun c => fld m.key (32 * c + 31) (32 * c)
      ((s.relOwner m.slot m.rel).any (fun o => o.die == die && o.run == m.holder) = false →
        exec (.ownerApply die input) s = .next
          (((s1.ownerTook m').logEvent die 0x319 none (some (s.identity m.run)) none none (some m.rel)).countApplied m.holder))
      ∧ (∀ t fl, (s.relOwner m.slot m.rel).any (fun o => o.die == die && o.run == m.holder) = true →
        s1.relApply m.slot m.rel (m.kind == .insert) key m.wgt m.wit = .done t fl →
        let s2 := s1.noteRead (some (s.identity m.run)) m.slot m.rel 64
        (s1.mem.writesTo t.mem = [] → exec (.ownerApply die input) s = .next
          ((({ s2 with ord := t.ord }.ownerTook m').raise m.holder fl).countApplied m.holder))
        ∧ (s1.mem.writesTo t.mem ≠ [] →
          let m2 := { m' with todo := s1.mem.writesTo t.mem }
          let s3 : State := { s2 with ord := { t.ord with ownq := setFirst m' m2 t.ord.ownq } }
          exec (.ownerApply die input) s = .next
            (((s3.modDie die fun d => { d with applied := some (s.cycle, s.cycle, input) }).raise m.holder fl).ownerWrites m2))))
    ∧ (∀ id a r p, m.kind = .atomic id → s.acc? id = some a → s.run? a.run = some r → a.place = some p →
      s.conflicts (placeKey p) true none = [] → exec (.ownerApply die input) s = .next
        (((s1.noteAt (some (s.identity a.run)) p a.width).ownerTook m').atomicAt a r p)))
  ∧ (∀ (s : State) (die input : Nat) (m : OwnMsg) (p : Place) (bs : List Byte) (rest : List (Place × List Byte)),
    s.ord.ownq.find? (fun m => m.die == die && m.input == input && m.arrived.isNone) = none →
    s.ord.ownq.find? (fun m => m.die == die && !m.todo.isEmpty) = some m → m.todo = (p, bs) :: rest → s.ord.waves = [] →
    let t := (s.writeAt p bs).1
    exec (.ownerApply die input) s = .next (if rest = [] then (t.popOwn m).countApplied m.holder
      else { t with ord := { t.ord with ownq := setFirst m { m with todo := rest } t.ord.ownq } }))
  ∧ (∀ (s : State) (die input : Nat),
    s.ord.ownq.find? (fun m => m.die == die && m.input == input && m.arrived.isNone) = none →
    (∀ x ∈ s.ord.ownq, x.die = die → x.todo = []) → (s.die die).applied.map (·.1) = some s.cycle →
    exec (.ownerApply die input) s = .next s)

/-- 03 R49 to R53: a store of a wave is held and changes no memory; COMMIT of the oldest wave whose elements have fired and whose
accesses are held: its writes perform together, its tokens leave, its counts restart; a wave whose line another agent wants aborts,
counted, and uncommitted later ones with it; from the fourth abort it runs serialised, under the die's lock. -/
def Obligations.WavesCommitAndAbort : Prop :=
  (∀ (s : State) (id k : Nat) (a : Access) (r : Run) (p : Place), s.acc? id = some a → s.run? a.run = some r → a.stage = .pending →
    a.place = some p → a.wave = some k → a.kind = .store ∨ a.kind = .release → s.conflicts (placeKey p) true (some a.blk) = [] →
    s.hasLine a.blk k (placeKey p) = true ∨ s.heldLines r.die < 16 →
    ∃ t, exec (.perform (.whole id)) s = .next t ∧ t.mem = s.mem ∧ t.acc? id = some { a with stage := .done }
      ∧ ((s.wave? a.blk k).isSome → t.hasLine a.blk k (placeKey p) = true))
  ∧ (∀ (s : State) (b : BlkRef) (r : Run) (x : Blk) (w : Wave), s.run? b.run = some r → s.blk? b = some x → r.st = .resident → x.tx = true →
    s.wave? b x.committed = some w → (∀ e ∈ x.elems, x.committed < e.fires) →
    (∀ a ∈ s.ord.accs, a.blk = b → a.wave = some x.committed → a.stage = .done ∨ a.kind = .egress) →
    ∃ t y, exec (.commit b) s = .next t ∧ t.blk? b = some y ∧ y.committed = x.committed + 1 ∧ y.aborts = 0
      ∧ y.serial = (if x.serial = some x.committed then none else x.serial)
      ∧ y.words = x.words ∧ t.wave? b x.committed = none ∧ (x.serial = some x.committed → (t.die r.die).lock ≠ some b))
  ∧ (∀ (s : State) (b : BlkRef) (r : Run) (x : Blk) (k : Nat) (w : Wave), s.run? b.run = some r → s.blk? b = some x → r.st = .resident →
    s.wave? b k = some w → s.serialised w = false → s.waveHit b k = true →
    (x.aborts < 3 → exec (.txAbort b k .conflict) s = .next ((s.dropWaves b k).modBlk b fun y => { y with
      aborts := y.aborts + 1, serial := if 4 ≤ y.aborts + 1 then y.serial.orElse (fun _ => some k) else y.serial }))
    ∧ (x.aborts = 3 → r.die < s.dies.length → ∃ t y, exec (.txAbort b k .conflict) s = .next t ∧ t.blk? b = some y ∧ y.aborts = 4
      ∧ y.serial = x.serial.orElse (fun _ => some k) ∧ (t.die r.die).lock = (s.die r.die).lock.orElse (fun _ => some b)))
  ∧ (∀ (s : State) (b : BlkRef) (k : Nat) (w : Wave), s.wave? b k = some w →
    (s.dropWaves b k).ord.waves = s.ord.waves.filter (fun u => !(u.blk == b && decide (k ≤ u.k)))
    ∧ (s.dropWaves b k).mem = s.mem
    ∧ ∀ a ∈ (s.dropWaves b k).ord.accs, a.blk = b → ∀ j, a.wave = some j → j < k)

/-- 08 R163, R164, 13 R291, 20 R340, R342, 24 R380 to R383: host writes and ingress tokens queue in order; a token reaches its run behind the
host writes before it; the host write at the front performs line by line; a BAR 4 read answers what stands there; an egress token is a 16-byte entry of its ring; ten launch words bind
a port or say why not; a launch that meets the teardown of its context in the same cycle says that it is torn down and is counted. -/
def Obligations.HostQueuesAndPorts : Prop :=
  (∀ (s : State) (slot addr : Nat) (bs : List Byte), exec (.hostBar4Write slot addr bs) s = .next
      { s with ord := { s.ord with nextId := s.ord.nextId + 1, hostq := s.ord.hostq ++ [⟨s.ord.nextId, true, slot, addr, bs, 0, false⟩] } })
  ∧ (∀ (s : State) (slot addr n : Nat) (bs : List Byte) (psn : Bool), s.ord.waves = [] →
    let t := s.noteRead none slot addr n
    t.vread slot addr n = .ok (bs, psn) →
    exec (.hostBar4Read slot addr n) s = .next { t with chip := { t.chip with hostOut := t.chip.hostOut ++ [4 :: bs] } })
  ∧ (∀ (s : State) (x : Nat) (h : HostItem), s.ord.hostq.find? (fun h => h.write) = some h → h.sent = false → s.acc? h.id = none →
    (s.vplace h.a h.b true = .ok (.hbm x) → s.conflicts (x / 64) true none = [] → exec (.perform (.whole h.id)) s = .next
      ((s.storeBy ⟨homeDie x, h.a, h.b, none, []⟩ (.hbm x) (h.bytes.take (64 - h.b % 64))).hostAdvance h.id))
    ∧ (∀ e, s.vplace h.a h.b true = .error e → exec (.perform (.whole h.id)) s = .next (s.hostAdvance h.id))
    ∧ (h.bytes.length ≤ 64 - h.b % 64 → h.advance = none)
    ∧ (64 - h.b % 64 < h.bytes.length → h.advance = some { h with
        b := h.b + (64 - h.b % 64), bytes := h.bytes.drop (64 - h.b % 64), sent := false }))
  ∧ (∀ (s : State) (die port run : Nat) (h : HostItem) (p : HPort), s.ord.hostq.find? (fun h => !h.write && h.a == die && h.b == port) = some h →
    s.adm.ports.find? (fun p => p.die == die && p.port == port) = some p → p.run = some run → (s.run? run).isSome = true →
    (((s.ord.hostq.takeWhile fun x => x.id != h.id).any (·.write)) = false → exec (.hdeliver die port) s = .next
      (({ s with ord := { s.ord with hostq := s.ord.hostq.filter fun x => x.id != h.id } } : State).modRun run fun r =>
        { r with inq := r.inq ++ [Token.ofScalarBits (h.word.setWidth 46)] }))
    ∧ (((s.ord.hostq.takeWhile fun x => x.id != h.id).any (·.write)) = true → exec (.hdeliver die port) s = .next s))
  ∧ (∀ (s : State) (slot ring : Nat) (t : EgTok), s.ord.egq.find? (fun t => t.slot == slot && t.ring == ring) = some t →
    let held := s.ord.accs.any fun a => t.before.contains a.id
    let v := s.ring slot ring
    let head := fld v 95 64
    let size := 2 ^ (6 + fld v 3 0)
    let free := (head + 2 ^ 32 - fld v 127 96) % 2 ^ 32 < size
    let bytes := natBytes 8 (t.word.toNat % 2 ^ 46) ++ natBytes 8 (s.identity t.run % 2 ^ 24 + (head / size + 1) % 2 * 2 ^ 63)
    (held = false → free → ∃ u, exec (.edeliver slot ring) s = .next u
      ∧ u.mem.host = cellWrite s.mem.host (fld v 63 12 * 4096 + 16 * (head % size)) bytes ∧ fld (u.ring slot ring) 95 64 = (head + 1) % 2 ^ 32
      ∧ u.ord.egq = s.ord.egq.erase t ∧ u.runs = s.runs ∧ u.mem.hbm = s.mem.hbm)
    ∧ (held = true ∨ ¬ free → exec (.edeliver slot ring) s = .next s))
  ∧ (∀ (s : State) (die port : Nat) (w : W64), s.ready = true → die < 8 → port < 256 → (s.port die port).run = none →
    (((s.port die port).words.length + 1 < 10) → exec (.ingressLaunchWord die port w) s = .next
      (s.setPort { s.port die port with words := (s.port die port).words ++ [w] }))
    ∧ (9 ≤ (s.port die port).words.length → exec (.ingressLaunchWord die port w) s = .next
      (s.portLaunch (s.port die port) ((s.port die port).words ++ [w]))))
  ∧ (∀ (s : State) (p : HPort) (ws : List W64) (k d : Nat), fld (ws.getD 0 0) 63 57 = 0 → fld (ws.getD 1 0) 63 15 = 0 →
    (s.ctx? (fld (ws.getD 1 0) 7 0)).isSome = true → tenEn (s.tenant (s.tenantOf (fld (ws.getD 1 0) 7 0))) = true →
    (ws.getD 1 0).getLsbD 11 = false → s.pickDie (fld (ws.getD 1 0) 7 0) = some d →
    (s.freeRunId = none → s.portLaunch p ws = s.portFree p 1)
    ∧ (s.freeRunId = some k → (s.portLaunch p ws).adm.launches = s.adm.launches ++
        [⟨k, fld (ws.getD 1 0) 7 0, fld (ws.getD 0 0) 56 0, d, some (p.die, p.port), none, ws.drop 2, fld (ws.getD 1 0) 10 8, p.port % 16⟩]
      ∧ ((s.portLaunch p ws).port p.die p.port).run = some k ∧ ((s.portLaunch p ws).port p.die p.port).lstat = 0))
  ∧ (∀ (s : State) (p : HPort) (ws : List W64), fld (ws.getD 0 0) 63 57 = 0 → fld (ws.getD 1 0) 63 15 = 0 →
    let slot := fld (ws.getD 1 0) 7 0
    s.ctx? slot = none →
    (s.adm.torn.all (fun q => q.1 != slot) = true → s.portLaunch p ws = s.portFree p 3)
    ∧ (∀ q rest, s.adm.torn = q :: rest → q.1 = slot →
      ((s.portLaunch p ws).port p.die p.port).lstat = 4 ∧ (s.portLaunch p ws).adm.launches = s.adm.launches
        ∧ (s.portLaunch p ws).mem.host = cellWrite s.mem.host (q.2.1 + 4) (natBytes 4 (q.2.2 + 1))))
  ∧ (∀ (s : State) (die port run : Nat) (w : W64), (s.port die port).run = some run → (s.port die port).used < 64 →
    ∃ t, exec (.ingressTokenWord die port w) s = .next t ∧ (t.port die port).used = (s.port die port).used + 1
      ∧ t.ord.hostq = s.ord.hostq ++ [⟨s.ord.nextId, false, die, port, [], BitVec.ofNat 64 (w.toNat % 2 ^ 46), false⟩])

/-- 08 R161, R162, 05 R89, R90, 07 R144, 13 R281 to R290: DEQUEUE hands a request to the engine of its kind; EWRITE performs a buffered
write behind those that it must follow, and the last of its request in a line sets it full; a refused SEND retries; a message goes to
the first matching receive, one that travels with its payload lands with it, and a long one is pulled; a landing buffers the writes of
its bytes; a sector of a copy reads its source into buffered writes; a stalled STASH raises STASHFULL; a coded block becomes two
tokens. -/
def Obligations.EngineEvents : Prop :=
  (∀ (s : State) (id : Nat) (q : Req) (r : Run), s.req? id = some q → s.run? q.run = some r → q.taken = false →
    ∀ row ∈ [(AccKind.xfer, s.dequeueXfer q r.slot), (.stash, s.dequeueStash q r.slot), (.unstash, s.dequeueUnstash q r.slot),
      (.send, s.dequeueSend q r.slot), (.postr, s.dequeueRecv q r.slot), (.probeq, s.dequeueRecv q r.slot), (.cancelr, s.dequeueCancel q)],
    q.kind = row.1 → exec (.dequeue id) s = .next row.2)
  ∧ (∀ (s : State) (id x : Nat) (w : EWrite), s.ord.wbuf.find? (fun w => w.id == id) = some w → s.ord.monitors = [] → w.sent = false →
    s.writeHeld w = false → s.vplace w.slot w.va true = .ok (.hbm x) → s.conflicts (x / 64) true none = [] → s.poisoned x = false →
    s.req? w.req = none →
    ∃ t, exec (.ewrite id) s = .next t ∧ t.mem.hbm = cellWrite s.mem.hbm x w.bytes ∧ t.ord.wbuf = s.ord.wbuf.filter (fun y => y.id != id)
      ∧ t.runs = s.runs ∧ (w.poison = true → t.mem.poison.contains (x / 64) = true)
      ∧ (w.sets = true → (∀ y ∈ s.ord.wbuf, y.req = w.req → y.id ≠ w.id → y.va / 64 ≠ w.va / 64) → t.isFull x = true))
  ∧ (∀ (s : State) (id : Nat) (w : EWrite), s.ord.wbuf.find? (fun w => w.id == id) = some w → w.sent = true ∨ s.writeHeld w = true →
    exec (.ewrite id) s = .next s)
  ∧ (∀ (s : State) (id c : Nat) (q : Req), s.req? id = some q → q.stallAt = some c → q.kind = .send → c + 1600 ≤ s.cycle →
    ∃ t, exec (.sendRetry id) s = .next t ∧ t.eng.arrivals = s.eng.arrivals.map (fun m => if m.req = id then { m with refused := false } else m)
      ∧ (t.req? id).map (·.stallAt) = some none)
  ∧ (∀ (s : State) (die k : Nat) (m : Msg) (r : Run) (p : Post), nthOf die k s.eng.arrivals = some m →
    (s.eng.arrivals.takeWhile fun x => x != m) = [] → m.refused = false → m.back.isNone || m.bytes.length == m.len → s.eng.cancels = [] →
    s.run? m.dst = some r → s.eng.posts.find? (fun p => p.die == die && recvMatches p.desc p.run m.dst m.src m.tag) = some p →
    (relLenBad p.desc m.len = true → exec (.messageArrival die k) s = .next ((s.dropMsg m).sendStatus m 7))
    ∧ (relLenBad p.desc m.len = false →
      let go (s : State) (bs : List Byte) (bad : List Nat) : State :=
        let t := s.dropMsg m
        ({ t with eng := { t.eng with posts := t.eng.posts.erase p } }).land r p m bs bad
      (m.bytes.length = m.len → exec (.messageArrival die k) s = .next (go s m.bytes m.poison))
      ∧ (m.bytes.length ≠ m.len → exec (.messageArrival die k) s = .next (s.withPayload m go))))
  ∧ (∀ (s : State) (die k : Nat) (m : Msg) (p : Post) (r : Run), nthOf die k s.eng.unexpected = some m → m.matched = some p →
    s.run? m.dst = some r → exec (.rendezvousPull die k) s = .next (s.withPayload m fun s bs bad => (s.dropMsg m).land r p m bs bad))
  ∧ (∀ (s : State) (m : Msg) (q : Req) (rd : EngRead) (go : State → List Byte → List Nat → State), m.bytes.length ≠ m.len →
    s.req? m.req = some q → s.ord.waves = [] → s.eread q.id (q.slotOf s) (m.len / 64 + 2) q.src m.len = .ok rd → rd.miss = [] →
    s.withPayload m go = go (({ s with eng := { s.eng with fetched := s.eng.fetched.filter fun f =>
        !(f.req == q.id && decide (q.src < f.va + 64) && decide (f.va < q.src + m.len)) } }).noteRead (some (s.identity q.run)) (q.slotOf s) q.src m.len)
      rd.bytes (rd.psn.map (· - q.src / 64)))
  ∧ (∀ (s : State) (r : Run) (p : Post) (m : Msg) (bs : List Byte) (bad : List Nat), p.desc.getLsbD 96 = false →
    let n := min m.len (fld p.desc 95 64)
    let ws := psnWrites (fld p.desc 56 0) 0 (bs.take n) bad
    ws ≠ [] → (s.land r p m bs bad).ord.wbuf.map (fun w => (w.va, w.bytes, w.poison)) = s.ord.wbuf.map (fun w => (w.va, w.bytes, w.poison)) ++ ws
      ∧ ∃ q ∈ (s.land r p m bs bad).ord.reqs, q.kind = .postr ∧ q.chan = fld p.desc 100 97
        ∧ q.held = [completionTok (if bad ≠ [] then 3 else if fld p.desc 95 64 < m.len then 1 else 0) m.src m.tag n (recvCookie p.desc) .data 0])
  ∧ (∀ (s : State) (id k : Nat) (q : Req) (r : Run) (rd : EngRead), s.req? id = some q → s.run? q.run = some r →
    r.st = .resident → q.kind = .xfer → q.taken = true → q.finished = false → q.sectorDone k = false → q.inflight.contains k = true →
    xfFkind q.packet = 0 → xfTkind q.packet = 0 → xfCheck q.packet = false → k + 1 < q.sectors → q.first = k → q.doneS = [] →
    let n := min 4096 (q.len - 4096 * k)
    let a := q.src + 4096 * k
    s.ord.waves = [] → s.eread q.id r.slot (n / 64 + 2) a n = .ok rd → rd.miss = [] →
    (({ s with eng := { s.eng with fetched := s.eng.fetched.filter fun f =>
        !(f.req == q.id && decide (a < f.va + 64) && decide (f.va < a + n)) } }).noteRead (some (s.identity q.run)) r.slot a n).unwritable r.slot
      (q.dst + 4096 * k) n = none →
    ∃ t y, exec (.xferSectorDone id k) s = .next t ∧ t.req? id = some y ∧ y.first = k + 1 ∧ y.finished = false
      ∧ y.status = (if rd.psn = [] then q.status else 2)
      ∧ t.ord.wbuf.map (fun w => (w.va, w.bytes, w.req)) =
        s.ord.wbuf.map (fun w => (w.va, w.bytes, w.req))
          ++ (psnWrites (q.dst + 4096 * k) (q.src + 4096 * k) rd.bytes rd.psn).map (fun w => (w.1, w.2.1, q.id)))
  ∧ (∀ (s : State) (id c : Nat) (q : Req), s.req? id = some q → q.stallAt = some c → q.kind = .stash → q.taken = false →
    c + 2 ^ 16 ≤ s.cycle → exec (.stashStallTimeout id) s = .next (s.trapReq q .stashfull))
  ∧ (∀ (s : State) (e : ElemRef) (input : Nat) (h : Here) (f : Fab) (t : Token) (rest : List Token) (els : List Nat), s.site e = some h →
    (instrAt h.blk e.idx).bind fabOf = some f → h.elem.queue input = t :: rest → t.vec = true → (h.load.chan t.chan).fmt = 5 ∨ (h.load.chan t.chan).fmt = 6 →
    f.unit ≠ 15 → t.mark.isEnd = false → h.run.st = .resident → t.isPoison = false →
    decodeBlock (h.load.chan t.chan).fmt h.load.ctabs t.data = some els →
    let half (i : Nat) (m : Mark) := vecTok (packLanes ((List.range 16).map fun l => BitVec.ofNat 32 (els.getD (16 * i + l) 0))) 0xFFFF m (32 + t.chan)
    exec (.codedBlockDecode e input) s = .next
      (s.modElem e fun el => el.setQueue input ({ half 0 .data with skip := t.skip } :: half 1 t.mark :: rest)))

/-- 03 R42 to R44, R55, R56, 06 R119, R122 to R126, 10 R194, 12 R241 to R246: replies end the words that wait for them, with the status
in G[GA]; a group's home module answers its requests; the sums of a FIXB or FIXE reach every member, two quiet passes one after the other
end the stratum; a lost request is UNREACH or FIXLOST. The order of the statuses BUSY, ALREADY and LIMIT is the model's choice (log 69). -/
def Obligations.RepliesToRuns : Prop :=
  (∀ (s : State) (k : Nat) (q : GroupReq), s.adm.greqs[k]? = some q → q.arrived = false → q.far = false →
    let a := if q.join then s.joinAt q.run q.group else s.leaveAt q.run q.group
    exec (.groupRequestArrival k) s = .next { a.2.2 with adm := { a.2.2.adm with
      greqs := modAt (fun x => { x with arrived := true, status := a.1, made := a.2.1 }) a.2.2.adm.greqs k } })
  ∧ (∀ (s : State) (run : Nat) (v : W64) (g : Group) (r : Run), s.run? run = some r → v ≠ 0 → s.group? (v.setWidth 20) = some g →
    g.arrivals = [] → g.drops = [] →
    (g.fixOpen = true → (s.joinAt run v).1 = 8)
    ∧ (g.fixOpen = false → g.members.contains (s.identity run) = true → (s.joinAt run v).1 = 5)
    ∧ (g.fixOpen = false → g.members.contains (s.identity run) = false → 16 ≤ r.groups.length → (s.joinAt run v).1 = 4)
    ∧ (g.fixOpen = false → g.members.contains (s.identity run) = false → r.groups.length < 16 →
      (s.joinAt run v).1 = 0
      ∧ ((s.joinAt run v).2.2.group? (v.setWidth 20)).map (·.members) = some (g.members ++ [s.identity run])
      ∧ ∃ r', (s.joinAt run v).2.2.run? run = some r' ∧ r'.groups.contains (v.setWidth 20) = true))
  ∧ (∀ (s : State) (run id : Nat) (r : Run) (q : GroupReq) (ga gb : BitVec 6), s.run? run = some r → r.esc.wait = .sent id →
    r.issues = true → s.adm.greqs.find? (fun q => q.id == id && q.arrived) = some q →
    let s' := { s with adm := { s.adm with greqs := s.adm.greqs.erase q } }
    (s.wordAt r = some (.join ga gb) → exec (.groupReply run) s = .next (s'.doneWord run fun r =>
        if q.status = 1 then (r.setG ga (BitVec.ofNat 64 q.status)).setG gb (q.made.setWidth 64) else r.setG ga (BitVec.ofNat 64 q.status)))
    ∧ (s.wordAt r = some (.leave ga gb) → exec (.groupReply run) s = .next (s'.doneWord run fun r => r.setG ga (BitVec.ofNat 64 q.status))))
  ∧ (∀ (s : State) (run id st ident : Nat) (r : Run) (ga gb gc : BitVec 6), s.run? run = some r → r.esc.wait = .sent id → r.issues = true →
    s.wordAt r = some (.launch ga gb gc) → s.adm.lreplies.find? (fun q => q.1 == id) = some (id, st, ident) →
    exec (.launchReply run) s = .next (({ s with adm := { s.adm with lreplies := s.adm.lreplies.erase (id, st, ident) } } : State).doneWord run
      fun r => r.setG ga (BitVec.ofNat 64 (st + ident * 2 ^ 16))))
  ∧ (∀ (s : State) (run k h : Nat) (r : Run) (gb : BitVec 6) (rl : BitVec 16) (grp : BitVec 8) (acks : List (Bool × Bool)),
    s.run? run = some r → r.st = .resident → r.esc.wait = .opening acks → s.wordAt r = some (.fixb gb rl grp) → acks[k]? = some (true, false) →
    (s.rlist r rl.toNat).2[k]? = some h →
    (∀ t, s.openRel r.slot h (s.rlist r rl.toNat).1 (s.fixGroup r gb grp.toNat) = .ok t →
      exec (.fixbOpenAck run k) s = .next (t.setWait run (.opening (setAt acks k (true, true)))))
    ∧ (∀ w, s.openRel r.slot h (s.rlist r rl.toNat).1 (s.fixGroup r gb grp.toNat) = .error w →
      exec (.fixbOpenAck run k) s = .next ((s.setWait run (.opening (setAt acks k (false, false)))).stopWord run w)))
  ∧ (∀ (s : State) (run c : Nat) (r : Run) (gb : BitVec 6) (rl : BitVec 16) (grp : BitVec 8), s.run? run = some r → r.st = .resident →
    r.esc.wait = .retry c → s.wordAt r = some (.fixb gb rl grp) → c + 64 ≤ s.cycle →
    exec (.fixbRetry run) s = .next (s.fixbSum r (s.fixGroup r gb grp.toNat)))
  ∧ (∀ (s : State) (name : BitVec 20) (g : Group), s.group? name = some g → g.members ≠ [] →
    (∀ m ∈ g.members, (g.sums.any fun c => c.run == m) = true ∧ ∀ run, s.own? m = some run →
      ∃ r, s.run? run = some r ∧ r.st = .resident ∧ r.esc.wait = .sum) →
    let tn : Nat := (g.sums.map (·.n)).foldl (· + ·) 0
    let tb : Int := (g.sums.map (·.bal)).foldl (· + ·) 0
    let q : Nat := if (g.sums.all (·.atEnd)) = true ∧ tn = 0 ∧ tb = 0 then g.quiet + 1 else 0
    exec (.combineSumsReply name) s = .next (g.sums.foldl (fun s c => match c.back, s.own? c.run with
        | some f, _ => s.tellTotals f g.pass (tn, tb, q == 2)
        | none, some run => State.sumTo tn tb (q == 2) name s run
        | none, none => s)
      (s.modGroup name fun g => { g with
        sums := [], quiet := if q = 2 then 0 else q, fixOpen := !(q == 2), pass := g.pass + 1, totals := (tn, tb, q == 2) })))
  ∧ (∀ (s : State) (run k h : Nat) (r : Run) (rl : BitVec 16) (acks : List (Bool × Bool)), s.run? run = some r → r.st = .resident →
    r.esc.wait = .rotating acks → s.wordAt r = some (.rotate rl) → acks[k]? = some (true, false) → (s.rlist r rl.toNat).2[k]? = some h →
    exec (.rotateAck run k) s = .next (if (setAt acks k (true, true)).all (·.2) then (s.rotateRel r h).doneWord run id
      else (s.rotateRel r h).setWait run (.rotating (setAt acks k (true, true)))))
  ∧ (∀ (s : State) (run : Nat) (r : Run) (ga gb : BitVec 6) (rl : BitVec 16) (hs : List (Nat × Line)) (es : List (BitVec 256)),
    s.run? run = some r → r.st = .resident → r.esc.wait = .retracting → s.wordAt r = some (.retract ga gb rl) →
    s.retractCheck r rl.toNat (r.getG gb) = .ok (hs, es) →
    let m := Marks.scans r.slot (s.image? r) hs ((hs.map fun x => 2 ^ hdrLcap x.2).foldl (· + ·) 1) (es.foldl (Marks.named r.slot hs) ⟨s, 0, none⟩)
    m.stop = none → exec (.retractComplete run) s = .next (m.s.doneWord run fun r => r.setG ga (BitVec.ofNat 64 m.n)))
  ∧ (∀ (s : State) (run id : Nat) (r : Run) (ga gb : BitVec 6), s.run? run = some r → r.issues = true → r.esc.wait = .sent id →
    r.esc.sentAt + 2 ^ 24 ≤ r.cycles → s.wordAt r = some (.join ga gb) →
    exec (.requestLost run .timeout) s = .next (s.doneWord run fun r => r.setG ga 9))

/-- 03 R36, R46 to R48, 04 R76 to R79, 09 R181 to R185, 20 R339: a configuration is registered four cycles after its last sink; the load
that a word waits for starts or is LOADFLT; a background load fills the inactive plane; the planes are exchanged after forty cycles;
launches share the outcome of their image; the watchdog sends a probe, which ends in the run as before, LONGWAIT or DEADLOCK. -/
def Obligations.ConfigurationEvents : Prop :=
  (∀ (s : State) (run p i c : Nat) (r : Run) (l : Loaded), s.run? run = some r → r.load? p i = some l → l.doneAt = some c →
    r.st = .resident → l.registered = false → c + 4 ≤ s.cycle →
    let t := s.modLoad run p i fun l => { l with registered := true }
    (l.stray? = none → exec (.configDone run p i) s = .next t)
    ∧ (∀ f, l.stray? = some f → exec (.configDone run p i) s = .next
        ((t.modLoad run p i fun l => { l with stray := true }).takeTrap run .stray f)))
  ∧ (∀ (s : State) (run cfg rule : Nat) (full : Bool) (r : Run), s.run? run = some r → r.st = .resident → r.esc.wait = .loading →
    s.confAt r = some (cfg, rule, full) →
    let got := s.loadActive r (rule != 0) cfg fun i l => !s.drained run r.act i l
    (∀ f, got = .error f → exec (.configurationLoadComplete run) s = .next (s.loadFault run f))
    ∧ (∀ t i r', got = .ok (t, i) → t.run? run = some r' →
      exec (.configurationLoadComplete run) s = .next ((t.startLoad r' i rule full).doneWord run id)))
  ∧ (∀ (s : State) (r : Run) (isRule : Bool) (cfg : Nat) (keep : Nat → Loaded → Bool),
    let p := r.plane r.act
    let held := (p.loads.zipIdx.filter fun q => q.1.cfg != cfg && keep q.2 q.1).map (·.1)
    let got := s.fetchCfg r isRule cfg (heldSpots (fun i l => !keep i l) p) held
    (∀ f, got = .error f → s.loadActive r isRule cfg keep = .error f)
    ∧ (∀ l c, got = .ok (l, c) → planesClash l.carves (r.plane (1 - r.act)).carves = true ∨ carvesClash l.carves (held.flatMap (·.carves)) = true →
      s.loadActive r isRule cfg keep = .error (fault3 .badcarve 0 0))
    ∧ (∀ l c, got = .ok (l, c) → planesClash l.carves (r.plane (1 - r.act)).carves = false → carvesClash l.carves (held.flatMap (·.carves)) = false →
      let t := s.preload r c l
      s.loadActive r isRule cfg keep =
        .ok (t.setRun (r.setPlane r.act (p.install (t.noteLoad r l)).1), (p.install (t.noteLoad r l)).2)))
  ∧ (∀ (s : State) (run cfg : Nat) (r : Run), s.run? run = some r → r.st = .resident → (r.plane (1 - r.act)).loading = some cfg →
    let q := 1 - r.act
    let fail (f : LoadFault) : State := s.setRun (r.setPlane q { r.plane q with loading := none, fault := some f })
    (∀ f, s.fetchCfg r false cfg [] [] = .error f → exec (.shadowLoadComplete run) s = .next (fail f))
    ∧ (∀ l c, s.fetchCfg r false cfg [] [] = .ok (l, c) →
      (planesClash l.carves (r.plane r.act).carves = true → exec (.shadowLoadComplete run) s = .next (fail (fault3 .badcarve 0 0)))
      ∧ (planesClash l.carves (r.plane r.act).carves = false → exec (.shadowLoadComplete run) s = .next
        ((s.preload r c l).setRun (r.setPlane q
          { r.plane q with loads := [(s.preload r c l).noteLoad r l], accs := [], loading := none, fault := none })))))
  ∧ (∀ (s : State) (run c : Nat) (r : Run), s.run? run = some r → r.st = .resident → r.esc.wait = .swapping c → c + 40 ≤ r.cycles →
    (r.plane (1 - r.act)).reload = none → r.esc.sqc + 1 < (s.seqOf r).length →
    ∃ t r', exec (.planeExchange run) s = .next t ∧ t.run? run = some r' ∧ r'.act = 1 - r.act ∧ r'.plane r.act = r.plane r.act
      ∧ r'.esc.sqc = r.esc.sqc + 1 ∧ r'.esc.wait = .idle ∧ r'.esc.g = r.esc.g
      ∧ ∀ l ∈ (r'.plane r'.act).loads, l.cfg ≠ 65536 → l.running = true)
  ∧ (∀ (s : State) (k : Nat) (l : Launch), s.adm.launches[k]? = some l →
    let mine (x : Launch) : Bool := x.slot == l.slot && x.image == l.image
    let rest (s : State) : State := { s with adm := { s.adm with launches := s.adm.launches.filter fun x => !mine x } }
    (∀ t, s.imageFor l.slot l.image = .ok t → exec (.imageValidationComplete k) s = .next
      ((s.adm.launches.filter mine).foldl State.launched (rest t)))
    ∧ (∀ f, s.imageFor l.slot l.image = .error f → exec (.imageValidationComplete k) s = .next
      ((s.adm.launches.filter mine).foldl (fun s l => s.launchFailed f l) (rest s))))
  ∧ (∀ (s : State) (l : Launch), ∃ r, (s.launched l).runs = s.runs ++ [r] ∧ r.id = l.run ∧ r.slot = l.slot ∧ r.image = l.image ∧ r.die = l.die
    ∧ r.st = .pending ∧ r.esc.sqc = 0 ∧ r.getG 0 = 0 ∧ r.esc.flags = 0 ∧ r.esc.loops = [] ∧ (∀ k, k < 8 → r.getG (BitVec.ofNat 6 (k + 1)) = l.args.getD k 0))
  ∧ (∀ (s : State) (run : Nat) (r : Run), s.run? run = some r → r.st = .resident → r.probing = none →
    (2 ^ 20 ≤ r.idle → exec (.watchdogExpiry run) s = .next (s.modRun run fun r => { r with probing := some (s.cycle, s.firstBlocked r) }))
    ∧ (r.idle < 2 ^ 20 → exec (.watchdogExpiry run) s = .next s))
  ∧ (∀ (s : State) (run c : Nat) (r : Run) (origin : Option ElemRef), s.run? run = some r → r.probing = some (c, origin) →
    let t := s.modRun run fun r => { r with probing := none }
    let found : ProbeStop ⊕ ElemRef := match origin with
      | some e => .inr e
      | none => t.probeEscapement r
    (found = .inl .fires → exec (.cruiseProbeEnd run) s = .next (t.modRun run fun r => { r with idle := 0 }))
    ∧ (∀ x, found = .inl (.wait x) → exec (.cruiseProbeEnd run) s = .next (t.longWait r x none))
    ∧ (∀ e, found = .inr e →
      (probeOutcome (t.probeWalk c 600 0 1 [[e]]) = .fires →
        exec (.cruiseProbeEnd run) s = .next (t.modRun run fun r => { r with idle := 0 }))
      ∧ (∀ x y, probeOutcome (t.probeWalk c 600 0 1 [[e]]) = .wait x y → exec (.cruiseProbeEnd run) s = .next (t.longWait r x (some y)))
      ∧ (∀ path, probeOutcome (t.probeWalk c 600 0 1 [[e]]) = .cycle path → exec (.cruiseProbeEnd run) s = .next (t.deadlock run path))))

/-- 22 R362 to R366, 23 R377 to R379, 20 R344, R345, 19 R333 to R336: an uncorrectable error poisons or loses what it strikes (stores, latches,
return and stream buffers, escapement inputs, ingress channels) and is logged; a
configuration plane reloads and is checked; alarms log, erase keys and hold; the Arbor places the first waiting run that fits, ages
those that wait and ends quanta; a readout writes the record, of the layout of 19 R334, and frees the pages; a restore puts back what
the record says, or answers STATE. The places inside the record's sections are the model's (log 7). -/
def Obligations.ErrorsAlarmsAndScheduling : Prop :=
  (∀ (s : State) (line : Nat), exec (.uncorrectableError (.hbmData line)) s = .next
      ((s.poisonLine line).logEvent (homeDie (64 * line)) 0x301 (some 0) none none none (some (64 * line))))
  ∧ (∀ (s : State) (e : ElemRef) (k pos : Nat) (h : Here), s.site e = some h → pos < (h.elem.queue k).length → k < h.elem.q.length →
    ∃ t h', exec (.uncorrectableError (.queue e k pos)) s = .next t ∧ t.site e = some h'
      ∧ h'.elem.queue k = modAt errTok (h.elem.queue k) pos)
  ∧ (∀ (s : State) (e : ElemRef) (h : Here), s.site e = some h →
    (∃ t h', exec (.uncorrectableError (.latch e)) s = .next t ∧ t.site e = some h' ∧ h'.elem.latch = errTok h.elem.latch ∧ h'.elem.q = h.elem.q
      ∧ ∀ total folded psn, h.elem.ctl = .accum total folded psn → h'.elem.ctl = .accum total folded true)
    ∧ ∀ (k pos : Nat) (i : OutItem), h.elem.out[k]? = some i →
      ∃ t h', exec (.uncorrectableError (.result e k pos)) s = .next t ∧ t.site e = some h' ∧ h'.elem.q = h.elem.q
        ∧ h'.elem.out[k]? = some { i with emits := modAt errEmit i.emits pos } ∧ h'.elem.out.length = h.elem.out.length)
  ∧ (∀ (s : State) (run n pos : Nat) (r : Run), s.run? run = some r →
    (∃ t r', exec (.uncorrectableError (.stream run n pos)) s = .next t ∧ t.run? run = some r' ∧ r'.skidOf n = errSkid pos (r.skidOf n) ∧ r'.esc = r.esc)
    ∧ (∃ t r', exec (.uncorrectableError (.escInput run n pos)) s = .next t ∧ t.run? run = some r'
      ∧ r'.esc.e = modAt (fun ts => modAt errTok ts pos) r.esc.e n ∧ r'.skid = r.skid)
    ∧ ∃ t r', exec (.uncorrectableError (.ingress run n pos)) s = .next t ∧ t.run? run = some r'
      ∧ r'.inq = (if n = 0 then modAt errTok r.inq pos else r.inq)
      ∧ r'.comps = if n = 0 then r.comps else modAt (fun ts => modAt errTok ts pos) r.comps n)
  ∧ (∀ t : Token, t.mark.isEnd = false → (errTok t).isPoison = true ∧ (errTok t).skip = t.skip ∧ (errTok t).chan = t.chan)
  ∧ (∀ (s : State) (die dom addr : Nat), exec (.correctedError die dom addr) s = .next (s.logEvent die 0x300 (some dom) none none none (some addr)))
  ∧ (∀ (s : State) (run p : Nat) (r : Run), s.run? run = some r → r.st = .resident → p < 2 → (r.plane p).reload = none →
    ∃ t r', exec (.cfgStoreError run p) s = .next t ∧ t.run? run = some r' ∧ ((r'.plane p).reload).isSome = true
      ∧ (p = r.act → r'.st = .frozen ∧ r'.hold = .reload false) ∧ (p ≠ r.act → r'.st = .resident))
  ∧ (∀ (s : State) (run c crc : Nat) (r : Run), s.run? run = some r → r.st = .frozen → r.hold = .reload false →
    (r.plane r.act).reload = some (c, crc) → (r.plane (1 - r.act)).reload = none → c + 4 ≤ s.cycle →
    (crc = (r.plane r.act).signature → r.esc.handler = none →
      ∃ t r', exec (.cfgReloadCheck run) s = .next t ∧ t.run? run = some r' ∧ r'.st = .resident ∧ r'.hold = .none ∧ (r'.plane r.act).reload = none
        ∧ r'.esc = r.esc)
    ∧ (crc ≠ (r.plane r.act).signature → r.order? 4 = none →
      ∃ t r', exec (.cfgReloadCheck run) s = .next t ∧ t.run? run = some r' ∧ r'.st = .frozen ∧ r'.hold = .supervisor
        ∧ (r'.plane r.act).reload = none))
  ∧ (∀ (s : State) (n : Sensor), exec (.alarmLevel1 n) s = .next (s.alarm (sensorCode n) 1) ∧ (s.alarm (sensorCode n) 1).chip.grantKey = s.chip.grantKey
    ∧ exec (.alarmLevel2 n) s = .next (s.alarm (sensorCode n) 2) ∧ (s.alarm (sensorCode n) 2).chip.grantKey = none
    ∧ (s.alarm (sensorCode n) 2).chip.idKey = s.chip.idKey ∧ (∀ l ∈ (s.alarm (sensorCode n) 2).chip.links, linkLock l.stat = true)
    ∧ exec (.alarmLevel3 n) s = .next (s.alarm (sensorCode n) 3) ∧ (s.alarm (sensorCode n) 3).chip.idKey = none
    ∧ (s.alarm (sensorCode n) 3).chip.sessKey = none ∧ (s.alarm (sensorCode n) 3).chip.grantKey = none ∧ (s.alarm (sensorCode n) 3).chip.held = true)
  ∧ (∀ s : State, (s.ready = false ∨ s.chip.alarm.level ≠ 2 → exec .almclr s = .next s)
    ∧ (s.ready = true → s.chip.alarm.level = 2 → (Config.freeWord s.free).getLsbD 0 = false →
      ∃ t, exec .almclr s = .next t ∧ t.chip.grantKey.isSome = true ∧ t.chip.alarm.level = 0 ∧ t.mem = s.mem
        ∧ ∀ l ∈ t.chip.links, linkLock l.stat = false ∧ linkState l.stat = 1))
  ∧ (∀ (s : State) (die : Nat) (head : Run) (p : Nat), (s.runs.any fun r => r.die == die && r.orders.any fun o => (o.1 == 0 || o.1 == 2) && o.2.isNone) = false →
    let t : State := { s with runs := s.runs.map fun (r : Run) => if r.die = die then (r.ageing s.cycle).quantumDone s.cycle else r }
    let waiting := orderRuns Run.before (t.runs.filter fun r => r.waits die)
    waiting.head? = some head → (∀ r ∈ waiting, r.moved = false) → t.fits head [] = some p →
    exec (.arborDecision die) s = .next (t.place head p))
  ∧ (∀ (l : List Run), (orderRuns Run.before l).length = l.length ∧ ∀ r, r ∈ orderRuns Run.before l ↔ r ∈ l)
  ∧ (∀ (s : State) (run : Nat), exec (.ageingStep run) s = .next (s.modRun run fun r =>
      if r.waits r.die then { r with aged := (s.cycle - r.queuedAt) / 2 ^ 21 } else r)
    ∧ exec (.quantumExpiry run) s = .next (s.modRun run fun r => if r.st = .resident ∧ r.residentAt + 2 ^ 23 ≤ s.cycle then { r with quantum := true } else r))
  ∧ (∀ (s u : State) (run : Nat) (r : Run) (o : Nat × Option (ElemRef × Nat)), s.run? run = some r → r.order? 2 = some o → o.2 ≠ none →
    r.inPlace = true → s.busyRun run = false → (s.logMaskMiss r).writeRecord r = some u →
    ∃ t r', exec (.readoutComplete run) s = .next t ∧ t.run? run = some r' ∧ r'.hold = .readout ∧ r'.region.pages = [] ∧ r'.region.ports = []
      ∧ r'.saved = u.pageImage r ∧ r'.esc = r.esc ∧ r'.regs = r.regs ∧ t.mem = u.mem)
  ∧ (∀ (s : State) (run : Nat) (r : Run) (o : Nat × Option (ElemRef × Nat)), s.run? run = some r → r.order? 2 = some o → r.inPlace = true →
    s.busyRun run = true → exec (.readoutComplete run) s = .next s)
  ∧ (∀ (s : State) (r : Run) (slot va : Nat), r.record = some (some slot, va) →
    s.writeRecord r = (({ s with free := s.free + 65536 * (r.stream (s.pageImage r) r.region.pages.length).length } : State).vwrite slot va
      (s.recordOfRun r (s.pageImage r))).toOption)
  ∧ (∀ (s : State) (r : Run) (cells : List Host.Cell), s.identity r.id < 2 ^ 32 → r.region.pages.length ≤ 48 → (s.recordTail r cells).length < 2 ^ 32 →
    let bs := s.recordOfRun r cells
    bs.length = 0x0D40 + (s.recordTail r cells).length ∧ bytesNat (bs.take 4) = 1 ∧ bytesNat ((bs.drop 4).take 4) = s.identity r.id
      ∧ bytesNat ((bs.drop 8).take 8) = r.region.pages.length ∧ bytesNat ((bs.drop 16).take 8) = bs.length
      ∧ (bs.drop 0x40).take 1024 = section_ 1024 r.escBytes ∧ (bs.drop 0x440).take 256 = section_ 256 (s.regBytes r)
      ∧ (bs.drop 0x540).take 2048 = section_ 2048 (s.xferBytes r) ∧ bs.drop 0x0D40 = s.recordTail r cells)
  ∧ (∀ (s : State) (run : Nat) (r : Run) (o : Nat × Option (ElemRef × Nat)), s.run? run = some r → r.order? 3 = some o → r.st = .frozen → r.hold = .readout →
    r.region.pages ≠ [] →
    (s.readRecord r = none → exec (.restoreComplete run) s = .next ((s.modRun run fun r => { r with
      region := { r.region with pages := [], ports := [] }, orders := r.orders.erase o }).answerWho o.2 2))
    ∧ (∀ r1, s.readRecord r = some r1 → r1.id = run → o.2 = none → r1.esc.handler = none → (r1.plane r1.act).reload = none →
      ∃ t r', exec (.restoreComplete run) s = .next t ∧ t.run? run = some r' ∧ r'.st = .resident ∧ r'.hold = .none ∧ r'.saved = [] ∧ r'.esc = r1.esc
        ∧ r'.p0 = r1.p0 ∧ r'.p1 = r1.p1 ∧ t.mem.store = ((s.setRun r1).loadPages r1).mem.store))

/-- 00 R5, 20 R340, R341, 21 R353, 23 R370 to R374, R376, 24 R382 to R386: the host registers and tears down contexts, drops translations, writes
tenants, rings, links and circuit entries (the model's interface, log 96), and reads registers back: write-only fields as zero, and before READY all but BOOTSTAT and the ring of slot 0; the responder's connection, session and keys (codes PRESUMED, log 6). -/
def Obligations.HostRegistersAndKeys : Prop :=
  (∀ (s : State) (slot : Nat) (w : W64), s.ready = true → slot < 256 → s.ctx? slot = none →
    let a := fld w 56 6 * 64
    let d := lineOf (s.hbmRead a 64)
    s.poisoned a = false →
    (tenEn (s.tenant (ctxTenant d)) = true → ∃ t, exec (.ctxregWrite slot w) s = .next t ∧ t.ctx? slot = some d
      ∧ (∀ k, k ≠ slot → t.ctx? k = s.ctx? k) ∧ t = { s with adm := { s.adm with ctxs := t.adm.ctxs } })
    ∧ (tenEn (s.tenant (ctxTenant d)) = false → exec (.ctxregWrite slot w) s = .next s))
  ∧ (∀ (s : State) (slot : Nat) (w : W64) (d : Line), s.Safe → s.ready = true → s.ctx? slot = some d →
    ∃ t, exec (.ctxtearWrite slot w) s = .next t ∧ t.ctx? slot = none
      ∧ cellRead t.mem.host (w.toNat / 64 * 64) 16 =
        natBytes 4 (s.runs.filter fun r => r.slot == slot && r.st != .retired).length
          ++ natBytes 4 (s.adm.launches.filter fun l => l.slot == slot).length ++ natBytes 8 1
      ∧ ((∀ r ∈ s.runs, r.slot = slot → r.st = .retired) → t.runs = s.runs ∧ t.mem.hbm = s.mem.hbm
        ∧ (∀ l ∈ t.adm.launches, l.slot ≠ slot) ∧ (∀ k, k ≠ slot → t.ctx? k = s.ctx? k))
      ∧ (∀ r, s.runs = [r] → r.slot = slot → r.st ≠ .retired → r.orders = [] → r.groups = [] → t.runs = []))
  ∧ (∀ (s : State) (lo hi : W64), s.ready = true →
    (s.adm.tlbinv = [] → ∃ t, exec (.tlbinvWrite lo hi) s = .next t ∧ t.adm.tlbDone = false
      ∧ ∀ e, e ∈ t.ord.tlb ↔ e ∈ s.ord.tlb ∧ (⟨lo, hi, false, []⟩ : TlbReq).names e = false)
    ∧ (∀ q rest, s.adm.tlbinv = q :: rest → q.started = true → ∃ t, exec (.tlbinvWrite lo hi) s = .next t
      ∧ t = { s with adm := { s.adm with tlbinv := t.adm.tlbinv } } ∧ t.adm.tlbinv.length = s.adm.tlbinv.length + 1))
  ∧ (∀ (q : TlbReq) (e : TlbEntry), (fld q.hi 9 8 = 3 → q.names e = true) ∧ (fld q.hi 9 8 = 2 → q.names e = (e.slot == fld q.hi 7 0))
    ∧ (fld q.hi 9 8 = 0 → (q.names e = true ↔ e.slot = fld q.hi 7 0 ∧ e.base < fld q.lo 56 12 * 4096 + 4096 ∧ fld q.lo 56 12 * 4096 < e.base + 2 ^ e.size))
    ∧ (fld q.hi 9 8 = 1 → (q.names e = true ↔ e.slot = fld q.hi 7 0 ∧ e.base < fld q.lo 56 12 * 4096 + 4096 * 2 ^ fld q.hi 15 10
      ∧ fld q.lo 56 12 * 4096 < e.base + 2 ^ e.size)))
  ∧ (∀ (s : State) (q : TlbReq), s.adm.tlbinv = [q] → q.started = true →
    ((∀ i ∈ q.waits, s.acc? i = none) → ∃ t, exec .tlbinvDone s = .next t ∧ t.adm.tlbDone = true ∧ t.adm.tlbinv = [] ∧ t.ord = s.ord)
    ∧ ((∃ i ∈ q.waits, s.acc? i ≠ none) → exec .tlbinvDone s = .next s))
  ∧ (∀ (s : State) (k : Nat) (w : BitVec 128), s.ready = true → k < 64 →
    (s.tenantStatus k (w &&& tenantMask) = 0 → ∃ t, exec (.tenantTableWrite k w) s = .next t ∧ t.tenant k = w &&& tenantMask
      ∧ t.adm.tenstat = 0 ∧ ∀ j, j ≠ k → t.tenant j = s.tenant j)
    ∧ (s.tenantStatus k (w &&& tenantMask) ≠ 0 → exec (.tenantTableWrite k w) s = .next
      { s with adm := { s.adm with tenstat := BitVec.ofNat 2 (s.tenantStatus k (w &&& tenantMask)) } }))
  ∧ (∀ (s : State) (k : Nat) (v : BitVec 128),
    ((∃ c ∈ s.adm.ctxs, ctxTenant c.desc = k) → s.tenantStatus k v = 1)
    ∧ ((∀ c ∈ s.adm.ctxs, ctxTenant c.desc ≠ k) →
      (4096 < tenUq v ∨ 1024 < tenPr v ∨ 512 < tenRs v ∨ 48 < tenPg v ∨ 512 < tenRsBase v + tenRs v → s.tenantStatus k v = 3)
      ∧ (s.adm.tenants = [] → tenUq v ≤ 4096 → tenPr v ≤ 1024 → tenRs v ≤ 512 → tenPg v ≤ 48 → tenRsBase v + tenRs v ≤ 512 →
        (tenHbase v + tenHsize v) * 2 ^ 30 ≤ Config.hbmBytes → s.tenantStatus k v = 0)))
  ∧ (∀ (s : State) (w : W64), s.ready = true → ∃ t, exec (.lnkqclr w) s = .next t ∧ ∀ k l, s.link? k = some l →
    (w.getLsbD k = false → t.link? k = some l)
    ∧ (w.getLsbD k = true → ∃ m, t.link? k = some m ∧ linkQuar m.stat = false ∧ m.macs = [] ∧ linkState m.stat = linkState l.stat
      ∧ linkLock m.stat = linkLock l.stat ∧ m.circ = l.circ))
  ∧ (∀ (s : State) (slot ring : Nat) (w : BitVec 128), slot < 256 → ring < 16 → (s.ready = true ∨ (slot = 0 ∧ ring = 0)) →
    ∃ t, exec (.registerWrite (.ctxeg slot ring) w) s = .next t ∧ t = { s with adm := { s.adm with rings := t.adm.rings } }
      ∧ fld (t.ring slot ring) 127 96 = fld w 127 96 ∧ fld (t.ring slot ring) 95 64 = fld (s.ring slot ring) 95 64
      ∧ fld (t.ring slot ring) 63 12 = fld w 63 12 ∧ fld (t.ring slot ring) 3 0 = fld w 3 0
      ∧ t.hostRead (.ctxeg slot ring) = t.ring slot ring
      ∧ ∀ a b, a ≠ slot ∨ b ≠ ring → t.ring a b = s.ring a b)
  ∧ (∀ (s : State) (k g : Nat) (out : Bool) (e : Option (Nat × Nat × Nat)) (w : BitVec 128),
    (s.ready = false → exec (.registerWrite (.circuit k g out e) w) s = .next s)
    ∧ (s.ready = true → ∃ t, exec (.registerWrite (.circuit k g out e) w) s = .next t ∧ t = { s with chip := { s.chip with circuits := t.chip.circuits } }
      ∧ (∀ c, (c.link, c.group, c.out) ≠ (k, g, out) → (c ∈ t.chip.circuits ↔ c ∈ s.chip.circuits))
      ∧ ∀ c, (c.link, c.group, c.out) = (k, g, out) →
        (c ∈ t.chip.circuits ↔ ∃ q, e = some q ∧ c = ⟨k, g, out, q.1, q.2.1, q.2.2, 64⟩)))
  ∧ (∀ (s : State) (k : Nat) (w : BitVec 128) (l : Link), s.ready = true → s.link? k = some l →
    ∃ t, exec (.registerWrite (.lnkcfg k) w) s = .next t ∧ t.link? k = some { l with circ := w.setWidth 4 }
      ∧ t.hostRead (.lnkcfg k) = (w.setWidth 4).setWidth 128 ∧ t.hostRead (.lnkstat k) = l.stat.setWidth 128)
  ∧ (∀ s : State, s.hostRead .bootstat = s.chip.bootstat.setWidth 128
    ∧ (∀ q, s.ready = false → q ≠ .bootstat → q ≠ .ctxeg 0 0 → s.hostRead q = 0)
    ∧ (∀ d p, s.hostRead (.portWord d p) = 0)
    ∧ (s.ready = true → (s.hostRead .tlbinv).toNat = (if s.adm.tlbDone then 2 ^ 127 else 0) ∧ (∀ k, s.hostRead (.tenant k) = s.tenant k)
      ∧ s.hostRead .tenstat = s.adm.tenstat.setWidth 128
      ∧ ∀ d p, (s.hostRead (.portCredit d p)).toNat = 64 - (s.port d p).used
        ∧ ((s.port d p).lstat < 256 → fld (s.hostRead (.portStatus d p)) 7 0 = (s.port d p).lstat
          ∧ fld (s.hostRead (.portStatus d p)) 15 8 = (s.port d p).pstate ∧ fld (s.hostRead (.portStatus d p)) 39 16 = (s.port d p).ident % 2 ^ 24)))
  ∧ (∀ (s : State) (pasid addr n : Nat), s.adm.ats = [] → s.ord.accs = [] →
    ∃ t, exec (.atsInvalidate pasid addr n) s = .next t ∧ t.chip.hostOut = s.chip.hostOut ++ [3 :: natBytes 2 pasid]
      ∧ ∀ e, e ∈ t.ord.tlb ↔ e ∈ s.ord.tlb ∧ ¬(pteTgt e.pte = 2 ∧ e.slot = pasid ∧ pteFrame e.pte < addr + n ∧ addr < pteFrame e.pte + 2 ^ e.size))
  ∧ (∀ (s : State) (q : SpdmReq),
    let keys (t : State) : Prop := t.chip.idKey = s.chip.idKey ∧ t.chip.grantKey = s.chip.grantKey ∧ t.chip.sessKey = s.chip.sessKey ∧ t.mem = s.mem
    let tells (i : Instr) (code conn session : Nat) : Prop := ∃ t body, exec i s = .next t ∧ keys t
      ∧ t.chip.spdm = ⟨conn, session, (BitVec.ofNat 8 code, body) :: s.chip.spdm.replies⟩
    tells (.getVersion q) 0x04 1 0
    ∧ (1 ≤ s.chip.spdm.conn → tells (.getCapabilities q) 0x61 (max s.chip.spdm.conn 2) s.chip.spdm.session)
    ∧ (2 ≤ s.chip.spdm.conn → tells (.negotiateAlgorithms q) 0x63 3 s.chip.spdm.session)
    ∧ (3 ≤ s.chip.spdm.conn → s.chip.idKey ≠ none →
      tells (.getDigests q) 0x01 s.chip.spdm.conn s.chip.spdm.session
      ∧ tells (.getCertificate q) 0x02 s.chip.spdm.conn s.chip.spdm.session
      ∧ tells (.challenge q) 0x03 s.chip.spdm.conn s.chip.spdm.session
      ∧ tells (.getMeasurements q) 0x60 s.chip.spdm.conn s.chip.spdm.session
      ∧ (q.param2 = 4 → ∃ t rest, exec (.getMeasurements q) s = .next t
        ∧ t.chip.spdm.replies = (0x60, s.tenantHash ++ rest) :: s.chip.spdm.replies)
      ∧ tells (.keyExchange q) 0x64 s.chip.spdm.conn 1)
    ∧ (s.chip.spdm.conn < 3 ∨ s.chip.idKey = none → tells (.challenge q) 0x7F s.chip.spdm.conn s.chip.spdm.session)
    ∧ (s.chip.spdm.session = 1 → ∃ t body, exec (.finish q) s = .next t ∧ t.chip.sessKey ≠ none ∧ t.chip.idKey = s.chip.idKey
      ∧ t.chip.spdm = ⟨s.chip.spdm.conn, 2, (0x65, body) :: s.chip.spdm.replies⟩)
    ∧ (s.chip.spdm.session = 2 → ∃ t body, exec (.endSession q) s = .next t ∧ t.chip.sessKey = none ∧ t.chip.idKey = s.chip.idKey
      ∧ t.chip.spdm = ⟨s.chip.spdm.conn, 0, (0x6C, body) :: s.chip.spdm.replies⟩)
    ∧ (s.chip.spdm.session = 0 → tells (.finish q) 0x7F s.chip.spdm.conn 0 ∧ tells (.endSession q) 0x7F s.chip.spdm.conn 0))

/-- 21 R353, 23 R370, R374, 24 R382, R384, 25 R391 to R394, 13 R275 to R277, 12 R255: what reset leaves, where the spec gives a value,
with memory canonical; a cold reset runs the steps of bring-up to the ready token or to the failing one; the token is posted once its ring
has a base, and READY sets. -/
def Obligations.ResetAndBringUp : Prop :=
  (State.reset.Safe ∧ State.reset.chip.bootstat = 0 ∧ State.reset.ready = false ∧ State.reset.adm.tlbDone = true ∧ State.reset.adm.tenstat = 0
  ∧ (∀ t, State.reset.tenant t = 0) ∧ (∀ slot ring, State.reset.ring slot ring = 0) ∧ (∀ slot, State.reset.ctx? slot = none)
  ∧ (∀ k, k < 36 → ∃ l, State.reset.link? k = some l ∧ l.stat = 0 ∧ l.circ = 0) ∧ State.reset.link? 36 = none
  ∧ State.reset.runs = [] ∧ State.reset.adm.launches = [] ∧ State.reset.ord.accs = [] ∧ State.reset.ord.reqs = [] ∧ State.reset.ord.monitors = []
  ∧ State.reset.chip.idKey = none ∧ State.reset.chip.grantKey = none ∧ State.reset.chip.sessKey = none ∧ State.reset.chip.held = false
  ∧ State.reset.dies.length = 8 ∧ (∀ d, (State.reset.die d).errlog = 0 ∧ (State.reset.die d).faultchan = 0))
  ∧ (∀ (s : State) (env : BringUp), env.alarm = none →
    let ends (t : State) (step err : Nat) : Prop := exec (.coldReset env) s = .next t ∧ bootHalt t.chip.bootstat = true ∧ t.ready = false
      ∧ fld t.chip.bootstat 35 32 = step ∧ fld t.chip.bootstat 31 24 = err ∧ t.chip.idKey = none ∧ t.chip.grantKey = none ∧ t.runs = []
    (env.romOk = false → ∃ t, ends t 1 1)
    ∧ (env.romOk = true → env.sigOk = false → ∃ t, ends t 2 2)
    ∧ (env.romOk = true → env.sigOk = true → env.svnOk = false → ∃ t, ends t 2 3)
    ∧ (env.romOk = true → env.sigOk = true → env.svnOk = true →
      (env.fusesOk = false → ∃ t, ends t 3 4)
      ∧ (env.fusesOk = true →
        (env.stkFail = 0xFFFF → ∃ t, ends t 4 5)
        ∧ (env.stkFail = 0x0400 → env.d2dFail = 0 → env.fabFail = 0 → env.cfgFail = 0 → ∃ t, exec (.coldReset env) s = .next t
          ∧ t.chip.bootstat = bootWord false false 9 0 0xDF 0xFBFF ∧ t.chip.idKey ≠ none ∧ t.chip.grantKey ≠ none ∧ t.chip.sessKey = none
          ∧ t.runs = [] ∧ t.adm.ctxs = [] ∧ t.ord.accs = [] ∧ t.mem.hbm = [] ∧ t.mem.store = [] ∧ t.chip.modnum = env.modnum))))
  ∧ (∀ s : State, bootReady s.chip.bootstat = false → bootHalt s.chip.bootstat = false → fld s.chip.bootstat 35 32 = 9 → s.Safe → s.linksUp < 64 →
    let v := s.ring 0 0
    (fld v 63 12 ≠ 0 → ∃ t, exec .readyToken s = .next t ∧ t.ready = true ∧ fld (t.ring 0 0) 95 64 = (fld v 95 64 + 1) % 2 ^ 32
      ∧ cellRead t.mem.host (fld v 63 12 * 4096 + 16 * (fld v 95 64 % 2 ^ (6 + fld v 3 0))) 8
        = natBytes 8 ((fld s.chip.bootstat 23 16 + 256 * s.linksUp) * 2 ^ 14)
      ∧ t.mem.hbm = s.mem.hbm ∧ t.runs = s.runs)
    ∧ (fld v 63 12 = 0 → exec .readyToken s = .next s))

/-- 21 R355, R356, 24 R384 to R388, 13 R293: a link trains to UP or says why not; requests of other modules pass the checks of the grant
in their order and are served or DENIED (which AOPs and payloads carry an LDSYNC, WAITA, WAKEA, engine write or request to a group: log 33);
replies reach what asked; a release frees the arrival that its tag names. -/
def Obligations.LinksAndFlits : Prop :=
  (∀ (s : State) (k : Nat) (l : Link) (p : LinkPeer), s.link? k = some l →
    let cand := if 1 ≤ linkState l.stat ∧ linkState l.stat ≤ 4 then linkUp l.stat else 15
    let up := Nat.land p.lanes.toNat cand
    ∃ t m, exec (.linkTrain k p) s = .next t ∧ t.link? k = some m ∧ linkQuar m.stat = linkQuar l.stat ∧ linkLock m.stat = linkLock l.stat
      ∧ (p.present = false ∨ up = 0 → linkState m.stat = 0 ∧ fld m.stat 7 4 = 1)
      ∧ (p.present = true → up ≠ 0 → p.sameDomain = false → linkState m.stat = 0 ∧ fld m.stat 7 4 = 2)
      ∧ (p.present = true → up ≠ 0 → p.sameDomain = true → linkState m.stat = 5 ∧ linkUp m.stat = up ∧ fld m.stat 31 24 = p.modnum.toNat
        ∧ (p.modnum ≠ s.chip.modnum → p.modnum.toNat ∈ t.chip.peers)
        ∧ let both := Nat.land (Nat.land l.circ.toNat p.circ.toNat) up
          (both ≠ up → fld m.stat 19 16 = both) ∧ (both = up → fld m.stat 19 16 = up - lowestBit up)))
  ∧ (∀ (s : State) (k g : Nat) (l : Link), s.link? k = some l → 1 ≤ linkState l.stat → linkState l.stat ≤ 4 → g < 4 →
    let up := if (linkUp l.stat).testBit g then linkUp l.stat - 2 ^ g else linkUp l.stat
    ∃ t m, exec (.trainingStepTimeout k g) s = .next t ∧ t.link? k = some m
      ∧ (up = 0 → linkState m.stat = 0 ∧ fld m.stat 7 4 = 1) ∧ (up ≠ 0 → linkUp m.stat = up ∧ linkState m.stat = linkState l.stat))
  ∧ (∀ (s : State) (k g : Nat), exec (.circuitCrcFail k g) s = .next s ∧ exec (.flitCrcFail k) s = .next s
    ∧ exec (.linkdn k g) s = .next (s.logEvent 0 0x318 none none none (some (k + 256 * g)) none))
  ∧ (∀ (s : State) (f : Flit) (kind : FlitKind) (n : Nat), (s.chip.grantKey = none → s.grantCheck f kind n = 1)
    ∧ ∀ key, s.chip.grantKey = some key →
      let mac := grantMac key f.grant f.src.toNat s.chip.modnum.toNat = fld f.grant 27 0
      let left := (fld f.grant 35 28 + 256 - s.grantEpoch) % 256
      let base := fld f.grant 55 36 * grantExtent f.grant
      let inside := base ≤ f.addr.toNat ∧ f.addr.toNat + max n 1 ≤ base + grantExtent f.grant
      (¬ mac → s.grantCheck f kind n = 1)
      ∧ (mac → ¬ (1 ≤ left ∧ left ≤ 128) → s.grantCheck f kind n = 2)
      ∧ (mac → 1 ≤ left → left ≤ 128 → f.grant.getLsbD kind.bit = false → s.grantCheck f kind n = 3)
      ∧ (mac → 1 ≤ left → left ≤ 128 → f.grant.getLsbD kind.bit = true → (inside → s.grantCheck f kind n = 0) ∧ (¬ inside → s.grantCheck f kind n = 4)))
  ∧ (∀ (s : State) (k : Nat) (f : Flit) (l : Link), s.link? k = some l → linkState l.stat = 5 → f.dst = s.chip.modnum →
    let answer (u : State) (type : Byte) (stat reason n : Nat) (pay : Line) : State := { u with chip := { u.chip with flits := u.chip.flits ++
      [(type, ⟨0, f.addr, f.aop, u.chip.modnum, f.src, f.tag, f.nreq, BitVec.ofNat 7 n, BitVec.ofNat 4 stat, BitVec.ofNat 4 reason, pay⟩)] } }
    let a := f.addr.toNat
    let n := f.len.toNat
    let w : Nat := if f.aop = 0xBB then 8 else 4
    (linkQuar l.stat = true ∨ linkLock l.stat = true → ∀ row ∈ [(Instr.rdreq k f, (2 : Byte)), (.wrreq k f, 4), (.atreq k f, 6), (.msg k f, 8), (.grnreq k f, 10)],
      exec row.1 s = .next (answer s row.2 2 5 0 0))
    ∧ (linkQuar l.stat = false → linkLock l.stat = false →
      (∀ row ∈ [(Instr.rdreq k f, (2 : Byte), s.grantCheck f .read n), (.wrreq k f, 4, s.grantCheck f .write n), (.atreq k f, 6, s.grantCheck f .atomic w)],
        2 ≤ row.2.2 → exec row.1 s = .next (answer s row.2.1 2 row.2.2 0 0))
      ∧ (s.grantCheck f .read n = 0 → s.conflicts (a / 64) false none = [] →
        (f.aop ≠ 0xC4 → f.aop ≠ 0xB4 ∨ s.isFull a = true → exec (.rdreq k f) s = .next
          (answer (s.noteCode none a n) 2 (if s.poisoned a then 3 else 0) 0 n (lineOf (cellRead s.mem.hbm a n))))
        ∧ (f.aop = 0xB4 → s.isFull a = false → exec (.rdreq k f) s = .next s)
        ∧ (f.aop = 0xC4 → exec (.rdreq k f) s = .next ((s.noteCode none a 4).waitaHome k f)))
      ∧ (s.Safe → s.grantCheck f .write n = 0 → s.conflicts (a / 64) true none = [] → n ≠ 0 → s.pinnedPhys a n = false →
        s.poisoned a = false → s.ord.monitors = [] → ∃ t, exec (.wrreq k f) s = .next t
          ∧ t.mem.hbm = cellWrite s.mem.hbm a (natBytes n f.payload.toNat) ∧ t.chip.flits = (answer s 4 0 0 0 0).chip.flits ∧ t.runs = s.runs
          ∧ (fld f.aop 7 4 = 15 → (f.aop.getLsbD 0 = true → t.isFull a = true) ∧ (f.aop.getLsbD 1 = true → t.poisoned a = true))
          ∧ (fld f.aop 7 4 ≠ 15 → t.mem.notFull = s.mem.notFull ∧ t.poisoned a = false))
      ∧ (s.grantCheck f .write n = 0 → s.conflicts (a / 64) true none = [] → n ≠ 0 → fld f.aop 7 4 ≠ 15 →
        (s.pinnedPhys a n = true → exec (.wrreq k f) s = .next (answer (s.logEvent (homeDie a) 0x311 none none none none (some a)) 4 0 0 0 0))
        ∧ (s.pinnedPhys a n = false → s.poisoned a = true → n ≠ 64 →
          exec (.wrreq k f) s = .next (answer (s.logEvent (homeDie a) 0x30D none none none none (some a)) 4 0 0 0 0)))
      ∧ (s.grantCheck f .write n = 0 → s.conflicts (a / 64) false none = [] → n = 0 → fld f.aop 7 4 ≠ 15 →
        exec (.wrreq k f) s = .next (answer (if a / 64 ∈ s.mem.fullNow then s else
          { s with mem := { s.mem with notFull := insertNew (a / 64) s.mem.notFull } }) 4 0 0 0 0))
      ∧ (s.grantCheck f .atomic w = 0 → f.aop ≠ 0xC5 → s.conflicts (a / 64) true none = [] →
        (f.aop = 0xBA ∨ f.aop = 0xBB → s.meet (512 + homeDie a) 256 a f.aop.toNat f.nreq.toNat (.hbm a) (.flit k f)
          (BitVec.ofNat 64 (f.payload.toNat % 2 ^ (8 * w))) k = none) →
        let u := s.noteCode none a w
        u.poisoned a = false → u.pinnedPhys a w = false → u.ord.monitors = [] →
        let old := bytesNat (cellRead u.mem.hbm a w)
        let new := (atomicNew f.aop.toNat (fld f.payload 135 128) (BitVec.ofNat 64 old) (BitVec.ofNat 64 (f.payload.toNat % 2 ^ (8 * w)))
          (BitVec.ofNat 64 (f.payload.toNat / 2 ^ (8 * w) % 2 ^ (8 * w)))).1
        ∃ t, exec (.atreq k f) s = .next t ∧ t.mem.hbm = cellWrite u.mem.hbm a (natBytes w new.toNat)
          ∧ t.chip.flits = (answer u 6 0 0 w (BitVec.ofNat 512 old)).chip.flits)
      ∧ (∀ t, s.grantCheck f .atomic w = 0 → f.aop = 0xBA ∨ f.aop = 0xBB →
        s.meet (512 + homeDie a) 256 a f.aop.toNat f.nreq.toNat (.hbm a) (.flit k f) (BitVec.ofNat 64 (f.payload.toNat % 2 ^ (8 * w))) k = some t →
        exec (.atreq k f) s = .next t)
      ∧ (s.grantCheck f .atomic 4 = 0 → f.aop = 0xC5 →
        let r := s.wake a (fld f.payload 127 64)
        exec (.atreq k f) s = .next (answer r.2 6 0 0 4 (BitVec.ofNat 512 r.1)))
      ∧ (f.aop = 0 → f.addr = 0 → ∃ m, exec (.msg k f) s = .next { s with eng := { s.eng with arrivals := s.eng.arrivals ++ [m] } }
        ∧ m.src = fld f.payload 31 0 ∧ m.dst = fld f.payload 63 32 % 65536 ∧ m.tag = f.payload.extractLsb' 64 32 ∧ m.len = fld f.payload 127 96
        ∧ m.bytes = [] ∧ m.poison = [] ∧ m.back = some f)
      ∧ (let name : BitVec 20 := f.payload.setWidth 20
        f.payload.getLsbD 20 = false →
        (f.aop = 0x0E → let r := s.joinHere (fld f.payload 63 32) (f.payload.getLsbD 21) name
          exec (.msg k f) s = .next (answer r.2 8 0 0 8 (BitVec.ofNat 512 (r.1 + (((r.2.group? name).map (·.pass)).getD 0) * 2 ^ 32))))
        ∧ (f.aop = 0x0F → let r := s.partHere (fld f.payload 63 32) name
          exec (.msg k f) s = .next (answer r.2 8 0 0 8 (BitVec.ofNat 512 r.1)))
        ∧ (f.aop = 0xE0 → s.group? name = none → exec (.msg k f) s = .next (answer s 8 0 0 8 6)))
      ∧ (let m := s.mint f.src.toNat (f.payload.setWidth 32) (f.payload.extractLsb' 32 32)
        exec (.grnreq k f) s = .next (answer s 10 0 0 12 (BitVec.ofNat 512 (m.1.toNat + m.2 * 2 ^ 64)))))
    ∧ (∀ (g : Tag) (id : Nat), (s.chip.tags.find? fun t => t.tag == f.tag.toNat && t.modn == f.src.toNat) = some g →
      let u : State := { s with chip := { s.chip with tags := s.chip.tags.erase g } }
      (∀ c, g.what = .acc id → s.acc? id = some c →
        (f.stat = 2 → ∀ i ∈ [Instr.rdrsp k f, .wrack k f, .atrsp k f], exec i s = .next (u.faultAcc c .grantdeny 0 f.reason.toNat 0))
        ∧ (f.stat ≠ 2 →
          (c.kind ≠ .waita → (∀ x, c.kind ≠ .atomic x) →
            (c.wave = none → exec (.rdrsp k f) s = .next (u.loadDone c (natBytes c.width f.payload.toNat) (f.stat = 3)))
            ∧ ∀ x p, c.wave = some x → c.place = some p → exec (.rdrsp k f) s = .next
              (u.loadDone c (u.overlay c.blk x (placeKey p) (placeOff p) (natBytes c.width f.payload.toNat)) (f.stat = 3)))
          ∧ (∀ x y p, c.kind = .atomic x → c.wave = some y → c.place = some p → exec (.rdrsp k f) s = .next
            (u.waveAtomic c y (placeKey p) (placeOff p) (natBytes c.width f.payload.toNat) (f.stat = 3)))
          ∧ (c.kind = .waita → f.stat = 3 ∨ fld f.payload 63 32 ≠ 2 → exec (.rdrsp k f) s = .next
            (u.waitaDone c (f.payload.setWidth 32) (f.stat = 3) (fld f.payload 63 32)))
          ∧ (c.kind = .sete ∨ (∀ m x y, c.place = some (.remote m x y) → (c.afterRun (x % 64)).enable = 0) → exec (.wrack k f) s = .next (u.doneToken c))
          ∧ (c.kind = .wakea → exec (.atrsp k f) s = .next (u.wakeaDone c (f.payload.toNat % 2 ^ 32)))
          ∧ (c.kind ≠ .wakea → c.width = 8 → exec (.atrsp k f) s = .next (u.atomDone c (f.payload.setWidth 64) (f.stat == 1) (f.stat == 3)))
          ∧ (c.kind ≠ .wakea → c.width = 4 → exec (.atrsp k f) s = .next (u.atomDone c ((f.payload.setWidth 32).setWidth 64) (f.stat == 1) (f.stat == 3)))))
      ∧ (g.what = .host id → exec (.wrack k f) s = .next (u.hostAdvance id))
      ∧ (g.what = .ewrite id → exec (.wrack k f) s = .next (u.ewriteAnswer id f))
      ∧ (∀ q, g.what = .acc id → s.req? id = some q →
        exec (.msgack k f) s = .next (u.statusReq q (if f.stat = 2 then 5 else fld f.payload 7 0)))
      ∧ (g.what = .group id → exec (.msgack k f) s = .next (u.groupAnswer id f))
      ∧ (∀ e rid, g.what = .place e rid → exec (.rel k f) s = .next (u.releasePlace e rid (fld f.payload 63 32))
        ∧ (f.stat ≠ 2 → exec (.msgack k f) s = .next (u.arrivalRefused e rid)))
      ∧ (∀ e rid n, g.grant = some (e, rid, n) → exec (.grnrsp k f) s = .next (u.onItem e rid fun i =>
          let c : Mark × Nat := match i.emits with
            | .tok _ x :: _ => (x.mark, x.chan)
            | _ => (.data, 0)
          let r := grantEmits c.1 c.2 (if f.stat = 2 then 0 else f.payload.setWidth 64) (if f.stat = 2 then 5 else fld f.payload 71 64)
          OutItem.twoParts r.1 r.2 i)))
    ∧ exec (.credit k f) s = .next (s.modLink k fun l => { l with credits := min 64 (l.credits + f.nreq.toNat) }))

/-- 09 R174 to R178: for every well-formed instruction with a word, the decoder reads the word as that instruction, whatever follows it; and
whatever the decoder accepts is well formed and its word is the encoder's: no bit of an accepted word is dropped. -/
def Obligations.EncodeAndDecodeAgree : Prop :=
  (∀ (i : Instr) (w : W64) (rest : List Byte), i.wellFormed = true → encode i = some w → decode (natBytes 8 w.toNat ++ rest) = .ok (i, rest))
  ∧ (∀ (bs rest : List Byte) (i : Instr), decode bs = .ok (i, rest) →
    i.wellFormed = true ∧ 8 ≤ bs.length ∧ rest = bs.drop 8 ∧ encode i = some (wordOfBytes (bs.take 8)))
  ∧ (∀ (i : Instr), (fabOf i).isSome = true → (encode i).isSome = true)

/-- Words that the spec writes out (01 R10, 09 R175, R177, 10 R186, R189, R202, 11 R231, 12 R239, 13 R270, R274, 07 R139, 17 R321, 26 R398): each decodes
to the instruction it stands for, with the fields the spec gives. -/
def Obligations.SpecWordsDecode : Prop :=
  let reads (w : Nat) (i : Instr) : Prop := decode (natBytes 8 w) = .ok (i, [])
  reads 0x2000811000000005 (.add ⟨0, 0, some ⟨1, 0, 2⟩, none, 0, 5⟩)
  ∧ reads 0x4803851420400000 (.steer ⟨0, 3, some ⟨5, 0, 2⟩, some ⟨4, 0, 1⟩, 0, 0⟩)
  ∧ reads 0x0C14003FFFFFFFFD (.brnz 5 0x3FFFFFFFFD)
  ∧ reads 0x131C500000000010 (.gadd 7 5 0 0x10)
  ∧ reads 0x0600000100000001 (.stream 0 0 1 1)
  ∧ reads 0x4D01821000100004 (.ctr ⟨0, 1, some ⟨2, 0, 2⟩, none, 1, 4⟩)
  ∧ reads 0x7929850C30400000 (.vrsq ⟨2, 9, some ⟨5, 0, 1⟩, some ⟨6, 0, 1⟩, 0, 0⟩)
  ∧ reads 0x900E821000000000 (.mma ⟨0, 14, some ⟨2, 0, 2⟩, none, 0, 0⟩)
  ∧ reads 0x921E832000000003 (.mdrain ⟨1, 14, some ⟨3, 0, 4⟩, none, 0, 3⟩)
  ∧ reads 0xB00F812000000000 (.ld ⟨0, 15, some ⟨1, 0, 4⟩, none, 0, 0⟩)
  ∧ reads 0xBA3F851430524004 (.fadd ⟨3, 15, some ⟨5, 0, 2⟩, some ⟨6, 0, 1⟩, 1, 0x24004⟩)
  ∧ reads 0xCC0F830800000C02 (.pin ⟨0, 15, some ⟨3, 0, 1⟩, none, 0, 0xC02⟩)
  ∧ reads 0x1D00000000010002 (.rule 2 1) ∧ reads 0x1D00000001010002 (.ruleFull 2 1)
  ∧ reads 0x1F2C100000000000 (.retract 11 1 0) ∧ reads 0x0314000000000001 (.shadow 5 1) ∧ reads 0x0400000000000000 .swap

/-- 03 R32, 04 R67, 08 R149, 23 R378: one turn of the agenda (the model's order of turns is log 1): an event, the decoded word of an element, the decoded word at SQC
of a run that issues, the end of the cycle (its parts are stated where they act: 04 R73, 12 R232, 13 R298), one entry of a walk (21 R348, log 119), a
word of a circuit (24 R386, log 96); what steps around the instruction is written out. A held module takes a cold reset only. -/
def Obligations.StepRunsDecoded : Prop :=
  (∀ (s : State) (i : Instr) (rest : List Turn), s.chip.held = false → s.agenda = .event i :: rest → step s = exec i { s with agenda := rest })
  ∧ (∀ (s : State) (e : ElemRef) (h : Here) (i : Instr) (tail : List Byte) (rest : List Turn), s.chip.held = false → s.agenda = .fire e :: rest →
    s.site e = some h → decode (natBytes 8 h.word.toNat) = .ok (i, tail) →
    step s = exec i { s with agenda := rest, focus := some ⟨e.run, some e⟩ })
  ∧ (∀ (s t : State) (id : Nat) (r : Run) (rest : List Turn), s.chip.held = false →
    (s.agenda = .word id :: rest ∧ t = { s with agenda := rest }) ∨ (s.agenda = [] ∧ (s.focus.map (·.run)) = some id ∧ t = s) →
    s.run? id = some r → r.issues = true → r.esc.issuedAt ≠ s.cycle + 1 →
    let u : State := { t.setRun { r with esc := { r.esc with issuedAt := s.cycle + 1 } } with focus := some ⟨id, none⟩ }
    (∀ w i tail, (s.seqOf r)[r.esc.sqc]? = some w → decode (natBytes 8 w.toNat) = .ok (i, tail) → step s = exec i u)
    ∧ (∀ w e, (s.seqOf r)[r.esc.sqc]? = some w → decode (natBytes 8 w.toNat) = .error e → step s = .fault .undecodable)
    ∧ ((s.seqOf r)[r.esc.sqc]? = none → step s = .next (u.trapWord id .seqrange)))
  ∧ (∀ (s : State) (rest : List Turn), s.agenda = .tick :: rest →
    (∃ t, step s = .next t ∧ t = tick { s with agenda := rest })
    ∧ (s.adm.regw = [] → s.adm.ats = [] → s.runs.flatMap Run.buffers = [] → s.runs.flatMap Run.nodes = [] → step s = .next { s with
      agenda := rest
      cycle := s.cycle + 1
      runs := s.runs.map fun r => if r.st = .resident then { r with cycles := r.cycles + 1, idle := r.idle + 1 } else r
      mem := { s.mem with storeOld := [], fullNow := [] }
      eng := { s.eng with cancels := [] }
      adm := { s.adm with torn := [] } }))
  ∧ (∀ (s : State) (rest : List Turn), s.chip.held = false →
    (∀ id, s.agenda = .walk id :: rest → step s = .next ({ s with agenda := rest }.walkNext id))
    ∧ ∀ k g w, s.agenda = .circuit k g w :: rest → step s = .next ({ s with agenda := rest }.circuitWord k g w))
  -- a word of a circuit group: a token goes to the stream buffer of the port that the group is bound to, a credit to the group (24 R386)
  ∧ (∀ (s : State) (k g : Nat) (c : Circuit), s.circuitUp c = true → c.link = k → c.group = g →
    ((s.chip.circuits.find? fun x => x.link == k && x.group == g && x.out == true) = some c →
      s.circuitWord k g none = { s with chip := { s.chip with
        circuits := s.chip.circuits.map fun x => if x = c then { x with credits := min 64 (x.credits + 1) } else x } })
    ∧ ∀ (t : Token) (r : Run), (s.chip.circuits.find? fun x => x.link == k && x.group == g && x.out == false) = some c →
      (s.runs.find? fun r => r.slot == c.slot && r.image == c.image && (r.st == .resident || r.st == .frozen)) = some r →
      ((r.skidOf c.port).map fun i => i.toks.length).foldl (· + ·) 0 < 64 →
      s.circuitWord k g (some t) = s.modRun r.id fun r => r.setSkid c.port (r.skidOf c.port ++ [.plain t]))
  ∧ (∀ (s : State) (x : Turn) (rest : List Turn), s.chip.held = true → s.agenda = x :: rest → x ≠ .tick → (∀ env, x ≠ .event (.coldReset env)) →
    step s = .next { s with agenda := rest })
  ∧ (∀ (i : Instr) (w : W64), i.wellFormed = true → encode i = some w →
    ∃ u, step (State.reset.withFetchWord 64 w.toNat) = exec i u ∧ u.agenda = [] ∧ u.mem = State.reset.mem ∧ (u.focus.map (·.run)) = some 0)

/-- 07 R128 (log 2): every step from a state whose memories are in canonical form ends, when it ends in a next state, in one whose memories
are in canonical form. -/
def Obligations.StepKeepsMemoryCanonical : Prop :=
  ∀ s t : State, s.Safe → step s = .next t → t.Safe

/-- 02 R19, 07 R128 to R130, R146: what a write leaves in HBM reads back at once, and what it leaves in a tile store once its cycle has ended,
lowest byte first, while a read of a tile store in the cycle of the write finds what stood there before; other addresses read as before; equal
reads are equal memories; a whole line clears poison and a partial write to a poisoned line is discarded. -/
def Obligations.MemoryReadsBack : Prop :=
  (∀ (m : List Host.Cell) (a n v : Nat), Memory.wf m = true → bytesNat (cellRead (cellWrite m a (natBytes n v)) a n) = v % 256 ^ n)
  ∧ (∀ (m : List Host.Cell) (a x : Nat) (bs : List Byte), Memory.wf m = true → x < a ∨ a + bs.length ≤ x → cellGet (cellWrite m a bs) x = cellGet m x)
  ∧ (∀ m n : List Host.Cell, Memory.wf m = true → Memory.wf n = true → (∀ x, cellGet m x = cellGet n x) → m = n)
  ∧ (∀ (s : State) (a : Nat) (bs : List Byte), s.Safe → s.poisoned a = false →
    ((s.hbmWrite a bs).1.hbmRead a bs.length = bs ∧ (s.hbmWrite a bs).2 = false ∧ (s.hbmWrite a bs).1.runs = s.runs
      ∧ ∀ x n, x + n ≤ a ∨ a + bs.length ≤ x → (s.hbmWrite a bs).1.hbmRead x n = s.hbmRead x n))
  ∧ (∀ (s : State) (a : Nat) (bs : List Byte), s.Safe → s.poisoned a = true →
    (bs.length ≠ 64 ∨ a % 64 ≠ 0 → s.hbmWrite a bs = (s, true))
    ∧ (bs.length = 64 → a % 64 = 0 → (s.hbmWrite a bs).1.poisoned a = false ∧ (s.hbmWrite a bs).1.hbmRead a 64 = bs ∧ (s.hbmWrite a bs).2 = false))
  ∧ (∀ (s : State) (r : Run) (page tile a : Nat) (bs : List Byte), s.Safe →
    let t := s.bankWrite r page tile a bs
    (∀ p q x n, t.bankRead r p q x n = s.bankRead r p q x n)
    ∧ t.forget.bankRead r page tile a bs.length = bs
    ∧ (∀ p q x n, storeKey r.die (r.phys p) q x + n ≤ storeKey r.die (r.phys page) tile a
        ∨ storeKey r.die (r.phys page) tile a + bs.length ≤ storeKey r.die (r.phys p) q x →
      t.forget.bankRead r p q x n = s.forget.bankRead r p q x n))

/-- 10 R198, R202, R205: STEER, MERGE and CMERGE with data on the inputs they take, COPY, GATE open, opened by a permit and after its end,
and the end of a CMERGE. A POISON selector chooses the first and poisons what it chooses. -/
def Obligations.RoutingElements : Prop :=
  (∀ (f : Fab) (s t : State) (x : FireIn) (d sel : Pos), firingOf (.steer f) s = some x → x.heads [0, 1] = some [d, sel] →
    d.isEnd = false → sel.isEnd = false →
    let k := if sel.poison = true ∨ sel.word = 0 then 0 else 1
    x.fireAct (.steer f) { elem := (x.elem.pop 0).pop 1
                           emits := if k ∈ x.outs then [x.forward sel.poison d k] else [] } = some t →
    exec (.steer f) s = .next t)
  ∧ (∀ (f : Fab) (s t : State) (x : FireIn) (sel p : Pos), firingOf (.merge f) s = some x → x.elem.ctl = .merge none →
    x.avail 2 = some sel → sel.isEnd = false →
    let k := if sel.poison = true ∨ sel.word = 0 then 0 else 1
    x.avail k = some p → p.isEnd = false →
    x.fireAct (.merge f) { elem := { (x.elem.pop 2).pop k with ctl := .merge none }
                           emits := x.all fun o => x.forward sel.poison p o } = some t →
    exec (.merge f) s = .next t)
  ∧ (∀ (f : Fab) (s t : State) (x : FireIn) (sel : Pos), firingOf (.merge f) s = some x → x.elem.ctl = .merge none →
    x.avail 2 = some sel → sel.isEnd = false → x.blk.tx = false →
    let k := if sel.poison = true ∨ sel.word = 0 then 0 else 1
    x.avail k = none →
    x.fireAct (.merge f) { elem := { x.elem.pop 2 with ctl := .merge (some (k, sel.poison)) } } = some t →
    exec (.merge f) s = .next t)
  ∧ (∀ (f : Fab) (s t : State) (x : FireIn) (p : Pos) (k : Nat) (psn : Bool), firingOf (.merge f) s = some x →
    x.elem.ctl = .merge (some (k, psn)) → x.avail k = some p → p.isEnd = false →
    x.fireAct (.merge f) { elem := { x.elem.pop k with ctl := .merge none }, emits := x.all fun o => x.forward psn p o } = some t →
    exec (.merge f) s = .next t)
  ∧ (∀ (f : Fab) (s t : State) (x : FireIn) (p : Pos) (last : Bool) (closed : List Nat) (k : Nat), firingOf (.cmerge f) s = some x →
    x.elem.ctl = .cmerge last closed → k ≤ 1 → x.avail k = some p → (x.avail (1 - k) ≠ none → k = if last then 0 else 1) →
    (p.mark ≠ .eos →
      x.fireAct (.cmerge f) { elem := { x.elem.pop k with ctl := .cmerge (k == 1) closed }
                              emits := x.all fun o => x.forward false p o } = some t →
      exec (.cmerge f) s = .next t)
    ∧ (p.mark = .eos → closed = [] →
      x.fireAct (.cmerge f) { elem := { x.elem.pop k with ctl := .cmerge last [k] } } = some t → exec (.cmerge f) s = .next t)
    ∧ (p.mark = .eos → closed ≠ [] →
      x.fireAct (.cmerge f) { elem := { x.elem.pop k with ctl := .cmerge last (k :: closed), ended := true }
                              emits := x.all fun o => .tok o (eosTok false x.rcNo) } = some t →
      exec (.cmerge f) s = .next t))
  ∧ (∀ (f : Fab) (s t : State) (x : FireIn) (p : Pos), firingOf (.copy f) s = some x → x.avail 0 = some p →
    x.fireAct (.copy f) { elem := { x.elem.pop 0 with ended := p.mark == .eos }, emits := x.all fun o => x.forward false p o } = some t →
    exec (.copy f) s = .next t)
  ∧ (∀ (f : Fab) (s t : State) (x : FireIn) (p : Pos) (left : Nat), firingOf (.gate f) s = some x →
    x.elem.ctl = .gate true left false → x.avail 0 = some p → p.isEnd = false →
    let still := if f.md = 1 then decide (1 < left) else p.struct.rank == 0
    x.fireAct (.gate f) { elem := { x.elem.pop 0 with ctl := .gate still (left - 1) false }
                          emits := x.all fun o => x.forward false p o } = some t →
    exec (.gate f) s = .next t)
  ∧ (∀ (f : Fab) (s t : State) (x : FireIn) (p q : Pos) (left : Nat), firingOf (.gate f) s = some x →
    x.elem.ctl = .gate false left false → x.avail 0 = some p → p.isEnd = false → x.avail 1 = some q → q.isEnd = false →
    f.md = 0 ∨ (f.md = 1 ∧ q.poison = false ∧ 0 < (x.ival q).toInt) →
    let n := if f.md = 1 then (x.ival q).toInt.toNat else 1
    let still := if f.md = 1 then decide (1 < n) else p.struct.rank == 0
    x.fireAct (.gate f) { elem := { (x.elem.pop 1).pop 0 with ctl := .gate still (n - 1) false }
                          emits := x.all fun o => x.forward false p o } = some t →
    exec (.gate f) s = .next t)
  ∧ (∀ (f : Fab) (s t : State) (x : FireIn) (left : Nat) (o : Bool) (p : Pos), firingOf (.gate f) s = some x →
    x.elem.ctl = .gate o left false → x.avail 0 = some p → p.mark = .eos →
    x.fireAct (.gate f) { elem := { x.elem.pop 0 with ctl := .gate o left true }, emits := x.all fun o => x.forward false p o } = some t →
    exec (.gate f) s = .next t)
  ∧ (∀ (f : Fab) (s t : State) (x : FireIn) (left : Nat) (o : Bool) (q : Pos), firingOf (.gate f) s = some x →
    x.elem.ctl = .gate o left true → x.avail 1 = some q →
    x.fireAct (.gate f) { elem := x.elem.pop 1 } = some t → exec (.gate f) s = .next t)

/-- 10 R201, 04 R71: CONSTK, CTR and CTR.root at the beginning, inside and at the end of what they generate: the token of each place, EOS
after the last where there is no go input, an end token of the go input handed on. 10 R202, R203, 04 R62, R63, R66: DROP counts data
and elided positions and emits the count with a structural marker, as POISON when it has counted one; CTRL and STEER count nothing; an
end token is handed on. SINK takes a position; SINK.esc puts it into its E input while that holds fewer than four tokens. -/
def Obligations.GeneratorsAndSinks : Prop :=
  (∀ (f : Fab) (s t : State) (x : FireIn) (j : Nat) (g : Bool), firingOf (.constk f) s = some x → x.elem.ctl = .count j g →
    x.elem.ended = false →
    let n := fld f.imm 19 10 + 1
    (f.md = 0 ∨ g = true → j < n →
      x.fireAct (.constk f)
        { elem := { x.elem with ctl := .count (j + 1) (decide (j + 1 < n))
                                ended := decide (f.md = 0) && x.outs.isEmpty && decide (j + 1 = n) }
          emits := x.all fun k => .tok k (constTok x j) } = some t →
      exec (.constk f) s = .next t)
    ∧ (f.md = 0 → n ≤ j →
      x.fireAct (.constk f) { elem := { x.elem with ended := true }, emits := x.all fun k => .tok k (eosTok false x.rcNo) } = some t →
      exec (.constk f) s = .next t)
    ∧ (∀ p, f.md ≠ 0 → g = false → x.avail 0 = some p →
      (p.isEnd = false →
        x.fireAct (.constk f)
          { elem := { x.elem.pop 0 with ctl := .count 1 (decide (1 < n)), ended := false }
            emits := x.all fun k => .tok k (constTok x 0) } = some t →
        exec (.constk f) s = .next t)
      ∧ (p.isEnd = true →
        x.fireAct (.constk f) { elem := { x.elem.pop 0 with ended := p.mark == .eos }
                                emits := x.all fun k => .tok k { eosTok false x.rcNo with mark := p.mark } } = some t →
        exec (.constk f) s = .next t)))
  ∧ (∀ (row : (Fab → Instr) × (FireIn → Option Nat)), row ∈
      [((.ctr : Fab → Instr), fun x => if x.f.md = 0 then some (fld x.f.imm 19 0) else none), (.ctrRoot, fun x => some x.load.iters)] →
    ∀ (f : Fab) (s t : State) (x : FireIn) (pass : Option CtrPass) (root : Nat) (g : Bool), firingOf (row.1 f) s = some x →
    x.elem.ctl = .ctr pass root g → x.elem.ended = false →
    let index (el : Elem) (p : CtrPass) : Act :=
      let fin := p.pos + 1 = p.n
      { elem := { el with ctl := .ctr (if fin then none else some { p with pos := p.pos + 1 }) (if (row.2 x).isSome then 1 else 0) false
                          ended := (row.2 x).isSome && decide fin && x.outs.isEmpty }
        emits := x.all fun k => .tok k (scalarTok (x.rc.encodeInt (BitVec.ofNat 32 p.pos)) (if fin then p.mark else .data) x.rcNo) }
    (∀ p, pass = some p → x.fireAct (row.1 f) (index x.elem p) = some t → exec (row.1 f) s = .next t)
    ∧ (∀ n, row.2 x = some n → pass = none → root = 0 → 0 < n → x.fireAct (row.1 f) (index x.elem ⟨0, n, .last⟩) = some t →
      exec (row.1 f) s = .next t)
    ∧ (∀ n, row.2 x = some n → pass = none → 0 < root ∨ n = 0 →
      x.fireAct (row.1 f) { elem := { x.elem with ended := true }, emits := x.all fun k => .tok k (eosTok false x.rcNo) } = some t →
      exec (row.1 f) s = .next t)
    ∧ (∀ p, row.2 x = none → pass = none → x.avail 0 = some p →
      let n := if f.md = 1 then fld f.imm 19 0 else (x.ival p).toInt.toNat
      (p.isEnd = true →
        x.fireAct (row.1 f) { elem := { x.elem.pop 0 with ended := p.mark == .eos }
                              emits := x.all fun k => .tok k { eosTok false x.rcNo with mark := p.mark } } = some t →
        exec (row.1 f) s = .next t)
      ∧ (p.isEnd = false → f.md = 1 ∨ p.poison = false → 0 < n →
        x.fireAct (row.1 f) (index (x.elem.pop 0) ⟨0, n, if p.struct.rank = 0 then .last else .last2⟩) = some t → exec (row.1 f) s = .next t)
      ∧ (p.isEnd = false → f.md = 1 ∨ p.poison = false → n = 0 →
        x.fireAct (row.1 f) { elem := x.elem.pop 0 } = some t → exec (row.1 f) s = .next t)
      ∧ (f.md = 2 → p.poison = true →
        x.fireAct (row.1 f) { elem := x.elem.pop 0, emits := x.all fun k => .tok k (poisonTok false p.struct x.rcNo) } = some t →
        exec (row.1 f) s = .next t)))
  ∧ (∀ (f : Fab) (s t : State) (x : FireIn) (p : Pos) (c : Nat) (psn : Bool), firingOf (.drop f) s = some x →
    x.elem.ctl = .count c psn → x.avail 0 = some p →
    (p.isElided = true → x.fireAct (.drop f)
        { elem := { x.elem.setQueue 0 (popElided (elidedRun (x.elem.queue 0)) (x.elem.queue 0)) with
            ctl := .count (c + elidedRun (x.elem.queue 0)) psn } } = some t → exec (.drop f) s = .next t)
    ∧ (p.isEnd = true → x.fireAct (.drop f)
        { elem := { x.elem.pop 0 with ended := p.mark == .eos }
          emits := x.all fun k => .tok k { eosTok false x.rcNo with mark := p.mark } } = some t → exec (.drop f) s = .next t)
    ∧ (p.mark = .ctrl ∨ p.mark = .steer → x.fireAct (.drop f) { elem := x.elem.pop 0 } = some t → exec (.drop f) s = .next t)
    ∧ (p.isElided = false → p.struct = .data → x.fireAct (.drop f)
        { elem := { x.elem.pop 0 with ctl := .count (c + 1) (psn || p.poison) } } = some t → exec (.drop f) s = .next t)
    ∧ (p.struct = .last ∨ p.struct = .last2 →
      let w := if psn || p.poison then poisonTok false p.struct x.rcNo
        else scalarTok (x.rc.encodeInt (BitVec.ofNat 32 (c + 1))) p.struct x.rcNo
      x.fireAct (.drop f) { elem := { x.elem.pop 0 with ctl := .count 0 false }, emits := x.all fun k => .tok k w } = some t →
      exec (.drop f) s = .next t))
  ∧ (∀ (f : Fab) (s t : State) (x : FireIn) (p : Pos), firingOf (.sink f) s = some x → x.avail 0 = some p →
    x.fireAct (.sink f) { elem := x.elem.pop 0 } = some t → exec (.sink f) s = .next t)
  ∧ (∀ (f : Fab) (s : State) (x : FireIn) (p : Pos), firingOf (.sinkEsc f) s = some x → x.avail 0 = some p →
    let e := fld f.imm 2 0
    let held := (x.run.esc.e.getD e []).length + x.s.heldOut x.ref.run e
    let tok : Token := match p with
      | .elided => scalarTok 0 .data x.rcNo
      | .tok w => { w with skip := 0 }
    (held < 4 → ∀ t, x.fireAct (.sinkEsc f) { elem := x.elem.pop 0, eff := x.sendOut e tok } = some t → exec (.sinkEsc f) s = .next t)
    ∧ (4 ≤ held → exec (.sinkEsc f) s = .next s))

/-- 10 R204, 04 R62, R63, R66: an accumulator folds an ordinary token into its total, from the identity when nothing was folded, a run of
elided positions as zeros, and POISON as its own; a flushing marker emits the total and clears it; CTRL and STEER add nothing; at its
EOS it first emits what it holds (what counts as held: log 106). -/
def Obligations.AccumulatorFoldsAndFlushes : Prop :=
  ∀ (row : (Fab → Instr) × AccKindOf), row ∈ [((.acc : Fab → Instr), AccKindOf.sum), (.accmax, .max), (.accmin, .min)] →
  ∀ (f : Fab) (s t : State) (x : FireIn) (tk : Token) (rest : List Token) (total : W32) (folded psn : Bool), firingOf (row.1 f) s = some x →
    x.elem.ctl = .accum total folded psn → x.elem.queue 0 = tk :: rest → tk.vec = false →
    let fmt := (x.load.chan tk.chan).fmt
    let uns := fmt == 11 || fmt == 10
    let base := if folded then total else accIdent row.2 fmt
    let v := accFold row.2 uns base (x.ival (.tok tk))
    let r (psn : Bool) (w : W32) (m : Mark) := if psn then poisonTok false m x.rcNo else scalarTok (x.rc.encodeInt w) m x.rcNo
    (0 < tk.skip →
      x.fireAct (row.1 f) { elem := { x.elem.setQueue 0 ({ tk with skip := 0 } :: rest) with
                              ctl := .accum (if row.2 = .sum then base else accFold row.2 uns base 0) true psn } } = some t →
      exec (row.1 f) s = .next t)
    ∧ (tk.skip = 0 →
      (tk.mark = .ctrl ∨ tk.mark = .steer → x.fireAct (row.1 f) { elem := x.elem.pop 0 } = some t → exec (row.1 f) s = .next t)
      ∧ (tk.mark.isEnd = false → tk.mark ≠ .ctrl → tk.mark ≠ .steer → tk.isPoison = false → accFlushes f.md.toNat tk.struct = false →
        x.fireAct (row.1 f) { elem := { x.elem.pop 0 with ctl := .accum v true psn } } = some t → exec (row.1 f) s = .next t)
      ∧ (tk.mark.isEnd = false → tk.mark ≠ .ctrl → tk.mark ≠ .steer → tk.isPoison = false → accFlushes f.md.toNat tk.struct = true →
        x.fireAct (row.1 f) { elem := { x.elem.pop 0 with ctl := .accum 0 false false }
                              emits := x.all fun o => .tok o (r psn v tk.struct) } = some t → exec (row.1 f) s = .next t)
      ∧ (tk.isPoison = true → accFlushes f.md.toNat tk.struct = false →
        x.fireAct (row.1 f) { elem := { x.elem.pop 0 with ctl := .accum base true true } } = some t → exec (row.1 f) s = .next t)
      ∧ (tk.isPoison = true → accFlushes f.md.toNat tk.struct = true →
        x.fireAct (row.1 f) { elem := { x.elem.pop 0 with ctl := .accum 0 false false }
                              emits := x.all fun o => .tok o (poisonTok false tk.struct x.rcNo) } = some t → exec (row.1 f) s = .next t)
      ∧ (tk.mark = .eos → folded = true ∨ psn = true →
        x.fireAct (row.1 f) { elem := { x.elem with ctl := .accum 0 false false }
                              emits := x.all fun o => .tok o (r psn base .data) } = some t → exec (row.1 f) s = .next t)
      ∧ (tk.mark = .eos → folded = false → psn = false →
        x.fireAct (row.1 f) { elem := { x.elem.pop 0 with ended := true }
                              emits := x.all fun o => .tok o (eosTok false x.rcNo) } = some t → exec (row.1 f) s = .next t)
      ∧ (tk.mark = .eot →
        x.fireAct (row.1 f) { elem := { x.elem.pop 0 with ended := false }
                              emits := x.all fun o => .tok o { eosTok false x.rcNo with mark := .eot } } = some t → exec (row.1 f) s = .next t))


/-- 11 R207 to R228: an elementwise vector instruction with ordinary positions on the inputs it reads emits the lanes of its row
with the highest structural marker. -/
def Obligations.VectorLaneResult : Prop :=
  ∀ row ∈ vecRows, ∀ (f : Fab) (s t : State) (x : FireIn) (ps : List Pos),
    firingOf (row.1 f) s = some x → x.heads x.ins = some ps → ps.any Pos.isEnd = false → ps.any Pos.poison = false →
    (row.2.1 x && ps.all Pos.isElided) = false →
    let args := x.vargs x.ins ps
    x.fireAct (row.1 f) (vecResult x (x.elem.pops x.ins) (vecMark ps) (laneWise args (row.2.2 x (args.map (·.ch))))) = some t →
    exec (row.1 f) s = .next t

/-- 11 R209, R210, R211, R231, 04 R63, R66, 10 R198: what every elementwise vector instruction does with a POISON operand, with end
tokens, and what the zero-preserving ones do with elided positions on every input they read. -/
def Obligations.VectorSpecialPositions : Prop :=
  ∀ row ∈ vecRows, ∀ (f : Fab) (s t : State) (x : FireIn) (ps : List Pos),
    firingOf (row.1 f) s = some x → x.heads x.ins = some ps →
    (ps.any Pos.isEnd = false → ps.any Pos.poison = true →
      x.fireAct (row.1 f) { elem := x.elem.pops x.ins
                            emits := x.all fun k => .tok k (poisonTok true (vecMark ps) x.rcNo) } = some t →
      exec (row.1 f) s = .next t)
    ∧ (∀ m : Mark, m.isEnd = true → ps ≠ [] → ps.all (fun p => p.mark == m) = true →
      x.fireAct (row.1 f) { elem := { x.elem.pops x.ins with ended := m == .eos }
                            emits := x.all fun k => .tok k { eosTok true x.rcNo with mark := m } } = some t →
      exec (row.1 f) s = .next t)
    ∧ (ps.any Pos.isEnd = true → (∀ m : Mark, m.isEnd = true → ps.all (fun p => p.mark == m) = false) →
      exec (row.1 f) s = .next (s.takeTrap x.ref.run .markskew (x.info .markskew)))
    ∧ (row.2.1 x = true → ps.all Pos.isElided = true → ps ≠ [] →
      let n := (x.ins.map fun k => elidedRun (x.elem.queue k)).foldl Nat.min 63
      x.fireAct (row.1 f) { elem := x.ins.foldl (fun e k => e.setQueue k (popElided n (e.queue k))) x.elem
                            emits := x.all fun k => .elide k n true x.rcNo } = some t →
      exec (row.1 f) s = .next t)

/-- 11 R209, 05 R104: the token of sixteen result lanes. A lane that is present, and no underflow or quantised zero, has its word
and its mask bit; every other lane is +0 and masked; all masked under marker DATA is an elided position. -/
def Obligations.VectorLanesAndMask : Prop :=
  ∀ (x : FireIn) (el : Elem) (m : Mark) (rs : List LaneRes), rs.length = 16 →
    ∃ (v : Line) (k : BitVec 16), (vecResult x el m rs).emits = x.all (fun o => emitVec o v k m x.rcNo)
      ∧ (∀ l, l < 16 → ∀ w c fl, rs[l]? = some (some (w, c, fl)) → c ≠ .underflowZero → c ≠ .quantZero →
          k.getLsbD l = true ∧ lane v l = w)
      ∧ (∀ l, l < 16 → (rs[l]? = some none ∨ ∃ w fl, rs[l]? = some (some (w, .underflowZero, fl)) ∨ rs[l]? = some (some (w, .quantZero, fl))) →
          k.getLsbD l = false ∧ lane v l = 0)
      ∧ (k = 0 → m = .data → ∀ o, emitVec o v k m x.rcNo = .elide o 1 true x.rcNo)

/-- 11 R216, R217, R218: a reduction of one token (MOD 0b00), the latch of the folding forms and its flush; a scan; a running
maximum. -/
def Obligations.VectorReductionsAndScans : Prop :=
  (∀ (row : (Fab → Instr) × RedOp), row ∈ [((.vred : Fab → Instr), RedOp.sum), (.vredmax, .max), (.vredmin, .min), (.vamax, .amax)] →
    ∀ (f : Fab) (s t : State) (x : FireIn) (tk : Token), firingOf (row.1 f) s = some x → x.avail 0 = some (.tok tk) →
    tk.mark.isEnd = false → tk.isPoison = false →
    (f.md = 0 → ∀ r fl, redTree x row.2 (x.varg 0 (.tok tk)) = (r, fl) →
      x.fireAct (row.1 f) (redEmit x (x.elem.pop 0) (vecMark [.tok tk]) r fl) = some t → exec (row.1 f) s = .next t)
    ∧ (f.md ≠ 0 → ∀ sv r fl w g b, x.elem.ctl = .fold sv false b → redTree x row.2 (x.varg 0 (.tok tk)) = (some r, fl) →
      redFold x row.2 (x.load.chan tk.chan).unsignedCmp sv r = (w, g) →
      (accFlushes (f.md.toNat - 1) tk.struct = false →
        x.fireAct (row.1 f) { elem := { x.elem.pop 0 with ctl := .fold (some w) false false }, flags := fl ||| g } = some t →
        exec (row.1 f) s = .next t)
      ∧ (accFlushes (f.md.toNat - 1) tk.struct = true →
        x.fireAct (row.1 f) (redEmit x { x.elem.pop 0 with ctl := .fold none false false } tk.struct
          (some (if x.isFloat then .inl (f32 w.toNat) else .inr w)) (fl ||| g)) = some t →
        exec (row.1 f) s = .next t)))
  ∧ (∀ (f : Fab) (s t : State) (x : FireIn) (tk : Token) (carry c : Option W32) (rs : List LaneRes), firingOf (.vscan f) s = some x →
    x.avail 0 = some (.tok tk) → tk.mark.isEnd = false → tk.isPoison = false → x.elem.ctl = .scan carry →
    scanLanes x (x.load.chan tk.chan) (x.imm 8 8 == 1) carry (x.varg 0 (.tok tk)).lanes = (c, rs) →
    x.fireAct (.vscan f) (vecResult x { x.elem.pop 0 with ctl := .scan (scanKeep f.md.toNat tk.struct c) } (vecMark [.tok tk]) rs) = some t →
    exec (.vscan f) s = .next t)
  ∧ (∀ (f : Fab) (s t : State) (x : FireIn) (tk : Token) (m : Line), firingOf (.vmaxr f) s = some x →
    x.avail 0 = some (.tok tk) → tk.mark.isEnd = false → tk.isPoison = false → x.elem.ctl = .maxr m →
    let rs := (List.range 16).map fun l => maxrLane x (x.load.chan tk.chan) (lane m l) (argAt (x.varg 0 (.tok tk)).lanes l)
    let v := packLanes (rs.map (·.2.1.1))
    let d := packLanes (rs.map (·.2.2.1))
    let k := vecMark [.tok tk]
    x.fireAct (.vmaxr f)
      { elem := { x.elem.pop 0 with
          ctl := .maxr (if k.rank > f.md.toNat then packLanes (List.replicate 16 0xFF800000) else packLanes (rs.map (·.1))) }
        emits := x.all fun o => .tok o (vecTok (if o = 0 then v else d) 0xFFFF k x.rcNo)
        flags := rs.foldl (fun a r => a ||| r.2.1.2 ||| r.2.2.2) 0 } = some t →
    exec (.vmaxr f) s = .next t)

/-- 11 R219 to R221, R229, R230: lanes moved by a pattern, positions gathered into packed or coded blocks, a token taken apart; a window
of the reorder buffer that fills in the tile store while the one before it is emitted, and the end token after the last. -/
def Obligations.VectorMovement : Prop :=
  (∀ (f : Fab) (s t : State) (x : FireIn) (ps : List Pos), firingOf (.vshuf f) s = some x → x.heads x.ins = some ps →
    ps.any Pos.isEnd = false → ps.any Pos.poison = false →
    let pat := x.load.vk x.blk.page x.tile (fld f.imm 2 0)
    let srcs := (x.ins.zip ps).map fun e => (x.varg e.1 e.2).lanes
    let rs : List LaneRes := (List.range 16).map fun l =>
      if (lane pat l).getLsbD 31 then none
      else (argAt (srcs.getD (fld (lane pat l) 4 4) []) (fld (lane pat l) 3 0)).map fun w => (w, .exact, 0)
    x.fireAct (.vshuf f) (vecResult x (x.elem.pops x.ins) (vecMark ps) rs) = some t → exec (.vshuf f) s = .next t)
  ∧ (∀ (f : Fab) (s t : State) (x : FireIn) (p : Pos), firingOf (.vpackCode f) s = some x → x.elem.ctl = .pack [] → x.avail 0 = some p →
    p.isEnd = false → p.struct.rank = 0 →
    x.fireAct (.vpackCode f) { elem := { x.elem.pop 0 with ctl := .pack [p] } } = some t → exec (.vpackCode f) s = .next t)
  ∧ (∀ (f : Fab) (s t : State) (x : FireIn) (p q : Pos) (v : Line), firingOf (.vpackCode f) s = some x → x.elem.ctl = .pack [q] →
    x.avail 0 = some p → p.isEnd = false → p.poison = false → q.poison = false →
    encodeBlock x.rc.fmt x.rc.ctab (x.load.ctabs.getD x.rc.ctab 0)
      ((packElems q ++ packElems p).map fun w => (w.getD 0).toNat % 256) = some v →
    x.fireAct (.vpackCode f) { elem := { x.elem.pop 0 with ctl := .pack [] }
                               emits := x.all fun k => .tok k (vecTok v 0xFFFF (vecMark [p]) x.rcNo) } = some t →
    exec (.vpackCode f) s = .next t)
  ∧ (∀ (f : Fab) (s t : State) (x : FireIn) (p : Pos) (held : List Pos) (w : Nat), firingOf (.vpackRaw f) s = some x →
    x.elem.ctl = .pack held → x.avail 0 = some p → w = 8 * fmtBytes (x.inChan 0).fmt → p.isEnd = false →
    (held.length + 1 < 32 / w → p.struct.rank = 0 →
      x.fireAct (.vpackRaw f) { elem := { x.elem.pop 0 with ctl := .pack (held ++ [p]) } } = some t → exec (.vpackRaw f) s = .next t)
    ∧ (32 / w ≤ held.length + 1 → (held ++ [p]).any Pos.poison = false →
      x.fireAct (.vpackRaw f) (vecResult x { x.elem.pop 0 with ctl := .pack [] } (vecMark [p])
        (packWords w ((held ++ [p]).flatMap packElems))) = some t → exec (.vpackRaw f) s = .next t))
  ∧ (∀ (f : Fab) (s t : State) (x : FireIn) (tk : Token), firingOf (.vunpk f) s = some x → x.avail 0 = some (.tok tk) →
    tk.mark.isEnd = false → tk.isPoison = false →
    let w := 8 * fmtBytes x.rc.fmt
    let part (j : Nat) : List Emit :=
      let ls := (List.range 16).map fun l =>
        if tk.lmask.getLsbD (w * (16 * j + l) / 32) then
          some (BitVec.ofNat 32 (fld tk.data (w * (16 * j + l) + w - 1) (w * (16 * j + l)))) else none
      x.all fun k => emitVec k (packLanes (ls.map (·.getD 0))) (packMask (ls.map Option.isSome))
        (if j + 1 = 32 / w then vecMark [.tok tk] else .data) x.rcNo
    x.fireAct (.vunpk f) { elem := x.elem.pop 0, emits := part 0
                           later := laterItems ((List.range (32 / w - 1)).map fun j => part (j + 1)) } = some t →
    exec (.vunpk f) s = .next t)
  ∧ (∀ (row : (Fab → Instr) × Bool), row ∈ [((.rob : Fab → Instr), false), (.robT, true)] →
    ∀ (f : Fab) (s t : State) (x : FireIn), firingOf (row.1 f) s = some x →
    let d : BitVec 128 := x.pool (x.imm 9 0 + 1) ++ x.pool (x.imm 9 0)
    let n := fld d 9 0 + 1
    ∀ fill emit j half, x.elem.ctl = .rob fill emit j half →
    let out := if emit = 0 then [] else robOut x row.2 d (1 - half) j
    let after (fill : Nat) : Ctl :=
      if emit ≠ 0 ∧ j + 1 ≠ emit then .rob fill emit (j + 1) half
      else if fill = n then .rob 0 fill 0 (1 - half) else .rob fill 0 (if emit = 0 then j else 0) half
    (∀ p, x.avail 0 = some p → p.isEnd = false → fill < n →
      x.fireAct (row.1 f) { elem := { x.elem.pop 0 with ctl := after (fill + 1) }, emits := out, eff := x.robStore d half fill p } = some t →
      exec (row.1 f) s = .next t)
    ∧ (emit ≠ 0 → x.avail 0 = none ∨ n ≤ fill →
      x.fireAct (row.1 f) { elem := { x.elem with ctl := after fill }, emits := out } = some t → exec (row.1 f) s = .next t)
    ∧ (∀ p, x.avail 0 = some p → p.isEnd = true → fill = 0 → emit = 0 →
      x.fireAct (row.1 f) { elem := { x.elem.pop 0 with ended := p.mark == .eos }
                            emits := x.all fun k => .tok k { eosTok true x.rcNo with mark := p.mark } } = some t →
      exec (row.1 f) s = .next t))


/-- 12 R233 to R237: MMA accepts an operation whose tokens stand at its input; MOPF writes one vector into every tile it selects, and
at the last of its window names the window. -/
def Obligations.MatrixOperandsAccepted : Prop :=
  (∀ (f : Fab) (s t : State) (x : FireIn) (ops : List MmaOp) (last : Option (Nat × Nat)) (ctrl m a b : Pos),
    firingOf (.mma f) s = some x → x.elem.ctl = .mma ops last → ops.length < 4 →
    x.placeFree f.cona ops.length = true →
    ctrl.mark = .ctrl → mmaCtrlBad ctrl.word = false →
    m.isData = true → a.isData = true → b.isData = true → m.poison = false → a.poison = false → b.poison = false →
    let c := ctrl.word
    let ps := if mmaOp c = 0 then [ctrl, a, b] else if mmaOp c = 1 then [ctrl, m, a, b] else [ctrl]
    firstPos ps.length (x.elem.queue 0) = ps →
    (mmaOp c ≠ 2 →
      addrBad a.word (mmaM c * mmaK c * fmtBytes (x.load.chan (a.chan x.rcNo)).fmt) = false
      ∧ addrBad b.word (mmaK c * mmaN c * fmtBytes (x.load.chan (b.chan x.rcNo)).fmt) = false
      ∧ mmaClass (x.load.chan (a.chan x.rcNo)).fmt ≠ 0
      ∧ mmaClass (x.load.chan (a.chan x.rcNo)).fmt = mmaClass (x.load.chan (b.chan x.rcNo)).fmt) →
    let op : MmaOp := if mmaOp c = 2 then ⟨c, 0xFFFFFFFF, 0, x.rcNo, 0, x.rcNo, false, none, 0⟩
      else ⟨c, if mmaOp c = 1 then m.word else 0xFFFFFFFF, a.word, a.chan x.rcNo, b.word, b.chan x.rcNo, false, none, 0⟩
    x.fireAct (.mma f) { elem := { x.elem.pops (List.replicate ps.length 0) with ctl := .mma (ops ++ [op]) last } } = some t →
    exec (.mma f) s = .next t)
  ∧ (∀ (f : Fab) (s t : State) (x : FireIn) (q : Token) (k : Nat), firingOf (.mopf f) s = some x → x.elem.ctl = .count k false →
    x.avail 0 = some (.tok q) → q.mark.isEnd = false → q.isPoison = false →
    let p := fld f.imm 9 0
    let base := fld (x.pool (p + 1)) 16 0
    let n := fld (x.pool (p + 1)) 27 17 + 1
    let tiles := (List.range 64).filter fun t => (x.pool p).getLsbD t
    let bytes := ((Pos.tok q).lanes.map fun w => natBytes 4 (w.getD 0).toNat).flatten
    let write (s : State) : State := tiles.foldl (fun s t => s.bankWrite x.run x.blk.page t (base + 64 * k) bytes) s
    (k + 1 < n →
      x.fireAct (.mopf f) { elem := { x.elem.pop 0 with ctl := .count (k + 1) false }, eff := write } = some t →
      exec (.mopf f) s = .next t)
    ∧ (n ≤ k + 1 →
      x.fireAct (.mopf f)
        { elem := { x.elem.pop 0 with ctl := .count 0 false }
          emits := x.all fun o => .tok o (scalarTok (BitVec.ofNat 32 (tiles.headD 0 * 2 ^ 17 + base)) .data x.rcNo), eff := write }
        = some t →
      exec (.mopf f) s = .next t))

/-- 12 R232, R235, R236, 05 R97: the oldest operation that may start zeroes the words that it forms without accumulating; a word of an
output tile is its accumulator with the products of a row of A and a column of B added, K-group by K-group; six cycles after the P
cycles of the operation what it has not formed yet is formed, the completion token leaves and the operation is gone. -/
def Obligations.MatrixOperationRuns : Prop :=
  (∀ (e : ElemRef) (s t : State) (x : FireIn) (i : Instr) (ops : List MmaOp) (last : Option (Nat × Nat)) (j : Nat) (o : MmaOp),
    driveOf e s = some (x, i) → x.elem.ctl = .mma ops last → mmaCandidate x = some j → ops[j]? = some o → o.poisoned = false →
    let pl := x.run.plane x.ref.plane
    x.driveAct i
      { elem := { x.elem with
          ctl := .mma (setAt ops j { o with started := some x.run.cycles, groups := 0 }) (some (x.run.cycles, x.mmaCycles o)) }
        eff := fun s => s.putAccs x.ref
          ((mmaTiles o.ctrl).map fun k => mmaZero o (pl.acc x.blk.page x.tile (fld o.ctrl 18 16 + k))) } = some t →
    exec (.mmaStart e) s = .next t)
  ∧ (∀ (o : MmaOp) (old : AccTile) (i : Nat), i < 1024 →
    (mmaZero o old).vals.getD i 0 = if o.ctrl.getLsbD 19 = false ∧ o.forms i = true then 0 else old.vals.getD i 0)
  ∧ (∀ (o : MmaOp) (old : AccTile) (g0 g1 k : Nat) (A B : Array (Option XVal)) (i : Nat), i < 1024 → old.bad.contains i = false →
    let nc := fld o.ctrl 27 26 + 1
    let m := 32 * (k / nc) + i / 32
    let n := 32 * (k % nc) + i % 32
    (mmaTile o old g0 g1 k A B).1.vals.getD i 0 = if o.forms i = true then
      (dotGroups (old.vals.getD i 0) g0 g1
        (fun q => A.getD (if o.ctrl.getLsbD 15 then q * mmaM o.ctrl + m else m * mmaK o.ctrl + q) none)
        (fun q => B.getD (if o.ctrl.getLsbD 14 then n * mmaK o.ctrl + q else q * mmaN o.ctrl + n) none)).1.getD 0
      else old.vals.getD i 0)
  ∧ (∀ (e : ElemRef) (s t : State) (x : FireIn) (i : Instr) (o : MmaOp) (last : Option (Nat × Nat)) (n : Nat),
    driveOf e s = some (x, i) → x.elem.ctl = .mma [o] last → o.started = some n → n + x.mmaCycles o + 6 ≤ x.run.cycles →
    o.poisoned = false →
    x.driveAct i
      { elem := { x.elem with ctl := .mma [] last }
        emits := x.all fun k =>
          .tok k (scalarTok (completionWord 0 0 (mmaNT o.ctrl) (fld o.ctrl 18 16)) .data x.rcNo)
        flags := (x.mmaForm o o.all).foldl (fun f r => f ||| r.2) 0
        eff := fun s => s.putAccs x.ref ((x.mmaForm o o.all).map (·.1)) } = some t →
    exec (.mmaComplete e) s = .next t)

/-- 12 R238, R239: a completion token that names the accumulator begins its drain, or leaves it pending while an operation claims the
accumulator; a pending drain begins when none does; each word of
a drain on scalar routes leaves on every selected route, at most one in a cycle. -/
def Obligations.MatrixDrains : Prop :=
  (∀ (row : (Fab → Instr) × Bool), row ∈ [((.mdrain : Fab → Instr), false), (.mdrainAll, true)] →
    ∀ (f : Fab) (s t : State) (x : FireIn) (p : Pos), firingOf (row.1 f) s = some x → x.elem.ctl = .drain none →
    x.head 0 = some p → p.isEnd = false → p.poison = false → f.md ≠ 1 →
    let c := p.word
    let lo := fld c 2 0
    let hi := lo + fld c 6 4
    let accs := if row.2 then (List.range (hi + 1 - lo)).map (lo + ·) else [fld f.imm 12 10]
    let w : W32 := (x.pool (fld f.imm 9 0)).setWidth 32
    let sel := (List.range 8).filter fun k => w.getLsbD k
    let routes := routesOf x (row.1 f)
    let vecs := sel.filterMap fun k => (routes.find? (fun r => r.1 == k)).map fun r => routeVec x.blk x.ref.idx r.2
    (fld c 31 28 ≤ 4 ∨ fld c 31 28 = 12) → (row.2 = false → lo ≤ fld f.imm 12 10 ∧ fld f.imm 12 10 ≤ hi) →
    fld w 31 8 = 0 → sel.all (fun k => routes.any fun r => r.1 == k) = true → (vecs.any id && !vecs.all id) = false →
    let d : Drain := ⟨accs, 0, 0, fld w 7 0, [], false, false, false, vecs.any id⟩
    (drainClaimed x d = false → x.fireAct (row.1 f) (drainStart x d) = some t → exec (row.1 f) s = .next t)
    ∧ (drainClaimed x d = true → x.fireAct (row.1 f) { elem := { x.elem with ctl := .drain (some d) } } = some t →
      exec (row.1 f) s = .next t))
  ∧ (∀ (x : FireIn) (d : Drain), d.taken = false → d.rtmask ≠ 0 →
    ((drainStart x d).elem.queue 0 = (x.elem.pops x.ins).queue 0)
    ∧ ∃ d', (drainStart x d).elem.ctl = .drain (some d') ∧ d'.accs = d.accs ∧ d'.begun = true ∧ d'.taken = true)
  ∧ (∀ (e : ElemRef) (s t : State) (x : FireIn) (i : Instr) (d : Drain), driveOf e s = some (x, i) → x.elem.ctl = .drain (some d) →
    d.begun = false → drainClaimed x d = false → x.driveAct i (drainStart x d) = some t → exec (.drainBegin e) s = .next t)
  ∧ (∀ (e : ElemRef) (s t : State) (x : FireIn) (i : Instr) (d : Drain) (w : W32) (rest : List (List (Option W32))),
    driveOf e s = some (x, i) → x.elem.ctl = .drain (some d) → d.begun = true → d.read = [some w] :: rest → d.poisoned = false →
    d.vec = false → x.elem.firedAt ≠ x.s.cycle + 1 →
    let sel := (routesOf x i).filter fun r => d.rtmask.testBit r.1
    sel.all (fun r => linkCap x.load x.ref.blk r.2 == 0 || hasRoom x.load x.ref.blk x.blk x.s.cycle x.ref.idx r.2 1) = true →
    let m : Mark := if d.pos = 1023 then .last2 else if d.pos % 32 = 31 then .last else .data
    let d1 := drainFill x { d with read := rest, pos := d.pos + 1 }
    let enc := x.rc.encode (f32 w.toNat)
    x.driveAct i
      { elem := { x.elem with ctl := .drain (if d1.pos = 1024 then drainNext d1 else some d1), firedAt := x.s.cycle + 1 }
        flags := enc.2.2
        emits := sel.map fun r => emitWord r.1 enc.1 enc.2.1 m x.rcNo } = some t →
    exec (.drainWord e) s = .next t)


/-- 12 R240, R247 to R253, 06 R109, R111, R112, R121: the relational elements on a readable relation. RSCAN lets a LIVE tuple go once another
one stands behind it, with LAST at the end of a fibre of a SORTED-FIBRE relation, else once the part has ended, with LAST or LAST2, and
then ends. HPROBE joins its input with a LIVE slot of its key, passes over a slot of another key or that its scan does not find LIVE, ends at an EMPTY, or with its match or a
TENT slot of its key, and its last match, or an empty position, carries the input's marker. INSNEW and AGG send to the owner, and send
nothing for an end token, a POISON position, which they log, or an empty one. NEGATE passes what a Boolean relation does not hold, and
weighs under MAXPROD. RPART gathers a window, lets it leave at LAST2, and hands an end token on. GRADB of a base tuple emits its gradient.
HPROBE, NEGATE and GRADB hand end tokens, POISON and empty positions on. -/
def Obligations.RelationalElements : Prop :=
  (∀ (f : Fab) (s t : State) (x : FireIn) (h : Line) (i : Nat) (held : Option Token) (u : Tuple), firingOf (.rscan f) s = some x →
    x.elem.ctl = .rscan i held false → x.s.relHdr x.run.slot x.relVa = .ok h → i < partCount h x.scanPart →
    x.s.partItem x.run.slot h x.scanPart i = .ok u → u.psn = false →
    let here : Option Token := if u.state = 1 then some (tupleTok u.keys u.wgt u.src .data x.rcNo) else none
    let next := x.s.tupleFrom x.run.slot h x.scanPart (partCount h x.scanPart - (i + 1)) (i + 1)
    let out (col : Nat) (o : Token) : List Emit := x.all fun k =>
      .tok k (o.withMark (if hdrKind h = 2 ∧ x.scanPart = 0 ∧ (lane o.data 0).toNat ≠ col then .last else .data))
    (∀ o n, held = some o → here = some n →
      x.fireAct (.rscan f) { elem := { x.elem with ctl := .rscan (i + 1) (some n) false }, emits := out (u.keys.headD 0) o } = some t →
      exec (.rscan f) s = .next t)
    ∧ (∀ a b, held = none ∨ here = none → (held.orElse fun _ => here) = some a → next = some b →
      x.fireAct (.rscan f) { elem := { x.elem with ctl := .rscan (i + 1) none false }, emits := out (b.keys.headD 0) a } = some t →
      exec (.rscan f) s = .next t)
    ∧ (held = none ∨ here = none → (held.orElse fun _ => here) = none ∨ next = none →
      x.fireAct (.rscan f) { elem := { x.elem with ctl := .rscan (i + 1) (held.orElse fun _ => here) false } } = some t →
      exec (.rscan f) s = .next t))
  ∧ (∀ (f : Fab) (s t : State) (x : FireIn) (h : Line) (i : Nat), firingOf (.rscan f) s = some x →
    x.s.relHdr x.run.slot x.relVa = .ok h → partCount h x.scanPart ≤ i →
    (∀ tok, x.elem.ctl = .rscan i (some tok) false →
      x.fireAct (.rscan f) { elem := { x.elem with ctl := .rscan i none false }
                             emits := x.all fun k => .tok k (tok.withMark (if hdrKind h = 2 ∧ x.scanPart = 0 then .last2 else .last)) }
        = some t → exec (.rscan f) s = .next t)
    ∧ (x.elem.ctl = .rscan i none false →
      x.fireAct (.rscan f) { elem := { x.elem with ctl := .rscan i none true, ended := true }
                             emits := x.all fun k => .tok k (eosTok true x.rcNo) } = some t → exec (.rscan f) s = .next t))
  ∧ (∀ (f : Fab) (s t : State) (x : FireIn) (tk : Token) (h : Line) (mode first limit nx seen : Nat) (held : Option Token),
    firingOf (.hprobe f) s = some x → x.avail 0 = some (.tok tk) → tk.mark.isEnd = false → tk.isPoison = false →
    (Pos.tok tk).empty = false → x.s.relHdr x.run.slot x.relVa = .ok h →
    (x.elem.ctl = .probe (some tk) nx seen held ∨ x.elem.ctl = .probe none nx seen held ∧ seen = 0 ∧ held = none) →
    let n := (Pos.tok tk).ncols
    let cols := (List.range n).map fun l => ((Pos.tok tk).lane l).toNat
    probePlan x.s x.run.slot h x.probePairs cols = .ok (mode, first, limit) → mode ≠ 1 →
    let i := if mode = 0 then (first + seen) % 2 ^ hdrLcap h else first + seen
    let done := { elem := { x.elem.pop 0 with ctl := .probe none 0 0 none }
                  emits := match held with
                    | some m => x.all fun k => .tok k (m.withMark (resultMark [.tok tk]))
                    | none => x.all fun k => emitVec k 0 0 (resultMark [.tok tk]) x.rcNo : Act }
    (limit ≤ seen → x.fireAct (.hprobe f) done = some t → exec (.hprobe f) s = .next t)
    ∧ (∀ u, seen < limit → x.s.partItem x.run.slot h 0 i = .ok u → u.psn = false →
      let key := pairsMatch x.probePairs cols u.keys
      (mode = 0 → u.state = 0 → x.fireAct (.hprobe f) done = some t → exec (.hprobe f) s = .next t)
      ∧ (mode = 0 → u.state = 2 → key = true →
        x.fireAct (.hprobe f) { elem := { x.elem with ctl := .probe (some tk) (i + 1) limit held } } = some t →
        exec (.hprobe f) s = .next t)
      ∧ ((mode = 0 → u.state ≠ 0) → key = false ∨ mode = 2 ∧ u.state ≠ 1 →
        x.fireAct (.hprobe f) { elem := { x.elem with ctl := .probe (some tk) (i + 1) (seen + 1) held } } = some t →
        exec (.hprobe f) s = .next t)
      ∧ (∀ w fl, u.state = 1 → key = true → n + hdrCols h ≤ 8 →
        otimes (hdrRing h) (hdrWfmt h) ((Pos.tok tk).lane 8) u.wgt = (some w, fl) →
        let ls := (List.range 16).map fun l =>
          if l < n then (Pos.tok tk).lane l else if l < n + hdrCols h then BitVec.ofNat 32 (u.keys.getD (l - n) 0)
          else if l = 8 then w else (Pos.tok tk).lane l
        let mask := (tk.lmask &&& 0xFF00) ||| BitVec.ofNat 16 (2 ^ (n + hdrCols h) - 1) ||| 0x100
        let c : Ctl := .probe (some tk) (i + 1) (if mode = 0 then limit else seen + 1) (some (vecTok (packLanes ls) mask .data x.rcNo))
        x.fireAct (.hprobe f) { elem := { x.elem with ctl := c }
                                emits := match held with
                                  | some m => x.all fun k => .tok k (m.withMark .data)
                                  | none => []
                                flags := fl } = some t →
        exec (.hprobe f) s = .next t)))
  ∧ (∀ (row : (Fab → Instr) × Bool), row ∈ [((.insnew : Fab → Instr), true), (.agg, false)] →
    ∀ (f : Fab) (s t : State) (x : FireIn) (p : Pos), firingOf (row.1 f) s = some x → x.avail 0 = some p →
    (p.isEnd = true → x.fireAct (row.1 f) { elem := { x.elem.pop 0 with ended := p.mark == .eos } } = some t →
      exec (row.1 f) s = .next t)
    ∧ (∀ (h : Line) (o : Owner), p.isEnd = false → x.s.relHdr x.run.slot x.relVa = .ok h →
      hdrKind h ≠ 2 → (row.2 = true → hdrKind h ≠ 0) → x.s.relOwner x.run.slot x.relVa = some o →
      (p.poison = true → x.fireAct (row.1 f) { elem := x.elem.pop 0, eff := x.logPoison x.relVa } = some t → exec (row.1 f) s = .next t)
      ∧ (p.poison = false → p.empty = true → x.fireAct (row.1 f) { elem := x.elem.pop 0 } = some t → exec (row.1 f) s = .next t)
      ∧ (∀ key, p.poison = false → p.empty = false → x.mapKey h p = some key → (hdrKind h = 0 → (denseIndex h key).isSome = true) →
        let w0 := wmask (hdrWfmt h) (p.lane 8)
        let w := if hdrRing h = 2 then (clamp01 w0).1 else w0
        wNaN (hdrWfmt h) w0 = false → ringZero (hdrRing h) (hdrWfmt h) w = false →
        x.fireAct (row.1 f) { elem := x.elem.pop 0, flags := if hdrRing h = 2 then (clamp01 w0).2 else 0
                              eff := sendInsert x row.2 x.relVa o key w (p.lane 9) } = some t →
        exec (row.1 f) s = .next t)))
  ∧ (∀ (f : Fab) (s t : State) (x : FireIn) (tk : Token) (h : Line) (key : List Nat) (u : Option Tuple), firingOf (.negate f) s = some x →
    x.avail 0 = some (.tok tk) → tk.mark.isEnd = false → tk.isPoison = false → (Pos.tok tk).empty = false →
    x.s.relHdr x.run.slot x.relVa = .ok h → x.mapKey h (.tok tk) = some key → x.s.lookup x.run.slot h key = .ok u →
    let nothing := x.all fun k => emitVec k 0 0 (resultMark [.tok tk]) x.rcNo
    (hdrRing h = 0 → (∀ v, u = some v → v.state ≠ 1) →
      x.fireAct (.negate f) { elem := x.elem.pop 0
                              emits := x.all fun k => .tok k { tk with mark := resultMark [.tok tk], chan := x.rcNo } } = some t →
      exec (.negate f) s = .next t)
    ∧ (∀ v, hdrRing h = 0 → u = some v → v.state = 1 → v.psn = false →
      x.fireAct (.negate f) { elem := x.elem.pop 0, emits := nothing } = some t → exec (.negate f) s = .next t)
    ∧ (∀ v w, hdrRing h = 2 → u = some v → v.state = 1 → v.psn = false → (otimes 2 0 ((Pos.tok tk).lane 8) (oneMinus v.wgt).1).1 = some w →
      let fl := (oneMinus v.wgt).2 ||| (otimes 2 0 ((Pos.tok tk).lane 8) (oneMinus v.wgt).1).2
      let ls := (List.range 16).map fun l => if l = 8 then w else (Pos.tok tk).lane l
      x.fireAct (.negate f)
        { elem := x.elem.pop 0, flags := fl
          emits := if (f32 w.toNat).isZero then nothing
            else x.all fun k => .tok k (vecTok (packLanes ls) (tk.lmask ||| 0x100) (resultMark [.tok tk]) x.rcNo) } = some t →
      exec (.negate f) s = .next t))
  ∧ (∀ (f : Fab) (s t : State) (x : FireIn) (fill : List Token) (q : Bool), firingOf (.rpart f) s = some x →
    x.elem.ctl = .rpart fill [] q →
    (∀ p, x.avail 0 = some p → p.isEnd = true → fill = [] →
      x.fireAct (.rpart f)
        { elem := { x.elem.pop 0 with ctl := .rpart [] [] false, ended := p.mark == .eos }
          emits := (if f.cona.isSome then [.tok 0 { eosTok (f.md = 0) x.rcNo with mark := p.mark }] else [])
            ++ (if f.conb.isSome then [.tok 1 { eosTok false x.rcNo with mark := p.mark }] else []) } = some t →
      exec (.rpart f) s = .next t)
    ∧ (∀ tk, x.avail 0 = some (.tok tk) → tk.mark.isEnd = false → tk.isPoison = false → fill.length < 1024 →
      (f.md = 0 → (Pos.tok tk).empty = false) →
      let w := if f.md = 0 then (Pos.tok tk).lane (fld f.imm 2 0) else tk.word
      let d := (if fld f.imm 3 3 = 1 then crc32c 0 (natBytes 4 w.toNat) else w.toNat) / 2 ^ fld f.imm 8 4 % 2 ^ (fld f.imm 11 9 + 1)
      let fill' := fill ++ [{ tk with skip := d }]
      (tk.struct ≠ .last2 →
        x.fireAct (.rpart f) { elem := { x.elem.pop 0 with ctl := .rpart fill' [] q } } = some t → exec (.rpart f) s = .next t)
      ∧ (tk.struct = .last2 →
        let out := partNow (partWindow (fld f.imm 11 9 + 1) x.rcNo fill')
        x.fireAct (.rpart f) { elem := { x.elem.pop 0 with ctl := .rpart [] out.2 false }, emits := out.1 } = some t →
        exec (.rpart f) s = .next t)))
  ∧ (∀ (f : Fab) (s t : State) (x : FireIn) (p : Pos) (h : Line) (u : Tuple) (img : Image), firingOf (.gradb f) s = some x →
    x.avail 0 = some p → p.isEnd = false → p.poison = false → p.empty = false → x.s.relHdr x.run.slot x.relVa = .ok h →
    hdrRing h = 2 → hdrKind h ≠ 0 → x.s.lookup x.run.slot h ((List.range (hdrCols h)).map fun l => (p.lane l).toNat) = .ok (some u) →
    u.state = 1 → u.psn = false → x.s.image? x.run = some img → fld u.wit 31 24 = 0 →
    let v := packLanes [BitVec.ofNat 32 (fld u.wit 23 0), p.lane 10, BitVec.ofNat 32 u.src, BitVec.ofNat 32 (img.relPos x.relVa)]
    x.fireAct (.gradb f) { elem := x.elem.pop 0
                           emits := x.all fun k => .tok k (vecTok v 0xF (resultMark [p]) x.rcNo) } = some t →
    exec (.gradb f) s = .next t)
  ∧ (∀ (i : Fab → Instr), i ∈ [(.hprobe : Fab → Instr), .negate, .gradb] → ∀ (f : Fab) (s t : State) (x : FireIn) (p : Pos),
    firingOf (i f) s = some x → x.avail 0 = some p →
    (p.isEnd = true →
      x.fireAct (i f) { elem := { x.elem.pop 0 with ended := p.mark == .eos }
                        emits := x.all fun k => .tok k { eosTok true x.rcNo with mark := p.mark } } = some t →
      exec (i f) s = .next t)
    ∧ (p.isEnd = false → p.poison = true →
      x.fireAct (i f) { elem := x.elem.pop 0, emits := x.all fun k => .tok k (poisonTok true p.struct x.rcNo) } = some t →
      exec (i f) s = .next t)
    ∧ (p.isEnd = false → p.poison = false → p.empty = true →
      x.fireAct (i f) { elem := x.elem.pop 0, emits := x.all fun k => emitVec k 0 0 (resultMark [p]) x.rcNo } = some t →
      exec (i f) s = .next t))


/-- 12 R254 to R258: DLBIND, DLREF, DLDROP and DLMUL send their request to the delta engine of the die and hold a place for its
completion token; a request that has begun completes with its status, its slot, NT and ACCN, and is gone. -/
def Obligations.DeltaRequests : Prop :=
  (∀ (row : (Fab → Instr) × Nat), row ∈ [((.dlbind : Fab → Instr), 0), (.dlref, 2), (.dldrop, 3)] →
    ∀ (f : Fab) (s t : State) (x : FireIn) (p : Pos) (a : Act), firingOf (row.1 f) s = some x → x.heads x.ins = some [p] →
    p.isEnd = false → p.poison = false →
    x.delta (x.elem.pops x.ins) row.2 p.word.toNat 0 0 0 0 0 (x.ins.zip [p]) = .act a →
    x.fireAct (row.1 f) a = some t → exec (row.1 f) s = .next t)
  ∧ (∀ (f : Fab) (s t : State) (x : FireIn) (c xa wa : Token) (a : Act), firingOf (.dlmul f) s = some x →
    firstPos 3 (x.elem.queue 0) = [.tok c, .tok xa, .tok wa] → c.mark = .ctrl →
    fld c.word 31 30 = 0 → fld c.word 13 9 = 0 → fld c.word 21 19 + fld c.word 29 28 ≤ 7 →
    (Pos.tok xa).isData = true → (Pos.tok wa).isData = true → xa.isPoison = false → wa.isPoison = false →
    addrBad xa.word (dlM c.word * dlK c.word * fmtBytes (x.load.chan xa.chan).fmt) = false →
    addrBad wa.word (dlK c.word * dlN c.word * fmtBytes (x.load.chan wa.chan).fmt) = false →
    (x.load.chan xa.chan).fmt ≤ 2 →
    (1 ≤ (x.load.chan wa.chan).fmt ∧ (x.load.chan wa.chan).fmt ≤ 4) ∨ (x.load.chan wa.chan).fmt = 7 →
    x.delta (x.elem.pops [0, 0, 0]) 1 (fld c.word 8 0) c.word xa.word xa.chan wa.word wa.chan
      [(0, .tok c), (0, .tok xa), (0, .tok wa)] = .act a →
    x.fireAct (.dlmul f) a = some t → exec (.dlmul f) s = .next t)
  ∧ (∀ (x : FireIn) (el : Elem) (op n : Nat) (ctrl xa wa : W32) (xc wc : Nat) (takes : List (Nat × Pos)), ∃ a,
    x.delta el op n ctrl xa xc wa wc takes = .act a ∧ a.elem = el ∧ a.emits = []
    ∧ a.later.map (fun i => (i.ready, i.parts, i.takes)) = [(false, 1, takes)]
    ∧ ∀ s, ∃ q, q ∈ (a.eff s).eng.dreqs ∧ q.elem = x.ref ∧ q.die = x.run.die ∧ q.op = op ∧ q.ctrl = ctrl)
  ∧ (∀ (die id : Nat) (s t : State) (q : DReq) (x : FireIn) (i : Instr) (d : Delta),
    s.eng.dreqs.find? (fun q => q.id == id && q.die == die) = some q → s.eng.dreqs.find? (fun q => q.id == id) = some q →
    driveOf q.elem s = some (x, i) → q.begun = true → q.op ≠ 1 → d = (if q.op = 0 then bindDone x q else refDone x q (q.op == 3)) →
    d.psn = false → d.num < 512 →
    x.driveAct i
      { elem := { x.elem with out := replyGo q.rid (fun i => [{ i with
          ready := true, parts := 0
          emits := x.all fun k => .tok k (scalarTok (completionWord d.status d.num d.nt d.accn) .data x.rcNo) }]) x.elem.out }
        flags := d.flags
        eff := fun u => State.setDreqs { u with mem := d.s.mem, eng := d.s.eng } q.die (d.s.eng.dreqs.filter fun y => y.id != id) }
      = some t → exec (.deltaComplete die id) s = .next t)

/-- 12 R255 to R258, 07 R140 to R142: what a bound, renewed or dropped slot comes to, and the statuses of a request that does nothing; the
status of a DLMUL, and what it leaves in its slot and, when it computes in full, in the accumulators. -/
def Obligations.DeltaSlotStates : Prop :=
  (∀ (x : FireIn) (q : DReq), q.num < 1000 →
    let c := q.ctrl
    let t := x.s.runTenant x.run
    let n := (x.s.slotRange t).1 + fld c 8 0
    let v := x.s.dslot x.run.die n
    let d := mulDone x q
    let v' := d.s.dslot x.run.die n
    let mine := dsState v ≠ 0 ∧ dsTenant v = t
    let fits := dlM c * dlK c / 16 = fld v 159 144 ∧ fld v 191 160 + dlM c * dlN c / 16 ≤ (x.s.areaRange x.run.die t).2
    let X := x.bankElems q.xAddr (x.load.chan q.xChan) (dlM c * dlK c)
    let W := x.bankElems q.wAddr (x.load.chan q.wChan) (dlK c * dlN c)
    let st : Nat := if dsState v = 1 then 1 else if dsState v = 3 then 2 else if dlShape c ≠ dsShape v then 12
      else if fld v 247 240 = fld v 255 248 then 3 else if XVal.lt (f32 (fld v 479 448)) (f32 (fld v 511 480)) then 4 else 0
    (¬ mine → d.status = 5 ∧ d.s = x.s)
    ∧ (mine → ¬ fits → d.status = 10 ∧ d.s = x.s)
    ∧ (mine → fits → X.any Option.isNone = false → W.any Option.isNone = false →
      (st = 0 → d.status = 0 ∧ (q.hit = false → dsState v' = 2 ∧ fld v' 247 240 = (fld v 247 240 + 1) % 256 ∧ dsShape v' = dlShape c))
      ∧ (st ≠ 0 →
        (∀ e, x.s.relRaw x.run.slot (dsHdr v) = .error e → d.status = 11 ∧ d.s = x.s)
        ∧ ∀ h, x.s.relRaw x.run.slot (dsHdr v) = .ok h →
          (hdrBad h = true ∨ hdrKind h ≠ 0 → d.status = 11 ∧ d.s = x.s)
          ∧ (hdrBad h = false → hdrKind h = 0 → d.status = st
            ∧ (q.hit = false → dsState v' = 2 ∧ dsWver v' = hdrWver h ∧ fld v' 247 240 = 0 ∧ fld v' 511 480 = 0 ∧ dsShape v' = dlShape c)
            ∧ (q.hit = true → v' = putFld v 228 2 3)
            ∧ ∀ r, x.s.run? x.ref.run = some r →
              (∀ k, ((r.plane x.ref.plane).acc x.blk.page x.tile k).vals.length = 1024) →
              ∃ r', d.s.run? x.ref.run = some r' ∧ ∀ j i, j ≤ fld c 29 28 → i < 1024 →
                ((r'.plane x.ref.plane).acc x.blk.page x.tile (fld c 21 19 + j)).vals.getD i 0 =
                  if i / 32 < dlM c then
                    (fullWord (dlK c) (fun k => (X.getD (i / 32 * dlK c + k) none).getD XVal.zero)
                      fun k => (W.getD (k * dlN c + 32 * j + i % 32) none).getD XVal.zero).1
                  else ((r.plane x.ref.plane).acc x.blk.page x.tile (fld c 21 19 + j)).vals.getD i 0))))
  ∧ ∀ (x : FireIn) (q : DReq), q.num < 512 → (x.s.slotRange (x.s.runTenant x.run)).1 ≤ q.num →
    let v := x.s.dslot x.run.die q.num
    let mine := dsState v ≠ 0 ∧ dsTenant v = x.s.runTenant x.run
    (¬ mine → ∀ drop, (refDone x q drop).status = 5 ∧ (refDone x q drop).s = x.s)
    ∧ (mine → (refDone x q true).status = 0 ∧ dsState ((refDone x q true).s.dslot x.run.die q.num) = 0)
    ∧ (mine → dsState v = 2 →
        (refDone x q false).status = 0 ∧ dsState ((refDone x q false).s.dslot x.run.die q.num) = 1)
    ∧ (mine → dsState v ≠ 2 → (refDone x q false).status = 0 ∧ (refDone x q false).s = x.s)
    ∧ (mine → (bindDone x q).status = 7 ∧ (bindDone x q).s = x.s)

/-- 07 R141: an invalidation makes STALE the bound and warm slots of its tenant, header and version that no multiply uses, and
leaves every other slot as it is. -/
def Obligations.InvalidationMarksStale : Prop :=
  ∀ (die : Nat) (s : State) (v : Inval), (s.eng.invals.filter fun i => i.die == die)[0]? = some v →
    (∀ q ∈ s.eng.dreqs, q.die = die → q.op ≠ 1) →
    ∃ t, exec (.invalidateArrival die 0) s = .next t ∧ t.eng.invals = s.eng.invals.erase v ∧ t.mem = s.mem ∧ t.runs = s.runs
      ∧ ∀ n, ∀ hn : n < s.eng.slots.length, ∃ y, t.eng.slots[n]? = some y ∧
        let x := s.eng.slots[n]
        let hit := x.die = die ∧ (dsState x.val = 1 ∨ dsState x.val = 2) ∧ dsTenant x.val = v.tenant.toNat ∧ dsHdr x.val = v.hdr
          ∧ dsWver x.val = v.ver
        (¬ hit → y = x) ∧ (hit → dsState y.val = 3 ∧ y.n = x.n ∧ y.die = x.die ∧ dsHdr y.val = dsHdr x.val)

/-- 12 R259 to R263: BSCORE scores a query against its blocks; TOPKB gathers scores and at a marker selects; ATTNACC adds weights to
the entries of its cache; EVICT allocates entries and names them; EVICT.reset frees the cache. -/
def Obligations.AttentionElements : Prop :=
  (∀ (f : Fab) (s t : State) (x : FireIn) (tk : Token) (rs : List (W32 × Flags)), firingOf (.bscore f) s = some x →
    x.heads [0] = some [.tok tk] → (Pos.tok tk).isData = true → tk.isPoison = false →
    let w := x.pool (fld f.imm 9 0)
    let c := x.load.chan tk.chan
    mmaClass c.fmt = 1 → addrBad tk.word (bsDim w * fmtBytes c.fmt) = false →
    addrBad (bsKeys w) (bsBlocks w * bsDim w * fmtBytes c.fmt) = false →
    x.s.mem.storeBad = [] →
    let q := x.bankElems tk.word c (bsDim w)
    let ks := x.bankElems (bsKeys w) c (bsBlocks w * bsDim w)
    rs = ((List.range (bsBlocks w)).map fun j =>
      fullWord (bsDim w) (fun i => (q.getD i none).getD XVal.zero) fun i => (ks.getD (j * bsDim w + i) none).getD XVal.zero) →
    let m : Mark := if tk.struct = .last2 then .last2 else .last
    let es := (scoreTokens (bsBlocks w) m x.rcNo (rs.map fun r => some r.1)).map fun t => x.all fun k => .tok k t
    x.fireAct (.bscore f) { elem := x.elem.pop 0, emits := es.headD [], later := laterItems (es.drop 1)
                            flags := rs.foldl (fun f r => f ||| r.2) 0 } = some t →
    exec (.bscore f) s = .next t)
  ∧ (∀ (f : Fab) (s t : State) (x : FireIn) (tk : Token) (held : List (Option W32)), firingOf (.topkb f) s = some x →
    x.elem.ctl = .topk held false → x.heads [0] = some [.tok tk] → tk.mark.isEnd = false → tk.isPoison = false →
    held.length + 16 ≤ 1024 →
    let all := held ++ (Pos.tok tk).lanes.map fun w => w.map fun w => BitVec.ofNat 32 (r32 ((x.load.chan tk.chan).decode w)).1
    (tk.struct.rank = 0 →
      x.fireAct (.topkb f) { elem := { x.elem.pop 0 with ctl := .topk all false } } = some t → exec (.topkb f) s = .next t)
    ∧ (tk.struct.rank ≠ 0 →
      let sel := selectBlocks (fld f.imm 6 0) (f.imm.getLsbD 7) (all.map fun w => w.map fun w => f32 w.toNat)
      let es := (maskTokens sel all.length tk.struct x.rc x.rcNo).map fun t => x.all fun k => .tok k t
      x.fireAct (.topkb f) { elem := { x.elem.pop 0 with ctl := .topk [] false }, emits := es.headD []
                             later := laterItems (es.drop 1) } = some t → exec (.topkb f) s = .next t))
  ∧ (∀ (f : Fab) (s t : State) (x : FireIn) (tk : Token) (pos : Nat) (b : Bool) (l : List CacheEntry) (fl : Flags),
    firingOf (.attnacc f) s = some x → x.elem.ctl = .count pos b → x.avail 0 = some (.tok tk) → tk.mark.isEnd = false →
    tk.isPoison = false → (∀ n, n < 16 → tk.lmask.getLsbD n = true → 16 * pos + n < x.cache.budget) →
    attnApply x.cache (x.load.chan tk.chan) pos (Pos.tok tk).lanes x.s.eng.cache = (l, fl) →
    x.fireAct (.attnacc f) { elem := { x.elem.pop 0 with ctl := .count (if tk.struct.rank = 0 then pos + 1 else 0) false }
                             flags := fl, eff := fun s => s.setCache l } = some t →
    exec (.attnacc f) s = .next t)
  ∧ (∀ (f : Fab) (s t : State) (x : FireIn) (p : Pos) (es : List (Nat × Bool)), firingOf (.evict f) s = some x →
    x.heads x.ins = some [p] → p.isEnd = false → p.poison = false → x.s.attnFirst x.cache.die x.cache.tile = false →
    1 ≤ (x.ival p).toInt → (x.ival p).toInt ≤ x.cache.budget → x.s.pickEntries x.cache (x.ival p).toInt.toNat = some es →
    let items := es.zipIdx.map fun q =>
      x.all fun o => .tok o (scalarTok (x.rc.encodeInt (evictWord q.1.1 q.1.2)) (if q.2 + 1 = es.length then resultMark [p] else .data) x.rcNo)
    x.fireAct (.evict f) { elem := (x.take x.ins [p]).elem, later := portItems x.s.ord.nextId items
                           eff := fun s => (s.allocate x.cache es).nextId (x.s.ord.nextId + 1) } = some t →
    exec (.evict f) s = .next t)
  ∧ (∀ (f : Fab) (s t : State) (x : FireIn) (p : Pos) (a : Act), firingOf (.evictReset f) s = some x →
    x.heads x.ins = some [p] → p.isEnd = false → p.poison = false → x.s.attnFirst x.cache.die x.cache.tile = false →
    x.answer (x.take x.ins [p]) (x.all fun o => .tok o (scalarTok 0 (resultMark [p]) x.rcNo))
      (fun s => s.setCache (s.eng.cache.filter fun e => !x.cache.has e)) = .act a →
    x.fireAct (.evictReset f) a = some t → exec (.evictReset f) s = .next t)

/-- 13 R267, R268, R270, R273, 07 R129: an access element under address modes 1 and 2, with ordinary positions on the inputs it
reads: its access, of the width of its format and at its address, enters its port's issue queue; a misaligned address raises
MISALIGN; a POISON operand issues nothing and a store's is logged. -/
def Obligations.MemoryElementsAtAnAddress : Prop :=
  ∀ row ∈ accRows, ∀ (f : Fab) (s : State) (x : FireIn) (ps : List Pos), firingOf (row.instr f) s = some x → x.elem.ended = false →
    x.am = 1 ∨ x.am = 2 → x.heads x.ins = some ps → ps.any Pos.isEnd = false →
    let vec := row.store && inputVec x.blk x.ref.idx 0
    let w := if vec then 64 else row.width (fmtBytes x.rc.fmt)
    let va := x.fixedVa (if x.am = 2 then ps[row.nd]? else none)
    let ds := ps.take row.nd
    (ps.any Pos.poison = false → va % w = 0 → ∀ (a : Act) (t : State),
      x.enter (x.take x.ins ps) x.port (x.accMark ps .data)
        [{ kind := row.kind, va := va, width := w, data := row.data ds, aux := row.aux x.md ds }] = .act a →
      x.fireAct (row.instr f) a = some t → exec (row.instr f) s = .next t)
    ∧ (ps.any Pos.poison = false → va % w ≠ 0 →
      exec (row.instr f) s = .next (s.takeTrap x.ref.run .misalign { x.info .misalign with va := va }))
    ∧ (ps.any Pos.poison = true → ∀ (a : Act) (t : State),
      x.answer (x.take x.ins ps) (x.all fun o => .tok o (poisonTok false (x.accMark ps .data) x.rcNo))
        (if row.nd ≠ 0 then x.logPoison va else id) = .act a →
      x.fireAct (row.instr f) a = some t → exec (row.instr f) s = .next t)

/-- 10 R188, R189, 13 R267, R268, R270: an access element under a generator takes the next address of the active binding and moves
it on; outside a transactional block the port tile may gather the element of a load or store; without inputs the element waits once the
binding has ended, with data it raises STRMOVR. -/
def Obligations.MemoryElementsUnderAGenerator : Prop :=
  ∀ row ∈ accRows, ∀ (f : Fab) (s : State) (x : FireIn) (ps : List Pos) (g : Gen) (b : Binding), firingOf (row.instr f) s = some x →
    x.elem.ended = false → x.am = 0 → x.heads x.ins = some ps → ps.any Pos.isEnd = false → ps.any Pos.poison = false →
    x.gen? = some g → g.active = some b →
    let vec := row.store && inputVec x.blk x.ref.idx 0
    let w := if vec then 64 else row.width (fmtBytes (x.load.chan b.chan).fmt)
    let al := if vec ∨ row.kind = .sete then 64 else 1
    let ds := ps.take row.nd
    let last := decide (b.count ≤ b.pos + 1) && x.ins.isEmpty
    (b.ended = false → b.next.1 % al = 0 → ∀ (a : Act) (t : State),
      x.enter { elem := if last then { x.elem.pops x.ins with ended := true } else x.elem.pops x.ins
                takes := x.ins.zip ps
                gen := some ⟨x.port, x.imm 13 12, some b, (g.advance b).2⟩
                eff := fun s => s.setGen x.ref.run x.port (x.imm 13 12) (g.advance b).1 } x.port (x.accMark ps b.next.2)
        [{ kind := row.kind, va := b.next.1, width := w, data := row.data ds, aux := row.aux x.md ds
           gather := !x.blk.tx && row.kind.gathers }] []
        (if last then [readyItem x.s.ord.nextId (x.all fun o => .tok o (eosTok false x.rcNo)) [] none] else []) = .act a →
      x.fireAct (row.instr f) a = some t → exec (row.instr f) s = .next t)
    ∧ (b.ended = true → row.nd = 0 → exec (row.instr f) s = .next s)
    ∧ (b.ended = true → row.nd ≠ 0 → exec (row.instr f) s = .next (s.takeTrap x.ref.run .strmovr (x.info .strmovr)))

/-- 10 R188, R189: addresses of a generator of one and of two loops, loop 0 innermost, modulo 2^57, with their markers; the binding
ends with the last of them, and the pending one becomes active. -/
def Obligations.GeneratorAddresses : Prop :=
  (∀ (b : Binding) (n : Nat) (d : Int), b.counts = [n] → b.strides = [d] → b.pos < n →
    b.next = ((((b.base : Int) + b.offset.toNat + b.pos * d) % 2 ^ 57).toNat, if b.pos + 1 = n then .last else .data))
  ∧ (∀ (b : Binding) (n m : Nat) (d e : Int), b.counts = [n, m] → b.strides = [d, e] → b.pos < n * m →
    b.next = ((((b.base : Int) + b.offset.toNat + (b.pos % n : Nat) * d + (b.pos / n : Nat) * e) % 2 ^ 57).toNat,
      if (b.pos + 1) % n = 0 then if b.pos + 1 = n * m then .last2 else .last else .data))
  ∧ (∀ (g : Gen) (b : Binding), b.pos + 1 < b.count → g.advance b = (⟨some { b with pos := b.pos + 1 }, g.pending⟩, false))
  ∧ (∀ (g : Gen) (b : Binding), b.count ≤ b.pos + 1 → g.pending = [] →
    g.advance b = (⟨some { b with pos := b.pos + 1, ended := true }, []⟩, false))
  ∧ (∀ (g : Gen) (b p : Binding) (l : List Binding), b.count ≤ b.pos + 1 → g.pending = p :: l → g.advance b = (⟨some p, l⟩, true))

/-- 13 R265, R268, 08 R149, 10 R188: ENTER. With room in the issue queue of its port each access of a firing joins it, queued, with its
address, width, data, marker and lane, and nothing that was there leaves; the firing's place in the return buffer waits for all of
them; without room in the 64 entries the element waits. An element that gathers joins the access at the tail instead where that is one
of its own kind on the same line: the access then spans both, holds the newcomer's bytes in its place, and replies to each. -/
def Obligations.EnterQueuesEveryAccess : Prop :=
  (∀ (x : FireIn) (k : Taken) (port : Nat) (m : Mark) (asks : List Ask) (emits : List Emit) (after : List OutItem),
    (∀ q ∈ asks, q.gather = false) →
    (x.s.queued x.ref.run port + asks.length ≤ 64 → ∃ a, x.enter k port m asks emits after = .act a ∧ a.elem = k.elem
      ∧ a.later.map (fun i => (i.ready, i.emits, i.parts, i.takes)) = (asks.isEmpty, emits, asks.length, k.takes)
          :: after.map (fun i => (i.ready, i.emits, i.parts, i.takes))
      ∧ (∀ s : State, (k.eff s).ord.accs = x.s.ord.accs →
          (a.eff s).ord.accs.length = x.s.ord.accs.length + asks.length
          ∧ (∀ y ∈ x.s.ord.accs, y ∈ (a.eff s).ord.accs)
          ∧ ∀ q ∈ asks, ∃ y ∈ (a.eff s).ord.accs, y.stage = .queued ∧ y.run = x.ref.run ∧ y.port = port ∧ y.elem = x.ref ∧ y.kind = q.kind
              ∧ y.va = q.va ∧ y.width = q.width ∧ y.data = q.data ∧ y.aux = q.aux ∧ y.lane = q.lane ∧ y.mark = m
              ∧ y.rid = x.s.ord.nextId ∧ y.fmt = x.rc.fmt))
    ∧ (64 < x.s.queued x.ref.run port + asks.length → x.enter k port m asks emits after = .wait))
  ∧ (∀ (x : FireIn) (k : Taken) (port : Nat) (m : Mark) (q : Ask) (emits : List Emit) (after : List OutItem) (a : Access),
    let b := x.access port x.s.ord.nextId (x.s.ord.nextId + 1) m q
    tailAcc b x.s.ord.accs = some a → a.joins b = true → x.s.queued x.ref.run port ≤ 64 →
    ∃ act, x.enter k port m [q] emits after = .act act ∧ act.elem = k.elem
      ∧ ∀ s : State, (k.eff s).ord.accs = x.s.ord.accs →
          (act.eff s).ord.accs = x.s.ord.accs.map fun y => if y.id = a.id then a.merge b else y)
  ∧ (∀ a b : Access, a.joins b = true → 0 < a.width → 0 < b.width →
    (a.merge b).va = min a.va b.va ∧ (a.merge b).va + (a.merge b).width = max (a.va + a.width) (b.va + b.width)
    ∧ (a.merge b).parts.length = a.parts.length + b.parts.length
    ∧ ∀ i, i < 8 * b.width → (a.merge b).data.getLsbD (8 * (b.va - min a.va b.va) + i) = b.data.getLsbD i)

/-- 13 R271, R272, R276 to R278, R282, R285, R290, 07 R139: the elements that ask a port or an engine for one thing: FENCE, WAITA,
WAKEA, SEND, POSTR, PROBEQ, CANCELR, UNSTASH and XFER; PIN and UNPIN, once for each token with the elided positions before it; the gather
LDX and the scatter STX with one access for each present lane. -/
def Obligations.PortRequests : Prop :=
  (∀ (row : (Fab → Instr) × (FireIn → List Pos → Nat × List Ask)), row ∈
      [((.fence : Fab → Instr), fun x _ => (x.port, [{ kind := .fence (x.imm 2 0), va := 0, width := 0 }])),
       (.unstash, fun x ps => (x.port, [{ kind := .unstash, va := x.relVa, width := 0, data := wordLine ps }])),
       (.send, fun x ps => (x.port, [{ kind := .send, va := x.fixedVa (if x.am = 2 then ps[0]? else none), width := 0, data := wordLine ps }])),
       (.postr, fun x ps => (x.port, [{ kind := .postr, va := x.fixedVa (if x.am = 2 then ps[0]? else none), width := 0, data := wordLine ps }])),
       (.probeq, fun x ps => (x.port, [{ kind := .probeq, va := x.fixedVa (if x.am = 2 then ps[0]? else none), width := 0, data := wordLine ps }])),
       (.cancelr, fun x ps => (x.port, [{ kind := .cancelr, va := 0, width := 0, data := wordLine ps }]))] →
    ∀ (f : Fab) (s t : State) (x : FireIn) (ps : List Pos) (a : Act), firingOf (row.1 f) s = some x → x.heads x.ins = some ps →
    ps.any Pos.isEnd = false → ps.any Pos.poison = false →
    x.enter (x.take x.ins ps) (row.2 x ps).1 (resultMark ps) (row.2 x ps).2 = .act a →
    x.fireAct (row.1 f) a = some t → exec (row.1 f) s = .next t)
  ∧ (∀ (row : (Fab → Instr) × (FireIn → Token → List Ask × List Emit)), row ∈
      [((.pin : Fab → Instr), fun x tk => ({ kind := .pin, va := x.relVa, width := 64 }
          :: (if x.imm 19 10 = 0x3FF then [] else [{ kind := .snapshot, va := (x.pool (x.imm 19 10)).toNat, width := 64 }]),
          if tk.skip = 0 then [] else x.outs.map fun o => .elide o tk.skip false x.rcNo)),
       (.unpin, fun x tk => ([{ kind := .unpin, va := x.relVa, width := 64, data := tk.word.setWidth 512 }],
          x.outs.flatMap fun o => (if tk.skip = 0 then [] else [.elide o tk.skip tk.vec tk.chan]) ++ [.tok o tk]))] →
    ∀ (f : Fab) (s t : State) (x : FireIn) (tk : Token) (rest : List Token) (a : Act), firingOf (row.1 f) s = some x →
    x.elem.queue 0 = tk :: rest → tk.mark.isEnd = false → tk.isPoison = false →
    x.enter { elem := x.elem.popToken 0, takes := List.replicate tk.skip (0, Pos.elided) ++ [(0, .tok tk)] } 0 tk.mark
      (row.2 x tk).1 (row.2 x tk).2 = .act a →
    x.fireAct (row.1 f) a = some t → exec (row.1 f) s = .next t)
  ∧ (∀ (f : Fab) (s t : State) (x : FireIn) (ps : List Pos) (a : Act), firingOf (.waita f) s = some x → x.heads x.ins = some ps →
    ps.any Pos.isEnd = false → ps.any Pos.poison = false →
    let va := x.fixedVa (if x.am = 2 then ps[1]? else none)
    va % 4 = 0 →
    x.enter (x.take x.ins ps) x.port (resultMark ps) [{ kind := .waita, va := va, width := 4, data := wordLine ps
                                                        epoch := x.s.epoch (x.s.homeOf x.run.slot va) (bucketOf va) }] = .act a →
    x.fireAct (.waita f) a = some t → exec (.waita f) s = .next t)
  ∧ (∀ (f : Fab) (s t : State) (x : FireIn) (ps : List Pos) (a : Act), firingOf (.wakea f) s = some x → x.heads x.ins = some ps →
    ps.any Pos.isEnd = false → ps.any Pos.poison = false →
    let va := x.fixedVa (if x.am = 2 then ps[0]? else none)
    va % 4 = 0 →
    x.enter (x.take x.ins ps) x.port (resultMark ps) [{ kind := .wakea, va := va, width := 4 }] = .act a →
    x.fireAct (.wakea f) a = some t → exec (.wakea f) s = .next t)
  ∧ (∀ (f : Fab) (s : State) (x : FireIn) (ps : List Pos), firingOf (.xfer f) s = some x → x.heads x.ins = some ps →
    ps.any Pos.isEnd = false → ps.any Pos.poison = false →
    (packetBad x.load (dataLine ps) = false → ∀ (a : Act) (t : State),
      x.enter (x.take x.ins ps) x.port (resultMark ps) [{ kind := .xfer, va := 0, width := 0, data := dataLine ps }] = .act a →
      x.fireAct (.xfer f) a = some t → exec (.xfer f) s = .next t)
    ∧ (packetBad x.load (dataLine ps) = true →
      exec (.xfer f) s = .next (s.takeTrap x.ref.run .xferpkt { x.info .xferpkt with packet := dataLine ps })))
  ∧ (∀ (row : (Fab → Instr) × Bool), row ∈ [((.ldx : Fab → Instr), false), (.stx, true)] →
    ∀ (f : Fab) (s t : State) (x : FireIn) (ps : List Pos) (a : Act), firingOf (row.1 f) s = some x → x.heads x.ins = some ps →
    ps.any Pos.isEnd = false → ps.any Pos.poison = false → ps.length = (if row.2 then 2 else 1) →
    let w := fmtBytes x.rc.fmt
    let offs := (ps[if row.2 then 1 else 0]?).getD .elided
    let va (o : W32) := ((x.pool (x.imm 9 0)).toNat + o.toNat) % 2 ^ 57
    (∀ l, l < 16 → ∀ o, offs.lanes.getD l none = some o → va o % w = 0) →
    let asks := (List.range 16).filterMap fun l => (offs.lanes.getD l none).map fun o =>
      { kind := if row.2 then .store else .load, va := va o, width := w, lane := some l
        data := if row.2 then ((((ps.headD .elided).lanes.getD l none)).getD 0).setWidth 512 else 0 : Ask }
    let mask := packMask ((List.range 16).map fun l => (offs.lanes.getD l none).isSome)
    x.enter (x.take x.ins ps) x.port (resultMark ps) asks
      (if row.2 then [.tok 0 (scalarTok 0 (resultMark ps) x.rcNo)]
        else [.tok 0 (vecTok 0 mask (resultMark ps) x.rcNo), .tok 1 (vecTok 0 mask (resultMark ps) x.rcNo)]) = .act a →
    x.fireAct (row.1 f) a = some t → exec (row.1 f) s = .next t)

/-- 13 R275, R289, R291, R292, 24 R382, R386: owner bindings and their statuses; the first position of a STASH sends its request and each
later one joins its record; INGRESS, STRMI, STRMO and EGRESS pass tokens with their
skip counts, in a transactional block one position a firing; a STRMO of PEER 1 ends at the EOS that no copy waits for. A stream port
that is bound to a circuit group sends its tokens over the group and gives credits back as it takes them (24 R386; the table: log 96). -/
def Obligations.OwnersStashesAndChannels : Prop :=
  (∀ (row : (Fab → Instr) × (FireIn → Nat × State)), row ∈
      [((.ownerRange : Fab → Instr), fun x => x.s.bindRange x.run x.relVa (fld (x.pool (x.imm 9 0 + 1)) 4 0)),
       (.ownerRel, fun x => x.s.bindRel x.run x.relVa), (.ownerFree, fun x => x.s.freeOwner x.run x.relVa)] →
    ∀ (f : Fab) (s t : State) (x : FireIn) (ps : List Pos) (a : Act), firingOf (row.1 f) s = some x → x.heads x.ins = some ps →
    ps.any Pos.isEnd = false → ps.any Pos.poison = false →
    x.answer (x.take x.ins ps) [.tok 0 (scalarTok (BitVec.ofNat 32 (row.2 x).1) (resultMark ps) x.rcNo)]
      (fun s => { s with ord := { s.ord with owners := (row.2 x).2.ord.owners, rels := (row.2 x).2.ord.rels }, mem := (row.2 x).2.mem })
      = .act a →
    x.fireAct (row.1 f) a = some t → exec (row.1 f) s = .next t)
  ∧ (∀ (s : State) (r : Run) (base n : Nat), s.bindings r.die < 64 →
    (∀ o ∈ s.ord.owners, o.rel = false → o.slot = r.slot → o.base + 2 ^ o.log2 ≤ base ∨ base + 2 ^ n ≤ o.base) →
    (s.bindRange r base n).1 = 0 ∧ (s.bindRange r base n).2.ord.owners = s.ord.owners ++ [⟨r.die, r.id, r.slot, false, base, n⟩])
  ∧ (∀ (s : State) (r : Run) (base n : Nat),
    (∃ o ∈ s.ord.owners, o.rel = false ∧ o.slot = r.slot ∧ base < o.base + 2 ^ o.log2 ∧ o.base < base + 2 ^ n) →
    s.bindRange r base n = (1, s))
  ∧ (∀ (f : Fab) (s t : State) (x : FireIn) (p : Pos) (a : Act), firingOf (.stash f) s = some x → x.elem.ctl = .stash none →
    x.avail 0 = some p → p.isEnd = false →
    x.enter { elem := x.elem, takes := [] } x.port p.struct [{ kind := .stash, va := x.relVa, width := 0 }] = .act a →
    x.fireAct (.stash f) { a with elem := { a.elem with ctl := .stash (some (x.s.ord.nextId + 1)) } } = some t →
    exec (.stash f) s = .next t)
  ∧ (∀ (f : Fab) (s t : State) (x : FireIn) (p : Pos) (n : Nat) (q : Req), firingOf (.stash f) s = some x →
    x.elem.ctl = .stash (some n) → x.avail 0 = some p → p.isEnd = false → x.s.req? n = some q → q.taken = true →
    recordUnits (q.held.length + 1) (if inputVec x.blk x.ref.idx 0 then 64 else 4) ≤ fld (x.pool (x.imm 9 0 + 1)) 24 0 →
    p.struct = .data →
    x.fireAct (.stash f) { elem := { x.elem.pop 0 with ctl := .stash (some n) }
                           eff := fun s => s.modReq n fun y => { y with held := y.held ++
                             [heldTok (inputVec x.blk x.ref.idx 0) (((x.elem.queue 0).head?.map (·.chan)).getD x.rcNo) p] } }
      = some t → exec (.stash f) s = .next t)
  ∧ (∀ (f : Fab) (s t : State) (x : FireIn) (tk : Token) (rest : List Token), firingOf (.ingress f) s = some x → x.elem.ended = false →
    let n := x.imm 3 0
    let chan := if n = 0 then tk.chan else x.rcNo
    (if n = 0 then x.run.inq else x.run.comps.getD n []) = tk :: rest →
    (x.blk.tx = false ∨ tk.skip = 0 →
      x.fireAct (.ingress f)
        { elem := { x.elem with ended := tk.mark == .eos }, emits := x.outs.flatMap fun k => passEmit k { tk with chan := chan }
          src := [(n, .tok tk)]
          eff := fun s => (if n = 0 then s.backCredit x.run.ingress else s).modRun x.ref.run fun r =>
            if n = 0 then { r with inq := rest } else { r with comps := setAt r.comps n rest } } = some t →
      exec (.ingress f) s = .next t)
    ∧ (x.blk.tx = true → tk.skip ≠ 0 →
      x.fireAct (.ingress f)
        { elem := { x.elem with ended := false }, emits := x.outs.flatMap fun k => [.elide k 1 tk.vec chan], src := [(n, .elided)]
          eff := fun s => s.modRun x.ref.run fun r =>
            if n = 0 then { r with inq := { tk with skip := tk.skip - 1 } :: rest }
            else { r with comps := setAt r.comps n ({ tk with skip := tk.skip - 1 } :: rest) } } = some t →
      exec (.ingress f) s = .next t))
  ∧ (∀ (f : Fab) (s t : State) (x : FireIn) (tk : Token) (rest : List SkidItem), firingOf (.strmi f) s = some x → x.elem.ended = false →
    x.strm.getLsbD 6 = false → skidPop (x.run.skidOf (fld x.strm 5 0)) = some (tk, rest) → x.blk.tx = false ∨ tk.skip = 0 →
    x.fireAct (.strmi f) { elem := { x.elem with ended := tk.mark == .eos }, emits := x.outs.flatMap fun k => passEmit k tk
                           src := [(16 + fld x.strm 5 0, .tok tk)]
                           eff := fun s => (s.creditBack x.ref.run (fld x.strm 5 0)).modRun x.ref.run fun r =>
                             r.setSkid (fld x.strm 5 0) rest } = some t →
    exec (.strmi f) s = .next t)
  ∧ (∀ (s : State) (run p : Nat) (t : Token), (s.circuitOf run p false = none → s.creditBack run p = s)
    ∧ (∀ c, s.circuitOf run p false = some c → s.creditBack run p = { s with chip := { s.chip with
        circuits := (s.creditBack run p).chip.circuits, circOut := s.chip.circOut ++ [(c.link, c.group, none)] } }
      ∧ (s.creditBack run p).chip.circuits = s.chip.circuits)
    ∧ (∀ c thr, p < 64 → s.circuitOf run p true = some c →
      let u := s.pushOut run (16 + p + 64 * thr) t
      u.runs = s.runs ∧ u.mem = s.mem ∧ u.chip.circOut = s.chip.circOut ++ [(c.link, c.group, some t)]
        ∧ u.chip.circuits = s.chip.circuits.map fun x => if x = c then { x with credits := x.credits - 1 } else x)
    ∧ (∀ thr, p < 64 → s.circuitOf run p true = none →
      s.pushOut run (16 + p + 64 * thr) t = s.modRun run fun r => r.setSkid p (skidPut thr (r.skidOf p) t)))
  ∧ (∀ (f : Fab) (s t : State) (x : FireIn) (tk : Token) (rest : List Token), firingOf (.strmo f) s = some x →
    x.strm.getLsbD 6 = false → x.elem.queue 0 = tk :: rest →
    let code := 16 + fld x.strm 5 0 + 64 * fld x.strm 38 23
    (match x.s.circuitOf x.ref.run (fld x.strm 5 0) true with
      | some c => x.s.circuitUp c = true ∧ x.s.heldOut x.ref.run code < c.credits
      | none => skidUsed (x.run.skidOf (fld x.strm 5 0)) + 64 * x.s.heldOut x.ref.run code + skidBytes tk ≤ 128 * fld x.strm 22 7) →
    x.fireAct (.strmo f) { elem := x.elem.popToken 0, eff := x.sendOut code tk } = some t → exec (.strmo f) s = .next t)
  ∧ (∀ (f : Fab) (s t : State) (x : FireIn) (p : Pos), firingOf (.strmo f) s = some x → x.strm.getLsbD 6 = true → x.head 0 = some p →
    p.mark = .eos → x.copying (fld x.strm 5 0) = false →
    x.fireAct (.strmo f) { elem := { x.elem.pop 0 with ended := true } } = some t → exec (.strmo f) s = .next t)
  ∧ (∀ (f : Fab) (s t : State) (x : FireIn) (tk : Token) (rest : List Token) (a : Act), firingOf (.egress f) s = some x →
    x.elem.queue 0 = tk :: rest → x.s.ringRoom x.run.slot x.run.ring = true →
    x.enter { elem := x.elem.popToken 0, takes := [] } 0 tk.mark
      [{ kind := .egress, va := 0, width := 0, data := tk.scalarBits.setWidth 512 }] = .act a →
    x.fireAct (.egress f) a = some t → exec (.egress f) s = .next t)

/-- 13 R293, R294, 03 R42: BARJ counts arrivals until its participants have arrived and then releases each with the phase number, the
last with LAST; a drop lowers the participants, below the arrivals it is BARNEG. The .grp forms arrive, or drop, at a group that the run is
a member of, by a flit where another module is its home, or raise BARGRP; BARDROP puts its drop on each position. BARRIER_RELEASE ends a
phase in which all members have arrived or dropped, in a cycle after that of the last arrival. -/
def Obligations.BarrierElements : Prop :=
  (∀ (f : Fab) (s t : State) (x : FireIn) (p : Pos) (n c phase : Nat), firingOf (.barj f) s = some x → x.elem.ended = false →
    x.elem.ctl = .barj n c phase 0 false → x.avail 0 = some p → p.isEnd = false → x.dropHead = none →
    (c + 1 < n → x.fireAct (.barj f) { elem := { x.elem.pop 0 with ctl := .barj n (c + 1) phase 0 false } } = some t →
      exec (.barj f) s = .next t)
    ∧ (c + 1 = n → x.fireAct (.barj f)
        { elem := { x.elem.pop 0 with ctl := .barj n 0 (if n = 1 then phase + 1 else phase) (n - 1) false }
          emits := x.all fun k => .tok k
            (scalarTok (x.rc.encodeInt (BitVec.ofNat 32 phase)) (if n = 1 then .last else .data) x.rcNo) } = some t →
      exec (.barj f) s = .next t))
  ∧ (∀ (f : Fab) (s t : State) (x : FireIn) (n phase l : Nat), firingOf (.barj f) s = some x → x.elem.ended = false →
    x.elem.ctl = .barj n 0 phase (l + 1) false → x.avail 0 = none → x.dropHead = none →
    x.fireAct (.barj f) { elem := { x.elem with ctl := .barj n 0 (if l = 0 then phase + 1 else phase) l false }
                          emits := x.all fun k => .tok k
                            (scalarTok (x.rc.encodeInt (BitVec.ofNat 32 phase)) (if l = 0 then .last else .data) x.rcNo) } = some t →
    exec (.barj f) s = .next t)
  ∧ (∀ (f : Fab) (s : State) (x : FireIn) (n c phase l : Nat) (v : Int) (b : Bool), firingOf (.barj f) s = some x →
    x.elem.ended = false → x.elem.ctl = .barj n c phase l false → x.dropHead = some (v, b) → (n : Int) - v < c →
    exec (.barj f) s = .next (s.takeTrap x.ref.run .barneg (x.info .barneg)))
  ∧ (∀ (f : Fab) (s : State) (x : FireIn) (p : Pos), firingOf (.barjGrp f) s = some x → x.heads [0] = some [p] → p.isEnd = false →
    let id := x.s.ord.nextId
    let item : OutItem := ⟨id, false, x.all fun k => .tok k (scalarTok 0 (resultMark [p]) x.rcNo), 1, [(0, p)], none, none⟩
    (x.run.groups.contains x.grp = true → x.s.farGroup (x.grp.setWidth 64) = false → ∀ t : State, x.fireAct (.barjGrp f)
        { elem := x.elem.pop 0
          later := [item]
          eff := fun s => (s.nextId (id + 1)).modGroup x.grp fun g =>
            { g with arrivals := g.arrivals ++ [(x.s.identity x.ref.run, .place x.ref id)], lastAt := s.cycle } } = some t →
      exec (.barjGrp f) s = .next t)
    ∧ (x.run.groups.contains x.grp = true → x.s.farGroup (x.grp.setWidth 64) = true → x.s.freeTag ≠ none → ∀ t : State,
      x.fireAct (.barjGrp f)
        { elem := x.elem.pop 0
          later := [item]
          eff := fun s => ((s.nextId (id + 1)).askGroup .arrive x.grp (groupPayload x.grp false false (x.s.identity x.ref.run) 0 0 0)
            (.place x.ref id)).getD (s.nextId (id + 1)) } = some t → exec (.barjGrp f) s = .next t)
    ∧ (x.run.groups.contains x.grp = false → exec (.barjGrp f) s = .next (s.takeTrap x.ref.run .bargrp (x.info .bargrp))))
  ∧ (∀ (f : Fab) (s t : State) (x : FireIn) (p : Pos), firingOf (.bardrop f) s = some x → x.heads [0] = some [p] → p.isEnd = false →
    let w := if p.poison then poisonTok false (resultMark [p]) x.rcNo
      else scalarTok (x.rc.encodeInt (BitVec.ofNat 32 (x.imm 11 0))) (resultMark [p]) x.rcNo
    x.fireAct (.bardrop f) { elem := x.elem.pop 0, emits := x.all fun k => .tok k w } = some t → exec (.bardrop f) s = .next t)
  ∧ (∀ (f : Fab) (s : State) (x : FireIn) (p : Pos), firingOf (.bardropGrp f) s = some x → x.heads [0] = some [p] → p.isEnd = false →
    (x.run.groups.contains x.grp = true → ∀ t : State, x.fireAct (.bardropGrp f)
        { elem := x.elem.pop 0
          eff := fun s => if s.farGroup (x.grp.setWidth 64) then s.tellGroup .drop x.grp x.ref.run
            else s.modGroup x.grp fun g => { g with drops := g.drops ++ [s.identity x.ref.run] } } = some t →
      exec (.bardropGrp f) s = .next t)
    ∧ (x.run.groups.contains x.grp = false → exec (.bardropGrp f) s = .next (s.takeTrap x.ref.run .bargrp (x.info .bargrp))))
  ∧ (∀ (name : BitVec 20) (s : State) (g : Group), s.group? name = some g → g.arrivals ≠ [] →
    g.members.length ≤ g.arrivals.length + g.drops.length → g.lastAt ≠ s.cycle →
    ∃ t, exec (.barrierRelease name) s = .next t ∧ t.group? name = some { g with arrivals := [], drops := [], phase := g.phase + 1 })

/-- 13 R296, R297, R298, 20 R328: TRAP consumes, takes USRTRAP and leaves its token for the resume, and its .nz form passes a zero;
BRK passes its token, once the region has frozen for it when debugging is enabled; RDTIME, RDCYC and RDSYS sample on each position
by their encoding; WRSYS writes from the next cycle; a register that the level does not reach is PRIV. -/
def Obligations.SystemElements : Prop :=
  (∀ (f : Fab) (s : State) (x : FireIn) (p : Pos), firingOf (.trap f) s = some x → x.heads [0] = some [p] → p.isEnd = false →
    (x.md ≠ 1 ∨ p.poison = true ∨ p.word ≠ 0 → ∀ t : State, x.fireAct (.trap f)
        { elem := x.elem.pop 0
          later := [⟨x.s.ord.nextId, true, x.all fun o => x.forward false p o, 0, [], none, none⟩]
          eff := fun s => (s.nextId (x.s.ord.nextId + 1)).takeTrapDone x.ref.run .usrtrap { x.info .usrtrap with aux := x.imm 15 0 } } = some t →
      exec (.trap f) s = .next t)
    ∧ (x.md = 1 → p.poison = false → p.word = 0 → ∀ t : State,
      x.fireAct (.trap f) { elem := x.elem.pop 0, emits := x.all fun o => x.forward false p o } = some t → exec (.trap f) s = .next t))
  ∧ (∀ (f : Fab) (s : State) (x : FireIn) (p : Pos), firingOf (.brk f) s = some x → x.avail 0 = some p →
    (x.run.regs.debug = false ∨ x.elem.ctl = .brk true → ∀ t : State, x.fireAct (.brk f)
        { elem := { x.elem.pop 0 with ended := p.mark == .eos, ctl := .brk false }, emits := x.all fun o => x.forward false p o } = some t →
      exec (.brk f) s = .next t)
    ∧ (x.run.regs.debug = true → x.elem.ctl ≠ .brk true → dropEmpty x.elem.out = [] →
      roomFor x.load x.ref.blk x.blk s.cycle x.ref.idx (.brk f) f true (x.outs.map fun k => (k, eosTok false 0)) = true →
      exec (.brk f) s = .next ((s.supervisorFault x.ref.run (x.info .brk)).modElem x.ref fun e => { e with ctl := .brk true })))
  ∧ (∀ (row : (Fab → Instr) × (FireIn → W64)), row ∈ [((.rdtime : Fab → Instr), fun x => BitVec.ofNat 64 x.s.time),
      (.rdcyc, fun x => BitVec.ofNat 64 x.run.cycles), (.rdsys, fun x => x.s.sysRead x.run (x.imm 11 0))] →
    ∀ (f : Fab) (s t : State) (x : FireIn) (p : Pos), firingOf (row.1 f) s = some x → x.heads [0] = some [p] → p.isEnd = false →
    p.poison = false → (row.1 f = .rdsys f → sysAcc (x.s.levelS x.run.slot) (x.imm 11 0) ≠ .none) →
    let tok (w : W32) (m : Mark) := x.all fun k => .tok k (scalarTok (x.rc.encodeInt w) m x.rcNo)
    let lo := (row.2 x).setWidth 32
    let hi := (row.2 x).extractLsb' 32 32
    (x.md = 0 → x.fireAct (row.1 f) { elem := x.elem.pop 0, emits := tok lo (resultMark [p]) } = some t → exec (row.1 f) s = .next t)
    ∧ (x.md = 1 → x.fireAct (row.1 f) { elem := x.elem.pop 0, emits := tok hi (resultMark [p]) } = some t → exec (row.1 f) s = .next t)
    ∧ (2 ≤ x.md → x.fireAct (row.1 f) { elem := x.elem.pop 0, emits := tok lo .data, later := laterItems [tok hi (resultMark [p])] } = some t →
      exec (row.1 f) s = .next t))
  ∧ (∀ (f : Fab) (s : State) (x : FireIn) (ps : List Pos), firingOf (.wrsys f) s = some x → x.heads x.ins = some ps →
    ps.any Pos.isEnd = false →
    let n := x.imm 11 0
    let acc := sysAcc (x.s.levelS x.run.slot) n
    (acc ≠ .none → (acc = .ro → x.s.levelS x.run.slot = true) → ps.any Pos.poison = false → ∀ t : State, x.fireAct (.wrsys f)
        { elem := x.elem.pops x.ins
          emits := x.all fun k => .tok k (scalarTok 0 (resultMark ps) x.rcNo)
          eff := fun s => { s with adm := { s.adm with regw := s.adm.regw ++
            [⟨x.ref.run, n, ((((ps[1]?).map Pos.word).getD 0) ++ (ps.headD .elided).word : BitVec 64), x.md != 0⟩] } } } = some t →
      exec (.wrsys f) s = .next t)
    ∧ (acc = .none ∨ (acc = .ro ∧ x.s.levelS x.run.slot = false) →
      exec (.wrsys f) s = .next (s.takeTrap x.ref.run .priv { x.info .priv with aux := n })))
  ∧ (∀ (f : Fab) (s : State) (x : FireIn) (p : Pos), firingOf (.rdsys f) s = some x → x.heads [0] = some [p] → p.isEnd = false →
    sysAcc (x.s.levelS x.run.slot) (x.imm 11 0) = .none →
    exec (.rdsys f) s = .next (s.takeTrap x.ref.run .priv { x.info .priv with aux := x.imm 11 0 }))

/-- 13 R299, 19 R331, R332, 21 R354: FREEZE, THAW, READOUT and RESTORE order their run, or answer NORUN and SELF at once; the arrival of
a FREEZE freezes a resident run, that of a THAW resumes a frozen one; GRANT mints the token of its class in this module. -/
def Obligations.PrivilegedElements : Prop :=
  (∀ (row : (Fab → Instr) × Nat), row ∈ [((.freeze : Fab → Instr), 0), (.thaw, 1), (.readout, 2), (.restore, 3)] →
    ∀ (f : Fab) (s : State) (x : FireIn) (ps : List Pos) (p : Pos), firingOf (row.1 f) s = some x → x.heads x.ins = some ps →
    ps.any Pos.isEnd = false → ps.any Pos.poison = false → ps.head? = some p → (row.2 = 0 → x.md = 0) →
    ∃ a : Act, (∀ t, x.fireAct (row.1 f) a = some t → exec (row.1 f) s = .next t) ∧ a.elem = x.elem.pops x.ins ∧ a.emits = []
      ∧ a.later.map (fun i => (i.ready, i.parts, i.takes)) = [(false, 1, x.ins.zip ps)]
      ∧ (∀ u : State, p.word.toNat = x.ref.run → a.eff u = (u.nextId (x.s.ord.nextId + 1)).answerPriv x.ref x.s.ord.nextId 3)
      ∧ (∀ u : State, p.word.toNat ≠ x.ref.run → u.run? p.word.toNat = none →
          a.eff u = (u.nextId (x.s.ord.nextId + 1)).answerPriv x.ref x.s.ord.nextId 1)
      ∧ (∀ (u : State) (r : Run), p.word.toNat ≠ x.ref.run → u.run? p.word.toNat = some r → row.2 ≤ 1 →
          a.eff u = (u.nextId (x.s.ord.nextId + 1)).addOrder p.word.toNat row.2 (some (x.ref, x.s.ord.nextId)))
      ∧ (∀ (u : State) (r : Run), p.word.toNat ≠ x.ref.run → u.run? p.word.toNat = some r → row.2 = 2 → r.inPlace = true →
          r.order? 2 = none → ∃ r', (a.eff u).run? p.word.toNat = some r' ∧ (r'.order? 2).isSome = true)
      ∧ (∀ (u : State) (r : Run), p.word.toNat ≠ x.ref.run → u.run? p.word.toNat = some r → row.2 = 3 → r.st = .frozen →
          r.hold = .readout → r.record = some (some x.run.slot, x.recordVa ps) → r.order? 3 = none →
          ∃ r', (a.eff u).run? p.word.toNat = some r' ∧ (r'.order? 3).isSome = true))
  ∧ (∀ (run : Nat) (s : State) (r : Run) (o : Nat × Option (ElemRef × Nat)), s.run? run = some r → r.order? 0 = some o →
    o.2 ≠ none → r.st = .resident →
    exec (.freezeArrival run) s = .next (((s.dropOrder run o).freeze run .supervisor).answerWho o.2 0))
  ∧ (∀ (run : Nat) (s : State) (r : Run) (o : Nat × Option (ElemRef × Nat)), s.run? run = some r → r.order? 1 = some o →
    r.inPlace = true → (s.dropOrder run o).unitHeld r = false → r.hold = .supervisor → r.groups = [] →
    exec (.thawArrival run) s = .next (((s.dropOrder run o).resume run).answerWho o.2 0))
  ∧ (∀ (f : Fab) (s t : State) (x : FireIn) (a b : Pos) (key : BitVec 256), firingOf (.grant f) s = some x →
    x.heads x.ins = some [a, b] → [a, b].any Pos.isEnd = false → [a, b].any Pos.poison = false →
    fld a.word 23 16 = x.s.chip.modnum.toNat → x.s.chip.grantKey = some key → 1 ≤ fld a.word 15 8 → fld a.word 15 8 ≤ 128 →
    let body := grantBody (fld a.word 2 0) (fld a.word 7 3) (fld b.word 19 0) ((x.s.grantEpoch + fld a.word 15 8) % 256)
    let tok := body + BitVec.ofNat 64 (grantMac key body x.s.chip.modnum.toNat x.s.chip.modnum.toNat)
    let m := resultMark [a, b]
    x.fireAct (.grant f)
      { elem := x.elem.pops x.ins
        later := [⟨x.s.ord.nextId, true, [.tok 0 (scalarTok (tok.setWidth 32) .data x.rcNo)], 0, x.ins.zip [a, b], none, none⟩,
          ⟨x.s.ord.nextId, true, [.tok 0 (scalarTok (tok.extractLsb' 32 32) m x.rcNo), .tok 1 (scalarTok 0 m x.rcNo)], 0, [], none, none⟩]
        eff := fun s => s.nextId (x.s.ord.nextId + 1) } = some t →
    exec (.grant f) s = .next t)
end

