-- ==== Sys2Proof/Laws/State.lean ====
section
/-! SUPPORT. What the plain updates of the state leave alone: one lemma for each field and update. -/

namespace Sys2Proof.Laws

open Sys2Proof.Machine

variable (s : State)

/-! ### setRun -/

@[simp] theorem setRun_agenda (r : Run) : (s.setRun r).agenda = s.agenda := rfl
@[simp] theorem setRun_focus (r : Run) : (s.setRun r).focus = s.focus := rfl
@[simp] theorem setRun_cycle (r : Run) : (s.setRun r).cycle = s.cycle := rfl
@[simp] theorem setRun_free (r : Run) : (s.setRun r).free = s.free := rfl
@[simp] theorem setRun_mem (r : Run) : (s.setRun r).mem = s.mem := rfl
@[simp] theorem setRun_ord (r : Run) : (s.setRun r).ord = s.ord := rfl
@[simp] theorem setRun_eng (r : Run) : (s.setRun r).eng = s.eng := rfl
@[simp] theorem setRun_adm (r : Run) : (s.setRun r).adm = s.adm := rfl
@[simp] theorem setRun_dies (r : Run) : (s.setRun r).dies = s.dies := rfl
@[simp] theorem setRun_chip (r : Run) : (s.setRun r).chip = s.chip := rfl

/-! ### modRun -/

@[simp] theorem modRun_agenda (k : Nat) (f : Run → Run) : (s.modRun k f).agenda = s.agenda := rfl
@[simp] theorem modRun_focus (k : Nat) (f : Run → Run) : (s.modRun k f).focus = s.focus := rfl
@[simp] theorem modRun_cycle (k : Nat) (f : Run → Run) : (s.modRun k f).cycle = s.cycle := rfl
@[simp] theorem modRun_free (k : Nat) (f : Run → Run) : (s.modRun k f).free = s.free := rfl
@[simp] theorem modRun_mem (k : Nat) (f : Run → Run) : (s.modRun k f).mem = s.mem := rfl
@[simp] theorem modRun_ord (k : Nat) (f : Run → Run) : (s.modRun k f).ord = s.ord := rfl
@[simp] theorem modRun_eng (k : Nat) (f : Run → Run) : (s.modRun k f).eng = s.eng := rfl
@[simp] theorem modRun_adm (k : Nat) (f : Run → Run) : (s.modRun k f).adm = s.adm := rfl
@[simp] theorem modRun_dies (k : Nat) (f : Run → Run) : (s.modRun k f).dies = s.dies := rfl
@[simp] theorem modRun_chip (k : Nat) (f : Run → Run) : (s.modRun k f).chip = s.chip := rfl

/-! ### modLoad -/

@[simp] theorem modLoad_agenda (k p l : Nat) (f : Loaded → Loaded) : (s.modLoad k p l f).agenda = s.agenda := rfl
@[simp] theorem modLoad_focus (k p l : Nat) (f : Loaded → Loaded) : (s.modLoad k p l f).focus = s.focus := rfl
@[simp] theorem modLoad_cycle (k p l : Nat) (f : Loaded → Loaded) : (s.modLoad k p l f).cycle = s.cycle := rfl
@[simp] theorem modLoad_free (k p l : Nat) (f : Loaded → Loaded) : (s.modLoad k p l f).free = s.free := rfl
@[simp] theorem modLoad_mem (k p l : Nat) (f : Loaded → Loaded) : (s.modLoad k p l f).mem = s.mem := rfl
@[simp] theorem modLoad_ord (k p l : Nat) (f : Loaded → Loaded) : (s.modLoad k p l f).ord = s.ord := rfl
@[simp] theorem modLoad_eng (k p l : Nat) (f : Loaded → Loaded) : (s.modLoad k p l f).eng = s.eng := rfl
@[simp] theorem modLoad_adm (k p l : Nat) (f : Loaded → Loaded) : (s.modLoad k p l f).adm = s.adm := rfl
@[simp] theorem modLoad_dies (k p l : Nat) (f : Loaded → Loaded) : (s.modLoad k p l f).dies = s.dies := rfl
@[simp] theorem modLoad_chip (k p l : Nat) (f : Loaded → Loaded) : (s.modLoad k p l f).chip = s.chip := rfl

/-! ### modBlk -/

@[simp] theorem modBlk_agenda (b : BlkRef) (f : Blk → Blk) : (s.modBlk b f).agenda = s.agenda := rfl
@[simp] theorem modBlk_focus (b : BlkRef) (f : Blk → Blk) : (s.modBlk b f).focus = s.focus := rfl
@[simp] theorem modBlk_cycle (b : BlkRef) (f : Blk → Blk) : (s.modBlk b f).cycle = s.cycle := rfl
@[simp] theorem modBlk_free (b : BlkRef) (f : Blk → Blk) : (s.modBlk b f).free = s.free := rfl
@[simp] theorem modBlk_mem (b : BlkRef) (f : Blk → Blk) : (s.modBlk b f).mem = s.mem := rfl
@[simp] theorem modBlk_ord (b : BlkRef) (f : Blk → Blk) : (s.modBlk b f).ord = s.ord := rfl
@[simp] theorem modBlk_eng (b : BlkRef) (f : Blk → Blk) : (s.modBlk b f).eng = s.eng := rfl
@[simp] theorem modBlk_adm (b : BlkRef) (f : Blk → Blk) : (s.modBlk b f).adm = s.adm := rfl
@[simp] theorem modBlk_dies (b : BlkRef) (f : Blk → Blk) : (s.modBlk b f).dies = s.dies := rfl
@[simp] theorem modBlk_chip (b : BlkRef) (f : Blk → Blk) : (s.modBlk b f).chip = s.chip := rfl

/-! ### modElem -/

@[simp] theorem modElem_agenda (e : ElemRef) (f : Elem → Elem) : (s.modElem e f).agenda = s.agenda := rfl
@[simp] theorem modElem_focus (e : ElemRef) (f : Elem → Elem) : (s.modElem e f).focus = s.focus := rfl
@[simp] theorem modElem_cycle (e : ElemRef) (f : Elem → Elem) : (s.modElem e f).cycle = s.cycle := rfl
@[simp] theorem modElem_free (e : ElemRef) (f : Elem → Elem) : (s.modElem e f).free = s.free := rfl
@[simp] theorem modElem_mem (e : ElemRef) (f : Elem → Elem) : (s.modElem e f).mem = s.mem := rfl
@[simp] theorem modElem_ord (e : ElemRef) (f : Elem → Elem) : (s.modElem e f).ord = s.ord := rfl
@[simp] theorem modElem_eng (e : ElemRef) (f : Elem → Elem) : (s.modElem e f).eng = s.eng := rfl
@[simp] theorem modElem_adm (e : ElemRef) (f : Elem → Elem) : (s.modElem e f).adm = s.adm := rfl
@[simp] theorem modElem_dies (e : ElemRef) (f : Elem → Elem) : (s.modElem e f).dies = s.dies := rfl
@[simp] theorem modElem_chip (e : ElemRef) (f : Elem → Elem) : (s.modElem e f).chip = s.chip := rfl

/-! ### onItem -/

@[simp] theorem onItem_agenda (e : ElemRef) (k : Nat) (f : OutItem → List OutItem) : (s.onItem e k f).agenda = s.agenda := rfl
@[simp] theorem onItem_focus (e : ElemRef) (k : Nat) (f : OutItem → List OutItem) : (s.onItem e k f).focus = s.focus := rfl
@[simp] theorem onItem_cycle (e : ElemRef) (k : Nat) (f : OutItem → List OutItem) : (s.onItem e k f).cycle = s.cycle := rfl
@[simp] theorem onItem_free (e : ElemRef) (k : Nat) (f : OutItem → List OutItem) : (s.onItem e k f).free = s.free := rfl
@[simp] theorem onItem_mem (e : ElemRef) (k : Nat) (f : OutItem → List OutItem) : (s.onItem e k f).mem = s.mem := rfl
@[simp] theorem onItem_ord (e : ElemRef) (k : Nat) (f : OutItem → List OutItem) : (s.onItem e k f).ord = s.ord := rfl
@[simp] theorem onItem_eng (e : ElemRef) (k : Nat) (f : OutItem → List OutItem) : (s.onItem e k f).eng = s.eng := rfl
@[simp] theorem onItem_adm (e : ElemRef) (k : Nat) (f : OutItem → List OutItem) : (s.onItem e k f).adm = s.adm := rfl
@[simp] theorem onItem_dies (e : ElemRef) (k : Nat) (f : OutItem → List OutItem) : (s.onItem e k f).dies = s.dies := rfl
@[simp] theorem onItem_chip (e : ElemRef) (k : Nat) (f : OutItem → List OutItem) : (s.onItem e k f).chip = s.chip := rfl

/-! ### raise -/

@[simp] theorem raise_agenda (k : Nat) (f : Flags) : (s.raise k f).agenda = s.agenda := rfl
@[simp] theorem raise_focus (k : Nat) (f : Flags) : (s.raise k f).focus = s.focus := rfl
@[simp] theorem raise_cycle (k : Nat) (f : Flags) : (s.raise k f).cycle = s.cycle := rfl
@[simp] theorem raise_free (k : Nat) (f : Flags) : (s.raise k f).free = s.free := rfl
@[simp] theorem raise_mem (k : Nat) (f : Flags) : (s.raise k f).mem = s.mem := rfl
@[simp] theorem raise_ord (k : Nat) (f : Flags) : (s.raise k f).ord = s.ord := rfl
@[simp] theorem raise_eng (k : Nat) (f : Flags) : (s.raise k f).eng = s.eng := rfl
@[simp] theorem raise_adm (k : Nat) (f : Flags) : (s.raise k f).adm = s.adm := rfl
@[simp] theorem raise_dies (k : Nat) (f : Flags) : (s.raise k f).dies = s.dies := rfl
@[simp] theorem raise_chip (k : Nat) (f : Flags) : (s.raise k f).chip = s.chip := rfl

/-! ### setWait -/

@[simp] theorem setWait_agenda (k : Nat) (w : Wait) : (s.setWait k w).agenda = s.agenda := rfl
@[simp] theorem setWait_focus (k : Nat) (w : Wait) : (s.setWait k w).focus = s.focus := rfl
@[simp] theorem setWait_cycle (k : Nat) (w : Wait) : (s.setWait k w).cycle = s.cycle := rfl
@[simp] theorem setWait_free (k : Nat) (w : Wait) : (s.setWait k w).free = s.free := rfl
@[simp] theorem setWait_mem (k : Nat) (w : Wait) : (s.setWait k w).mem = s.mem := rfl
@[simp] theorem setWait_ord (k : Nat) (w : Wait) : (s.setWait k w).ord = s.ord := rfl
@[simp] theorem setWait_eng (k : Nat) (w : Wait) : (s.setWait k w).eng = s.eng := rfl
@[simp] theorem setWait_adm (k : Nat) (w : Wait) : (s.setWait k w).adm = s.adm := rfl
@[simp] theorem setWait_dies (k : Nat) (w : Wait) : (s.setWait k w).dies = s.dies := rfl
@[simp] theorem setWait_chip (k : Nat) (w : Wait) : (s.setWait k w).chip = s.chip := rfl

/-! ### addOrder -/

@[simp] theorem addOrder_agenda (k c : Nat) (o : Option (ElemRef × Nat)) : (s.addOrder k c o).agenda = s.agenda := rfl
@[simp] theorem addOrder_focus (k c : Nat) (o : Option (ElemRef × Nat)) : (s.addOrder k c o).focus = s.focus := rfl
@[simp] theorem addOrder_cycle (k c : Nat) (o : Option (ElemRef × Nat)) : (s.addOrder k c o).cycle = s.cycle := rfl
@[simp] theorem addOrder_free (k c : Nat) (o : Option (ElemRef × Nat)) : (s.addOrder k c o).free = s.free := rfl
@[simp] theorem addOrder_mem (k c : Nat) (o : Option (ElemRef × Nat)) : (s.addOrder k c o).mem = s.mem := rfl
@[simp] theorem addOrder_ord (k c : Nat) (o : Option (ElemRef × Nat)) : (s.addOrder k c o).ord = s.ord := rfl
@[simp] theorem addOrder_eng (k c : Nat) (o : Option (ElemRef × Nat)) : (s.addOrder k c o).eng = s.eng := rfl
@[simp] theorem addOrder_adm (k c : Nat) (o : Option (ElemRef × Nat)) : (s.addOrder k c o).adm = s.adm := rfl
@[simp] theorem addOrder_dies (k c : Nat) (o : Option (ElemRef × Nat)) : (s.addOrder k c o).dies = s.dies := rfl
@[simp] theorem addOrder_chip (k c : Nat) (o : Option (ElemRef × Nat)) : (s.addOrder k c o).chip = s.chip := rfl

/-! ### dropOrder -/

@[simp] theorem dropOrder_agenda (k : Nat) (o : Nat × Option (ElemRef × Nat)) : (s.dropOrder k o).agenda = s.agenda := rfl
@[simp] theorem dropOrder_focus (k : Nat) (o : Nat × Option (ElemRef × Nat)) : (s.dropOrder k o).focus = s.focus := rfl
@[simp] theorem dropOrder_cycle (k : Nat) (o : Nat × Option (ElemRef × Nat)) : (s.dropOrder k o).cycle = s.cycle := rfl
@[simp] theorem dropOrder_free (k : Nat) (o : Nat × Option (ElemRef × Nat)) : (s.dropOrder k o).free = s.free := rfl
@[simp] theorem dropOrder_mem (k : Nat) (o : Nat × Option (ElemRef × Nat)) : (s.dropOrder k o).mem = s.mem := rfl
@[simp] theorem dropOrder_ord (k : Nat) (o : Nat × Option (ElemRef × Nat)) : (s.dropOrder k o).ord = s.ord := rfl
@[simp] theorem dropOrder_eng (k : Nat) (o : Nat × Option (ElemRef × Nat)) : (s.dropOrder k o).eng = s.eng := rfl
@[simp] theorem dropOrder_adm (k : Nat) (o : Nat × Option (ElemRef × Nat)) : (s.dropOrder k o).adm = s.adm := rfl
@[simp] theorem dropOrder_dies (k : Nat) (o : Nat × Option (ElemRef × Nat)) : (s.dropOrder k o).dies = s.dies := rfl
@[simp] theorem dropOrder_chip (k : Nat) (o : Nat × Option (ElemRef × Nat)) : (s.dropOrder k o).chip = s.chip := rfl

/-! ### countApplied -/

@[simp] theorem countApplied_agenda (k : Nat) : (s.countApplied k).agenda = s.agenda := rfl
@[simp] theorem countApplied_focus (k : Nat) : (s.countApplied k).focus = s.focus := rfl
@[simp] theorem countApplied_cycle (k : Nat) : (s.countApplied k).cycle = s.cycle := rfl
@[simp] theorem countApplied_free (k : Nat) : (s.countApplied k).free = s.free := rfl
@[simp] theorem countApplied_mem (k : Nat) : (s.countApplied k).mem = s.mem := rfl
@[simp] theorem countApplied_ord (k : Nat) : (s.countApplied k).ord = s.ord := rfl
@[simp] theorem countApplied_eng (k : Nat) : (s.countApplied k).eng = s.eng := rfl
@[simp] theorem countApplied_adm (k : Nat) : (s.countApplied k).adm = s.adm := rfl
@[simp] theorem countApplied_dies (k : Nat) : (s.countApplied k).dies = s.dies := rfl
@[simp] theorem countApplied_chip (k : Nat) : (s.countApplied k).chip = s.chip := rfl

/-! ### setAccs -/

@[simp] theorem setAccs_agenda (l : List Access) : (s.setAccs l).agenda = s.agenda := rfl
@[simp] theorem setAccs_focus (l : List Access) : (s.setAccs l).focus = s.focus := rfl
@[simp] theorem setAccs_cycle (l : List Access) : (s.setAccs l).cycle = s.cycle := rfl
@[simp] theorem setAccs_free (l : List Access) : (s.setAccs l).free = s.free := rfl
@[simp] theorem setAccs_mem (l : List Access) : (s.setAccs l).mem = s.mem := rfl
@[simp] theorem setAccs_runs (l : List Access) : (s.setAccs l).runs = s.runs := rfl
@[simp] theorem setAccs_eng (l : List Access) : (s.setAccs l).eng = s.eng := rfl
@[simp] theorem setAccs_adm (l : List Access) : (s.setAccs l).adm = s.adm := rfl
@[simp] theorem setAccs_dies (l : List Access) : (s.setAccs l).dies = s.dies := rfl
@[simp] theorem setAccs_chip (l : List Access) : (s.setAccs l).chip = s.chip := rfl

/-! ### modAcc -/

@[simp] theorem modAcc_agenda (k : Nat) (f : Access → Access) : (s.modAcc k f).agenda = s.agenda := rfl
@[simp] theorem modAcc_focus (k : Nat) (f : Access → Access) : (s.modAcc k f).focus = s.focus := rfl
@[simp] theorem modAcc_cycle (k : Nat) (f : Access → Access) : (s.modAcc k f).cycle = s.cycle := rfl
@[simp] theorem modAcc_free (k : Nat) (f : Access → Access) : (s.modAcc k f).free = s.free := rfl
@[simp] theorem modAcc_mem (k : Nat) (f : Access → Access) : (s.modAcc k f).mem = s.mem := rfl
@[simp] theorem modAcc_runs (k : Nat) (f : Access → Access) : (s.modAcc k f).runs = s.runs := rfl
@[simp] theorem modAcc_eng (k : Nat) (f : Access → Access) : (s.modAcc k f).eng = s.eng := rfl
@[simp] theorem modAcc_adm (k : Nat) (f : Access → Access) : (s.modAcc k f).adm = s.adm := rfl
@[simp] theorem modAcc_dies (k : Nat) (f : Access → Access) : (s.modAcc k f).dies = s.dies := rfl
@[simp] theorem modAcc_chip (k : Nat) (f : Access → Access) : (s.modAcc k f).chip = s.chip := rfl

/-! ### dropAcc -/

@[simp] theorem dropAcc_agenda (k : Nat) : (s.dropAcc k).agenda = s.agenda := rfl
@[simp] theorem dropAcc_focus (k : Nat) : (s.dropAcc k).focus = s.focus := rfl
@[simp] theorem dropAcc_cycle (k : Nat) : (s.dropAcc k).cycle = s.cycle := rfl
@[simp] theorem dropAcc_free (k : Nat) : (s.dropAcc k).free = s.free := rfl
@[simp] theorem dropAcc_mem (k : Nat) : (s.dropAcc k).mem = s.mem := rfl
@[simp] theorem dropAcc_runs (k : Nat) : (s.dropAcc k).runs = s.runs := rfl
@[simp] theorem dropAcc_eng (k : Nat) : (s.dropAcc k).eng = s.eng := rfl
@[simp] theorem dropAcc_adm (k : Nat) : (s.dropAcc k).adm = s.adm := rfl
@[simp] theorem dropAcc_dies (k : Nat) : (s.dropAcc k).dies = s.dies := rfl
@[simp] theorem dropAcc_chip (k : Nat) : (s.dropAcc k).chip = s.chip := rfl

/-! ### modReq -/

@[simp] theorem modReq_agenda (k : Nat) (f : Req → Req) : (s.modReq k f).agenda = s.agenda := rfl
@[simp] theorem modReq_focus (k : Nat) (f : Req → Req) : (s.modReq k f).focus = s.focus := rfl
@[simp] theorem modReq_cycle (k : Nat) (f : Req → Req) : (s.modReq k f).cycle = s.cycle := rfl
@[simp] theorem modReq_free (k : Nat) (f : Req → Req) : (s.modReq k f).free = s.free := rfl
@[simp] theorem modReq_mem (k : Nat) (f : Req → Req) : (s.modReq k f).mem = s.mem := rfl
@[simp] theorem modReq_runs (k : Nat) (f : Req → Req) : (s.modReq k f).runs = s.runs := rfl
@[simp] theorem modReq_eng (k : Nat) (f : Req → Req) : (s.modReq k f).eng = s.eng := rfl
@[simp] theorem modReq_adm (k : Nat) (f : Req → Req) : (s.modReq k f).adm = s.adm := rfl
@[simp] theorem modReq_dies (k : Nat) (f : Req → Req) : (s.modReq k f).dies = s.dies := rfl
@[simp] theorem modReq_chip (k : Nat) (f : Req → Req) : (s.modReq k f).chip = s.chip := rfl

/-! ### dropReq -/

@[simp] theorem dropReq_agenda (k : Nat) : (s.dropReq k).agenda = s.agenda := rfl
@[simp] theorem dropReq_focus (k : Nat) : (s.dropReq k).focus = s.focus := rfl
@[simp] theorem dropReq_cycle (k : Nat) : (s.dropReq k).cycle = s.cycle := rfl
@[simp] theorem dropReq_free (k : Nat) : (s.dropReq k).free = s.free := rfl
@[simp] theorem dropReq_mem (k : Nat) : (s.dropReq k).mem = s.mem := rfl
@[simp] theorem dropReq_runs (k : Nat) : (s.dropReq k).runs = s.runs := rfl
@[simp] theorem dropReq_adm (k : Nat) : (s.dropReq k).adm = s.adm := rfl
@[simp] theorem dropReq_dies (k : Nat) : (s.dropReq k).dies = s.dies := rfl
@[simp] theorem dropReq_chip (k : Nat) : (s.dropReq k).chip = s.chip := rfl

/-! ### modWave -/

@[simp] theorem modWave_agenda (b : BlkRef) (k : Nat) (f : Wave → Wave) : (s.modWave b k f).agenda = s.agenda := rfl
@[simp] theorem modWave_focus (b : BlkRef) (k : Nat) (f : Wave → Wave) : (s.modWave b k f).focus = s.focus := rfl
@[simp] theorem modWave_cycle (b : BlkRef) (k : Nat) (f : Wave → Wave) : (s.modWave b k f).cycle = s.cycle := rfl
@[simp] theorem modWave_free (b : BlkRef) (k : Nat) (f : Wave → Wave) : (s.modWave b k f).free = s.free := rfl
@[simp] theorem modWave_mem (b : BlkRef) (k : Nat) (f : Wave → Wave) : (s.modWave b k f).mem = s.mem := rfl
@[simp] theorem modWave_runs (b : BlkRef) (k : Nat) (f : Wave → Wave) : (s.modWave b k f).runs = s.runs := rfl
@[simp] theorem modWave_eng (b : BlkRef) (k : Nat) (f : Wave → Wave) : (s.modWave b k f).eng = s.eng := rfl
@[simp] theorem modWave_adm (b : BlkRef) (k : Nat) (f : Wave → Wave) : (s.modWave b k f).adm = s.adm := rfl
@[simp] theorem modWave_dies (b : BlkRef) (k : Nat) (f : Wave → Wave) : (s.modWave b k f).dies = s.dies := rfl
@[simp] theorem modWave_chip (b : BlkRef) (k : Nat) (f : Wave → Wave) : (s.modWave b k f).chip = s.chip := rfl

/-! ### modGroup -/

@[simp] theorem modGroup_agenda (g : BitVec 20) (f : Group → Group) : (s.modGroup g f).agenda = s.agenda := by unfold State.modGroup; split <;> rfl
@[simp] theorem modGroup_focus (g : BitVec 20) (f : Group → Group) : (s.modGroup g f).focus = s.focus := by unfold State.modGroup; split <;> rfl
@[simp] theorem modGroup_cycle (g : BitVec 20) (f : Group → Group) : (s.modGroup g f).cycle = s.cycle := by unfold State.modGroup; split <;> rfl
@[simp] theorem modGroup_free (g : BitVec 20) (f : Group → Group) : (s.modGroup g f).free = s.free := by unfold State.modGroup; split <;> rfl
@[simp] theorem modGroup_mem (g : BitVec 20) (f : Group → Group) : (s.modGroup g f).mem = s.mem := by unfold State.modGroup; split <;> rfl
@[simp] theorem modGroup_runs (g : BitVec 20) (f : Group → Group) : (s.modGroup g f).runs = s.runs := by unfold State.modGroup; split <;> rfl
@[simp] theorem modGroup_ord (g : BitVec 20) (f : Group → Group) : (s.modGroup g f).ord = s.ord := by unfold State.modGroup; split <;> rfl
@[simp] theorem modGroup_eng (g : BitVec 20) (f : Group → Group) : (s.modGroup g f).eng = s.eng := by unfold State.modGroup; split <;> rfl
@[simp] theorem modGroup_dies (g : BitVec 20) (f : Group → Group) : (s.modGroup g f).dies = s.dies := by unfold State.modGroup; split <;> rfl
@[simp] theorem modGroup_chip (g : BitVec 20) (f : Group → Group) : (s.modGroup g f).chip = s.chip := by unfold State.modGroup; split <;> rfl

/-! ### modBuf -/

@[simp] theorem modBuf_agenda (b : WoRef) (f : WoBuf → WoBuf) : (s.modBuf b f).agenda = s.agenda := rfl
@[simp] theorem modBuf_focus (b : WoRef) (f : WoBuf → WoBuf) : (s.modBuf b f).focus = s.focus := rfl
@[simp] theorem modBuf_cycle (b : WoRef) (f : WoBuf → WoBuf) : (s.modBuf b f).cycle = s.cycle := rfl
@[simp] theorem modBuf_free (b : WoRef) (f : WoBuf → WoBuf) : (s.modBuf b f).free = s.free := rfl
@[simp] theorem modBuf_mem (b : WoRef) (f : WoBuf → WoBuf) : (s.modBuf b f).mem = s.mem := rfl
@[simp] theorem modBuf_ord (b : WoRef) (f : WoBuf → WoBuf) : (s.modBuf b f).ord = s.ord := rfl
@[simp] theorem modBuf_eng (b : WoRef) (f : WoBuf → WoBuf) : (s.modBuf b f).eng = s.eng := rfl
@[simp] theorem modBuf_adm (b : WoRef) (f : WoBuf → WoBuf) : (s.modBuf b f).adm = s.adm := rfl
@[simp] theorem modBuf_dies (b : WoRef) (f : WoBuf → WoBuf) : (s.modBuf b f).dies = s.dies := rfl
@[simp] theorem modBuf_chip (b : WoRef) (f : WoBuf → WoBuf) : (s.modBuf b f).chip = s.chip := rfl

/-! ### soon -/

@[simp] theorem soon_focus (l : List Turn) : (s.soon l).focus = s.focus := rfl
@[simp] theorem soon_cycle (l : List Turn) : (s.soon l).cycle = s.cycle := rfl
@[simp] theorem soon_free (l : List Turn) : (s.soon l).free = s.free := rfl
@[simp] theorem soon_mem (l : List Turn) : (s.soon l).mem = s.mem := rfl
@[simp] theorem soon_runs (l : List Turn) : (s.soon l).runs = s.runs := rfl
@[simp] theorem soon_ord (l : List Turn) : (s.soon l).ord = s.ord := rfl
@[simp] theorem soon_eng (l : List Turn) : (s.soon l).eng = s.eng := rfl
@[simp] theorem soon_adm (l : List Turn) : (s.soon l).adm = s.adm := rfl
@[simp] theorem soon_dies (l : List Turn) : (s.soon l).dies = s.dies := rfl
@[simp] theorem soon_chip (l : List Turn) : (s.soon l).chip = s.chip := rfl

/-! ### holdCredits -/

@[simp] theorem holdCredits_agenda (p : Option (Nat × Nat)) (k : Nat) : (s.holdCredits p k).agenda = s.agenda := rfl
@[simp] theorem holdCredits_focus (p : Option (Nat × Nat)) (k : Nat) : (s.holdCredits p k).focus = s.focus := rfl
@[simp] theorem holdCredits_cycle (p : Option (Nat × Nat)) (k : Nat) : (s.holdCredits p k).cycle = s.cycle := rfl
@[simp] theorem holdCredits_free (p : Option (Nat × Nat)) (k : Nat) : (s.holdCredits p k).free = s.free := rfl
@[simp] theorem holdCredits_mem (p : Option (Nat × Nat)) (k : Nat) : (s.holdCredits p k).mem = s.mem := rfl
@[simp] theorem holdCredits_runs (p : Option (Nat × Nat)) (k : Nat) : (s.holdCredits p k).runs = s.runs := rfl
@[simp] theorem holdCredits_ord (p : Option (Nat × Nat)) (k : Nat) : (s.holdCredits p k).ord = s.ord := rfl
@[simp] theorem holdCredits_eng (p : Option (Nat × Nat)) (k : Nat) : (s.holdCredits p k).eng = s.eng := rfl
@[simp] theorem holdCredits_dies (p : Option (Nat × Nat)) (k : Nat) : (s.holdCredits p k).dies = s.dies := rfl
@[simp] theorem holdCredits_chip (p : Option (Nat × Nat)) (k : Nat) : (s.holdCredits p k).chip = s.chip := rfl

/-! ### setDreqs -/

@[simp] theorem setDreqs_agenda (d : Nat) (l : List DReq) : (s.setDreqs d l).agenda = s.agenda := rfl
@[simp] theorem setDreqs_focus (d : Nat) (l : List DReq) : (s.setDreqs d l).focus = s.focus := rfl
@[simp] theorem setDreqs_cycle (d : Nat) (l : List DReq) : (s.setDreqs d l).cycle = s.cycle := rfl
@[simp] theorem setDreqs_free (d : Nat) (l : List DReq) : (s.setDreqs d l).free = s.free := rfl
@[simp] theorem setDreqs_mem (d : Nat) (l : List DReq) : (s.setDreqs d l).mem = s.mem := rfl
@[simp] theorem setDreqs_runs (d : Nat) (l : List DReq) : (s.setDreqs d l).runs = s.runs := rfl
@[simp] theorem setDreqs_ord (d : Nat) (l : List DReq) : (s.setDreqs d l).ord = s.ord := rfl
@[simp] theorem setDreqs_adm (d : Nat) (l : List DReq) : (s.setDreqs d l).adm = s.adm := rfl
@[simp] theorem setDreqs_dies (d : Nat) (l : List DReq) : (s.setDreqs d l).dies = s.dies := rfl
@[simp] theorem setDreqs_chip (d : Nat) (l : List DReq) : (s.setDreqs d l).chip = s.chip := rfl

/-! ### forget -/

@[simp] theorem forget_agenda  : (s.forget ).agenda = s.agenda := rfl
@[simp] theorem forget_focus  : (s.forget ).focus = s.focus := rfl
@[simp] theorem forget_cycle  : (s.forget ).cycle = s.cycle := rfl
@[simp] theorem forget_free  : (s.forget ).free = s.free := rfl
@[simp] theorem forget_runs  : (s.forget ).runs = s.runs := rfl
@[simp] theorem forget_ord  : (s.forget ).ord = s.ord := rfl
@[simp] theorem forget_adm  : (s.forget ).adm = { s.adm with torn := [] } := rfl
@[simp] theorem forget_dies  : (s.forget ).dies = s.dies := rfl
@[simp] theorem forget_chip  : (s.forget ).chip = s.chip := rfl

/-! ### modRec -/

@[simp] theorem modRec_agenda (k : Nat) (f : BoomRec → BoomRec) : (s.modRec k f).agenda = s.agenda := rfl
@[simp] theorem modRec_focus (k : Nat) (f : BoomRec → BoomRec) : (s.modRec k f).focus = s.focus := rfl
@[simp] theorem modRec_cycle (k : Nat) (f : BoomRec → BoomRec) : (s.modRec k f).cycle = s.cycle := rfl
@[simp] theorem modRec_free (k : Nat) (f : BoomRec → BoomRec) : (s.modRec k f).free = s.free := rfl
@[simp] theorem modRec_mem (k : Nat) (f : BoomRec → BoomRec) : (s.modRec k f).mem = s.mem := rfl
@[simp] theorem modRec_runs (k : Nat) (f : BoomRec → BoomRec) : (s.modRec k f).runs = s.runs := rfl
@[simp] theorem modRec_eng (k : Nat) (f : BoomRec → BoomRec) : (s.modRec k f).eng = s.eng := rfl
@[simp] theorem modRec_adm (k : Nat) (f : BoomRec → BoomRec) : (s.modRec k f).adm = s.adm := rfl
@[simp] theorem modRec_dies (k : Nat) (f : BoomRec → BoomRec) : (s.modRec k f).dies = s.dies := rfl
@[simp] theorem modRec_chip (k : Nat) (f : BoomRec → BoomRec) : (s.modRec k f).chip = s.chip := rfl

/-! ### popOwn -/

@[simp] theorem popOwn_agenda (m : OwnMsg) : (s.popOwn m).agenda = s.agenda := rfl
@[simp] theorem popOwn_focus (m : OwnMsg) : (s.popOwn m).focus = s.focus := rfl
@[simp] theorem popOwn_cycle (m : OwnMsg) : (s.popOwn m).cycle = s.cycle := rfl
@[simp] theorem popOwn_free (m : OwnMsg) : (s.popOwn m).free = s.free := rfl
@[simp] theorem popOwn_mem (m : OwnMsg) : (s.popOwn m).mem = s.mem := rfl
@[simp] theorem popOwn_runs (m : OwnMsg) : (s.popOwn m).runs = s.runs := rfl
@[simp] theorem popOwn_eng (m : OwnMsg) : (s.popOwn m).eng = s.eng := rfl
@[simp] theorem popOwn_adm (m : OwnMsg) : (s.popOwn m).adm = s.adm := rfl
@[simp] theorem popOwn_dies (m : OwnMsg) : (s.popOwn m).dies = s.dies := rfl
@[simp] theorem popOwn_chip (m : OwnMsg) : (s.popOwn m).chip = s.chip := rfl

/-! ### nextId -/

@[simp] theorem nextId_agenda (k : Nat) : (s.nextId k).agenda = s.agenda := rfl
@[simp] theorem nextId_focus (k : Nat) : (s.nextId k).focus = s.focus := rfl
@[simp] theorem nextId_cycle (k : Nat) : (s.nextId k).cycle = s.cycle := rfl
@[simp] theorem nextId_free (k : Nat) : (s.nextId k).free = s.free := rfl
@[simp] theorem nextId_mem (k : Nat) : (s.nextId k).mem = s.mem := rfl
@[simp] theorem nextId_runs (k : Nat) : (s.nextId k).runs = s.runs := rfl
@[simp] theorem nextId_eng (k : Nat) : (s.nextId k).eng = s.eng := rfl
@[simp] theorem nextId_adm (k : Nat) : (s.nextId k).adm = s.adm := rfl
@[simp] theorem nextId_dies (k : Nat) : (s.nextId k).dies = s.dies := rfl
@[simp] theorem nextId_chip (k : Nat) : (s.nextId k).chip = s.chip := rfl

/-! ### modDie -/

@[simp] theorem modDie_agenda (k : Nat) (f : Die → Die) : (s.modDie k f).agenda = s.agenda := rfl
@[simp] theorem modDie_focus (k : Nat) (f : Die → Die) : (s.modDie k f).focus = s.focus := rfl
@[simp] theorem modDie_cycle (k : Nat) (f : Die → Die) : (s.modDie k f).cycle = s.cycle := rfl
@[simp] theorem modDie_free (k : Nat) (f : Die → Die) : (s.modDie k f).free = s.free := rfl
@[simp] theorem modDie_mem (k : Nat) (f : Die → Die) : (s.modDie k f).mem = s.mem := rfl
@[simp] theorem modDie_runs (k : Nat) (f : Die → Die) : (s.modDie k f).runs = s.runs := rfl
@[simp] theorem modDie_ord (k : Nat) (f : Die → Die) : (s.modDie k f).ord = s.ord := rfl
@[simp] theorem modDie_eng (k : Nat) (f : Die → Die) : (s.modDie k f).eng = s.eng := rfl
@[simp] theorem modDie_adm (k : Nat) (f : Die → Die) : (s.modDie k f).adm = s.adm := rfl
@[simp] theorem modDie_chip (k : Nat) (f : Die → Die) : (s.modDie k f).chip = s.chip := rfl

/-! ### setRing -/

@[simp] theorem setRing_agenda (a b : Nat) (v : BitVec 128) : (s.setRing a b v).agenda = s.agenda := rfl
@[simp] theorem setRing_focus (a b : Nat) (v : BitVec 128) : (s.setRing a b v).focus = s.focus := rfl
@[simp] theorem setRing_cycle (a b : Nat) (v : BitVec 128) : (s.setRing a b v).cycle = s.cycle := rfl
@[simp] theorem setRing_free (a b : Nat) (v : BitVec 128) : (s.setRing a b v).free = s.free := rfl
@[simp] theorem setRing_mem (a b : Nat) (v : BitVec 128) : (s.setRing a b v).mem = s.mem := rfl
@[simp] theorem setRing_runs (a b : Nat) (v : BitVec 128) : (s.setRing a b v).runs = s.runs := rfl
@[simp] theorem setRing_ord (a b : Nat) (v : BitVec 128) : (s.setRing a b v).ord = s.ord := rfl
@[simp] theorem setRing_eng (a b : Nat) (v : BitVec 128) : (s.setRing a b v).eng = s.eng := rfl
@[simp] theorem setRing_dies (a b : Nat) (v : BitVec 128) : (s.setRing a b v).dies = s.dies := rfl
@[simp] theorem setRing_chip (a b : Nat) (v : BitVec 128) : (s.setRing a b v).chip = s.chip := rfl

/-! ### setPort -/

@[simp] theorem setPort_agenda (p : HPort) : (s.setPort p).agenda = s.agenda := rfl
@[simp] theorem setPort_focus (p : HPort) : (s.setPort p).focus = s.focus := rfl
@[simp] theorem setPort_cycle (p : HPort) : (s.setPort p).cycle = s.cycle := rfl
@[simp] theorem setPort_free (p : HPort) : (s.setPort p).free = s.free := rfl
@[simp] theorem setPort_mem (p : HPort) : (s.setPort p).mem = s.mem := rfl
@[simp] theorem setPort_runs (p : HPort) : (s.setPort p).runs = s.runs := rfl
@[simp] theorem setPort_ord (p : HPort) : (s.setPort p).ord = s.ord := rfl
@[simp] theorem setPort_eng (p : HPort) : (s.setPort p).eng = s.eng := rfl
@[simp] theorem setPort_dies (p : HPort) : (s.setPort p).dies = s.dies := rfl
@[simp] theorem setPort_chip (p : HPort) : (s.setPort p).chip = s.chip := rfl

/-! ### toHost -/

@[simp] theorem toHost_agenda (k : Nat) (bs : List Byte) : (s.toHost k bs).agenda = s.agenda := rfl
@[simp] theorem toHost_focus (k : Nat) (bs : List Byte) : (s.toHost k bs).focus = s.focus := rfl
@[simp] theorem toHost_cycle (k : Nat) (bs : List Byte) : (s.toHost k bs).cycle = s.cycle := rfl
@[simp] theorem toHost_free (k : Nat) (bs : List Byte) : (s.toHost k bs).free = s.free := rfl
@[simp] theorem toHost_mem (k : Nat) (bs : List Byte) : (s.toHost k bs).mem = s.mem := rfl
@[simp] theorem toHost_runs (k : Nat) (bs : List Byte) : (s.toHost k bs).runs = s.runs := rfl
@[simp] theorem toHost_ord (k : Nat) (bs : List Byte) : (s.toHost k bs).ord = s.ord := rfl
@[simp] theorem toHost_eng (k : Nat) (bs : List Byte) : (s.toHost k bs).eng = s.eng := rfl
@[simp] theorem toHost_adm (k : Nat) (bs : List Byte) : (s.toHost k bs).adm = s.adm := rfl
@[simp] theorem toHost_dies (k : Nat) (bs : List Byte) : (s.toHost k bs).dies = s.dies := rfl

/-! ### sendFlit -/

@[simp] theorem sendFlit_agenda (k : Byte) (f : Flit) : (s.sendFlit k f).agenda = s.agenda := rfl
@[simp] theorem sendFlit_focus (k : Byte) (f : Flit) : (s.sendFlit k f).focus = s.focus := rfl
@[simp] theorem sendFlit_cycle (k : Byte) (f : Flit) : (s.sendFlit k f).cycle = s.cycle := rfl
@[simp] theorem sendFlit_free (k : Byte) (f : Flit) : (s.sendFlit k f).free = s.free := rfl
@[simp] theorem sendFlit_mem (k : Byte) (f : Flit) : (s.sendFlit k f).mem = s.mem := rfl
@[simp] theorem sendFlit_runs (k : Byte) (f : Flit) : (s.sendFlit k f).runs = s.runs := rfl
@[simp] theorem sendFlit_ord (k : Byte) (f : Flit) : (s.sendFlit k f).ord = s.ord := rfl
@[simp] theorem sendFlit_eng (k : Byte) (f : Flit) : (s.sendFlit k f).eng = s.eng := rfl
@[simp] theorem sendFlit_adm (k : Byte) (f : Flit) : (s.sendFlit k f).adm = s.adm := rfl
@[simp] theorem sendFlit_dies (k : Byte) (f : Flit) : (s.sendFlit k f).dies = s.dies := rfl

/-! ### mapLinks -/

@[simp] theorem mapLinks_agenda (f : Link → Link) : (s.mapLinks f).agenda = s.agenda := rfl
@[simp] theorem mapLinks_focus (f : Link → Link) : (s.mapLinks f).focus = s.focus := rfl
@[simp] theorem mapLinks_cycle (f : Link → Link) : (s.mapLinks f).cycle = s.cycle := rfl
@[simp] theorem mapLinks_free (f : Link → Link) : (s.mapLinks f).free = s.free := rfl
@[simp] theorem mapLinks_mem (f : Link → Link) : (s.mapLinks f).mem = s.mem := rfl
@[simp] theorem mapLinks_runs (f : Link → Link) : (s.mapLinks f).runs = s.runs := rfl
@[simp] theorem mapLinks_ord (f : Link → Link) : (s.mapLinks f).ord = s.ord := rfl
@[simp] theorem mapLinks_eng (f : Link → Link) : (s.mapLinks f).eng = s.eng := rfl
@[simp] theorem mapLinks_adm (f : Link → Link) : (s.mapLinks f).adm = s.adm := rfl
@[simp] theorem mapLinks_dies (f : Link → Link) : (s.mapLinks f).dies = s.dies := rfl

/-! ### modLink -/

@[simp] theorem modLink_agenda (k : Nat) (f : Link → Link) : (s.modLink k f).agenda = s.agenda := rfl
@[simp] theorem modLink_focus (k : Nat) (f : Link → Link) : (s.modLink k f).focus = s.focus := rfl
@[simp] theorem modLink_cycle (k : Nat) (f : Link → Link) : (s.modLink k f).cycle = s.cycle := rfl
@[simp] theorem modLink_free (k : Nat) (f : Link → Link) : (s.modLink k f).free = s.free := rfl
@[simp] theorem modLink_mem (k : Nat) (f : Link → Link) : (s.modLink k f).mem = s.mem := rfl
@[simp] theorem modLink_runs (k : Nat) (f : Link → Link) : (s.modLink k f).runs = s.runs := rfl
@[simp] theorem modLink_ord (k : Nat) (f : Link → Link) : (s.modLink k f).ord = s.ord := rfl
@[simp] theorem modLink_eng (k : Nat) (f : Link → Link) : (s.modLink k f).eng = s.eng := rfl
@[simp] theorem modLink_adm (k : Nat) (f : Link → Link) : (s.modLink k f).adm = s.adm := rfl
@[simp] theorem modLink_dies (k : Nat) (f : Link → Link) : (s.modLink k f).dies = s.dies := rfl

/-! ### spdmSet -/

@[simp] theorem spdmSet_agenda (f : Spdm → Spdm) : (s.spdmSet f).agenda = s.agenda := rfl
@[simp] theorem spdmSet_focus (f : Spdm → Spdm) : (s.spdmSet f).focus = s.focus := rfl
@[simp] theorem spdmSet_cycle (f : Spdm → Spdm) : (s.spdmSet f).cycle = s.cycle := rfl
@[simp] theorem spdmSet_free (f : Spdm → Spdm) : (s.spdmSet f).free = s.free := rfl
@[simp] theorem spdmSet_mem (f : Spdm → Spdm) : (s.spdmSet f).mem = s.mem := rfl
@[simp] theorem spdmSet_runs (f : Spdm → Spdm) : (s.spdmSet f).runs = s.runs := rfl
@[simp] theorem spdmSet_ord (f : Spdm → Spdm) : (s.spdmSet f).ord = s.ord := rfl
@[simp] theorem spdmSet_eng (f : Spdm → Spdm) : (s.spdmSet f).eng = s.eng := rfl
@[simp] theorem spdmSet_adm (f : Spdm → Spdm) : (s.spdmSet f).adm = s.adm := rfl
@[simp] theorem spdmSet_dies (f : Spdm → Spdm) : (s.spdmSet f).dies = s.dies := rfl

/-! ### bankWrite -/

@[simp] theorem bankWrite_agenda (r : Run) (p t a : Nat) (bs : List Byte) : (s.bankWrite r p t a bs).agenda = s.agenda := rfl
@[simp] theorem bankWrite_focus (r : Run) (p t a : Nat) (bs : List Byte) : (s.bankWrite r p t a bs).focus = s.focus := rfl
@[simp] theorem bankWrite_cycle (r : Run) (p t a : Nat) (bs : List Byte) : (s.bankWrite r p t a bs).cycle = s.cycle := rfl
@[simp] theorem bankWrite_free (r : Run) (p t a : Nat) (bs : List Byte) : (s.bankWrite r p t a bs).free = s.free := rfl
@[simp] theorem bankWrite_runs (r : Run) (p t a : Nat) (bs : List Byte) : (s.bankWrite r p t a bs).runs = s.runs := rfl
@[simp] theorem bankWrite_ord (r : Run) (p t a : Nat) (bs : List Byte) : (s.bankWrite r p t a bs).ord = s.ord := rfl
@[simp] theorem bankWrite_eng (r : Run) (p t a : Nat) (bs : List Byte) : (s.bankWrite r p t a bs).eng = s.eng := rfl
@[simp] theorem bankWrite_adm (r : Run) (p t a : Nat) (bs : List Byte) : (s.bankWrite r p t a bs).adm = s.adm := rfl
@[simp] theorem bankWrite_dies (r : Run) (p t a : Nat) (bs : List Byte) : (s.bankWrite r p t a bs).dies = s.dies := rfl
@[simp] theorem bankWrite_chip (r : Run) (p t a : Nat) (bs : List Byte) : (s.bankWrite r p t a bs).chip = s.chip := rfl

/-! ### clearPage -/

@[simp] theorem clearPage_agenda (d p : Nat) : (s.clearPage d p).agenda = s.agenda := rfl
@[simp] theorem clearPage_focus (d p : Nat) : (s.clearPage d p).focus = s.focus := rfl
@[simp] theorem clearPage_cycle (d p : Nat) : (s.clearPage d p).cycle = s.cycle := rfl
@[simp] theorem clearPage_free (d p : Nat) : (s.clearPage d p).free = s.free := rfl
@[simp] theorem clearPage_runs (d p : Nat) : (s.clearPage d p).runs = s.runs := rfl
@[simp] theorem clearPage_ord (d p : Nat) : (s.clearPage d p).ord = s.ord := rfl
@[simp] theorem clearPage_eng (d p : Nat) : (s.clearPage d p).eng = s.eng := rfl
@[simp] theorem clearPage_adm (d p : Nat) : (s.clearPage d p).adm = s.adm := rfl
@[simp] theorem clearPage_dies (d p : Nat) : (s.clearPage d p).dies = s.dies := rfl
@[simp] theorem clearPage_chip (d p : Nat) : (s.clearPage d p).chip = s.chip := rfl

/-! ### finish -/

@[simp] theorem finish_agenda (a : Access) (f : OutItem → List OutItem) : (s.finish a f).agenda = s.agenda := rfl
@[simp] theorem finish_focus (a : Access) (f : OutItem → List OutItem) : (s.finish a f).focus = s.focus := rfl
@[simp] theorem finish_cycle (a : Access) (f : OutItem → List OutItem) : (s.finish a f).cycle = s.cycle := rfl
@[simp] theorem finish_free (a : Access) (f : OutItem → List OutItem) : (s.finish a f).free = s.free := rfl
@[simp] theorem finish_mem (a : Access) (f : OutItem → List OutItem) : (s.finish a f).mem = s.mem := rfl
@[simp] theorem finish_eng (a : Access) (f : OutItem → List OutItem) : (s.finish a f).eng = s.eng := rfl
@[simp] theorem finish_adm (a : Access) (f : OutItem → List OutItem) : (s.finish a f).adm = s.adm := rfl
@[simp] theorem finish_dies (a : Access) (f : OutItem → List OutItem) : (s.finish a f).dies = s.dies := rfl
@[simp] theorem finish_chip (a : Access) (f : OutItem → List OutItem) : (s.finish a f).chip = s.chip := rfl

/-! ### postEntry -/

@[simp] theorem postEntry_agenda (a b : Nat) (w : W64) (k : Nat) : (s.postEntry a b w k).agenda = s.agenda := by simp only [State.postEntry, setRing_agenda]
@[simp] theorem postEntry_focus (a b : Nat) (w : W64) (k : Nat) : (s.postEntry a b w k).focus = s.focus := by simp only [State.postEntry, setRing_focus]
@[simp] theorem postEntry_cycle (a b : Nat) (w : W64) (k : Nat) : (s.postEntry a b w k).cycle = s.cycle := by simp only [State.postEntry, setRing_cycle]
@[simp] theorem postEntry_free (a b : Nat) (w : W64) (k : Nat) : (s.postEntry a b w k).free = s.free := by simp only [State.postEntry, setRing_free]
@[simp] theorem postEntry_runs (a b : Nat) (w : W64) (k : Nat) : (s.postEntry a b w k).runs = s.runs := by simp only [State.postEntry, setRing_runs]
@[simp] theorem postEntry_ord (a b : Nat) (w : W64) (k : Nat) : (s.postEntry a b w k).ord = s.ord := by simp only [State.postEntry, setRing_ord]
@[simp] theorem postEntry_eng (a b : Nat) (w : W64) (k : Nat) : (s.postEntry a b w k).eng = s.eng := by simp only [State.postEntry, setRing_eng]
@[simp] theorem postEntry_dies (a b : Nat) (w : W64) (k : Nat) : (s.postEntry a b w k).dies = s.dies := by simp only [State.postEntry, setRing_dies]
@[simp] theorem postEntry_chip (a b : Nat) (w : W64) (k : Nat) : (s.postEntry a b w k).chip = s.chip := by simp only [State.postEntry, setRing_chip]

/-! ### What the updates write -/

theorem setRun_runs (r : Run) : (s.setRun r).runs = s.runs.map fun x => if x.id = r.id ∧ x.st ≠ .retired then r else x := rfl
theorem modRun_runs (k : Nat) (f : Run → Run) : (s.modRun k f).runs = s.runs.map fun x => if x.id = k ∧ x.st ≠ .retired then f x else x := rfl
@[simp] theorem setAccs_ord (l : List Access) : (s.setAccs l).ord = { s.ord with accs := l } := rfl
@[simp] theorem modDie_dies (k : Nat) (f : Die → Die) : (s.modDie k f).dies = modAt f s.dies k := rfl
@[simp] theorem sendFlit_flits (k : Byte) (f : Flit) : (s.sendFlit k f).chip.flits = s.chip.flits ++ [(k, f)] := rfl
@[simp] theorem toHost_hostOut (k : Nat) (bs : List Byte) : (s.toHost k bs).chip.hostOut = s.chip.hostOut ++ [BitVec.ofNat 8 k :: bs] := rfl
@[simp] theorem modLink_links (k : Nat) (f : Link → Link) : (s.modLink k f).chip.links = modAt f s.chip.links k := rfl
@[simp] theorem nextId_nextId (k : Nat) : (s.nextId k).ord.nextId = k := rfl

/-! ### Places of lists -/

theorem modAt_length {α : Type} (f : α → α) (l : List α) (k : Nat) : (modAt f l k).length = l.length := by
  induction l generalizing k with
  | nil => rfl
  | cons x xs ih => cases k with
    | zero => rfl
    | succ k => simp [modAt, ih]

theorem modAt_get {α : Type} (f : α → α) (l : List α) (k j : Nat) : (modAt f l k)[j]? = if j = k then (l[j]?).map f else l[j]? := by
  induction l generalizing k j with
  | nil => simp [modAt]
  | cons x xs ih => cases k with
    | zero => cases j <;> simp [modAt]
    | succ k => cases j <;> simp [modAt, ih]

theorem setAt_length {α : Type} (l : List α) (k : Nat) (v : α) : (setAt l k v).length = l.length := by
  induction l generalizing k with
  | nil => rfl
  | cons x xs ih => cases k with
    | zero => rfl
    | succ k => simp [setAt, ih]

theorem setAt_get {α : Type} (l : List α) (k j : Nat) (v : α) : (setAt l k v)[j]? = if j = k then (l[j]?).map fun _ => v else l[j]? := by
  induction l generalizing k j with
  | nil => simp [setAt]
  | cons x xs ih => cases k with
    | zero => cases j <;> simp [setAt]
    | succ k => cases j <;> simp [setAt, ih]

/-! ### Runs -/

/-- The run found has the identifier asked for and has not retired. -/
theorem run?_spec {k : Nat} {r : Run} (h : s.run? k = some r) : r.id = k ∧ r.st ≠ .retired ∧ r ∈ s.runs := by
  have h1 := List.find?_some h
  have h2 := List.mem_of_find?_eq_some h
  simp only [Bool.and_eq_true, beq_iff_eq, bne_iff_ne] at h1
  exact ⟨h1.1, h1.2, h2⟩

/-- A changed run that keeps its identifier and has not retired is found as changed. -/
theorem run?_modRun {k : Nat} {r : Run} {f : Run → Run} (h : s.run? k = some r) (hid : ∀ x : Run, x.id = k → (f x).id = k)
    (hst : ∀ x : Run, x.st ≠ .retired → (f x).st ≠ .retired) : (s.modRun k f).run? k = some (f r) := by
  unfold State.run? at h ⊢
  rw [modRun_runs]
  generalize s.runs = l at h ⊢
  induction l with
  | nil => simp at h
  | cons x xs ih =>
    simp only [List.map_cons, List.find?_cons] at h ⊢
    by_cases hx : x.id = k ∧ x.st ≠ .retired
    · have : (x.id == k && x.st != .retired) = true := by simp [hx.1, hx.2]
      rw [this] at h
      obtain rfl : x = r := by simpa using h
      have h2 : ((f x).id == k && (f x).st != .retired) = true := by
        simp only [Bool.and_eq_true, beq_iff_eq, bne_iff_ne]
        exact ⟨hid x hx.1, hst x hx.2⟩
      rw [if_pos hx, h2]
    · have hb : (x.id == k && x.st != .retired) = false := by
        by_cases h1 : x.id = k
        · have : ¬ x.st ≠ .retired := fun h2 => hx ⟨h1, h2⟩
          simp [h1] at this ⊢
          exact this
        · simp [h1]
      rw [hb] at h
      simp only [if_neg hx, hb]
      exact ih h

/-- Other identifiers keep their runs. -/
theorem run?_modRun_ne {k j : Nat} {f : Run → Run} (hne : j ≠ k) (hid : ∀ x : Run, x.id = k → (f x).id = k) :
    (s.modRun k f).run? j = s.run? j := by
  unfold State.run?
  rw [modRun_runs]
  generalize s.runs = l
  induction l with
  | nil => rfl
  | cons x xs ih =>
    simp only [List.map_cons, List.find?_cons]
    by_cases hx : x.id = k ∧ x.st ≠ .retired
    · have h1 : x.id ≠ j := fun h => hne (h.symm.trans hx.1)
      have h2 : (f x).id ≠ j := fun h => hne (h.symm.trans (hid x hx.1))
      have e1 : (x.id == j && x.st != .retired) = false := by simp [h1]
      have e2 : ((f x).id == j && (f x).st != .retired) = false := by simp [h2]
      simp only [if_pos hx, e1, e2]
      exact ih
    · simp only [if_neg hx]
      split
      · rfl
      · exact ih

end Sys2Proof.Laws
end

