-- ==== Sys2Proof/Laws/Memory.lean ====
section
/-! SUPPORT. Cells in canonical form: what a write leaves, and that every memory operation keeps the form (log 2). -/

namespace Sys2Proof.Laws

open Sys2Proof.Machine

/-! ## Cells -/

theorem wfFrom_cons {lo a : Nat} {b : Byte} {m : List Host.Cell} :
    Memory.wfFrom lo ((a, b) :: m) = true ↔ lo ≤ a ∧ b ≠ Config.blankByte ∧ Memory.wfFrom (a + 1) m = true := by
  simp [Memory.wfFrom, and_assoc]

theorem wfFrom_mono {lo hi : Nat} (h : lo ≤ hi) : ∀ {m : List Host.Cell}, Memory.wfFrom hi m = true → Memory.wfFrom lo m = true
  | [], _ => rfl
  | (a, b) :: m, hm => by
    rw [wfFrom_cons] at hm ⊢
    exact ⟨Nat.le_trans h hm.1, hm.2⟩

theorem cellSet_wfFrom {lo x : Nat} (v : Byte) (hx : lo ≤ x) : ∀ {m : List Host.Cell}, Memory.wfFrom lo m = true →
    Memory.wfFrom lo (cellSet m x v) = true
  | [], _ => by
    unfold cellSet
    split
    · rfl
    · rw [wfFrom_cons]; exact ⟨hx, ‹_›, rfl⟩
  | (a, b) :: m, hm => by
    have hm' := hm
    rw [wfFrom_cons] at hm
    unfold cellSet
    split
    · split
      · exact hm'
      · rw [wfFrom_cons]
        exact ⟨hx, ‹_›, by rw [wfFrom_cons]; exact ⟨by omega, hm.2⟩⟩
    · split
      · split
        · exact wfFrom_mono (by omega) hm.2.2
        · subst_vars
          rw [wfFrom_cons]; exact ⟨hx, ‹_›, hm.2.2⟩
      · rw [wfFrom_cons]
        exact ⟨hm.1, hm.2.1, cellSet_wfFrom v (by omega) hm.2.2⟩

theorem cellSet_wf {m : List Host.Cell} (x : Nat) (v : Byte) (h : Memory.wf m = true) : Memory.wf (cellSet m x v) = true :=
  cellSet_wfFrom v (Nat.zero_le x) h

theorem cellWrite_wf : ∀ (bs : List Byte) {m : List Host.Cell} (a : Nat), Memory.wf m = true → Memory.wf (cellWrite m a bs) = true
  | [], _, _, h => h
  | b :: bs, _, a, h => cellWrite_wf bs (a + 1) (cellSet_wf a b h)

theorem filter_wfFrom (p : Host.Cell → Bool) : ∀ {lo : Nat} {m : List Host.Cell}, Memory.wfFrom lo m = true →
    Memory.wfFrom lo (m.filter p) = true
  | _, [], _ => rfl
  | lo, (a, b) :: m, h => by
    rw [wfFrom_cons] at h
    rw [List.filter_cons]
    split
    · rw [wfFrom_cons]; exact ⟨h.1, h.2.1, filter_wfFrom p h.2.2⟩
    · exact wfFrom_mono (by omega) (filter_wfFrom p h.2.2)

theorem filter_wf {m : List Host.Cell} (p : Host.Cell → Bool) (h : Memory.wf m = true) : Memory.wf (m.filter p) = true := filter_wfFrom p h

/-- Below the bound of a canonical list every address is blank. -/
theorem cellGet_below {lo x : Nat} (hx : x < lo) : ∀ {m : List Host.Cell}, Memory.wfFrom lo m = true → cellGet m x = Config.blankByte
  | [], _ => rfl
  | (a, b) :: m, h => by
    rw [wfFrom_cons] at h
    unfold cellGet
    rw [if_neg (by omega), if_pos (by omega)]

/-- What a byte written leaves: itself at its address, every other byte as it was. -/
theorem cellGet_cellSet {lo : Nat} (x y : Nat) (v : Byte) : ∀ {m : List Host.Cell}, Memory.wfFrom lo m = true →
    cellGet (cellSet m x v) y = if y = x then v else cellGet m y
  | [], _ => by
    unfold cellSet
    split
    · simp [cellGet, ‹v = _›]
    · simp only [cellGet]
      split
      · rfl
      · split <;> rfl
  | (a, b) :: m, h => by
    rw [wfFrom_cons] at h
    unfold cellSet
    split
    · rename_i hxa
      split
      · rename_i hv
        by_cases hy : y = x
        · subst hy
          rw [if_pos rfl, cellGet, if_neg (by omega), if_pos hxa, hv]
        · rw [if_neg hy]
      · rw [cellGet]
        by_cases hy : y = x
        · rw [if_pos hy, if_pos hy]
        · rw [if_neg hy, if_neg hy]
          split
          · rw [cellGet, if_neg (by omega), if_pos (by omega)]
          · rfl
    · split
      · rename_i hxa
        subst hxa
        split
        · rename_i hv
          by_cases hy : y = x
          · subst hy
            rw [if_pos rfl, cellGet_below (Nat.lt_succ_self _) h.2.2, hv]
          · rw [if_neg hy, cellGet, if_neg hy]
            split
            · exact cellGet_below (by omega) h.2.2
            · rfl
        · rw [cellGet, cellGet]
          by_cases hy : y = x
          · rw [if_pos hy, if_pos hy]
          · rw [if_neg hy, if_neg hy, if_neg hy]
      · rename_i h1 h2
        rw [cellGet, cellGet]
        by_cases hya : y = a
        · rw [if_pos hya, if_pos hya, if_neg (by omega)]
        · rw [if_neg hya, if_neg hya]
          split
          · rw [if_neg (by omega)]
          · exact cellGet_cellSet x y v h.2.2

/-! ## Operations -/

theorem mems_wf {m : Mems} : m.wf = true
    ↔ Memory.wf m.hbm = true ∧ Memory.wf m.host = true ∧ Memory.wf m.store = true ∧ Memory.wf m.codes = true := by
  simp [Mems.wf, and_assoc]

theorem safe_iff {s : State} : s.Safe
    ↔ Memory.wf s.mem.hbm = true ∧ Memory.wf s.mem.host = true ∧ Memory.wf s.mem.store = true ∧ Memory.wf s.mem.codes = true := mems_wf

/-- A state with the same memory cells is as safe. -/
theorem safe_of_mem {s t : State} (hs : s.Safe) (h : t.mem = s.mem) : t.Safe := by
  unfold State.Safe at hs ⊢; rw [h]; exact hs

theorem reset_safe : State.reset.mem.wf = true := rfl

theorem hbmWrite_safe {s : State} (a : Nat) (bs : List Byte) (h : s.Safe) : (s.hbmWrite a bs).1.Safe := by
  unfold State.hbmWrite
  dsimp only
  split
  · exact h
  · rw [safe_iff] at h ⊢
    exact ⟨cellWrite_wf bs a h.1, h.2.1, h.2.2.1, cellSet_wf _ _ h.2.2.2⟩

theorem host_safe {s : State} (a : Nat) (bs : List Byte) (h : s.Safe) :
    State.Safe { s with mem := { s.mem with host := cellWrite s.mem.host a bs } } := by
  rw [safe_iff] at h ⊢
  exact ⟨h.1, cellWrite_wf bs a h.2.1, h.2.2⟩

theorem placeWrite_safe {s t : State} {p : Place} {bs : List Byte} {d : Bool} (h : s.Safe) (hp : s.placeWrite p bs = some (t, d)) : t.Safe := by
  unfold State.placeWrite at hp
  split at hp
  · obtain rfl : (s.hbmWrite _ bs).1 = t := by rw [Option.some.inj hp]
    exact hbmWrite_safe _ bs h
  · cases hp
    exact host_safe _ bs h
  · cases hp

theorem vwriteGo_safe (slot : Nat) : ∀ (n : Nat) {s t : State} (va : Nat) (bs : List Byte), s.Safe → State.vwriteGo slot n s va bs = .ok t → t.Safe
  | 0, s, t, va, bs, h, e => by cases e; exact h
  | n + 1, s, t, va, bs, h, e => by
    unfold State.vwriteGo at e
    split at e
    · cases e; exact h
    · dsimp only at e
      split at e
      · cases e
      · split at e
        · cases e
        · rename_i hp
          exact vwriteGo_safe slot n _ _ (placeWrite_safe h hp) e

theorem vwrite_safe {s t : State} {slot va : Nat} {bs : List Byte} (h : s.Safe) (e : s.vwrite slot va bs = .ok t) : t.Safe :=
  vwriteGo_safe slot _ va bs h e

theorem bankWrite_safe {s : State} (r : Run) (page tile a : Nat) (bs : List Byte) (h : s.Safe) : (s.bankWrite r page tile a bs).Safe := by
  rw [safe_iff] at h ⊢
  exact ⟨h.1, h.2.1, cellWrite_wf bs _ h.2.2.1, h.2.2.2⟩

theorem clearPage_safe {s : State} (die page : Nat) (h : s.Safe) : (s.clearPage die page).Safe := by
  rw [safe_iff] at h ⊢
  exact ⟨h.1, h.2.1, filter_wf _ h.2.2.1, h.2.2.2⟩

theorem foldl_cellSet_wf (k : Host.Cell → Nat) : ∀ (l : List Host.Cell) {m : List Host.Cell}, Memory.wf m = true →
    Memory.wf (l.foldl (fun m c => cellSet m (k c) c.2) m) = true
  | [], _, h => h
  | c :: l, _, h => foldl_cellSet_wf k l (cellSet_wf (k c) c.2 h)

theorem foldl_safe {α : Type} {f : State → α → State} (hf : ∀ s x, s.Safe → (f s x).Safe) : ∀ (l : List α) {s : State}, s.Safe → (l.foldl f s).Safe
  | [], _, h => h
  | x :: l, s, h => foldl_safe hf l (hf s x h)

theorem loadPages_safe {s : State} (r : Run) (h : s.Safe) : (s.loadPages r).Safe := by
  unfold State.loadPages
  have h' := foldl_safe (f := fun (s : State) p => s.clearPage r.die p) (fun s x => clearPage_safe r.die x) r.region.pages h
  rw [safe_iff] at h' ⊢
  exact ⟨h'.1, h'.2.1, foldl_cellSet_wf _ r.saved h'.2.2.1, h'.2.2.2⟩

theorem postEntry_safe {s : State} (slot n : Nat) (tok : W64) (ident : Nat) (h : s.Safe) : (s.postEntry slot n tok ident).Safe := by
  unfold State.postEntry
  exact safe_of_mem (host_safe _ _ h) rfl

theorem hbmWriteRecord_safe {s : State} (a : Nat) (bs : List Byte) (h : s.Safe) : (s.hbmWriteRecord a bs).Safe :=
  hbmWrite_safe _ _ (hbmWrite_safe _ _ (hbmWrite_safe _ _ (hbmWrite_safe _ _ h)))

end Sys2Proof.Laws
end

