-- ==== Sys2Proof/Laws/Exec.lean ====
section
/-! SUPPORT. What a step can do, said once: the turn it takes, the state in which its instruction executes, and that every instruction
answers a next state. -/

namespace Sys2Proof.Laws

open Sys2Proof.Machine

/-- A step that goes on executes what was fetched, or nothing. -/
theorem step_cases {s t : State} (h : step s = .next t) :
    fetch s = .other t ∨ ∃ i u, fetch s = .exec i u ∧ exec i u = .next t := by
  unfold step at h
  split at h
  · exact .inr ⟨_, _, ‹_›, h⟩
  · cases h; exact .inl ‹_›
  · cases h

/-- A step stops only where a word decodes to nothing. -/
theorem step_fault {s : State} {f : Fault} (h : step s = .fault f) : fetch s = .bad ∨ ∃ i u, fetch s = .exec i u ∧ exec i u = .fault f := by
  unfold step at h
  split at h
  · exact .inr ⟨_, _, ‹_›, h⟩
  · cases h
  · exact .inl ‹_›

/-- The state in which a word at SQC executes: its run has issued, it is in focus; nothing else differs. -/
theorem fetchWord_exec {s u : State} {k : Nat} {i : Instr} (h : fetchWord s k = .exec i u) :
    ∃ r w tail, s.run? k = some r ∧ r.issues = true ∧ r.esc.issuedAt ≠ s.cycle + 1 ∧ (s.seqOf r)[r.esc.sqc]? = some w
      ∧ decode (natBytes 8 w.toNat) = .ok (i, tail)
      ∧ u = { s.setRun { r with esc := { r.esc with issuedAt := s.cycle + 1 } } with focus := some ⟨k, none⟩ } := by
  unfold fetchWord at h
  split at h
  · cases h
  · rename_i r hr
    split at h
    · cases h
    · rename_i hc
      simp only [Bool.or_eq_true, Bool.not_eq_true', decide_eq_true_eq, not_or, Bool.not_eq_false] at hc
      dsimp only at h
      split at h
      · cases h
      · rename_i w hw
        split at h
        · rename_i j tail hd
          cases h
          exact ⟨r, w, tail, hr, hc.1, hc.2, hw, hd, rfl⟩
        · cases h

/-- The state in which an element's word executes. -/
theorem fetchElem_exec {s u : State} {e : ElemRef} {i : Instr} (h : fetchElem s e = .exec i u) :
    ∃ x tail, s.site e = some x ∧ decode (natBytes 8 x.word.toNat) = .ok (i, tail) ∧ u = { s with focus := some ⟨e.run, some e⟩ } := by
  unfold fetchElem at h
  split at h
  · cases h
  · split at h
    · cases h; exact ⟨_, _, ‹_›, ‹_›, rfl⟩
    · cases h

/-- The memories of the state in which an instruction executes are those before the step. -/
theorem fetch_exec_mem {s u : State} {i : Instr} (h : fetch s = .exec i u) : u.mem = s.mem := by
  have hw : ∀ {s u : State} {k : Nat} {i : Instr}, fetchWord s k = .exec i u → u.mem = s.mem := by
    intro s u k i h
    obtain ⟨r, w, tail, -, -, -, -, -, rfl⟩ := fetchWord_exec h
    rfl
  unfold fetch at h
  split at h
  · unfold fetchTurn at h
    split at h
    · exact (hw h :)
    · obtain ⟨x, tail, -, -, rfl⟩ := fetchElem_exec h; rfl
    · cases h; rfl
    · cases h
    · cases h
    · cases h
    · split at h
      · cases h
      · split at h
        · cases h
        · split at h
          · cases h
          · exact hw h
  · split at h
    · cases h; rfl
    · cases h
    · cases h
    · cases h

theorem onWord_next (s : State) (body : Run → State) : ∃ t, onWord s body = .next t := by
  unfold onWord
  split
  · exact ⟨_, rfl⟩
  · split <;> exact ⟨_, rfl⟩

theorem fire_next (i : Instr) (body : FireIn → Fire) (s : State) : ∃ t, fire i body s = .next t := ⟨_, rfl⟩

theorem brkStep_next (f : Fab) (s : State) : ∃ t, brkStep f s = .next t := by
  unfold brkStep
  split
  · exact ⟨_, rfl⟩
  · exact fire_next _ _ s

/-- Every instruction and every event answers a next state. -/
theorem exec_next (i : Instr) (s : State) : ∃ t, exec i s = .next t := by
  cases i <;> first | exact onWord_next s _ | exact brkStep_next _ s | exact fire_next _ _ s | exact ⟨_, rfl⟩

/-- Of a fabric instruction the meaning by its word is the dispatch's. -/
theorem fabExec_exec {i : Instr} {f : Fab} (h : fabOf i = some f) (s : State) : fabExec i s = exec i s := by
  cases i <;> first | rfl | (cases h)

end Sys2Proof.Laws
end

