-- ==== Sys2Proof/Laws/Fire.lean ====
section
/-! SUPPORT. What a firing can do: the one lemma through which every statement about a fabric instruction goes. -/

namespace Sys2Proof.Laws

open Sys2Proof.Machine

/-- What an element that may fire does is what its body decides. -/
theorem fire_of_firingOf {i : Instr} {s : State} {x : FireIn} (h : firingOf i s = some x) (body : FireIn → Fire) :
    fire i body s = .next (fireNow x i body) := by
  unfold firingOf at h
  unfold fire fireElement
  split at h
  · rename_i fo f hfo hf
    split at h
    · cases h
    · rename_i ref href
      split at h
      · cases h
      · rename_i hh hsite
        simp only at h
        split at h
        · rename_i hc
          simp only [Option.some.injEq] at h
          subst h
          simp only [Bool.and_eq_true, Bool.or_eq_true, Option.isNone_iff_eq_none, bne_iff_ne, ne_eq, beq_iff_eq,
            List.isEmpty_iff] at hc
          obtain ⟨⟨⟨⟨h1, h2⟩, h3⟩, h5⟩, h4⟩ := hc
          try rw [hfo, hf]
          simp only [href, hsite, h1, h2, h5, Bool.not_true, Bool.false_eq_true, ↓reduceIte]
          have h3' : ¬ (FireIn.elem ⟨s, ref, hh, f, opcodeOf i⟩).firedAt = s.cycle + 1 := h3
          rw [if_neg h3']
          split
          · rename_i hq
            rcases h4 with h4 | h4
            · exact absurd (by rw [h4]; rfl) hq.1
            · exact absurd h4 hq.2
          · rfl
        · cases h
  · cases h

/-- A firing completes when its tokens have room. -/
theorem fire_act {i : Instr} {s t : State} {x : FireIn} {body : FireIn → Fire} {a : Act} (h : firingOf i s = some x)
    (hb : body x = .act a) (ht : x.fireAct i a = some t) : fire i body s = .next t := by
  rw [fire_of_firingOf h, fireNow, hb]; simp [ht]

/-- A firing without room changes nothing. -/
theorem fire_full {i : Instr} {s : State} {x : FireIn} {body : FireIn → Fire} {a : Act} (h : firingOf i s = some x)
    (hb : body x = .act a) (ht : x.fireAct i a = none) : fire i body s = .next x.s := by
  rw [fire_of_firingOf h, fireNow, hb]; simp [ht]

theorem fire_trap {i : Instr} {s : State} {x : FireIn} {body : FireIn → Fire} {t : Trap} {g : FaultInfo → FaultInfo}
    (h : firingOf i s = some x) (hb : body x = .trap t g) : fire i body s = .next (x.s.takeTrap x.ref.run t (g (x.info t))) := by
  rw [fire_of_firingOf h, fireNow, hb]

theorem fire_wait {i : Instr} {s : State} {x : FireIn} {body : FireIn → Fire} (h : firingOf i s = some x)
    (hb : body x = .wait) : fire i body s = .next x.s := by
  rw [fire_of_firingOf h, fireNow, hb]

/-- The state that a firing sees is the state in which its instruction executes. -/
theorem firingOf_s {i : Instr} {s : State} {x : FireIn} (h : firingOf i s = some x) : x.s = s := by
  unfold firingOf at h
  split at h
  · split at h
    · cases h
    · split at h
      · cases h
      · simp only at h
        split at h
        · simp only [Option.some.injEq] at h; subst h; rfl
        · cases h
  · cases h

/-- What an event does at an element. -/
theorem drive_of_driveOf {e : ElemRef} {s : State} {x : FireIn} {i : Instr} (h : driveOf e s = some (x, i))
    (body : FireIn → Instr → Fire) : driveElem e body s = (match body x i with
      | .wait => s
      | .trap t info => s.takeTrap e.run t (info (x.info t))
      | .fault info => s.supervisorFault e.run (info (x.info .brk))
      | .act a => (x.driveAct i a).getD s) := by
  unfold driveOf at h
  unfold driveElem
  split at h
  · cases h
  · rename_i hh hs
    split at h
    · cases h
    · rename_i j hj
      split at h
      · cases h
      · rename_i f hf
        simp only at h
        split at h
        · rename_i hl
          simp only [Option.some.injEq, Prod.mk.injEq] at h
          obtain ⟨h1, h2⟩ := h
          subst h1; subst h2
          try rw [hs]
          try dsimp only
          try rw [hj]
          try dsimp only
          try rw [hf]
          simp only [hl, Bool.not_true, Bool.false_eq_true, ↓reduceIte]
          try (cases body ⟨s, e, hh, f, opcodeOf j⟩ j <;> rfl)
        · cases h

/-- A firing belongs to the fabric of its element. -/
theorem firingOf_f {i : Instr} {s : State} {x : FireIn} (h : firingOf i s = some x) : fabOf i = some x.f ∧ x.o = opcodeOf i := by
  unfold firingOf at h
  split at h
  · rename_i hf
    split at h
    · cases h
    · split at h
      · cases h
      · simp only at h
        split at h
        · simp only [Option.some.injEq] at h; subst h; exact ⟨hf, rfl⟩
        · cases h
  · cases h

end Sys2Proof.Laws
end

