-- ==== Sys2Proof/Laws/PerInstr.lean ====
section
/-! SUPPORT. The family Encoding: an instruction's word holds its opcode in bits 63 to 56 and, for a fabric instruction, each of its
fields in its place (09 R174, R177, R178). -/

namespace Sys2Proof.Laws.Encoding

open Sys2Proof.Machine

/-- Bits of the upper part of two that stand side by side. -/
theorem extract_high {m n : Nat} (x : BitVec m) (y : BitVec n) (s l : Nat) : (x ++ y).extractLsb' (n + s) l = x.extractLsb' s l := by
  rw [BitVec.extractLsb'_append_eq_of_le (by omega), Nat.add_sub_cancel_left]

/-- The lower part of two that stand side by side. -/
theorem extract_low {m n : Nat} (x : BitVec m) (y : BitVec n) : (x ++ y).extractLsb' 0 n = y := by
  rw [BitVec.extractLsb'_append_eq_of_add_le (by omega)]; simp

/-- The fields of a fabric word (09 R174). -/
def Fields (w : W64) (f : Fab) : Prop :=
  w.extractLsb' 52 4 = f.tile ∧ w.extractLsb' 48 4 = f.unit ∧ w.extractLsb' 35 13 = encodeCon f.cona
    ∧ w.extractLsb' 22 13 = encodeCon f.conb ∧ w.extractLsb' 20 2 = f.md ∧ w.extractLsb' 0 20 = f.imm

def Statement (i : Instr) : Prop :=
  ∀ w, encode i = some w → (w.extractLsb' 56 8).toNat = opcodeOf i ∧ ∀ f, fabOf i = some f → Fields w f

theorem fields_encodeFab (o : BitVec 8) (f : Fab) : Fields (encodeFab o f) f := by
  refine ⟨?_, ?_, ?_, ?_, ?_, extract_low _ f.imm⟩
  · exact (extract_high _ f.imm 32 4).trans <| (extract_high _ f.md 30 4).trans <| (extract_high _ (encodeCon f.conb) 17 4).trans <|
      (extract_high _ (encodeCon f.cona) 4 4).trans <| (extract_high _ f.unit 0 4).trans (extract_low _ _)
  · exact (extract_high _ f.imm 28 4).trans <| (extract_high _ f.md 26 4).trans <| (extract_high _ (encodeCon f.conb) 13 4).trans <|
      (extract_high _ (encodeCon f.cona) 0 4).trans (extract_low _ _)
  · exact (extract_high _ f.imm 15 13).trans <| (extract_high _ f.md 13 13).trans <| (extract_high _ (encodeCon f.conb) 0 13).trans (extract_low _ _)
  · exact (extract_high _ f.imm 2 13).trans <| (extract_high _ f.md 0 13).trans (extract_low _ _)
  · exact (extract_high _ f.imm 0 2).trans (extract_low _ _)

theorem opcode_encodeFab (o : BitVec 8) (f : Fab) : (encodeFab o f).extractLsb' 56 8 = o :=
  (extract_high _ f.imm 36 8).trans <| (extract_high _ f.md 34 8).trans <| (extract_high _ (encodeCon f.conb) 21 8).trans <|
    (extract_high _ (encodeCon f.cona) 8 8).trans <| (extract_high _ f.unit 4 8).trans <| (extract_high _ f.tile 0 8).trans (by simp)

theorem opcode_encodeSeq (o : BitVec 8) (a b c : BitVec 6) (imm : BitVec 38) : (encodeSeq o a b c imm).extractLsb' 56 8 = o :=
  (extract_high _ imm 18 8).trans <| (extract_high _ c 12 8).trans <| (extract_high _ b 6 8).trans <| (extract_high _ a 0 8).trans (by simp)

theorem of_fab {i : Instr} {o : BitVec 8} {f : Fab} (h : encode i = some (encodeFab o f)) (hf : fabOf i = some f)
    (ho : o.toNat = opcodeOf i) : Statement i := by
  intro w hw
  obtain rfl : encodeFab o f = w := Option.some.inj (h.symm.trans hw)
  refine ⟨by rw [opcode_encodeFab, ho], fun g hg => ?_⟩
  obtain rfl : f = g := Option.some.inj (hf.symm.trans hg)
  exact fields_encodeFab o f

theorem of_seq {i : Instr} {o : BitVec 8} {a b c : BitVec 6} {imm : BitVec 38} (h : encode i = some (encodeSeq o a b c imm))
    (hf : fabOf i = none) (ho : o.toNat = opcodeOf i) : Statement i := by
  intro w hw
  obtain rfl : encodeSeq o a b c imm = w := Option.some.inj (h.symm.trans hw)
  exact ⟨by rw [opcode_encodeSeq, ho], fun g hg => by rw [hf] at hg; cases hg⟩

/-- An event has no word. -/
theorem of_none {i : Instr} (h : encode i = none) : Statement i := fun w hw => by rw [h] at hw; cases hw

theorem seqEnd : Statement .seqEnd := of_seq rfl rfl rfl
theorem conf (cfg : BitVec 16) : Statement (.conf cfg) := of_seq rfl rfl rfl
theorem shadow (ga : BitVec 6) (cfg : BitVec 16) : Statement (.shadow ga cfg) := of_seq rfl rfl rfl
theorem swap : Statement .swap := of_seq rfl rfl rfl
theorem phase : Statement .phase := of_seq rfl rfl rfl
theorem stream (gb : BitVec 6) (port : BitVec 4) (gen : BitVec 2) (entry : BitVec 16) : Statement (.stream gb port gen entry) := of_seq rfl rfl rfl
theorem iter (gb : BitVec 6) (count : BitVec 38) : Statement (.iter gb count) := of_seq rfl rfl rfl
theorem loop (gb : BitVec 6) (kind : BitVec 2) (depth : BitVec 3) (count : BitVec 32) : Statement (.loop gb kind depth count) := of_seq rfl rfl rfl
theorem endl : Statement .endl := of_seq rfl rfl rfl
theorem br (off : BitVec 38) : Statement (.br off) := of_seq rfl rfl rfl
theorem brz (ga : BitVec 6) (off : BitVec 38) : Statement (.brz ga off) := of_seq rfl rfl rfl
theorem brnz (ga : BitVec 6) (off : BitVec 38) : Statement (.brnz ga off) := of_seq rfl rfl rfl
theorem waittok (ga : BitVec 6) (e : BitVec 3) : Statement (.waittok ga e) := of_seq rfl rfl rfl
theorem join (ga gb : BitVec 6) : Statement (.join ga gb) := of_seq rfl rfl rfl
theorem leave (ga gb : BitVec 6) : Statement (.leave ga gb) := of_seq rfl rfl rfl
theorem launch (ga gb gc : BitVec 6) : Statement (.launch ga gb gc) := of_seq rfl rfl rfl
theorem traps (code : BitVec 16) : Statement (.traps code) := of_seq rfl rfl rfl
theorem gli (ga : BitVec 6) (imm : BitVec 38) : Statement (.gli ga imm) := of_seq rfl rfl rfl
theorem gadd (ga gb gc : BitVec 6) (imm : BitVec 38) : Statement (.gadd ga gb gc imm) := of_seq rfl rfl rfl
theorem gsub (ga gb gc : BitVec 6) (imm : BitVec 38) : Statement (.gsub ga gb gc imm) := of_seq rfl rfl rfl
theorem gand (ga gb gc : BitVec 6) (imm : BitVec 38) : Statement (.gand ga gb gc imm) := of_seq rfl rfl rfl
theorem gor (ga gb gc : BitVec 6) (imm : BitVec 38) : Statement (.gor ga gb gc imm) := of_seq rfl rfl rfl
theorem gxor (ga gb gc : BitVec 6) (imm : BitVec 38) : Statement (.gxor ga gb gc imm) := of_seq rfl rfl rfl
theorem gshl (ga gb gc : BitVec 6) (imm : BitVec 38) : Statement (.gshl ga gb gc imm) := of_seq rfl rfl rfl
theorem gshr (ga gb gc : BitVec 6) (imm : BitVec 38) : Statement (.gshr ga gb gc imm) := of_seq rfl rfl rfl
theorem gslt (ga gb gc : BitVec 6) (imm : BitVec 38) : Statement (.gslt ga gb gc imm) := of_seq rfl rfl rfl
theorem fixb (gb : BitVec 6) (rlist : BitVec 16) (grp : BitVec 8) : Statement (.fixb gb rlist grp) := of_seq rfl rfl rfl
theorem fixe (ga gb : BitVec 6) (grp : BitVec 8) : Statement (.fixe ga gb grp) := of_seq rfl rfl rfl
theorem rule (cfg : BitVec 16) (num : BitVec 8) : Statement (.rule cfg num) := of_seq rfl rfl rfl
theorem ruleFull (cfg : BitVec 16) (num : BitVec 8) : Statement (.ruleFull cfg num) := of_seq rfl rfl rfl
theorem rotate (rlist : BitVec 16) : Statement (.rotate rlist) := of_seq rfl rfl rfl
theorem retract (ga gb : BitVec 6) (rlist : BitVec 16) : Statement (.retract ga gb rlist) := of_seq rfl rfl rfl
theorem add (f : Fab) : Statement (.add f) := of_fab rfl rfl rfl
theorem sub (f : Fab) : Statement (.sub f) := of_fab rfl rfl rfl
theorem mul (f : Fab) : Statement (.mul f) := of_fab rfl rfl rfl
theorem mulh (f : Fab) : Statement (.mulh f) := of_fab rfl rfl rfl
theorem mulhu (f : Fab) : Statement (.mulhu f) := of_fab rfl rfl rfl
theorem div (f : Fab) : Statement (.div f) := of_fab rfl rfl rfl
theorem divu (f : Fab) : Statement (.divu f) := of_fab rfl rfl rfl
theorem rem (f : Fab) : Statement (.rem f) := of_fab rfl rfl rfl
theorem remu (f : Fab) : Statement (.remu f) := of_fab rfl rfl rfl
theorem and (f : Fab) : Statement (.and f) := of_fab rfl rfl rfl
theorem or (f : Fab) : Statement (.or f) := of_fab rfl rfl rfl
theorem xor (f : Fab) : Statement (.xor f) := of_fab rfl rfl rfl
theorem andn (f : Fab) : Statement (.andn f) := of_fab rfl rfl rfl
theorem shl (f : Fab) : Statement (.shl f) := of_fab rfl rfl rfl
theorem shr (f : Fab) : Statement (.shr f) := of_fab rfl rfl rfl
theorem sar (f : Fab) : Statement (.sar f) := of_fab rfl rfl rfl
theorem rol (f : Fab) : Statement (.rol f) := of_fab rfl rfl rfl
theorem ror (f : Fab) : Statement (.ror f) := of_fab rfl rfl rfl
theorem clz (f : Fab) : Statement (.clz f) := of_fab rfl rfl rfl
theorem popc (f : Fab) : Statement (.popc f) := of_fab rfl rfl rfl
theorem min (f : Fab) : Statement (.min f) := of_fab rfl rfl rfl
theorem max (f : Fab) : Statement (.max f) := of_fab rfl rfl rfl
theorem minu (f : Fab) : Statement (.minu f) := of_fab rfl rfl rfl
theorem maxu (f : Fab) : Statement (.maxu f) := of_fab rfl rfl rfl
theorem ceq (f : Fab) : Statement (.ceq f) := of_fab rfl rfl rfl
theorem cne (f : Fab) : Statement (.cne f) := of_fab rfl rfl rfl
theorem clt (f : Fab) : Statement (.clt f) := of_fab rfl rfl rfl
theorem cle (f : Fab) : Statement (.cle f) := of_fab rfl rfl rfl
theorem cgt (f : Fab) : Statement (.cgt f) := of_fab rfl rfl rfl
theorem cge (f : Fab) : Statement (.cge f) := of_fab rfl rfl rfl
theorem cltu (f : Fab) : Statement (.cltu f) := of_fab rfl rfl rfl
theorem cgeu (f : Fab) : Statement (.cgeu f) := of_fab rfl rfl rfl
theorem mov (f : Fab) : Statement (.mov f) := of_fab rfl rfl rfl
theorem agen (f : Fab) : Statement (.agen f) := of_fab rfl rfl rfl
theorem constk (f : Fab) : Statement (.constk f) := of_fab rfl rfl rfl
theorem steer (f : Fab) : Statement (.steer f) := of_fab rfl rfl rfl
theorem merge (f : Fab) : Statement (.merge f) := of_fab rfl rfl rfl
theorem cmerge (f : Fab) : Statement (.cmerge f) := of_fab rfl rfl rfl
theorem copy (f : Fab) : Statement (.copy f) := of_fab rfl rfl rfl
theorem gate (f : Fab) : Statement (.gate f) := of_fab rfl rfl rfl
theorem ctr (f : Fab) : Statement (.ctr f) := of_fab rfl rfl rfl
theorem ctrRoot (f : Fab) : Statement (.ctrRoot f) := of_fab rfl rfl rfl
theorem drop (f : Fab) : Statement (.drop f) := of_fab rfl rfl rfl
theorem sink (f : Fab) : Statement (.sink f) := of_fab rfl rfl rfl
theorem sinkEsc (f : Fab) : Statement (.sinkEsc f) := of_fab rfl rfl rfl
theorem acc (f : Fab) : Statement (.acc f) := of_fab rfl rfl rfl
theorem accmax (f : Fab) : Statement (.accmax f) := of_fab rfl rfl rfl
theorem accmin (f : Fab) : Statement (.accmin f) := of_fab rfl rfl rfl
theorem vadd (f : Fab) : Statement (.vadd f) := of_fab rfl rfl rfl
theorem vsub (f : Fab) : Statement (.vsub f) := of_fab rfl rfl rfl
theorem vmul (f : Fab) : Statement (.vmul f) := of_fab rfl rfl rfl
theorem vfma (f : Fab) : Statement (.vfma f) := of_fab rfl rfl rfl
theorem vfms (f : Fab) : Statement (.vfms f) := of_fab rfl rfl rfl
theorem vmin (f : Fab) : Statement (.vmin f) := of_fab rfl rfl rfl
theorem vmax (f : Fab) : Statement (.vmax f) := of_fab rfl rfl rfl
theorem vabs (f : Fab) : Statement (.vabs f) := of_fab rfl rfl rfl
theorem vneg (f : Fab) : Statement (.vneg f) := of_fab rfl rfl rfl
theorem vcmp (f : Fab) : Statement (.vcmp f) := of_fab rfl rfl rfl
theorem vblend (f : Fab) : Statement (.vblend f) := of_fab rfl rfl rfl
theorem vand (f : Fab) : Statement (.vand f) := of_fab rfl rfl rfl
theorem vor (f : Fab) : Statement (.vor f) := of_fab rfl rfl rfl
theorem vxor (f : Fab) : Statement (.vxor f) := of_fab rfl rfl rfl
theorem vshl (f : Fab) : Statement (.vshl f) := of_fab rfl rfl rfl
theorem vcvt (f : Fab) : Statement (.vcvt f) := of_fab rfl rfl rfl
theorem vred (f : Fab) : Statement (.vred f) := of_fab rfl rfl rfl
theorem vredmax (f : Fab) : Statement (.vredmax f) := of_fab rfl rfl rfl
theorem vredmin (f : Fab) : Statement (.vredmin f) := of_fab rfl rfl rfl
theorem vscan (f : Fab) : Statement (.vscan f) := of_fab rfl rfl rfl
theorem vshuf (f : Fab) : Statement (.vshuf f) := of_fab rfl rfl rfl
theorem vmaxr (f : Fab) : Statement (.vmaxr f) := of_fab rfl rfl rfl
theorem vamax (f : Fab) : Statement (.vamax f) := of_fab rfl rfl rfl
theorem vscale (f : Fab) : Statement (.vscale f) := of_fab rfl rfl rfl
theorem vrcp (f : Fab) : Statement (.vrcp f) := of_fab rfl rfl rfl
theorem vrsq (f : Fab) : Statement (.vrsq f) := of_fab rfl rfl rfl
theorem vexp2 (f : Fab) : Statement (.vexp2 f) := of_fab rfl rfl rfl
theorem vlog2 (f : Fab) : Statement (.vlog2 f) := of_fab rfl rfl rfl
theorem vsfn (f : Fab) : Statement (.vsfn f) := of_fab rfl rfl rfl
theorem vsfnD (f : Fab) : Statement (.vsfnD f) := of_fab rfl rfl rfl
theorem vquant (f : Fab) : Statement (.vquant f) := of_fab rfl rfl rfl
theorem vdeq (f : Fab) : Statement (.vdeq f) := of_fab rfl rfl rfl
theorem vpackCode (f : Fab) : Statement (.vpackCode f) := of_fab rfl rfl rfl
theorem vpackRaw (f : Fab) : Statement (.vpackRaw f) := of_fab rfl rfl rfl
theorem vunpk (f : Fab) : Statement (.vunpk f) := of_fab rfl rfl rfl
theorem rob (f : Fab) : Statement (.rob f) := of_fab rfl rfl rfl
theorem robT (f : Fab) : Statement (.robT f) := of_fab rfl rfl rfl
theorem mma (f : Fab) : Statement (.mma f) := of_fab rfl rfl rfl
theorem mopf (f : Fab) : Statement (.mopf f) := of_fab rfl rfl rfl
theorem mdrain (f : Fab) : Statement (.mdrain f) := of_fab rfl rfl rfl
theorem mdrainAll (f : Fab) : Statement (.mdrainAll f) := of_fab rfl rfl rfl
theorem hprobe (f : Fab) : Statement (.hprobe f) := of_fab rfl rfl rfl
theorem insnew (f : Fab) : Statement (.insnew f) := of_fab rfl rfl rfl
theorem rpart (f : Fab) : Statement (.rpart f) := of_fab rfl rfl rfl
theorem agg (f : Fab) : Statement (.agg f) := of_fab rfl rfl rfl
theorem negate (f : Fab) : Statement (.negate f) := of_fab rfl rfl rfl
theorem gradb (f : Fab) : Statement (.gradb f) := of_fab rfl rfl rfl
theorem rscan (f : Fab) : Statement (.rscan f) := of_fab rfl rfl rfl
theorem dlbind (f : Fab) : Statement (.dlbind f) := of_fab rfl rfl rfl
theorem dlmul (f : Fab) : Statement (.dlmul f) := of_fab rfl rfl rfl
theorem dlref (f : Fab) : Statement (.dlref f) := of_fab rfl rfl rfl
theorem dldrop (f : Fab) : Statement (.dldrop f) := of_fab rfl rfl rfl
theorem bscore (f : Fab) : Statement (.bscore f) := of_fab rfl rfl rfl
theorem topkb (f : Fab) : Statement (.topkb f) := of_fab rfl rfl rfl
theorem attnacc (f : Fab) : Statement (.attnacc f) := of_fab rfl rfl rfl
theorem evict (f : Fab) : Statement (.evict f) := of_fab rfl rfl rfl
theorem evictReset (f : Fab) : Statement (.evictReset f) := of_fab rfl rfl rfl
theorem ld (f : Fab) : Statement (.ld f) := of_fab rfl rfl rfl
theorem st (f : Fab) : Statement (.st f) := of_fab rfl rfl rfl
theorem lda (f : Fab) : Statement (.lda f) := of_fab rfl rfl rfl
theorem stl (f : Fab) : Statement (.stl f) := of_fab rfl rfl rfl
theorem ldsync (f : Fab) : Statement (.ldsync f) := of_fab rfl rfl rfl
theorem sete (f : Fab) : Statement (.sete f) := of_fab rfl rfl rfl
theorem fence (f : Fab) : Statement (.fence f) := of_fab rfl rfl rfl
theorem ldx (f : Fab) : Statement (.ldx f) := of_fab rfl rfl rfl
theorem stx (f : Fab) : Statement (.stx f) := of_fab rfl rfl rfl
theorem fadd (f : Fab) : Statement (.fadd f) := of_fab rfl rfl rfl
theorem fadd64 (f : Fab) : Statement (.fadd64 f) := of_fab rfl rfl rfl
theorem amax (f : Fab) : Statement (.amax f) := of_fab rfl rfl rfl
theorem amin (f : Fab) : Statement (.amin f) := of_fab rfl rfl rfl
theorem aswap (f : Fab) : Statement (.aswap f) := of_fab rfl rfl rfl
theorem acas (f : Fab) : Statement (.acas f) := of_fab rfl rfl rfl
theorem aor (f : Fab) : Statement (.aor f) := of_fab rfl rfl rfl
theorem aand (f : Fab) : Statement (.aand f) := of_fab rfl rfl rfl
theorem amaxr (f : Fab) : Statement (.amaxr f) := of_fab rfl rfl rfl
theorem ownerRange (f : Fab) : Statement (.ownerRange f) := of_fab rfl rfl rfl
theorem ownerRel (f : Fab) : Statement (.ownerRel f) := of_fab rfl rfl rfl
theorem ownerFree (f : Fab) : Statement (.ownerFree f) := of_fab rfl rfl rfl
theorem waita (f : Fab) : Statement (.waita f) := of_fab rfl rfl rfl
theorem wakea (f : Fab) : Statement (.wakea f) := of_fab rfl rfl rfl
theorem xfer (f : Fab) : Statement (.xfer f) := of_fab rfl rfl rfl
theorem stash (f : Fab) : Statement (.stash f) := of_fab rfl rfl rfl
theorem unstash (f : Fab) : Statement (.unstash f) := of_fab rfl rfl rfl
theorem pin (f : Fab) : Statement (.pin f) := of_fab rfl rfl rfl
theorem unpin (f : Fab) : Statement (.unpin f) := of_fab rfl rfl rfl
theorem send (f : Fab) : Statement (.send f) := of_fab rfl rfl rfl
theorem postr (f : Fab) : Statement (.postr f) := of_fab rfl rfl rfl
theorem probeq (f : Fab) : Statement (.probeq f) := of_fab rfl rfl rfl
theorem cancelr (f : Fab) : Statement (.cancelr f) := of_fab rfl rfl rfl
theorem ingress (f : Fab) : Statement (.ingress f) := of_fab rfl rfl rfl
theorem egress (f : Fab) : Statement (.egress f) := of_fab rfl rfl rfl
theorem strmi (f : Fab) : Statement (.strmi f) := of_fab rfl rfl rfl
theorem strmo (f : Fab) : Statement (.strmo f) := of_fab rfl rfl rfl
theorem barj (f : Fab) : Statement (.barj f) := of_fab rfl rfl rfl
theorem barjGrp (f : Fab) : Statement (.barjGrp f) := of_fab rfl rfl rfl
theorem bardrop (f : Fab) : Statement (.bardrop f) := of_fab rfl rfl rfl
theorem bardropGrp (f : Fab) : Statement (.bardropGrp f) := of_fab rfl rfl rfl
theorem trap (f : Fab) : Statement (.trap f) := of_fab rfl rfl rfl
theorem brk (f : Fab) : Statement (.brk f) := of_fab rfl rfl rfl
theorem rdtime (f : Fab) : Statement (.rdtime f) := of_fab rfl rfl rfl
theorem rdcyc (f : Fab) : Statement (.rdcyc f) := of_fab rfl rfl rfl
theorem rdsys (f : Fab) : Statement (.rdsys f) := of_fab rfl rfl rfl
theorem wrsys (f : Fab) : Statement (.wrsys f) := of_fab rfl rfl rfl
theorem freeze (f : Fab) : Statement (.freeze f) := of_fab rfl rfl rfl
theorem thaw (f : Fab) : Statement (.thaw f) := of_fab rfl rfl rfl
theorem readout (f : Fab) : Statement (.readout f) := of_fab rfl rfl rfl
theorem restore (f : Fab) : Statement (.restore f) := of_fab rfl rfl rfl
theorem grant (f : Fab) : Statement (.grant f) := of_fab rfl rfl rfl
theorem issue (acc : Nat) : Statement (.issue acc) := of_none rfl
theorem unpark (acc : Nat) : Statement (.unpark acc) := of_none rfl
theorem translationFault (acc : Nat) : Statement (.translationFault acc) := of_none rfl
theorem perform (p : PerfRef) : Statement (.perform p) := of_none rfl
theorem dequeue (req : Nat) : Statement (.dequeue req) := of_none rfl
theorem ewrite (wr : Nat) : Statement (.ewrite wr) := of_none rfl
theorem commit (b : BlkRef) : Statement (.commit b) := of_none rfl
theorem txAbort (b : BlkRef) (wave : Nat) (cause : TxCause) : Statement (.txAbort b wave cause) := of_none rfl
theorem phaseGateOpen (run : Nat) (gate : Nat) : Statement (.phaseGateOpen run gate) := of_none rfl
theorem hdeliver (die port : Nat) : Statement (.hdeliver die port) := of_none rfl
theorem edeliver (slot ring : Nat) : Statement (.edeliver slot ring) := of_none rfl
theorem faddArrival (acc : Nat) : Statement (.faddArrival acc) := of_none rfl
theorem boomWindowClose (point rec : Nat) : Statement (.boomWindowClose point rec) := of_none rfl
theorem split (point rec : Nat) : Statement (.split point rec) := of_none rfl
theorem ownerApply (die input : Nat) : Statement (.ownerApply die input) := of_none rfl
theorem groupReply (run : Nat) : Statement (.groupReply run) := of_none rfl
theorem launchReply (run : Nat) : Statement (.launchReply run) := of_none rfl
theorem combineSumsReply (group : BitVec 20) : Statement (.combineSumsReply group) := of_none rfl
theorem fixbRetry (run : Nat) : Statement (.fixbRetry run) := of_none rfl
theorem rotateAck (run k : Nat) : Statement (.rotateAck run k) := of_none rfl
theorem requestLost (run : Nat) (cause : LostCause) : Statement (.requestLost run cause) := of_none rfl
theorem barrierRelease (group : BitVec 20) : Statement (.barrierRelease group) := of_none rfl
theorem mmaStart (e : ElemRef) : Statement (.mmaStart e) := of_none rfl
theorem mmaComplete (e : ElemRef) : Statement (.mmaComplete e) := of_none rfl
theorem drainBegin (e : ElemRef) : Statement (.drainBegin e) := of_none rfl
theorem drainWord (e : ElemRef) : Statement (.drainWord e) := of_none rfl
theorem deltaComplete (die req : Nat) : Statement (.deltaComplete die req) := of_none rfl
theorem invalidateArrival (die k : Nat) : Statement (.invalidateArrival die k) := of_none rfl
theorem codedBlockDecode (e : ElemRef) (input : Nat) : Statement (.codedBlockDecode e input) := of_none rfl
theorem configDone (run plane load : Nat) : Statement (.configDone run plane load) := of_none rfl
theorem shadowLoadComplete (run : Nat) : Statement (.shadowLoadComplete run) := of_none rfl
theorem planeExchange (run : Nat) : Statement (.planeExchange run) := of_none rfl
theorem watchdogExpiry (run : Nat) : Statement (.watchdogExpiry run) := of_none rfl
theorem cruiseProbeEnd (run : Nat) : Statement (.cruiseProbeEnd run) := of_none rfl
theorem stashStallTimeout (req : Nat) : Statement (.stashStallTimeout req) := of_none rfl
theorem waitaPoll (acc : Nat) : Statement (.waitaPoll acc) := of_none rfl
theorem sendRetry (req : Nat) : Statement (.sendRetry req) := of_none rfl
theorem messageArrival (die k : Nat) : Statement (.messageArrival die k) := of_none rfl
theorem rendezvousPull (die k : Nat) : Statement (.rendezvousPull die k) := of_none rfl
theorem xferSectorDone (req sector : Nat) : Statement (.xferSectorDone req sector) := of_none rfl
theorem cfgStoreError (run plane : Nat) : Statement (.cfgStoreError run plane) := of_none rfl
theorem cfgReloadCheck (run : Nat) : Statement (.cfgReloadCheck run) := of_none rfl
theorem uncorrectableError (t : ErrTarget) : Statement (.uncorrectableError t) := of_none rfl
theorem correctedError (die domain addr : Nat) : Statement (.correctedError die domain addr) := of_none rfl
theorem arborDecision (die : Nat) : Statement (.arborDecision die) := of_none rfl
theorem ageingStep (run : Nat) : Statement (.ageingStep run) := of_none rfl
theorem quantumExpiry (run : Nat) : Statement (.quantumExpiry run) := of_none rfl
theorem ingressLaunchWord (die port : Nat) (w : BitVec 64) : Statement (.ingressLaunchWord die port w) := of_none rfl
theorem ingressTokenWord (die port : Nat) (w : BitVec 64) : Statement (.ingressTokenWord die port w) := of_none rfl
theorem ctxregWrite (slot : Nat) (w : BitVec 64) : Statement (.ctxregWrite slot w) := of_none rfl
theorem ctxtearWrite (slot : Nat) (w : BitVec 64) : Statement (.ctxtearWrite slot w) := of_none rfl
theorem tlbinvWrite (lo hi : BitVec 64) : Statement (.tlbinvWrite lo hi) := of_none rfl
theorem tlbinvDone : Statement .tlbinvDone := of_none rfl
theorem tenantTableWrite (tenant : Nat) (w : BitVec 128) : Statement (.tenantTableWrite tenant w) := of_none rfl
theorem almclr : Statement .almclr := of_none rfl
theorem lnkqclr (w : BitVec 64) : Statement (.lnkqclr w) := of_none rfl
theorem registerWrite (reg : HostReg) (w : BitVec 128) : Statement (.registerWrite reg w) := of_none rfl
theorem hostBar4Write (slot addr : Nat) (bytes : List (BitVec 8)) : Statement (.hostBar4Write slot addr bytes) := of_none rfl
theorem hostBar4Read (slot addr len : Nat) : Statement (.hostBar4Read slot addr len) := of_none rfl
theorem atsResponse (acc : Nat) (present : Bool) (frame : BitVec 52) : Statement (.atsResponse acc present frame) := of_none rfl
theorem priResponse (acc : Nat) (success : Bool) : Statement (.priResponse acc success) := of_none rfl
theorem priTimeout (acc : Nat) : Statement (.priTimeout acc) := of_none rfl
theorem atsInvalidate (pasid addr len : Nat) : Statement (.atsInvalidate pasid addr len) := of_none rfl
theorem getVersion (r : SpdmReq) : Statement (.getVersion r) := of_none rfl
theorem getCapabilities (r : SpdmReq) : Statement (.getCapabilities r) := of_none rfl
theorem negotiateAlgorithms (r : SpdmReq) : Statement (.negotiateAlgorithms r) := of_none rfl
theorem getDigests (r : SpdmReq) : Statement (.getDigests r) := of_none rfl
theorem getCertificate (r : SpdmReq) : Statement (.getCertificate r) := of_none rfl
theorem challenge (r : SpdmReq) : Statement (.challenge r) := of_none rfl
theorem getMeasurements (r : SpdmReq) : Statement (.getMeasurements r) := of_none rfl
theorem keyExchange (r : SpdmReq) : Statement (.keyExchange r) := of_none rfl
theorem finish (r : SpdmReq) : Statement (.finish r) := of_none rfl
theorem endSession (r : SpdmReq) : Statement (.endSession r) := of_none rfl
theorem coldReset (env : BringUp) : Statement (.coldReset env) := of_none rfl
theorem readyToken : Statement .readyToken := of_none rfl
theorem alarmLevel1 (sensor : Sensor) : Statement (.alarmLevel1 sensor) := of_none rfl
theorem alarmLevel2 (sensor : Sensor) : Statement (.alarmLevel2 sensor) := of_none rfl
theorem alarmLevel3 (sensor : Sensor) : Statement (.alarmLevel3 sensor) := of_none rfl
theorem linkTrain (link : Nat) (peer : LinkPeer) : Statement (.linkTrain link peer) := of_none rfl
theorem trainingStepTimeout (link group : Nat) : Statement (.trainingStepTimeout link group) := of_none rfl
theorem circuitCrcFail (link group : Nat) : Statement (.circuitCrcFail link group) := of_none rfl
theorem linkdn (link group : Nat) : Statement (.linkdn link group) := of_none rfl
theorem flitCrcFail (link : Nat) : Statement (.flitCrcFail link) := of_none rfl
theorem rdreq (link : Nat) (f : Flit) : Statement (.rdreq link f) := of_none rfl
theorem rdrsp (link : Nat) (f : Flit) : Statement (.rdrsp link f) := of_none rfl
theorem wrreq (link : Nat) (f : Flit) : Statement (.wrreq link f) := of_none rfl
theorem wrack (link : Nat) (f : Flit) : Statement (.wrack link f) := of_none rfl
theorem atreq (link : Nat) (f : Flit) : Statement (.atreq link f) := of_none rfl
theorem atrsp (link : Nat) (f : Flit) : Statement (.atrsp link f) := of_none rfl
theorem msg (link : Nat) (f : Flit) : Statement (.msg link f) := of_none rfl
theorem msgack (link : Nat) (f : Flit) : Statement (.msgack link f) := of_none rfl
theorem grnreq (link : Nat) (f : Flit) : Statement (.grnreq link f) := of_none rfl
theorem grnrsp (link : Nat) (f : Flit) : Statement (.grnrsp link f) := of_none rfl
theorem rel (link : Nat) (f : Flit) : Statement (.rel link f) := of_none rfl
theorem credit (link : Nat) (f : Flit) : Statement (.credit link f) := of_none rfl
theorem retractComplete (run : Nat) : Statement (.retractComplete run) := of_none rfl
theorem fixbOpenAck (run k : Nat) : Statement (.fixbOpenAck run k) := of_none rfl
theorem configurationLoadComplete (run : Nat) : Statement (.configurationLoadComplete run) := of_none rfl
theorem imageValidationComplete (k : Nat) : Statement (.imageValidationComplete k) := of_none rfl
theorem readoutComplete (run : Nat) : Statement (.readoutComplete run) := of_none rfl
theorem restoreComplete (run : Nat) : Statement (.restoreComplete run) := of_none rfl
theorem freezeArrival (run : Nat) : Statement (.freezeArrival run) := of_none rfl
theorem thawArrival (run : Nat) : Statement (.thawArrival run) := of_none rfl
theorem groupRequestArrival (k : Nat) : Statement (.groupRequestArrival k) := of_none rfl

end Sys2Proof.Laws.Encoding
end

