-- ==== Sys2Proof/Laws/Shared.lean ====
section
/-! SUPPORT. What the operations that many meanings share can do: completing a word, waiting for drains, aborting and freezing a run,
logging, reporting, answering a link. -/

namespace Sys2Proof.Laws

open Sys2Proof.Machine

/-! ## Words -/

/-- A word that issues acts on the run in focus. -/
theorem onWord_of_wordRun {s : State} {r : Run} (h : wordRun s = some r) (body : Run → State) : onWord s body = .next (body r) := by
  unfold wordRun at h
  unfold onWord
  split at h
  · cases h
  · rename_i f hf
    try rw [hf]
    try dsimp only
    split at h
    · cases h
    · rename_i x hx
      split at h
      · rename_i hi
        cases h
        try rw [hx]
        simp [hi]
      · cases h

/-- A word that is not the last completes: SQC moves on by one. -/
theorem complWord_next {s : State} {r : Run} (h : r.esc.sqc + 1 < (s.seqOf r).length) (f : Run → Run) :
    s.complWord r f = s.setRun ((f r).setSqc (r.esc.sqc + 1)) := by
  unfold State.complWord; rw [if_pos h]

/-- The last word raises SEQRANGE instead. -/
theorem complWord_last {s : State} {r : Run} (h : (s.seqOf r).length ≤ r.esc.sqc + 1) (f : Run → Run) :
    s.complWord r f = s.trapWord r.id .seqrange := by
  unfold State.complWord; rw [if_neg (by omega)]

/-! ## Aborting and freezing -/

theorem dropWaves_mem (s : State) (b : BlkRef) (k : Nat) : (s.dropWaves b k).mem = s.mem := rfl
theorem dropWaves_eng (s : State) (b : BlkRef) (k : Nat) : (s.dropWaves b k).eng = s.eng := rfl
/-- Only the credits of ingress ports change. -/
theorem dropWaves_adm (s : State) (b : BlkRef) (k : Nat) :
    { (s.dropWaves b k).adm with ports := [] } = { s.adm with ports := [] } := rfl
theorem dropWaves_chip (s : State) (b : BlkRef) (k : Nat) : (s.dropWaves b k).chip = s.chip := rfl

/-- A fold keeps what each of its steps keeps. -/
theorem foldl_keeps {α β : Type} {g : State → β} {f : State → α → State} (hf : ∀ s x, g (f s x) = g s) : ∀ (l : List α) (s : State),
    g (l.foldl f s) = g s
  | [], _ => rfl
  | x :: l, s => (foldl_keeps hf l (f s x)).trans (hf s x)

theorem abortRun_mem (s : State) (k : Nat) : (s.abortRun k).mem = s.mem := by
  unfold State.abortRun
  exact foldl_keeps (g := State.mem) (fun s b => dropWaves_mem s b _) _ s
theorem abortRun_eng (s : State) (k : Nat) : (s.abortRun k).eng = s.eng := by
  unfold State.abortRun
  exact foldl_keeps (g := State.eng) (fun s b => dropWaves_eng s b _) _ s
theorem abortRun_adm (s : State) (k : Nat) : { (s.abortRun k).adm with ports := [] } = { s.adm with ports := [] } := by
  unfold State.abortRun
  exact foldl_keeps (g := fun s => { s.adm with ports := [] }) (fun s b => dropWaves_adm s b _) _ s
theorem abortRun_chip (s : State) (k : Nat) : (s.abortRun k).chip = s.chip := by
  unfold State.abortRun
  exact foldl_keeps (g := State.chip) (fun s b => dropWaves_chip s b _) _ s

theorem freeze_mem (s : State) (k : Nat) (h : Hold) : (s.freeze k h).mem = s.mem := abortRun_mem s k
theorem freeze_eng (s : State) (k : Nat) (h : Hold) : (s.freeze k h).eng = s.eng := abortRun_eng s k
theorem freeze_adm (s : State) (k : Nat) (h : Hold) : { (s.freeze k h).adm with ports := [] } = { s.adm with ports := [] } :=
  abortRun_adm s k
theorem freeze_chip (s : State) (k : Nat) (h : Hold) : (s.freeze k h).chip = s.chip := abortRun_chip s k

/-! ## Requests of other modules -/

/-- A flit that this module does not receive changes nothing. -/
theorem serve_other {s : State} {k : Nat} {f : Flit} (h : s.receives k f = false) (reply : Byte) (kind : FlitKind) (n : Nat) (go : State → State) :
    s.serve k f reply kind n go = s := by
  unfold State.serve; simp [h]

/-- A quarantined or locked link answers DENIED with reason 5. -/
theorem serve_shut {s : State} {k : Nat} {f : Flit} {l : Link} (h : s.receives k f = true) (hl : s.link? k = some l)
    (hs : (linkQuar l.stat || linkLock l.stat) = true) (reply : Byte) (kind : FlitKind) (n : Nat) (go : State → State) :
    s.serve k f reply kind n go = s.replyFlit reply f 2 5 0 0 := by
  unfold State.serve; simp [h, hl, hs]

/-- A request that passes its checks is served. -/
theorem serve_go {s : State} {k : Nat} {f : Flit} {l : Link} {kind : FlitKind} {n : Nat} (h : s.receives k f = true) (hl : s.link? k = some l)
    (hs : (linkQuar l.stat || linkLock l.stat) = false) (hg : s.grantCheck f kind n = 0) (reply : Byte) (go : State → State) :
    s.serve k f reply kind n go = go s := by
  unfold State.serve; simp [h, hl, hs, hg]

/-- A reply whose tag is out frees the tag and goes to what asked. -/
theorem reply_go {s : State} {k : Nat} {f : Flit} {t : Tag} (h : s.receives k f = true)
    (ht : (s.chip.tags.find? fun t => t.tag == f.tag.toNat && t.modn == f.src.toNat) = some t) (go : Tag → State → State) :
    s.reply k f go = go t { s with chip := { s.chip with tags := s.chip.tags.erase t } } := by
  unfold State.reply; simp [h, ht]

end Sys2Proof.Laws
end

