-- ==== Sys2Proof/Tests/Slice0.lean ====
section
/-! SUPPORT. The model's own tests: words of the spec, ill-formed words, and for every statement with hypotheses a concrete state
that meets them. -/

namespace Sys2Proof.Tests

open Sys2Proof Sys2Proof.Machine Sys2Proof.Laws

-- The kernel evaluates each test in turn: waiting proofs would hold a thread and its stack each.
set_option Elab.async false

/-! ## Small states -/

/-- A block of words under channel-map bytes, with a pool. -/
def blk (ws : List W64) (cmap : List Byte) (pool : List W64) : Blk :=
  ⟨0, ws, cmap, pool, 0, 0, ws.map fun w => initElem (w.extractLsb' 56 8).toNat (w.extractLsb' 20 2) (w.extractLsb' 0 20),
    0, 0, none⟩

/-- Channels of the tests: ch0 INT32, ch1 FP32, ch2 INT8 with scale 1, ch3 UINT32, ch4 BF16, ch5 FP8E4 coded under table 0, ch6 FP8E4. -/
def chans : List W32 := [9, 0, 7, 11, 2, 5, 3] ++ List.replicate 25 0

/-- Block `b` as the only running configuration of a resident run 0, element 0 of it in focus. -/
def st (b : Blk) : State :=
  { State.reset with
    focus := some ⟨0, some ⟨0, 0, 0, 0, 0⟩⟩
    cycle := 10
    runs := [{ placedRun with p0 := { Plane.empty with loads :=
      [{ placedLoad 0 with chans := chans, ctabs := List.replicate 8 0x1000_0000_0000_0000, blks := [b] }] } }] }

/-- Tokens on the inputs of element 0. -/
def feed (b : Blk) (qs : List (List Token)) : Blk := { b with elems := modAt (fun e => { e with q := qs ++ e.q.drop qs.length }) b.elems 0 }

/-- Operation state of element 0. -/
def withCtl (b : Blk) (c : Ctl) : Blk := { b with elems := modAt (fun e => { e with ctl := c }) b.elems 0 }

def it (n : Int) : Token := scalarTok (BitVec.ofInt 32 n) .data 0

/-- A consumer: IDX 1, IN 0, four slots. -/
def c1 : Option Con := some ⟨1, 0, 4⟩

/-- A fabric word and its consumer SINK at element 1, each at tile 0. -/
def pair (i : Instr) : List W64 := [(encode i).getD 0, 0x4F02_0000_0000_0000]

/-- Checks that the hypotheses `g` of a statement are met in a state, and its conclusion there. -/
def meets (i : Instr) (s : State) (g : FireIn → Option State) : Bool :=
  match firingOf i s with
  | none => false
  | some x => match g x with
    | none => false
    | some t => match exec i s with
      | .next u => u == t
      | _ => false

theorem meets_spec {i : Instr} {s : State} {g : FireIn → Option State} (h : meets i s g = true) :
    ∃ x t, firingOf i s = some x ∧ g x = some t ∧ exec i s = .next t := by
  unfold meets at h
  split at h
  · cases h
  · rename_i x hx
    split at h
    · cases h
    · rename_i t ht
      split at h
      · rename_i u hu
        exact ⟨x, t, hx, ht, by rw [hu, eq_of_beq h]⟩
      · cases h

/-! ## Witnesses: the scalar ALU -/

/-- A fabric word's fields: cell site 0 of tile 0, consumer SINK. -/
def fb (md : BitVec 2) (imm : BitVec 20) : Fab := ⟨0, 0, c1, none, md, imm⟩

/-- A state whose element 0 is the instruction, fed with these queues, channels ch0 on both elements. -/
def one (i : Instr) (qs : List (List Token)) : State := st (feed (blk (pair i) [0, 0] []) qs)
def oneP (i : Instr) (pool : List W64) (qs : List (List Token)) : State := st (feed (blk (pair i) [0, 0] pool) qs)
def oneC (i : Instr) (c : Ctl) (qs : List (List Token)) : State := st (withCtl (feed (blk (pair i) [0, 0] []) qs) c)

def psn (m : Mark) : Token := poisonTok false m 0
def skip (n : Nat) (t : Token) : Token := { t with skip := n }
def mk (m : Mark) (t : Token) : Token := { t with mark := m }
def eos : Token := eosTok false 0

theorem witness_BinaryAluResult : meets (.add (fb 0 5)) (one (.add (fb 0 5)) [[it 7]]) (fun x =>
    if x.heads x.ins = some [.tok (it 7)] then
      let r := scalarTok (x.rc.encodeInt (BitVec.ofInt 32 (7 + 5))) .data x.rcNo
      x.fireAct (.add (fb 0 5)) { elem := x.elem.pops x.ins, emits := x.all fun k => .tok k r }
    else none) = true := by decide +kernel

theorem witness_BinaryAluResult_two : meets (.div (fb 1 0)) (one (.div (fb 1 0)) [[it 7], [mk .last (it 0)]]) (fun x =>
    if x.heads x.ins = some [.tok (it 7), .tok (mk .last (it 0))] then
      let r := scalarTok (x.rc.encodeInt (BitVec.ofInt 32 (-1))) .last x.rcNo
      x.fireAct (.div (fb 1 0)) { elem := x.elem.pops x.ins, emits := x.all fun k => .tok k r }
    else none) = true := by decide +kernel

theorem witness_UnaryAlu : meets (.clz (fb 0 0)) (one (.clz (fb 0 0)) [[it 1]]) (fun x =>
    if x.heads [0] = some [.tok (it 1)] then
      let r := scalarTok (x.rc.encodeInt 31) .data x.rcNo
      x.fireAct (.clz (fb 0 0)) { elem := x.elem.pop 0, emits := x.all fun k => .tok k r }
    else none) = true := by decide +kernel

theorem witness_Agen : meets (.agen (fb 1 2)) (oneP (.agen (fb 1 2)) [100] [[it 3], [it 10]]) (fun x =>
    if x.heads x.ins = some [.tok (it 3), .tok (it 10)] then
      let r := scalarTok (x.rc.encodeInt 122) .data x.rcNo
      x.fireAct (.agen (fb 1 2)) { elem := x.elem.pops x.ins, emits := x.all fun k => .tok k r }
    else none) = true := by decide +kernel

theorem witness_operand_b : (FireIn.opB ⟨State.reset, ⟨0, 0, 0, 0, 0⟩, ⟨placedRun, placedLoad 0, placedBlk 0, initElem 0 0 0, 0⟩,
    fb 0 0xFFFFF, 0x20⟩ (some 3)) = 0xFFFFFFFF := by decide +kernel

theorem witness_AluPoison : meets (.mul (fb 1 0)) (one (.mul (fb 1 0)) [[psn .last], [it 2]]) (fun x =>
    if x.heads x.ins = some [.tok (psn .last), .tok (it 2)] then
      x.fireAct (.mul (fb 1 0)) { elem := x.elem.pops x.ins, emits := x.all fun k => .tok k (poisonTok false .last x.rcNo) }
    else none) = true := by decide +kernel

theorem witness_AluEnd : meets (.agen (fb 1 0)) (oneP (.agen (fb 1 0)) [0] [[eos], [eos]]) (fun x =>
    if x.heads x.ins = some [.tok eos, .tok eos] then
      x.fireAct (.agen (fb 1 0)) { elem := { x.elem.pops x.ins with ended := true }, emits := x.all fun k => .tok k (eosTok false x.rcNo) }
    else none) = true := by decide +kernel

theorem witness_AluMarkskew : meets (.sub (fb 1 0)) (one (.sub (fb 1 0)) [[eos], [it 1]]) (fun x =>
    if x.heads x.ins = some [.tok eos, .tok (it 1)] then some (x.s.takeTrap 0 .markskew (x.info .markskew)) else none) = true := by
  decide +kernel

theorem witness_AluElided : meets (.and (fb 1 0)) (one (.and (fb 1 0)) [[skip 3 (it 1)], [skip 2 (it 1)]]) (fun x =>
    if x.heads x.ins = some [.elided, .elided] then
      x.fireAct (.and (fb 1 0)) { elem := [0, 1].foldl (fun e k => e.setQueue k (popElided 2 (e.queue k))) x.elem
                                  emits := x.all fun k => .elide k 2 false x.rcNo }
    else none) = true := by decide +kernel

/-! ## Witnesses: routing, generators, accumulators -/

theorem witness_Steer : meets (.steer (fb 0 0)) (one (.steer (fb 0 0)) [[it 5], [psn .data]]) (fun x =>
    if x.heads [0, 1] = some [.tok (it 5), .tok (psn .data)] then
      x.fireAct (.steer (fb 0 0)) { elem := (x.elem.pop 0).pop 1, emits := [x.forward true (.tok (it 5)) 0] } else none) = true := by
  decide +kernel

theorem witness_Merge : meets (.merge (fb 0 0)) (one (.merge (fb 0 0)) [[], [it 5], [it 1]]) (fun x =>
    if x.elem.ctl = .merge none ∧ x.avail 2 = some (.tok (it 1)) ∧ x.avail 1 = some (.tok (it 5)) then
      x.fireAct (.merge (fb 0 0)) { elem := { (x.elem.pop 2).pop 1 with ctl := .merge none }
                                    emits := x.all fun o => x.forward false (.tok (it 5)) o } else none) = true := by decide +kernel

theorem witness_Merge_waits : meets (.merge (fb 0 0)) (one (.merge (fb 0 0)) [[], [], [it 1]]) (fun x =>
    if x.elem.ctl = .merge none ∧ x.avail 2 = some (.tok (it 1)) ∧ x.avail 1 = none ∧ x.blk.tx = false then
      x.fireAct (.merge (fb 0 0)) { elem := { x.elem.pop 2 with ctl := .merge (some (1, false)) } } else none) = true := by
  decide +kernel

theorem witness_Merge_chosen : meets (.merge (fb 0 0)) (oneC (.merge (fb 0 0)) (.merge (some (0, true))) [[it 4]]) (fun x =>
    if x.elem.ctl = .merge (some (0, true)) ∧ x.avail 0 = some (.tok (it 4)) then
      x.fireAct (.merge (fb 0 0)) { elem := { x.elem.pop 0 with ctl := .merge none }
                                    emits := x.all fun o => x.forward true (.tok (it 4)) o } else none) = true := by decide +kernel

theorem witness_Cmerge : meets (.cmerge (fb 0 0)) (one (.cmerge (fb 0 0)) [[it 4], [it 5]]) (fun x =>
    if x.elem.ctl = .cmerge true [] ∧ x.avail 0 = some (.tok (it 4)) then
      x.fireAct (.cmerge (fb 0 0)) { elem := { x.elem.pop 0 with ctl := .cmerge false [] }
                                     emits := x.all fun o => x.forward false (.tok (it 4)) o } else none) = true := by decide +kernel

theorem witness_Copy : meets (.copy (fb 0 0)) (one (.copy (fb 0 0)) [[eos]]) (fun x =>
    if x.avail 0 = some (.tok eos) then
      x.fireAct (.copy (fb 0 0)) { elem := { x.elem.pop 0 with ended := true }
                                   emits := x.all fun o => x.forward false (.tok eos) o } else none) = true := by decide +kernel

theorem witness_Gate_open : meets (.gate (fb 0 0)) (oneC (.gate (fb 0 0)) (.gate true 1 false) [[mk .last (it 4)]]) (fun x =>
    if x.elem.ctl = .gate true 1 false ∧ x.avail 0 = some (.tok (mk .last (it 4))) then
      x.fireAct (.gate (fb 0 0)) { elem := { x.elem.pop 0 with ctl := .gate false 0 false }
                                   emits := x.all fun o => x.forward false (.tok (mk .last (it 4))) o } else none) = true := by
  decide +kernel

theorem witness_Gate_permit : meets (.gate (fb 1 0)) (one (.gate (fb 1 0)) [[it 4], [it 2]]) (fun x =>
    if x.elem.ctl = .gate false 0 false ∧ x.avail 0 = some (.tok (it 4)) ∧ x.avail 1 = some (.tok (it 2)) ∧ x.ival (.tok (it 2)) = 2 then
      x.fireAct (.gate (fb 1 0)) { elem := { (x.elem.pop 1).pop 0 with ctl := .gate true 1 false }
                                   emits := x.all fun o => x.forward false (.tok (it 4)) o } else none) = true := by decide +kernel

theorem witness_Gate_eos : meets (.gate (fb 0 0)) (one (.gate (fb 0 0)) [[eos], [it 1]]) (fun x =>
    if x.elem.ctl = .gate false 0 false ∧ x.avail 0 = some (.tok eos) then
      x.fireAct (.gate (fb 0 0)) { elem := { x.elem.pop 0 with ctl := .gate false 0 true }
                                   emits := x.all fun o => x.forward false (.tok eos) o } else none) = true := by decide +kernel

theorem witness_Gate_discards : meets (.gate (fb 0 0)) (oneC (.gate (fb 0 0)) (.gate false 0 true) [[], [it 1]]) (fun x =>
    if x.elem.ctl = .gate false 0 true ∧ x.avail 1 = some (.tok (it 1)) then
      x.fireAct (.gate (fb 0 0)) { elem := x.elem.pop 1 } else none) = true := by decide +kernel

theorem witness_Constk : meets (.constk (fb 0 0x400)) (oneP (.constk (fb 0 0x400)) [5, 6] []) (fun x =>
    if x.elem.ctl = .count 0 false ∧ x.elem.ended = false then
      x.fireAct (.constk (fb 0 0x400)) { elem := { x.elem with ctl := .count 1 true, ended := false }
                                         emits := x.all fun k => .tok k (constTok x 0) } else none) = true := by decide +kernel

theorem witness_Constk_go : meets (.constk (fb 1 0x400)) (oneP (.constk (fb 1 0x400)) [5, 6] [[it 0]]) (fun x =>
    if x.elem.ctl = .count 0 false ∧ x.avail 0 = some (.tok (it 0)) then
      x.fireAct (.constk (fb 1 0x400)) { elem := { x.elem.pop 0 with ctl := .count 1 true, ended := false }
                                         emits := x.all fun k => .tok k (constTok x 0) } else none) = true := by decide +kernel

theorem witness_Ctr : meets (.ctr (fb 0 3)) (oneC (.ctr (fb 0 3)) (.ctr (some ⟨2, 3, .last⟩) 1 false) []) (fun x =>
    if x.elem.ctl = .ctr (some ⟨2, 3, .last⟩) 1 false ∧ x.elem.ended = false then
      x.fireAct (.ctr (fb 0 3)) { elem := { x.elem with ctl := .ctr none 1 false, ended := false }
                                  emits := x.all fun k => .tok k (scalarTok (x.rc.encodeInt 2) .last x.rcNo) } else none) = true := by
  decide +kernel

theorem witness_Ctr_go : meets (.ctr (fb 2 0)) (one (.ctr (fb 2 0)) [[mk .last (it 1)]]) (fun x =>
    if x.elem.ctl = .ctr none 0 false ∧ x.avail 0 = some (.tok (mk .last (it 1))) then
      x.fireAct (.ctr (fb 2 0)) { elem := { x.elem.pop 0 with ctl := .ctr none 0 false, ended := false }
                                  emits := x.all fun k => .tok k (scalarTok (x.rc.encodeInt 0) .last2 x.rcNo) } else none) = true := by
  decide +kernel

theorem witness_CtrRoot : meets (.ctrRoot (fb 3 0)) (one (.ctrRoot (fb 3 0)) []) (fun x =>
    if x.elem.ctl = .ctr none 0 false ∧ x.load.iters = 1 then
      x.fireAct (.ctrRoot (fb 3 0)) { elem := { x.elem with ctl := .ctr none 1 false, ended := false }
                                      emits := x.all fun k => .tok k (scalarTok (x.rc.encodeInt 0) .last x.rcNo) } else none) = true := by
  decide +kernel

theorem witness_Drop : meets (.drop (fb 0 0)) (oneC (.drop (fb 0 0)) (.count 4 false) [[mk .last2 (it 9)]]) (fun x =>
    if x.elem.ctl = .count 4 false ∧ x.avail 0 = some (.tok (mk .last2 (it 9))) then
      x.fireAct (.drop (fb 0 0)) { elem := { x.elem.pop 0 with ctl := .count 0 false }
                                   emits := x.all fun k => .tok k (scalarTok (x.rc.encodeInt 5) .last2 x.rcNo) } else none) = true := by
  decide +kernel

theorem witness_Sink : meets (.sink ⟨0, 0, none, none, 0, 0⟩) (one (.sink ⟨0, 0, none, none, 0, 0⟩) [[it 1]]) (fun x =>
    if x.avail 0 = some (.tok (it 1)) then
      x.fireAct (.sink ⟨0, 0, none, none, 0, 0⟩) { elem := x.elem.pop 0 } else none) = true := by decide +kernel

theorem witness_SinkEsc : meets (.sinkEsc ⟨0, 0, none, none, 1, 7⟩) (one (.sinkEsc ⟨0, 0, none, none, 1, 7⟩) [[skip 1 (it 1)]]) (fun x =>
    if x.avail 0 = some .elided ∧ (x.run.esc.e.getD 7 []).length + x.s.heldOut x.ref.run 7 < 4 then
      x.fireAct (.sinkEsc ⟨0, 0, none, none, 1, 7⟩) { elem := x.elem.pop 0, eff := x.sendOut 7 (scalarTok 0 .data x.rcNo) }
    else none) = true := by decide +kernel

theorem witness_Acc_folds : meets (.accmax (fb 0 0)) (oneC (.accmax (fb 0 0)) (.accum 0 false false) [[it (-3)]]) (fun x =>
    if x.elem.ctl = .accum 0 false false ∧ x.avail 0 = some (.tok (it (-3))) then
      x.fireAct (.accmax (fb 0 0)) { elem := { x.elem.pop 0 with ctl := .accum (BitVec.ofInt 32 (-3)) true false } } else none)
    = true := by decide +kernel

theorem witness_Acc_flushes : meets (.acc (fb 0 0)) (oneC (.acc (fb 0 0)) (.accum 10 true false) [[mk .last (it 5)]]) (fun x =>
    if x.elem.ctl = .accum 10 true false ∧ x.avail 0 = some (.tok (mk .last (it 5))) then
      let r := scalarTok (x.rc.encodeInt 15) .last x.rcNo
      x.fireAct (.acc (fb 0 0)) { elem := { x.elem.pop 0 with ctl := .accum 0 false false }
                                  emits := x.all fun o => .tok o r } else none) = true := by decide +kernel

theorem witness_Acc_eos : meets (.accmin (fb 2 0)) (oneC (.accmin (fb 2 0)) (.accum 10 true false) [[eos]]) (fun x =>
    if x.elem.ctl = .accum 10 true false ∧ x.avail 0 = some (.tok eos) then
      let r := scalarTok (x.rc.encodeInt 10) .data x.rcNo
      x.fireAct (.accmin (fb 2 0)) { elem := { x.elem with ctl := .accum 0 false false }
                                     emits := x.all fun o => .tok o r } else none) = true := by decide +kernel

theorem witness_Acc_ends : meets (.acc (fb 2 0)) (one (.acc (fb 2 0)) [[eos]]) (fun x =>
    if x.elem.ctl = .accum 0 false false ∧ x.avail 0 = some (.tok eos) then
      x.fireAct (.acc (fb 2 0)) { elem := { x.elem.pop 0 with ended := true }
                                  emits := x.all fun o => .tok o (eosTok false x.rcNo) } else none) = true := by decide +kernel

def oneCP (i : Instr) (pool : List W64) (c : Ctl) (qs : List (List Token)) : State := st (withCtl (feed (blk (pair i) [0, 0] pool) qs) c)

theorem witness_Constk_ends : meets (.constk (fb 0 0x400)) (oneCP (.constk (fb 0 0x400)) [5, 6] (.count 2 false) []) (fun x =>
    if x.elem.ctl = .count 2 false ∧ x.elem.ended = false ∧ fld x.f.imm 19 10 + 1 = 2 then
      x.fireAct (.constk (fb 0 0x400)) { elem := { x.elem with ended := true }, emits := x.all fun k => .tok k (eosTok false x.rcNo) }
    else none) = true := by decide +kernel

theorem witness_Constk_goEnds : meets (.constk (fb 1 0x400)) (oneP (.constk (fb 1 0x400)) [5, 6] [[eos]]) (fun x =>
    if x.elem.ctl = .count 0 false ∧ x.avail 0 = some (.tok eos) then
      x.fireAct (.constk (fb 1 0x400)) { elem := { x.elem.pop 0 with ended := true }, emits := x.all fun k => .tok k (eosTok false x.rcNo) }
    else none) = true := by decide +kernel

theorem witness_CtrRoot_ends : meets (.ctrRoot (fb 3 0)) (oneC (.ctrRoot (fb 3 0)) (.ctr none 1 false) []) (fun x =>
    if x.elem.ctl = .ctr none 1 false ∧ x.elem.ended = false then
      x.fireAct (.ctrRoot (fb 3 0)) { elem := { x.elem with ended := true }, emits := x.all fun k => .tok k (eosTok false x.rcNo) }
    else none) = true := by decide +kernel

theorem witness_Ctr_goEnds : meets (.ctr (fb 1 3)) (one (.ctr (fb 1 3)) [[mk .eot eos]]) (fun x =>
    if x.elem.ctl = .ctr none 0 false ∧ x.avail 0 = some (.tok (mk .eot eos)) then
      x.fireAct (.ctr (fb 1 3)) { elem := { x.elem.pop 0 with ended := false }
                                  emits := x.all fun k => .tok k { eosTok false x.rcNo with mark := .eot } } else none) = true := by decide +kernel

theorem witness_Ctr_goZero : meets (.ctr (fb 2 0)) (one (.ctr (fb 2 0)) [[it (-1)]]) (fun x =>
    if x.elem.ctl = .ctr none 0 false ∧ x.avail 0 = some (.tok (it (-1))) ∧ (x.ival (.tok (it (-1)))).toInt.toNat = 0 then
      x.fireAct (.ctr (fb 2 0)) { elem := x.elem.pop 0 } else none) = true := by decide +kernel

theorem witness_Ctr_goPoison : meets (.ctr (fb 2 0)) (one (.ctr (fb 2 0)) [[psn .last]]) (fun x =>
    if x.elem.ctl = .ctr none 0 false ∧ x.avail 0 = some (.tok (psn .last)) then
      x.fireAct (.ctr (fb 2 0)) { elem := x.elem.pop 0, emits := x.all fun k => .tok k (poisonTok false .last x.rcNo) } else none) = true := by
  decide +kernel

theorem witness_Drop_elided : meets (.drop (fb 0 0)) (oneC (.drop (fb 0 0)) (.count 4 false) [[skip 3 (it 9)]]) (fun x =>
    if x.elem.ctl = .count 4 false ∧ x.avail 0 = some .elided ∧ elidedRun (x.elem.queue 0) = 3 then
      x.fireAct (.drop (fb 0 0)) { elem := { x.elem.setQueue 0 [it 9] with ctl := .count 7 false } } else none) = true := by decide +kernel

theorem witness_Drop_data : meets (.drop (fb 0 0)) (oneC (.drop (fb 0 0)) (.count 4 false) [[psn .data]]) (fun x =>
    if x.elem.ctl = .count 4 false ∧ x.avail 0 = some (.tok (psn .data)) then
      x.fireAct (.drop (fb 0 0)) { elem := { x.elem.pop 0 with ctl := .count 5 true } } else none) = true := by decide +kernel

theorem witness_Drop_ctrl : meets (.drop (fb 0 0)) (oneC (.drop (fb 0 0)) (.count 4 false) [[mk .ctrl (it 9)]]) (fun x =>
    if x.elem.ctl = .count 4 false ∧ x.avail 0 = some (.tok (mk .ctrl (it 9))) then
      x.fireAct (.drop (fb 0 0)) { elem := x.elem.pop 0 } else none) = true := by decide +kernel

theorem witness_Drop_end : meets (.drop (fb 0 0)) (oneC (.drop (fb 0 0)) (.count 4 false) [[eos]]) (fun x =>
    if x.elem.ctl = .count 4 false ∧ x.avail 0 = some (.tok eos) then
      x.fireAct (.drop (fb 0 0)) { elem := { x.elem.pop 0 with ended := true }, emits := x.all fun k => .tok k (eosTok false x.rcNo) }
    else none) = true := by decide +kernel

/-- Its E input is full: the element does not fire. -/
theorem witness_SinkEsc_full :
    let i : Instr := .sinkEsc ⟨0, 0, none, none, 1, 7⟩
    let s := one i [[it 1]]
    meets i { s with runs := s.runs.map fun r => { r with esc := { r.esc with e := setAt r.esc.e 7 (List.replicate 4 (it 0)) } } } (fun x =>
      if x.avail 0 = some (.tok (it 1)) ∧ 4 ≤ (x.run.esc.e.getD 7 []).length + x.s.heldOut x.ref.run 7 then some x.s else none) = true := by
  decide +kernel

theorem witness_Acc_elided : meets (.acc (fb 0 0)) (oneC (.acc (fb 0 0)) (.accum 0 false false) [[skip 2 (it 5)]]) (fun x =>
    if x.elem.ctl = .accum 0 false false ∧ x.elem.queue 0 = [skip 2 (it 5)] then
      x.fireAct (.acc (fb 0 0)) { elem := { x.elem.setQueue 0 [it 5] with ctl := .accum 0 true false } } else none) = true := by
  decide +kernel

theorem witness_Acc_ctrl : meets (.accmin (fb 0 0)) (oneC (.accmin (fb 0 0)) (.accum 3 true false) [[mk .steer (it 5)]]) (fun x =>
    if x.elem.ctl = .accum 3 true false ∧ x.elem.queue 0 = [mk .steer (it 5)] then
      x.fireAct (.accmin (fb 0 0)) { elem := x.elem.pop 0 } else none) = true := by decide +kernel

theorem witness_Acc_poison : meets (.acc (fb 0 0)) (oneC (.acc (fb 0 0)) (.accum 3 true false) [[psn .data]]) (fun x =>
    if x.elem.ctl = .accum 3 true false ∧ x.elem.queue 0 = [psn .data] then
      x.fireAct (.acc (fb 0 0)) { elem := { x.elem.pop 0 with ctl := .accum 3 true true } } else none) = true := by decide +kernel

theorem witness_Acc_poisonFlushes : meets (.acc (fb 0 0)) (oneC (.acc (fb 0 0)) (.accum 3 true false) [[psn .last2]]) (fun x =>
    if x.elem.ctl = .accum 3 true false ∧ x.elem.queue 0 = [psn .last2] then
      x.fireAct (.acc (fb 0 0)) { elem := { x.elem.pop 0 with ctl := .accum 0 false false }
                                  emits := x.all fun o => .tok o (poisonTok false .last2 x.rcNo) } else none) = true := by decide +kernel

theorem witness_Acc_eot : meets (.acc (fb 0 0)) (oneC (.acc (fb 0 0)) (.accum 3 true false) [[mk .eot eos]]) (fun x =>
    if x.elem.ctl = .accum 3 true false ∧ x.elem.queue 0 = [mk .eot eos] then
      x.fireAct (.acc (fb 0 0)) { elem := { x.elem.pop 0 with ended := false }
                                  emits := x.all fun o => .tok o { eosTok false x.rcNo with mark := .eot } } else none) = true := by
  decide +kernel

theorem witness_Cmerge_ends : meets (.cmerge (fb 0 0)) (oneC (.cmerge (fb 0 0)) (.cmerge false [0]) [[], [eos]]) (fun x =>
    if x.elem.ctl = .cmerge false [0] ∧ x.avail 1 = some (.tok eos) then
      x.fireAct (.cmerge (fb 0 0)) { elem := { x.elem.pop 1 with ctl := .cmerge false [1, 0], ended := true }
                                     emits := x.all fun o => .tok o (eosTok false x.rcNo) } else none) = true := by decide +kernel

theorem witness_Cmerge_closes : meets (.cmerge (fb 0 0)) (one (.cmerge (fb 0 0)) [[eos]]) (fun x =>
    if x.elem.ctl = .cmerge true [] ∧ x.avail 0 = some (.tok eos) ∧ x.avail 1 = none then
      x.fireAct (.cmerge (fb 0 0)) { elem := { x.elem.pop 0 with ctl := .cmerge true [0] } } else none) = true := by decide +kernel

/-! ## Witnesses: the vector pipe -/

/-- Vector fields: V site of tile 0. -/
def fv (md : BitVec 2) (imm : BitVec 20) : Fab := ⟨0, 9, c1, none, md, imm⟩

def oneV (i : Instr) (ch : Byte) (pool : List W64) (c : Option Ctl) (qs : List (List Token)) : State :=
  let b := feed (blk (pair i) [ch, ch] pool) qs
  st (match c with
    | none => b
    | some c => withCtl b c)

/-- A vector token of sixteen equal lanes with lane 3 masked. -/
def vt (w : W32) (m : Mark) (ch : Nat) : Token := vecTok (packLanes ((List.range 16).map fun i => if i = 3 then 0 else w)) 0xFFF7 m ch

theorem witness_VectorLane : meets (.vmax (fv 0 0)) (oneV (.vmax (fv 0 0)) 0 [] none [[vt 5 .data 0], [vt 7 .last 0]])
    (fun x =>
    if x.heads x.ins = some [.tok (vt 5 .data 0), .tok (vt 7 .last 0)] then
      let args := x.vargs x.ins [.tok (vt 5 .data 0), .tok (vt 7 .last 0)]
      x.fireAct (.vmax (fv 0 0)) (vecResult x (x.elem.pops x.ins) .last
        (laneWise args (lane2 XVal.max maxW x (args.map (·.ch))))) else none) = true := by
  decide +kernel

/-- 1.0 + 1.0 under FP32 is 2.0 in every lane that both operands have. -/
theorem test_Vadd_float : (firingOf (.vadd (fv 0 0))
      (oneV (.vadd (fv 0 0)) 1 [] none [[vt 0x3F800000 .data 1], [vt 0x3F800000 .last 1]])).map (fun x =>
    (lane2 XVal.add (fun _ a b => a + b) x [x.rc, x.rc] [some 0x3F800000, some 0x3F800000]).map (·.1)) = some (some 0x40000000) := by
  decide +kernel

theorem witness_VectorPoison : meets (.vexp2 (fv 0 0)) (oneV (.vexp2 (fv 0 0)) 1 [] none [[poisonTok true .last2 1]]) (fun x =>
    if x.heads x.ins = some [.tok (poisonTok true .last2 1)] then
      x.fireAct (.vexp2 (fv 0 0)) { elem := x.elem.pops x.ins, emits := x.all fun k => .tok k (poisonTok true .last2 x.rcNo) }
    else none) = true := by decide +kernel

theorem witness_VectorEnd : meets (.vcvt (fv 0 0)) (oneV (.vcvt (fv 0 0)) 1 [] none [[eosTok true 1]]) (fun x =>
    if x.heads x.ins = some [.tok (eosTok true 1)] then
      x.fireAct (.vcvt (fv 0 0)) { elem := { x.elem.pops x.ins with ended := true }
                                   emits := x.all fun k => .tok k (eosTok true x.rcNo) } else none) = true := by decide +kernel

theorem witness_VectorMarkskew : meets (.vmin (fv 0 0)) (oneV (.vmin (fv 0 0)) 1 [] none [[eosTok true 1], [vt 0 .data 1]]) (fun x =>
    if x.heads x.ins = some [.tok (eosTok true 1), .tok (vt 0 .data 1)] then some (x.s.takeTrap 0 .markskew (x.info .markskew))
    else none) = true := by decide +kernel

theorem witness_VectorElided : meets (.vmul (fv 0 0)) (oneV (.vmul (fv 0 0)) 1 [] none [[skip 4 (vt 0 .data 1)], [skip 2 (vt 0 .data 1)]])
    (fun x => if x.heads x.ins = some [.elided, .elided] then
      x.fireAct (.vmul (fv 0 0)) { elem := [0, 1].foldl (fun e k => e.setQueue k (popElided 2 (e.queue k))) x.elem
                                   emits := x.all fun k => .elide k 2 true x.rcNo } else none) = true := by decide +kernel

/-- Sixteen result lanes: one present, one underflowed, fourteen masked. -/
theorem witness_VectorLanesAndMask :
    let rs : List LaneRes := [some (5, .exact, 0), some (6, .underflowZero, 0)] ++ List.replicate 14 none
    rs.length = 16 ∧ packMask (rs.map fun r => match r with
      | some (_, .exact, _) => true
      | _ => false) = 1 := by decide +kernel

theorem witness_Vred : meets (.vred (fv 0 0)) (oneV (.vred (fv 0 0)) 1 [] none [[vt 0x3F800000 .data 1]]) (fun x =>
    if x.avail 0 = some (.tok (vt 0x3F800000 .data 1)) then
      let (r, fl) := redTree x .sum (x.varg 0 (.tok (vt 0x3F800000 .data 1)))
      x.fireAct (.vred (fv 0 0)) (redEmit x (x.elem.pop 0) .data r fl) else none) = true := by decide +kernel

theorem witness_Vamax_folds : meets (.vamax (fv 1 0)) (oneV (.vamax (fv 1 0)) 0 [] none [[vt 0xFFFFFFFE .data 0]]) (fun x =>
    if x.avail 0 = some (.tok (vt 0xFFFFFFFE .data 0)) ∧ x.elem.ctl = .fold none false false then
      x.fireAct (.vamax (fv 1 0)) { elem := { x.elem.pop 0 with ctl := .fold (some 2) false false } } else none) = true := by
  decide +kernel

theorem witness_Vredmax_flushes : meets (.vredmax (fv 1 0)) (oneV (.vredmax (fv 1 0)) 0 [] (some (.fold (some 9) false false)) [[vt 4 .last 0]])
    (fun x => if x.avail 0 = some (.tok (vt 4 .last 0)) ∧ x.elem.ctl = .fold (some 9) false false then
      x.fireAct (.vredmax (fv 1 0)) (redEmit x { x.elem.pop 0 with ctl := .fold none false false } .last (some (.inr 9)) 0)
      else none) = true := by decide +kernel

theorem witness_Vscan : meets (.vscan (fv 1 0)) (oneV (.vscan (fv 1 0)) 0 [] (some (.scan (some 100))) [[vt 1 .data 0]]) (fun x =>
    if x.avail 0 = some (.tok (vt 1 .data 0)) ∧ x.elem.ctl = .scan (some 100) then
      let r := scanLanes x (x.load.chan 0) false (some 100) (x.varg 0 (.tok (vt 1 .data 0))).lanes
      if r.1 = some 115 then
        x.fireAct (.vscan (fv 1 0)) (vecResult x { x.elem.pop 0 with ctl := .scan (some 115) } .data r.2) else none
    else none) = true := by decide +kernel

theorem witness_Vmaxr : meets (.vmaxr (fv 0 0)) (oneV (.vmaxr (fv 0 0)) 1 [] none [[vt 0x3F800000 .last 1]]) (fun x =>
    let m := packLanes (List.replicate 16 0xFF800000)
    if x.avail 0 = some (.tok (vt 0x3F800000 .last 1)) ∧ x.elem.ctl = .maxr m then
      let rs := (List.range 16).map fun l => maxrLane x (x.load.chan 1) (lane m l) (argAt (x.varg 0 (.tok (vt 0x3F800000 .last 1))).lanes l)
      x.fireAct (.vmaxr (fv 0 0))
        { elem := { x.elem.pop 0 with ctl := .maxr m }
          emits := x.all fun o => .tok o (vecTok (if o = 0 then packLanes (rs.map (·.2.1.1)) else packLanes (rs.map (·.2.2.1))) 0xFFFF .last x.rcNo)
          flags := rs.foldl (fun a r => a ||| r.2.1.2 ||| r.2.2.2) 0 } else none) = true := by decide +kernel

theorem witness_Vshuf : meets (.vshuf (fv 0 0)) (oneV (.vshuf (fv 0 0)) 0 [] none [[vt 5 .data 0], [vt 6 .last 0]]) (fun x =>
    if x.heads x.ins = some [.tok (vt 5 .data 0), .tok (vt 6 .last 0)] then
      x.fireAct (.vshuf (fv 0 0)) (vecResult x (x.elem.pops x.ins) .last (List.replicate 16 (some (5, .exact, 0)))) else none) = true := by
  decide +kernel

theorem witness_Vpack_holds : meets (.vpackCode (fv 0 0)) (oneV (.vpackCode (fv 0 0)) 5 [] none [[vt 1 .data 6]]) (fun x =>
    if x.elem.ctl = .pack [] ∧ x.avail 0 = some (.tok (vt 1 .data 6)) then
      x.fireAct (.vpackCode (fv 0 0)) { elem := { x.elem.pop 0 with ctl := .pack [.tok (vt 1 .data 6)] } } else none) = true := by
  decide +kernel

/-- A code table whose only symbol is 15, of one bit: blocks of zeros. -/
theorem witness_Vpack_whole : meets (.vpackCode (fv 0 0))
    (st { withCtl (feed (blk (pair (.vpackCode (fv 0 0))) [5, 5] []) [[vt 0 .last 6]]) (.pack [.elided]) with pool := [] }) (fun x =>
    match encodeBlock x.rc.fmt x.rc.ctab (x.load.ctabs.getD x.rc.ctab 0)
        ((packElems .elided ++ packElems (.tok (vt 0 .last 6))).map fun w => (w.getD 0).toNat % 256) with
    | none => none
    | some v => if x.elem.ctl = .pack [.elided] ∧ x.avail 0 = some (.tok (vt 0 .last 6)) then
        x.fireAct (.vpackCode (fv 0 0)) { elem := { x.elem.pop 0 with ctl := .pack [] }
                                          emits := x.all fun k => .tok k (vecTok v 0xFFFF .last x.rcNo) } else none) = true := by
  decide +kernel

theorem witness_VpackRaw_holds : meets (.vpackRaw (fv 1 0)) (oneV (.vpackRaw (fv 1 0)) 0 [] none [[vt 1 .data 4]]) (fun x =>
    if x.elem.ctl = .pack [] ∧ x.avail 0 = some (.tok (vt 1 .data 4)) ∧ 8 * fmtBytes (x.inChan 0).fmt = 16 then
      x.fireAct (.vpackRaw (fv 1 0)) { elem := { x.elem.pop 0 with ctl := .pack [.tok (vt 1 .data 4)] } } else none) = true := by
  decide +kernel

theorem witness_VpackRaw_whole : meets (.vpackRaw (fv 1 0))
    (oneV (.vpackRaw (fv 1 0)) 0 [] (some (.pack [.tok (vt 1 .data 4)])) [[vt 2 .last 4]]) (fun x =>
    if x.elem.ctl = .pack [.tok (vt 1 .data 4)] ∧ x.avail 0 = some (.tok (vt 2 .last 4)) then
      x.fireAct (.vpackRaw (fv 1 0)) (vecResult x { x.elem.pop 0 with ctl := .pack [] } .last
        (packWords 16 (packElems (.tok (vt 1 .data 4)) ++ packElems (.tok (vt 2 .last 4))))) else none) = true := by decide +kernel

theorem witness_Vunpk : meets (.vunpk (fv 0 0)) (oneV (.vunpk (fv 0 0)) 4 [] none [[vt 0x00020001 .last 0]]) (fun x =>
    if x.avail 0 = some (.tok (vt 0x00020001 .last 0)) then
      let part (j : Nat) : List Emit :=
        let ls := (List.range 16).map fun l =>
          if (vt 0x00020001 .last 0).lmask.getLsbD (16 * (16 * j + l) / 32) then
            some (BitVec.ofNat 32 (fld (vt 0x00020001 .last 0).data (16 * (16 * j + l) + 15) (16 * (16 * j + l)))) else none
        x.all fun k => emitVec k (packLanes (ls.map (·.getD 0))) (packMask (ls.map Option.isSome)) (if j + 1 = 2 then .last else .data) x.rcNo
      x.fireAct (.vunpk (fv 0 0)) { elem := x.elem.pop 0, emits := part 0, later := laterItems [part 1] } else none) = true := by
  decide +kernel

/-- ROB descriptor: a window of two, one loop of count 2 and stride 1. -/
def robPool : List W64 := [1, 0x0000_0001_0000_0001]

theorem witness_Rob_fills : meets (.rob (fv 0 0)) (oneV (.rob (fv 0 0)) 0 robPool none [[vt 5 .data 0]]) (fun x =>
    if x.elem.ctl = .rob 0 0 0 0 ∧ x.avail 0 = some (.tok (vt 5 .data 0)) then
      x.fireAct (.rob (fv 0 0)) { elem := { x.elem.pop 0 with ctl := .rob 1 0 0 0 }
                                  eff := x.robStore (0x0000_0001_0000_0001#64 ++ 1#64) 0 0 (.tok (vt 5 .data 0)) } else none) = true := by
  decide +kernel

theorem witness_Rob_emits : meets (.robT (fv 0 0)) (oneV (.robT (fv 0 0)) 0 robPool (some (.rob 0 2 1 0)) []) (fun x =>
    if x.elem.ctl = .rob 0 2 1 0 ∧ x.avail 0 = none then
      x.fireAct (.robT (fv 0 0)) { elem := { x.elem with ctl := .rob 0 0 0 0 }
                                   emits := robOut x true (0x0000_0001_0000_0001#64 ++ 1#64) 1 1 } else none) = true := by
  decide +kernel

theorem witness_Rob_ends : meets (.rob (fv 0 0)) (oneV (.rob (fv 0 0)) 0 robPool none [[eosTok true 0]]) (fun x =>
    if x.elem.ctl = .rob 0 0 0 0 ∧ x.avail 0 = some (.tok (eosTok true 0)) then
      x.fireAct (.rob (fv 0 0)) { elem := { x.elem.pop 0 with ended := true }, emits := x.all fun k => .tok k (eosTok true x.rcNo) }
    else none) = true := by decide +kernel

/-! ## Witnesses: the matrix node -/

/-- As `meets`, for an event at element 0. -/
def meetsAt (j : Instr) (s : State) (g : FireIn → Instr → Option State) : Bool :=
  match driveOf ⟨0, 0, 0, 0, 0⟩ s with
  | none => false
  | some (x, i) => match g x i with
    | none => false
    | some t => match exec j s with
      | .next u => u == t
      | _ => false

theorem meetsAt_spec {j : Instr} {s : State} {g : FireIn → Instr → Option State} (h : meetsAt j s g = true) :
    ∃ x i t, driveOf ⟨0, 0, 0, 0, 0⟩ s = some (x, i) ∧ g x i = some t ∧ exec j s = .next t := by
  unfold meetsAt at h
  split at h
  · cases h
  · rename_i x i hx
    split at h
    · cases h
    · rename_i t ht
      split at h
      · rename_i u hu
        exact ⟨x, i, t, hx, ht, by rw [hu, eq_of_beq h]⟩
      · cases h

def e0 : ElemRef := ⟨0, 0, 0, 0, 0⟩

/-- Matrix fields: M site of tile 0. -/
def fm (md : BitVec 2) (imm : BitVec 20) : Fab := ⟨0, 14, c1, none, md, imm⟩
def ctrl (w : W32) : Token := scalarTok w .ctrl 0
def at4 (w : W32) : Token := scalarTok w .data 4

/-- An operation on BF16 operands at 0 and 0x800 of the store of tile 0, one tile. -/
def op0 : MmaOp := ⟨0, 0xFFFFFFFF, 0, 4, 0x800, 4, false, none, 0⟩
/-- An operation that clears A1. -/
def opZ : MmaOp := ⟨0x80010000, 0xFFFFFFFF, 0, 0, 0, 0, false, none, 0⟩

theorem witness_Mma : meets (.mma (fm 0 0)) (oneV (.mma (fm 0 0)) 0 [] none [[ctrl 0, at4 0, at4 0x800]]) (fun x =>
    if x.elem.ctl = .mma [] none ∧ x.placeFree c1 0 = true ∧ mmaCtrlBad 0 = false
        ∧ firstPos 3 (x.elem.queue 0) = [.tok (ctrl 0), .tok (at4 0), .tok (at4 0x800)] ∧ addrBad 0 (32 * 32 * 2) = false
        ∧ addrBad 0x800 (32 * 32 * 2) = false ∧ mmaClass (x.load.chan 4).fmt = 1 then
      x.fireAct (.mma (fm 0 0)) { elem := { x.elem.pops (List.replicate 3 0) with ctl := .mma [op0] none } } else none) = true := by
  decide +kernel

theorem witness_Mma_clear : meets (.mma (fm 0 0)) (oneV (.mma (fm 0 0)) 0 [] (some (.mma [op0, op0, op0] none)) [[ctrl 0x80010000]]) (fun x =>
    if x.elem.ctl = .mma [op0, op0, op0] none ∧ x.placeFree c1 3 = true ∧ firstPos 1 (x.elem.queue 0) = [.tok (ctrl 0x80010000)] then
      x.fireAct (.mma (fm 0 0)) { elem := { x.elem.pops [0] with ctl := .mma [op0, op0, op0, opZ] none } } else none) = true := by
  decide +kernel

theorem witness_Mopf : meets (.mopf (fm 0 0)) (oneV (.mopf (fm 0 0)) 0 [6, 0x2_0040] none [[vt 7 .data 0]]) (fun x =>
    if x.elem.ctl = .count 0 false ∧ x.avail 0 = some (.tok (vt 7 .data 0)) then
      let bytes := ((Pos.tok (vt 7 .data 0)).lanes.map fun w => natBytes 4 (w.getD 0).toNat).flatten
      x.fireAct (.mopf (fm 0 0)) { elem := { x.elem.pop 0 with ctl := .count 1 false }
                                   eff := fun s => [1, 2].foldl (fun s t => s.bankWrite x.run x.blk.page t 0x40 bytes) s } else none)
    = true := by decide +kernel

theorem witness_Mopf_last : meets (.mopf (fm 0 0)) (oneV (.mopf (fm 0 0)) 0 [6, 0x2_0040] (some (.count 1 false)) [[vt 7 .data 0]])
    (fun x => if x.elem.ctl = .count 1 false ∧ x.avail 0 = some (.tok (vt 7 .data 0)) then
      let bytes := ((Pos.tok (vt 7 .data 0)).lanes.map fun w => natBytes 4 (w.getD 0).toNat).flatten
      x.fireAct (.mopf (fm 0 0)) { elem := { x.elem.pop 0 with ctl := .count 0 false }
                                   emits := x.all fun o => .tok o (scalarTok (BitVec.ofNat 32 (2 ^ 17 + 0x40)) .data x.rcNo)
                                   eff := fun s => [1, 2].foldl (fun s t => s.bankWrite x.run x.blk.page t 0x80 bytes) s } else none)
    = true := by decide +kernel

/-- An operation that clears A1 starts: its words are zeroed. -/
theorem witness_MmaStart : meetsAt (.mmaStart e0) (oneV (.mma (fm 0 0)) 0 [] (some (.mma [opZ] none)) []) (fun x i =>
    if x.elem.ctl = .mma [opZ] none ∧ mmaCandidate x = some 0 ∧ opZ.poisoned = false then
      x.driveAct i
        { elem := { x.elem with ctl := .mma [{ opZ with started := some x.run.cycles, groups := 0 }] (some (x.run.cycles, x.mmaCycles opZ)) }
          eff := fun s => s.putAccs x.ref ((mmaTiles opZ.ctrl).map fun k => mmaZero opZ ((x.run.plane 0).acc 0 x.tile (1 + k))) }
    else none) = true := by decide +kernel

theorem witness_MmaComplete : meetsAt (.mmaComplete e0)
    (let s := oneV (.mma (fm 0 0)) 0 [] (some (.mma [{ opZ with started := some 0 }] (some (0, 2)))) []
     { s with runs := s.runs.map fun r => { r with cycles := 8 } }) (fun x i =>
    if x.elem.ctl = .mma [{ opZ with started := some 0 }] (some (0, 2)) ∧ 0 + x.mmaCycles opZ + 6 ≤ x.run.cycles then
      x.driveAct i { elem := { x.elem with ctl := .mma [] (some (0, 2)) }
                     emits := x.all fun k => .tok k (scalarTok (completionWord 0 0 0 1) .data x.rcNo)
                     flags := (x.mmaForm { opZ with started := some 0 } opZ.all).foldl (fun f r => f ||| r.2) 0
                     eff := fun s => s.putAccs x.ref ((x.mmaForm { opZ with started := some 0 } opZ.all).map (·.1)) } else none) = true := by
  decide +kernel

/-- An MDRAIN of A0 with its consumer and the node that feeds it; the node's state. -/
def drainSt (i : Instr) (mma : Ctl) (c : Ctl) (qs : List (List Token)) : State :=
  let b := blk [(encode i).getD 0, 0x4F02_0000_0000_0000, (encode (.mma ⟨0, 14, some ⟨0, 0, 2⟩, none, 0, 0⟩)).getD 0] [1, 1, 0] [1]
  let b := withCtl (feed b qs) c
  st { b with elems := modAt (fun e => { e with ctl := mma }) b.elems 2 }

def done0 : Token := it 0

theorem witness_Mdrain : meets (.mdrain (fm 0 0)) (drainSt (.mdrain (fm 0 0)) (.mma [] none) (.drain none) [[done0]]) (fun x =>
    let d : Drain := ⟨[0], 0, 0, 1, [], false, false, false, false⟩
    if x.head 0 = some (.tok done0) ∧ routesOf x (.mdrain (fm 0 0)) = [(0, ⟨1, 0, 4⟩)] ∧ drainClaimed x d = false then
      x.fireAct (.mdrain (fm 0 0)) (drainStart x d) else none) = true := by decide +kernel

theorem witness_MdrainAll_pending : meets (.mdrainAll (fm 2 0)) (drainSt (.mdrainAll (fm 2 0)) (.mma [op0] none) (.drain none) [[it 0x10]])
    (fun x =>
    let d : Drain := ⟨[0, 1], 0, 0, 1, [], false, false, false, false⟩
    if x.head 0 = some (.tok (it 0x10)) ∧ routesOf x (.mdrainAll (fm 2 0)) = [(0, ⟨1, 0, 4⟩)] ∧ drainClaimed x d = true ∧ x.elem.ctl = .drain none then
      x.fireAct (.mdrainAll (fm 2 0)) { elem := { x.elem with ctl := .drain (some d) } } else none) = true := by decide +kernel

theorem witness_DrainBegin :
    let d : Drain := ⟨[0], 0, 0, 1, [], false, false, false, false⟩
    meetsAt (.drainBegin e0) (drainSt (.mdrain (fm 0 0)) (.mma [] none) (.drain (some d)) [[done0]]) (fun x i =>
      if x.elem.ctl = .drain (some d) ∧ drainClaimed x d = false then x.driveAct i (drainStart x d) else none) = true := by
  decide +kernel

theorem witness_DrainWord :
    let d : Drain := ⟨[0], 1023, 1024, 1, [[some 0x3F800000]], true, true, false, false⟩
    meetsAt (.drainWord e0) (drainSt (.mdrain (fm 0 0)) (.mma [] none) (.drain (some d)) []) (fun x i =>
      let sel := (routesOf x i).filter fun r => d.rtmask.testBit r.1
      if x.elem.ctl = .drain (some d) ∧ x.elem.firedAt ≠ x.s.cycle + 1
          ∧ sel.all (fun r => linkCap x.load x.ref.blk r.2 == 0 || hasRoom x.load x.ref.blk x.blk x.s.cycle x.ref.idx r.2 1) = true then
        let d1 := drainFill x { d with read := [], pos := 1024 }
        let enc := x.rc.encode (f32 0x3F800000)
        x.driveAct i { elem := { x.elem with ctl := .drain (drainNext d1), firedAt := x.s.cycle + 1 }, flags := enc.2.2
                       emits := sel.map fun r => emitWord r.1 enc.1 enc.2.1 .last2 x.rcNo } else none) = true := by decide +kernel

/-! ## Witnesses: relations, deltas, attention -/

/-- Context 0 of tenant 0 over a table that maps the first GiB onto itself, writable, and further cells above 0x3002. -/
def paged (s : State) (more : List Host.Cell) : State :=
  { s with
    mem := { s.mem with hbm := [(0x1000, 1), (0x1001, 0x20), (0x2000, 1), (0x2001, 0x30), (0x3000, 7)] ++ more }
    adm := { s.adm with ctxs := [⟨0, BitVec.ofNat 512 (0x1000 * 2 ^ 128)⟩], tenants := [⟨0, BitVec.ofNat 128 (2 ^ 108)⟩] } }

/-- A Boolean HASH relation of one column, 16 slots at 0x10000, held by its owner node under address 0x40. -/
def hH : Line := BitVec.ofNat 512 (2 ^ 60 + 2 ^ 58 + 10 * 2 ^ 52 + 4 * 2 ^ 152 + 4 * 2 ^ 144 + 0x10000 * 2 ^ 192 + 0x20000 * 2 ^ 256
  + 0x30000 * 2 ^ 320)
/-- The same under semiring 2 with FP32 weights. -/
def hP : Line := BitVec.ofNat 512 (2 ^ 60 + 2 ^ 58 + 2 * 2 ^ 49 + 4 * 2 ^ 152 + 4 * 2 ^ 144 + 0x10000 * 2 ^ 192 + 0x20000 * 2 ^ 256
  + 0x30000 * 2 ^ 320)

/-- Key 5, weight 1, LIVE, in slot 12, where its hash points. -/
def slot12 : List Host.Cell := [(0x10180, 5), (0x10190, 1), (0x1019B, 0x40)]

def relSt (h : Line) (i : Instr) (pool : List W64) (c : Option Ctl) (qs : List (List Token)) (cells : List Host.Cell) : State :=
  let s := paged (oneV i 0 pool c qs) cells
  { s with ord := { s.ord with rels := [⟨0, 0x40, h, 0⟩], owners := [⟨0, 0, 0, true, 0x40, 9⟩] } }

/-- A tuple of one column with weight 1. -/
def tup (k : Nat) (m : Mark) : Token := tupleTok [k] 1 0 m 0

/-- Header address 0x40 at pool word 0, column map 0 at pool word 1. -/
def relPool : List W64 := [0x40, 0]

theorem witness_Rscan : meets (.rscan (fv 0 0)) (relSt hH (.rscan (fv 0 0)) relPool (some (.rscan 12 none false)) [] slot12) (fun x =>
    match x.s.relHdr x.run.slot x.relVa with
    | .ok h => match x.s.partItem x.run.slot h 0 12 with
      | .ok u => if x.elem.ctl = .rscan 12 none false ∧ 12 < partCount h 0 ∧ u.state = 1 ∧ u.psn = false then
          x.fireAct (.rscan (fv 0 0)) { elem := { x.elem with ctl := .rscan 13 (some (tupleTok [5] 1 12 .data x.rcNo)) false } } else none
      | .error _ => none
    | .error _ => none) = true := by decide +kernel

theorem witness_Rscan_last : meets (.rscan (fv 0 0)) (relSt hH (.rscan (fv 0 0)) relPool (some (.rscan 16 (some (tup 5 .data)) false)) [] [])
    (fun x => match x.s.relHdr x.run.slot x.relVa with
    | .ok h => if x.elem.ctl = .rscan 16 (some (tup 5 .data)) false ∧ partCount h 0 ≤ 16 then
          x.fireAct (.rscan (fv 0 0)) { elem := { x.elem with ctl := .rscan 16 none false }
                                        emits := x.all fun k => .tok k (tup 5 .last) } else none
    | .error _ => none) = true := by decide +kernel

theorem witness_Rscan_empty_slot : meets (.rscan (fv 0 0)) (relSt hH (.rscan (fv 0 0)) relPool (some (.rscan 0 none false)) [] slot12)
    (fun x => match x.s.relHdr x.run.slot x.relVa with
    | .ok h => if 0 < partCount h 0 then
          x.fireAct (.rscan (fv 0 0)) { elem := { x.elem with ctl := .rscan 1 none false } } else none
    | .error _ => none) = true := by decide +kernel

theorem witness_Rscan_eos : meets (.rscan (fv 1 0)) (relSt hH (.rscan (fv 1 0)) relPool none [] []) (fun x =>
    match x.s.relHdr x.run.slot x.relVa with
    | .ok h => if x.elem.ctl = .rscan 0 none false ∧ partCount h 1 ≤ 0 then
          x.fireAct (.rscan (fv 1 0)) { elem := { x.elem with ctl := .rscan 0 none true, ended := true }
                                        emits := x.all fun k => .tok k (eosTok true x.rcNo) } else none
    | .error _ => none) = true := by decide +kernel

theorem witness_Hprobe : meets (.hprobe (fv 0 0)) (relSt hH (.hprobe (fv 0 0)) relPool none [[tup 5 .data]] slot12) (fun x =>
    match x.s.relHdr x.run.slot x.relVa with
    | .ok h => match probePlan x.s x.run.slot h x.probePairs [5], x.s.partItem x.run.slot h 0 12 with
      | .ok p, .ok u => if p = (0, 12, 16) ∧ u.psn = false ∧ u.state = 1 ∧ pairsMatch x.probePairs [5] u.keys = true
            ∧ (Pos.tok (tup 5 .data)).ncols = 1 ∧ otimes 0 10 1 u.wgt = (some 1, 0) then
          let ls := [5, 5] ++ List.replicate 6 0 ++ [1] ++ List.replicate 7 0
          let c : Ctl := .probe (some (tup 5 .data)) 13 16 (some (vecTok (packLanes ls) 0x303 .data x.rcNo))
          x.fireAct (.hprobe (fv 0 0)) { elem := { x.elem with ctl := c } } else none
      | _, _ => none
    | .error _ => none) = true := by decide +kernel

theorem witness_Insnew : meets (.insnew (fv 0 0)) (relSt hH (.insnew (fv 0 0)) relPool none [[tup 9 .data]] []) (fun x =>
    match x.s.relHdr x.run.slot x.relVa, x.s.relOwner x.run.slot x.relVa with
    | .ok h, some o => if x.mapKey h (.tok (tup 9 .data)) = some [9] ∧ hdrKind h = 1 ∧ ringZero 0 10 1 = false then
          x.fireAct (.insnew (fv 0 0)) { elem := x.elem.pop 0, eff := sendInsert x true 0x40 o [9] 1 0 } else none
    | _, _ => none) = true := by decide +kernel

theorem witness_Negate : meets (.negate (fv 0 0)) (relSt hH (.negate (fv 0 0)) relPool none [[tup 9 .last]] slot12) (fun x =>
    match x.s.relHdr x.run.slot x.relVa with
    | .ok h => match x.s.lookup x.run.slot h [9] with
      | .ok none => if hdrRing h = 0 ∧ x.mapKey h (.tok (tup 9 .last)) = some [9] then
          x.fireAct (.negate (fv 0 0)) { elem := x.elem.pop 0, emits := x.all fun k => .tok k (tup 9 .last) } else none
      | _ => none
    | .error _ => none) = true := by decide +kernel

theorem witness_Rpart : meets (.rpart (fv 1 0x210)) (oneV (.rpart (fv 1 0x210)) 0 [] none [[it 0x37]]) (fun x =>
    if x.elem.ctl = .rpart [] [] false ∧ x.avail 0 = some (.tok (it 0x37)) then
      x.fireAct (.rpart (fv 1 0x210)) { elem := { x.elem.pop 0 with ctl := .rpart [{ it 0x37 with skip := 3 }] [] false } } else none)
    = true := by decide +kernel

theorem witness_Rpart_closes : meets (.rpart (fv 1 0x210)) (oneV (.rpart (fv 1 0x210)) 0 [] (some (.rpart [{ it 2 with skip := 1 }] [] false))
    [[mk .last2 (it 0x37)]]) (fun x =>
    if x.elem.ctl = .rpart [{ it 2 with skip := 1 }] [] false ∧ x.avail 0 = some (.tok (mk .last2 (it 0x37))) then
      let out := partNow (partWindow 2 x.rcNo [{ it 2 with skip := 1 }, { mk .last2 (it 0x37) with skip := 3 }])
      x.fireAct (.rpart (fv 1 0x210)) { elem := { x.elem.pop 0 with ctl := .rpart [] out.2 false }, emits := out.1 } else none)
    = true := by decide +kernel

/-- An image of context 0 with nothing in it. -/
def img0 : Image := ⟨0, 0, 1, 1, 1, [0x0100_0000_0000_0000], 0, [], [], [], [], [], 0, 0, 0⟩

theorem witness_Gradb : meets (.gradb (fv 0 0))
    (let s := relSt hP (.gradb (fv 0 0)) relPool none [[tup 5 .last]] ((0x10180, 5) :: [(0x10192, 0x80), (0x10193, 0x3F), (0x10194, 7), (0x1019B, 0x40)])
     { s with adm := { s.adm with images := [img0] } }) (fun x =>
    match x.s.relHdr x.run.slot x.relVa, x.s.image? x.run with
    | .ok h, some img => match x.s.lookup x.run.slot h [5] with
      | .ok (some u) => if hdrRing h = 2 ∧ hdrKind h ≠ 0 ∧ u.state = 1 ∧ u.psn = false ∧ u.wit = 7 then
          let v := packLanes [7, 0, BitVec.ofNat 32 u.src, BitVec.ofNat 32 (img.relPos x.relVa)]
          x.fireAct (.gradb (fv 0 0)) { elem := x.elem.pop 0, emits := x.all fun k => .tok k (vecTok v 0xF .last x.rcNo) } else none
      | _ => none
    | _, _ => none) = true := by decide +kernel

theorem witness_Dlref : meets (.dlref (fm 0 0)) (oneV (.dlref (fm 0 0)) 0 [] none [[it 3]]) (fun x =>
    if x.heads x.ins = some [.tok (it 3)] then
      match x.delta (x.elem.pops x.ins) 2 3 0 0 0 0 0 (x.ins.zip [.tok (it 3)]) with
      | .act a => x.fireAct (.dlref (fm 0 0)) a
      | _ => none
    else none) = true := by decide +kernel

theorem witness_Dlmul : meets (.dlmul (fm 0 0)) (oneV (.dlmul (fm 0 0)) 0 [] none [[ctrl 3, at4 0, at4 0x800]]) (fun x =>
    if firstPos 3 (x.elem.queue 0) = [.tok (ctrl 3), .tok (at4 0), .tok (at4 0x800)] ∧ (x.load.chan 4).fmt = 2
        ∧ addrBad 0 (1 * 32 * 2) = false ∧ addrBad 0x800 (32 * 32 * 2) = false then
      match x.delta (x.elem.pops [0, 0, 0]) 1 3 3 0 4 0x800 4 [(0, .tok (ctrl 3)), (0, .tok (at4 0)), (0, .tok (at4 0x800))] with
      | .act a => x.fireAct (.dlmul (fm 0 0)) a
      | _ => none
    else none) = true := by decide +kernel

/-- Slot 0 of die 0 WARM for tenant 0, whose range is slots 0 and 1; a request for it begun. -/
def slotSt (i : Instr) (op : Nat) : State :=
  let b := blk (pair i) [0, 0] []
  let s := st { b with elems := modAt (fun e => { e with out := [⟨9, false, [], 1, [], none, none⟩] }) b.elems 0 }
  { s with
    adm := { s.adm with tenants := [⟨0, BitVec.ofNat 128 (2 * 2 ^ 74)⟩] }
    eng := { s.eng with slots := [⟨0, 0, BitVec.ofNat 512 (2 * 2 ^ 228)⟩]
                        dreqs := [⟨7, 0, 0, e0, 9, op, 0, 0, 0, 0, 0, 0, .data, 0, true, false, 0⟩] } }

theorem witness_DeltaComplete : meetsAt (.deltaComplete 0 7) (slotSt (.dlref (fm 0 0)) 2) (fun x i =>
    match x.s.eng.dreqs with
    | [q] =>
      let d := refDone x q false
      if d.status = 0 ∧ d.num = 0 ∧ d.psn = false then
        x.driveAct i
          { elem := { x.elem with out := replyGo 9 (fun i => [{ i with ready := true, parts := 0, emits := x.all fun k => .tok k (it 0) }]) x.elem.out }
            eff := fun u => State.setDreqs { u with mem := d.s.mem, eng := d.s.eng } 0 [] }
      else none
    | _ => none) = true := by decide +kernel

theorem witness_DeltaSlotStates : ((driveOf e0 (slotSt (.dlref (fm 0 0)) 2)).map fun (x, _) =>
    decide (dsState (x.s.dslot 0 0) = 2 ∧ dsTenant (x.s.dslot 0 0) = x.s.runTenant x.run ∧ (x.s.slotRange 0).1 = 0
      ∧ dsState (x.s.dslot 0 1) = 0)) = some true := by decide +kernel

theorem witness_Invalidation :
    let s := slotSt (.dlref (fm 0 0)) 2
    let s := { s with eng := { s.eng with invals := [⟨0, 0, 0, 0⟩] } }
    (s.eng.invals.filter fun i => i.die == 0)[0]? = some ⟨0, 0, 0, 0⟩ ∧ (s.eng.dreqs.all fun q => q.op != 1) = true := by decide +kernel

theorem witness_Bscore : ((firingOf (.bscore (fm 0 0)) (oneV (.bscore (fm 0 0)) 1 [0x800] none [[at4 0]])).map fun x =>
    decide (x.heads [0] = some [.tok (at4 0)] ∧ mmaClass (x.load.chan 4).fmt = 1 ∧ addrBad 0 (bsDim 0x800 * 2) = false
      ∧ addrBad (bsKeys 0x800) (bsBlocks 0x800 * bsDim 0x800 * 2) = false ∧ x.s.mem.storeBad = [])
    && (x.fireAct (.bscore (fm 0 0)) { elem := x.elem.pop 0, emits := x.all fun k => .tok k (vecTok 0 1 .last 1) }).isSome) = some true := by
  decide +kernel

theorem witness_Topkb : meets (.topkb (fv 0 1)) (oneV (.topkb (fv 0 1)) 0 [] none [[vt 0 .data 1]]) (fun x =>
    if x.elem.ctl = .topk [] false ∧ x.heads [0] = some [.tok (vt 0 .data 1)] then
      x.fireAct (.topkb (fv 0 1)) { elem := { x.elem.pop 0 with
        ctl := .topk ((List.range 16).map fun i => if i = 3 then none else some 0) false } } else none) = true := by decide +kernel

theorem witness_Topkb_selects : ((firingOf (.topkb (fv 0 1)) (oneV (.topkb (fv 0 1)) 0 [] none [[vt 0 .last 1]])).map fun x =>
    decide (x.elem.ctl = .topk [] false ∧ x.heads [0] = some [.tok (vt 0 .last 1)])
    && (x.fireAct (.topkb (fv 0 1)) { elem := { x.elem.pop 0 with ctl := .topk [] false }
                                      emits := x.all fun k => .tok k (vecTok 1 0xFFFF .last 0) }).isSome) = some true := by decide +kernel

/-- A cache of two entries at index 4 with initial count 0, and entry 4 LIVE. -/
def cachePool : List W64 := [0x0000_0001_0004, 0]
def cacheSt (i : Instr) (c : Option Ctl) (q : Token) : State :=
  let s := oneV i 0 cachePool c [[q]]
  { s with
    runs := s.runs.map fun r => { r with region := { r.region with caches := [3] } }
    eng := { s.eng with cache := [⟨0, 3, 0, 4, 0, 0⟩] } }

theorem witness_Attnacc : meets (.attnacc (fm 0 0)) (cacheSt (.attnacc (fm 0 0)) none (vecTok 0x3F800000 1 .data 1)) (fun x =>
    if x.elem.ctl = .count 0 false ∧ x.avail 0 = some (.tok (vecTok 0x3F800000 1 .data 1)) ∧ x.cache.budget = 2 then
      x.fireAct (.attnacc (fm 0 0)) { elem := { x.elem.pop 0 with ctl := .count 1 false }
                                      eff := fun s => s.setCache [⟨0, 3, 0, 4, 0x3F800000, 0⟩] } else none) = true := by decide +kernel

theorem witness_Evict : meets (.evict (fm 0 0)) (cacheSt (.evict (fm 0 0)) none (it 2)) (fun x =>
    if x.heads x.ins = some [.tok (it 2)] ∧ x.s.attnFirst 0 3 = false ∧ x.s.pickEntries x.cache 2 = some [(1, false), (0, true)] then
      let items := [x.all fun o => .tok o (scalarTok (x.rc.encodeInt 1) .data x.rcNo),
        x.all fun o => .tok o (scalarTok (x.rc.encodeInt 0x80000000) .data x.rcNo)]
      x.fireAct (.evict (fm 0 0)) { elem := (x.take x.ins [.tok (it 2)]).elem, later := portItems x.s.ord.nextId items
                                    eff := fun s => (s.allocate x.cache [(1, false), (0, true)]).nextId (x.s.ord.nextId + 1) } else none)
    = true := by decide +kernel

theorem witness_EvictReset : meets (.evictReset (fm 1 0)) (cacheSt (.evictReset (fm 1 0)) none (it 0)) (fun x =>
    if x.heads x.ins = some [.tok (it 0)] ∧ x.s.attnFirst 0 3 = false then
      match x.answer (x.take x.ins [.tok (it 0)]) (x.all fun o => .tok o (scalarTok 0 .data x.rcNo))
          (fun s => s.setCache (s.eng.cache.filter fun e => !x.cache.has e)) with
      | .act a => x.fireAct (.evictReset (fm 1 0)) a
      | _ => none
    else none) = true := by decide +kernel

/-- Two LIVE tuples: key 5 in slot 12 and key 3 in slot 13. -/
def slots2 : List Host.Cell := slot12 ++ [(0x101A0, 3), (0x101B0, 1), (0x101BB, 0x40)]

theorem witness_Rscan_passes : meets (.rscan (fv 0 0)) (relSt hH (.rscan (fv 0 0)) relPool (some (.rscan 13 (some (tup 5 .data)) false)) [] slots2)
    (fun x => match x.s.relHdr x.run.slot x.relVa with
    | .ok h => match x.s.partItem x.run.slot h 0 13 with
      | .ok u => if x.elem.ctl = .rscan 13 (some (tup 5 .data)) false ∧ 13 < partCount h 0 ∧ u.state = 1 ∧ u.psn = false then
          x.fireAct (.rscan (fv 0 0)) { elem := { x.elem with ctl := .rscan 14 (some (tupleTok [3] 1 13 .data x.rcNo)) false }
                                        emits := x.all fun k => .tok k (tup 5 .data) } else none
      | .error _ => none
    | .error _ => none) = true := by decide +kernel

/-- The next LIVE tuple stands beyond the slot read. -/
theorem witness_Rscan_looksOn : meets (.rscan (fv 0 0)) (relSt hH (.rscan (fv 0 0)) relPool (some (.rscan 12 none false)) [] slots2)
    (fun x => match x.s.relHdr x.run.slot x.relVa with
    | .ok h => match x.s.partItem x.run.slot h 0 12, x.s.tupleFrom x.run.slot h 0 (partCount h 0 - 13) 13 with
      | .ok u, some b => if x.elem.ctl = .rscan 12 none false ∧ u.state = 1 ∧ b.keys = [3] then
          x.fireAct (.rscan (fv 0 0)) { elem := { x.elem with ctl := .rscan 13 none false }
                                        emits := x.all fun k => .tok k (tupleTok [5] 1 12 .data x.rcNo) } else none
      | _, _ => none
    | .error _ => none) = true := by decide +kernel

/-- A probe at slot `12 + seen` with a match held or none; the slot's bytes are given. -/
def probeSt (key : Nat) (c : Option Ctl) (cells : List Host.Cell) : State := relSt hH (.hprobe (fv 0 0)) relPool c [[tup key .last]] cells

/-- What a probe does whose match, or whose end without one, leaves. -/
def probeEnds (c : Option Ctl) (cells : List Host.Cell) (es : FireIn → List Emit) (ok : Tuple → Bool) : Bool :=
  meets (.hprobe (fv 0 0)) (probeSt 5 c cells) fun x => match x.s.relHdr x.run.slot x.relVa with
    | .ok h => match probePlan x.s x.run.slot h x.probePairs [5], x.s.partItem x.run.slot h 0 12 with
      | .ok p, .ok u => if p = (0, 12, 16) ∧ ok u = true then
          x.fireAct (.hprobe (fv 0 0)) { elem := { x.elem.pop 0 with ctl := .probe none 0 0 none }, emits := es x } else none
      | _, _ => none
    | .error _ => none

theorem witness_Hprobe_empty : probeEnds none [] (fun x => x.all fun k => emitVec k 0 0 .last x.rcNo) (fun u => u.state == 0) = true := by
  decide +kernel

theorem witness_Hprobe_done : probeEnds (some (.probe (some (tup 5 .last)) 13 16 (some (tup 5 .data)))) slot12
    (fun x => x.all fun k => .tok k (tup 5 .last)) (fun u => u.state == 1) = true := by decide +kernel

theorem witness_Hprobe_tent : meets (.hprobe (fv 0 0)) (probeSt 5 none [(0x10180, 5), (0x10190, 1), (0x1019B, 0x80)]) (fun x =>
    match x.s.relHdr x.run.slot x.relVa with
    | .ok h => match x.s.partItem x.run.slot h 0 12 with
      | .ok u => if u.state = 2 ∧ u.psn = false ∧ pairsMatch x.probePairs [5] u.keys = true then
          x.fireAct (.hprobe (fv 0 0)) { elem := { x.elem with ctl := .probe (some (tup 5 .last)) 13 16 none } } else none
      | .error _ => none
    | .error _ => none) = true := by decide +kernel

theorem witness_Hprobe_other : meets (.hprobe (fv 0 0)) (probeSt 5 none [(0x10180, 6), (0x10190, 1), (0x1019B, 0x40)]) (fun x =>
    match x.s.relHdr x.run.slot x.relVa with
    | .ok h => match x.s.partItem x.run.slot h 0 12 with
      | .ok u => if u.state = 1 ∧ u.psn = false ∧ pairsMatch x.probePairs [5] u.keys = false then
          x.fireAct (.hprobe (fv 0 0)) { elem := { x.elem with ctl := .probe (some (tup 5 .last)) 13 1 none } } else none
      | .error _ => none
    | .error _ => none) = true := by decide +kernel

/-- An insert that sends nothing: an end token, a POISON position, an empty one. -/
def insertsNothing (i : Instr) (t : Token) (eff : FireIn → State → State) (ended : Bool) : Bool :=
  meets i (relSt hH i relPool none [[t]] []) fun x => match x.s.relHdr x.run.slot x.relVa, x.s.relOwner x.run.slot x.relVa with
    | .ok h, some _ => if hdrKind h = 1 then
        x.fireAct i { elem := { x.elem.pop 0 with ended := if t.mark.isEnd then ended else x.elem.ended }, eff := eff x } else none
    | _, _ => none

theorem witness_Agg_end : insertsNothing (.agg (fv 0 0)) (eosTok true 0) (fun _ s => s) true = true := by decide +kernel
theorem witness_Insnew_poison : insertsNothing (.insnew (fv 0 0)) (poisonTok true .last 0) (fun x => x.logPoison 0x40) false = true := by
  decide +kernel
theorem witness_Agg_empty : insertsNothing (.agg (fv 0 0)) (vecTok 0 0 .last 0) (fun _ s => s) false = true := by decide +kernel

theorem witness_Negate_holds : meets (.negate (fv 0 0)) (relSt hH (.negate (fv 0 0)) relPool none [[tup 5 .last]] slot12) (fun x =>
    match x.s.relHdr x.run.slot x.relVa with
    | .ok h => match x.s.lookup x.run.slot h [5] with
      | .ok (some v) => if hdrRing h = 0 ∧ v.state = 1 ∧ v.psn = false then
          x.fireAct (.negate (fv 0 0)) { elem := x.elem.pop 0, emits := x.all fun k => emitVec k 0 0 .last x.rcNo } else none
      | _ => none
    | .error _ => none) = true := by decide +kernel

/-- Under MAXPROD a weight of 1.0 leaves 1 - 1.0 = 0, no tuple. -/
theorem witness_Negate_maxprod : meets (.negate (fv 0 0)) (relSt hP (.negate (fv 0 0)) relPool none [[tup 5 .last]]
      [(0x10180, 5), (0x10192, 0x80), (0x10193, 0x3F), (0x1019B, 0x40)]) (fun x =>
    match x.s.relHdr x.run.slot x.relVa with
    | .ok h => match x.s.lookup x.run.slot h [5] with
      | .ok (some v) => match otimes 2 0 ((Pos.tok (tup 5 .last)).lane 8) (oneMinus v.wgt).1 with
        | (some w, fl) => if hdrRing h = 2 ∧ v.state = 1 ∧ v.psn = false ∧ (f32 w.toNat).isZero = true then
            x.fireAct (.negate (fv 0 0)) { elem := x.elem.pop 0, flags := (oneMinus v.wgt).2 ||| fl
                                           emits := x.all fun k => emitVec k 0 0 .last x.rcNo } else none
        | _ => none
      | _ => none
    | .error _ => none) = true := by decide +kernel

theorem witness_Rpart_ends : meets (.rpart (fv 1 0x210)) (oneV (.rpart (fv 1 0x210)) 0 [] none [[eos]]) (fun x =>
    if x.elem.ctl = .rpart [] [] false ∧ x.avail 0 = some (.tok eos) ∧ x.f.cona.isSome = true ∧ x.f.conb = none then
      x.fireAct (.rpart (fv 1 0x210)) { elem := { x.elem.pop 0 with ctl := .rpart [] [] false, ended := true }
                                        emits := [.tok 0 (eosTok false x.rcNo)] } else none) = true := by decide +kernel

/-- What HPROBE, NEGATE and GRADB hand on. -/
def handsOn (i : Instr) (t : Token) (m : Mark) (es : FireIn → List Emit) : Bool :=
  meets i (relSt hP i relPool none [[t]] []) fun x =>
    x.fireAct i { elem := { x.elem.pop 0 with ended := if t.mark.isEnd then m == .eos else x.elem.ended }, emits := es x }

theorem witness_Gradb_end : handsOn (.gradb (fv 0 0)) (eosTok true 0) .eos (fun x => x.all fun k => .tok k (eosTok true x.rcNo)) = true := by
  decide +kernel
theorem witness_Negate_poison : handsOn (.negate (fv 0 0)) (poisonTok true .last2 0) .last2
    (fun x => x.all fun k => .tok k (poisonTok true .last2 x.rcNo)) = true := by decide +kernel
theorem witness_Hprobe_elided : handsOn (.hprobe (fv 0 0)) (vecTok 0 0 .last 0) .last
    (fun x => x.all fun k => emitVec k 0 0 .last x.rcNo) = true := by decide +kernel

/-- A DLMUL on a WARM slot of its tenant: the slot's operand and result fit, its INV has not reached ILIMIT, its DRIFT not DLIMIT. -/
theorem witness_DeltaMul :
    let s := slotSt (.dlmul (fm 0 0)) 1
    let v : Line := BitVec.ofNat 512 (2 * 2 ^ 228 + 2 * 2 ^ 144 + 0x100 * 2 ^ 160 + 0x200 * 2 ^ 192 + 5 * 2 ^ 248 + 0x3F800000 * 2 ^ 448)
    let s := { s with
      eng := { s.eng with slots := [⟨0, 0, v⟩] }
      dies := modAt (fun d => { d with reusesize := 0x40000 }) s.dies 0 }
    ((driveOf e0 s).map fun (x, _) => decide (dsState (x.s.dslot 0 0) = 2 ∧ dsTenant (x.s.dslot 0 0) = x.s.runTenant x.run
      ∧ dlM 0 * dlK 0 / 16 = fld v 159 144 ∧ fld v 191 160 + dlM 0 * dlN 0 / 16 ≤ (x.s.areaRange 0 0).2 ∧ dlShape 0 = dsShape v
      ∧ fld v 247 240 ≠ fld v 255 248 ∧ XVal.lt (f32 (fld v 479 448)) (f32 (fld v 511 480)) = false
      ∧ (x.bankElems 0 (x.load.chan 4) 32).any Option.isNone = false)) = some true := by decide +kernel

/-! ## Witnesses: quadrant ports -/

/-- UNIT 15 at tile 0. -/
def fp (md : BitVec 2) (imm : BitVec 20) : Fab := ⟨0, 15, c1, none, md, imm⟩

/-- A request of element 0 to an engine. -/
def req5 (k : AccKind) : Req where
  id := 5
  run := 0
  die := 0
  elem := e0
  rid := 9
  kind := k
  va := 0x20000
  packet := 0
  mark := .data
  chan := 0
  serial := 1
  port := 0
  stamp := 1
  taken := false
  src := 0x20000
  dst := 0x30000
  len := 0x2000
  desc := 0
  first := 0
  doneS := []
  inflight := []
  status := 0
  held := []
  changed := 0
  off := 0
  area := 0
  stallAt := none
  finished := false
  order := 0
  opened := []
  sender := none

/-- The access of an element enters and its firing completes. -/
def enters (x : FireIn) (i : Instr) (r : Fire) : Option State := match r with
  | .act a => x.fireAct i a
  | _ => none

/-- LD of FP32 (channel 1) at pool word 0 with a go token. -/
theorem witness_MemoryElementsAtAnAddress : meets (.ld (fp 0 0x4000)) (oneV (.ld (fp 0 0x4000)) 1 [0x80] none [[it 0]]) (fun x =>
    if x.elem.ended = false ∧ x.am = 1 ∧ x.heads x.ins = some [.tok (it 0)] ∧ x.fixedVa none = 0x80 ∧ fmtBytes x.rc.fmt = 4 then
      enters x (.ld (fp 0 0x4000)) (x.enter (x.take x.ins [.tok (it 0)]) x.port .data [{ kind := .load, va := 0x80, width := 4 }])
    else none) = true := by decide +kernel

theorem witness_MemoryElements_offset : meets (.st (fp 0 0x8000)) (oneV (.st (fp 0 0x8000)) 1 [0x80] none [[it 9], [it 8]]) (fun x =>
    if x.elem.ended = false ∧ x.am = 2 ∧ x.heads x.ins = some [.tok (it 9), .tok (it 8)] ∧ inputVec x.blk 0 0 = false
        ∧ x.fixedVa (some (.tok (it 8))) = 0x88 then
      enters x (.st (fp 0 0x8000)) (x.enter (x.take x.ins [.tok (it 9), .tok (it 8)]) x.port .data
        [{ kind := .store, va := 0x88, width := 4, data := 9 }])
    else none) = true := by decide +kernel

theorem witness_MemoryElements_misaligned :
    let s := oneV (.fadd (fp 1 0x4000)) 0 [0x82] none [[it 9]]
    (firingOf (.fadd (fp 1 0x4000)) s).map (fun x => decide (x.elem.ended = false ∧ x.am = 1 ∧ x.heads x.ins = some [.tok (it 9)]
      ∧ x.fixedVa none % 4 ≠ 0)) = some true := by decide +kernel

theorem witness_MemoryElements_poison : meets (.st (fp 0 0x4000)) (oneV (.st (fp 0 0x4000)) 1 [0x82] none [[psn .last]]) (fun x =>
    if x.elem.ended = false ∧ x.am = 1 ∧ x.heads x.ins = some [.tok (psn .last)] then
      enters x (.st (fp 0 0x4000)) (x.answer (x.take x.ins [.tok (psn .last)]) (x.all fun o => .tok o (poisonTok false .last x.rcNo))
        (x.logPoison 0x82)) else none) = true := by decide +kernel

/-- A binding of three elements of channel 1 from 0x100 by 8, one taken. -/
def bind3 : Binding := ⟨0x100, 0, 1, false, 1, [3], [8], 1, false⟩
def genSt (i : Instr) (b : Binding) (qs : List (List Token)) : State :=
  let s := oneV i 1 [] none qs
  { s with runs := s.runs.map fun r => { r with region := { r.region with gens := [[⟨some b, []⟩]] } } }

theorem witness_MemoryElementsUnderAGenerator : meets (.ld (fp 0 0)) (genSt (.ld (fp 0 0)) bind3 []) (fun x =>
    if x.elem.ended = false ∧ x.am = 0 ∧ x.heads x.ins = some [] ∧ x.gen? = some ⟨some bind3, []⟩ ∧ bind3.next = (0x108, .data) then
      let g' : Gen := ⟨some { bind3 with pos := 2 }, []⟩
      enters x (.ld (fp 0 0)) (x.enter { elem := x.elem, takes := [], gen := some ⟨0, 0, some bind3, false⟩
                                         eff := fun s => s.setGen 0 0 0 g' } x.port .data [{ kind := .load, va := 0x108, width := 4, gather := true }])
    else none) = true := by decide +kernel

theorem witness_Generator_last : meets (.ld (fp 0 0)) (genSt (.ld (fp 0 0)) { bind3 with pos := 2 } []) (fun x =>
    if x.elem.ended = false ∧ x.heads x.ins = some [] ∧ x.gen? = some ⟨some { bind3 with pos := 2 }, []⟩
        ∧ ({ bind3 with pos := 2 } : Binding).next = (0x110, .last) then
      let g' : Gen := ⟨some { bind3 with pos := 3, ended := true }, []⟩
      enters x (.ld (fp 0 0)) (x.enter { elem := { x.elem with ended := true }, takes := []
                                         gen := some ⟨0, 0, some { bind3 with pos := 2 }, false⟩, eff := fun s => s.setGen 0 0 0 g' }
        x.port .last [{ kind := .load, va := 0x110, width := 4, gather := true }] []
        [readyItem x.s.ord.nextId (x.all fun o => .tok o (eosTok false x.rcNo)) [] none])
    else none) = true := by decide +kernel

theorem witness_Generator_over : (firingOf (.st (fp 0 0)) (genSt (.st (fp 0 0)) { bind3 with pos := 3, ended := true } [[it 5]])).map (fun x =>
    decide (x.elem.ended = false ∧ x.am = 0 ∧ x.heads x.ins = some [.tok (it 5)]
      ∧ x.gen? = some ⟨some { bind3 with pos := 3, ended := true }, []⟩)) = some true := by decide +kernel

theorem witness_GeneratorAddresses : bind3.counts = [3] ∧ bind3.strides = [8] ∧ bind3.pos < 3 ∧ bind3.pos + 1 < bind3.count
    ∧ ({ bind3 with pos := 2 } : Binding).count ≤ 2 + 1 := by decide

theorem witness_GeneratorAddresses_two_loops :
    let b : Binding := ⟨0x100, 4, 2, false, 1, [3, 2], [8, -64], 5, false⟩
    b.counts = [3, 2] ∧ b.strides = [8, -64] ∧ b.pos < 3 * 2 ∧ b.next = (0x100 + 4 + 16 - 64, .last2) := by decide +kernel

/-- Room for the accesses of one firing in an empty queue. -/
theorem witness_EnterQueuesEveryAccess : (oneV (.ld (fp 0 0)) 1 [] none []).queued 0 0 + 64 ≤ 64 := by decide +kernel

theorem witness_PortRequests : meets (.fence (fp 0 3)) (oneV (.fence (fp 0 3)) 0 [] none [[mk .last (it 0)]]) (fun x =>
    if x.heads x.ins = some [.tok (mk .last (it 0))] then
      enters x (.fence (fp 0 3)) (x.enter (x.take x.ins [.tok (mk .last (it 0))]) x.port .last [{ kind := .fence 3, va := 0, width := 0 }])
    else none) = true := by decide +kernel

theorem witness_Pin : meets (.pin (fp 0 0x400)) (oneV (.pin (fp 0 0x400)) 0 [0x40, 0x1000] none [[it 0]]) (fun x =>
    if x.heads x.ins = some [.tok (it 0)] ∧ x.relVa = 0x40 ∧ x.imm 19 10 = 1 then
      enters x (.pin (fp 0 0x400)) (x.enter (x.take x.ins [.tok (it 0)]) 0 .data
        [{ kind := .pin, va := 0x40, width := 64 }, { kind := .snapshot, va := 0x1000, width := 64 }])
    else none) = true := by decide +kernel

theorem witness_Waita : meets (.waita (fp 0 0x4000)) (oneV (.waita (fp 0 0x4000)) 0 [0x40] none [[it 7]]) (fun x =>
    if x.heads x.ins = some [.tok (it 7)] ∧ x.fixedVa none % 4 = 0 then
      enters x (.waita (fp 0 0x4000)) (x.enter (x.take x.ins [.tok (it 7)]) x.port .data
        [{ kind := .waita, va := 0x40, width := 4, data := 7, epoch := x.s.epoch (x.s.homeOf x.run.slot 0x40) (bucketOf 0x40) }])
    else none) = true := by decide +kernel

theorem witness_Wakea : meets (.wakea (fp 0 0x8000)) (oneV (.wakea (fp 0 0x8000)) 0 [0x40] none [[it 8]]) (fun x =>
    if x.heads x.ins = some [.tok (it 8)] ∧ x.fixedVa (some (.tok (it 8))) = 0x48 then
      enters x (.wakea (fp 0 0x8000)) (x.enter (x.take x.ins [.tok (it 8)]) x.port .data [{ kind := .wakea, va := 0x48, width := 4 }])
    else none) = true := by decide +kernel

/-- A packet that copies eight bytes from 0x40 to 0x80. -/
def packet : Line := BitVec.ofNat 512 (0x40 + 0x80 * 2 ^ 64 + 8 * 2 ^ 128)
theorem witness_Xfer : meets (.xfer (fp 0 0)) (oneV (.xfer (fp 0 0)) 0 [] none [[vecTok packet 0xFFFF .data 0]]) (fun x =>
    let ps := [Pos.tok (vecTok packet 0xFFFF .data 0)]
    if x.heads x.ins = some ps ∧ packetBad x.load (dataLine ps) = false then
      enters x (.xfer (fp 0 0)) (x.enter (x.take x.ins ps) x.port .data [{ kind := .xfer, va := 0, width := 0, data := dataLine ps }])
    else none) = true := by decide +kernel

theorem witness_Xfer_bad : (firingOf (.xfer (fp 0 0)) (oneV (.xfer (fp 0 0)) 0 [] none [[vecTok 0 0xFFFF .data 0]])).map (fun x =>
    decide (x.heads x.ins = some [.tok (vecTok 0 0xFFFF .data 0)]) && packetBad x.load 0) = some true := by decide +kernel

/-- Lane offsets 0, 0, 0, masked, 0, …: one access for each present lane. -/
theorem witness_Ldx : meets (.ldx (fp 0 0)) (oneV (.ldx (fp 0 0)) 1 [0x80] none [[vt 4 .data 0]]) (fun x =>
    if x.heads x.ins = some [.tok (vt 4 .data 0)] then
      let asks := ((List.range 16).filter (· ≠ 3)).map fun l => { kind := .load, va := 0x84, width := 4, lane := some l : Ask }
      enters x (.ldx (fp 0 0)) (x.enter (x.take x.ins [.tok (vt 4 .data 0)]) x.port .data asks
        [.tok 0 (vecTok 0 0xFFF7 .data x.rcNo), .tok 1 (vecTok 0 0xFFF7 .data x.rcNo)])
    else none) = true := by decide +kernel

theorem witness_Owner : meets (.ownerRange (fp 0 0)) (oneV (.ownerRange (fp 0 0)) 0 [0x1000, 12] none [[it 0]]) (fun x =>
    if x.heads x.ins = some [.tok (it 0)] ∧ (x.s.bindRange x.run x.relVa 12).1 = 0 then
      let s' := (x.s.bindRange x.run x.relVa 12).2
      enters x (.ownerRange (fp 0 0)) (x.answer (x.take x.ins [.tok (it 0)]) [.tok 0 (scalarTok 0 .data x.rcNo)]
        fun s => { s with ord := { s.ord with owners := s'.ord.owners, rels := s'.ord.rels }, mem := s'.mem })
    else none) = true := by decide +kernel

theorem witness_bindRange : (oneV (.ld (fp 0 0)) 1 [] none []).bindings 0 < 64
    ∧ (oneV (.ld (fp 0 0)) 1 [] none []).ord.owners = [] := by decide +kernel

theorem witness_Stash : meets (.stash (fp 0 0)) (oneV (.stash (fp 0 0)) 0 [0x40, 4] none [[it 6]]) (fun x =>
    if x.elem.ctl = .stash none ∧ x.avail 0 = some (.tok (it 6)) then
      match x.enter { elem := x.elem, takes := [] } x.port .data [{ kind := .stash, va := x.relVa, width := 0 }] with
      | .act a => x.fireAct (.stash (fp 0 0)) { a with elem := { a.elem with ctl := .stash (some (x.s.ord.nextId + 1)) } }
      | _ => none
    else none) = true := by decide +kernel

theorem witness_Ingress : meets (.ingress (fp 0 0))
    (let s := oneV (.ingress (fp 0 0)) 0 [] none []
     { s with runs := s.runs.map fun r => { r with inq := [skip 2 (it 5)] } }) (fun x =>
    if x.elem.ended = false ∧ x.run.inq = [skip 2 (it 5)] ∧ x.imm 3 0 = 0 then
      x.fireAct (.ingress (fp 0 0)) { elem := { x.elem with ended := false }, emits := x.outs.flatMap fun k => passEmit k (skip 2 (it 5))
                                      src := [(0, .tok (skip 2 (it 5)))]
                                      eff := fun s => (s.backCredit x.run.ingress).modRun x.ref.run fun r => { r with inq := [] } }
    else none) = true := by decide +kernel

theorem witness_Strmo : meets (.strmo ⟨0, 15, none, none, 0, 0⟩) (oneV (.strmo ⟨0, 15, none, none, 0, 0⟩) 0 [0x80] none [[it 5]]) (fun x =>
    if x.strm.getLsbD 6 = false ∧ x.elem.queue 0 = [it 5] ∧ fld x.strm 22 7 = 1 then
      x.fireAct (.strmo ⟨0, 15, none, none, 0, 0⟩) { elem := x.elem.popToken 0, eff := x.sendOut 16 (it 5) } else none) = true := by
  decide +kernel

theorem witness_Strmi : meets (.strmi (fp 0 0))
    (let s := oneV (.strmi (fp 0 0)) 0 [0x80] none []
     { s with runs := s.runs.map fun r => { r with skid := [(0, [.group [it 5, it 6] true, .plain eos])] } }) (fun x =>
    if x.elem.ended = false ∧ x.strm.getLsbD 6 = false ∧ skidPop (x.run.skidOf 0) = some (it 5, [.group [it 6] true, .plain eos]) then
      x.fireAct (.strmi (fp 0 0)) { elem := { x.elem with ended := false }, emits := x.outs.flatMap fun k => passEmit k (it 5)
                                    src := [(16, .tok (it 5))]
                                    eff := fun s => s.modRun x.ref.run fun r => r.setSkid 0 [.group [it 6] true, .plain eos] }
    else none) = true := by decide +kernel

theorem witness_Egress : meets (.egress ⟨0, 15, none, none, 0, 0⟩) (oneV (.egress ⟨0, 15, none, none, 0, 0⟩) 0 [] none [[it 5]]) (fun x =>
    if x.elem.queue 0 = [it 5] ∧ x.s.ringRoom x.run.slot x.run.ring = true then
      enters x (.egress ⟨0, 15, none, none, 0, 0⟩) (x.enter { elem := x.elem.popToken 0, takes := [] } 0 .data
        [{ kind := .egress, va := 0, width := 0, data := (it 5).scalarBits.setWidth 512 }])
    else none) = true := by decide +kernel

/-- A STASH under way: its record holds one token and the next position joins it. -/
theorem witness_Stash_joins : meets (.stash (fp 0 0))
    (let s := oneV (.stash (fp 0 0)) 0 [0x40, 4] (some (.stash (some 7))) [[it 6]]
     { s with ord := { s.ord with reqs := [{ req5 .stash with id := 7, taken := true, held := [it 5] }] } }) (fun x =>
    match x.s.req? 7 with
    | none => none
    | some q => if x.elem.ctl = .stash (some 7) ∧ x.avail 0 = some (.tok (it 6)) ∧ q.taken = true ∧ recordUnits (q.held.length + 1) 4 ≤ 4 then
        x.fireAct (.stash (fp 0 0)) { elem := { x.elem.pop 0 with ctl := .stash (some 7) }
                                      eff := fun s => s.modReq 7 fun y => { y with held := y.held ++ [heldTok false 0 (.tok (it 6))] } }
      else none) = true := by decide +kernel

/-- In a transactional block one elided position leaves the ingress queue. -/
theorem witness_Ingress_tx : meets (.ingress (fp 0 0))
    (let s := st { feed (blk (pair (.ingress (fp 0 0))) [0, 0] []) [] with hdr := 1 <<< 116 }
     { s with runs := s.runs.map fun r => { r with inq := [skip 2 (it 5)] } }) (fun x =>
    if x.elem.ended = false ∧ x.run.inq = [skip 2 (it 5)] ∧ x.blk.tx = true then
      x.fireAct (.ingress (fp 0 0)) { elem := { x.elem with ended := false }, emits := x.outs.flatMap fun k => [.elide k 1 false 0]
                                      src := [(0, .elided)]
                                      eff := fun s => s.modRun x.ref.run fun r => { r with inq := [skip 1 (it 5)] } }
    else none) = true := by decide +kernel

/-- Two elements of one line, four bytes apart: the second is gathered into the access of the first. -/
theorem witness_Enter_gathers : meets (.ld (fp 0 0))
    (let s := genSt (.ld (fp 0 0)) { bind3 with pos := 1 } []
     match exec (.ld (fp 0 0)) s with
     | .next t => { t with runs := t.runs.map fun r => r.setPlane 0 { (r.plane 0) with loads := (s.runs.headD placedRun).p0.loads } }
     | _ => s) (fun x =>
    let q : Ask := { kind := .load, va := 0x110, width := 4, gather := true }
    let b := x.access x.port x.s.ord.nextId (x.s.ord.nextId + 1) .last q
    match tailAcc b x.s.ord.accs with
    | none => none
    | some a => if a.joins b = true ∧ x.s.queued 0 0 = 1 ∧ (a.merge b).va = 0x108 ∧ (a.merge b).width = 12 then
        enters x (.ld (fp 0 0)) (x.enter { elem := { x.elem with ended := true }, takes := []
                                           gen := some ⟨0, 0, some { bind3 with pos := 2 }, false⟩
                                           eff := fun s => s.setGen 0 0 0 ⟨some { bind3 with pos := 3, ended := true }, []⟩ } x.port .last [q] []
          [readyItem x.s.ord.nextId (x.all fun o => .tok o (eosTok false x.rcNo)) [] none])
      else none) = true := by decide +kernel

/-- A STRMO of PEER 1 whose tokens a copy has taken. -/
theorem witness_Strmo_peerEnds : meets (.strmo ⟨0, 15, none, none, 0, 0⟩) (oneV (.strmo ⟨0, 15, none, none, 0, 0⟩) 0 [0xC0] none [[eos]]) (fun x =>
    if x.strm.getLsbD 6 = true ∧ x.head 0 = some (.tok eos) ∧ x.copying (fld x.strm 5 0) = false then
      x.fireAct (.strmo ⟨0, 15, none, none, 0, 0⟩) { elem := { x.elem.pop 0 with ended := true } } else none) = true := by decide +kernel

/-- A go token with two elided positions before it pins once. -/
theorem witness_Pin_skip : meets (.pin (fp 0 0xFFC00)) (oneV (.pin (fp 0 0xFFC00)) 0 [0x40] none [[skip 2 (it 0)]]) (fun x =>
    if x.elem.queue 0 = [skip 2 (it 0)] ∧ x.relVa = 0x40 ∧ x.imm 19 10 = 0x3FF then
      enters x (.pin (fp 0 0xFFC00)) (x.enter { elem := x.elem.popToken 0, takes := [(0, .elided), (0, .elided), (0, .tok (skip 2 (it 0)))] } 0 .data
        [{ kind := .pin, va := 0x40, width := 64 }] (x.outs.map fun o => .elide o 2 false x.rcNo)) else none) = true := by decide +kernel

theorem witness_Unpin : meets (.unpin (fp 0 0)) (oneV (.unpin (fp 0 0)) 0 [0x40] none [[it 3]]) (fun x =>
    if x.elem.queue 0 = [it 3] ∧ x.relVa = 0x40 then
      enters x (.unpin (fp 0 0)) (x.enter { elem := x.elem.popToken 0, takes := [(0, .tok (it 3))] } 0 .data
        [{ kind := .unpin, va := 0x40, width := 64, data := 3 }] (x.outs.flatMap fun o => [.tok o (it 3)])) else none) = true := by decide +kernel

theorem witness_Stx : meets (.stx (fp 0 0)) (oneV (.stx (fp 0 0)) 1 [0x80] none [[vecTok 9 1 .data 0], [vecTok 4 1 .last 0]]) (fun x =>
    let ps := [Pos.tok (vecTok 9 1 .data 0), .tok (vecTok 4 1 .last 0)]
    if x.heads x.ins = some ps then
      enters x (.stx (fp 0 0)) (x.enter (x.take x.ins ps) x.port .last [{ kind := .store, va := 0x84, width := 4, lane := some 0, data := 9 }]
        [.tok 0 (scalarTok 0 .last x.rcNo)])
    else none) = true := by decide +kernel

theorem witness_bindRange_overlap :
    let s := oneV (.ld (fp 0 0)) 1 [] none []
    let s := { s with ord := { s.ord with owners := [⟨0, 0, 0, false, 0x1000, 12⟩] } }
    ∃ o ∈ s.ord.owners, o.rel = false ∧ o.slot = placedRun.slot ∧ 0x1000 < o.base + 2 ^ o.log2 ∧ o.base < 0x1000 + 2 ^ 13 := by decide +kernel

/-! ## Witnesses: barriers, system, privileged -/

/-- A system site of tile 0. -/
def fs (md : BitVec 2) (imm : BitVec 20) : Fab := ⟨0, 15, c1, none, md, imm⟩

def barSt (c : Ctl) (qs : List (List Token)) : State := oneV (.barj (fs 0 2)) 0 [] (some c) qs

theorem witness_Barj_arrives : meets (.barj (fs 0 2)) (barSt (.barj 2 0 0 0 false) [[it 1]]) (fun x =>
    if x.elem.ended = false ∧ x.elem.ctl = .barj 2 0 0 0 false ∧ x.avail 0 = some (.tok (it 1)) ∧ x.dropHead = none then
      x.fireAct (.barj (fs 0 2)) { elem := { x.elem.pop 0 with ctl := .barj 2 1 0 0 false } } else none) = true := by decide +kernel

theorem witness_Barj_completes : meets (.barj (fs 0 2)) (barSt (.barj 2 1 7 0 false) [[it 1]]) (fun x =>
    if x.elem.ctl = .barj 2 1 7 0 false ∧ x.avail 0 = some (.tok (it 1)) ∧ x.dropHead = none then
      x.fireAct (.barj (fs 0 2)) { elem := { x.elem.pop 0 with ctl := .barj 2 0 7 1 false }, emits := x.all fun k => .tok k (it 7) }
    else none) = true := by decide +kernel

theorem witness_Barj_releases : meets (.barj (fs 0 2)) (barSt (.barj 2 0 7 1 false) []) (fun x =>
    if x.elem.ctl = .barj 2 0 7 1 false ∧ x.avail 0 = none ∧ x.dropHead = none then
      x.fireAct (.barj (fs 0 2)) { elem := { x.elem with ctl := .barj 2 0 8 0 false }, emits := x.all fun k => .tok k (mk .last (it 7)) }
    else none) = true := by decide +kernel

theorem witness_Barj_barneg : (firingOf (.barj (fs 0 2)) (barSt (.barj 2 1 0 0 false) [[], [it 2]])).map (fun x =>
    decide (x.elem.ended = false ∧ x.elem.ctl = .barj 2 1 0 0 false ∧ x.dropHead = some (2, false))) = some true := by decide +kernel

/-- Group 3 of module 0 with runs 0 and 1, run 0 of them the one that runs. -/
def groupSt (s : State) (arrivals : List (Nat × Requester)) : State :=
  { s with
    runs := s.runs.map fun r => { r with groups := [3] }
    adm := { s.adm with groups := [{ num := 3, members := [0, 1], phase := 4, arrivals := arrivals, drops := [], unit := false, fixOpen := false
                                     sums := [], quiet := 0, lastAt := 3, pass := 0, totals := (0, 0, false) }] } }

theorem witness_BarjGrp : meets (.barjGrp (fs 1 0)) (groupSt (oneV (.barjGrp (fs 1 0)) 0 [3] none [[it 0]]) []) (fun x =>
    if x.heads [0] = some [.tok (it 0)] ∧ x.run.groups.contains x.grp = true then
      x.fireAct (.barjGrp (fs 1 0))
        { elem := x.elem.pop 0
          later := [⟨x.s.ord.nextId, false, x.all fun k => .tok k (it 0), 1, [(0, .tok (it 0))], none, none⟩]
          eff := fun s => (s.nextId (x.s.ord.nextId + 1)).modGroup x.grp fun g =>
            { g with arrivals := g.arrivals ++ [(x.s.identity x.ref.run, .place x.ref x.s.ord.nextId)], lastAt := s.cycle } }
    else none) = true := by decide +kernel

/-- A group of module 5: the arrival leaves by a flit. -/
theorem witness_BarjGrp_far :
    let s := oneV (.barjGrp (fs 1 0)) 0 [0x5003] none [[it 0]]
    let s := { s with runs := s.runs.map fun r => { r with groups := [0x5003] } }
    meets (.barjGrp (fs 1 0)) s (fun x =>
      let id := x.s.ord.nextId
      if x.heads [0] = some [.tok (it 0)] ∧ x.run.groups.contains x.grp = true ∧ x.s.farGroup (x.grp.setWidth 64) = true ∧ x.s.freeTag ≠ none then
        x.fireAct (.barjGrp (fs 1 0))
          { elem := x.elem.pop 0
            later := [⟨id, false, x.all fun k => .tok k (it 0), 1, [(0, .tok (it 0))], none, none⟩]
            eff := fun s => ((s.nextId (id + 1)).askGroup .arrive x.grp (groupPayload x.grp false false (x.s.identity x.ref.run) 0 0 0)
              (.place x.ref id)).getD (s.nextId (id + 1)) }
      else none) = true := by decide +kernel

theorem witness_BarjGrp_outside : (firingOf (.barjGrp (fs 1 0)) (oneV (.barjGrp (fs 1 0)) 0 [3] none [[it 0]])).map (fun x =>
    decide (x.heads [0] = some [.tok (it 0)] ∧ x.run.groups.contains x.grp = false)) = some true := by decide +kernel

theorem witness_Bardrop : meets (.bardrop (fs 0 3)) (oneV (.bardrop (fs 0 3)) 0 [] none [[mk .last (it 9)]]) (fun x =>
    if x.heads [0] = some [.tok (mk .last (it 9))] then
      x.fireAct (.bardrop (fs 0 3)) { elem := x.elem.pop 0, emits := x.all fun k => .tok k (mk .last (it 3)) } else none) = true := by
  decide +kernel

theorem witness_BardropGrp : meets (.bardropGrp (fs 1 0)) (groupSt (oneV (.bardropGrp (fs 1 0)) 0 [3] none [[it 0]]) []) (fun x =>
    if x.heads [0] = some [.tok (it 0)] ∧ x.run.groups.contains x.grp = true then
      x.fireAct (.bardropGrp (fs 1 0)) { elem := x.elem.pop 0, eff := fun s => s.modGroup x.grp fun g => { g with drops := g.drops ++ [0] } }
    else none) = true := by decide +kernel

theorem witness_BarrierRelease :
    let s := groupSt (oneV (.bardropGrp (fs 1 0)) 0 [3] none []) [(0, .place e0 1), (1, .place e0 2)]
    ((s.group? 3).map fun g => decide (g.arrivals ≠ [] ∧ g.members.length ≤ g.arrivals.length + g.drops.length ∧ g.lastAt ≠ s.cycle)) = some true := by
  decide +kernel

theorem witness_Trap : (firingOf (.trap (fs 0 5)) (one (.trap (fs 0 5)) [[it 0]])).map (fun x =>
    decide (x.heads [0] = some [.tok (it 0)] ∧ x.md ≠ 1) && (x.fireAct (.trap (fs 0 5))
      { elem := x.elem.pop 0, later := [⟨x.s.ord.nextId, true, x.all fun o => x.forward false (.tok (it 0)) o, 0, [], none, none⟩] }).isSome)
    = some true := by decide +kernel

theorem witness_Trap_nz : meets (.trap (fs 1 5)) (one (.trap (fs 1 5)) [[it 0]]) (fun x =>
    if x.heads [0] = some [.tok (it 0)] ∧ x.md = 1 then
      x.fireAct (.trap (fs 1 5)) { elem := x.elem.pop 0, emits := x.all fun o => x.forward false (.tok (it 0)) o } else none) = true := by
  decide +kernel

theorem witness_Brk : meets (.brk (fs 0 0)) (one (.brk (fs 0 0)) [[it 4]]) (fun x =>
    if x.avail 0 = some (.tok (it 4)) ∧ x.run.regs.debug = false then
      x.fireAct (.brk (fs 0 0)) { elem := { x.elem.pop 0 with ended := false, ctl := .brk false }
                                  emits := x.all fun o => x.forward false (.tok (it 4)) o } else none) = true := by decide +kernel

theorem witness_Brk_holds :
    let s := one (.brk (fs 0 0)) [[it 4]]
    (firingOf (.brk (fs 0 0)) { s with runs := s.runs.map fun r => { r with regs := { r.regs with debug := true } } }).map (fun x =>
      decide (x.avail 0 = some (.tok (it 4)) ∧ x.run.regs.debug = true ∧ x.elem.ctl ≠ .brk true
        ∧ dropEmpty x.elem.out = []
        ∧ roomFor x.load 0 x.blk x.s.cycle 0 (.brk (fs 0 0)) (fs 0 0) true (x.outs.map fun k => (k, eosTok false 0)) = true)) = some true := by decide +kernel

theorem witness_Rdtime : meets (.rdtime (fs 2 0)) (one (.rdtime (fs 2 0)) [[mk .last (it 0)]]) (fun x =>
    if x.heads [0] = some [.tok (mk .last (it 0))] ∧ x.md = 2 ∧ x.s.time = 6 then
      x.fireAct (.rdtime (fs 2 0)) { elem := x.elem.pop 0, emits := x.all fun k => .tok k (it 6)
                                     later := laterItems [x.all fun k => .tok k (mk .last (it 0))] } else none) = true := by decide +kernel

/-- Register 0x001 holds the run's flags, which level U reads and writes (19 R328). -/
theorem witness_Rdsys : meets (.rdsys (fs 0 1)) (one (.rdsys (fs 0 1)) [[it 0]]) (fun x =>
    if x.heads [0] = some [.tok (it 0)] ∧ x.md = 0 ∧ sysAcc (x.s.levelS x.run.slot) 1 ≠ .none then
      let r := scalarTok (x.rc.encodeInt ((x.s.sysRead x.run 1).setWidth 32)) .data x.rcNo
      x.fireAct (.rdsys (fs 0 1)) { elem := x.elem.pop 0, emits := x.all fun k => .tok k r } else none) = true := by decide +kernel

theorem witness_Rdsys_priv : (firingOf (.rdsys (fs 0 0xFFF)) (one (.rdsys (fs 0 0xFFF)) [[it 0]])).map (fun x =>
    decide (x.heads [0] = some [.tok (it 0)] ∧ sysAcc (x.s.levelS x.run.slot) (x.imm 11 0) = .none)) = some true := by decide +kernel

theorem witness_Wrsys : meets (.wrsys (fs 1 1)) (one (.wrsys (fs 1 1)) [[it 7]]) (fun x =>
    if x.heads x.ins = some [.tok (it 7)] ∧ sysAcc (x.s.levelS x.run.slot) 1 = .rw ∧ x.md = 1 then
      x.fireAct (.wrsys (fs 1 1)) { elem := x.elem.pops x.ins, emits := x.all fun k => .tok k (it 0)
                                    eff := fun s => { s with adm := { s.adm with regw := s.adm.regw ++ [⟨0, 1, 7, true⟩] } } }
    else none) = true := by decide +kernel

theorem witness_Wrsys_priv : (firingOf (.wrsys (fs 1 0xFFF)) (one (.wrsys (fs 1 0xFFF)) [[it 7]])).map (fun x =>
    decide (x.heads x.ins = some [.tok (it 7)] ∧ sysAcc (x.s.levelS x.run.slot) (x.imm 11 0) = .none)) = some true := by decide +kernel

/-- A second run, FROZEN in place. -/
def withRun1 (s : State) (r : Run) : State := { s with runs := s.runs ++ [{ r with id := 1 }] }
def frozenRun : Run := { Run.init 1 0 0 0 0 [] with st := .frozen, hold := .supervisor }

theorem witness_Freeze : (firingOf (.freeze (fs 0 0)) (withRun1 (one (.freeze (fs 0 0)) [[it 1]]) frozenRun)).map (fun x =>
    decide (x.heads x.ins = some [.tok (it 1)] ∧ x.md = 0 ∧ x.ref.run ≠ 1 ∧ (x.s.run? 1).isSome = true)) = some true := by decide +kernel

theorem witness_Readout : (firingOf (.readout (fs 0 0)) (withRun1 (oneP (.readout (fs 0 0)) [0x1000] [[it 1], [it 0]]) frozenRun)).map (fun x =>
    decide ((x.heads x.ins).isSome = true ∧ frozenRun.inPlace = true ∧ frozenRun.order? 2 = none)) = some true := by decide +kernel

def ordered (r : Run) (c : Nat) : Run := { r with orders := [(c, some (e0, 1))] }
theorem witness_FreezeArrival :
    let s := withRun1 (one (.sink (fs 0 0)) []) (ordered placedRun 0)
    (s.run? 1).map (fun r => decide (r.order? 0 = some (0, some (e0, 1)) ∧ r.st = .resident)) = some true := by decide +kernel
theorem witness_ThawArrival :
    let s := withRun1 (one (.sink (fs 0 0)) []) (ordered frozenRun 1)
    (s.run? 1).map (fun r => decide (r.order? 1 = some (1, some (e0, 1)) ∧ r.inPlace = true ∧ r.hold = .supervisor ∧ r.groups = []
      ∧ (s.dropOrder 1 (1, some (e0, 1))).unitHeld r = false)) = some true := by decide +kernel

theorem witness_Grant : let s := one (.grant (fs 0 0)) [[it 0x100], [it 0]]
    (firingOf (.grant (fs 0 0)) { s with chip := { s.chip with grantKey := some 1 } }).map (fun x =>
      decide (x.heads x.ins = some [.tok (it 0x100), .tok (it 0)] ∧ fld (0x100 : W32) 23 16 = x.s.chip.modnum.toNat
        ∧ x.s.chip.grantKey = some 1 ∧ 1 ≤ fld (0x100 : W32) 15 8 ∧ fld (0x100 : W32) 15 8 ≤ 128)) = some true := by decide +kernel

/-- The own run and an identifier that no run has. -/
theorem witness_Freeze_self : (firingOf (.thaw (fs 0 0)) (one (.thaw (fs 0 0)) [[it 0]])).map (fun x =>
    decide (x.heads x.ins = some [.tok (it 0)] ∧ (it 0).word.toNat = x.ref.run ∧ x.s.run? 7 = none)) = some true := by decide +kernel

/-- A run whose record at 0x1000 has been read out by the run's own slot. -/
theorem witness_Restore : (firingOf (.restore (fs 0 0)) (withRun1 (oneP (.restore (fs 0 0)) [0x1000] [[it 1], [it 0]])
      { frozenRun with hold := .readout, record := some (some 0, 0x1000) })).map (fun x =>
    match x.heads x.ins with
    | some ps => decide (x.recordVa ps = 0x1000 ∧ x.run.slot = 0 ∧ frozenRun.order? 3 = none)
    | none => false) = some true := by decide +kernel

/-! ## Witnesses: firings -/

theorem witness_FiringFrame : (firingOf (.sink (fb 0 0)) (one (.sink (fb 0 0)) [[it 7]])).map (fun x =>
    decide (x.blk.tx = false ∧ (x.s.site { x.ref with idx := 1 }).isSome = true)
      && (x.fireAct (.sink (fb 0 0)) { elem := x.elem.pop 0, flags := 16 }).isSome) = some true := by decide +kernel

theorem witness_TokensReachTheirConsumer :
    (firingOf (.add (fb 0 5)) (one (.add (fb 0 5)) [[it 7]])).map (fun x =>
    decide (conOf x.blk (.add (fb 0 5)) x.f 0 = c1 ∧ x.ref.idx ≠ 1 ∧ 1 < x.blk.elems.length ∧ 1 < x.blk.words.length
      ∧ (x.blk.elems[1]?).map (fun e => decide (0 < e.q.length)) = some true)
    && (let e := x.elem.pop 0
        (x.fireAct (.add (fb 0 5)) { elem := { e with pend := [3, 0] }, emits := [.tok 0 (it 1)] }).isSome
        && (x.fireAct (.add (fb 0 5)) { elem := { e with pend := [3, 0] }, emits := [.elide 0 1 false 0] }).isSome
        && (x.fireAct (.add (fb 0 5)) { elem := { e with pend := [63, 0] }, emits := [.elide 0 1 false 0] }).isSome)) = some true := by
  decide +kernel

theorem witness_TokensReachTheirConsumer_full :
    let s := one (.add (fb 0 5)) [[it 7]]
    let s := s.modElem ⟨0, 0, 0, 0, 1⟩ fun e => { e with q := [[it 1, it 2, it 3, it 4]] }
    (firingOf (.add (fb 0 5)) s).map (fun x => decide (x.heads x.ins = some [.tok (it 7)] ∧ conOf x.blk (.add (fb 0 5)) x.f 0 = c1
      ∧ x.ref.idx ≠ 1 ∧ linkCap x.load 0 ⟨1, 0, 4⟩ = 4 ∧ (queueOf x.load 0 x.blk ⟨1, 0, 4⟩).length = 4)) = some true := by decide +kernel

/-- A firing in a transactional block whose wave 0 is new. -/
theorem witness_FiringFrame_tx : (firingOf (.add (fb 0 5)) (st { feed (blk (pair (.add (fb 0 5))) [0, 0] []) [[it 7]] with hdr := 1 <<< 116 })).map (fun x =>
    decide (x.blk.tx = true) && (x.fireAct (.add (fb 0 5)) { elem := x.elem.pop 0, emits := [.tok 0 (it 12)], flags := 16 }).any fun t =>
      t.ord.waves.map (fun w => (w.blk == ⟨0, 0, 0, 0⟩, w.k, w.flags)) == [(true, 0, 16)]) = some true := by decide +kernel

/-- The consumer's input is the read side of a write-once buffer: the token goes to its write port. -/
theorem witness_TokensReachTheirConsumer_buffer :
    let s := one (.add (fb 0 5)) [[it 7]]
    let s := s.modLoad 0 0 0 fun l => { l with bufs := [⟨0, 1, 0, 0, 0, 0, 1, [], 0, 0⟩]
                                               blks := l.blks.map fun b => { b with elems := b.elems.map fun e => { e with q := List.replicate 8 [] } } }
    let s := s.modElem e0 fun e => { e with q := [[it 7]] }
    (firingOf (.add (fb 0 5)) s).map (fun x => decide (conQueue x.load 0 ⟨1, 0, 4⟩ = 4)
      && (x.fireAct (.add (fb 0 5)) { elem := x.elem.pop 0, emits := [.tok 0 (it 12)] }).any fun t =>
        ((t.site { x.ref with idx := 1 }).map fun h => h.elem.queue 4) == some [it 12]) = some true := by decide +kernel

/-! ## Witnesses: sequence words and traps -/

/-- The image of run 0: these words. -/
def imgW (ws : List W64) : Image := { img0 with seq := ws }

/-- Run 0 with its sequence, in focus at its word, with 64 G registers. -/
def seqSt (ws : List W64) (f : Run → Run) : State :=
  { State.reset with
    focus := some ⟨0, none⟩
    runs := [f placedRun]
    adm := { State.reset.adm with images := [imgW ws] } }

/-- The run that issues, and a check on it. -/
def issues (s : State) (p : Run → Bool) : Bool := match wordRun s with
  | some r => p r
  | none => false

theorem witness_GRegisterWords : issues (seqSt [0, 0] id) (fun r => decide (r.esc.sqc + 1 < ((seqSt [0, 0] id).seqOf r).length)) = true := by
  decide +kernel
theorem witness_GRegistersReadBack_last : issues (seqSt [0] id) (fun r => decide (((seqSt [0] id).seqOf r).length ≤ r.esc.sqc + 1)) = true := by
  decide +kernel
theorem witness_GRegistersReadBack : placedRun.esc.g.length = 64 ∧ ((5 : BitVec 6) ≠ 0) ∧ ((6 : BitVec 6) ≠ 5) := by decide +kernel

def looped (n : Nat) (r : Run) : Run := { r with esc := { r.esc with loops := [⟨n, 0, 0, 1, 1⟩], sqc := 1, e := [[it 3]] ++ List.replicate 7 [] } }

theorem witness_BranchWords : issues (seqSt [0, 0, 0] id) (fun r => decide ((0 : Int) ≤ r.esc.sqc + (2 : BitVec 38).toInt
    ∧ (r.esc.sqc + (2 : BitVec 38).toInt : Int) < ((seqSt [0, 0, 0] id).seqOf r).length ∧ (r.esc.sqc + (-1 : BitVec 38).toInt : Int) < 0
    ∧ r.getG 5 = 0 ∧ (r.setG 5 1).getG 5 ≠ 0)) = true := by decide +kernel
theorem witness_Loops : issues (seqSt [0, 0, 0] (looped 2)) (fun r => decide (r.esc.loops = [⟨2, 0, 0, 1, 1⟩]
    ∧ headPos (r.esc.e.getD 0 []) = some (.tok (it 3)) ∧ headPos (r.esc.e.getD 1 []) = none ∧ r.esc.handler = none
    ∧ r.esc.sqc + 1 < ((seqSt [0, 0, 0] (looped 2)).seqOf r).length ∧ (seqSt [0, 0, 0] (looped 2)).endlOf r + 1 < 3)) = true := by decide +kernel
theorem witness_Loops_last : issues (seqSt [0, 0, 0] (looped 1)) (fun r => decide (r.esc.loops = [⟨1, 0, 0, 1, 1⟩])) = true := by decide +kernel
theorem witness_Loops_full :
    issues (seqSt [0] fun r => { r with esc := { r.esc with loops := List.replicate 8 ⟨1, 0, 0, 1, 1⟩ } }) (fun r => decide (8 ≤ r.esc.loops.length))
      = true := by decide +kernel

def streamImg : Image := { imgW [0, 0] with streams := [1] }
def streamSt (g : Gen) : State :=
  let s := seqSt [0, 0] fun r => { r with region := { r.region with gens := [[g]] } }
  { s with adm := { s.adm with images := [streamImg] } }
theorem witness_StreamBindsAGenerator : issues (streamSt ⟨none, []⟩) (fun r => decide (r.esc.handler = none
    ∧ (streamSt ⟨none, []⟩).image? r = some streamImg ∧ streamImg.streams[0]? = some 1 ∧ r.region.gens[0]? = some [⟨none, []⟩]
    ∧ r.esc.sqc + 1 < ((streamSt ⟨none, []⟩).seqOf r).length)) = true := by decide +kernel
theorem witness_StreamBinds_pending : (⟨some bind3, [bind3]⟩ : Gen).pending.length < 3 ∧ bind3.ended = false
    ∧ 3 ≤ (⟨some bind3, [bind3, bind3, bind3]⟩ : Gen).pending.length ∧ ({ bind3 with ended := true } : Binding).ended = true := by decide

def confSt : State := { st (blk [0x4F02_0000_0000_0000] [0] []) with
  focus := some ⟨0, none⟩
  adm := { State.reset.adm with images := [imgW [0, 0]] } }
/-- Its configuration is registered as done. -/
def register (r : Run) : Run :=
  let ls := (r.plane 0).loads.map fun l => { l with registered := true }
  r.setPlane 0 { r.plane 0 with loads := ls }
def confDone : State := { confSt with runs := confSt.runs.map register }
theorem witness_ConfigurationWords : issues confDone (fun r =>
    decide (r.esc.handler = none ∧ r.st = .resident ∧ r.esc.wait ≠ .loading ∧ confDone.depthOk r = true
      ∧ ((r.plane r.act).loads.findIdx? fun l => l.cfg == 0) = some 0 ∧ ((r.plane r.act).loads.findIdx? fun l => l.cfg == 1) = none
      ∧ (r.plane (1 - r.act)).holdsNone = true ∧ (r.plane (1 - r.act)).fault = none)
    && (match confDone.drainOf r (fun _ => true), confDone.drainOf r (r.mustDrain 0) with
        | .ok, .ok => true
        | _, _ => false)) = true := by decide +kernel
theorem witness_Phase_waits : issues confSt (fun r => match confSt.drainOf r (fun _ => true) with
    | .wait => true
    | _ => false) = true := by decide +kernel
theorem witness_Swap : let p : Plane := { Plane.empty with loads := [{ placedLoad 0 with cfg := 3 }] }
    p.holdsNone = false ∧ p.loading = none ∧ p.reload = none := by decide

theorem witness_StartedConfiguration : (confSt.run? 0).map (fun r => decide (r.id = 0 ∧ ((r.plane r.act).loads[0]?).isSome = true)) = some true := by
  decide +kernel

theorem witness_RequestWords : issues (seqSt [0, 0] id) (fun r =>
    let s := seqSt [0, 0] id
    decide (r.esc.wait = .idle ∧ s.noSuchName true 0 = false ∧ s.farGroup 0 = false ∧ s.noSuchName false 0 = true ∧ r.esc.handler = none
      ∧ s.noOwner r (s.rlist r 0).2 = none ∧ (s.rlist r 0).2 = [] ∧ s.fixGroup r 0 0 = 0)
    && (match s.drainOf r (fun _ => true) with
        | .ok => true
        | _ => false)) = true := by decide +kernel
theorem witness_Fixe_group : issues (seqSt [0, 0] fun r => { r with esc := { r.esc with fix := some 0 } }) (fun r =>
    decide (r.esc.fix = some ((seqSt [0, 0] id).fixGroup r 5 0))) = true := by decide +kernel
theorem witness_Rotate_open : hdrOpen (BitVec.ofNat 512 (2 ^ 42)) = true := by decide +kernel
theorem witness_Retract : issues (seqSt [0, 0] id) (fun r => match (paged (seqSt [0, 0] id) []).retractCheck r 0 (r.getG 5) with
    | .ok _ => decide (r.esc.wait ≠ .retracting)
    | .error _ => false) = true := by decide +kernel

def handled (r : Run) : Run := { r with regs := { r.regs with handler := 0x8000_0000_0000_1000 } }
theorem witness_TakingATrap :
    let s := paged (seqSt [0, 0] handled) []
    (s.run? 0).map (fun r => decide (r.esc.handler = none ∧ Trap.seqtrap ≠ .brk ∧ r.regs.handler.getLsbD 63 = true ∧ r.esc.g.length = 64)
      && (match ({ s with free := s.free + 256 } : State).vwrite r.slot (fld r.regs.handler 56 8 * 256) [1] with
          | .ok _ => true
          | .error _ => false) && s.ord.waves.isEmpty) = some true := by decide +kernel

theorem witness_ReturningFromATrap :
    let s := paged (seqSt [0, 0] fun r => { handled r with
      st := .frozen, hold := .handler, esc := { r.esc with handler := some (1, 2, 0, true, .idle) } }) []
    issues s (fun r => decide (r.esc.handler = some (1, 2, 0, true, .idle) ∧ r.esc.g.length = 64)
      && (match s.vread r.slot (fraOf r.regs.handler) 64 with
          | .ok _ => true
          | .error _ => false)) = true := by decide +kernel

theorem witness_RecordsAndErrorLog : (FaultInfo.base 0x103 1).cyc.length ≤ 16 ∧ (0x103 : Nat) < 2 ^ 16
    ∧ (State.reset.die 0).errlog.getLsbD 63 = false ∧ 0 < State.reset.dies.length
    ∧ ({ Die.reset with errlog := 0x8000_0000_0000_0000 } : Die).errlog.getLsbD 63 = true := by decide +kernel

/-- LOOP pipelined of two iterations over CONF #0 and CONF #1: a controller starts both itself. -/
def loopWords : List W64 := [(encode (.loop 0 1 1 2)).getD 0, (encode (.conf 0)).getD 0, (encode (.conf 1)).getD 0, (encode .endl).getD 0, 0]
def loopSt (f : Run → Run) : State :=
  let s := seqSt loopWords f
  { s with adm := { s.adm with images := [{ imgW loopWords with loops := [(0, 3)] }] } }
theorem witness_Controller : issues (loopSt id) (fun r =>
    let s := loopSt id
    decide ((kidsOf (s.seqOf r) (r.esc.sqc + 1) (s.endlOf r)).map (·.map fun k => (k.at_, k.started, k.drained)) = some [(1, 0, 0), (2, 0, 0)]
      ∧ r.esc.wait = .idle ∧ r.esc.loops.length < 8 ∧ s.endlOf r + 1 < (s.seqOf r).length)
    && (match s.drainOf r r.ordered with
        | .ok => true
        | _ => false)) = true := by decide +kernel
theorem witness_Controller_ends :
    let f : Run → Run := fun r => { r with esc := { r.esc with wait := .control 1 2 [⟨1, 2, 2⟩, ⟨2, 2, 2⟩] } }
    let s := loopSt f
    issues s (fun r => decide (r.esc.wait = .control 1 2 [⟨1, 2, 2⟩, ⟨2, 2, 2⟩] ∧ [(⟨1, 2, 2⟩ : Kid), ⟨2, 2, 2⟩].all (fun x => 2 ≤ x.drained))
      && (match s.drainOf r (fun l => ([(⟨1, 2, 2⟩ : Kid), ⟨2, 2, 2⟩].filterMap fun x => (s.kidConf r x).map (·.1)).contains l.cfg) with
        | .ok => true
        | _ => false)) = true := by decide +kernel

/-- A group of module 5, which is a partner. -/
def farSt : State :=
  let s := seqSt [0, 0] fun r => (r.setG 5 0x5003)
  { s with chip := { s.chip with peers := [5] } }
theorem witness_RequestWords_far : issues farSt (fun r =>
    decide (r.esc.wait = .idle ∧ farSt.noSuchName true (r.getG 5) = false ∧ farSt.farGroup (r.getG 5) = true ∧ farSt.freeTag = some 0
      ∧ farSt.noSuchName false (r.getG 5) = false)) = true := by decide +kernel
theorem witness_RequestWords_noTag :
    ({ farSt with chip := { farSt.chip with tags := (List.range 4096).map fun k => ⟨k, 5, .acc 0, none⟩ } } : State).freeTag = none := by
  simp [State.freeTag, List.find?_eq_none]
theorem witness_Fixe_far : issues { farSt with runs := farSt.runs.map fun r => { r with esc := { r.esc with fix := some 0x5003 } } } (fun r =>
    decide (r.esc.fix = some (farSt.fixGroup r 5 0) ∧ farSt.farGroup ((farSt.fixGroup r 5 0).setWidth 64) = true)) = true := by decide +kernel

/-- A list with a header that is not 64-byte aligned, and one that no run owns. -/
def rlistSt (h : Nat) : State :=
  let s := seqSt [0, 0] id
  { s with adm := { s.adm with images := [{ imgW [0, 0] with rlists := [(0, [h])] }] } }
theorem witness_Fixb_relhdr : issues (rlistSt 0x41) (fun r =>
    decide (((rlistSt 0x41).rlist r 0).2.find? (fun h => h % 64 != 0) = some 0x41)) = true := by decide +kernel
theorem witness_Fixb_noowner : issues (rlistSt 0x40) (fun r =>
    decide (((rlistSt 0x40).rlist r 0).2.all (fun h => h % 64 == 0) = true ∧ (rlistSt 0x40).noOwner r ((rlistSt 0x40).rlist r 0).2 = some 0x40))
      = true := by decide +kernel

/-! ## Witnesses: accesses, points, waves -/

/-- Access 5 of element 0, a word at 0x20000. -/
def acc5 (k : AccKind) (st : Stage) (p : Option Place) : Access where
  id := 5
  run := 0
  port := 0
  stamp := 1
  site := 0
  serial := 1
  elem := e0
  rid := 9
  kind := k
  va := 0x20000
  width := 4
  fmt := 9
  chan := 0
  mark := .data
  data := 3
  aux := 0
  lane := none
  parts := []
  ew := 0
  enable := 0xF
  stage := st
  place := p
  units := []
  got := 0
  psn := false
  epoch := 0
  poll := 0
  walked := none
  hops := 0
  ats := 0
  fault := none
  wave := none

def nopBlk : Blk := blk [0x4F02_0000_0000_0000] [0] []

/-- Block b0 with these accesses, over the identity map. -/
def accSt (l : List Access) : State :=
  let s := paged (st nopBlk) []
  { s with ord := { s.ord with accs := l } }

/-- A check on access 5 and its run. -/
def onAcc (s : State) (p : Access → Run → Bool) : Bool :=
  match s.acc? 5 with
  | some a => match s.run? a.run with
    | some r => p a r
    | none => false
  | none => false

theorem witness_IssueAndTranslation_issue : onAcc (accSt [acc5 .load .queued none]) (fun a r =>
    let s := accSt [acc5 .load .queued none]
    decide (r.st = .resident ∧ a.stage = .queued ∧ s.blocked r a = false ∧ a.addressed = true ∧ a.place = none ∧ s.cached r a = none
      ∧ (∀ b ∈ s.earlier a, b.port = a.port → b.stage ≠ .queued)) && !(acc5 (.fence 0) .queued none).addressed) = true := by decide +kernel
theorem witness_IssueAndTranslation_cached :
    let s := accSt [acc5 .load .queued none]
    let t := { s with ord := { s.ord with tlb := [⟨0, some 0, 0, 0, 30, 7, 0⟩] } }
    onAcc t (fun a r => decide (t.cached r a = some (.hbm 0x20000) ∧ t.blocked r a = false)) = true := by decide +kernel
theorem witness_IssueAndTranslation_walk : onAcc (accSt [acc5 .load .parked none]) (fun a r =>
    match (accSt [acc5 .load .parked none]).walkOn r.slot a.va a.walked with
    | .ok l => rightsOk a.kind l.pte && decide (pteTgt l.pte ≠ 2 ∧ a.stage = .parked ∧ a.ats = 0 ∧ a.fault = none)
    | .error _ => false) = true := by decide +kernel
theorem witness_IssueAndTranslation_fault : onAcc (accSt [{ acc5 .load .parked none with va := 2 ^ 31 }]) (fun a r =>
    match (accSt []).walkOn r.slot a.va a.walked with
    | .ok _ => false
    | .error _ => decide (a.stage = .parked ∧ a.ats = 0 ∧ a.fault = none)) = true := by decide +kernel

/-- A leaf of the host's memory in the second GiB. -/
def hostLeaf : List Host.Cell := [(0x3008, 7), (0x300F, 0x80)]
theorem witness_IssueAndTranslation_ats :
    let s := paged (st nopBlk) hostLeaf
    let t := { s with ord := { s.ord with accs := [{ acc5 .load .parked none with va := 2 ^ 30, ats := 1 }] } }
    onAcc t (fun a r => match t.walk r.slot a.va with
      | .ok l => decide (a.ats = 1 ∧ a.stage = .parked ∧ pteTgt l.pte = 2 ∧ t.cached r a = none ∧ t.ord.accs.countP (fun x => x.ats == 2) < 256)
      | .error _ => false) = true := by decide +kernel
theorem witness_IssueAndTranslation_pri : onAcc (accSt [{ acc5 .load .parked none with ats := 2 }]) (fun a _ =>
    decide (a.ats = 2 ∧ a.stage = .parked)) = true := by decide +kernel

theorem witness_AcquireAndRelease_held :
    let a : Access := { acc5 .acquire .parked none with id := 4 }
    let c : Access := { acc5 .load .pending none with id := 4, port := 1, stamp := 0 }
    (accSt [a, acc5 .load .queued none]).acc? 5 = some (acc5 .load .queued none)
      ∧ ((accSt [a, acc5 .load .queued none]).ord.accs = [] ++ a :: ([] ++ acc5 .load .queued none :: []) ∧ ∀ x ∈ [a], x.id ≠ 5)
      ∧ (accSt [c, acc5 .release .queued none]).acc? 5 = some (acc5 .release .queued none) ∧ c.port ≠ 0 ∧ c.stamp < 1
      ∧ a.run = 0 ∧ c.run = 0 ∧ (acc5 .load .queued none).wave = none ∧ c.stage ≠ .done := by decide +kernel
theorem witness_AcquireAndRelease_issue : ∀ k ∈ [AccKind.acquire, .release], onAcc (accSt [acc5 k .queued none]) (fun a r =>
    let s := accSt [acc5 k .queued none]
    let t := { s with ord := { s.ord with tlb := [⟨0, some 0, 0, 0, 30, 7, 0⟩] } }
    decide (r.st = .resident ∧ a.stage = .queued ∧ s.earlier a = [] ∧ s.gated r a = false
      ∧ a.place.orElse (fun _ => s.cached r a) = none ∧ a.place.orElse (fun _ => t.cached r a) = some (.hbm 0x20000))) = true := by
  decide +kernel

/-- Pending at physical 0x20000. -/
def pend5 (k : AccKind) : Access := acc5 k .pending (some (.hbm 0x20000))
theorem witness_AccessesPerform : ∀ k ∈ [AccKind.load, .acquire, .ldsync, .store, .release, .sete, .atomic 0xBE, .waita, .wakea, .pin, .unpin],
    onAcc (accSt [pend5 k]) (fun a r => let s := accSt [pend5 k]
      decide (a.stage = .pending ∧ a.wave = none ∧ s.conflicts (placeKey (.hbm 0x20000)) a.kind.writes none = [] ∧ a.units = [] ∧ a.psn = false
        ∧ s.isFull 0x20000 = true ∧ s.rangeOwner r.slot a.va = none) && (s.placeRead (.hbm 0x20000) a.width).isSome) = true := by decide +kernel
theorem witness_AccessesPerform_empty :
    let s := accSt [pend5 .ldsync]
    ({ s with mem := { s.mem with notFull := [0x800] } }).isFull 0x20000 = false := by decide +kernel
theorem witness_AccessesPerform_fence : onAcc (accSt [acc5 (.fence 0) .pending none]) (fun a r =>
    (accSt [acc5 (.fence 0) .pending none]).fenceReady r a 0) = true
    ∧ onAcc (accSt [{ pend5 .store with id := 4 }, acc5 (.fence 0) .pending none]) (fun a r =>
      !(accSt [{ pend5 .store with id := 4 }, acc5 (.fence 0) .pending none]).fenceReady r a 0) = true := by decide +kernel
theorem witness_AccessesPerform_poll : onAcc (accSt [acc5 .waita .polling (some (.hbm 0x20000))]) (fun a _ =>
    let s := accSt [acc5 .waita .polling (some (.hbm 0x20000))]
    decide (a.stage = .polling ∧ s.epoch 3 (bucketOf a.va) = a.epoch ∧ a.poll ≤ s.cycle)
      && (s.placeRead (.hbm 0x20000) 4).isSome) = true ∧ (accSt []).epoch 3 (bucketOf 0x20000) ≠ 1 := by decide +kernel
/-- No die has moved a bucket, whichever is home to the line. -/
theorem epoch_accSt (l : List Access) (d b : Nat) : (accSt l).epoch d b = 0 := by
  have h : (accSt l).dies = List.replicate 8 Die.reset := rfl
  simp only [State.epoch, State.die, h, List.getD_eq_getElem?_getD, List.getElem?_replicate]
  split <;> rfl
theorem witness_AccessesPerform_gate :
    let s := (let s := accSt []; { s with runs := s.runs.map fun (r : Run) => { r with gates := [(3, none)] } } : State)
    (s.run? 0).map (fun r => decide (r.gates.find? (fun x => x.1 == 0) = none ∧ r.gates.find? (fun x => x.1 == 3) = some (3, none) ∧ r.st ≠ .frozen
      ∧ s.ord.reqs = [] ∧ s.ord.accs = [] ∧ s.ord.wbuf = [] ∧ r.pinned = none)) = some true := by decide +kernel
theorem witness_AccessesPerform_remote : ∀ k ∈ [AccKind.load, .acquire, .ldsync, .waita, .wakea, .sete],
    let s := accSt [acc5 k .pending (some (.remote 9 0x20000 7))]
    onAcc s (fun a _ => decide (a.stage = .pending ∧ a.place = some (.remote 9 0x20000 7) ∧ a.wave = none
      ∧ s.conflicts (placeKey (.remote 9 0x20000 7)) a.kind.writes none = [] ∧ s.freeTag = some 0)) = true := by decide +kernel

theorem witness_StoresAndAtomics : onAcc (accSt [pend5 (.atomic 0xBE)]) (fun a r =>
    let s := accSt [pend5 (.atomic 0xBE)]
    decide (s.mem.wf = true ∧ r.slot = 0 ∧ s.pinnedAt (.hbm 0x20000) a.width = false ∧ a.width ≠ 64 ∧ s.poisoned 0x20000 = false ∧ s.ord.monitors = [] ∧ a.width = 4
      ∧ 0x20000 % 64 ≤ 60 ∧ a.fmt = 9 ∧ a.kind = .atomic 0xBE)) = true := by decide +kernel

/-- A fetch-and-add to the host's memory, so that its points are fixed. -/
def fadd5 (h : Nat) : Access := { acc5 (.atomic 0xBA) .pending (some (.host 0x20000)) with hops := h }
theorem witness_CombiningAndOwnerNodes_arrival : onAcc (accSt [fadd5 0]) (fun a r =>
    let s := accSt [fadd5 0]
    match (s.pointsOf r.die r.slot a.va (.host 0x20000))[a.hops]? with
    | some pt => decide (a.stage = .pending ∧ a.op = 0xBA ∧ a.wave = none ∧ s.openRec pt (.host 0x20000) 0xBA (.acc 5) = none ∧ s.tableRoom pt = true)
        && (s.meet pt r.slot a.va a.op 1 (.host 0x20000) (.acc 5) (a.data.setWidth 64) (r.portOf a.port)).isSome
    | none => false) = true := by decide +kernel
theorem witness_CombiningAndOwnerNodes_past : onAcc (accSt [fadd5 2]) (fun a r =>
    decide (((accSt [fadd5 2]).pointsOf r.die r.slot a.va (.host 0x20000))[a.hops]? = none)) = true := by decide +kernel

/-- A record of point 512 of two adds to 0x20000. -/
def boomSt (closed : Bool) (reply : Option W64) : State :=
  let s := accSt [fadd5 2, { fadd5 2 with id := 6 }]
  { s with ord := { s.ord with boom := [⟨7, 512, .hbm 0x20000, 0, 0x20000, 0xBA, [(.acc 5, 3, 0, 0), (.acc 6, 4, 0, 1)], 2, closed, 0, false, reply, false, false⟩] } }
theorem witness_CombiningAndOwnerNodes_records :
    ((boomSt false none).rec? 7).map (fun b => decide (b.point = 512 ∧ b.closed = false ∧ b.opened + 8 ≤ (boomSt false none).cycle)) = some true
    ∧ ((boomSt true none).rec? 7).map (fun b => decide (b.closed = true ∧ b.sent = false ∧ (boomSt true none).nextPoint b = none
      ∧ (boomSt true none).conflicts (placeKey b.place) true none = [] ∧ (boomSt true none).rangeOwner b.slot b.va = none)) = some true
    ∧ ((boomSt true (some 10)).rec? 7).map (fun b => decide (b.reply = some 10 ∧ b.lost = false ∧ b.psn = false ∧ b.op = 0xBA
      ∧ b.members = [(.acc 5, 3, 0, 0), (.acc 6, 4, 0, 1)])) = some true
    ∧ (((boomSt true (some 10)).acc? 5).bind fun _ => (boomSt true (some 10)).acc? 6).isSome = true := by decide +kernel

/-- An insert of key 5 under weight 1 in the queue of the owner node of 0x40. -/
def ownMsg : OwnMsg := ⟨0, 0, 0, 0, .insert, 0x40, 5, 1, 0, 0, 1, none, []⟩
def ownSt (owners : List Owner) : State :=
  let s := paged (st nopBlk) []
  { s with ord := { s.ord with rels := [⟨0, 0x40, hH, 0⟩], owners := owners, ownq := [ownMsg] } }
theorem witness_CombiningAndOwnerNodes_owner :
    (ownSt [⟨0, 0, 0, true, 0x40, 9⟩]).ord.ownq.find? (fun m => m.die == 0 && m.input == 0 && m.arrived.isNone) = some ownMsg
    ∧ ((ownSt [⟨0, 0, 0, true, 0x40, 9⟩]).relOwner 0 0x40).any (fun o => o.die == 0 && o.run == 0) = true
    ∧ (match (ownSt [⟨0, 0, 0, true, 0x40, 9⟩]).relApply 0 0x40 true [5] 1 0 with
      | .done _ _ => true
      | _ => false) = true
    ∧ ((ownSt []).relOwner 0 0x40).any (fun o => o.die == 0 && o.run == 0) = false := by decide +kernel
/-- The same message with a write to perform, and one that waits behind an update of this cycle. -/
theorem witness_CombiningAndOwnerNodes_one_a_cycle :
    let m : OwnMsg := { ownMsg with arrived := some 0, todo := [(.hbm 0x20000, [1, 2])] }
    let s := ownSt []
    let t : State := { s with ord := { s.ord with ownq := [m] } }
    let u := s.modDie 0 fun d => { d with applied := some (s.cycle, 0, 0) }
    (∀ x ∈ s.ord.ownq, x.die = 0 → x.arrived = none ∧ x.todo = []) ∧ (s.die 0).applied.map (·.1) ≠ some s.cycle
      ∧ t.ord.ownq.find? (fun m => m.die == 0 && m.input == 0 && m.arrived.isNone) = none
      ∧ t.ord.ownq.find? (fun m => m.die == 0 && !m.todo.isEmpty) = some m ∧ m.todo ≠ [] ∧ t.ord.waves = []
      ∧ u.ord.ownq.find? (fun m => m.die == 0 && m.input == 1 && m.arrived.isNone) = none
      ∧ (∀ x ∈ u.ord.ownq, x.die = 0 → x.todo = []) ∧ (u.die 0).applied.map (·.1) = some u.cycle := by decide +kernel

def b0 : BlkRef := ⟨0, 0, 0, 0⟩
def wave0 : Wave := ⟨b0, 0, [], [], 0, 0⟩
def txBlk : Blk := { nopBlk with hdr := BitVec.ofNat 128 (2 ^ 116), elems := nopBlk.elems.map fun e => { e with fires := 1 } }
def waveSt (lines : List TxLine) (more : List Wave) : State :=
  let s := paged (st txBlk) []
  { s with ord := { s.ord with waves := { wave0 with lines := lines } :: more } }
theorem witness_WavesCommitAndAbort_commit : ((waveSt [] []).blk? b0).map (fun x => decide (x.tx = true ∧ x.committed = 0
    ∧ (∀ e ∈ x.elems, x.committed < e.fires)) && ((waveSt [] []).wave? b0 x.committed).isSome && (waveSt [] []).ord.accs.isEmpty) = some true := by
  decide +kernel
theorem witness_WavesCommitAndAbort_abort :
    let s := waveSt [⟨0x800, true, []⟩] []
    let t := { s with ord := { s.ord with accs := [{ pend5 .store with elem := ⟨0, 0, 0, 1, 0⟩ }] } }
    t.waveHit b0 0 = true ∧ (t.blk? b0).map (fun x => decide (x.serial = none ∧ x.aborts < 3)) = some true
      ∧ (t.wave? b0 0).isSome = true := by decide +kernel
theorem witness_WavesCommitAndAbort_store :
    let s := waveSt [] []
    let t := { s with ord := { s.ord with accs := [{ pend5 .store with wave := some 0 }] } }
    onAcc t (fun a r => decide (a.stage = .pending ∧ a.wave = some 0 ∧ t.conflicts (placeKey (.hbm 0x20000)) true (some a.blk) = []
      ∧ t.heldLines r.die < 16) && (t.wave? a.blk 0).isSome) = true := by decide +kernel
theorem witness_WavesCommitAndAbort_fourth :
    let s := waveSt [⟨0x800, true, []⟩] []
    let t := ({ s with ord := { s.ord with accs := [{ pend5 .store with elem := ⟨0, 0, 0, 1, 0⟩ }] } } : State).modBlk b0 fun x => { x with aborts := 3 }
    t.waveHit b0 0 = true ∧ (t.blk? b0).map (fun x => decide (x.serial = none ∧ x.aborts = 3)) = some true
      ∧ (t.wave? b0 0).map t.serialised = some false ∧ 0 < t.dies.length := by decide +kernel

/-! ## Witnesses: the host, engines, replies, configurations, errors -/

/-- Run 0 resident in context 0, host register READY, all eight dies in service and allowed. -/
def hostSt (o : Order → Order) (a : Admin → Admin) : State :=
  let s := paged (st nopBlk) []
  { s with
    ord := o s.ord
    adm := a { s.adm with tenants := [⟨0, BitVec.ofNat 128 (2 ^ 108 + 48 * 2 ^ 59 + 255 * 2 ^ 51 + 1)⟩] }
    chip := { s.chip with bootstat := bootWord false true 9 0 0xFF 0xFFFF } }

def boundPort : HPort := ⟨0, 3, [], some 0, 0, 0, 0⟩
def hTok : HostItem := ⟨4, false, 0, 3, [], 7, false⟩
def hWr : HostItem := ⟨3, true, 0, 0x20000, [1], 0, false⟩
theorem witness_HostQueuesAndPorts_deliver :
    let s := hostSt (fun o => { o with hostq := [hTok] }) fun a => { a with ports := [boundPort] }
    let t := hostSt (fun o => { o with hostq := [hWr, hTok] }) fun a => { a with ports := [boundPort] }
    s.ord.hostq.find? (fun h => !h.write && h.a == 0 && h.b == 3) = some hTok ∧ s.adm.ports.find? (fun p => p.die == 0 && p.port == 3) = some boundPort
      ∧ (s.run? 0).isSome = true ∧ ((s.ord.hostq.takeWhile fun x => x.id != hTok.id).any (·.write)) = false
      ∧ ((t.ord.hostq.takeWhile fun x => x.id != hTok.id).any (·.write)) = true := by decide +kernel
theorem witness_HostQueuesAndPorts_bar4 :
    let s := hostSt id id
    s.ord.waves = [] ∧ (match (s.noteRead none 0 0x20000 8).vread 0 0x20000 8 with
      | .ok _ => true
      | _ => false) = true := by decide +kernel
theorem witness_HostQueuesAndPorts_write : ∀ h ∈ [hWr, { hWr with b := 0x2003C, bytes := [1, 2, 3, 4, 5] }, { hWr with b := 2 ^ 31 }],
    let s := hostSt (fun o => { o with hostq := [h] }) id
    s.ord.hostq.find? (fun h => h.write) = some h ∧ h.sent = false ∧ s.acc? h.id = none
      ∧ (match s.vplace h.a h.b true with
        | .ok p => p == .hbm h.b && (s.conflicts (h.b / 64) true none).isEmpty
        | .error _ => h.b == 2 ^ 31) = true := by decide +kernel
theorem witness_HostQueuesAndPorts_lines :
    let h := { hWr with b := 0x2003C, bytes := [1, 2, 3, 4, 5] }
    hWr.bytes.length ≤ 64 - hWr.b % 64 ∧ 64 - h.b % 64 < h.bytes.length := by decide
def egTok : EgTok := ⟨0, 2, 0, 5, [], 1, none⟩
theorem witness_HostQueuesAndPorts_ring :
    let s := hostSt (fun o => { o with egq := [egTok] }) id
    let full := hostSt id fun a => { a with rings := [⟨0, 2, BitVec.ofNat 128 (64 * 2 ^ 64)⟩] }
    s.ord.egq.find? (fun t => t.slot == 0 && t.ring == 2) = some egTok ∧ (s.ord.accs.any fun a => egTok.before.contains a.id) = false
      ∧ (accSt [acc5 .release .pending none]).ord.accs.any (fun a => { egTok with before := [5] }.before.contains a.id) = true
      ∧ (fld (s.ring 0 2) 95 64 + 2 ^ 32 - fld (s.ring 0 2) 127 96) % 2 ^ 32 < 2 ^ (6 + fld (s.ring 0 2) 3 0)
      ∧ ¬ (fld (full.ring 0 2) 95 64 + 2 ^ 32 - fld (full.ring 0 2) 127 96) % 2 ^ 32 < 2 ^ (6 + fld (full.ring 0 2) 3 0) := by decide +kernel
theorem witness_HostQueuesAndPorts_launch :
    let s := hostSt id id
    let ws : List W64 := List.replicate 10 0
    s.ready = true ∧ (s.port 0 3).run = none ∧ (s.port 0 3).words.length + 1 < 10 ∧ 9 ≤ ws.length ∧ fld (ws.getD 0 0) 63 57 = 0
      ∧ fld (ws.getD 1 0) 63 15 = 0 ∧ (s.ctx? (fld (ws.getD 1 0) 7 0)).isSome = true ∧ tenEn (s.tenant (s.tenantOf (fld (ws.getD 1 0) 7 0))) = true
      ∧ (ws.getD 1 0).getLsbD 11 = false ∧ s.pickDie 0 = some 1 ∧ s.freeRunId = some 1 := by decide +kernel
theorem witness_HostQueuesAndPorts_token :
    let s := hostSt id fun a => { a with ports := [boundPort] }
    (s.port 0 3).run = some 0 ∧ (s.port 0 3).used < 64 := by decide +kernel

def reqSt (q : Req) : State := hostSt (fun o => { o with reqs := [q] }) id
theorem witness_EngineEvents_dequeue : ∀ k ∈ [AccKind.xfer, .stash, .unstash, .send, .postr, .probeq, .cancelr],
    let s := reqSt (req5 k)
    (s.req? 5).map (fun q => decide (q.taken = false ∧ q.kind = k ∧ s.ord.reqs.takeWhile (fun x => x.id != 5) = [])
      && (s.run? q.run).isSome) = some true := by decide +kernel
def ew4 : EWrite := ⟨4, 9, 0, 0, 0, 0x20000, [1, 2], true, true, .xfer, 0, false, e0, 1, 0, 1⟩
theorem witness_EngineEvents_ewrite :
    let s := hostSt (fun o => { o with wbuf := [ew4] }) id
    (s.ord.wbuf.find? (fun w => w.id == 4)) = some ew4 ∧ s.ord.monitors = [] ∧ ew4.sent = false ∧ s.writeHeld ew4 = false
      ∧ (match s.vplace 0 0x20000 true with
        | .ok p => p == .hbm 0x20000
        | .error _ => false) = true ∧ s.conflicts (0x20000 / 64) true none = [] ∧ s.poisoned 0x20000 = false ∧ s.req? 9 = none
      ∧ (∀ y ∈ s.ord.wbuf, y.req = ew4.req → y.id ≠ ew4.id → y.va / 64 ≠ ew4.va / 64)
      ∧ { ew4 with sent := true }.sent = true := by decide +kernel
/-- An earlier write to the same bytes goes first. -/
theorem witness_EngineEvents_held :
    let w := { ew4 with id := 5 }
    (hostSt (fun o => { o with wbuf := [ew4, w] }) id).writeHeld w = true := by decide +kernel
theorem witness_EngineEvents_stalls :
    let s := { reqSt { req5 .send with stallAt := some 10 } with cycle := 1610 }
    let t := { reqSt { req5 .stash with stallAt := some 10 } with cycle := 10 + 2 ^ 16 }
    (s.req? 5).map (fun q => decide (q.stallAt = some 10 ∧ q.kind = .send ∧ 10 + 1600 ≤ s.cycle)) = some true
      ∧ (t.req? 5).map (fun q => decide (q.stallAt = some 10 ∧ q.kind = .stash ∧ q.taken = false ∧ 10 + 2 ^ 16 ≤ t.cycle)) = some true := by decide +kernel
def post0 (d : Line) : Post := ⟨0, 0, d, e0, 1, 0, 1⟩
def msg4 (bs : List Byte) (m : Option Post) : Msg := ⟨0, 0, 0, 7, 4, bs, [], 5, false, 0, m, none⟩
/-- A receive of REL bytes at an address. -/
def relPost : Post := post0 (BitVec.ofNat 512 (2 ^ 96))
theorem witness_EngineEvents_messages : ∀ d ∈ [post0 0, relPost], ∀ bs ∈ [[1, 2, 3, 4], ([] : List Byte)],
    let m := msg4 bs none
    let s := { reqSt (req5 .send) with eng := { State.reset.eng with arrivals := [m], posts := [d] } }
    nthOf 0 0 s.eng.arrivals = some m ∧ (s.eng.arrivals.takeWhile fun x => x != m) = [] ∧ m.refused = false
      ∧ (m.back.isNone || m.bytes.length == m.len) = true ∧ s.eng.cancels = [] ∧ (s.run? 0).isSome = true
      ∧ s.eng.posts.find? (fun p => p.die == 0 && recvMatches p.desc p.run 0 0 7) = some d
      ∧ relLenBad (post0 0).desc m.len = false ∧ relLenBad relPost.desc m.len = true := by decide +kernel
theorem witness_EngineEvents_pull :
    let m := msg4 [] (some (post0 0))
    let s := { reqSt (req5 .send) with eng := { State.reset.eng with unexpected := [m] } }
    nthOf 0 0 s.eng.unexpected = some m ∧ m.matched = some (post0 0) ∧ (s.run? 0).isSome = true ∧ m.bytes.length ≠ m.len
      ∧ (s.req? 5).isSome = true ∧ s.ord.waves = []
      ∧ (match (s.req? 5).map fun q => s.eread q.id (q.slotOf s) (4 / 64 + 2) q.src 4 with
        | some (.ok rd) => rd.miss.isEmpty
        | _ => false) = true := by decide +kernel
theorem witness_EngineEvents_land : ∀ bad ∈ [[], [0]], (relPost.desc.getLsbD 96 = true) ∧ (post0 (BitVec.ofNat 512 (4 * 2 ^ 64))).desc.getLsbD 96 = false
    ∧ psnWrites 0x20000 0 [1, 2, 3, 4] bad ≠ [] := by decide +kernel
def copying : Req := { req5 .xfer with taken := true, len := 0x2000, inflight := [0] }
theorem witness_EngineEvents_sector :
    let s := reqSt copying
    copying.finished = false ∧ copying.sectorDone 0 = false ∧ copying.inflight.contains 0 = true ∧ xfFkind copying.packet = 0 ∧ xfTkind copying.packet = 0
      ∧ xfCheck copying.packet = false ∧ 0 + 1 < copying.sectors ∧ copying.first = 0 ∧ copying.doneS = [] ∧ s.ord.waves = [] := by decide +kernel
theorem witness_EngineEvents_sector_read : (match (reqSt copying).eread 5 0 (4096 / 64 + 2) 0x20000 4096 with
    | .ok rd => rd.miss.isEmpty
    | .error _ => false) = true ∧ ((reqSt copying).unwritable 0 0x30000 4096).isNone = true := by decide +kernel
/-- Table 0 with a code of one bit for symbol 0; a coded block of zeros on channel 5. -/
theorem witness_EngineEvents_coded :
    let s := oneV (.vadd (fv 0 0)) 5 [] none [[vecTok 0 0xFFFF .last 5]]
    (s.site e0).map (fun h => decide ((h.load.chan 5).fmt = 5 ∧ h.run.st = .resident ∧ h.elem.queue 0 = [vecTok 0 0xFFFF .last 5])
      && (decodeBlock (h.load.chan 5).fmt h.load.ctabs 0).isSome) = some true := by decide +kernel

/-- Run 0 at a sequence word, waiting. -/
def waitSt (ws : List W64) (w : Wait) : State := paged (seqSt ws fun r => { r with esc := { r.esc with wait := w } }) []
def greq0 (join arrived : Bool) : GroupReq := ⟨5, 0, false, join, 0x00001, arrived, 1, 1⟩
def group1 (ms : List Nat) (op : Bool) : Group := ⟨1, ms, op, [], 0, [], [], 0, 0, 0, (0, 0, false), false⟩
def withAdm (s : State) (f : Admin → Admin) : State := { s with adm := f s.adm }
def joinW : W64 := encodeSeq 0x0E 5 6 0 0
def leaveW : W64 := encodeSeq 0x0F 5 6 0 0
theorem witness_RepliesToRuns_arrival :
    let s := withAdm (waitSt [joinW, 0] (.sent 5)) fun a => { a with greqs := [greq0 true false] }
    (s.adm.greqs[0]?).map (·.arrived) = some false := by decide +kernel
theorem witness_RepliesToRuns_join : ∀ g ∈ [group1 [] true, group1 [0] false, group1 [1] false],
    let s := withAdm (waitSt [joinW, 0] (.sent 5)) fun a => { a with groups := [g] }
    s.group? ((1 : W64).setWidth 20) = some g ∧ (s.run? 0).isSome = true ∧ g.arrivals = [] ∧ g.drops = [] := by decide +kernel
theorem witness_RepliesToRuns_full :
    let s := withAdm (waitSt [joinW, 0] (.sent 5)) fun a => { a with groups := [group1 [] false] }
    let t : State := { s with runs := s.runs.map fun (r : Run) => { r with groups := (List.range 16).map fun k => BitVec.ofNat 20 (k + 2) } }
    (group1 [] false).members.contains (s.identity 0) = false ∧ (group1 [0] false).members.contains (s.identity 0) = true
      ∧ (s.run? 0).map (·.groups.length) = some 0 ∧ (t.run? 0).map (·.groups.length) = some 16 := by decide +kernel
theorem witness_RepliesToRuns_reply : ∀ w ∈ [(joinW, Instr.join 5 6), (leaveW, Instr.leave 5 6)],
    let s := withAdm (waitSt [w.1, 0] (.sent 5)) fun a => { a with greqs := [greq0 true true] }
    (s.run? 0).map (fun r => r.issues && decide (r.esc.wait = .sent 5 ∧ s.wordAt r = some w.2)) = some true
      ∧ s.adm.greqs.find? (fun q => q.id == 5 && q.arrived) = some (greq0 true true) := by decide +kernel
theorem witness_RepliesToRuns_launch :
    let s := withAdm (waitSt [0x100C150000000000, 0] (.sent 5)) fun a => { a with lreplies := [(5, 0, 1)] }
    (s.run? 0).map (fun r => r.issues && decide (r.esc.wait = .sent 5 ∧ s.wordAt r = some (.launch 3 1 20))) = some true
      ∧ s.adm.lreplies.find? (fun q => q.1 == 5) = some (5, 0, 1) := by decide +kernel

/-- Relation list 0 of the image names the relation at 0x40. -/
def listed (s : State) : State :=
  withAdm { s with ord := { s.ord with rels := [⟨0, 0x40, hH, 0⟩], owners := [⟨0, 0, 0, true, 0x40, 9⟩] } } fun a =>
    { a with images := a.images.map fun i => { i with rlists := [(0, [0x40])], gtab := [1] } }
def fixbW : W64 := encodeSeq 0x1B 0 0 0 0
theorem witness_RepliesToRuns_open :
    let s := listed (waitSt [fixbW, 0] (.opening [(true, false)]))
    (s.run? 0).map (fun r => decide (r.st = .resident ∧ s.wordAt r = some (.fixb 0 0 0) ∧ (s.rlist r 0).2[0]? = some 0x40)
      && (match s.openRel r.slot 0x40 (s.rlist r 0).1 (s.fixGroup r 0 0) with
        | .ok _ => true
        | .error _ => false)) = some true
    ∧ (match { s with ord := { s.ord with owners := [] } }.openRel 0 0x40 0 1 with
        | .ok _ => false
        | .error _ => true) = true := by decide +kernel
theorem witness_RepliesToRuns_retry :
    let s := { listed (waitSt [fixbW, 0] (.retry 5)) with cycle := 69 }
    (s.run? 0).map (fun r => decide (r.esc.wait = .retry 5 ∧ s.wordAt r = some (.fixb 0 0 0) ∧ 5 + 64 ≤ s.cycle)) = some true := by decide +kernel
theorem witness_RepliesToRuns_sums :
    let g : Group := { group1 [0] true with sums := [⟨0, 0, 0, true, none⟩] }
    let s := withAdm (waitSt [encodeSeq 0x1C 5 6 0 0, 0] .sum) fun a => { a with groups := [g] }
    s.group? 1 = some g ∧ g.members ≠ [] ∧ (g.members.all fun m => (g.sums.any fun c => c.run == m) && ((s.own? m).bind s.run?).map (fun r =>
      decide (r.st = .resident ∧ r.esc.wait = .sum)) == some true) = true := by decide +kernel
theorem witness_RepliesToRuns_rotate :
    let s := listed (waitSt [encodeSeq 0x1E 0 0 0 0, 0] (.rotating [(true, false)]))
    (s.run? 0).map (fun r => decide (r.st = .resident ∧ s.wordAt r = some (.rotate 0) ∧ (s.rlist r 0).2[0]? = some 0x40)) = some true := by decide +kernel
/-- The same header with witnesses. -/
def hW : Line := hH ||| BitVec.ofNat 512 (2 ^ 43)
/-- No entry is listed, so nothing is marked. -/
theorem witness_RepliesToRuns_retract :
    let s0 := listed (waitSt [encodeSeq 0x1F 5 6 0 0, 0] .retracting)
    let s := { s0 with ord := { s0.ord with rels := [⟨0, 0x40, hW, 0⟩] } }
    (s.run? 0).map (fun r => decide (r.st = .resident ∧ s.wordAt r = some (.retract 5 6 0))
      && (match s.retractCheck r 0 (r.getG 6) with
        | .ok (hs, es) => decide ((Marks.scans r.slot (s.image? r) hs ((hs.map fun x => 2 ^ hdrLcap x.2).foldl (· + ·) 1)
            (es.foldl (Marks.named r.slot hs) ⟨s, 0, none⟩)).stop = none)
        | .error _ => false)) = some true := by decide +kernel
theorem witness_RepliesToRuns_lost :
    let s := waitSt [joinW, 0] (.sent 5)
    let t : State := { s with runs := s.runs.map fun (r : Run) => { r with cycles := 2 ^ 24 } }
    (t.run? 0).map (fun r => r.issues && decide (r.esc.wait = .sent 5 ∧ r.esc.sentAt + 2 ^ 24 ≤ r.cycles ∧ t.wordAt r = some (.join 5 6))) = some true := by
  decide +kernel

/-! ## Witnesses: configurations, errors, the Arbor -/

/-- Run 0 at a word, waiting so, beside configuration 0. -/
def waitedSt (w : Wait) : State :=
  let s := { st nopBlk with focus := some ⟨0, none⟩, adm := { State.reset.adm with images := [imgW [0, 0]] } }
  { s with runs := s.runs.map fun (r : Run) => { r with esc := { r.esc with wait := w } } }
def loads0 (f : Loaded → Loaded) (s : State) : State := s.modLoad 0 0 0 f
theorem witness_ConfigurationEvents_done : ∀ q ∈ [([] : List Token), [it 3]],
    let s := loads0 (fun x => { x with doneAt := some 6, blks := [feed nopBlk [q]] }) (waitedSt .idle)
    (s.run? 0).map (fun r => decide (r.st = .resident) && ((r.load? 0 0).map fun x => decide (x.doneAt = some 6 ∧ x.registered = false
      ∧ 6 + 4 ≤ s.cycle ∧ x.stray?.isNone = q.isEmpty)) == some true) = some true := by decide +kernel

/-- An image at 0x40000 with one configuration of no block: version 1, configuration table at 0x40, its one entry 0x180 bytes long, scale
0 of it 1.0. -/
def imgCells : List Host.Cell := [(0x40007, 0x10), (0x4002C, 0x40), (0x40040, 1), (0x40088, 0x80), (0x40089, 1),
  (0x40142, 0x80), (0x40143, 0x3F)]
/-- Run 0 waits at a CONF for the load of configuration 0 of that image, or of one that is not there. -/
def loadSt (cells : List Host.Cell) : State :=
  let s := paged (seqSt [0x0200_0000_0000_0000, 0] fun r => { r with image := 0x40000, esc := { r.esc with wait := .loading } }) cells
  withAdm s fun a => { a with images := a.images.map fun i => { i with addr := 0x40000 } }
/-- What the load of run 0's word reads. -/
def got0 (s : State) : Option (Run × Except LoadFault (Loaded × CfgImage)) :=
  (s.run? 0).map fun r => (r, s.fetchCfg r false 0 (heldSpots (fun i l => s.drained 0 r.act i l) (r.plane r.act)) [])
def loadOk (s : State) : Bool := match got0 s with
  | some (_, .ok _) => true
  | _ => false
theorem witness_ConfigurationEvents_load :
    ((loadSt imgCells).run? 0).map (fun r => decide (r.st = .resident ∧ r.esc.wait = .loading ∧ (loadSt imgCells).confAt r = some (0, 0, false))) = some true
    ∧ loadOk (loadSt imgCells) = true ∧ loadOk (loadSt []) = false := by decide +kernel
theorem witness_ConfigurationEvents_loaded :
    (match got0 (loadSt imgCells) with
    | some (r, .ok (l, c)) =>
      let s := loadSt imgCells
      !planesClash l.carves (r.plane 1).carves && !carvesClash l.carves []
        && ((((s.preload r c l).setRun (r.setPlane 0 ((r.plane 0).install l).1)).run? 0).isSome)
    | _ => false) = true := by decide +kernel
/-- A carving that meets one of the other kind at the same place. -/
theorem witness_ConfigurationEvents_clash : ∃ a b : Carve, planesClash [a] [b] = true ∧ carvesClash [a] [b] = true :=
  ⟨⟨0, 0, 0, false, 0, 4, 0⟩, ⟨0, 0, 1, false, 2, 8, 0⟩, by decide, by decide⟩
/-- Carvings of the two planes that overlap as different caches. -/
theorem witness_ConfigurationEvents_shadow :
    let s := loadSt imgCells
    let t : State := { s with runs := s.runs.map fun (r : Run) => r.setPlane 1 { r.plane 1 with loading := some 0 } }
    (t.run? 0).map (fun r => decide (r.st = .resident ∧ (r.plane (1 - r.act)).loading = some 0)) = some true := by decide +kernel
theorem witness_ConfigurationEvents_exchange :
    let s := waitedSt (.swapping 5)
    let t : State := { s with runs := s.runs.map fun (r : Run) => { r with cycles := 45 } }
    (t.run? 0).map (fun r => decide (r.esc.wait = .swapping 5 ∧ 5 + 40 ≤ r.cycles ∧ r.esc.sqc + 1 < (t.seqOf r).length ∧ r.st = .resident
      ∧ (r.plane (1 - r.act)).reload = none)) = some true := by
  decide +kernel
def launch1 : Launch := ⟨1, 0, 0, 0, none, none, [], 0, 0⟩
theorem witness_ConfigurationEvents_launches :
    let s := withAdm (hostSt id id) fun a => { a with launches := [launch1], images := [{ img0 with pgh := 0, pgw := 0 }] }
    s.adm.launches[0]? = some launch1 ∧ (match s.imageFor 0 0 with
      | .ok _ => true
      | .error _ => false) = true ∧ (match (hostSt id id).imageFor 0 0 with
      | .ok _ => true
      | .error _ => false) = false := by decide +kernel
theorem witness_ConfigurationEvents_watchdog :
    let s := waitedSt .idle
    let t : State := { s with runs := s.runs.map fun (r : Run) => { r with idle := 2 ^ 20 } }
    (s.run? 0).map (fun r => decide (r.probing = none ∧ r.idle < 2 ^ 20)) = some true
      ∧ (t.run? 0).map (fun r => decide (r.st = .resident ∧ r.probing = none ∧ 2 ^ 20 ≤ r.idle)) = some true := by decide +kernel

/-- Element 0 holds a token on i0 and waits on i1 for element 1, which waits for element 0. -/
def ringBlk : Blk :=
  let w (k : BitVec 7) : W64 := (encode (.add ⟨0, 0, some ⟨k, 1, 2⟩, none, 1, 0⟩)).getD 0
  let b := blk [w 1, w 0] [0, 0] []
  { b with elems := b.elems.map fun e => { e with q := [it 3] :: e.q.drop 1 } }
def probing (o : Option ElemRef) (s : State) : State := { s with runs := s.runs.map fun (r : Run) => { r with probing := some (9, o) } }
/-- What the probe of run 0 finds. -/
def probes (s : State) : Option BranchEnd := (s.run? 0).bind fun r => r.probing.map fun p => match p.2 with
  | some e => probeOutcome (s.probeWalk 9 600 0 1 [[e]])
  | none => match s.probeEscapement r with
    | .inl .fires => .fires
    | .inl (.wait c) => .wait c e0
    | .inr e => probeOutcome (s.probeWalk 9 600 0 1 [[e]])
def ends (k : Nat) : Option BranchEnd → Bool
  | some .fires => k == 0
  | some (.wait _ _) => k == 1
  | some (.cycle _) => k == 2
  | none => false
theorem witness_ConfigurationEvents_probe : ends 0 (probes (probing none (waitedSt .idle))) = true
    ∧ ends 1 (probes (probing none (waitedSt (.sent 5)))) = true
    ∧ ends 2 (probes (probing (some e0) (st ringBlk))) = true
    ∧ ends 1 (probes (let b := feed (blk (pair (.ld (fp 0 0))) [0, 0] [0x20000]) [[it 3]]
        probing (some e0) { st b with ord := { State.reset.ord with accs := [acc5 .load .pending none] } })) = true := by decide +kernel

theorem witness_Errors_queue :
    let s := st (feed (blk (pair (.add (fb 0 0))) [0, 0] []) [[it 3]])
    (s.site e0).map (fun h => decide (0 < (h.elem.queue 0).length ∧ 0 < h.elem.q.length)) = some true
      ∧ (it 3).mark.isEnd = false := by decide +kernel
theorem witness_Errors_reload :
    let s := waitedSt .idle
    let back (c crc : Nat) : State := { s with cycle := 20, runs := s.runs.map fun (r : Run) =>
      { r.setPlane 0 { r.plane 0 with reload := some (c, crc) } with st := .frozen, hold := .reload false } }
    (s.run? 0).map (fun r => decide (r.st = .resident ∧ (r.plane 0).reload = none)) = some true
      ∧ (s.run? 0).map (fun r =>
        let sig := (r.plane 0).signature
        [sig, sig + 1].all fun crc => ((back 16 crc).run? 0).map (fun r => decide (r.st = .frozen ∧ r.hold = .reload false
          ∧ (r.plane r.act).reload = some (16, crc) ∧ (r.plane (1 - r.act)).reload = none ∧ 16 + 4 ≤ (back 16 crc).cycle
          ∧ (r.plane r.act).signature = sig ∧ r.esc.handler = none ∧ r.order? 4 = none)) == some true) = some true := by decide +kernel
/-- Free values are not evaluated: one of the two holds of the word that says whether a sensor still stands. -/
theorem witness_Errors_almclr :
    let s := { hostSt id id with chip := { (hostSt id id).chip with alarm := ⟨2⟩ } }
    State.reset.ready = false ∧ s.ready = true ∧ s.chip.alarm.level = 2 := by decide +kernel
/-- A run that waits for a region of die 0. -/
def pendingRun : Run := Run.init 1 0 0 0 3 []
def arborSt : State := withAdm { hostSt id id with runs := [pendingRun] } fun a => { a with images := [{ img0 with pgh := 0, pgw := 0 }] }
theorem witness_Arbor_decision :
    let t : State := { arborSt with runs := arborSt.runs.map fun r => if r.die = 0 then (r.ageing arborSt.cycle).quantumDone arborSt.cycle else r }
    (arborSt.runs.any fun r => r.die == 0 && r.orders.any fun o => (o.1 == 0 || o.1 == 2) && o.2.isNone) = false
      ∧ (match orderRuns Run.before (t.runs.filter fun r => r.waits 0) with
        | [head] => !head.moved && (t.fits head []).isSome
        | _ => false) = true := by decide +kernel
theorem witness_Arbor_readout :
    let s := paged (st nopBlk) []
    let t : State := { s with runs := s.runs.map fun (r : Run) =>
      { r with st := .frozen, hold := .supervisor, orders := [(2, some (e0, 1))] } }
    (t.run? 0).map (fun r => decide (r.order? 2 = some (2, some (e0, 1)) ∧ r.inPlace = true ∧ r.record = none ∧ t.ord.accs = [])) = some true := by
  decide +kernel
theorem witness_Arbor_restore :
    let s := paged (st nopBlk) []
    let t : State := { s with runs := s.runs.map fun (r : Run) => { r with st := .frozen, hold := .readout, orders := [(3, none)] } }
    (t.run? 0).map (fun r => decide (r.order? 3 = some (3, none) ∧ r.st = .frozen ∧ r.hold = .readout ∧ r.region.pages ≠ [] ∧ r.esc.handler = none))
      = some true := by decide +kernel

/-! ## Witnesses: host registers, links, reset, steps -/

def readySt (c : Chip → Chip) : State := { hostSt id id with chip := c (hostSt id id).chip }
def link5 (more : Nat) : Link := { Link.reset with stat := BitVec.ofNat 32 (5 + more) }
theorem witness_HostRegisters_contexts :
    let s := hostSt id id
    let d := lineOf (s.hbmRead 0x40 64)
    s.ready = true ∧ s.ctx? 1 = none ∧ s.poisoned 0x40 = false ∧ tenEn (s.tenant (ctxTenant d)) = true ∧ (s.ctx? 0).isSome = true
      ∧ tenEn ((withAdm s fun a => { a with tenants := [] }).tenant (ctxTenant d)) = false ∧ (∃ r, s.runs = [r] ∧ r.slot = 0 ∧ r.st ≠ .retired
        ∧ r.orders = [] ∧ r.groups = []) := by
  refine ⟨by decide +kernel, by decide +kernel, by decide +kernel, by decide +kernel, by decide +kernel, by decide +kernel, ?_⟩
  exact ⟨_, rfl, by decide +kernel⟩
theorem witness_HostRegisters_safe : (hostSt id id).Safe ∧ State.reset.ready = false ∧ HostRd.tenstat ≠ .bootstat ∧ HostRd.tenstat ≠ .ctxeg 0 0
    ∧ ((hostSt id id).port 0 3).lstat < 256 := ⟨rfl, by decide +kernel, by decide, by decide, by decide +kernel⟩
theorem witness_HostRegisters_tlb :
    let q : TlbReq := ⟨0, 0x100, true, [5]⟩
    let s := withAdm (hostSt id id) fun a => { a with tlbinv := [q] }
    let t := withAdm (hostSt (fun o => { o with accs := [pend5 .load] }) id) fun a => { a with tlbinv := [q] }
    (hostSt id id).adm.tlbinv = [] ∧ s.adm.tlbinv = [q] ∧ q.started = true ∧ (∀ i ∈ q.waits, s.acc? i = none) ∧ (∃ i ∈ q.waits, t.acc? i ≠ none)
      ∧ (∀ k, k < 4 → fld (BitVec.ofNat 64 (k * 2 ^ 8)) 9 8 = k) := by decide +kernel
theorem witness_HostRegisters_tenants :
    let s := withAdm (hostSt id id) fun a => { a with ctxs := [], tenants := [] }
    s.tenantStatus 3 (1 &&& tenantMask) = 0 ∧ (hostSt id id).tenantStatus 0 (1 &&& tenantMask) = 1
      ∧ s.tenantStatus 3 (BitVec.ofNat 128 (49 * 2 ^ 59) &&& tenantMask) = 3 ∧ s.ready = true
      ∧ s.tenantStatus 3 (BitVec.ofNat 128 (48 * 2 ^ 59) &&& tenantMask) = 0 := by decide +kernel
theorem witness_HostRegisters_links :
    let s := readySt fun c => { c with links := [link5 0x8000] }
    s.link? 0 = some (link5 0x8000) ∧ linkQuar (link5 0x8000).stat = true ∧ (1 : W64).getLsbD 0 = true ∧ (2 : W64).getLsbD 0 = false
      ∧ (255 : Nat) < 256 ∧ (15 : Nat) < 16 ∧ State.reset.ready = false := by decide +kernel
theorem witness_HostRegisters_spdm :
    let s := readySt fun c => { c with idKey := some 1, spdm := ⟨3, 1, []⟩ }
    3 ≤ s.chip.spdm.conn ∧ s.chip.idKey ≠ none ∧ s.chip.spdm.session = 1 ∧ ((readySt fun c => { c with spdm := ⟨3, 2, []⟩ }).chip.spdm.session = 2)
      ∧ (hostSt id id).chip.spdm.conn < 3 ∧ (hostSt id id).chip.spdm.session = 0 ∧ (hostSt id id).adm.ats = [] ∧ (hostSt id id).ord.accs = [] := by
  decide +kernel

/-- A bring-up in which nothing fails but one stack of die 5. -/
def env5 : BringUp := ⟨true, true, true, true, 0x0400, 0, [], 0, 0, none, none, 7⟩
theorem witness_ColdReset : env5.alarm = none ∧ env5.romOk = true ∧ env5.sigOk = true ∧ env5.svnOk = true ∧ env5.fusesOk = true
    ∧ env5.d2dFail = 0 ∧ env5.fabFail = 0 ∧ env5.cfgFail = 0 ∧ { env5 with stkFail := 0xFFFF }.stkFail = 0xFFFF
    ∧ { env5 with romOk := false }.romOk = false := by decide +kernel
theorem witness_ReadyToken :
    let s : State := { State.reset with chip := { State.reset.chip with bootstat := bootWord false false 9 0 0xDF 0xFBFF } }
    let t := s.setRing 0 0 0x1000
    bootReady s.chip.bootstat = false ∧ bootHalt s.chip.bootstat = false ∧ fld s.chip.bootstat 35 32 = 9 ∧ s.linksUp < 64
      ∧ fld (s.ring 0 0) 63 12 = 0 ∧ fld (t.ring 0 0) 63 12 ≠ 0 := by decide +kernel
/-- 25 R393: die 5 removed, 34 links UP: DATA, bits [45:14], is 0x22DF (log 52). -/
theorem test_ready_token :
    let s : State := { State.reset with chip := { State.reset.chip with
      bootstat := bootWord false false 9 0 0xDF 0xFBFF
      links := List.replicate 34 (link5 0) ++ List.replicate 2 Link.reset } }
    bytesNat (cellRead (s.setRing 0 0 0x1000).readyToken.mem.host 0x1000 8) = 0x22DF * 2 ^ 14 := by decide +kernel

def peer (p d : Bool) : LinkPeer := ⟨p, 15, 9, d, 3⟩
theorem witness_Links_training :
    let s := readySt fun c => { c with links := [{ Link.reset with stat := BitVec.ofNat 32 (2 + 2 ^ 20), circ := 3 }] }
    (s.link? 0).map (fun l => decide (1 ≤ linkState l.stat ∧ linkState l.stat ≤ 4 ∧ linkUp l.stat = 1)) = some true
      ∧ (peer false true).present = false ∧ (peer true false).sameDomain = false ∧ Nat.land (peer true true).lanes.toNat 15 ≠ 0
      ∧ Nat.land (Nat.land 3 3) 15 ≠ 15 ∧ Nat.land (Nat.land 15 15) 15 = 15 := by decide +kernel

def key1 : BitVec 256 := 1
theorem witness_Flits_grant :
    let t : W64 := grantBody 1 8 0 64
    (readySt fun c => { c with grantKey := none }).chip.grantKey = none ∧ fld t 35 28 = 64 ∧ t.getLsbD (FlitKind.bit .read) = true
      ∧ t.getLsbD (FlitKind.bit .write) = false ∧ grantExtent t = 2 ^ 20 := by decide +kernel
def openLink : State := readySt fun c => { c with
  links := [link5 0]
  tags := [⟨3, 9, .acc 5, some (e0, 9, 0)⟩] }
theorem witness_Flits_links :
    let f : Flit := ⟨0, 0, 0xBC, 9, 0, 3, 1, 8, 0, 0, 0⟩
    (openLink.link? 0).map (fun l => decide (linkState l.stat = 5 ∧ linkQuar l.stat = false ∧ linkLock l.stat = false)) = some true
      ∧ f.dst = openLink.chip.modnum ∧ linkQuar (link5 0x8000).stat = true ∧ f.addr = 0 ∧ openLink.grantCheck f .read 8 = 1
      ∧ (openLink.chip.tags.find? fun t => t.tag == f.tag.toNat && t.modn == f.src.toNat) = some ⟨3, 9, .acc 5, some (e0, 9, 0)⟩
      ∧ f.stat ≠ 2 ∧ { f with stat := 2 }.stat = 2 := by decide +kernel
/-- The link is up, a grant key is held, and word 0x20000 is in HBM. -/
def served : State := { openLink with chip := { openLink.chip with grantKey := some key1, modnum := 0 } }
/-- A request of module 9 under a token of every right for the first MiB. -/
def asks (aop : Byte) (n : Nat) : Flit := ⟨0xE800000010FFAAB7, 0x20000, aop, 9, 0, 3, 1, BitVec.ofNat 7 n, 0, 0, 0⟩
theorem witness_Flits_token : served.grantCheck (asks 0 8) .read 8 = 0 := by decide +kernel
theorem witness_Flits_requests :
    (asks 0 8).dst = served.chip.modnum ∧ (served.link? 0).map (fun l => decide (linkState l.stat = 5 ∧ linkQuar l.stat = false ∧ linkLock l.stat = false)) = some true
      ∧ fld (asks 0 8).grant 63 61 = 7
      ∧ served.conflicts (0x20000 / 64) true none = [] ∧ served.conflicts (0x20000 / 64) false none = [] ∧ served.isFull 0x20000 = true
      ∧ served.pinnedPhys 0x20000 8 = false ∧ served.poisoned 0x20000 = false ∧ served.ord.monitors = [] ∧ served.mem.wf = true := by decide +kernel
/-- The check looks at the token, the address and the source, which these requests share; the token holds every right. -/
theorem witness_Flits_every : (∀ (aop : Byte) (n : Nat), (asks aop n).grant = (asks 0 8).grant ∧ (asks aop n).addr = (asks 0 8).addr
    ∧ (asks aop n).src = (asks 0 8).src) ∧ served.Safe := ⟨fun _ _ => ⟨rfl, rfl, rfl⟩, rfl⟩
theorem witness_Flits_refused :
    let e : State := { served with mem := { served.mem with notFull := [0x800], poison := [0x800] } }
    let p : State := { served with ord := { served.ord with vtab := [⟨0, 0x40, 1, 0x20000, 64, 1⟩] } }
    e.isFull 0x20000 = false ∧ e.poisoned 0x20000 = true ∧ p.pinnedPhys 0x20000 8 = true := by decide +kernel

theorem witness_Flits_meet :
    (served.meet (512 + homeDie 0x20000) 256 0x20000 0xBA 1 (.hbm 0x20000) (.flit 0 (asks 0xBA 4)) 3 0).isSome = true
      ∧ served.meet (512 + homeDie 0x20000) 256 0x20000 0xBA 1 (.host 0x20000) (.flit 0 (asks 0xBA 4)) 3 0 ≠ some served := by decide +kernel
theorem witness_Flits_group : ∀ name ∈ [0, 5], served.group? (BitVec.ofNat 20 name) = none ∧ (BitVec.ofNat 512 name).getLsbD 20 = false := by decide +kernel
theorem witness_Flits_replies : ∀ k ∈ [AccKind.load, .store, .sete, .waita, .wakea, .atomic 0xBE],
    let s := { openLink with ord := { openLink.ord with accs := [{ pend5 k with place := some (.remote 9 0x20000 0) }] } }
    let t := { openLink with ord := { openLink.ord with accs := [{ pend5 k with wave := some 0 }] } }
    (s.acc? 5).map (fun c => decide (c.wave = none ∧ c.width = 4 ∧ (c.afterRun (0x20000 % 64)).enable = 0)) = some true
      ∧ (t.acc? 5).map (fun c => decide (c.wave = some 0 ∧ c.place = some (.hbm 0x20000))) = some true := by decide +kernel
theorem witness_Flits_tags : ∀ q ∈ [Requester.host 3, .ewrite 4, .group 5, .place e0 9, .acc 5],
    let g : Tag := ⟨3, 9, q, none⟩
    let s : State := { openLink with chip := { openLink.chip with tags := [g] }, ord := { openLink.ord with reqs := [req5 .send] } }
    (s.chip.tags.find? fun t => t.tag == 3 && t.modn == 9) = some g ∧ (s.req? 5).isSome = true := by decide +kernel

theorem witness_EncodeAndDecodeAgree : (Instr.gadd 7 5 0 0x10).wellFormed = true ∧ encode (.gadd 7 5 0 0x10) = some 0x131C500000000010
    ∧ (fabOf (.add ⟨0, 0, none, none, 0, 0⟩)).isSome = true := by decide +kernel
theorem witness_StepRunsDecoded :
    let w : W64 := 0x2000811000000005
    let s := State.reset.withFetchWord 64 w.toNat
    let q := State.reset.withFetchWord 64 0x131C500000000010
    s.chip.held = false ∧ s.agenda = [.fire ⟨0, 0, 0, 0, 0⟩] ∧ (s.site ⟨0, 0, 0, 0, 0⟩).map (·.word) = some w
      ∧ decodeTableWord 64 w.toNat = some (.add ⟨0, 0, some ⟨1, 0, 2⟩, none, 0, 5⟩)
      ∧ q.agenda = [.word 0] ∧ (q.run? 0).map (fun r => r.issues && decide (r.esc.issuedAt ≠ q.cycle + 1 ∧ (q.seqOf r)[r.esc.sqc]? = some 0x131C500000000010))
        = some true := by decide +kernel
theorem witness_StepRunsDecoded_tick : State.reset.agenda = [] ∧ State.reset.adm.regw = [] ∧ State.reset.adm.ats = []
    ∧ State.reset.runs.flatMap Run.buffers = [] ∧ State.reset.runs.flatMap Run.nodes = [] ∧ isNext (step { State.reset with agenda := [.tick] }) = true
    ∧ ({ State.reset with chip := { State.reset.chip with held := true } } : State).chip.held = true := by decide +kernel
theorem witness_StepRunsDecoded_undecodable :
    let q := State.reset.withFetchWord 64 0x131C500000000010
    let bad : State := { q with runs := q.runs.map fun (r : Run) => r.setSqc 1, adm := { q.adm with images := q.adm.images.map fun i => { i with seq := [0, 0xFF] } } }
    (match decode (natBytes 8 0xFF) with
      | .ok _ => false
      | .error _ => true) = true ∧ (bad.run? 0).map (fun r => decide ((bad.seqOf r)[r.esc.sqc]? = some 0xFF)) = some true
      ∧ (bad.run? 0).map (fun r => decide ((bad.seqOf r)[(r.setSqc 2).esc.sqc]? = none)) = some true := by decide +kernel
theorem witness_StepKeepsMemoryCanonical : State.reset.Safe ∧ isNext (step State.reset) = true := by
  refine ⟨rfl, by decide +kernel⟩
theorem witness_MemoryReadsBack :
    let s : State := { State.reset with mem := { State.reset.mem with poison := [0x800] } }
    State.reset.mem.wf = true ∧ s.mem.wf = true ∧ s.poisoned 0x20000 = true ∧ s.poisoned 0x20040 = false ∧ (0x20000 : Nat) % 64 = 0
      ∧ Memory.wf [(3, 1), (5, 2)] = true ∧ (List.replicate 64 (7 : Byte)).length = 64 := by decide +kernel

/-! ## Well-formedness: for each check a term that it refuses -/

/-- 09 R174: an ALU instruction at a port unit. -/
theorem smoke_site : (Instr.add ⟨0, 15, none, none, 0, 0⟩).wellFormed = false := by decide
/-- 09 R182: a MOD that the opcode does not define. -/
theorem smoke_mod : (Instr.add ⟨0, 0, none, none, 3, 0⟩).wellFormed = false := by decide
/-- 09 R182: an unused bit of IMM20 set. -/
theorem smoke_imm_bits : (Instr.clz ⟨0, 0, none, none, 0, 1⟩).wellFormed = false := by decide
/-- 10 R202: CTR with a count of zero. -/
theorem smoke_imm_value : (Instr.ctr ⟨0, 1, none, none, 1, 0⟩).wellFormed = false := by decide
/-- 10 R190: ITER with both a register and a count; LOOP of kind 3, of a depth without pipelining, with both counts. -/
theorem smoke_counts : (Instr.iter 3 5).wellFormed = false ∧ (Instr.loop 0 3 0 5).wellFormed = false ∧ (Instr.loop 0 0 2 5).wellFormed = false
    ∧ (Instr.loop 3 0 0 5).wellFormed = false := by decide
/-- 10 R191: a branch by zero words. -/
theorem smoke_branches : (Instr.br 0).wellFormed = false ∧ (Instr.brz 5 0).wellFormed = false ∧ (Instr.brnz 5 0).wellFormed = false := by decide
/-- 10 R194: eight arguments past G63. -/
theorem smoke_launch : (Instr.launch 0 0 57).wellFormed = false ∧ (Instr.launch 0 0 56).wellFormed = true := by decide
/-- 12 R241: rule number 0; a group by register and by table. -/
theorem smoke_fixpoints : (Instr.rule 2 0).wellFormed = false ∧ (Instr.ruleFull 2 0).wellFormed = false ∧ (Instr.fixb 3 0 1).wellFormed = false
    ∧ (Instr.fixe 5 3 1).wellFormed = false := by decide

/-! ## Decoding: words that the spec writes out bit by bit, and words it refuses -/

/-- 01 R10: ADD with 5 as its immediate, CONA to i0 of index 1 with two slots. -/
theorem test_decode_add : decodeTableWord 64 0x2000811000000005 = some (.add ⟨0, 0, some ⟨1, 0, 2⟩, none, 0, 5⟩) := by decide +kernel
/-- 09 R175. -/
theorem test_decode_steer : decodeTableWord 64 0x4803851420400000 = some (.steer ⟨0, 3, some ⟨5, 0, 2⟩, some ⟨4, 0, 1⟩, 0, 0⟩) := by decide +kernel
/-- 09 R177. -/
theorem test_decode_brnz : decodeTableWord 64 0x0C14003FFFFFFFFD = some (.brnz 5 (BitVec.ofInt 38 (-3))) := by decide +kernel
/-- 10 R186. -/
theorem test_decode_gadd : decodeTableWord 64 0x131C500000000010 = some (.gadd 7 5 0 0x10) := by decide +kernel
/-- 10 R189. -/
theorem test_decode_stream : decodeTableWord 64 0x0600000100000001 = some (.stream 0 0 1 1) := by decide +kernel
/-- 10 R202. -/
theorem test_decode_ctr : decodeTableWord 64 0x4D01821000100004 = some (.ctr ⟨0, 1, some ⟨2, 0, 2⟩, none, 1, 4⟩) := by decide +kernel
/-- 11 R231. -/
theorem test_decode_vrsq : decodeTableWord 64 0x7929850C30400000 = some (.vrsq ⟨2, 9, some ⟨5, 0, 1⟩, some ⟨6, 0, 1⟩, 0, 0⟩) := by decide +kernel
/-- 12 R239. -/
theorem test_decode_matrix : decodeTableWord 64 0x900E821000000000 = some (.mma ⟨0, 14, some ⟨2, 0, 2⟩, none, 0, 0⟩)
    ∧ decodeTableWord 64 0x921E832000000003 = some (.mdrain ⟨1, 14, some ⟨3, 0, 4⟩, none, 0, 3⟩) := by decide +kernel
/-- 13 R270, R274. -/
theorem test_decode_memory : decodeTableWord 64 0xB00F812000000000 = some (.ld ⟨0, 15, some ⟨1, 0, 4⟩, none, 0, 0⟩)
    ∧ decodeTableWord 64 0xBA3F851430524004 = some (.fadd ⟨3, 15, some ⟨5, 0, 2⟩, some ⟨6, 0, 1⟩, 1, 0x24004⟩) := by decide +kernel
/-- 07 R139, 15: a header pool index of 2 and a snapshot pool index of 3. -/
theorem test_decode_pin : decodeTableWord 64 0xCC0F830800000C02 = some (.pin ⟨0, 15, some ⟨3, 0, 1⟩, none, 0, 0xC02⟩) := by decide +kernel
/-- 17 R321. -/
theorem test_decode_rule : decodeTableWord 64 0x1D00000000010002 = some (.rule 2 1) ∧ decodeTableWord 64 0x1D00000001010002 = some (.ruleFull 2 1)
    ∧ decodeTableWord 64 0x1F2C100000000000 = some (.retract 11 1 0) := by decide +kernel
/-- 26 R398. -/
theorem test_decode_planes : decodeTableWord 64 0x0314000000000001 = some (.shadow 5 1) ∧ decodeTableWord 64 0x0400000000000000 = some .swap := by
  decide +kernel
/-- 09 R175, R178, R183: opcode 0; a consumer field with V clear and a bit set; a sequence word with a field its row does not list. -/
theorem test_decode_refuses : decodeTableWord 64 0 = none ∧ decodeTableWord 64 0x2000011000000005 = none ∧ decodeTableWord 64 0x0100000000000001 = none := by
  decide +kernel

/-! ## Witnesses: walks entry by entry, circuits, torn contexts, errors in what a run keeps -/

/-- A walk that reads its entries one by one comes to where the whole walk comes. -/
theorem witness_IssueAndTranslation_entries : onAcc (accSt [acc5 .load .parked none]) (fun a r =>
    let s := accSt [acc5 .load .parked none]
    let t := (s.walkNext 5).walkNext 5
    decide (a.stage = .parked ∧ a.ats = 0 ∧ a.fault = none ∧ a.walked = none) && onAcc t (fun b _ => b.walked == some (3, 0x3000)
      && (t.walkOn r.slot b.va b.walked).toOption == (s.walk r.slot a.va).toOption && (s.walk r.slot a.va).toOption.isSome)) = true := by
  decide +kernel

/-- Circuit group 1 of link 0, UP, out of port 0 and in to port 2 of the image at 0 of slot 0. -/
def circ (out : Bool) (n : Nat) : Circuit := ⟨0, 1, out, 0, 0, if out then 0 else 2, n⟩
def circuitSt (s : State) (n : Nat) : State :=
  { s with chip := { s.chip with circuits := [circ true n, circ false 64], links := [{ Link.reset with stat := 0x00F20005 }] } }

/-- A STRMO whose port is bound to a circuit sends its token over the group; the credit is gone. -/
theorem witness_Strmo_circuit :
    let i : Instr := .strmo ⟨0, 15, none, none, 0, 0⟩
    let s := circuitSt (oneV i 0 [0x80] none [[it 5]]) 3
    meets i s (fun x => match x.s.circuitOf x.ref.run (fld x.strm 5 0) true with
      | some c => if x.strm.getLsbD 6 = false ∧ x.elem.queue 0 = [it 5] ∧ c = circ true 3 ∧ x.s.circuitUp c = true ∧ x.s.heldOut x.ref.run 16 < c.credits then
          x.fireAct i { elem := x.elem.popToken 0, eff := x.sendOut 16 (it 5) } else none
      | none => none) = true
    ∧ (s.circuitOf 0 0 true = some (circ true 3) ∧ s.circuitOf 0 2 false = some (circ false 64) ∧ s.circuitOf 0 1 true = none) := by
  decide +kernel
/-- A token comes in, a credit comes back. -/
theorem witness_StepRunsDecoded_circuit :
    let s := circuitSt (st nopBlk) 3
    s.circuitUp (circ true 3) = true ∧ (s.chip.circuits.find? fun x => x.link == 0 && x.group == 1 && x.out == true) = some (circ true 3)
      ∧ (s.chip.circuits.find? fun x => x.link == 0 && x.group == 1 && x.out == false) = some (circ false 64)
      ∧ ((s.runs.find? fun r => r.slot == 0 && r.image == 0 && (r.st == .resident || r.st == .frozen)).map fun r => r.skidOf 2) = some []
      ∧ s.chip.held = false ∧ (match step { s with agenda := [.circuit 0 1 (some (it 7))] } with
        | .next t => (t.run? 0).map (fun r => r.skidOf 2) == some [.plain (it 7)]
        | _ => false) = true ∧ (match step { s with agenda := [.circuit 0 1 none] } with
        | .next t => t.chip.circuits == [circ true 4, circ false 64]
        | _ => false) = true := by decide +kernel
theorem witness_HostRegisters_circuit : (hostSt id id).ready = true ∧ State.reset.ready = false := by decide +kernel

/-- A launch that meets the teardown of its context in one cycle. -/
theorem witness_Launch_torn :
    let s := withAdm (hostSt id id) fun a => { a with torn := [(7, 0x800, 2)] }
    let ws : List W64 := 0 :: 7 :: List.replicate 8 0
    s.ctx? 7 = none ∧ fld (ws.getD 0 0) 63 57 = 0 ∧ fld (ws.getD 1 0) 63 15 = 0 ∧ fld (ws.getD 1 0) 7 0 = 7
      ∧ s.adm.torn.all (fun q => q.1 != 7) = false ∧ (hostSt id id).adm.torn.all (fun q => q.1 != 7) = true := by decide +kernel

theorem witness_Errors_kept :
    let s := st (withCtl (feed (blk (pair (.acc (fb 0 0))) [0, 0] []) [[it 3]]) (.accum 4 true false))
    (s.site e0).map (fun h => decide (h.elem.ctl = .accum 4 true false)) = some true ∧ (s.run? 0).isSome = true := by decide +kernel
/-- The lost token of a stream buffer is POISON of its voted marker. -/
theorem test_lost_stream_token : errSkid 1 [.plain (it 3), .group [it 5, it 6] true] = [.plain (it 3), .group [errTok (it 5), it 6] true] := by
  decide +kernel

end Sys2Proof.Tests
end

section
/-! Binary instructions of the scalar ALU (05 R84, R85, 10 R199): each row of `binRows` is one `binFire` whose operation computes the
row's value, and a `binFire` with ordinary positions answers that value. -/

namespace Sys2Proof.Proofs.ScalarAlu

open Sys2Proof.Machine Sys2Proof.Laws

/-! ## A firing of the scalar ALU with ordinary positions -/

/-- Heads without an end token form no end pair (10 R198). -/
theorem endPair_eq_none {ps : List Pos} (hend : ps.any Pos.isEnd = false) (x : FireIn) (ks : List Nat) (vec : Bool) :
    endPair x ks ps vec = none := by
  simp [endPair, hend]

/-- With neither end tokens nor POISON, and no elided run to pass on, an ALU element emits its operation's value. -/
theorem aluFire_ordinary {zp : Bool} {x : FireIn} {ps : List Pos} (op : FireIn → W32 → Option W32 → W32)
    (hheads : x.heads x.ins = some ps) (hend : ps.any Pos.isEnd = false) (hpoison : ps.any Pos.poison = false)
    (helided : (zp && ps.all Pos.isElided) = false) :
    aluFire zp op x = .act
      { elem := x.elem.pops x.ins
        emits := x.all fun k => .tok k
          (scalarTok (x.rc.encodeInt (op x (x.ival (ps.headD .elided)) ((ps[1]?).map x.ival))) (resultMark ps) x.rcNo) } := by
  simp only [aluFire, hheads, endPair_eq_none hend, helided, hpoison, Bool.false_eq_true, ↓reduceIte]

/-! ## The operations of the table as bit-vector operations -/

theorem add_eq_ofInt (a b : W32) : a + b = BitVec.ofInt 32 (a.toInt + b.toInt) := by
  rw [BitVec.ofInt_add, BitVec.ofInt_toInt, BitVec.ofInt_toInt]

theorem sub_eq_ofInt (a b : W32) : a - b = BitVec.ofInt 32 (a.toInt - b.toInt) := by
  rw [Int.sub_eq_add_neg, BitVec.ofInt_add, BitVec.ofInt_neg, BitVec.ofInt_toInt, BitVec.ofInt_toInt, BitVec.sub_eq_add_neg]

theorem mul_eq_ofInt (a b : W32) : a * b = BitVec.ofInt 32 (a.toInt * b.toInt) := by
  rw [BitVec.ofInt_mul, BitVec.ofInt_toInt, BitVec.ofInt_toInt]

theorem shiftLeft_eq_ofNat (a b : W32) : a <<< shAmt b = BitVec.ofNat 32 (a.toNat * 2 ^ (b.toNat % 32)) := by
  apply BitVec.eq_of_toNat_eq
  rw [BitVec.toNat_shiftLeft, BitVec.toNat_ofNat, Nat.shiftLeft_eq, shAmt]

theorem ushiftRight_eq_ofNat (a b : W32) : a >>> shAmt b = BitVec.ofNat 32 (a.toNat / 2 ^ (b.toNat % 32)) := by
  have hlt : a.toNat / 2 ^ (b.toNat % 32) < 2 ^ 32 := Nat.lt_of_le_of_lt (Nat.div_le_self _ _) a.isLt
  apply BitVec.eq_of_toNat_eq
  rw [BitVec.toNat_ushiftRight, BitVec.toNat_ofNat, Nat.mod_eq_of_lt hlt, Nat.shiftRight_eq_div_pow, shAmt]

theorem sshiftRight_eq_ofInt (a b : W32) : a.sshiftRight (shAmt b) = BitVec.ofInt 32 (a.toInt / 2 ^ (b.toNat % 32)) := by
  rw [BitVec.sshiftRight, Int.shiftRight_eq_div_pow, shAmt]
  norm_cast

/-- The model replaces `a` by `b` where a strict comparison holds; the table keeps `a` where the converse weak one does. -/
theorem ite_decide_eq_ite_of_not {α : Type} {p q : Prop} [Decidable p] [Decidable q] (h : ¬ q ↔ p) (a b : α) :
    (if decide p = true then b else a) = if q then a else b := by
  simp only [decide_eq_true_eq, ← h, ite_not]

/-- A comparison sends 1 where its relation holds. -/
theorem bool32_decide (p : Prop) [Decidable p] : bool32 (decide p) = if p then 1 else 0 := by
  simp [bool32]

theorem bool32_bne (a b : W32) : bool32 (a != b) = if a = b then 0 else 1 := by
  by_cases h : a = b <;> simp [bool32, h]

/-! ## The rows -/

/-- The instruction of a row executes as one binary firing with the row's zero-preserving column and the row's value. -/
def RunsRow (row : (Fab → Instr) × Bool × (W32 → W32 → W32)) : Prop :=
  ∀ (f : Fab) (s : State), exec (row.1 f) s = fire (row.1 f) (binFire row.2.1 row.2.2) s

/-- An instruction whose operation agrees with a row's value everywhere runs the row. -/
theorem runsRow_of_agree {instr : Fab → Instr} {zp : Bool} {op val : W32 → W32 → W32}
    (hexec : ∀ f s, exec (instr f) s = fire (instr f) (binFire zp op) s) (hval : ∀ a b, op a b = val a b) :
    RunsRow (instr, zp, val) := by
  obtain rfl : op = val := funext fun a => funext (hval a)
  exact hexec

/-- Every row of the table is run by its instruction; where the model writes the row's value itself, unfolding shows it. -/
theorem runsRow_of_mem_binRows : ∀ row ∈ binRows, RunsRow row := by
  simp only [binRows, List.forall_mem_cons]
  exact
    ⟨runsRow_of_agree (fun _ _ => rfl) add_eq_ofInt,  -- ADD
     runsRow_of_agree (fun _ _ => rfl) sub_eq_ofInt,  -- SUB
     runsRow_of_agree (fun _ _ => rfl) mul_eq_ofInt,  -- MUL
     fun _ _ => rfl,  -- MULH
     fun _ _ => rfl,  -- MULHU
     fun _ _ => rfl,  -- DIV
     fun _ _ => rfl,  -- DIVU
     fun _ _ => rfl,  -- REM
     fun _ _ => rfl,  -- REMU
     fun _ _ => rfl,  -- AND
     fun _ _ => rfl,  -- OR
     fun _ _ => rfl,  -- XOR
     fun _ _ => rfl,  -- ANDN
     runsRow_of_agree (fun _ _ => rfl) shiftLeft_eq_ofNat,  -- SHL
     runsRow_of_agree (fun _ _ => rfl) ushiftRight_eq_ofNat,  -- SHR
     runsRow_of_agree (fun _ _ => rfl) sshiftRight_eq_ofInt,  -- SAR
     fun _ _ => rfl,  -- ROL
     fun _ _ => rfl,  -- ROR
     runsRow_of_agree (fun _ _ => rfl) fun a b => ite_decide_eq_ite_of_not (@Int.not_le a.toInt b.toInt) a b,  -- MIN
     runsRow_of_agree (fun _ _ => rfl) fun a b => ite_decide_eq_ite_of_not (@Int.not_le b.toInt a.toInt) a b,  -- MAX
     runsRow_of_agree (fun _ _ => rfl) fun a b => ite_decide_eq_ite_of_not (@Nat.not_le a.toNat b.toNat) a b,  -- MINU
     runsRow_of_agree (fun _ _ => rfl) fun a b => ite_decide_eq_ite_of_not (@Nat.not_le b.toNat a.toNat) a b,  -- MAXU
     runsRow_of_agree (fun _ _ => rfl) fun a b => bool32_decide (a = b),  -- CEQ
     runsRow_of_agree (fun _ _ => rfl) bool32_bne,  -- CNE
     runsRow_of_agree (fun _ _ => rfl) fun a b => bool32_decide (a.toInt < b.toInt),  -- CLT
     runsRow_of_agree (fun _ _ => rfl) fun a b => bool32_decide (a.toInt ≤ b.toInt),  -- CLE
     runsRow_of_agree (fun _ _ => rfl) fun a b => bool32_decide (b.toInt < a.toInt),  -- CGT
     runsRow_of_agree (fun _ _ => rfl) fun a b => bool32_decide (b.toInt ≤ a.toInt),  -- CGE
     runsRow_of_agree (fun _ _ => rfl) fun a b => bool32_decide (a.toNat < b.toNat),  -- CLTU
     runsRow_of_agree (fun _ _ => rfl) fun a b => bool32_decide (b.toNat ≤ a.toNat),  -- CGEU
     List.forall_mem_nil _⟩

/-- Settles O1: the instruction runs its row as one `binFire`, which with ordinary positions answers the row's value. -/
theorem binaryAluResult : Obligations.BinaryAluResult := by
  intro row hrow f s t x ps hfire hheads hend hpoison helided r ht
  rw [runsRow_of_mem_binRows row hrow f s]
  exact fire_act hfire (aluFire_ordinary _ hheads hend hpoison helided) ht

end Sys2Proof.Proofs.ScalarAlu
end

section
/-! Acquire loads and release stores (08 R151, R153, R154): an entry-earlier LDA keeps every access in its issue queue, an STL leaves it
only with nothing entry-earlier, and both perform as a load and a store do. -/

namespace Sys2Proof.Proofs.AcquireRelease

open Sys2Proof.Machine Sys2Proof.Laws

/-! ## The two instructions on the state -/

theorem exec_issue (id : Nat) (s : State) : exec (.issue id) s = .next (s.issue id) := rfl

theorem exec_perform (p : PerfRef) (s : State) : exec (.perform p) s = .next (s.perform p) := rfl

/-- Looking an access up by its number finds one of that number. -/
theorem id_of_acc? {s : State} {id : Nat} {b : Access} (h : s.acc? id = some b) : b.id = id :=
  beq_iff_eq.mp (List.find?_some (p := fun a : Access => a.id == id) h)

/-! ## Entry order (R150) -/

section EntryOrder
variable {s : State} {a b : Access}

/-- Of the same port, an access nearer the head of the queue is entry-earlier. -/
theorem mem_earlier_of_nearer_head {l m n : List Access} (hrun : a.run = b.run) (hport : a.port = b.port)
    (haccs : s.ord.accs = l ++ a :: (m ++ b :: n)) (hfirst : ∀ x ∈ l ++ a :: m, x.id ≠ b.id) : a ∈ s.earlier b := by
  have hqueue : s.ord.accs = (l ++ a :: m) ++ b :: n := by simp [haccs]
  have hbefore : s.ord.accs.takeWhile (fun x => x.id != b.id) = l ++ a :: m := by
    rw [hqueue, List.takeWhile_append_of_pos fun x hx => bne_iff_ne.mpr (hfirst x hx)]
    simp
  simp [State.earlier, hbefore, hrun, hport]

/-- Of another port, an access stamped in an earlier cycle is entry-earlier. -/
theorem mem_earlier_of_earlier_stamp (hrun : a.run = b.run) (hport : a.port ≠ b.port) (hmem : a ∈ s.ord.accs)
    (hstamp : a.stamp < b.stamp) : a ∈ s.earlier b := by
  simp [State.earlier, hrun, hport, hmem, hstamp]

/-- An access that no wave keeps for its commit is not held for the waves of `b`'s block (03 R50). -/
theorem heldFor_eq_false (h : b.wave = none ∨ (a.stage ≠ .done ∧ (a.kind = .egress → a.wave = none))) : a.heldFor b = false := by
  obtain hwave | ⟨hstage, htoken⟩ := h
  · simp [Access.heldFor, hwave]
  · have hegress : (a.kind == .egress && a.wave.isSome) = false := by simpa using htoken
    simp [Access.heldFor, hstage, hegress]

end EntryOrder

/-! ## What keeps an access in its queue (R151) -/

section Blocked
variable {s : State} {a b : Access}

/-- An entry-earlier LDA that has not performed blocks. -/
theorem blocked_of_acquire (hearlier : a ∈ s.earlier b) (hheld : a.heldFor b = false) (hkind : a.kind = .acquire) (r : Run) :
    s.blocked r b = true := by
  have hblocker : ((s.earlier b).filter fun x => !x.heldFor b).any (fun x => x.kind == .acquire) = true :=
    List.any_eq_true.mpr ⟨a, List.mem_filter.mpr ⟨hearlier, by simp [hheld]⟩, by simp [hkind]⟩
  simp only [State.blocked, hblocker, Bool.or_true, Bool.true_or]

/-- Any entry-earlier access that has not performed blocks an STL. -/
theorem blocked_of_release (hearlier : a ∈ s.earlier b) (hheld : a.heldFor b = false) (hkind : b.kind = .release) (r : Run) :
    s.blocked r b = true := by
  have hblocker : a ∈ (s.earlier b).filter fun x => !x.heldFor b := List.mem_filter.mpr ⟨hearlier, by simp [hheld]⟩
  have hsome : ((s.earlier b).filter fun x => !x.heldFor b).isEmpty = false := by
    simpa using List.ne_nil_of_mem hblocker
  simp only [State.blocked, hkind, hsome, BEq.rfl, Bool.not_false, Bool.and_true, Bool.or_true, Bool.true_or]

/-- With nothing entry-earlier, only a closed gate keeps back an access other than a token for the host. -/
theorem blocked_eq_gated (hearlier : s.earlier b = []) (hkind : b.kind ≠ .egress) (r : Run) : s.blocked r b = s.gated r b := by
  cases hk : b.kind with
  | egress => exact absurd hk hkind
  | _ => simp [State.blocked, hearlier, hk]

end Blocked

/-! ## ISSUE -/

/-- A blocked access stays where it is. -/
theorem issue_eq_self_of_blocked {s : State} {id : Nat} {b : Access} (hacc : s.acc? id = some b) (hblocked : ∀ r, s.blocked r b = true) :
    s.issue id = s := by
  cases hrun : s.run? b.run with
  | none => simp [State.issue, hacc, hrun]
  | some r => simp [State.issue, hacc, hrun, hblocked r]

/-- With nothing entry-earlier, an access that carries an address is pending at the place it translates to; without a translation it
parks (R149). -/
theorem issue_of_earlier_nil {s : State} {id : Nat} {b : Access} {r : Run} (hacc : s.acc? id = some b) (hrun : s.run? b.run = some r)
    (hres : r.st = .resident) (hstage : b.stage = .queued) (hblocked : s.blocked r b = false) (haddr : b.addressed = true)
    (hearlier : s.earlier b = []) :
    s.issue id = (b.place.orElse fun _ => s.cached r b).elim (s.modAcc id fun x => { x with stage := .parked })
      fun p => s.modAcc id fun x => { x with stage := .pending, place := some p } := by
  simp only [State.issue, hacc, hrun, hres, hstage, hblocked, haddr, hearlier, List.filter_nil, List.any_nil, List.foldl_nil, ne_eq,
    not_true_eq_false, Bool.false_eq_true, or_self, Bool.not_true, ↓reduceIte]
  cases b.place.orElse fun _ => s.cached r b <;> rfl

/-! ## PERFORM -/

section Perform
variable {s : State} {a : Access} {r : Run} {p : Place}

/-- Outside waves, a translated access that no wave's lines hold up performs at its place in this module or in the host's memory. -/
theorem performAcc_eq_performAt (hrun : s.run? a.run = some r) (hstage : a.stage = .pending) (haddr : a.addressed = true)
    (hplace : a.place = some p) (hwave : a.wave = none) (hfree : s.conflicts (placeKey p) a.kind.writes none = [])
    (hhere : ∀ m x g, p ≠ .remote m x g) : s.performAcc a = s.performAt a r p := by
  simp only [State.performAcc, hrun, hstage, hplace, hwave, hfree, Option.isSome_none, List.isEmpty_nil, ne_eq, not_true_eq_false,
    Bool.not_true, Bool.false_eq_true, ↓reduceIte]
  split
  -- the kind carries an address
  case h_10 =>
    cases p with
    | remote m x g => exact absurd rfl (hhere m x g)
    | hbm x => rfl
    | host x => rfl
  -- a fence, a request to an engine, a token for the host
  all_goals
    rename_i hkind
    simp [Access.addressed, hkind] at haddr

/-- An LDA none of whose units has performed replies with the bytes of its place. -/
theorem performAt_acquire {bs : List Byte} {psn : Bool} (hkind : a.kind = .acquire) (hunits : a.units = []) (hpsn : a.psn = false)
    (hread : s.placeRead p a.width = some (bs, psn)) :
    s.performAt a r p = (s.noteAt (some (s.identity a.run)) p a.width).loadDone a bs psn := by
  have hbytes : (bs.zipIdx.map fun q => q.1) = bs := List.zipIdx_map_fst 0 bs
  simp [State.performAt, hkind, hunits, hpsn, hread, hbytes]

/-- An STL none of whose units has performed writes its bytes and replies with its done token. -/
theorem performAt_release (hkind : a.kind = .release) (hunits : a.units = []) :
    s.performAt a r p = (s.storeRuns a r p).doneToken a := by
  simp [State.performAt, hkind, hunits]

theorem perform_whole_of_acc {id : Nat} (hacc : s.acc? id = some a) : s.perform (.whole id) = s.performAcc a := by
  simp only [State.perform, hacc]

end Perform

/-- LDA and STL carry an address to translate. -/
theorem addressed_of_acquire_or_release {b : Access} (hkind : b.kind = .acquire ∨ b.kind = .release) : b.addressed = true := by
  obtain hk | hk := hkind <;> simp [Access.addressed, hk]

/-- Settles O18: an entry-earlier LDA, or anything entry-earlier than an STL, is a blocker of R151; with nothing entry-earlier only the
gate is left, and PERFORM of either is that of a whole load or store. -/
theorem acquireAndRelease : Obligations.AcquireAndRelease := by
  refine ⟨?held, ?issues, ?performs⟩
  case held =>
    intro s id a b hacc hrun horder hwave hkind
    have hearlier : a ∈ s.earlier b := by
      obtain ⟨hport, l, m, n, haccs, hfirst⟩ | ⟨hport, hmem, hstamp⟩ := horder
      · exact mem_earlier_of_nearer_head hrun hport haccs (id_of_acc? hacc ▸ hfirst)
      · exact mem_earlier_of_earlier_stamp hrun hport hmem hstamp
    have hblocked : ∀ r, s.blocked r b = true :=
      hkind.elim (blocked_of_acquire hearlier (heldFor_eq_false hwave)) (blocked_of_release hearlier (heldFor_eq_false hwave))
    rw [exec_issue, issue_eq_self_of_blocked hacc hblocked]
  case issues =>
    intro s id b r hacc hrun hres hstage hkind hearlier hgate
    have haddr := addressed_of_acquire_or_release hkind
    have hnotToken : b.kind ≠ .egress := by obtain hk | hk := hkind <;> simp [hk]
    have hblocked : s.blocked r b = false := (blocked_eq_gated hearlier hnotToken r).trans hgate
    have hissue := issue_of_earlier_nil hacc hrun hres hstage hblocked haddr hearlier
    constructor
    · intro p hplace
      rw [exec_issue, hissue, hplace, Option.elim_some]
    · intro hplace
      rw [exec_issue, hissue, hplace, Option.elim_none]
  case performs =>
    intro s id a r p hacc hrun hstage hplace hwave hfree hunits hpsn hhere bs psn hread
    have hat (hkind : a.kind = .acquire ∨ a.kind = .release) : exec (.perform (.whole id)) s = .next (s.performAt a r p) := by
      rw [exec_perform, perform_whole_of_acc hacc,
        performAcc_eq_performAt hrun hstage (addressed_of_acquire_or_release hkind) hplace hwave hfree hhere]
    exact ⟨fun hk => (hat (.inl hk)).trans (congrArg _ (performAt_acquire hk hunits hpsn hread)),
      fun hk => (hat (.inr hk)).trans (congrArg _ (performAt_release hk hunits))⟩

end Sys2Proof.Proofs.AcquireRelease
end

section
/-! Sequence words that compute and branch (03 R32, R33, 10 R191, R192): a G-register word is one `gWord` with its row's operation, a
branch goes where `State.branch` does or falls through, and the decoder refuses a branch by zero. -/

namespace Sys2Proof.Proofs.SequenceScalar

open Sys2Proof.Machine Sys2Proof.Laws

/-! ## What the operations on the escapement leave -/

@[simp] theorem setG_flags (r : Run) (n : BitVec 6) (v : W64) : (r.setG n v).esc.flags = r.esc.flags := by
  simp only [Run.setG, Esc.setG]
  split <;> rfl

@[simp] theorem setSqc_flags (r : Run) (q : Nat) : (r.setSqc q).esc.flags = r.esc.flags := rfl

@[simp] theorem setSqc_loops (r : Run) (q : Nat) : (r.setSqc q).esc.loops = r.esc.loops := rfl

@[simp] theorem setSqc_sqc (r : Run) (q : Nat) : (r.setSqc q).esc.sqc = q := rfl

/-! ## G-register words (R192) -/

/-- Bits 5 to 0 of the second operand are its remainder by 64. -/
theorem shiftAmount_eq_mod (b : W64) : shiftAmount b = b.toNat % 64 := by
  simp [shiftAmount, fld]

/-- A G-register word before the last of its sequence writes its operation's value and SQC moves on. -/
theorem gWord_of_not_last {s : State} {r : Run} (hword : wordRun s = some r) (hnext : r.esc.sqc + 1 < (s.seqOf r).length)
    (op : W64 → W64 → W64) (ga gb gc : BitVec 6) (imm : BitVec 38) :
    gWord op ga gb gc imm s =
      .next (s.setRun ((r.setG ga (op (r.getG gb) (r.getG gc + imm.signExtend 64))).setSqc (r.esc.sqc + 1))) :=
  (onWord_of_wordRun hword _).trans (congrArg _ (complWord_next hnext _))

/-- The instruction of a row executes as one G-register word with the row's value. -/
def RunsGRow (row : (BitVec 6 → BitVec 6 → BitVec 6 → BitVec 38 → Instr) × (W64 → W64 → W64)) : Prop :=
  ∀ (ga gb gc : BitVec 6) (imm : BitVec 38) (s : State), exec (row.1 ga gb gc imm) s = gWord row.2 ga gb gc imm s

/-- An instruction whose operation agrees with a row's value everywhere runs the row. -/
theorem runsGRow_of_agree {instr : BitVec 6 → BitVec 6 → BitVec 6 → BitVec 38 → Instr} {op val : W64 → W64 → W64}
    (hexec : ∀ ga gb gc imm s, exec (instr ga gb gc imm) s = gWord op ga gb gc imm s) (hval : ∀ a b, op a b = val a b) :
    RunsGRow (instr, val) := by
  obtain rfl : op = val := funext fun a => funext (hval a)
  exact hexec

section Exec
variable (ga gb gc : BitVec 6) (imm : BitVec 38) (s : State)

theorem exec_gshl : exec (.gshl ga gb gc imm) s = gWord (fun a b => a <<< shiftAmount b) ga gb gc imm s := rfl

theorem exec_gshr : exec (.gshr ga gb gc imm) s = gWord (fun a b => a >>> shiftAmount b) ga gb gc imm s := rfl

theorem exec_gslt : exec (.gslt ga gb gc imm) s = gWord (fun a b => if a.slt b then 1 else 0) ga gb gc imm s := rfl

end Exec

/-- Every row of the table is run by its instruction; the shifts and the comparison are the model's own operations. -/
theorem runsGRow_of_mem_gRows : ∀ row ∈ gRows, RunsGRow row := by
  simp only [gRows, List.forall_mem_cons]
  exact
    ⟨fun _ _ _ _ _ => rfl,  -- GADD
     fun _ _ _ _ _ => rfl,  -- GSUB
     fun _ _ _ _ _ => rfl,  -- GAND
     fun _ _ _ _ _ => rfl,  -- GOR
     fun _ _ _ _ _ => rfl,  -- GXOR
     runsGRow_of_agree exec_gshl fun a b => by rw [shiftAmount_eq_mod],  -- GSHL
     runsGRow_of_agree exec_gshr fun a b => by rw [shiftAmount_eq_mod],  -- GSHR
     runsGRow_of_agree exec_gslt fun a b => by simp only [BitVec.slt_iff_toInt_lt],  -- GSLT
     List.forall_mem_nil _⟩

/-- Settles O6: the instruction runs its row as one `gWord`, and neither the write nor the move of SQC touches the flags. -/
theorem gRegisterWords : Obligations.GRegisterWords := by
  intro row hrow ga gb gc imm s r hword hnext
  constructor
  · rw [runsGRow_of_mem_gRows row hrow, gWord_of_not_last hword hnext]
  · rw [setSqc_flags, setG_flags]

/-! ## Branches (R33, R191) -/

theorem exec_br (off : BitVec 38) (s : State) : exec (.br off) s = onWord s fun r => s.branch r off := rfl

theorem exec_brz (ga : BitVec 6) (off : BitVec 38) (s : State) :
    exec (.brz ga off) s = onWord s fun r => if r.getG ga = 0 then s.branch r off else s.nextWord r := rfl

theorem exec_brnz (ga : BitVec 6) (off : BitVec 38) (s : State) :
    exec (.brnz ga off) s = onWord s fun r => if r.getG ga ≠ 0 then s.branch r off else s.nextWord r := rfl

/-- A target inside the sequence is reached; any other raises SEQRANGE at the word. -/
theorem branch_eq_ite (s : State) (r : Run) (off : BitVec 38) :
    s.branch r off =
      if 0 ≤ (r.esc.sqc : Int) + off.toInt ∧ (r.esc.sqc : Int) + off.toInt < (s.seqOf r).length then
        s.setRun (r.setSqc ((r.esc.sqc : Int) + off.toInt).toNat)
      else s.trapWord r.id .seqrange := by
  have hinside (t n : Int) : 0 ≤ t ∧ t < n ↔ ¬ (t < 0 ∨ n ≤ t) := by omega
  simp only [State.branch, hinside, ite_not]

/-- A word that does nothing else moves SQC on, or is the last and raises SEQRANGE. -/
theorem nextWord_eq_ite (s : State) (r : Run) :
    s.nextWord r =
      if r.esc.sqc + 1 < (s.seqOf r).length then s.setRun (r.setSqc (r.esc.sqc + 1)) else s.trapWord r.id .seqrange := rfl

/-! ## The decoder on sequence words (09 R177) -/

section Fields
variable (o : BitVec 8) (a b c : BitVec 6) (imm : BitVec 38)

theorem ga_encodeSeq : (encodeSeq o a b c imm).extractLsb' 50 6 = a :=
  (Encoding.extract_high _ imm 12 6).trans <| (Encoding.extract_high _ c 6 6).trans <| (Encoding.extract_high _ b 0 6).trans
    (Encoding.extract_low _ a)

theorem gb_encodeSeq : (encodeSeq o a b c imm).extractLsb' 44 6 = b :=
  (Encoding.extract_high _ imm 6 6).trans <| (Encoding.extract_high _ c 0 6).trans (Encoding.extract_low _ b)

theorem gc_encodeSeq : (encodeSeq o a b c imm).extractLsb' 38 6 = c :=
  (Encoding.extract_high _ imm 0 6).trans (Encoding.extract_low _ c)

theorem imm_encodeSeq : (encodeSeq o a b c imm).extractLsb' 0 38 = imm := Encoding.extract_low _ imm

end Fields

/-- The branches whose target is their own word. -/
inductive ZeroBranch : Instr → Prop
  | br : ZeroBranch (.br 0)
  | brz (ga : BitVec 6) : ZeroBranch (.brz ga 0)
  | brnz (ga : BitVec 6) : ZeroBranch (.brnz ga 0)

/-- A word whose fields are those of a branch by zero is refused with BADCON (R191). -/
theorem decodeSeq_zeroBranch {i : Instr} (hzero : ZeroBranch i) {o : BitVec 8} {a b c : BitVec 6} {imm : BitVec 38}
    (hfields : seqInstr o.toNat a b c imm = .ok i) : decodeSeq (encodeSeq o a b c imm) = .error .badCon := by
  simp only [decodeSeq, Encoding.opcode_encodeSeq, ga_encodeSeq, gb_encodeSeq, gc_encodeSeq, imm_encodeSeq, hfields]
  cases hzero <;> rfl

/-- Settles O8: the three words go where `State.branch` and `State.nextWord` go, which move SQC alone, and the words of a zero offset have
the fields of a `ZeroBranch`. -/
theorem branchWords : Obligations.BranchWords := by
  refine ⟨?runs, ?rejects⟩
  case runs =>
    intro s r ga off hword t taken next
    have htaken : s.branch r off = taken := branch_eq_ite s r off
    have hnext : s.nextWord r = next := nextWord_eq_ite s r
    refine ⟨?br, ?brz, ?brnz, fun n => ⟨setSqc_loops r n, setSqc_sqc r n⟩⟩
    case br => rw [exec_br, onWord_of_wordRun hword, htaken]
    case brz => rw [exec_brz, onWord_of_wordRun hword, htaken, hnext]
    case brnz => rw [exec_brnz, onWord_of_wordRun hword, htaken, hnext]
  case rejects =>
    intro ga
    exact ⟨decodeSeq_zeroBranch .br rfl, decodeSeq_zeroBranch (.brz ga) rfl, decodeSeq_zeroBranch (.brnz ga) rfl⟩

end Sys2Proof.Proofs.SequenceScalar
end

section
/-! The decoder and the encoder (09 R168, R174 to R178): the word of an instruction is read as that instruction, and what is read has the
encoder's word. The opcode map is inverted once, for fabric words and for sequence words. -/

namespace Sys2Proof.Proofs.Codec
open Sys2Proof.Machine Sys2Proof.Laws

/-! ## Bytes of a word (09 R168) -/

@[simp] theorem length_natBytes (n w : Nat) : (natBytes n w).length = n := by
  induction n generalizing w with
  | zero => rfl
  | succ n ih => simp [natBytes, ih]

theorem foldr_natBytes (n w : Nat) : (natBytes n w).foldr (fun b acc => acc * 256 + b.toNat) 0 = w % 256 ^ n := by
  induction n generalizing w with
  | zero => simp [natBytes, Nat.mod_one]
  | succ n ih =>
    rw [natBytes, List.foldr_cons, ih, BitVec.toNat_ofNat, show 256 ^ (n + 1) = 256 * 256 ^ n from Nat.pow_succ', Nat.mod_mul]
    omega

theorem wordOfBytes_natBytes (w : W64) : wordOfBytes (natBytes 8 w.toNat) = w := by
  rw [wordOfBytes, foldr_natBytes, Nat.mod_eq_of_lt (by exact w.isLt), BitVec.ofNat_toNat, BitVec.setWidth_eq]

/-! ## Fields as bits -/

theorem fld_eq_zero_iff {n : Nat} (x : BitVec n) (hi lo : Nat) : fld x hi lo = 0 ↔ x.extractLsb' lo (hi + 1 - lo) = 0 := by
  rw [fld, ← BitVec.extractLsb'_toNat, ← BitVec.toNat_inj]
  rfl

theorem setWidth_eq_zero_append {m n : Nat} (y : BitVec n) : y.setWidth (m + n) = 0#m ++ y := by
  apply BitVec.eq_of_toNat_eq
  have := y.isLt
  have : 2 ^ n ≤ 2 ^ (m + n) := Nat.pow_le_pow_right (by omega) (by omega)
  rw [BitVec.toNat_setWidth, BitVec.toNat_append, Nat.mod_eq_of_lt (by omega)]
  simp

/-- A value whose upper bits are zero is its lower bits. -/
theorem setWidth_low {m n : Nat} {x : BitVec (m + n)} (h : x.extractLsb' n m = 0) : (x.extractLsb' 0 n).setWidth (m + n) = x := by
  rw [setWidth_eq_zero_append, ← BitVec.ofNat_eq_ofNat, ← h]
  exact BitVec.extractLsb'_append_extractLsb'

theorem append_extract {w s t m n : Nat} {x : BitVec w} (h : t = s + n) :
    x.extractLsb' t m ++ x.extractLsb' s n = x.extractLsb' s (m + n) := BitVec.extractLsb'_append_extractLsb'_eq_extractLsb' h

/-! ## Sequence words (09 R177) -/

theorem of_need {c : Bool} {i j : Instr} (h : (if c then Except.ok i else .error DecodeError.badOpc) = .ok j) : c = true ∧ i = j := by
  cases c
  · cases h
  · exact ⟨rfl, Except.ok.inj h⟩

theorem seqInstr_spec {o : Nat} {a b c : BitVec 6} {imm : BitVec 38} {i : Instr} (h : seqInstr o a b c imm = .ok i) :
    fabOf i = none ∧ opcodeOf i = o ∧ encode i = some (encodeSeq (BitVec.ofNat 8 o) a b c imm) := by
  simp only [seqInstr] at h
  split at h
  case h_19 | h_20 | h_21 | h_22 | h_23 | h_24 | h_25 | h_26 => cases h; exact ⟨rfl, rfl, rfl⟩
  case h_32 => cases h
  all_goals
    obtain ⟨hc, rfl⟩ := of_need h
    simp only [Bool.and_eq_true, beq_iff_eq, fld_eq_zero_iff] at hc
  case h_1 | h_4 | h_5 | h_9 => obtain ⟨⟨⟨rfl, rfl⟩, rfl⟩, rfl⟩ := hc; exact ⟨rfl, rfl, rfl⟩
  case h_2 | h_17 | h_30 =>
    obtain ⟨⟨⟨rfl, rfl⟩, rfl⟩, hi⟩ := hc
    exact ⟨rfl, rfl, congrArg (fun v => some (encodeSeq _ 0 0 0 v)) (setWidth_low (m := 22) hi)⟩
  case h_3 | h_13 =>
    obtain ⟨⟨rfl, rfl⟩, hi⟩ := hc
    exact ⟨rfl, rfl, congrArg (fun v => some (encodeSeq _ a 0 0 v)) (setWidth_low hi)⟩
  case h_31 =>
    obtain ⟨rfl, hi⟩ := hc
    exact ⟨rfl, rfl, congrArg (fun v => some (encodeSeq _ a b 0 v)) (setWidth_low (m := 22) hi)⟩
  case h_6 =>
    obtain ⟨⟨rfl, rfl⟩, hi⟩ := hc
    refine ⟨rfl, rfl, congrArg (fun v => some (encodeSeq _ 0 b 0 v)) ?_⟩
    rw [← BitVec.ofNat_eq_ofNat, ← hi]
    simp (disch := rfl) only [BitVec.extractLsb'_append_extractLsb'_eq_extractLsb']
    exact BitVec.extractLsb'_eq_self
  case h_7 => obtain ⟨rfl, rfl⟩ := hc; exact ⟨rfl, rfl, rfl⟩
  case h_8 =>
    obtain ⟨⟨rfl, rfl⟩, hi⟩ := hc
    refine ⟨rfl, rfl, congrArg (fun v => some (encodeSeq _ 0 b 0 v)) ?_⟩
    rw [← BitVec.ofNat_eq_ofNat, ← hi]
    simp (disch := rfl) only [BitVec.extractLsb'_append_extractLsb'_eq_extractLsb']
    exact BitVec.extractLsb'_eq_self
  case h_10 => obtain ⟨⟨rfl, rfl⟩, rfl⟩ := hc; exact ⟨rfl, rfl, rfl⟩
  case h_11 | h_12 | h_14 | h_15 | h_18 => obtain ⟨rfl, rfl⟩ := hc; exact ⟨rfl, rfl, rfl⟩
  case h_16 => subst hc; exact ⟨rfl, rfl, rfl⟩
  case h_27 =>
    obtain ⟨⟨rfl, rfl⟩, hi⟩ := hc
    refine ⟨rfl, rfl, congrArg (fun v => some (encodeSeq _ 0 b 0 v)) ?_⟩
    simp (disch := rfl) only [BitVec.extractLsb'_append_extractLsb'_eq_extractLsb']
    exact setWidth_low (m := 14) hi
  case h_28 =>
    obtain ⟨⟨rfl, hi⟩, lo⟩ := hc
    refine ⟨rfl, rfl, congrArg (fun v => some (encodeSeq _ a b 0 v)) ?_⟩
    rw [← BitVec.ofNat_eq_ofNat, ← lo]
    simp (disch := rfl) only [BitVec.extractLsb'_append_extractLsb'_eq_extractLsb']
    exact setWidth_low (m := 14) hi
  case h_29 =>
    obtain ⟨⟨⟨rfl, rfl⟩, rfl⟩, hi⟩ := hc
    split <;> rename_i hb <;> simp only [beq_iff_eq, fld_eq_zero_iff] at hb
    · 
      refine ⟨rfl, rfl, congrArg (fun v => some (encodeSeq _ 0 0 0 v)) ?_⟩
      simp (disch := rfl) only [BitVec.extractLsb'_append_extractLsb'_eq_extractLsb']
      exact setWidth_low (m := 14) (by rw [← append_extract (s := 24) (m := 13) (n := 1) rfl, hi, hb]; rfl)
    · 
      refine ⟨rfl, rfl, congrArg (fun v => some (encodeSeq _ 0 0 0 v)) ?_⟩
      have hb : imm.extractLsb' 24 1 = 1#1 := (BitVec.eq_zero_or_eq_one _).resolve_left hb
      rw [← hb]
      simp (disch := rfl) only [BitVec.extractLsb'_append_extractLsb'_eq_extractLsb']
      exact setWidth_low (m := 13) hi

theorem extract_beyond {n : Nat} (y : BitVec n) {s : Nat} (h : n ≤ s) (l : Nat) : y.extractLsb' s l = 0 := by
  apply BitVec.eq_of_toNat_eq
  have hlt : y.toNat < 2 ^ s := Nat.lt_of_lt_of_le y.isLt (Nat.pow_le_pow_right (by omega) h)
  rw [BitVec.extractLsb'_toNat, Nat.shiftRight_eq_div_pow, Nat.div_eq_of_lt hlt]
  simp

/-- The bits between, of three or more that stand side by side. -/
theorem extract_mid {m n : Nat} (x : BitVec m) (y : BitVec n) : (x ++ y).extractLsb' n m = x := BitVec.extractLsb'_append_eq_left

theorem seqInstr_of_encode {i : Instr} {w : W64} (hf : fabOf i = none) (h : encode i = some w) :
    ∃ (o : BitVec 8) (a b c : BitVec 6) (imm : BitVec 38),
      w = encodeSeq o a b c imm ∧ 1 ≤ o.toNat ∧ o.toNat ≤ 0x1F ∧ seqInstr o.toNat a b c imm = .ok i := by
  cases i <;> cases hf <;> cases h <;> refine ⟨_, _, _, _, _, rfl, by decide, by decide, ?_⟩
  case stream gb port gen entry =>
    have hport : (port ++ gen ++ 0#16 ++ entry).extractLsb' 34 4 = port :=
      (Encoding.extract_high _ entry 18 4).trans <| (Encoding.extract_high _ 0#16 2 4).trans (extract_mid port gen)
    have hgen : (port ++ gen ++ 0#16 ++ entry).extractLsb' 32 2 = gen :=
      (Encoding.extract_high _ entry 16 2).trans <| (Encoding.extract_high _ 0#16 0 2).trans (Encoding.extract_low port gen)
    have hzero : (port ++ gen ++ 0#16 ++ entry).extractLsb' 16 16 = 0#16 :=
      (Encoding.extract_high _ entry 0 16).trans (Encoding.extract_low _ 0#16)
    have hentry : (port ++ gen ++ 0#16 ++ entry).extractLsb' 0 16 = entry := Encoding.extract_low _ entry
    simp [seqInstr, fld_eq_zero_iff, hport, hgen, hzero, hentry]
  case loop gb kind depth count =>
    have hkind : (kind ++ depth ++ 0#1 ++ count).extractLsb' 36 2 = kind :=
      (Encoding.extract_high _ count 4 2).trans <| (Encoding.extract_high _ 0#1 3 2).trans (extract_mid kind depth)
    have hdepth : (kind ++ depth ++ 0#1 ++ count).extractLsb' 33 3 = depth :=
      (Encoding.extract_high _ count 1 3).trans <| (Encoding.extract_high _ 0#1 0 3).trans (Encoding.extract_low kind depth)
    have hzero : (kind ++ depth ++ 0#1 ++ count).extractLsb' 32 1 = 0#1 :=
      (Encoding.extract_high _ count 0 1).trans (Encoding.extract_low _ 0#1)
    have hcount : (kind ++ depth ++ 0#1 ++ count).extractLsb' 0 32 = count := Encoding.extract_low _ count
    simp [seqInstr, fld_eq_zero_iff, hkind, hdepth, hzero, hcount]
  case fixb gb rlist grp =>
    have hhigh := extract_beyond (grp ++ rlist) (Nat.le_refl 24) 14
    have hgrp : (grp ++ rlist).extractLsb' 16 8 = grp := extract_mid grp rlist
    have hlist : (grp ++ rlist).extractLsb' 0 16 = rlist := Encoding.extract_low grp rlist
    simp [seqInstr, fld_eq_zero_iff, BitVec.extractLsb'_setWidth_of_le, hhigh, hgrp, hlist]
  case fixe ga gb grp =>
    have hhigh := extract_beyond (grp ++ 0#16) (Nat.le_refl 24) 14
    have hgrp : (grp ++ 0#16).extractLsb' 16 8 = grp := extract_mid grp 0#16
    have hlow : (grp ++ 0#16).extractLsb' 0 16 = 0#16 := Encoding.extract_low grp 0#16
    simp [seqInstr, fld_eq_zero_iff, BitVec.extractLsb'_setWidth_of_le, hhigh, hgrp, hlow]
  case rule cfg num =>
    have hhigh := extract_beyond (num ++ cfg) (Nat.le_succ 24) 13
    have hform := extract_beyond (num ++ cfg) (Nat.le_refl 24) 1
    have hnum : (num ++ cfg).extractLsb' 16 8 = num := extract_mid num cfg
    have hcfg : (num ++ cfg).extractLsb' 0 16 = cfg := Encoding.extract_low num cfg
    simp [seqInstr, fld_eq_zero_iff, BitVec.extractLsb'_setWidth_of_le, hhigh, hform, hnum, hcfg]
  case ruleFull cfg num =>
    have hhigh := extract_beyond (1#1 ++ num ++ cfg) (Nat.le_refl 25) 13
    have hform : (1#1 ++ num ++ cfg).extractLsb' 24 1 = 1#1 :=
      (Encoding.extract_high _ cfg 8 1).trans (extract_mid 1#1 num)
    have hnum : (1#1 ++ num ++ cfg).extractLsb' 16 8 = num :=
      (Encoding.extract_high _ cfg 0 8).trans (Encoding.extract_low 1#1 num)
    have hcfg : (1#1 ++ num ++ cfg).extractLsb' 0 16 = cfg := Encoding.extract_low _ cfg
    simp [seqInstr, fld_eq_zero_iff, BitVec.extractLsb'_setWidth_of_le, hhigh, hform, hnum, hcfg]
  all_goals simp [seqInstr, fld_eq_zero_iff, BitVec.extractLsb'_setWidth_of_le, extract_beyond]

/-! ## Fabric words (09 R174 to R178) -/

/-- A form with one MOD value of its own has it. -/
theorem md_eq_of_contains {md k : BitVec 2} (h : [k.toNat].contains md.toNat = true) : md = k :=
  BitVec.eq_of_toNat_eq (by simpa using h)

theorem md_ne_of_contains {md k : BitVec 2} {mods : List Nat} (h : mods.contains md.toNat = true) (hk : mods.contains k.toNat = false) :
    md ≠ k := by
  rintro rfl
  exact Bool.false_ne_true (hk.symm.trans h)

/-- What the opcode map gives has the fields, the opcode and the word that it was given for. -/
theorem fabInstr_spec {o : Nat} {f : Fab} {i : Instr} (h : fabInstr o f = some i) :
    fabOf i = some f ∧ opcodeOf i = o ∧ encode i = some (encodeFab (BitVec.ofNat 8 o) f) ∧ 0x20 ≤ o ∧ o < 0x100 := by
  unfold fabInstr at h
  repeat' split at h
  all_goals cases h <;> exact ⟨rfl, rfl, rfl, by decide, by decide⟩

/-- The opcode map finds every fabric instruction with a MOD value of its own. -/
theorem fabInstr_opcodeOf {i : Instr} {f : Fab} (hf : fabOf i = some f) (hmd : (modsOf i).contains f.md.toNat = true) :
    fabInstr (opcodeOf i) f = some i := by
  cases i <;> cases hf <;> dsimp only [opcodeOf]
  case ctrRoot | sinkEsc | vsfnD | vpackCode | robT | mdrainAll | evictReset | ownerRange | barjGrp | bardropGrp =>
    exact if_pos (md_eq_of_contains hmd)
  case ctr | sink | vsfn | vpackRaw | rob | mdrain | evict | barj | bardrop =>
    exact if_neg (md_ne_of_contains hmd rfl)
  case ownerRel => exact (if_neg (md_ne_of_contains hmd rfl)).trans (if_pos (md_eq_of_contains hmd))
  case ownerFree => exact (if_neg (md_ne_of_contains hmd rfl)).trans (if_neg (md_ne_of_contains hmd rfl))
  all_goals exact rfl

/-- Of the fields only MOD chooses the form. -/
theorem fabInstr_congr {o : Nat} {f g : Fab} {i : Instr} (h : fabInstr o f = some i) (hmd : g.md = f.md) :
    ∃ j, fabInstr o g = some j ∧ modsOf j = modsOf i := by
  revert i h
  unfold fabInstr
  rw [hmd]
  repeat' split
  all_goals rintro i ⟨⟩ <;> exact ⟨_, rfl, rfl⟩

theorem decodeCon_encodeCon (c : Option Con) : decodeCon (encodeCon c) = .ok c := by
  cases c with
  | none => rfl
  | some c =>
    have hbit : (1#1 ++ c.idx ++ c.inp ++ c.slots).getLsbD 12 = true := by
      rw [BitVec.getLsbD_eq_extractLsb', beq_iff_eq]
      exact (Encoding.extract_high _ c.slots 9 1).trans <| (Encoding.extract_high _ c.inp 7 1).trans (extract_mid 1#1 c.idx)
    have hidx : (1#1 ++ c.idx ++ c.inp ++ c.slots).extractLsb' 5 7 = c.idx :=
      (Encoding.extract_high _ c.slots 2 7).trans <| (Encoding.extract_high _ c.inp 0 7).trans (Encoding.extract_low 1#1 c.idx)
    have hinp : (1#1 ++ c.idx ++ c.inp ++ c.slots).extractLsb' 3 2 = c.inp :=
      (Encoding.extract_high _ c.slots 0 2).trans (Encoding.extract_low _ c.inp)
    have hslots : (1#1 ++ c.idx ++ c.inp ++ c.slots).extractLsb' 0 3 = c.slots := Encoding.extract_low _ c.slots
    simp only [decodeCon, encodeCon, hbit, hidx, hinp, hslots, ↓reduceIte]

theorem encodeCon_of_decodeCon {v : BitVec 13} {c : Option Con} (h : decodeCon v = .ok c) : encodeCon c = v := by
  unfold decodeCon at h
  split at h
  · rename_i hbit
    cases h
    rw [BitVec.getLsbD_eq_extractLsb', beq_iff_eq] at hbit
    rw [encodeCon, ← hbit]
    simp (disch := rfl) only [BitVec.extractLsb'_append_extractLsb'_eq_extractLsb']
    exact BitVec.extractLsb'_eq_self
  · split at h
    · cases h; exact Eq.symm ‹_›
    · cases h

/-- A fabric word that stands is read as it was written. -/
theorem decodeFabric_encodeFab {i : Instr} {f : Fab} (hf : fabOf i = some f) (hok : Fab.ok i f = true) :
    decodeFabric (encodeFab (BitVec.ofNat 8 (opcodeOf i)) f) = .ok i := by
  simp only [Fab.ok, Bool.and_eq_true, beq_iff_eq] at hok
  obtain ⟨⟨⟨hsite, hmods⟩, hbits⟩, hvalue⟩ := hok
  have hi := fabInstr_opcodeOf hf hmods
  obtain ⟨-, -, -, -, hlt⟩ := fabInstr_spec hi
  obtain ⟨htile, hunit, hcona, hconb, hmd, himm⟩ := Encoding.fields_encodeFab (BitVec.ofNat 8 (opcodeOf i)) f
  have hopc : ((encodeFab (BitVec.ofNat 8 (opcodeOf i)) f).extractLsb' 56 8).toNat = opcodeOf i := by
    rw [Encoding.opcode_encodeFab, BitVec.toNat_ofNat, Nat.mod_eq_of_lt hlt]
  obtain ⟨j, hj, hjmods⟩ := fabInstr_congr hi (g := ⟨f.tile, f.unit, none, none, f.md, f.imm⟩) rfl
  simp only [decodeFabric, htile, hunit, hcona, hconb, hmd, himm, hopc, hj, hjmods, hmods, hbits, hsite, hvalue, decodeCon_encodeCon, hi,
    Bool.not_true, Bool.or_false, bne_self_eq_false, Bool.false_eq_true, ↓reduceIte]

theorem decodeFabric_spec {w : W64} {i : Instr} (h : decodeFabric w = .ok i) : i.wellFormed = true ∧ encode i = some w := by
  simp only [decodeFabric] at h
  split at h
  · cases h
  rename_i bare hbare
  split at h
  · cases h
  rename_i hform
  split at h
  · cases h
  rename_i hsite
  split at h
  · cases h
  rename_i hvalue
  split at h
  · cases h
  rename_i a ha
  split at h
  · cases h
  rename_i b hb
  split at h
  · rename_i j hj
    cases h
    obtain ⟨hf, hopc, henc, -, -⟩ := fabInstr_spec hj
    obtain ⟨k, hk, hkmods⟩ := fabInstr_congr hj (g := ⟨w.extractLsb' 52 4, w.extractLsb' 48 4, none, none, w.extractLsb' 20 2, w.extractLsb' 0 20⟩) rfl
    obtain rfl : bare = k := Option.some.inj (hbare.symm.trans hk)
    constructor
    · simp_all [Instr.wellFormed, Fab.ok]
    · rw [henc, encodeFab, encodeCon_of_decodeCon ha, encodeCon_of_decodeCon hb, BitVec.ofNat_toNat, BitVec.setWidth_eq]
      simp (disch := rfl) only [BitVec.extractLsb'_append_extractLsb'_eq_extractLsb']
      exact congrArg some BitVec.extractLsb'_eq_self
  · cases h

/-! ## Any word -/

/-- A word of a well-formed instruction is read as that instruction. -/
theorem decodeWord_of_encode {i : Instr} {w : W64} (hwf : i.wellFormed = true) (h : encode i = some w) : decodeWord w = .ok i := by
  unfold Instr.wellFormed at hwf
  split at hwf
  · rename_i f hf
    have hmods : (modsOf i).contains f.md.toNat = true := by simp_all [Fab.ok]
    obtain ⟨-, -, henc, hge, hlt⟩ := fabInstr_spec (fabInstr_opcodeOf hf hmods)
    obtain rfl : w = encodeFab (BitVec.ofNat 8 (opcodeOf i)) f := Option.some.inj (h.symm.trans henc)
    have hnotSeq : ¬ (1 ≤ opcodeOf i ∧ opcodeOf i ≤ 0x1F) := by omega
    rw [decodeWord, Encoding.opcode_encodeFab, BitVec.toNat_ofNat, Nat.mod_eq_of_lt hlt, if_neg hnotSeq, decodeFabric_encodeFab hf hwf]
  · rename_i hf
    obtain ⟨o, a, b, c, imm, rfl, hge, hle, hseq⟩ := seqInstr_of_encode hf h
    rw [decodeWord, Encoding.opcode_encodeSeq, if_pos ⟨hge, hle⟩, decodeSeq, Encoding.opcode_encodeSeq, SequenceScalar.ga_encodeSeq,
      SequenceScalar.gb_encodeSeq, SequenceScalar.gc_encodeSeq, SequenceScalar.imm_encodeSeq, hseq]
    exact if_pos hwf

/-- A sequence word that is read is well formed and the encoder's. -/
theorem decodeSeq_spec {w : W64} {i : Instr} (h : decodeSeq w = .ok i) : i.wellFormed = true ∧ encode i = some w := by
  unfold decodeSeq at h
  split at h
  · cases h
  · rename_i j hj
    split at h
    · cases h
      obtain ⟨hf, -, henc⟩ := seqInstr_spec hj
      refine ⟨by simpa only [Instr.wellFormed, hf], ?_⟩
      rw [henc, encodeSeq, BitVec.ofNat_toNat, BitVec.setWidth_eq]
      simp (disch := rfl) only [BitVec.extractLsb'_append_extractLsb'_eq_extractLsb']
      exact congrArg some BitVec.extractLsb'_eq_self
    · split at h <;> cases h

theorem decodeWord_spec {w : W64} {i : Instr} (h : decodeWord w = .ok i) : i.wellFormed = true ∧ encode i = some w := by
  simp only [decodeWord] at h
  split at h
  · exact decodeSeq_spec h
  · exact decodeFabric_spec h

/-- Every fabric instruction has a word. -/
theorem encode_isSome_of_fabOf {i : Instr} (h : (fabOf i).isSome = true) : (encode i).isSome = true := by
  cases i <;> cases h <;> rfl

/-- Settles O31: the bytes of a word give the word back, the opcode tells sequence from fabric words, and the fields of either stand side
by side in the word. -/
theorem encodeAndDecodeAgree : Obligations.EncodeAndDecodeAgree := by
  refine ⟨?reads, ?accepts, fun i => encode_isSome_of_fabOf⟩
  case reads =>
    intro i w rest hwf henc
    have hlen := length_natBytes 8 w.toNat
    have hdecode := decodeWord_of_encode hwf henc
    rw [decode, if_neg (by rw [List.length_append, hlen]; omega), List.take_left' hlen, List.drop_left' hlen, wordOfBytes_natBytes, hdecode]
  case accepts =>
    intro bs rest i h
    unfold decode at h
    split at h
    · cases h
    rename_i hlen
    split at h
    · rename_i j hj
      cases h
      obtain ⟨hwf, henc⟩ := decodeWord_spec hj
      exact ⟨hwf, Nat.le_of_not_lt hlen, rfl, henc⟩
    · cases h

end Sys2Proof.Proofs.Codec
end

section
/-! The functions of the model that leave the memories as they are, or whether they are canonical (02 R14, 07 R127): one lemma a function, in
the order of the calls. -/

namespace Sys2Proof.Proofs.Canonical
open Sys2Proof.Machine Sys2Proof.Laws

theorem mems_wf_eq (m : Mems) : m.wf = (Memory.wf m.hbm && Memory.wf m.host && Memory.wf m.store && Memory.wf m.codes) := rfl

@[simp] theorem FireIn_s_mem (self : FireIn) :
    (FireIn.s self).mem = self.s.mem := rfl

@[simp] theorem answerPriv_mem (s : State) (e : ElemRef) (rid : Nat) (st : Nat) :
    (s.answerPriv e rid st).mem = s.mem := rfl

@[simp] theorem noteDone_mem (s : State) (e : ElemRef) :
    (s.noteDone e).mem = s.mem := rfl

@[simp] theorem FireIn_raise_mem (x : FireIn) (f : Flags) (s : State) :
    (FireIn.raise x f s).mem = s.mem := by
  unfold FireIn.raise
  split <;> rfl

@[simp] theorem noteIter_mem (s : State) (x : FireIn) :
    (s.noteIter x).mem = s.mem := by
  unfold State.noteIter
  repeat' split
  all_goals simp

@[simp] theorem openWave_mem (s : State) (b : BlkRef) (k : Nat) (idx : Nat) :
    (s.openWave b k idx).mem = s.mem := by
  unfold State.openWave
  split <;> rfl

@[simp] theorem circuitSend_mem (s : State) (c : Circuit) (w : Option Token) :
    (s.circuitSend c w).mem = s.mem := rfl

@[simp] theorem pushOut_mem (s : State) (run : Nat) (code : Nat) (t : Token) :
    (s.pushOut run code t).mem = s.mem := by
  unfold State.pushOut
  dsimp only
  repeat' split
  all_goals simp

@[simp] theorem FireIn_sendOut_mem (x : FireIn) (code : Nat) (t : Token) (s : State) :
    (FireIn.sendOut x code t s).mem = s.mem := by
  unfold FireIn.sendOut
  split <;> simp

@[simp] theorem addLine_mem (s : State) (b : BlkRef) (k : Nat) (key : Nat) (wr : List (Nat × Byte)) :
    (s.addLine b k key wr).mem = s.mem := rfl

@[simp] theorem addMonitor_mem (s : State) (m : Monitor) :
    (s.addMonitor m).mem = s.mem := rfl

@[simp] theorem weightStore_mem (s : State) (slot : Nat) (va : Nat) (p : Place) (old : Line) (new : Line) (oldPsn : Bool) :
    (s.weightStore slot va p old new oldPsn).mem = s.mem := by
  unfold State.weightStore
  repeat' split
  all_goals simp

@[simp] theorem waitaDone_mem (s : State) (a : Access) (w : W32) (psn : Bool) (st : Nat) :
    (s.waitaDone a w psn st).mem = s.mem := rfl

@[simp] theorem replyFlit_mem (s : State) (type : Byte) (f : Flit) (stat : Nat) (reason : Nat) (len : Nat) (payload : Line) :
    (s.replyFlit type f stat reason len payload).mem = s.mem := rfl

@[simp] theorem waitaReply_mem (s : State) (f : Flit) (w : W32) (psn : Bool) (st : Nat) (epoch : Nat) :
    (s.waitaReply f w psn st epoch).mem = s.mem := rfl

@[simp] theorem monitorDone_mem (s : State) (m : Monitor) (w : W32) (psn : Bool) (st : Nat) :
    (s.monitorDone m w psn st).mem = s.mem := by
  unfold State.monitorDone
  repeat' split
  all_goals simp

@[simp] theorem rereadMonitors_mem (s : State) (phys : Nat) (n : Nat) :
    (s.rereadMonitors phys n).mem = s.mem := by
  refine foldl_keeps (g := State.mem) (fun s x => ?_) _ _
  dsimp only
  repeat' split
  all_goals simp

@[simp] theorem answerReq_mem (s : State) (q : Req) (ess : List (List Emit)) :
    (s.answerReq q ess).mem = s.mem := rfl

@[simp] theorem statusReq_mem (s : State) (q : Req) (st : Nat) :
    (s.statusReq q st).mem = s.mem := rfl

@[simp] theorem answerSender_mem (s : State) (req : Nat) (back : Option Flit) (st : Nat) :
    (s.answerSender req back st).mem = s.mem := by
  unfold State.answerSender
  repeat' split
  all_goals simp

@[simp] theorem complete_mem (s : State) (run : Nat) (cchan : Nat) (t : Token) :
    (s.complete run cchan t).mem = s.mem := rfl

@[simp] theorem landed_mem (s : State) (q : Req) :
    (s.landed q).mem = s.mem := by
  have hfold : (q.held.foldl (fun s t => s.complete q.run q.chan t) (s.dropReq q.id)).mem = s.mem :=
    foldl_keeps (g := State.mem) (fun s x => by simp) _ _
  unfold State.landed
  split <;> simp [hfold]

@[simp] theorem bufWrites_mem (s : State) (q : Req) (slot : Nat) (ws : List (Nat × List Byte × Bool)) :
    (s.bufWrites q slot ws).mem = s.mem := rfl

@[simp] theorem stashTry_mem (s : State) (slot : Nat) (va : Nat) :
    (s.stashTry slot va).mem = s.mem := by
  unfold State.stashTry
  split
  · rfl
  · split
    · rfl
    · simp only [bufWrites_mem, modReq_mem]
      exact foldl_keeps (g := State.mem) (fun s x => by simp) _ _

@[simp] theorem stashEnd_mem (s : State) (q : Req) :
    (s.stashEnd q).mem = s.mem := by
  simp [State.stashEnd]

@[simp] theorem xferEnd_mem (s : State) (q : Req) :
    (s.xferEnd q).mem = s.mem := rfl

@[simp] theorem xferTry_mem (s : State) (id : Nat) :
    (s.xferTry id).mem = s.mem := by
  unfold State.xferTry
  repeat' split
  all_goals simp

@[simp] theorem afterWrites_mem (s : State) (id : Nat) :
    (s.afterWrites id).mem = s.mem := by
  unfold State.afterWrites
  repeat' split
  all_goals simp

@[simp] theorem alarmBoot_mem (s : State) (level : Nat) :
    (s.alarmBoot level).mem = s.mem := by
  unfold State.alarmBoot
  dsimp only
  repeat' split
  all_goals simp

@[simp] theorem lockLinks_mem (s : State) :
    (s.lockLinks).mem = s.mem := rfl

@[simp] theorem eraseGrant_mem (s : State) :
    (s.eraseGrant).mem = s.mem := rfl

@[simp] theorem holdModule_mem (s : State) :
    (s.holdModule).mem = s.mem := by
  refine foldl_keeps (g := State.mem) (fun s r => ?_) _ _
  split <;> simp [freeze_mem]

@[simp] theorem allocate_mem (s : State) (c : Cache) (es : List (Nat × Bool)) :
    (s.allocate c es).mem = s.mem := rfl

@[simp] theorem freeWord_mem (s : State) :
    (s.freeWord).2.mem = s.mem := rfl

@[simp] theorem almclr_mem (s : State) :
    (s.almclr).mem = s.mem := by
  unfold State.almclr State.freeWord
  dsimp only
  repeat' split
  all_goals simp

@[simp] theorem answerGroup_mem (s : State) (k : Nat) (st : Nat) (made : BitVec 20) :
    (s.answerGroup k st made).mem = s.mem := rfl

@[simp] theorem answerWho_mem (s : State) (who : Option (ElemRef × Nat)) (st : Nat) :
    (s.answerWho who st).mem = s.mem := by
  unfold State.answerWho
  split <;> rfl

@[simp] theorem sysWrite_mem (s : State) (r : Run) (n : Nat) (v : W64) :
    (s.sysWrite r n v).mem = s.mem := by
  unfold State.sysWrite
  repeat' split
  all_goals simp

@[simp] theorem applyWrite_mem (s : State) (w : RegWrite) :
    (s.applyWrite w).mem = s.mem := by
  unfold State.applyWrite
  split <;> simp

@[simp] theorem applyWrites_mem (s : State) :
    (s.applyWrites).mem = s.mem := by
  unfold State.applyWrites
  exact foldl_keeps (g := State.mem) (fun s x => by simp) _ _

@[simp] theorem bindRegion_mem (s : State) (r : Run) (p : Nat) :
    (s.bindRegion r p).mem = s.mem := rfl

@[simp] theorem placeInactive_mem (s : State) (r : Run) (p : Nat) :
    (s.placeInactive r p).mem = s.mem := rfl

@[simp] theorem newGroup_mem (s : State) (run : Nat) (k : Nat) :
    (s.newGroup run k).2.mem = s.mem := rfl

@[simp] theorem makeSelfs_mem (s : State) (run : Nat) :
    (s.makeSelfs run).mem = s.mem := by
  unfold State.makeSelfs
  split
  · rfl
  · refine foldl_keeps (g := State.mem) (fun s x => ?_) _ _
    split <;> simp

@[simp] theorem firstResident_mem (s : State) (run : Nat) :
    (s.firstResident run).mem = s.mem := by
  unfold State.firstResident
  repeat' split
  all_goals simp

@[simp] theorem place_mem (s : State) (r : Run) (p : Nat) :
    (s.place r p).mem = s.mem := by
  unfold State.place
  split <;> simp

@[simp] theorem placeSome_mem (mark : Option Nat) (s : State) (r : Run) :
    (State.placeSome mark s r).mem = s.mem := by
  unfold State.placeSome
  split <;> simp

@[simp] theorem sendAway_mem (s : State) (moved : Bool) (r : Run) :
    (s.sendAway moved r).mem = s.mem := by
  unfold State.sendAway State.freeWord
  dsimp only
  simp

@[simp] theorem makeRoom_mem (s : State) (head : Run) (later : List Run) :
    (s.makeRoom head later).mem = s.mem := by
  unfold State.makeRoom
  split
  · exact foldl_keeps (g := State.mem) (fun s x => by simp) _ _
  · split
    · exact foldl_keeps (g := State.mem) (fun s x => by simp) _ _
    · simp only [State.freeWord]
      split
      · simp
      · exact foldl_keeps (g := State.mem) (fun s x => by simp) _ _

@[simp] theorem arbor_mem (s : State) (die : Nat) :
    (s.arbor die).mem = s.mem := by
  have hplaces (mark : Option Nat) (l : List Run) (s : State) : (l.foldl (State.placeSome mark) s).mem = s.mem :=
    foldl_keeps (g := State.mem) (fun s x => by simp) _ _
  unfold State.arbor
  split
  · rfl
  · dsimp only
    split
    · rw [hplaces]
    · split
      · rw [hplaces, place_mem]
      · split
        · rw [makeRoom_mem]
        · rw [hplaces]

@[simp] theorem undoPlaces_mem (s : State) (run : Nat) (places : List (ElemRef × Nat)) :
    (s.undoPlaces run places).mem = s.mem := by
  unfold State.undoPlaces
  exact foldl_keeps (g := State.mem) (fun s x => by (repeat' split) <;> simp) _ _

@[simp] theorem arriveAt_mem (s : State) (name : BitVec 20) (identity : Nat) (who : Requester) :
    (s.arriveAt name identity who).mem = s.mem := by
  simp [State.arriveAt]

theorem request_mem {s : State} {type : Byte} {modn : Nat} {grant : W64} {addr : Nat} {aop : Nat} {nreq : Nat} {len : Nat} {payload : Line}
    {what : Requester} {g : Option (ElemRef × Nat × Nat)} {t : State}
    (h : (s.request type modn grant addr aop nreq len payload what g) = some t) : t.mem = s.mem := by
  obtain ⟨k, -, rfl⟩ := Option.map_eq_some_iff.mp h
  rfl

theorem askGroup_mem {s : State} {op : GroupOp} {name : BitVec 20} {p : Line} {what : Requester} {t : State}
    (h : (s.askGroup op name p what) = some t) : t.mem = s.mem := request_mem h

@[simp] theorem fresh_mem (s : State) :
    (s.fresh).2.mem = s.mem := rfl

@[simp] theorem sendReq_mem (s : State) (run : Nat) (id : Nat) :
    (s.sendReq run id).mem = s.mem := rfl

@[simp] theorem askLaunch_mem (s : State) (r : Run) (image : Nat) (args : List W64) :
    (s.askLaunch r image args).mem = s.mem := by
  unfold State.askLaunch State.fresh
  dsimp only
  split <;> simp only [sendReq_mem]

@[simp] theorem atomDone_mem (s : State) (a : Access) (old : W64) (lost : Bool) (psn : Bool) :
    (s.atomDone a old lost psn).mem = s.mem := by
  unfold State.atomDone
  dsimp only
  repeat' split
  all_goals simp

theorem meet_mem {s : State} {point : Nat} {slot : Nat} {va : Nat} {op : Nat} {n : Nat} {p : Place} {who : Requester} {inc : W64} {input : Nat}
    {t : State}
    (h : (s.meet point slot va op n p who inc input) = some t) : t.mem = s.mem := by
  unfold State.meet State.fresh at h
  dsimp only at h
  repeat' split at h
  all_goals cases h <;> simp

@[simp] theorem wake_mem (s : State) (phys : Nat) (va : Nat) :
    (s.wake phys va).2.mem = s.mem := by
  simp only [State.wake, modDie_mem]
  exact foldl_keeps (g := State.mem) (fun s x => by simp) _ _

@[simp] theorem undo_mem (s : State) (as : List Access) :
    (s.undo as).mem = s.mem := by
  unfold State.undo
  split <;> simp

theorem reply_mem (s : State) (k : Nat) (f : Flit) (go : Tag → State → State)
    (hgo : ∀ t u, u.mem = s.mem → (go t u).mem = s.mem) : (s.reply k f go).mem = s.mem := by
  unfold State.reply
  split
  · rfl
  · split
    · rfl
    · exact hgo _ _ rfl

@[simp] theorem wakeaDone_mem (s : State) (a : Access) (n : Nat) :
    (s.wakeaDone a n).mem = s.mem := rfl

@[simp] theorem atsComplete_mem (s : State) (pasid : Nat) :
    (s.atsComplete pasid).mem = s.mem := rfl

@[simp] theorem dropTlb_mem (s : State) (names : TlbEntry → Bool) :
    (s.dropTlb names).1.mem = s.mem := rfl

@[simp] theorem settleAts_mem (s : State) :
    (s.settleAts).mem = s.mem := by
  unfold State.settleAts
  exact foldl_keeps (g := State.mem) (fun s x => by simp) _ _

@[simp] theorem atsInvalidate_mem (s : State) (pasid : Nat) (addr : Nat) (len : Nat) :
    (s.atsInvalidate pasid addr len).mem = s.mem := by
  unfold State.atsInvalidate
  exact foldl_keeps (g := State.mem) (fun s x => by simp) _ _

@[simp] theorem tlbFill_mem (s : State) (die : Nat) (port : Option Nat) (slot : Nat) (va : Nat) (l : Leaf) :
    (s.tlbFill die port slot va l).mem = s.mem := rfl

@[simp] theorem atsResponse_mem (s : State) (id : Nat) (present : Bool) (frame : BitVec 52) :
    (s.atsResponse id present frame).mem = s.mem := by
  unfold State.atsResponse
  repeat' split
  all_goals simp

@[simp] theorem backCredit_mem (s : State) (p : Option (Nat × Nat)) :
    (s.backCredit p).mem = s.mem := rfl

@[simp] theorem bar4Write_mem (s : State) (slot : Nat) (addr : Nat) (bs : List Byte) :
    (s.bar4Write slot addr bs).mem = s.mem := rfl

@[simp] theorem releasePlace_mem (s : State) (e : ElemRef) (rid : Nat) (phase : Nat) :
    (s.releasePlace e rid phase).mem = s.mem := rfl

@[simp] theorem barrierFires_mem (s : State) (name : BitVec 20) :
    (s.barrierFires name).mem = s.mem := by
  unfold State.barrierFires
  split
  · rfl
  · split
    · rfl
    · refine (foldl_keeps (g := State.mem) (fun s x => ?_) _ _).trans ?_
      · split <;> simp
      · simp

@[simp] theorem barrierRelease_mem (s : State) (name : BitVec 20) :
    (s.barrierRelease name).mem = s.mem := by
  unfold State.barrierRelease
  repeat' split
  all_goals simp

@[simp] theorem checkBlock_mem (s : State) (q : Req) (slot : Nat) (k : Nat) (bs : List Byte) (bad : List Nat) (old : List Byte) :
    (s.checkBlock q slot k bs bad old).mem = s.mem := rfl

@[simp] theorem resume_mem (s : State) (run : Nat) :
    (s.resume run).mem = s.mem := by
  simp [State.resume]

@[simp] theorem setFull_wf (s : State) (phys : Nat) :
    (s.setFull phys).mem.wf = s.mem.wf := rfl

@[simp] theorem closeLines_wf (s : State) (id : Nat) :
    (s.closeLines id).mem.wf = s.mem.wf := by
  unfold State.closeLines
  split
  · rfl
  · refine foldl_keeps (g := fun s => s.mem.wf) (fun s x => ?_) _ _
    split <;> simp

@[simp] theorem emitAt_mem (s : State) (e : ElemRef) (ts : List Token) :
    (s.emitAt e ts).mem = s.mem := by
  unfold State.emitAt
  repeat' split
  all_goals simp

@[simp] theorem closeSector_wf (s : State) (id : Nat) (k : Nat) (live : Bool) (short : Bool) (toStream : Option ElemRef) :
    (s.closeSector id k live short toStream).mem.wf = s.mem.wf := by
  unfold State.closeSector
  dsimp only
  repeat' split
  all_goals simp

@[simp] theorem undoReq_mem (s : State) (q : Req) :
    (s.undoReq q).mem = s.mem := by
  simp [State.undoReq]

@[simp] theorem notePoison_mem (s : State) (id : Nat) (bad : List Nat) :
    (s.notePoison id bad).mem = s.mem := by
  unfold State.notePoison
  split <;> rfl

@[simp] theorem fetch_mem (s : State) (req : Nat) (ls : List (Nat × Place)) :
    (s.fetch req ls).mem = s.mem := by
  refine foldl_keeps (g := State.mem) (fun s x => ?_) _ _
  dsimp only
  split
  · split
    · rfl
    · split
      · rfl
      · rename_i ht
        have := request_mem ht
        exact this
  · rfl

@[simp] theorem circuitWord_mem (s : State) (k : Nat) (g : Nat) (w : Option Token) :
    (s.circuitWord k g w).mem = s.mem := by
  unfold State.circuitWord
  repeat' split
  all_goals simp

@[simp] theorem tellTotals_mem (s : State) (f : Flit) (pass : Nat) (t : Nat × Int × Bool) :
    (s.tellTotals f pass t).mem = s.mem := rfl

@[simp] theorem fly_mem (s : State) (a : Access) (modn : Nat) (phys : Nat) (grant : W64) (type : Byte) (aop : Nat) (len : Nat) (payload : Line) :
    (s.fly a modn phys grant type aop len payload).mem = s.mem := by
  unfold State.fly
  split
  · rename_i ht
    rw [modAcc_mem, request_mem ht]
  · rfl

@[simp] theorem sendRemote_mem (s : State) (a : Access) (modn : Nat) (phys : Nat) (grant : W64) :
    (s.sendRemote a modn phys grant).mem = s.mem := by
  unfold State.sendRemote
  repeat' split
  all_goals simp

@[simp] theorem startLoad_mem (s : State) (r : Run) (i : Nat) (rule : Nat) (full : Bool) :
    (s.startLoad r i rule full).mem = s.mem := by
  unfold State.startLoad
  dsimp only
  repeat' split
  all_goals simp

@[simp] theorem contributeHere_mem (s : State) (g : BitVec 20) (c : Contrib) (pass : Nat) :
    (s.contributeHere g c pass).mem = s.mem := by
  unfold State.contributeHere
  repeat' split
  all_goals simp

theorem contribute_mem {s : State} {r : Run} {g : BitVec 20} {atEnd : Bool} {n : Nat} {bal : Int} {t : State}
    (h : (s.contribute r g atEnd n bal) = some t) : t.mem = s.mem := by
  unfold State.contribute at h
  split at h
  · exact askGroup_mem h
  · cases h; simp

@[simp] theorem setKids_mem (s : State) (run : Nat) (id : Nat) (n : Nat) (kids : List Kid) :
    (s.setKids run id n kids).mem = s.mem := rfl

@[simp] theorem creditBack_mem (s : State) (run : Nat) (port : Nat) :
    (s.creditBack run port).mem = s.mem := by
  unfold State.creditBack
  split <;> rfl

@[simp] theorem creditFlit_mem (s : State) (k : Nat) (f : Flit) :
    (s.creditFlit k f).mem = s.mem := by
  unfold State.creditFlit
  split <;> rfl

@[simp] theorem ctxreg_mem (s : State) (slot : Nat) (w : W64) :
    (s.ctxreg slot w).mem = s.mem := by
  unfold State.ctxreg
  dsimp only
  repeat' split
  all_goals simp

@[simp] theorem freePort_mem (s : State) (p : Nat × Nat) (lstat : Nat) :
    (s.freePort p lstat).mem = s.mem := rfl

@[simp] theorem discardLaunches_mem (s : State) (slot : Nat) :
    (s.discardLaunches slot).mem = s.mem := by
  unfold State.discardLaunches
  exact foldl_keeps (g := State.mem) (fun s x => by (repeat' split) <;> simp) _ _

@[simp] theorem freeTenant_mem (s : State) (t : Nat) :
    (s.freeTenant t).mem = s.mem := by
  unfold State.freeTenant
  split <;> rfl

@[simp] theorem forgetGroup_mem (s : State) (run : Nat) (name : BitVec 20) :
    (s.forgetGroup run name).mem = s.mem := rfl

@[simp] theorem dissolve_mem (s : State) :
    (s.dissolve).mem = s.mem := rfl

@[simp] theorem leaveHere_mem (s : State) (identity : Nat) (name : BitVec 20) :
    (s.leaveHere identity name).mem = s.mem := by
  simp [State.leaveHere]

@[simp] theorem tellGroup_mem (s : State) (op : GroupOp) (name : BitVec 20) (run : Nat) :
    (s.tellGroup op name run).mem = s.mem := rfl

@[simp] theorem leaveGroup_mem (s : State) (run : Nat) (name : BitVec 20) :
    (s.leaveGroup run name).mem = s.mem := by
  unfold State.leaveGroup
  split <;> simp

@[simp] theorem sendStatus_mem (s : State) (m : Msg) (st : Nat) :
    (s.sendStatus m st).mem = s.mem := by
  simp [State.sendStatus]

@[simp] theorem setDslot_mem (s : State) (die : Nat) (n : Nat) (v : Line) :
    (s.setDslot die n v).mem = s.mem := rfl

@[simp] theorem dequeueCancel_mem (s : State) (q : Req) :
    (s.dequeueCancel q).mem = s.mem := by
  unfold State.dequeueCancel
  dsimp only
  repeat' split
  all_goals simp

@[simp] theorem dropMsg_mem (s : State) (m : Msg) :
    (s.dropMsg m).mem = s.mem := rfl

@[simp] theorem land_mem (s : State) (r : Run) (p : Post) (m : Msg) (bs : List Byte) (bad : List Nat) :
    (s.land r p m bs bad).mem = s.mem := by
  unfold State.land State.fresh
  dsimp only
  repeat' split
  all_goals simp

@[simp] theorem postRecv_mem (s : State) (q : Req) (slot : Nat) (d : Line) :
    (s.postRecv q slot d).mem = s.mem := by
  unfold State.postRecv
  repeat' split
  all_goals simp

@[simp] theorem takeReq_mem (s : State) (q : Req) :
    (s.takeReq q).mem = s.mem := rfl

@[simp] theorem sendFar_mem (s : State) (q : Req) (dst : Nat) (tag : W32) (len : Nat) (bs : List Byte) (bad : List Nat) :
    (s.sendFar q dst tag len bs bad).mem = s.mem := by
  unfold State.sendFar
  dsimp only
  split
  · rfl
  · rename_i t ht
    split
    · rfl
    · rw [takeReq_mem]
      exact (foldl_keeps (g := State.mem) (fun s x => sendFlit_mem _ _ _) _ _).trans (request_mem ht)

@[simp] theorem finishEach_mem (s : State) (a : Access) (f : Nat → Mark → OutItem → List OutItem) :
    (s.finishEach a f).mem = s.mem := by
  unfold State.finishEach
  exact foldl_keeps (g := State.mem) (fun s x => by simp) _ _

@[simp] theorem doneToken_mem (s : State) (a : Access) :
    (s.doneToken a).mem = s.mem := by
  simp [State.doneToken]

@[simp] theorem dropAt_mem (s : State) (name : BitVec 20) (identity : Nat) :
    (s.dropAt name identity).mem = s.mem := by
  simp [State.dropAt]

@[simp] theorem egressAt_mem (s : State) (a : Access) (r : Run) :
    (s.egressAt a r).mem = s.mem := rfl

@[simp] theorem enrol_mem (s : State) (run : Nat) (name : BitVec 20) (pass : Nat) :
    (s.enrol run name pass).mem = s.mem := rfl

@[simp] theorem markPoison_wf (s : State) (phys : Nat) :
    (s.markPoison phys).mem.wf = s.mem.wf := rfl

@[simp] theorem noteOpen_mem (s : State) (w : EWrite) :
    (s.noteOpen w).mem = s.mem := by
  unfold State.noteOpen
  split <;> rfl

@[simp] theorem wroteOne_mem (s : State) (id : Nat) :
    (s.wroteOne id).mem = s.mem := by
  unfold State.wroteOne
  split <;> simp

@[simp] theorem faddArrival_mem (s : State) (id : Nat) :
    (s.faddArrival id).mem = s.mem := by
  unfold State.faddArrival
  repeat' split
  all_goals simp
  · exact meet_mem ‹_›
  · exact meet_mem ‹_›

theorem openRel_mem {s : State} {slot : Nat} {va : Nat} {stratum : Nat} {g : BitVec 20} {t : State}
    (h : (s.openRel slot va stratum g) = .ok t) : t.mem = s.mem := by
  unfold State.openRel at h
  dsimp only at h
  repeat' split at h
  all_goals cases h <;> simp

@[simp] theorem sendWait_mem (s : State) (run : Nat) (w : Wait) :
    (s.sendWait run w).mem = s.mem := rfl

@[simp] theorem fixbSum_mem (s : State) (r : Run) (g : BitVec 20) :
    (s.fixbSum r g).mem = s.mem := by
  unfold State.fixbSum
  split
  · rfl
  · rename_i t ht
    simpa using contribute_mem ht

@[simp] theorem fixbRetry_mem (s : State) (run : Nat) :
    (s.fixbRetry run).mem = s.mem := by
  unfold State.fixbRetry
  repeat' split
  all_goals simp

@[simp] theorem forget_wf (s : State) :
    (s.forget).mem.wf = s.mem.wf := rfl

@[simp] theorem grnreq_mem (s : State) (k : Nat) (f : Flit) :
    (s.grnreq k f).mem = s.mem := by
  unfold State.grnreq
  repeat' split
  all_goals simp

@[simp] theorem grnrsp_mem (s : State) (k : Nat) (f : Flit) :
    (s.grnrsp k f).mem = s.mem := by
  refine reply_mem _ _ _ _ fun t u hu => ?_
  dsimp only
  split <;> simp [hu]

@[simp] theorem groupAnswer_mem (s : State) (req : Nat) (f : Flit) :
    (s.groupAnswer req f).mem = s.mem := by
  unfold State.groupAnswer
  dsimp only
  repeat' split
  all_goals simp

@[simp] theorem joinHere_mem (s : State) (identity : Nat) (full : Bool) (name : BitVec 20) :
    (s.joinHere identity full name).2.mem = s.mem := by
  unfold State.joinHere
  dsimp only
  repeat' split
  all_goals simp

@[simp] theorem joinAt_mem (s : State) (run : Nat) (v : W64) :
    (s.joinAt run v).2.2.mem = s.mem := by
  unfold State.joinAt State.newGroup
  dsimp only
  repeat' split
  all_goals simp

@[simp] theorem partHere_mem (s : State) (identity : Nat) (name : BitVec 20) :
    (s.partHere identity name).2.mem = s.mem := by
  unfold State.partHere
  repeat' split
  all_goals simp

@[simp] theorem leaveAt_mem (s : State) (run : Nat) (v : W64) :
    (s.leaveAt run v).2.2.mem = s.mem := by
  unfold State.leaveAt
  dsimp only
  split <;> simp

@[simp] theorem groupArrival_mem (s : State) (k : Nat) :
    (s.groupArrival k).mem = s.mem := by
  unfold State.groupArrival
  split
  · rfl
  · split
    · rfl
    · dsimp only
      split <;> simp

@[simp] theorem groupFlit_mem (s : State) (k : Nat) (f : Flit) :
    (s.groupFlit k f).mem = s.mem := by
  unfold State.groupFlit
  dsimp only
  repeat' split
  all_goals simp

@[simp] theorem groupWord_mem (s : State) (r : Run) (join : Bool) (v : W64) :
    (s.groupWord r join v).mem = s.mem := by
  unfold State.groupWord State.fresh
  split
  · rfl
  · dsimp only
    split
    · split
      · rename_i t ht
        simpa using askGroup_mem ht
      · rfl
    · simp

@[simp] theorem hdeliver_mem (s : State) (die : Nat) (port : Nat) :
    (s.hdeliver die port).mem = s.mem := by
  unfold State.hdeliver
  dsimp only
  repeat' split
  all_goals simp

@[simp] theorem hostAdvance_mem (s : State) (id : Nat) :
    (s.hostAdvance id).mem = s.mem := rfl

@[simp] theorem imageRoom_mem (s : State) :
    (s.imageRoom).mem = s.mem := by
  unfold State.imageRoom
  dsimp only
  repeat' split
  all_goals simp

@[simp] theorem invalidate_mem (s : State) (die : Nat) (k : Nat) :
    (s.invalidate die k).mem = s.mem := by
  unfold State.invalidate
  split <;> rfl

@[simp] theorem issue_mem (s : State) (id : Nat) :
    (s.issue id).mem = s.mem := by
  unfold State.issue
  dsimp only
  have hahead (l : List Access) (s : State) (f : State → Access → Access → Access) :
      (l.foldl (fun s a => s.modAcc a.id (f s a)) s).mem = s.mem := foldl_keeps (g := State.mem) (fun s x => by simp) _ _
  repeat' split
  all_goals simp [hahead]

@[simp] theorem portFree_mem (s : State) (p : HPort) (lstat : Nat) :
    (s.portFree p lstat).mem = s.mem := rfl

@[simp] theorem launchWord_mem (s : State) (r : Run) (gb : BitVec 6) (gc : BitVec 6) :
    (s.launchWord r gb gc).mem = s.mem := by
  unfold State.launchWord
  split <;> simp

@[simp] theorem launched_mem (s : State) (l : Launch) :
    (s.launched l).mem = s.mem := rfl

@[simp] theorem linkTrain_mem (s : State) (k : Nat) (p : LinkPeer) :
    (s.linkTrain k p).mem = s.mem := by
  unfold State.linkTrain
  dsimp only
  repeat' split
  all_goals simp

@[simp] theorem lnkqclr_mem (s : State) (w : W64) :
    (s.lnkqclr w).mem = s.mem := by
  unfold State.lnkqclr
  split <;> rfl

@[simp] theorem loadDone_mem (s : State) (a : Access) (bs : List Byte) (psn : Bool) :
    (s.loadDone a bs psn).mem = s.mem := by
  unfold State.loadDone
  split <;> simp

@[simp] theorem refuse_mem (s : State) (m : Msg) :
    (s.refuse m).mem = s.mem := rfl

@[simp] theorem msgFlit_mem (s : State) (k : Nat) (f : Flit) :
    (s.msgFlit k f).mem = s.mem := by
  unfold State.msgFlit
  repeat' split
  all_goals simp

@[simp] theorem ownerArrive_mem (s : State) (die : Nat) (input : Nat) :
    (s.ownerArrive die input).mem = s.mem := by
  unfold State.ownerArrive
  dsimp only
  repeat' split
  all_goals simp

@[simp] theorem ownerTook_mem (s : State) (m : OwnMsg) :
    (s.ownerTook m).mem = s.mem := rfl

@[simp] theorem setEmpty_wf (s : State) (phys : Nat) :
    (s.setEmpty phys).mem.wf = s.mem.wf := by
  unfold State.setEmpty
  split <;> rfl

@[simp] theorem waitaFull_mem (s : State) (a : Access) (first : Bool) :
    (s.waitaFull a first).mem = s.mem := by
  unfold State.waitaFull
  split <;> rfl

@[simp] theorem waitaAt_mem (s : State) (a : Access) (p : Place) (w : W32) (psn : Bool) (first : Bool) :
    (s.waitaAt a p w psn first).mem = s.mem := by
  unfold State.waitaAt
  dsimp only
  repeat' split
  all_goals simp

@[simp] theorem wakeaAt_mem (s : State) (a : Access) (phys : Nat) :
    (s.wakeaAt a phys).mem = s.mem := by
  unfold State.wakeaAt
  exact foldl_keeps (g := State.mem) (fun s x => by simp) _ _

@[simp] theorem requestAt_mem (s : State) (a : Access) (r : Run) :
    (s.requestAt a r).mem = s.mem := rfl

@[simp] theorem readRemote_mem (s : State) (a : Access) (modn : Nat) (phys : Nat) (grant : W64) :
    (s.readRemote a modn phys grant).mem = s.mem := by
  simp [State.readRemote]

@[simp] theorem waveAtomic_mem (s : State) (a : Access) (k : Nat) (key : Nat) (off : Nat) (bs : List Byte) (psn : Bool) :
    (s.waveAtomic a k key off bs psn).mem = s.mem := by
  unfold State.waveAtomic
  split <;> simp

@[simp] theorem poisonLine_wf (s : State) (line : Nat) :
    (s.poisonLine line).mem.wf = s.mem.wf := rfl

@[simp] theorem unpark_mem (s : State) (id : Nat) :
    (s.unpark id).mem = s.mem := by
  unfold State.unpark
  repeat' split
  all_goals simp

@[simp] theorem setGen_mem (s : State) (run : Nat) (port : Nat) (ag : Nat) (g : Gen) :
    (s.setGen run port ag g).mem = s.mem := rfl

@[simp] theorem sendInsert_mem (x : FireIn) (ins : Bool) (va : Nat) (o : Owner) (key : List Nat) (w : W32) (src : W32) (s : State) :
    (sendInsert x ins va o key w src s).mem = s.mem := rfl

@[simp] theorem setCache_mem (s : State) (l : List CacheEntry) :
    (s.setCache l).mem = s.mem := rfl

@[simp] theorem putAccs_mem (s : State) (ref : ElemRef) (l : List AccTile) :
    (s.putAccs ref l).mem = s.mem := rfl

@[simp] theorem putBytes_mem (s : State) (q : Req) (slot : Nat) (at_ : Nat) (src : Nat) (bs : List Byte) (bad : List Nat)
    (toStream : Option ElemRef) :
    (s.putBytes q slot at_ src bs bad toStream).mem = s.mem := by
  unfold State.putBytes
  repeat' split
  all_goals simp

@[simp] theorem waitaHome_mem (s : State) (k : Nat) (f : Flit) :
    (s.waitaHome k f).mem = s.mem := by
  unfold State.waitaHome
  dsimp only
  repeat' split
  all_goals simp

@[simp] theorem registerWrite_mem (s : State) (r : HostReg) (w : BitVec 128) :
    (s.registerWrite r w).mem = s.mem := by
  unfold State.registerWrite
  repeat' split
  all_goals simp

@[simp] theorem relFlit_mem (s : State) (k : Nat) (f : Flit) :
    (s.relFlit k f).mem = s.mem := by
  refine reply_mem _ _ _ _ fun t u hu => ?_
  split <;> simp [hu]

@[simp] theorem streamSector_wf (s : State) (q : Req) (r : Run) (k : Nat) (n : Nat) (toStream : Option ElemRef) :
    (s.streamSector q r k n toStream).mem.wf = s.mem.wf := by
  unfold State.streamSector
  dsimp only
  repeat' split
  all_goals simp

@[simp] theorem sendRetry_mem (s : State) (id : Nat) :
    (s.sendRetry id).mem = s.mem := by
  unfold State.sendRetry
  repeat' split
  all_goals simp

@[simp] theorem WoHere_feed_mem (b : WoRef) (h : WoHere) (t : Token) (s : State) :
    (WoHere.feed b h t s).mem = s.mem := rfl

@[simp] theorem woRead_mem (s : State) (b : WoRef) :
    (s.woRead b).mem = s.mem := by
  unfold State.woRead
  dsimp only
  repeat' split
  all_goals simp

@[simp] theorem woTake_mem (s : State) (b : WoRef) (w : WoBuf) :
    (s.woTake b w).mem = s.mem := rfl

@[simp] theorem spdmError_mem (s : State) :
    (s.spdmError).mem = s.mem := rfl

@[simp] theorem spdmAt_mem (s : State) (conn : Nat) (go : State → State) (hgo : (go s).mem = s.mem) :
    (s.spdmAt conn go).mem = s.mem := by
  unfold State.spdmAt
  split
  · simp
  · exact hgo

@[simp] theorem spdmReply_mem (s : State) (code : Byte) (body : List Byte) :
    (s.spdmReply code body).mem = s.mem := rfl

@[simp] theorem spdmEnd_mem (s : State) :
    (s.spdmEnd).mem = s.mem := by
  unfold State.spdmEnd
  split <;> rfl

@[simp] theorem spdmFinish_mem (s : State) :
    (s.spdmFinish).mem = s.mem := by
  unfold State.spdmFinish
  split <;> rfl

theorem spdmSigned_mem (s : State) (code : Byte) (body : State → List Byte) (then_ : State → State) (hthen : (then_ s).mem = s.mem) :
    (s.spdmSigned code body then_).mem = s.mem := by
  refine spdmAt_mem _ _ _ ?_
  split <;> simp [hthen]

@[simp] theorem split_mem (s : State) (point : Nat) (id : Nat) :
    (s.split point id).mem = s.mem := by
  have hfold (l : List (Requester × W64 × Nat × Nat)) (f : State × W64 → Requester × W64 × Nat × Nat → State × W64)
      (hf : ∀ a m, (f a m).1.mem = a.1.mem) (a : State × W64) : (l.foldl f a).1.mem = a.1.mem := by
    induction l generalizing a with
    | nil => rfl
    | cons m l ih => exact (ih (f a m)).trans (hf a m)
  unfold State.split
  split
  · rfl
  split
  · rfl
  split
  · rfl
  refine (hfold _ _ (fun a m => ?_) _).trans rfl
  dsimp only
  split
  · split <;> simp
  · simp
  · simp
  · rfl

@[simp] theorem startTlb_mem (s : State) :
    (s.startTlb).mem = s.mem := by
  unfold State.startTlb
  split
  · rfl
  · split
    · rfl
    · simp [State.dropTlb]

@[simp] theorem tenantWrite_mem (s : State) (t : Nat) (w : BitVec 128) :
    (s.tenantWrite t w).mem = s.mem := by
  unfold State.tenantWrite
  split <;> rfl

@[simp] theorem thawArrival_mem (s : State) (run : Nat) :
    (s.thawArrival run).mem = s.mem := by
  have hunit (l : List (BitVec 20)) (s : State) : (l.foldl (fun s g => s.modGroup g fun g => { g with unit := false }) s).mem = s.mem :=
    foldl_keeps (g := State.mem) (fun s x => by simp) _ _
  have hothers (l : List Run) (s : State) : (l.foldl (fun s x => s.modRun x.id fun y => { y with hold := .inactive }) s).mem = s.mem :=
    foldl_keeps (g := State.mem) (fun s x => by simp) _ _
  unfold State.thawArrival
  dsimp only
  repeat' split
  all_goals simp [hunit, hothers]

@[simp] theorem tlbinvDone_mem (s : State) :
    (s.tlbinvDone).mem = s.mem := by
  unfold State.tlbinvDone
  repeat' split
  all_goals simp

@[simp] theorem tlbinvWrite_mem (s : State) (lo : W64) (hi : W64) :
    (s.tlbinvWrite lo hi).mem = s.mem := by
  unfold State.tlbinvWrite
  split <;> simp

@[simp] theorem tokenIn_mem (s : State) (die : Nat) (port : Nat) (w : W64) :
    (s.tokenIn die port w).mem = s.mem := by
  unfold State.tokenIn State.fresh
  dsimp only
  split <;> simp

@[simp] theorem trainTimeout_mem (s : State) (k : Nat) (g : Nat) :
    (s.trainTimeout k g).mem = s.mem := rfl

@[simp] theorem waitaPoll_mem (s : State) (id : Nat) :
    (s.waitaPoll id).mem = s.mem := by
  unfold State.waitaPoll
  dsimp only
  repeat' split
  all_goals simp

@[simp] theorem walkNext_mem (s : State) (id : Nat) :
    (s.walkNext id).mem = s.mem := by
  unfold State.walkNext
  repeat' split
  all_goals simp

@[simp] theorem watchdog_mem (s : State) (run : Nat) :
    (s.watchdog run).mem = s.mem := by
  unfold State.watchdog
  repeat' split
  all_goals simp

@[simp] theorem windowClose_mem (s : State) (point : Nat) (id : Nat) :
    (s.windowClose point id).mem = s.mem := by
  unfold State.windowClose
  repeat' split
  all_goals simp

@[simp] theorem placeFab_mem (s : State) (w : W64) :
    (placeFab s w).mem = s.mem := rfl

@[simp] theorem placeSeq_mem (s : State) (w : W64) :
    (placeSeq s w).mem = s.mem := rfl

@[simp] theorem placeWord_mem (s : State) (nbits : Nat) (w : Nat) :
    (placeWord s nbits w).mem = s.mem := by
  unfold placeWord
  dsimp only
  repeat' split
  all_goals simp

@[simp] theorem withFetchWord_mem (s : State) (nbits : Nat) (w : Nat) :
    (s.withFetchWord nbits w).mem = s.mem := by
  simp [State.withFetchWord]

end Sys2Proof.Proofs.Canonical
end

section
/-! The functions of the model that write memory keep it canonical (07 R127 to R130): one lemma a function, each from the lemmas of what it
calls. A function that takes a continuation keeps memory canonical where the continuation does; `EffSafe` says that of the effect of a body. -/

namespace Sys2Proof.Proofs.Canonical
open Sys2Proof.Machine Sys2Proof.Laws

theorem foldl_wf {α : Type} {f : State → α → State} (hf : ∀ (s : State) x, s.mem.wf = true → (f s x).mem.wf = true) (l : List α) {s : State}
    (h : s.mem.wf = true) : (l.foldl f s).mem.wf = true := foldl_safe hf l h

/-- The effect of what a body decides leaves canonical memory canonical. -/
def EffSafe : Fire → Prop
  | .act a => ∀ u : State, u.mem.wf = true → (a.eff u).mem.wf = true
  | _ => True

@[simp] theorem effSafe_wait : EffSafe .wait := trivial

@[simp] theorem effSafe_trap (t : Trap) (g : FaultInfo → FaultInfo) : EffSafe (.trap t g) := trivial

@[simp] theorem effSafe_fault (g : FaultInfo → FaultInfo) : EffSafe (.fault g) := trivial

theorem effSafe_act {a : Act} : EffSafe (.act a) ↔ ∀ u : State, u.mem.wf = true → (a.eff u).mem.wf = true := Iff.rfl

@[simp] theorem take_eff (x : FireIn) (ks : List Nat) (ps : List Pos) : (x.take ks ps).eff = id := rfl


theorem effSafe_id {a : Act} (h : a.eff = id) : EffSafe (.act a) := fun u hu => by rw [h]; exact hu

theorem effSafe_ite {c : Prop} [Decidable c] {a b : Fire} (ha : c → EffSafe a) (hb : ¬c → EffSafe b) : EffSafe (if c then a else b) := by
  split
  · exact ha ‹_›
  · exact hb ‹_›

theorem withOrd_mem (s : State) (o : Order) : ({ s with ord := o } : State).mem = s.mem := rfl

@[simp] theorem FireIn_driveAct_wf {s' : State} {x : FireIn} {i : Instr} {a : Act} (hwf : x.s.mem.wf = true)
    (heff : ∀ u : State, u.mem.wf = true → (a.eff u).mem.wf = true)
    (ht : (FireIn.driveAct x i a) = some s') : s'.mem.wf = true := by
  obtain ⟨b, -, rfl⟩ := Option.map_eq_some_iff.mp ht
  exact heff _ (by simpa using hwf)

@[simp] theorem FireIn_settle_wf (x : FireIn) (a : Act) (b : Blk × List Turn) (hwf : x.s.mem.wf = true) (heff : ∀ u : State, u.mem.wf = true →
    (a.eff u).mem.wf = true) :
    (FireIn.settle x a b).mem.wf = true := by
  unfold FireIn.settle
  dsimp only
  refine heff _ ?_
  rw [noteIter_mem, noteDone_mem, FireIn_raise_mem, modRun_mem]
  repeat' split
  all_goals simpa using hwf

@[simp] theorem FireIn_fireAct_wf {s' : State} {x : FireIn} {i : Instr} {a : Act} (hwf : x.s.mem.wf = true)
    (heff : ∀ u : State, u.mem.wf = true → (a.eff u).mem.wf = true)
    (ht : (FireIn.fireAct x i a) = some s') : s'.mem.wf = true := by
  obtain ⟨b, -, rfl⟩ := Option.map_eq_some_iff.mp ht
  exact FireIn_settle_wf x a b hwf heff

@[simp] theorem hbmWrite_wf (s : State) (phys : Nat) (bs : List Byte) (hwf : s.mem.wf = true) :
    (s.hbmWrite phys bs).1.mem.wf = true := hbmWrite_safe _ _ hwf

@[simp] theorem logEvent_wf (s : State) (d : Nat) (code : Nat) (dom : Option Nat) (run : Option Nat) (site : Option Nat) (aux : Option Nat)
    (addr : Option Nat) (hwf : s.mem.wf = true) :
    (s.logEvent d code dom run site aux addr).mem.wf = true := by
  unfold State.logEvent
  dsimp only
  repeat' split
  all_goals simp [hwf]

@[simp] theorem FireIn_logPoison_wf (x : FireIn) (va : Nat) (s : State) (hwf : s.mem.wf = true) :
    (FireIn.logPoison x va s).mem.wf = true := by
  simp [FireIn.logPoison, hwf]

@[simp] theorem bankWrite_wf (s : State) (r : Run) (page : Nat) (tile : Nat) (a : Nat) (bs : List Byte) (hwf : s.mem.wf = true) :
    (s.bankWrite r page tile a bs).mem.wf = true := bankWrite_safe _ _ _ _ _ hwf

@[simp] theorem FireIn_robStore_wf (x : FireIn) (d : BitVec 128) (half : Nat) (j : Nat) (p : Pos) (s : State) (hwf : s.mem.wf = true) :
    (FireIn.robStore x d half j p s).mem.wf = true := by
  simp [FireIn.robStore, hwf]

@[simp] theorem noteCode_wf (s : State) (run : Option Nat) (phys : Nat) (n : Nat) (hwf : s.mem.wf = true) :
    (s.noteCode run phys n).mem.wf = true := by
  refine foldl_wf (fun s x hs => ?_) _ hwf
  dsimp only
  split <;> simp [hs]

@[simp] theorem noteAt_wf (s : State) (run : Option Nat) (p : Place) (n : Nat) (hwf : s.mem.wf = true) :
    (s.noteAt run p n).mem.wf = true := by
  unfold State.noteAt
  split <;> simp [hwf]

@[simp] theorem pinWrite_wf (s : State) (w : Writer) (hwf : s.mem.wf = true) :
    (s.pinWrite w).mem.wf = true := by
  unfold State.pinWrite
  refine foldl_wf (fun s x hs => ?_) _ ?_
  · simp [hs]
  · simp [hwf]

@[simp] theorem writeAt_wf (s : State) (p : Place) (bs : List Byte) (hwf : s.mem.wf = true) :
    (s.writeAt p bs).1.mem.wf = true := by
  unfold State.writeAt
  split
  · dsimp only
    split
    · exact hwf
    · simp [hwf]
  · exact host_safe _ _ hwf
  · exact hwf

@[simp] theorem storeBy_wf (s : State) (w : Writer) (p : Place) (bs : List Byte) (hwf : s.mem.wf = true) :
    (s.storeBy w p bs).mem.wf = true := by
  unfold State.storeBy
  dsimp only
  repeat' split
  all_goals simp [hwf]

@[simp] theorem addRec_wf (s : State) (b : BoomRec) (hwf : s.mem.wf = true) :
    (s.addRec b).mem.wf = true := by
  unfold State.addRec
  dsimp only
  repeat' split
  all_goals simp [hwf]

@[simp] theorem logAlarm_wf (s : State) (n : Nat) (level : Nat) (hwf : s.mem.wf = true) :
    (s.logAlarm n level).mem.wf = true := by
  simp [State.logAlarm, hwf]

@[simp] theorem alarm_wf (s : State) (n : Nat) (level : Nat) (hwf : s.mem.wf = true) :
    (s.alarm n level).mem.wf = true := by
  unfold State.alarm
  repeat' split
  all_goals simp [hwf]

@[simp] theorem hbmWriteRecord_wf (s : State) (a : Nat) (bs : List Byte) (hwf : s.mem.wf = true) :
    (s.hbmWriteRecord a bs).mem.wf = true := hbmWriteRecord_safe _ _ hwf

@[simp] theorem reportRing_wf (s : State) (d : Nat) (identity : Nat) (sqc : Option Nat) (g62 : Option Nat) (g63 : Option Nat) (i : FaultInfo)
    (hwf : s.mem.wf = true) :
    (s.reportRing d identity sqc g62 g63 i).mem.wf = true := by
  unfold State.reportRing
  dsimp only
  repeat' split
  all_goals simp [hwf]

@[simp] theorem supervisorFault_wf (s : State) (run : Nat) (i : FaultInfo) (hwf : s.mem.wf = true) :
    (s.supervisorFault run i).mem.wf = true := by
  unfold State.supervisorFault
  split
  · exact hwf
  · dsimp only
    rw [modRun_mem]
    exact reportRing_wf _ _ _ _ _ _ _ (by rw [freeze_mem]; exact hwf)

@[simp] theorem placeWrite_wf {s' : State} {d : Bool} {s : State} {p : Place} {bs : List Byte} (hwf : s.mem.wf = true)
    (ht : (s.placeWrite p bs) = some (s', d)) : s'.mem.wf = true := placeWrite_safe hwf ht

@[simp] theorem vwriteGo_wf {s' : State} {slot : Nat} {a1 : Nat} {a2 : State} {a3 : Nat} {a4 : List Byte} (hwf : a2.mem.wf = true)
    (ht : (State.vwriteGo slot a1 a2 a3 a4) = .ok s') : s'.mem.wf = true := vwriteGo_safe slot _ _ _ hwf ht

@[simp] theorem vwrite_wf {s' : State} {s : State} {slot : Nat} {va : Nat} {bs : List Byte} (hwf : s.mem.wf = true)
    (ht : (s.vwrite slot va bs) = .ok s') : s'.mem.wf = true := vwrite_safe hwf ht

@[simp] theorem takeTrap_wf (s : State) (run : Nat) (t : Trap) (i : FaultInfo) (hwf : s.mem.wf = true) :
    (s.takeTrap run t i).mem.wf = true := by
  unfold State.takeTrap
  dsimp only
  repeat' split
  · exact hwf
  · simp [hwf]
  · simp [hwf]
  · simp [hwf]
  · rename_i ht
    rw [modRun_mem, freeze_mem]
    exact vwrite_safe (s := { s with free := s.free + 256 }) hwf ht

@[simp] theorem arrivalRefused_wf (s : State) (e : ElemRef) (rid : Nat) (hwf : s.mem.wf = true) :
    (s.arrivalRefused e rid).mem.wf = true := by
  simp [State.arrivalRefused, hwf]

@[simp] theorem storeAt_wf (s : State) (a : Access) (r : Run) (p : Place) (bs : List Byte) (hwf : s.mem.wf = true) :
    (s.storeAt a r p bs).mem.wf = true := by
  simp [State.storeAt, hwf]

@[simp] theorem atomicAt_wf (s : State) (a : Access) (r : Run) (p : Place) (hwf : s.mem.wf = true) :
    (s.atomicAt a r p).mem.wf = true := by
  unfold State.atomicAt
  repeat' split
  all_goals simp [hwf]

@[simp] theorem macFailure_wf (s : State) (k : Nat) (src : Nat) (hwf : s.mem.wf = true) :
    (s.macFailure k src).mem.wf = true := by
  unfold State.macFailure
  dsimp only
  repeat' split
  all_goals simp [hwf]

@[simp] theorem serve_wf (s : State) (k : Nat) (f : Flit) (reply : Byte) (kind : FlitKind) (bytes : Nat) (go : State → State)
    (hwf : s.mem.wf = true) (hgo : ∀ u : State, u.mem.wf = true → (go u).mem.wf = true) :
    (s.serve k f reply kind bytes go).mem.wf = true := by
  unfold State.serve
  dsimp only
  repeat' split
  all_goals simp [hwf, hgo]

@[simp] theorem countAbort_wf (s : State) (b : BlkRef) (k : Nat) (hwf : s.mem.wf = true) :
    (s.countAbort b k).mem.wf = true := by
  unfold State.countAbort
  split
  · exact hwf
  · dsimp only
    split
    · exact logEvent_wf _ _ _ _ _ _ _ _ (by simpa [dropWaves_mem] using hwf)
    · simpa [dropWaves_mem] using hwf

@[simp] theorem yieldTo_wf {s' : State} {s : State} {ls : List (Nat × Bool)} (hwf : s.mem.wf = true)
    (ht : (s.yieldTo ls) = some s') : s'.mem.wf = true := by
  unfold State.yieldTo at ht
  dsimp only at ht
  split at ht
  · cases ht
  · cases ht
    refine foldl_wf (fun s b hs => ?_) _ hwf
    split <;> simp [hs]

@[simp] theorem unlessHeld_wf (s : State) (ls : List (Nat × Bool)) (go : State → State) (hwf : s.mem.wf = true)
    (hgo : ∀ u : State, u.mem.wf = true → (go u).mem.wf = true) :
    (s.unlessHeld ls go).mem.wf = true := by
  unfold State.unlessHeld
  split
  · rename_i ht
    exact hgo _ (yieldTo_wf hwf ht)
  · exact hwf

@[simp] theorem atreq_wf (s : State) (k : Nat) (f : Flit) (hwf : s.mem.wf = true) :
    (s.atreq k f).mem.wf = true := by
  refine serve_wf _ _ _ _ _ _ _ hwf fun u hu => ?_
  extract_lets -lift +onlyGivenNames a v m inc once
  have honce (v : State) (hv : v.mem.wf = true) : (once v).mem.wf = true := by
    refine unlessHeld_wf _ _ _ hv fun v hv => ?_
    extract_lets -lift +onlyGivenNames v
    have hv' : v.mem.wf = true := noteCode_wf _ _ _ _ hv
    split <;> simp [hv']
  split
  · simp [hu]
  split
  · split
    · rename_i ht
      rw [meet_mem ht, hu]
    · exact honce _ hu
  · exact honce _ hu

@[simp] theorem faultAcc_wf (s : State) (a : Access) (f : XFault) (level : Nat) (aux : Nat) (aux64 : Nat) (hwf : s.mem.wf = true) :
    (s.faultAcc a f level aux aux64).mem.wf = true := by
  unfold State.faultAcc
  repeat' split
  all_goals simp [hwf]

@[simp] theorem replyAcc_wf (s : State) (t : Tag) (f : Flit) (go : Access → State → State) (hwf : s.mem.wf = true) (hgo : ∀ a,
    (go a s).mem.wf = true) :
    (s.replyAcc t f go).mem.wf = true := by
  unfold State.replyAcc
  repeat' split
  all_goals simp_all

theorem reply_wf (s : State) (k : Nat) (f : Flit) (go : Tag → State → State) (hwf : s.mem.wf = true)
    (hgo : ∀ t u, u.mem.wf = true → (go t u).mem.wf = true) : (s.reply k f go).mem.wf = true := by
  unfold State.reply
  split
  · exact hwf
  · split
    · exact hwf
    · exact hgo _ _ hwf

@[simp] theorem atrsp_wf (s : State) (k : Nat) (f : Flit) (hwf : s.mem.wf = true) :
    (s.atrsp k f).mem.wf = true := by
  refine reply_wf _ _ _ _ hwf fun t u hu => ?_
  split
  · split
    · exact hu
    · split
      · refine foldl_wf (fun s m hs => ?_) _ hu
        split
        · split <;> simp [hs]
        · exact hs
      · simp [hu]
  · refine replyAcc_wf _ _ _ _ hu fun a => ?_
    dsimp only
    split <;> simp [hu]

@[simp] theorem engineReads_wf {s' : State} {s : State} {slot : Nat} {va : Nat} {n : Nat} (hwf : s.mem.wf = true)
    (ht : (s.engineReads slot va n) = some s') : s'.mem.wf = true := by
  unfold State.engineReads at ht
  split at ht
  · cases ht; exact hwf
  · exact yieldTo_wf hwf ht

@[simp] theorem noteRead_wf (s : State) (run : Option Nat) (slot : Nat) (va : Nat) (n : Nat) (hwf : s.mem.wf = true) :
    (s.noteRead run slot va n).mem.wf = true := by
  refine foldl_wf (fun s x hs => ?_) _ hwf
  dsimp only
  split <;> simp [hs]

@[simp] theorem bar4Read_wf (s : State) (slot : Nat) (addr : Nat) (len : Nat) (hwf : s.mem.wf = true) :
    (s.bar4Read slot addr len).mem.wf = true := by
  unfold State.bar4Read
  split
  · exact hwf
  · rename_i ht
    have hread := noteRead_wf _ none slot addr len (engineReads_wf hwf ht)
    dsimp only
    split <;> simpa using hread

@[simp] theorem trapWord_wf (s : State) (run : Nat) (t : Trap) (hwf : s.mem.wf = true) :
    (s.trapWord run t).mem.wf = true := by
  simp [State.trapWord, hwf]

@[simp] theorem branch_wf (s : State) (r : Run) (off : BitVec 38) (hwf : s.mem.wf = true) :
    (s.branch r off).mem.wf = true := by
  unfold State.branch
  dsimp only
  repeat' split
  all_goals simp [hwf]

@[simp] theorem putSlot_wf {s' : State} {s : State} {slot : Nat} {base : Nat} {i : Nat} {t : Slot} (hwf : s.mem.wf = true)
    (ht : (s.putSlot slot base i t) = .ok s') : s'.mem.wf = true := vwrite_wf hwf ht

@[simp] theorem buryTent_wf (slot : Nat) (h : Line) (a2 : Nat) (a3 : Nat) (a4 : State) (hwf : a4.mem.wf = true) :
    (State.buryTent slot h a2 a3 a4).2.mem.wf = true := by
  induction a2 generalizing a3 a4 with
  | zero => exact hwf
  | succ fuel ih =>
    unfold State.buryTent
    split
    · exact ih _ _ hwf
    · split
      · exact ih _ _ hwf
      · split
        · exact ih _ _ hwf
        · rename_i ht
          exact ih _ _ (putSlot_wf hwf ht)

@[simp] theorem clearValid_wf (s : State) (slot : Nat) (fra : Nat) (hwf : s.mem.wf = true) :
    (s.clearValid slot fra).mem.wf = true := by
  unfold State.clearValid
  split
  · split
    · rename_i ht
      exact vwrite_wf hwf ht
    · exact hwf
  · exact hwf

@[simp] theorem uncatch_wf {s' : State} {s : State} {run : Nat} {h : Hold} (hwf : s.mem.wf = true)
    (ht : (s.uncatch run h) = some s') : s'.mem.wf = true := by
  unfold State.uncatch at ht
  dsimp only at ht
  repeat' split at ht
  all_goals cases ht
  all_goals simp [hwf]

@[simp] theorem cfgError_wf (s : State) (run : Nat) (plane : Nat) (hwf : s.mem.wf = true) :
    (s.cfgError run plane).mem.wf = true := by
  unfold State.cfgError
  split
  · exact hwf
  dsimp only
  split
  · simp [hwf]
  split
  · simp [hwf, freeze_mem]
  · rename_i r _ _ _
    cases hu : State.uncatch _ run (.reload false) with
    | none => simp [hwf]
    | some t => exact uncatch_wf (by simp [hwf]) hu

@[simp] theorem checkPlane_wf (s : State) (run : Nat) (plane : Nat) (hwf : s.mem.wf = true) :
    (s.checkPlane run plane).mem.wf = true := by
  unfold State.checkPlane
  dsimp only
  repeat' split
  all_goals simp [hwf]

@[simp] theorem faultReq_wf (s : State) (q : Req) (e : WalkFault) (va : Nat) (access : Nat) (sector : Nat) (hwf : s.mem.wf = true) :
    (s.faultReq q e va access sector).mem.wf = true := by
  unfold State.faultReq
  repeat' split
  all_goals simp [hwf]

@[simp] theorem failSector_wf (s : State) (q : Req) (r : Run) (k : Nat) (e : WalkFault) (va : Nat) (access : Nat) (hwf : s.mem.wf = true) :
    (s.failSector q r k e va access).mem.wf = true := by
  unfold State.failSector
  split <;> simp [hwf]

@[simp] theorem withRead_wf (s : State) (q : Req) (slot : Nat) (va : Nat) (n : Nat) (bad : State → WalkFault → Nat → State)
    (go : State → List Byte → List Nat → State) (hwf : s.mem.wf = true) (hbad : ∀ (u : State) e k, u.mem.wf = true → (bad u e k).mem.wf = true)
    (hgo : ∀ (u : State) l b, u.mem.wf = true → (go u l b).mem.wf = true) :
    (s.withRead q slot va n bad go).mem.wf = true := by
  unfold State.withRead
  split
  · exact hwf
  · rename_i ht
    have hu := engineReads_wf hwf ht
    split
    · exact hbad _ _ _ hu
    · split
      · simp [hu]
      · exact hgo _ _ _ (noteRead_wf _ _ _ _ _ hu)

@[simp] theorem checkSector_wf (s : State) (q : Req) (r : Run) (k : Nat) (hwf : s.mem.wf = true) :
    (s.checkSector q r k).mem.wf = true := by
  have hfail (q : Req) (r : Run) (k : Nat) (u : State) (e : WalkFault) (x : Nat) (hu : u.mem.wf = true) :
      (u.failSector q r k e x 3).mem.wf = true := by
    simp [hu]
  unfold State.checkSector
  dsimp only
  split
  · exact hwf
  split
  · simp [hwf]
  refine withRead_wf _ _ _ _ _ _ _ hwf (hfail q r k) fun u bs psn hu => ?_
  split
  · split <;> simp [hu]
  · refine withRead_wf _ _ _ _ _ _ _ hu (hfail q r k) fun v old psn hv => ?_
    split <;> simp [hv]

@[simp] theorem clearPage_wf (s : State) (die : Nat) (page : Nat) (hwf : s.mem.wf = true) :
    (s.clearPage die page).mem.wf = true := clearPage_safe _ _ hwf

@[simp] theorem dropHold_wf (s : State) (slot : Nat) (va : Nat) (hwf : s.mem.wf = true) :
    (s.dropHold slot va).mem.wf = true := by
  unfold State.dropHold
  split
  · exact hwf
  · dsimp only
    split
    · rename_i ht
      exact vwrite_safe (State.Safe.eq_1 _ ▸ hwf) ht
    · exact hwf

@[simp] theorem relPut_wf (s : State) (slot : Nat) (va : Nat) (h : Line) (hwf : s.mem.wf = true) :
    (s.relPut slot va h).mem.wf = true := by
  unfold State.relPut
  split
  · exact hwf
  · split
    · rename_i ht
      exact vwrite_wf hwf ht
    · exact hwf

@[simp] theorem closeRel_wf (s : State) (slot : Nat) (va : Nat) (g : BitVec 20) (hwf : s.mem.wf = true) :
    (s.closeRel slot va g).mem.wf = true := by
  unfold State.closeRel
  split
  · exact hwf
  · split
    · exact hwf
    · dsimp only
      refine dropHold_wf _ _ _ (relPut_wf _ _ _ _ ?_)
      split
      · exact buryTent_wf _ _ _ _ _ hwf
      · exact hwf

@[simp] theorem coldReset_wf (s : State) (env : BringUp) (hwf : s.mem.wf = true) :
    (s.coldReset env).mem.wf = true := by
  have hhost := (mems_wf.mp hwf).2.1
  have halarm1 (u : State) (hu : u.mem.wf = true) : (u.logAlarm 0 1).mem.wf = true := logEvent_wf _ _ _ _ _ _ _ _ hu
  unfold State.coldReset
  extract_lets -lift +onlyGivenNames b links good z c m chip t t'
  have ht : t.mem.wf = true := mems_wf.mpr ⟨rfl, hhost, rfl, rfl⟩
  have ht' : t'.mem.wf = true := by
    unfold t'
    split
    · split
      · exact halarm1 _ ht
      · exact ht
    · exact ht
  split
  · split
    · simp [ht']
    · exact ht'
  · exact ht'

@[simp] theorem complWord_wf (s : State) (r : Run) (effect : Run → Run) (hwf : s.mem.wf = true) :
    (s.complWord r effect).mem.wf = true := by
  unfold State.complWord
  split <;> simp [hwf]

@[simp] theorem doneWord_wf (s : State) (run : Nat) (effect : Run → Run) (hwf : s.mem.wf = true) :
    (s.doneWord run effect).mem.wf = true := by
  unfold State.doneWord
  split <;> simp [hwf]

@[simp] theorem sumTo_wf (tn : Nat) (tb : Int) (last : Bool) (g : BitVec 20) (s : State) (run : Nat) (hwf : s.mem.wf = true) :
    (State.sumTo tn tb last g s run).mem.wf = true := by
  unfold State.sumTo
  dsimp only
  split
  · exact hwf
  split
  · split <;> simp [hwf]
  · split
    · exact doneWord_wf _ _ _ (foldl_wf (fun s x hs => closeRel_wf _ _ _ _ hs) _ hwf)
    · simp [hwf]
  · exact hwf

@[simp] theorem combineReply_wf (s : State) (name : BitVec 20) (hwf : s.mem.wf = true) :
    (s.combineReply name).mem.wf = true := by
  unfold State.combineReply
  split
  · exact hwf
  · dsimp only
    split
    · exact hwf
    · refine foldl_wf (fun s c hs => ?_) _ (by simpa using hwf)
      split
      · simp [hs]
      · exact sumTo_wf _ _ _ _ _ _ hs
      · exact hs

@[simp] theorem storeRuns_wf (s : State) (a : Access) (r : Run) (p : Place) (hwf : s.mem.wf = true) :
    (s.storeRuns a r p).mem.wf = true := by
  have hstore (a' : Nat × List Byte → Access) (p' : Nat × List Byte → Place) (l : List (Nat × List Byte)) {s : State} (hs : s.mem.wf = true) :
      (l.foldl (fun s q => s.storeAt (a' q) r (p' q) q.2) s).mem.wf = true := foldl_wf (fun s q hs => storeAt_wf _ _ _ _ _ hs) _ hs
  unfold State.storeRuns
  dsimp only
  split
  · split
    · simp [hwf]
    · exact hstore _ _ _ (storeAt_wf _ _ _ _ _ hwf)
  · exact hstore _ _ _ hwf

@[simp] theorem commit_wf (s : State) (b : BlkRef) (hwf : s.mem.wf = true) :
    (s.commit b).mem.wf = true := by
  unfold State.commit
  split
  · dsimp only
    split
    · exact hwf
    · refine foldl_wf (fun s e hs => by simp [hs]) _ ?_
      simp only [raise_mem, modDie_mem, modBlk_mem]
      refine foldl_wf (fun s a hs => ?_) _ hwf
      split <;> simp [hs]
  · exact hwf

@[simp] theorem trapWordWith_wf (s : State) (run : Nat) (t : Trap) (i : FaultInfo → FaultInfo) (hwf : s.mem.wf = true) :
    (s.trapWordWith run t i).mem.wf = true := by
  simp [State.trapWordWith, hwf]

@[simp] theorem whenDrained_wf (s : State) (r : Run) (need : Loaded → Bool) (go : State) (hwf : s.mem.wf = true) (hgo : go.mem.wf = true) :
    (s.whenDrained r need go).mem.wf = true := by
  unfold State.whenDrained
  repeat' split
  all_goals simp_all

@[simp] theorem confWord_wf (s : State) (r : Run) (cfg : Nat) (rule : Nat) (full : Bool) (hwf : s.mem.wf = true) :
    (s.confWord r cfg rule full).mem.wf = true := by
  unfold State.confWord
  repeat' split
  all_goals simp [hwf]

@[simp] theorem configDone_wf (s : State) (run : Nat) (plane : Nat) (load : Nat) (hwf : s.mem.wf = true) :
    (s.configDone run plane load).mem.wf = true := by
  unfold State.configDone
  repeat' split
  all_goals simp [hwf]

@[simp] theorem preload_wf (s : State) (r : Run) (c : CfgImage) (l : Loaded) (hwf : s.mem.wf = true) :
    (s.preload r c l).mem.wf = true := by
  unfold State.preload
  exact foldl_wf (fun s x hs => by (repeat' split) <;> simp [hs]) _ hwf

@[simp] theorem loadActive_wf {s' : State} {k : Nat} {s : State} {r : Run} {isRule : Bool} {cfg : Nat} {keep : Nat → Loaded → Bool}
    (hwf : s.mem.wf = true)
    (ht : (s.loadActive r isRule cfg keep) = .ok (s', k)) : s'.mem.wf = true := by
  unfold State.loadActive at ht
  dsimp only at ht
  split at ht
  · cases ht
  · split at ht
    · cases ht
    · cases ht
      simp [hwf]

@[simp] theorem trapKeep_wf (s : State) (run : Nat) (t : Trap) (i : FaultInfo → FaultInfo) (hwf : s.mem.wf = true) :
    (s.trapKeep run t i).mem.wf = true := by
  simp [State.trapKeep, hwf]

@[simp] theorem loadKid_wf (s : State) (r : Run) (kind : Nat) (depth : Nat) (n : Nat) (kids : List Kid) (hwf : s.mem.wf = true) :
    (s.loadKid r kind depth n kids).mem.wf = true := by
  unfold State.loadKid
  dsimp only
  split
  · exact hwf
  · split
    · simp [hwf]
    · rename_i ht
      exact loadActive_wf hwf ht

@[simp] theorem loadFault_wf (s : State) (run : Nat) (f : LoadFault) (hwf : s.mem.wf = true) :
    (s.loadFault run f).mem.wf = true := by
  simp [State.loadFault, hwf]

@[simp] theorem loadWord_wf (s : State) (r : Run) (hwf : s.mem.wf = true) :
    (s.loadWord r).mem.wf = true := by
  unfold State.loadWord
  split
  · exact hwf
  · split
    · simp [hwf]
    · rename_i ht
      have hu := loadActive_wf hwf ht
      split
      · exact hu
      · simp [hu]

@[simp] theorem configLoad_wf (s : State) (run : Nat) (hwf : s.mem.wf = true) :
    (s.configLoad run).mem.wf = true := by
  unfold State.configLoad
  repeat' split
  all_goals simp [hwf]

@[simp] theorem goto_wf (s : State) (r : Run) (q : Nat) (hwf : s.mem.wf = true) :
    (s.goto r q).mem.wf = true := by
  unfold State.goto
  split <;> simp [hwf]

@[simp] theorem startKid_wf (s : State) (run : Nat) (kind : Nat) (depth : Nat) (id : Nat) (n : Nat) (k : Nat) (hwf : s.mem.wf = true) :
    (s.startKid run kind depth id n k).mem.wf = true := by
  unfold State.startKid
  split
  · exact hwf
  split
  · split
    · exact hwf
    split
    · exact hwf
    split
    · exact hwf
    split
    · exact hwf
    split
    · simp [hwf]
    · rw [setKids_mem]
      refine foldl_wf (fun s w hs => ?_) _ (by simp [hwf])
      split
      · exact hs
      · split <;> simp [hs]
  · exact hwf

@[simp] theorem driveControl_wf (s : State) (r : Run) (kind : Nat) (depth : Nat) (id : Nat) (n : Nat) (kids : List Kid) (hwf : s.mem.wf = true) :
    (s.driveControl r kind depth id n kids).mem.wf = true := by
  unfold State.driveControl
  dsimp only
  split
  · simp [hwf]
  · split
    · simp [hwf]
    · exact foldl_wf (fun s k hs => startKid_wf _ _ _ _ _ _ _ hs) _ (by simp [hwf])

@[simp] theorem controlWord_wf (s : State) (r : Run) (kind : Nat) (depth : Nat) (n : Nat) (kids : List Kid) (hwf : s.mem.wf = true) :
    (s.controlWord r kind depth n kids).mem.wf = true := by
  unfold State.controlWord
  repeat' split
  all_goals simp [hwf]

@[simp] theorem copyData_wf {s' : State} {s : State} {i : Image} (hwf : s.mem.wf = true)
    (ht : (s.copyData i) = .ok s') : s'.mem.wf = true := by
  unfold State.copyData at ht
  dsimp only at ht
  split at ht
  · cases ht; exact hwf
  split at ht
  · cases ht
  split at ht
  · cases ht
  · rename_i hu
    cases ht
    have hv := vwrite_wf hwf hu
    exact hv

@[simp] theorem freeOwners_wf (s : State) (r : Run) (hwf : s.mem.wf = true) :
    (s.freeOwners r).mem.wf = true := by
  unfold State.freeOwners
  exact foldl_wf (fun s x hs => by simp [hs]) _ hwf

@[simp] theorem retire_wf (s : State) (run : Nat) (hwf : s.mem.wf = true) :
    (s.retire run).mem.wf = true := by
  unfold State.retire
  split
  · exact hwf
  · rename_i r _
    have horders := foldl_wf (f := fun (s : State) o => s.answerWho o.2 1) (fun s o hs => by simp [hs]) r.orders hwf
    have hgroups := foldl_wf (f := fun (s : State) g => s.leaveGroup run g) (fun s g hs => by simp [hs]) r.groups horders
    have howners := freeOwners_wf _ r hgroups
    refine foldl_wf (fun s q hs => by split <;> simp [hs]) _ ?_
    refine foldl_wf (fun s m hs => by simp [hs]) _ ?_
    split
    · exact howners
    · rw [freePort_mem]
      exact howners

@[simp] theorem ctxtear_wf (s : State) (slot : Nat) (w : W64) (hwf : s.mem.wf = true) :
    (s.ctxtear slot w).mem.wf = true := by
  unfold State.ctxtear
  split
  · exact hwf
  split
  · exact hwf
  · dsimp only
    refine host_safe _ _ ?_
    rw [State.Safe, freeTenant_mem]
    refine foldl_wf (fun s r hs => retire_wf _ _ (by rw [freeze_mem]; exact hs)) _ ?_
    simp [hwf]

@[simp] theorem deadlock_wf (s : State) (run : Nat) (cyc : List ElemRef) (hwf : s.mem.wf = true) :
    (s.deadlock run cyc).mem.wf = true := by
  simp [State.deadlock, hwf]

@[simp] theorem decodeHead_wf (s : State) (e : ElemRef) (input : Nat) (hwf : s.mem.wf = true) :
    (s.decodeHead e input).mem.wf = true := by
  unfold State.decodeHead
  dsimp only
  repeat' split
  all_goals simp [hwf]

@[simp] theorem putArea_wf (s : State) (die : Nat) (u : Nat) (ws : List W32) (hwf : s.mem.wf = true) :
    (s.putArea die u ws).mem.wf = true := by
  unfold State.putArea
  exact foldl_wf (fun s x hs => by simp [hs]) _ hwf

@[simp] theorem driveElem_wf (e : ElemRef) (body : FireIn → Instr → Fire) (s : State) (hwf : s.mem.wf = true)
    (hbody : ∀ x i, x.s.mem.wf = true → EffSafe (body x i)) :
    (driveElem e body s).mem.wf = true := by
  unfold driveElem
  split
  · exact hwf
  split
  · exact hwf
  split
  · exact hwf
  · rename_i hh _ _ i _ _ f _
    dsimp only
    split
    · exact hwf
    · have hb := hbody ⟨s, e, hh, f, opcodeOf i⟩ i hwf
      split
      · exact hwf
      · simp [hwf]
      · simp [hwf]
      · rename_i a ha
        rw [ha] at hb
        cases ht : FireIn.driveAct ⟨s, e, hh, f, opcodeOf i⟩ i a with
        | none => exact hwf
        | some t => exact FireIn_driveAct_wf hwf hb ht

@[simp] theorem withLine_wf (s : State) (q : Req) (slot : Nat) (va : Nat) (go : State → Line → Bool → State) (hwf : s.mem.wf = true) (hgo : ∀
    (u : State) l b, u.mem.wf = true → (go u l b).mem.wf = true) :
    (s.withLine q slot va go).mem.wf = true := 
  withRead_wf _ _ _ _ _ _ _ hwf (fun u e k hu => by simp [hu]) fun u l b hu => hgo _ _ _ hu

@[simp] theorem dequeueRecv_wf (s : State) (q : Req) (slot : Nat) (hwf : s.mem.wf = true) :
    (s.dequeueRecv q slot).mem.wf = true := by
  unfold State.dequeueRecv
  dsimp only
  split
  · repeat' split
    all_goals simp [hwf]
  · refine withLine_wf _ _ _ _ _ hwf fun u d psn hu => ?_
    repeat' split
    all_goals simp [hu]

@[simp] theorem dequeueSend_wf (s : State) (q : Req) (slot : Nat) (hwf : s.mem.wf = true) :
    (s.dequeueSend q slot).mem.wf = true := by
  unfold State.dequeueSend
  dsimp only
  split
  · simp [hwf]
  · refine withLine_wf _ _ _ _ _ hwf fun u d psn hu => ?_
    split
    · simp [hu]
    split
    · split
      · simp [hu]
      · split <;> simp [hu]
    · split
      · simp [hu]
      · exact withRead_wf _ _ _ _ _ _ _ hu (fun v e x hv => by simp [hv]) fun v bs psn hv => by simp [hv]

@[simp] theorem trapReq_wf (s : State) (q : Req) (t : Trap) (hwf : s.mem.wf = true) :
    (s.trapReq q t).mem.wf = true := by
  unfold State.trapReq
  split <;> simp [hwf]

@[simp] theorem dequeueStash_wf (s : State) (q : Req) (slot : Nat) (hwf : s.mem.wf = true) :
    (s.dequeueStash q slot).mem.wf = true := by
  refine withLine_wf _ _ _ _ _ hwf fun u d psn hu => ?_
  dsimp only
  repeat' split
  all_goals simp [hu]

@[simp] theorem dequeueUnstash_wf (s : State) (q : Req) (slot : Nat) (hwf : s.mem.wf = true) :
    (s.dequeueUnstash q slot).mem.wf = true := by
  have hfail (u : State) (e : WalkFault) (x : Nat) (hu : u.mem.wf = true) : (u.faultReq q e x 3 0).mem.wf = true := faultReq_wf _ _ _ _ _ _ hu
  unfold State.dequeueUnstash
  extract_lets -lift +onlyGivenNames h area off fail
  refine withLine_wf _ _ _ _ _ hwf fun u d psn hu => ?_
  extract_lets -lift +onlyGivenNames used base
  split
  · exact trapReq_wf _ _ _ hu
  · refine withLine_wf _ _ _ _ _ hu fun v hd hpsn hv => ?_
    extract_lets -lift +onlyGivenNames n vec e dlen
    split
    · exact trapReq_wf _ _ _ hv
    · exact withRead_wf _ _ _ _ _ _ _ hv (fun v e x hv => hfail _ _ _ hv) fun v bs psn hv => by rw [answerReq_mem]; exact hv

@[simp] theorem withHdr_wf (s : State) (q : Req) (slot : Nat) (va : Nat) (go : State → Option Line → State) (hwf : s.mem.wf = true) (hgo : ∀
    (u : State) l, u.mem.wf = true → (go u l).mem.wf = true) :
    (s.withHdr q slot va go).mem.wf = true := by
  unfold State.withHdr
  dsimp only
  split
  · exact hgo _ _ hwf
  · split
    · exact hgo _ _ hwf
    · exact withLine_wf _ _ _ _ _ hwf fun u l b hu => hgo _ _ hu

@[simp] theorem withEnd_wf (s : State) (q : Req) (slot : Nat) (kind : Nat) (va : Nat) (go : State → Option (Nat × Nat) → State)
    (hwf : s.mem.wf = true) (hgo : ∀ (u : State) l, u.mem.wf = true → (go u l).mem.wf = true) :
    (s.withEnd q slot kind va go).mem.wf = true := by
  unfold State.withEnd
  split
  · exact withHdr_wf _ _ _ _ _ hwf fun u l hu => hgo _ _ hu
  · exact hgo _ _ hwf

@[simp] theorem dequeueXfer_wf (s : State) (q : Req) (slot : Nat) (hwf : s.mem.wf = true) :
    (s.dequeueXfer q slot).mem.wf = true := by
  refine withEnd_wf _ _ _ _ _ _ hwf fun u l hu => ?_
  refine withEnd_wf _ _ _ _ _ _ hu fun v m hv => ?_
  dsimp only
  split <;> simp [hv]

@[simp] theorem dequeue_wf (s : State) (id : Nat) (hwf : s.mem.wf = true) :
    (s.dequeue id).mem.wf = true := by
  unfold State.dequeue
  repeat' split
  all_goals simp [hwf]

@[simp] theorem postEntry_wf (s : State) (slot : Nat) (n : Nat) (tok : W64) (identity : Nat) (hwf : s.mem.wf = true) :
    (s.postEntry slot n tok identity).mem.wf = true := postEntry_safe _ _ _ _ hwf

@[simp] theorem edeliver_wf (s : State) (slot : Nat) (ring : Nat) (hwf : s.mem.wf = true) :
    (s.edeliver slot ring).mem.wf = true := by
  unfold State.edeliver
  dsimp only
  repeat' split
  all_goals simp [hwf]

@[simp] theorem endHandler_wf (s : State) (run : Nat) (hwf : s.mem.wf = true) :
    (s.endHandler run).mem.wf = true := by
  unfold State.endHandler
  repeat' split
  all_goals simp [hwf]

@[simp] theorem endlWord_wf (s : State) (r : Run) (hwf : s.mem.wf = true) :
    (s.endlWord r).mem.wf = true := by
  unfold State.endlWord
  repeat' split
  all_goals simp [hwf]

@[simp] theorem errRun_wf (s : State) (run : Nat) (code : Nat) (dom : Nat) (f : Run → Run) (hwf : s.mem.wf = true) :
    (s.errRun run code dom f).mem.wf = true := by
  unfold State.errRun
  split <;> simp [hwf]

@[simp] theorem ewrite_wf (s : State) (id : Nat) (hwf : s.mem.wf = true) :
    (s.ewrite id).mem.wf = true := by
  unfold State.ewrite
  split
  · exact hwf
  split
  · exact hwf
  split
  · dsimp only
    split <;> split <;> simp [hwf]
  split
  · exact hwf
  · rename_i u hy
    have hu := yieldTo_wf hwf hy
    extract_lets -lift +onlyGivenNames last
    split
    · extract_lets -lift +onlyGivenNames op
      split
      · exact hu
      · rename_i ht
        rw [noteOpen_mem]
        exact (request_mem ht) ▸ hu
    · split
      rename_i t lost hw
      extract_lets -lift +onlyGivenNames v w
      have hv : v.mem.wf = true := by
        unfold v
        split
        · exact logEvent_wf _ _ _ _ _ _ _ _ hu
        · rw [show t = (t, lost).1 from rfl, ← hw]
          exact writeAt_wf u _ _ hu
      have hw : w.mem.wf = true := by
        unfold w
        clear_value v
        repeat' split
        all_goals simp [hv]
      rw [wroteOne_mem, noteOpen_mem]
      exact hw

@[simp] theorem ewriteAnswer_wf (s : State) (id : Nat) (f : Flit) (hwf : s.mem.wf = true) :
    (s.ewriteAnswer id f).mem.wf = true := by
  unfold State.ewriteAnswer
  repeat' split
  all_goals simp [hwf]

@[simp] theorem fetchAnswer_wf (s : State) (req : Nat) (va : Nat) (f : Flit) (hwf : s.mem.wf = true) :
    (s.fetchAnswer req va f).mem.wf = true := by
  unfold State.fetchAnswer
  dsimp only
  repeat' split
  all_goals simp [hwf]

@[simp] theorem fixLost_wf (s : State) (run : Nat) (w : Wait) (hwf : s.mem.wf = true) :
    (s.fixLost run w).mem.wf = true := by
  simp [State.fixLost, hwf]

@[simp] theorem stopWord_wf (s : State) (run : Nat) (w : WordStop) (hwf : s.mem.wf = true) :
    (s.stopWord run w).mem.wf = true := by
  unfold State.stopWord
  split <;> simp [hwf]

@[simp] theorem fixbAck_wf (s : State) (run : Nat) (k : Nat) (hwf : s.mem.wf = true) :
    (s.fixbAck run k).mem.wf = true := by
  unfold State.fixbAck
  split
  · exact hwf
  split
  · dsimp only
    split
    · split
      · exact hwf
      · split
        · simp [hwf]
        · rename_i ht
          rw [setWait_mem, openRel_mem ht, hwf]
    · exact hwf
  · exact hwf

@[simp] theorem fixbWord_wf (s : State) (r : Run) (gb : BitVec 6) (rlist : Nat) (grp : Nat) (hwf : s.mem.wf = true) :
    (s.fixbWord r gb rlist grp).mem.wf = true := by
  unfold State.fixbWord
  dsimp only
  repeat' split
  all_goals simp [hwf]

@[simp] theorem fixeWord_wf (s : State) (r : Run) (gb : BitVec 6) (grp : Nat) (hwf : s.mem.wf = true) :
    (s.fixeWord r gb grp).mem.wf = true := by
  unfold State.fixeWord
  dsimp only
  split
  · split
    · simp [hwf]
    · refine whenDrained_wf _ _ _ _ hwf ?_
      split
      · exact hwf
      · rename_i ht
        rw [sendWait_mem, contribute_mem ht, hwf]
  · exact hwf

@[simp] theorem freeOwner_wf (s : State) (r : Run) (va : Nat) (hwf : s.mem.wf = true) :
    (s.freeOwner r va).2.mem.wf = true := by
  unfold State.freeOwner
  repeat' split
  all_goals simp [hwf]

@[simp] theorem freezeArrival_wf (s : State) (run : Nat) (hwf : s.mem.wf = true) :
    (s.freezeArrival run).mem.wf = true := by
  unfold State.freezeArrival
  split
  · exact hwf
  split
  · exact hwf
  · rename_i r _ o _
    extract_lets -lift +onlyGivenNames s1 done
    have hs1 : s1.mem.wf = true := by simp [s1, hwf]
    have hdone (u : State) (hu : u.mem.wf = true) : (done u).mem.wf = true := by
      unfold done
      split <;> simp [hu]
    split
    · exact hdone _ (by rw [freeze_mem]; exact hs1)
    · split
      · simp [hs1]
      · split
        · exact hdone _ (uncatch_wf hs1 ‹_›)
        · simp [hs1]

@[simp] theorem gateOpen_wf (s : State) (run : Nat) (g : Nat) (hwf : s.mem.wf = true) :
    (s.gateOpen run g).mem.wf = true := by
  unfold State.gateOpen
  dsimp only
  repeat' split
  all_goals simp [hwf]

@[simp] theorem groupReply_wf (s : State) (run : Nat) (hwf : s.mem.wf = true) :
    (s.groupReply run).mem.wf = true := by
  unfold State.groupReply
  dsimp only
  repeat' split
  all_goals simp [hwf]

@[simp] theorem imageFor_wf {s' : State} {s : State} {slot : Nat} {va : Nat} (hwf : s.mem.wf = true)
    (ht : (s.imageFor slot va) = .ok s') : s'.mem.wf = true := by
  unfold State.imageFor at ht
  dsimp only at ht
  split at ht
  · cases ht
  · rename_i i u hfound
    have hu : u.mem.wf = true := by
      repeat' split at hfound
      all_goals cases hfound <;> simp [hwf]
    split at ht
    · cases ht
    · exact copyData_wf hu ht

@[simp] theorem iterWord_wf (s : State) (r : Run) (gb : BitVec 6) (count : Nat) (hwf : s.mem.wf = true) :
    (s.iterWord r gb count).mem.wf = true := by
  unfold State.iterWord
  dsimp only
  repeat' split
  all_goals simp [hwf]

@[simp] theorem launchFailed_wf (s : State) (f : LoadFault) (l : Launch) (hwf : s.mem.wf = true) :
    (s.launchFailed f l).mem.wf = true := by
  unfold State.launchFailed
  repeat' split
  all_goals simp [hwf]

@[simp] theorem noContext_wf (s : State) (p : HPort) (slot : Nat) (hwf : s.mem.wf = true) :
    (s.noContext p slot).mem.wf = true := by
  unfold State.noContext
  split
  · simp [hwf]
  · rw [portFree_mem]
    exact host_safe _ _ hwf

@[simp] theorem portLaunch_wf (s : State) (p : HPort) (ws : List W64) (hwf : s.mem.wf = true) :
    (s.portLaunch p ws).mem.wf = true := by
  unfold State.portLaunch
  dsimp only
  repeat' split
  all_goals simp [hwf]

@[simp] theorem launchIn_wf (s : State) (die : Nat) (port : Nat) (w : W64) (hwf : s.mem.wf = true) :
    (s.launchIn die port w).mem.wf = true := by
  unfold State.launchIn
  dsimp only
  repeat' split
  all_goals simp [hwf]

@[simp] theorem launchReply_wf (s : State) (run : Nat) (hwf : s.mem.wf = true) :
    (s.launchReply run).mem.wf = true := by
  unfold State.launchReply
  repeat' split
  all_goals simp [hwf]

@[simp] theorem loadPages_wf (s : State) (r : Run) (hwf : s.mem.wf = true) :
    (s.loadPages r).mem.wf = true := loadPages_safe _ hwf

@[simp] theorem logMaskMiss_wf (s : State) (r : Run) (hwf : s.mem.wf = true) :
    (s.logMaskMiss r).mem.wf = true := by
  unfold State.logMaskMiss
  refine foldl_wf (fun s p hs => ?_) _ hwf
  refine foldl_wf (fun s l hs => ?_) _ hs
  refine foldl_wf (fun s b hs => ?_) _ hs
  refine foldl_wf (fun s k hs => ?_) _ hs
  split <;> simp [hs]

@[simp] theorem logTok_wf (s : State) (e : ElemRef) (die : Nat) (hwf : s.mem.wf = true) :
    (s.logTok e die).mem.wf = true := by
  simp [State.logTok, hwf]

@[simp] theorem longWait_wf (s : State) (r : Run) (cause : Nat) (e : Option ElemRef) (hwf : s.mem.wf = true) :
    (s.longWait r cause e).mem.wf = true := by
  simp [State.longWait, hwf]

@[simp] theorem loopWord_wf (s : State) (r : Run) (gb : BitVec 6) (kind : Nat) (depth : Nat) (count : Nat) (hwf : s.mem.wf = true) :
    (s.loopWord r gb kind depth count).mem.wf = true := by
  unfold State.loopWord
  dsimp only
  repeat' split
  all_goals simp [hwf]

@[simp] theorem lostGroup_wf (s : State) (r : Run) (hwf : s.mem.wf = true) :
    (s.lostGroup r).mem.wf = true := by
  unfold State.lostGroup
  split <;> simp [hwf]

@[simp] theorem withPayload_wf (s : State) (m : Msg) (go : State → List Byte → List Nat → State) (hwf : s.mem.wf = true) (hgo : ∀
    (u : State) l b, u.mem.wf = true → (go u l b).mem.wf = true) :
    (s.withPayload m go).mem.wf = true := by
  unfold State.withPayload
  split
  · exact hgo _ _ _ hwf
  · split
    · exact hwf
    · refine withRead_wf _ _ _ _ _ _ _ hwf (fun u e k hu => ?_) fun u l b hu => hgo _ _ _ hu
      dsimp only
      split
      · exact hu
      · exact faultReq_wf _ _ _ _ _ _ hu

@[simp] theorem storeMsg_wf (s : State) (m : Msg) (hwf : s.mem.wf = true) :
    (s.storeMsg m).mem.wf = true := by
  unfold State.storeMsg
  split <;> simp [hwf]

@[simp] theorem messageArrival_wf (s : State) (die : Nat) (k : Nat) (hwf : s.mem.wf = true) :
    (s.messageArrival die k).mem.wf = true := by
  unfold State.messageArrival
  dsimp only
  repeat' split
  all_goals simp [hwf]

@[simp] theorem requestLost_wf (s : State) (run : Nat) (cause : LostCause) (hwf : s.mem.wf = true) :
    (s.requestLost run cause).mem.wf = true := by
  unfold State.requestLost
  dsimp only
  repeat' split
  all_goals simp [hwf]

@[simp] theorem totalsAnswer_wf (s : State) (run : Nat) (f : Flit) (hwf : s.mem.wf = true) :
    (s.totalsAnswer run f).mem.wf = true := by
  unfold State.totalsAnswer
  dsimp only
  repeat' split
  all_goals simp [hwf]

@[simp] theorem msgack_wf (s : State) (k : Nat) (f : Flit) (hwf : s.mem.wf = true) :
    (s.msgack k f).mem.wf = true := by
  unfold State.msgack
  split
  · exact hwf
  · refine reply_wf _ _ _ _ hwf fun t u hu => ?_
    repeat' split
    all_goals simp [hu]

@[simp] theorem nextWord_wf (s : State) (r : Run) (hwf : s.mem.wf = true) :
    (s.nextWord r).mem.wf = true := by
  simp [State.nextWord, hwf]

@[simp] theorem ownerWrites_wf (s : State) (m : OwnMsg) (hwf : s.mem.wf = true) :
    (s.ownerWrites m).mem.wf = true := by
  unfold State.ownerWrites
  split
  · simp [hwf]
  split
  · exact hwf
  · rename_i hu
    have hu := yieldTo_wf hwf hu
    dsimp only
    split <;> simp [hu]

@[simp] theorem ownerUpdate_wf (s : State) (m : OwnMsg) (hwf : s.mem.wf = true) :
    (s.ownerUpdate m).mem.wf = true := by
  unfold State.ownerUpdate
  extract_lets -lift +onlyGivenNames bound n key up
  clear_value bound n key up
  split
  · simp [hwf]
  split
  · have hs1 := noteRead_wf s (some (s.identity m.run)) m.slot m.rel 64 hwf
    generalize s.noteRead (some (s.identity m.run)) m.slot m.rel 64 = s1 at hs1 ⊢
    extract_lets -lift +onlyGivenNames ws
    clear_value ws
    split
    · rw [countApplied_mem, raise_mem, ownerTook_mem, withOrd_mem]
      exact hs1
    · refine ownerWrites_wf _ _ ?_
      rw [raise_mem, modDie_mem, withOrd_mem]
      exact hs1
  · split
    · simp [hwf]
    · exact hwf
  · split
    · simp [hwf]
    · exact hwf
  · simp [hwf]

@[simp] theorem ownerTake_wf (s : State) (m : OwnMsg) (hwf : s.mem.wf = true) :
    (s.ownerTake m).mem.wf = true := by
  unfold State.ownerTake
  repeat' split
  all_goals simp [hwf]

@[simp] theorem ownerApply_wf (s : State) (die : Nat) (input : Nat) (hwf : s.mem.wf = true) :
    (s.ownerApply die input).mem.wf = true := by
  unfold State.ownerApply
  dsimp only
  repeat' split
  all_goals simp [hwf]

@[simp] theorem trapUndo_wf (s : State) (a : Access) (t : Trap) (hwf : s.mem.wf = true) :
    (s.trapUndo a t).mem.wf = true := by
  simp [State.trapUndo, hwf]

@[simp] theorem pinAt_wf (s : State) (a : Access) (r : Run) (phys : Nat) (hwf : s.mem.wf = true) :
    (s.pinAt a r phys).mem.wf = true := by
  unfold State.pinAt
  dsimp only
  repeat' split
  all_goals simp [hwf]

@[simp] theorem unpinAt_wf (s : State) (a : Access) (r : Run) (hwf : s.mem.wf = true) :
    (s.unpinAt a r).mem.wf = true := by
  unfold State.unpinAt
  dsimp only
  repeat' split
  all_goals simp [hwf]

@[simp] theorem performAt_wf (s : State) (a : Access) (r : Run) (p : Place) (hwf : s.mem.wf = true) :
    (s.performAt a r p).mem.wf = true := by
  unfold State.performAt
  dsimp only
  repeat' split
  all_goals simp [hwf]

@[simp] theorem waveAt_wf (s : State) (a : Access) (r : Run) (p : Place) (k : Nat) (hwf : s.mem.wf = true) :
    (s.waveAt a r p k).mem.wf = true := by
  unfold State.waveAt
  dsimp only
  repeat' split
  all_goals simp [hwf]

@[simp] theorem performAcc_wf (s : State) (a : Access) (hwf : s.mem.wf = true) :
    (s.performAcc a).mem.wf = true := by
  unfold State.performAcc
  dsimp only
  repeat' split
  all_goals simp [hwf]

@[simp] theorem performHost_wf (s : State) (id : Nat) (hwf : s.mem.wf = true) :
    (s.performHost id).mem.wf = true := by
  unfold State.performHost
  split
  · exact hwf
  split
  · exact hwf
  split
  · simp [hwf]
  dsimp only
  split
  · split
    · exact hwf
    · rename_i ht
      exact (request_mem ht) ▸ hwf
  · split <;> simp [hwf]

@[simp] theorem performRec_wf (s : State) (point : Nat) (id : Nat) (hwf : s.mem.wf = true) :
    (s.performRec point id).mem.wf = true := by
  unfold State.performRec
  split
  · exact hwf
  extract_lets -lift +onlyGivenNames pass
  split
  · exact hwf
  split
  · exact hwf
  split
  · simp [hwf]
  split
  · split
    · rename_i ht
      rw [modRec_mem, request_mem ht, hwf]
    · exact hwf
  · simp [hwf]

@[simp] theorem performUnit_wf (s : State) (a : Access) (u : Nat) (hwf : s.mem.wf = true) :
    (s.performUnit a u).mem.wf = true := by
  unfold State.performUnit
  dsimp only
  repeat' split
  all_goals simp [hwf]

@[simp] theorem perform_wf (s : State) (p : PerfRef) (hwf : s.mem.wf = true) :
    (s.perform p).mem.wf = true := by
  unfold State.perform
  repeat' split
  all_goals simp_all

@[simp] theorem planeExchange_wf (s : State) (run : Nat) (hwf : s.mem.wf = true) :
    (s.planeExchange run).mem.wf = true := by
  unfold State.planeExchange
  repeat' split
  all_goals simp [hwf]

@[simp] theorem priResponse_wf (s : State) (id : Nat) (success : Bool) (late : Bool) (hwf : s.mem.wf = true) :
    (s.priResponse id success late).mem.wf = true := by
  unfold State.priResponse
  repeat' split
  all_goals simp [hwf]

@[simp] theorem takeTrapDone_wf (s : State) (run : Nat) (t : Trap) (i : FaultInfo) (hwf : s.mem.wf = true) :
    (s.takeTrapDone run t i).mem.wf = true := by
  simp [State.takeTrapDone, hwf]

@[simp] theorem deliver_wf {s' : State} {x : FireIn} {i : Instr} (hwf : x.s.mem.wf = true)
    (ht : (deliver x i) = some s') : s'.mem.wf = true := by
  unfold deliver at ht
  split at ht
  · cases ht
  split at ht
  · cases ht
  split at ht
  · cases ht
    simp [hwf]
  · obtain ⟨b, -, rfl⟩ := Option.map_eq_some_iff.mp ht
    simpa using hwf

@[simp] theorem fireNow_wf (x : FireIn) (i : Instr) (body : FireIn → Fire) (hwf : x.s.mem.wf = true) (hbody : EffSafe (body x)) :
    (fireNow x i body).mem.wf = true := by
  unfold fireNow
  split
  · exact hwf
  · simp [hwf]
  · simp [hwf]
  · rename_i a ha
    rw [ha] at hbody
    cases ht : x.fireAct i a with
    | none => exact hwf
    | some t => exact FireIn_fireAct_wf hwf hbody ht

@[simp] theorem fireElement_wf (i : Instr) (body : FireIn → Fire) (s : State) (hwf : s.mem.wf = true)
    (hbody : ∀ x : FireIn, x.s.mem.wf = true → EffSafe (body x)) :
    (fireElement i body s).mem.wf = true := by
  unfold fireElement
  split
  · split
    · exact hwf
    split
    · exact hwf
    dsimp only
    split
    · exact hwf
    split
    · rename_i ht
      exact deliver_wf hwf ht
    split
    · exact hwf
    split
    · exact hwf
    split
    · exact hwf
    · exact fireNow_wf _ _ _ hwf (hbody _ hwf)
  · exact hwf

@[simp] theorem brkHold_wf {s' : State} {f : Fab} {s : State} (hwf : s.mem.wf = true)
    (ht : (brkHold f s) = some s') : s'.mem.wf = true := by
  unfold brkHold at ht
  split at ht
  · cases ht
  split at ht
  · cases ht
  dsimp only at ht
  split at ht
  · cases ht
    simp [hwf]
  · cases ht

@[simp] theorem probeEnd_wf (s : State) (run : Nat) (hwf : s.mem.wf = true) :
    (s.probeEnd run).mem.wf = true := by
  unfold State.probeEnd
  dsimp only
  repeat' split
  all_goals simp [hwf]

@[simp] theorem rdreq_wf (s : State) (k : Nat) (f : Flit) (hwf : s.mem.wf = true) :
    (s.rdreq k f).mem.wf = true := by
  refine serve_wf _ _ _ _ _ _ _ hwf fun u hu => ?_
  refine unlessHeld_wf _ _ _ hu fun v hv => ?_
  repeat' split
  all_goals simp [hv]

@[simp] theorem rdrsp_wf (s : State) (k : Nat) (f : Flit) (hwf : s.mem.wf = true) :
    (s.rdrsp k f).mem.wf = true := by
  refine reply_wf _ _ _ _ hwf fun t u hu => ?_
  split
  · simp [hu]
  · refine replyAcc_wf _ _ _ _ hu fun a => ?_
    dsimp only
    repeat' split
    all_goals simp [hu]

@[simp] theorem writeRecord_wf {s' : State} {s : State} {r : Run} (hwf : s.mem.wf = true)
    (ht : (s.writeRecord r) = some s') : s'.mem.wf = true := by
  unfold State.writeRecord at ht
  dsimp only at ht
  split at ht
  · cases ht
    exact hwf
  · cases hv : State.vwrite _ _ _ _ with
    | error e => rw [hv] at ht; cases ht
    | ok u =>
      rw [hv] at ht
      cases ht
      exact vwrite_wf (by exact hwf) hv
  · cases ht
    exact foldl_wf (fun s c hs => hbmWrite_wf _ _ _ hs) _ hwf

@[simp] theorem readoutComplete_wf (s : State) (run : Nat) (hwf : s.mem.wf = true) :
    (s.readoutComplete run).mem.wf = true := by
  unfold State.readoutComplete
  split
  · exact hwf
  split
  · exact hwf
  split
  · simp [hwf]
  split
  · exact hwf
  dsimp only
  split
  · simp [hwf]
  · rename_i ht
    have hu := writeRecord_wf (logMaskMiss_wf _ _ hwf) ht
    simp [hu]

@[simp] theorem readyToken_wf (s : State) (hwf : s.mem.wf = true) :
    (s.readyToken).mem.wf = true := by
  unfold State.readyToken
  dsimp only
  repeat' split
  all_goals simp [hwf]

@[simp] theorem reloadCheck_wf (s : State) (run : Nat) (hwf : s.mem.wf = true) :
    (s.reloadCheck run).mem.wf = true := by
  unfold State.reloadCheck
  split <;> simp [hwf]

@[simp] theorem rendezvousPull_wf (s : State) (die : Nat) (k : Nat) (hwf : s.mem.wf = true) :
    (s.rendezvousPull die k).mem.wf = true := by
  unfold State.rendezvousPull
  repeat' split
  all_goals simp [hwf]

@[simp] theorem restoreComplete_wf (s : State) (run : Nat) (hwf : s.mem.wf = true) :
    (s.restoreComplete run).mem.wf = true := by
  unfold State.restoreComplete
  repeat' split
  all_goals simp [hwf]

theorem Marks_mark_wf (m : Marks) (slot va : Nat) (h : Line) (i : Nat) (t : Slot) (hm : m.s.mem.wf = true) :
    (m.mark slot va h i t).s.mem.wf = true := by
  unfold Marks.mark
  split
  · exact hm
  · rename_i ht
    have hu := putSlot_wf hm ht
    dsimp only
    split <;> simp [hu]

theorem Marks_named_wf (slot : Nat) (hs : List (Nat × Line)) (m : Marks) (e : BitVec 256) (hm : m.s.mem.wf = true) :
    (Marks.named slot hs m e).s.mem.wf = true := by
  unfold Marks.named
  split
  · split
    · exact hm
    · split
      · exact Marks_mark_wf _ _ _ _ _ _ hm
      · exact hm
    · exact hm
  · exact hm

theorem Marks_scanSlot_wf (slot : Nat) (img : Option Image) (va : Nat) (h : Line) (m : Marks) (i : Nat) (hm : m.s.mem.wf = true) :
    (Marks.scanSlot slot img va h m i).s.mem.wf = true := by
  unfold Marks.scanSlot
  split
  · exact hm
  split
  · exact hm
  dsimp only
  split
  · exact hm
  split
  · exact hm
  split
  · exact hm
  · exact hm
  · split
    · exact Marks_mark_wf _ _ _ _ _ _ hm
    · exact hm

theorem Marks_scanFrom_wf (slot : Nat) (img : Option Image) (va : Nat) (h : Line) (fuel i : Nat) (m : Marks) (hm : m.s.mem.wf = true) :
    (Marks.scanFrom slot img va h fuel i m).s.mem.wf = true := by
  induction fuel generalizing i m with
  | zero => exact hm
  | succ fuel ih => exact ih _ _ (Marks_scanSlot_wf _ _ _ _ _ _ hm)

theorem foldl_scanFrom_wf (slot : Nat) (img : Option Image) (hs : List (Nat × Line)) (m : Marks) (hm : m.s.mem.wf = true) :
    (hs.foldl (fun m x => Marks.scanFrom slot img x.1 x.2 (2 ^ hdrLcap x.2) 0 m) m).s.mem.wf = true := by
  induction hs generalizing m with
  | nil => exact hm
  | cons x xs ih => exact ih _ (Marks_scanFrom_wf _ _ _ _ _ _ _ hm)

theorem Marks_scans_wf (slot : Nat) (img : Option Image) (hs : List (Nat × Line)) (fuel : Nat) (m : Marks) (hm : m.s.mem.wf = true) :
    (Marks.scans slot img hs fuel m).s.mem.wf = true := by
  induction fuel generalizing m with
  | zero => exact hm
  | succ fuel ih =>
    have h := foldl_scanFrom_wf slot img hs m hm
    unfold Marks.scans
    dsimp only
    split
    · exact h
    · exact ih _ h

theorem foldl_named_wf (slot : Nat) (hs : List (Nat × Line)) (es : List (BitVec 256)) (m : Marks) (hm : m.s.mem.wf = true) :
    (es.foldl (Marks.named slot hs) m).s.mem.wf = true := by
  induction es generalizing m with
  | nil => exact hm
  | cons e es ih => exact ih _ (Marks_named_wf _ _ _ _ hm)

@[simp] theorem retractComplete_wf (s : State) (run : Nat) (hwf : s.mem.wf = true) :
    (s.retractComplete run).mem.wf = true := by
  unfold State.retractComplete
  split
  · exact hwf
  split
  · split
    · exact hwf
    split
    · simp [hwf]
    · have hm (n : Nat) (hs : List (Nat × Line)) (es : List (BitVec 256)) (r : Run) :=
        Marks_scans_wf r.slot (s.image? r) hs n _ (foldl_named_wf r.slot hs es ⟨s, 0, none⟩ hwf)
      dsimp only
      split <;> simp [hm]
  · exact hwf

@[simp] theorem retractWord_wf (s : State) (r : Run) (gb : BitVec 6) (rlist : Nat) (hwf : s.mem.wf = true) :
    (s.retractWord r gb rlist).mem.wf = true := by
  unfold State.retractWord
  repeat' split
  all_goals simp [hwf]

@[simp] theorem rotateRel_wf (s : State) (r : Run) (va : Nat) (hwf : s.mem.wf = true) :
    (s.rotateRel r va).mem.wf = true := by
  unfold State.rotateRel
  split
  · split
    · exact hwf
    · dsimp only
      rw [modRun_mem]
      split
      · rename_i ht
        exact vwrite_wf (by simp [hwf]) ht
      · simp [hwf]
  · exact hwf

@[simp] theorem rotateAck_wf (s : State) (run : Nat) (k : Nat) (hwf : s.mem.wf = true) :
    (s.rotateAck run k).mem.wf = true := by
  unfold State.rotateAck
  dsimp only
  repeat' split
  all_goals simp [hwf]

@[simp] theorem rotateWord_wf (s : State) (r : Run) (rlist : Nat) (hwf : s.mem.wf = true) :
    (s.rotateWord r rlist).mem.wf = true := by
  unfold State.rotateWord
  dsimp only
  repeat' split
  all_goals simp [hwf]

@[simp] theorem sectorDone_wf (s : State) (id : Nat) (k : Nat) (hwf : s.mem.wf = true) :
    (s.sectorDone id k).mem.wf = true := by
  unfold State.sectorDone
  split
  · exact hwf
  split
  · exact hwf
  rename_i q _ _ r _
  extract_lets -lift +onlyGivenNames p live toStream
  clear_value toStream live
  split
  · exact hwf
  split
  · split
    · simp [hwf]
    · split
      · simp [hwf]
      · exact hwf
  split
  · exact hwf
  extract_lets -lift +onlyGivenNames n
  split
  · simp [hwf]
  split
  · simp [hwf]
  split
  · exact hwf
  · refine withRead_wf _ _ _ _ _ _ _ hwf (fun u e x hu => failSector_wf _ _ _ _ _ _ _ hu) fun u bs psn hu => ?_
    split
    · exact failSector_wf _ _ _ _ _ _ _ hu
    · simp [hu]

@[simp] theorem woWrite_wf (s : State) (b : WoRef) (hwf : s.mem.wf = true) :
    (s.woWrite b).mem.wf = true := by
  unfold State.woWrite
  split
  · exact hwf
  dsimp only
  split
  · exact hwf
  · split
    · split <;> simp [hwf]
    · split <;> simp [hwf]
    · simp [hwf]
    · simp [hwf]
    · split
      · simp [hwf]
      · rw [modBuf_mem, woTake_mem]
        have hw (r : Run) (p t a : Nat) (bs : List Byte) := bankWrite_wf s r p t a bs hwf
        split
        · exact mems_wf.mpr (mems_wf.mp (hw _ _ _ _ _))
        · exact hw _ _ _ _ _

@[simp] theorem servePorts_wf (s : State) (hwf : s.mem.wf = true) :
    (s.servePorts).mem.wf = true := by
  exact foldl_wf (fun s b hs => woWrite_wf _ _ hs) _ (foldl_wf (fun s b hs => by simp [hs]) _ hwf)

@[simp] theorem shadowLoad_wf (s : State) (run : Nat) (hwf : s.mem.wf = true) :
    (s.shadowLoad run).mem.wf = true := by
  unfold State.shadowLoad
  dsimp only
  repeat' split
  all_goals simp [hwf]

@[simp] theorem shadowWord_wf (s : State) (r : Run) (ga : BitVec 6) (cfg : Nat) (hwf : s.mem.wf = true) :
    (s.shadowWord r ga cfg).mem.wf = true := by
  simp [State.shadowWord, hwf]

@[simp] theorem stashTimeout_wf (s : State) (id : Nat) (hwf : s.mem.wf = true) :
    (s.stashTimeout id).mem.wf = true := by
  unfold State.stashTimeout
  repeat' split
  all_goals simp [hwf]

@[simp] theorem streamWord_wf (s : State) (r : Run) (gb : BitVec 6) (port : Nat) (gen : Nat) (entry : Nat) (hwf : s.mem.wf = true) :
    (s.streamWord r gb port gen entry).mem.wf = true := by
  unfold State.streamWord
  split <;> simp [hwf]

@[simp] theorem swapWord_wf (s : State) (r : Run) (hwf : s.mem.wf = true) :
    (s.swapWord r).mem.wf = true := by
  unfold State.swapWord
  dsimp only
  repeat' split
  all_goals simp [hwf]

@[simp] theorem translationFault_wf (s : State) (id : Nat) (hwf : s.mem.wf = true) :
    (s.translationFault id).mem.wf = true := by
  unfold State.translationFault
  repeat' split
  all_goals simp [hwf]

@[simp] theorem trapsWord_wf (s : State) (r : Run) (code : Nat) (hwf : s.mem.wf = true) :
    (s.trapsWord r code).mem.wf = true := by
  unfold State.trapsWord
  repeat' split
  all_goals simp [hwf]

@[simp] theorem txAbort_wf (s : State) (b : BlkRef) (k : Nat) (c : TxCause) (hwf : s.mem.wf = true) :
    (s.txAbort b k c).mem.wf = true := by
  have hdrop : (s.dropWaves b k).mem.wf = true := by rw [dropWaves_mem]; exact hwf
  unfold State.txAbort
  dsimp only
  repeat' split
  all_goals simp [hwf, hdrop]

@[simp] theorem uncorrectable_wf (s : State) (t : ErrTarget) (hwf : s.mem.wf = true) :
    (s.uncorrectable t).mem.wf = true := by
  have hlog (u : State) (die code : Nat) (kind : Option Nat) (run site peer addr : Option Nat) (hu : u.mem.wf = true) :
      (u.logEvent die code kind run site peer addr).mem.wf = true := logEvent_wf _ _ _ _ _ _ _ _ hu
  unfold State.uncorrectable
  split
  · simp [hwf]
  · simp [hwf]
  · split
    · exact hwf
    · exact hlog _ _ _ _ _ _ _ _ hwf
  · split
    · exact hwf
    · split
      · simp [hwf]
      · exact hwf
  · split <;> simp [hwf]
  · split <;> simp [hwf]
  · simp [hwf]
  · simp [hwf]
  · simp [hwf]
  · split
    · exact hwf
    · refine hlog _ _ _ _ _ _ _ _ ?_
      rw [modRun_mem]
      exact hwf
  · simp [hwf]
  · split
    · exact hwf
    · split
      · exact hwf
      · refine hlog _ _ _ _ _ _ _ _ ?_
        rw [modRec_mem]
        exact hwf
  · extract_lets -lift +onlyGivenNames mine
    clear_value mine
    split
    · exact hwf
    · exact hlog _ _ _ _ _ _ _ _ hwf
  · split
    · split
      · exact hwf
      · refine hlog _ _ _ _ _ _ _ _ ?_
        rw [dropWaves_mem]
        exact hwf
    · exact hwf
  · refine hlog _ _ _ _ _ _ _ _ ?_
    split
    · exact hwf
    · rw [setDslot_mem]
      exact hwf
  · split
    · exact hwf
    · refine hlog _ _ _ _ _ _ _ _ ?_
      rw [complete_mem]
      exact hwf
  · split
    · exact hwf
    · refine hlog _ _ _ _ _ _ _ _ ?_
      rw [sendStatus_mem]
      exact hwf
  · split
    · exact hwf
    · refine hlog _ _ _ _ _ _ _ _ ?_
      rw [monitorDone_mem]
      exact hwf

@[simp] theorem validated_wf (s : State) (k : Nat) (hwf : s.mem.wf = true) :
    (s.validated k).mem.wf = true := by
  unfold State.validated
  split
  · exact hwf
  dsimp only
  split
  · exact foldl_wf (fun s l hs => by simp [hs]) _ hwf
  · rename_i ht
    have hu := imageFor_wf hwf ht
    exact foldl_wf (fun s l hs => by simp [hs]) _ hu

@[simp] theorem waitTok_wf (s : State) (r : Run) (ga : BitVec 6) (e : Nat) (hwf : s.mem.wf = true) :
    (s.waitTok r ga e).mem.wf = true := by
  unfold State.waitTok
  dsimp only
  repeat' split
  all_goals simp [hwf]

@[simp] theorem wrack_wf (s : State) (k : Nat) (f : Flit) (hwf : s.mem.wf = true) :
    (s.wrack k f).mem.wf = true := by
  refine reply_wf _ _ _ _ hwf fun t u hu => ?_
  split
  · simp [hu]
  · simp [hu]
  · refine replyAcc_wf _ _ _ _ hu fun a => ?_
    dsimp only
    repeat' split
    all_goals simp [hu]

@[simp] theorem writeG_wf (s : State) (r : Run) (ga : BitVec 6) (v : W64) (hwf : s.mem.wf = true) :
    (s.writeG r ga v).mem.wf = true := by
  simp [State.writeG, hwf]

@[simp] theorem wrreq_wf (s : State) (k : Nat) (f : Flit) (hwf : s.mem.wf = true) :
    (s.wrreq k f).mem.wf = true := by
  refine serve_wf _ _ _ _ _ _ _ hwf fun u hu => ?_
  refine unlessHeld_wf _ _ _ hu fun v hv => ?_
  dsimp only
  rw [replyFlit_mem]
  repeat' split
  all_goals simp [hv]

@[simp] theorem notInHandler_wf (s : State) (r : Run) (go : State) (hwf : s.mem.wf = true) (hgo : go.mem.wf = true) :
    (notInHandler s r go).mem.wf = true := by
  unfold notInHandler
  repeat' split
  all_goals simp_all

end Sys2Proof.Proofs.Canonical
end

section
/-! The bodies of the instructions of a block: the effect of what each decides keeps memory canonical. -/

namespace Sys2Proof.Proofs.Canonical
open Sys2Proof.Machine Sys2Proof.Laws

/-- What a request of the delta engine leaves has canonical memory. -/
def DeltaSafe (d : Delta) : Prop := d.s.mem.wf = true

theorem deltaSafe_ite {c : Prop} [Decidable c] {a b : Delta} (ha : DeltaSafe a) (hb : DeltaSafe b) : DeltaSafe (if c then a else b) := by
  split
  · exact ha
  · exact hb

@[simp] theorem FireIn_answer_effSafe (x : FireIn) (k : Taken) (es : List Emit) (eff : State → State) (hk : ∀ u : State, u.mem.wf = true →
    (k.eff u).mem.wf = true) (heff : ∀ u : State, u.mem.wf = true → (eff u).mem.wf = true) :
    EffSafe (FireIn.answer x k es eff) := fun u hu => heff _ (hk u hu)

@[simp] theorem FireIn_ask_effSafe (x : FireIn) (k : Taken) (m : Mark) (targets : List Nat) (now : State → Nat → Option Nat)
    (order : State → Nat → ElemRef × Nat → State) (hk : ∀ u : State, u.mem.wf = true → (k.eff u).mem.wf = true) (horder : ∀
    (u : State) n who, u.mem.wf = true → (order u n who).mem.wf = true) :
    EffSafe (FireIn.ask x k m targets now order) := by
  intro u hu
  dsimp only
  split
  · simp [hk u hu]
  · refine foldl_wf (fun s t hs => ?_) _ (hk u hu)
    split
    · simp [hs]
    · exact horder _ _ _ hs

@[simp] theorem FireIn_delta_effSafe (x : FireIn) (el : Elem) (op : Nat) (n : Nat) (ctrl : W32) (xa : W32) (xc : Nat) (wa : W32) (wc : Nat)
    (takes : List (Nat × Pos)) :
    EffSafe (FireIn.delta x el op n ctrl xa xc wa wc takes) := by
  unfold FireIn.delta
  repeat' split
  all_goals simp +contextual [effSafe_act]

@[simp] theorem FireIn_deltaPoison_effSafe (x : FireIn) (el : Elem) :
    EffSafe (FireIn.deltaPoison x el) := by
  unfold FireIn.deltaPoison
  simp +contextual [effSafe_act]

@[simp] theorem FireIn_enter_effSafe (x : FireIn) (k : Taken) (port : Nat) (m : Mark) (asks : List Ask) (emits : List Emit)
    (after : List OutItem) (hk : ∀ u : State, u.mem.wf = true → (k.eff u).mem.wf = true) :
    EffSafe (FireIn.enter x k port m asks emits after) := by
  unfold FireIn.enter
  dsimp only
  split
  · trivial
  · exact fun u hu => hk u hu

@[simp] theorem FireIn_poisoned_effSafe (x : FireIn) (k : Taken) (vec : Bool) (m : Mark) (hk : ∀ u : State, u.mem.wf = true →
    (k.eff u).mem.wf = true) :
    EffSafe (FireIn.poisoned x k vec m) := 
  FireIn_answer_effSafe x k _ _ hk fun u hu => hu

@[simp] theorem FireIn_relErr_effSafe (va : Nat) (e : HdrErr) :
    EffSafe (FireIn.relErr va e) := by
  unfold FireIn.relErr
  repeat' split
  all_goals simp +contextual

theorem bindDone_safe (x : FireIn) (q : DReq) (hwf : x.s.mem.wf = true) : DeltaSafe (bindDone x q) := by
  have hset (die n : Nat) (v : Line) : (x.s.setDslot die n v).mem.wf = true := by rw [setDslot_mem]; exact hwf
  unfold bindDone
  extract_lets -lift +onlyGivenNames s t
  split
  split
  extract_lets -lift +onlyGivenNames rec_ oo ro ol free place
  have hplace (i : Nat) : DeltaSafe (place i) := by
    refine deltaSafe_ite hwf ?_
    split
    · exact deltaSafe_ite hwf (hset _ _ _)
    · exact hwf
  refine deltaSafe_ite ?_ (deltaSafe_ite hwf (deltaSafe_ite (hplace _) hwf))
  split
  · exact hwf
  · exact hplace _

theorem refDone_safe (x : FireIn) (q : DReq) (drop : Bool) (hwf : x.s.mem.wf = true) : DeltaSafe (refDone x q drop) := by
  have hset (die n : Nat) (v : Line) : (x.s.setDslot die n v).mem.wf = true := by rw [setDslot_mem]; exact hwf
  unfold refDone
  extract_lets -lift +onlyGivenNames s t
  split
  extract_lets -lift +onlyGivenNames n v
  refine deltaSafe_ite hwf (deltaSafe_ite hwf (deltaSafe_ite (hset _ _ _) ?_))
  show State.mem _ |>.wf
  dsimp only
  split
  · exact hset _ _ _
  · exact hwf

theorem mulDone_safe (x : FireIn) (q : DReq) (hwf : x.s.mem.wf = true) : DeltaSafe (mulDone x q) := by
  unfold mulDone
  extract_lets -lift +onlyGivenNames s die t
  split
  split
  extract_lets -lift +onlyGivenNames c
  split
  extract_lets -lift +onlyGivenNames n stop v st ca cb X W d0 xv wv reshape inv refinv drift dlim refdrift full status xs keep show_
  clear_value n v drift dlim refdrift xs die t c st ca cb
  have hkeep (u : State) (v : Line) (ys : List W32) (hu : u.mem.wf = true) : (keep u v ys).mem.wf = true := by
    unfold keep
    split
    · rw [setDslot_mem]
      exact hu
    · exact putArea_wf _ _ _ _ (putArea_wf _ _ _ _ (by rw [setDslot_mem]; exact hu))
  have hshow (u : State) (ys : List W32) (hu : u.mem.wf = true) : (show_ u ys).mem.wf = true := by
    unfold show_
    rw [modRun_mem]
    exact hu
  refine deltaSafe_ite hwf (deltaSafe_ite hwf (deltaSafe_ite hwf (deltaSafe_ite hwf (deltaSafe_ite ?_ ?_))))
  · split
    · exact hwf
    · refine deltaSafe_ite hwf ?_
      exact hshow _ _ (hkeep _ _ _ hwf)
  · exact hshow _ _ (hkeep _ _ _ hwf)

@[simp] theorem deltaComplete_effSafe (id : Nat) (x : FireIn) (a2 : Instr) (hwf : x.s.mem.wf = true) :
    EffSafe (deltaComplete id x a2) := by
  have hdone (q : DReq) : DeltaSafe (if q.op = 0 then bindDone x q else if q.op = 1 then mulDone x q else refDone x q (q.op == 3)) :=
    deltaSafe_ite (bindDone_safe x q hwf) (deltaSafe_ite (mulDone_safe x q hwf) (refDone_safe x q _ hwf))
  unfold deltaComplete
  split
  · trivial
  · rename_i q _
    have hd := hdone q
    generalize (if q.op = 0 then bindDone x q else if q.op = 1 then mulDone x q else refDone x q (q.op == 3)) = d at hd ⊢
    refine effSafe_ite (fun _ => trivial) fun _ => effSafe_ite (fun _ => trivial) fun _ => fun u hu => ?_
    rw [setDreqs_mem]
    dsimp only
    split
    · rw [modRun_mem]
      exact hd
    · exact hd

theorem portEnd_effSafe {x : FireIn} {ks : List Nat} {ps : List Pos} {vec : Bool} {g : Option GenUndo} {eff : State → State} {r : Fire}
    (heff : ∀ u : State, u.mem.wf = true → (eff u).mem.wf = true)
    (hr : (portEnd x ks ps vec g eff) = some r) : EffSafe r := by
  unfold portEnd at hr
  dsimp only at hr
  repeat' split at hr
  all_goals cases hr
  · exact fun u hu => heff u hu
  · trivial

@[simp] theorem memFire_effSafe (a : AccSpec) (x : FireIn) :
    EffSafe (memFire a x) := by
  unfold memFire
  refine effSafe_ite (fun _ => trivial) fun _ => ?_
  split
  · trivial
  extract_lets -lift +onlyGivenNames g active endUndo endEff isEos
  clear_value active g
  have hend (u : State) (hu : u.mem.wf = true) : ((if isEos then endEff else id) u).mem.wf = true := by
    split
    · unfold endEff
      split
      · split
        · exact hu
        · rw [setGen_mem]
          exact hu
      · exact hu
    · exact hu
  split
  · exact portEnd_effSafe hend ‹_›
  · extract_lets -lift +onlyGivenNames ds off vec src taken psn go
    have hgo (va w : Nat) (m : Mark) (k : Taken) (l : Bool) (hk : ∀ u : State, u.mem.wf = true → (k.eff u).mem.wf = true) :
        EffSafe (go va w m k l) := by
      have hk' (c : Prop) [Decidable c] (e : Elem) (u : State) (hu : u.mem.wf = true) :
          ((if c then { k with elem := e } else k).eff u).mem.wf = true := by
        split <;> exact hk u hu
      refine effSafe_ite (fun _ => ?_) fun _ => effSafe_ite (fun _ => trivial) fun _ => ?_
      · refine FireIn_answer_effSafe _ _ _ _ (hk' _ _) fun u hu => ?_
        split
        · exact logEvent_wf _ _ _ _ _ _ _ _ hu
        · exact hu
      · exact FireIn_enter_effSafe _ _ _ _ _ _ _ (hk' _ _)
    refine effSafe_ite (fun _ => ?_) fun _ => hgo _ _ _ _ _ fun u hu => hu
    split
    · refine effSafe_ite (fun _ => effSafe_ite (fun _ => trivial) fun _ => trivial) fun _ => ?_
      split
      split
      exact hgo _ _ _ _ _ fun u hu => by rw [setGen_mem]; exact hu
    · trivial

@[simp] theorem accFire_effSafe (k : AccKindOf) (x : FireIn) :
    EffSafe (accFire k x) := by
  unfold accFire
  repeat' split
  all_goals simp +contextual [effSafe_act]

theorem endPair_effSafe {x : FireIn} {ks : List Nat} {ps : List Pos} {vec : Bool} {r : Fire}
    (hr : (endPair x ks ps vec) = some r) : EffSafe r := by
  unfold endPair at hr
  dsimp only at hr
  repeat' split at hr
  all_goals cases hr
  · exact fun u hu => hu
  · trivial

@[simp] theorem aluFire_effSafe (zp : Bool) (op : FireIn → W32 → Option W32 → W32) (x : FireIn) :
    EffSafe (aluFire zp op x) := by
  unfold aluFire
  dsimp only
  repeat' split
  · trivial
  · exact endPair_effSafe ‹_›
  all_goals exact fun u hu => hu

@[simp] theorem binFire_effSafe (zp : Bool) (op : W32 → W32 → W32) (a2 : FireIn) :
    EffSafe (binFire zp op a2) := by
  unfold binFire
  exact aluFire_effSafe _ _ _

@[simp] theorem insertFire_effSafe (ins : Bool) (x : FireIn) :
    EffSafe (insertFire ins x) := by
  unfold insertFire
  dsimp only
  repeat' split
  all_goals simp +contextual [effSafe_act]

@[simp] theorem attnaccFire_effSafe (x : FireIn) :
    EffSafe (attnaccFire x) := by
  unfold attnaccFire
  dsimp only
  repeat' split
  all_goals simp +contextual [effSafe_act]

@[simp] theorem bardropFire_effSafe (x : FireIn) :
    EffSafe (bardropFire x) := by
  unfold bardropFire
  split
  · split
    · exact endPair_effSafe ‹_›
    · exact effSafe_id rfl
  · trivial

@[simp] theorem bardropGrpFire_effSafe (x : FireIn) :
    EffSafe (bardropGrpFire x) := by
  unfold bardropGrpFire
  split
  · split
    · exact endPair_effSafe ‹_›
    split
    · trivial
    · intro u hu
      dsimp only
      split <;> simp [hu]
  · trivial

@[simp] theorem barjFire_effSafe (x : FireIn) :
    EffSafe (barjFire x) := by
  unfold barjFire
  split
  refine effSafe_ite (fun _ => trivial) fun _ => effSafe_ite (fun _ => ?_) fun _ => ?_
  · split
    · trivial
    · exact effSafe_id rfl
  split
  refine effSafe_ite (fun _ => trivial) fun _ => ?_
  extract_lets -lift +onlyGivenNames n1 drop head arrive c1 el el' eff release eos
  have heff (u : State) (hu : u.mem.wf = true) : (eff u).mem.wf = true := by
    unfold eff
    split <;> exact hu
  have hrelease (c l : Nat) : EffSafe (release c l) := heff
  refine effSafe_ite (fun _ => hrelease _ _) fun _ => effSafe_ite (fun _ => heff) fun _ => effSafe_ite (fun _ => hrelease _ _) fun _ => ?_
  clear_value release eff eos c1 el' el arrive head
  dsimp only
  split
  · exact effSafe_ite (fun _ => heff) fun _ => effSafe_ite (fun _ => heff) fun _ => effSafe_ite (fun _ => heff) fun _ => trivial
  · exact effSafe_ite (fun _ => heff) fun _ => trivial

@[simp] theorem barjGrpFire_effSafe (x : FireIn) :
    EffSafe (barjGrpFire x) := by
  unfold barjGrpFire
  split
  · split
    · exact endPair_effSafe ‹_›
    split
    · trivial
    dsimp only
    split
    · split
      · trivial
      · intro u hu
        dsimp only
        cases ha : State.askGroup _ _ _ _ _ with
        | none => simp [hu]
        | some v => simp [askGroup_mem ha, hu]
    · intro u hu
      simp [hu]
  · trivial

@[simp] theorem brkFire_effSafe (x : FireIn) :
    EffSafe (brkFire x) := by
  unfold brkFire
  repeat' split
  all_goals simp +contextual [effSafe_act]

@[simp] theorem bscoreFire_effSafe (x : FireIn) :
    EffSafe (bscoreFire x) := by
  unfold bscoreFire
  split
  · split
    · exact endPair_effSafe ‹_›
    · exact effSafe_ite (fun _ => effSafe_id rfl) fun _ => effSafe_ite (fun _ => trivial) fun _ => effSafe_id rfl
  · trivial

@[simp] theorem portInput_effSafe (x : FireIn) (vec : Bool) (body : List Pos → Fire) (hbody : ∀ ps, EffSafe (body ps)) :
    EffSafe (portInput x vec body) := by
  unfold portInput
  split
  · trivial
  · split
    · exact portEnd_effSafe (fun u hu => hu) ‹_›
    · exact hbody _

@[simp] theorem messageFire_effSafe (kind : AccKind) (x : FireIn) :
    EffSafe (messageFire kind x) := by
  unfold messageFire
  refine portInput_effSafe _ _ _ fun ps => ?_
  repeat' split
  all_goals simp +contextual

@[simp] theorem unFire_effSafe (zp : Bool) (op : W32 → W32) (a2 : FireIn) :
    EffSafe (unFire zp op a2) := by
  unfold unFire
  exact aluFire_effSafe _ _ _

@[simp] theorem cmergeFire_effSafe (x : FireIn) :
    EffSafe (cmergeFire x) := by
  unfold cmergeFire
  dsimp only
  repeat' split
  all_goals simp +contextual [effSafe_act]

@[simp] theorem constkFire_effSafe (x : FireIn) :
    EffSafe (constkFire x) := by
  unfold constkFire
  dsimp only
  repeat' split
  all_goals simp +contextual [effSafe_act]

@[simp] theorem copyFire_effSafe (x : FireIn) :
    EffSafe (copyFire x) := by
  unfold copyFire
  repeat' split
  all_goals simp +contextual [effSafe_act]

@[simp] theorem ctrIndex_effSafe (x : FireIn) (el : Elem) (p : CtrPass) (once : Bool) :
    EffSafe (ctrIndex x el p once) := by
  unfold ctrIndex
  simp +contextual [effSafe_act]

@[simp] theorem ctrGo_effSafe (x : FireIn) :
    EffSafe (ctrGo x) := by
  unfold ctrGo
  dsimp only
  repeat' split
  all_goals simp +contextual [effSafe_act]

@[simp] theorem ctrOnce_effSafe (x : FireIn) (n : Nat) :
    EffSafe (ctrOnce x n) := by
  unfold ctrOnce
  repeat' split
  all_goals simp +contextual [effSafe_act]

@[simp] theorem ctrFire_effSafe (x : FireIn) :
    EffSafe (ctrFire x) := by
  unfold ctrFire
  repeat' split
  all_goals simp +contextual

@[simp] theorem slotFire_effSafe (op : Nat) (x : FireIn) :
    EffSafe (slotFire op x) := by
  unfold slotFire
  split
  · trivial
  split
  · exact endPair_effSafe ‹_›
  · exact effSafe_ite (fun _ => by simp) fun _ => by simp

@[simp] theorem dlmulFire_effSafe (x : FireIn) :
    EffSafe (dlmulFire x) := by
  unfold dlmulFire
  dsimp only
  repeat' split
  all_goals simp +contextual [effSafe_act]

@[simp] theorem dropFire_effSafe (x : FireIn) :
    EffSafe (dropFire x) := by
  unfold dropFire
  repeat' split
  all_goals simp +contextual [effSafe_act]

@[simp] theorem egressFire_effSafe (x : FireIn) :
    EffSafe (egressFire x) := by
  unfold egressFire
  repeat' split
  all_goals simp +contextual

@[simp] theorem evictFire_effSafe (x : FireIn) :
    EffSafe (evictFire x) := by
  unfold evictFire
  refine portInput_effSafe _ _ _ fun ps => ?_
  dsimp only
  repeat' split
  all_goals simp +contextual [effSafe_act]

@[simp] theorem evictResetFire_effSafe (x : FireIn) :
    EffSafe (evictResetFire x) := by
  unfold evictResetFire
  refine portInput_effSafe _ _ _ fun ps => ?_
  dsimp only
  repeat' split
  all_goals simp +contextual

@[simp] theorem fenceFire_effSafe (x : FireIn) :
    EffSafe (fenceFire x) := by
  unfold fenceFire
  refine portInput_effSafe _ _ _ fun ps => ?_
  simp +contextual

@[simp] theorem freezeFire_effSafe (x : FireIn) :
    EffSafe (freezeFire x) := by
  unfold freezeFire
  refine portInput_effSafe _ _ _ fun ps => ?_
  repeat' split
  all_goals simp +contextual

@[simp] theorem gatePass_eff (x : FireIn) (el : Elem) (left : Nat) (p : Pos) :
    (gatePass x el left p).eff = id := rfl

@[simp] theorem gateFire_effSafe (x : FireIn) :
    EffSafe (gateFire x) := by
  unfold gateFire
  dsimp only
  repeat' split
  all_goals simp +contextual [effSafe_act]

@[simp] theorem relInput_effSafe (x : FireIn) (body : Pos → Fire) (hbody : ∀ p, EffSafe (body p)) :
    EffSafe (relInput x body) := by
  unfold relInput
  split
  · trivial
  split
  · exact endPair_effSafe ‹_›
  split
  · exact fun u hu => hu
  split
  · exact fun u hu => hu
  · exact hbody _

@[simp] theorem gradbFire_effSafe (x : FireIn) :
    EffSafe (gradbFire x) := by
  unfold gradbFire
  refine relInput_effSafe _ _ fun p => ?_
  dsimp only
  repeat' split
  all_goals simp +contextual [effSafe_act]

@[simp] theorem grantFire_effSafe (x : FireIn) :
    EffSafe (grantFire x) := by
  refine portInput_effSafe _ _ _ fun ps => ?_
  dsimp only
  split
  · exact FireIn_answer_effSafe _ _ _ _ (fun u hu => hu) fun u hu => hu
  split
  · intro u hu
    simp [hu]
  split
  · intro u hu
    simp [hu]
  split
  · trivial
  · intro u hu
    dsimp only
    cases ha : State.request _ _ _ _ _ _ _ _ _ _ _ with
    | none => simp [hu]
    | some v => simp [request_mem ha, hu]

@[simp] theorem probeEnd_effSafe (x : FireIn) (p : Pos) (held : Option Token) :
    EffSafe (probeEnd x p held) := by
  unfold probeEnd
  repeat' split
  all_goals simp +contextual [effSafe_act]

@[simp] theorem hprobeFire_effSafe (x : FireIn) :
    EffSafe (hprobeFire x) := by
  refine relInput_effSafe _ _ fun p => ?_
  extract_lets -lift +onlyGivenNames va
  split
  · simp
  extract_lets -lift +onlyGivenNames n cols pairs
  split
  · simp
  split
  extract_lets -lift +onlyGivenNames cur
  refine effSafe_ite (fun _ => probeEnd_effSafe _ _ _) fun _ => ?_
  extract_lets -lift +onlyGivenNames i
  split
  · simp
  extract_lets -lift +onlyGivenNames src go out key
  have hgo (a : Option Token) (b : List Emit) (c : Flags) : EffSafe (go a b c) := effSafe_id rfl
  refine effSafe_ite (fun _ => hgo _ _ _) fun _ => effSafe_ite (fun _ => probeEnd_effSafe _ _ _) fun _ =>
    effSafe_ite (fun _ => probeEnd_effSafe _ _ _) fun _ => effSafe_ite (fun _ => ?_) fun _ => effSafe_ite
        (fun _ => effSafe_id rfl) fun _ => hgo _ _ _
  refine effSafe_ite (fun _ => trivial) fun _ => ?_
  split
  extract_lets -lift +onlyGivenNames seen'
  split
  · exact effSafe_id rfl
  · exact effSafe_id rfl

@[simp] theorem ingressFire_effSafe (x : FireIn) :
    EffSafe (ingressFire x) := by
  unfold ingressFire
  dsimp only
  repeat' split
  all_goals simp +contextual [effSafe_act]

@[simp] theorem gatherFire_effSafe (store : Bool) (x : FireIn) :
    EffSafe (gatherFire store x) := by
  unfold gatherFire
  refine portInput_effSafe _ _ _ fun ps => ?_
  dsimp only
  repeat' split
  all_goals simp +contextual

@[simp] theorem drainStart_eff (x : FireIn) (d : Drain) :
    (drainStart x d).eff = id := by
  unfold drainStart
  dsimp only
  repeat' split
  all_goals rfl

@[simp] theorem mdrainFire_effSafe (all : Bool) (i : Instr) (x : FireIn) :
    EffSafe (mdrainFire all i x) := by
  unfold mdrainFire
  dsimp only
  repeat' split
  all_goals simp +contextual [effSafe_act]

@[simp] theorem mergeData_effSafe (x : FireIn) (el : Elem) (k : Nat) (psn : Bool) :
    EffSafe (mergeData x el k psn) := by
  unfold mergeData
  repeat' split
  all_goals simp +contextual [effSafe_act]

@[simp] theorem mergeFire_effSafe (x : FireIn) :
    EffSafe (mergeFire x) := by
  unfold mergeFire
  dsimp only
  repeat' split
  all_goals simp +contextual [effSafe_act]

@[simp] theorem mmaFire_effSafe (x : FireIn) :
    EffSafe (mmaFire x) := by
  unfold mmaFire
  split
  split
  · trivial
  refine effSafe_ite (fun _ => effSafe_ite (fun _ => effSafe_id rfl) fun _ => trivial) fun _ => effSafe_ite (fun _ => trivial) fun _ =>
    effSafe_ite (fun _ => trivial) fun _ => effSafe_ite (fun _ => trivial) fun _ => effSafe_ite (fun _ => trivial) fun _ =>
    effSafe_ite (fun _ => trivial) fun _ => effSafe_ite (fun _ => trivial) fun _ => effSafe_id rfl

@[simp] theorem mopfFire_effSafe (x : FireIn) :
    EffSafe (mopfFire x) := by
  unfold mopfFire
  extract_lets -lift +onlyGivenNames p tmask base n
  split
  split
  · trivial
  extract_lets -lift +onlyGivenNames src src' bytes tiles write
  have hwrite (u : State) (hu : u.mem.wf = true) : (write u).mem.wf = true := foldl_wf (fun s t hs => bankWrite_wf _ _ _ _ _ _ hs) _ hu
  exact effSafe_ite (fun _ => effSafe_ite (fun _ => effSafe_id rfl) fun _ => trivial) fun _ => effSafe_ite (fun _ => hwrite) fun _ => hwrite

@[simp] theorem negateFire_effSafe (x : FireIn) :
    EffSafe (negateFire x) := by
  unfold negateFire
  refine relInput_effSafe _ _ fun p => ?_
  dsimp only
  repeat' split
  all_goals simp +contextual [effSafe_act]

@[simp] theorem ownerFire_effSafe (act : FireIn → State → Run → Nat × State) (x : FireIn) (hwf : x.s.mem.wf = true) (hact : ∀ r,
    (act x x.s r).2.mem.wf = true) :
    EffSafe (ownerFire act x) := by
  refine portInput_effSafe _ _ _ fun ps => ?_
  dsimp only
  split
  · exact FireIn_poisoned_effSafe _ _ _ _ fun u hu => hu
  · exact FireIn_answer_effSafe _ _ _ _ (fun u hu => hu) fun u hu => hact x.run

@[simp] theorem portToken_effSafe (x : FireIn) (body : Token → Taken → Fire) (hbody : ∀ t k, k.eff = id → EffSafe (body t k)) :
    EffSafe (portToken x body) := by
  unfold portToken
  split
  · trivial
  · dsimp only
    split
    · exact FireIn_answer_effSafe _ _ _ _ (fun u hu => hu) fun u hu => hu
    · exact hbody _ _ rfl

@[simp] theorem pinFire_effSafe (x : FireIn) :
    EffSafe (pinFire x) := by
  unfold pinFire
  refine portToken_effSafe _ _ fun t k hk => ?_
  repeat' split
  all_goals simp +contextual [hk]

@[simp] theorem sampleAct_eff (x : FireIn) (p : Pos) (v : W64) :
    (sampleAct x p v).eff = id := by
  unfold sampleAct
  repeat' split
  all_goals rfl

@[simp] theorem sampleFire_effSafe (value : FireIn → W64) (x : FireIn) :
    EffSafe (sampleFire value x) := by
  unfold sampleFire
  split
  · split
    · exact endPair_effSafe ‹_›
    · intro u hu
      simp [hu]
  · trivial

@[simp] theorem privTrap_effSafe (n : Nat) :
    EffSafe (privTrap n) := by
  simp [privTrap]

@[simp] theorem rdsysFire_effSafe (x : FireIn) :
    EffSafe (rdsysFire x) := by
  unfold rdsysFire
  split
  · split
    · exact endPair_effSafe ‹_›
    · exact effSafe_ite (fun _ => by simp) fun _ => effSafe_id (by simp)
  · trivial

@[simp] theorem readoutFire_effSafe (x : FireIn) :
    EffSafe (readoutFire x) := by
  unfold readoutFire
  refine portInput_effSafe _ _ _ fun ps => ?_
  repeat' split
  all_goals simp +contextual

@[simp] theorem restoreFire_effSafe (x : FireIn) :
    EffSafe (restoreFire x) := by
  unfold restoreFire
  refine portInput_effSafe _ _ _ fun ps => ?_
  repeat' split
  all_goals simp +contextual

@[simp] theorem robFire_effSafe (t : Bool) (x : FireIn) :
    EffSafe (robFire t x) := by
  unfold robFire
  extract_lets -lift +onlyGivenNames d n
  split
  rename_i fill emit nxt half _
  extract_lets -lift +onlyGivenNames send emits
  split
  extract_lets -lift +onlyGivenNames settle
  split
  · refine effSafe_ite (fun _ => effSafe_ite (fun _ => trivial) fun _ => effSafe_ite (fun _ => effSafe_id rfl) fun _ =>
      effSafe_ite (fun _ => effSafe_id rfl) fun _ => trivial) fun _ => effSafe_ite (fun _ => fun u hu => ?_) fun _ =>
      effSafe_ite (fun _ => effSafe_id rfl) fun _ => trivial
    simp [hu]
  · exact effSafe_ite (fun _ => effSafe_id rfl) fun _ => trivial

@[simp] theorem rpartFire_effSafe (x : FireIn) :
    EffSafe (rpartFire x) := by
  unfold rpartFire
  dsimp only
  repeat' split
  all_goals simp +contextual [effSafe_act]

@[simp] theorem rscanFire_effSafe (x : FireIn) :
    EffSafe (rscanFire x) := by
  unfold rscanFire
  dsimp only
  repeat' split
  all_goals simp +contextual [effSafe_act]

@[simp] theorem sinkFire_effSafe (x : FireIn) :
    EffSafe (sinkFire x) := by
  unfold sinkFire
  repeat' split
  all_goals simp +contextual [effSafe_act]

@[simp] theorem sinkEscFire_effSafe (x : FireIn) :
    EffSafe (sinkEscFire x) := by
  unfold sinkEscFire
  dsimp only
  repeat' split
  all_goals simp +contextual [effSafe_act]

@[simp] theorem stashFire_effSafe (x : FireIn) :
    EffSafe (stashFire x) := by
  unfold stashFire
  split
  · trivial
  · split
    · exact portEnd_effSafe (fun u hu => hu) ‹_›
    · split
      · rename_i a ha
        have h : EffSafe (.act a) := ha ▸ FireIn_enter_effSafe x _ _ _ _ _ _ fun u hu => hu
        exact h
      · rename_i r _ _
        have h := FireIn_enter_effSafe x { elem := x.elem, takes := [] } x.port
        exact h _ _ _ _ fun u hu => hu
  · split
    · trivial
    · refine effSafe_ite (fun _ => trivial) fun _ => ?_
      extract_lets -lift +onlyGivenNames fin
      have hfin (u : State) (hu : u.mem.wf = true) : (fin u).mem.wf = true := by
        unfold fin
        rw [stashTry_mem, modReq_mem]
        exact hu
      refine effSafe_ite (fun _ => hfin) fun _ => effSafe_ite (fun _ => ?_) fun _ => ?_
      · intro u hu
        simp [hu]
      · intro u hu
        dsimp only
        split
        · exact hfin _ (by rw [modReq_mem]; exact hu)
        · rw [modReq_mem]; exact hu
  · trivial

@[simp] theorem steerFire_effSafe (x : FireIn) :
    EffSafe (steerFire x) := by
  unfold steerFire
  split
  · split
    · exact endPair_effSafe ‹_›
    · exact effSafe_id rfl
  · trivial

@[simp] theorem strmiFire_effSafe (x : FireIn) :
    EffSafe (strmiFire x) := by
  unfold strmiFire
  dsimp only
  repeat' split
  all_goals simp +contextual [effSafe_act]

@[simp] theorem strmoFire_effSafe (x : FireIn) :
    EffSafe (strmoFire x) := by
  unfold strmoFire
  dsimp only
  repeat' split
  all_goals simp +contextual [effSafe_act]

@[simp] theorem thawFire_effSafe (x : FireIn) :
    EffSafe (thawFire x) := by
  unfold thawFire
  refine portInput_effSafe _ _ _ fun ps => ?_
  repeat' split
  all_goals simp +contextual

@[simp] theorem topkbFire_effSafe (x : FireIn) :
    EffSafe (topkbFire x) := by
  unfold topkbFire
  split
  split
  · refine effSafe_ite (fun _ => ?_) fun _ => effSafe_ite (fun _ => trivial) fun _ => effSafe_ite (fun _ => effSafe_id rfl) fun _ => effSafe_id rfl
    split
    · rename_i a ha
      exact fun u hu => endPair_effSafe ha u hu
    · trivial
  · trivial

@[simp] theorem trapFire_effSafe (x : FireIn) :
    EffSafe (trapFire x) := by
  unfold trapFire
  split
  · split
    · exact endPair_effSafe ‹_›
    · exact effSafe_ite (fun _ => effSafe_id rfl) fun _ => fun u hu => by simp [hu]
  · trivial

@[simp] theorem unpinFire_effSafe (x : FireIn) :
    EffSafe (unpinFire x) := by
  unfold unpinFire
  refine portToken_effSafe _ _ fun t k hk => ?_
  repeat' split
  all_goals simp +contextual [hk]

@[simp] theorem unstashFire_effSafe (x : FireIn) :
    EffSafe (unstashFire x) := by
  unfold unstashFire
  refine portInput_effSafe _ _ _ fun ps => ?_
  repeat' split
  all_goals simp +contextual

@[simp] theorem passRuns_effSafe (x : FireIn) (ks : List Nat) :
    EffSafe (passRuns x ks) := by
  unfold passRuns
  simp +contextual [effSafe_act]

@[simp] theorem vecResult_eff (x : FireIn) (el : Elem) (m : Mark) (rs : List LaneRes) :
    (vecResult x el m rs).eff = id := rfl

@[simp] theorem vecStart_effSafe (x : FireIn) (ks : List Nat) (go : List Pos → Fire) (hgo : ∀ ps, EffSafe (go ps)) :
    EffSafe (vecStart x ks go) := by
  unfold vecStart
  split
  · trivial
  split
  · exact endPair_effSafe ‹_›
  split
  · exact fun u hu => hu
  · exact hgo _

@[simp] theorem elementwise_effSafe (zp : Bool) (op : FireIn → List Chan → List (Option W32) → LaneRes) (x : FireIn) :
    EffSafe (elementwise zp op x) := by
  unfold elementwise
  refine vecStart_effSafe _ _ _ fun ps => ?_
  repeat' split
  all_goals simp +contextual [effSafe_act]

@[simp] theorem redEmit_eff (x : FireIn) (el : Elem) (m : Mark) (r : Option (XVal ⊕ W32)) (f : Flags) :
    (redEmit x el m r f).eff = id := rfl

@[simp] theorem redFire_effSafe (o : RedOp) (x : FireIn) :
    EffSafe (redFire o x) := by
  have hemit (el : Elem) (m : Mark) r f : (redEmit x el m r f).eff = id := redEmit_eff _ _ _ _ _
  unfold redFire
  refine effSafe_ite (fun _ => ?_) fun _ => ?_
  · refine vecStart_effSafe _ _ _ fun ps => effSafe_ite (fun _ => by simp) fun _ => effSafe_id (hemit _ _ _ _)
  · split
    extract_lets -lift +onlyGivenNames flush
    have hflush (el : Elem) (p : Bool) (s : Option W32) (f : Flags) (m : Mark) : (flush el p s f m).eff = id := by
      unfold flush
      split
      · rfl
      · exact hemit _ _ _ _
    split
    · trivial
    · exact effSafe_id rfl
    · refine effSafe_ite (fun _ => effSafe_ite (fun _ => effSafe_id (hflush _ _ _ _ _)) fun _ => effSafe_id rfl) fun _ => ?_
      split
      exact effSafe_ite (fun _ => effSafe_id (hflush _ _ _ _ _)) fun _ => effSafe_id rfl

@[simp] theorem vmaxrFire_effSafe (x : FireIn) :
    EffSafe (vmaxrFire x) := by
  unfold vmaxrFire
  extract_lets -lift +onlyGivenNames latch neutral after
  split
  · split
    · exact endPair_effSafe ‹_›
    · exact effSafe_ite (fun _ => effSafe_id rfl) fun _ => effSafe_id rfl
  · trivial

@[simp] theorem packCode_effSafe (x : FireIn) (ps : List Pos) (m : Mark) :
    EffSafe (packCode x ps m) := by
  unfold packCode
  dsimp only
  repeat' split
  all_goals simp +contextual [effSafe_act]

@[simp] theorem packFire_effSafe (n : Nat) (build : List Pos → Mark → Fire) (x : FireIn) (hbuild : ∀ ps m, EffSafe (build ps m)) :
    EffSafe (packFire n build x) := by
  unfold packFire
  extract_lets -lift +onlyGivenNames held
  split
  · trivial
  · exact effSafe_ite (fun _ => effSafe_ite (fun _ => effSafe_id rfl) fun _ => trivial) fun _ =>
      effSafe_ite (fun _ => effSafe_ite (fun _ => trivial) fun _ => effSafe_id rfl) fun _ => hbuild _ _

@[simp] theorem packRaw_effSafe (x : FireIn) (w : Nat) (ps : List Pos) (m : Mark) :
    EffSafe (packRaw x w ps m) := by
  unfold packRaw
  repeat' split
  all_goals simp +contextual [effSafe_act]

@[simp] theorem vscanFire_effSafe (x : FireIn) :
    EffSafe (vscanFire x) := by
  unfold vscanFire
  extract_lets -lift +onlyGivenNames carry
  split
  · split
    · exact endPair_effSafe ‹_›
    · refine effSafe_ite (fun _ => effSafe_id rfl) fun _ => ?_
      extract_lets -lift +onlyGivenNames a
      rcases scanLanes x a.ch (x.imm 8 8 == 1) carry a.lanes with ⟨c, rs⟩
      exact effSafe_id (by simp)
  · trivial

@[simp] theorem vshufFire_effSafe (x : FireIn) :
    EffSafe (vshufFire x) := by
  unfold vshufFire
  refine vecStart_effSafe _ _ _ fun ps => ?_
  simp +contextual [effSafe_act]

@[simp] theorem vunpkFire_effSafe (x : FireIn) :
    EffSafe (vunpkFire x) := by
  unfold vunpkFire
  extract_lets -lift +onlyGivenNames w n
  split
  · split
    · exact endPair_effSafe ‹_›
    · split
      · exact effSafe_id rfl
      · exact effSafe_id rfl
  · trivial

@[simp] theorem waitaFire_effSafe (x : FireIn) :
    EffSafe (waitaFire x) := by
  unfold waitaFire
  refine portInput_effSafe _ _ _ fun ps => ?_
  dsimp only
  repeat' split
  all_goals simp +contextual

@[simp] theorem wakeaFire_effSafe (x : FireIn) :
    EffSafe (wakeaFire x) := by
  unfold wakeaFire
  refine portInput_effSafe _ _ _ fun ps => ?_
  dsimp only
  repeat' split
  all_goals simp +contextual

@[simp] theorem wrsysFire_effSafe (x : FireIn) :
    EffSafe (wrsysFire x) := by
  unfold wrsysFire
  extract_lets -lift +onlyGivenNames ks
  split
  · trivial
  split
  · exact endPair_effSafe ‹_›
  · exact effSafe_ite (fun _ => by simp) fun _ => effSafe_ite (fun _ => effSafe_id rfl) fun _ => fun u hu => hu

@[simp] theorem xferFire_effSafe (x : FireIn) :
    EffSafe (xferFire x) := by
  unfold xferFire
  refine portInput_effSafe _ _ _ fun ps => ?_
  dsimp only
  repeat' split
  all_goals simp +contextual

@[simp] theorem mmaProgress_effSafe (x : FireIn) (a1 : Instr) :
    EffSafe (mmaProgress x a1) := by
  unfold mmaProgress
  repeat' split
  all_goals simp +contextual [effSafe_act]

@[simp] theorem drainBegin_effSafe (x : FireIn) (a1 : Instr) :
    EffSafe (drainBegin x a1) := by
  unfold drainBegin
  repeat' split
  all_goals simp +contextual [effSafe_act]

@[simp] theorem drainWord_effSafe (x : FireIn) (i : Instr) :
    EffSafe (drainWord x i) := by
  unfold drainWord
  dsimp only
  repeat' split
  all_goals simp +contextual [effSafe_act]

@[simp] theorem mmaComplete_effSafe (x : FireIn) (a1 : Instr) :
    EffSafe (mmaComplete x a1) := by
  unfold mmaComplete
  dsimp only
  repeat' split
  all_goals simp +contextual [effSafe_act]

@[simp] theorem mmaStart_effSafe (x : FireIn) (a1 : Instr) :
    EffSafe (mmaStart x a1) := by
  unfold mmaStart
  repeat' split
  all_goals simp +contextual [effSafe_act]

end Sys2Proof.Proofs.Canonical
end

section
/-! Every step keeps memory canonical (O34): the words of a sequence, the instructions of a block, the events, and what a turn of the agenda
does without an instruction. -/

namespace Sys2Proof.Proofs.Canonical
open Sys2Proof.Machine Sys2Proof.Laws

@[simp] theorem deltaEvent_wf (s : State) (die : Nat) (id : Nat) (hwf : s.mem.wf = true) :
    (s.deltaEvent die id).mem.wf = true := by
  unfold State.deltaEvent
  split
  · exact hwf
  · exact driveElem_wf _ _ _ hwf fun x i hx => deltaComplete_effSafe _ x i hx

@[simp] theorem progress_wf (s : State) (hwf : s.mem.wf = true) :
    (s.progress).mem.wf = true := by
  unfold State.progress
  exact foldl_wf (fun s x hs => by simp [hs]) _ hwf

@[simp] theorem tick_wf (s : State) (hwf : s.mem.wf = true) :
    (tick s).mem.wf = true := by
  simp [tick, hwf]

/-- What an execution ends in, where it ends in a next state, has canonical memory. -/
def OutSafe (o : Out) : Prop := ∀ t, o = .next t → t.mem.wf = true

theorem outSafe_next {t : State} (h : t.mem.wf = true) : OutSafe (.next t) := fun u hu => by cases hu; exact h

theorem outSafe_of_mem {s t : State} (h : t.mem = s.mem) (hwf : s.mem.wf = true) : OutSafe (.next t) :=
  outSafe_next (by rw [h]; exact hwf)

theorem outSafe_fire {i : Instr} {body : FireIn → Fire} {s : State} (hwf : s.mem.wf = true)
    (hbody : ∀ x : FireIn, x.s.mem.wf = true → EffSafe (body x)) : OutSafe (fire i body s) :=
  outSafe_next (fireElement_wf i body s hwf hbody)

theorem outSafe_onWord {s : State} {body : Run → State} (hwf : s.mem.wf = true) (hbody : ∀ r, (body r).mem.wf = true) :
    OutSafe (onWord s body) := by
  unfold onWord
  split
  · exact outSafe_next hwf
  · split
    · exact outSafe_next hwf
    · refine outSafe_next ?_
      split
      · exact hbody _
      · exact hwf

theorem outSafe_gWord {s : State} {op : W64 → W64 → W64} {ga gb gc : BitVec 6} {imm : BitVec 38} (hwf : s.mem.wf = true) :
    OutSafe (gWord op ga gb gc imm s) := outSafe_onWord hwf fun r => by simp [hwf]

theorem outSafe_brkStep {f : Fab} {s : State} (hwf : s.mem.wf = true) : OutSafe (brkStep f s) := by
  unfold brkStep
  split
  · rename_i ht
    exact outSafe_next (brkHold_wf hwf ht)
  · exact outSafe_fire hwf fun x _ => by simp

theorem bindRange_mem (s : State) (r : Run) (base log2 : Nat) : (s.bindRange r base log2).2.mem = s.mem := by
  unfold State.bindRange
  split
  · rfl
  · split <;> rfl

theorem bindRel_mem (s : State) (r : Run) (va : Nat) : (s.bindRel r va).2.mem = s.mem := by
  unfold State.bindRel
  split
  · rfl
  · split <;> rfl

theorem ite_wf {c : Prop} [Decidable c] {s t : State} (hs : s.mem.wf = true) (ht : t.mem.wf = true) :
    (if c then s else t).mem.wf = true := by
  split
  · exact hs
  · exact ht

theorem loop_outSafe {s : State} (hwf : s.mem.wf = true) (gb : BitVec 6) (kind : BitVec 2) (depth : BitVec 3) (count : BitVec 32) :
    OutSafe (exec (.loop gb kind depth count) s) := by
  refine outSafe_onWord hwf fun r => ?_
  generalize (if kind = 0 ∨ r.esc.handler.isSome then none else kidsOf (s.seqOf r) (r.esc.sqc + 1) (s.endlOf r)) = kids
  cases kids with
  | none => simp [hwf]
  | some ks => simp [hwf]

theorem gadd_outSafe {s : State} (hwf : s.mem.wf = true) (ga gb gc : BitVec 6) (imm : BitVec 38) :
    OutSafe (exec (.gadd ga gb gc imm) s) := by
  show OutSafe (execGadd ga gb gc imm s)
  unfold execGadd
  exact outSafe_gWord hwf

theorem gsub_outSafe {s : State} (hwf : s.mem.wf = true) (ga gb gc : BitVec 6) (imm : BitVec 38) :
    OutSafe (exec (.gsub ga gb gc imm) s) := by
  show OutSafe (execGsub ga gb gc imm s)
  unfold execGsub
  exact outSafe_gWord hwf

theorem gand_outSafe {s : State} (hwf : s.mem.wf = true) (ga gb gc : BitVec 6) (imm : BitVec 38) :
    OutSafe (exec (.gand ga gb gc imm) s) := by
  show OutSafe (execGand ga gb gc imm s)
  unfold execGand
  exact outSafe_gWord hwf

theorem gor_outSafe {s : State} (hwf : s.mem.wf = true) (ga gb gc : BitVec 6) (imm : BitVec 38) :
    OutSafe (exec (.gor ga gb gc imm) s) := by
  show OutSafe (execGor ga gb gc imm s)
  unfold execGor
  exact outSafe_gWord hwf

theorem gxor_outSafe {s : State} (hwf : s.mem.wf = true) (ga gb gc : BitVec 6) (imm : BitVec 38) :
    OutSafe (exec (.gxor ga gb gc imm) s) := by
  show OutSafe (execGxor ga gb gc imm s)
  unfold execGxor
  exact outSafe_gWord hwf

theorem gshl_outSafe {s : State} (hwf : s.mem.wf = true) (ga gb gc : BitVec 6) (imm : BitVec 38) :
    OutSafe (exec (.gshl ga gb gc imm) s) := by
  show OutSafe (execGshl ga gb gc imm s)
  unfold execGshl
  exact outSafe_gWord hwf

theorem gshr_outSafe {s : State} (hwf : s.mem.wf = true) (ga gb gc : BitVec 6) (imm : BitVec 38) :
    OutSafe (exec (.gshr ga gb gc imm) s) := by
  show OutSafe (execGshr ga gb gc imm s)
  unfold execGshr
  exact outSafe_gWord hwf

theorem gslt_outSafe {s : State} (hwf : s.mem.wf = true) (ga gb gc : BitVec 6) (imm : BitVec 38) :
    OutSafe (exec (.gslt ga gb gc imm) s) := by
  show OutSafe (execGslt ga gb gc imm s)
  unfold execGslt
  exact outSafe_gWord hwf

/-- Every instruction of a block: its body's effect is safe. -/
theorem exec_outSafe_of_fab {i : Instr} {f : Fab} (hf : fabOf i = some f) {s : State} (hwf : s.mem.wf = true) : OutSafe (exec i s) := by
  cases i with
  | vpackCode _ =>
    exact outSafe_fire hwf fun x hx => packFire_effSafe _ _ _ fun ps m => by simp
  | vpackRaw _ =>
    exact outSafe_fire hwf fun x hx => packFire_effSafe _ _ _ fun ps m => by simp
  | add _ | sub _ | mul _ | mulh _ | mulhu _
  | div _ | divu _ | rem _ | remu _ | and _
  | or _ | xor _ | andn _ | shl _ | shr _
  | sar _ | rol _ | ror _ | min _ | max _
  | minu _ | maxu _ | ceq _ | cne _ | clt _
  | cle _ | cgt _ | cge _ | cltu _ | cgeu _ =>
    exact outSafe_fire hwf fun x hx => binFire_effSafe _ _ _
  | clz _ | popc _ | mov _ =>
    exact outSafe_fire hwf fun x hx => unFire_effSafe _ _ _
  | agen _ =>
    exact outSafe_fire hwf fun x hx => aluFire_effSafe _ _ _
  | constk _ =>
    exact outSafe_fire hwf fun x hx => constkFire_effSafe _
  | steer _ =>
    exact outSafe_fire hwf fun x hx => steerFire_effSafe _
  | merge _ =>
    exact outSafe_fire hwf fun x hx => mergeFire_effSafe _
  | cmerge _ =>
    exact outSafe_fire hwf fun x hx => cmergeFire_effSafe _
  | copy _ =>
    exact outSafe_fire hwf fun x hx => copyFire_effSafe _
  | gate _ =>
    exact outSafe_fire hwf fun x hx => gateFire_effSafe _
  | ctr _ =>
    exact outSafe_fire hwf fun x hx => ctrFire_effSafe _
  | ctrRoot _ =>
    exact outSafe_fire hwf fun x hx => ctrOnce_effSafe _ _
  | drop _ =>
    exact outSafe_fire hwf fun x hx => dropFire_effSafe _
  | sink _ =>
    exact outSafe_fire hwf fun x hx => sinkFire_effSafe _
  | sinkEsc _ =>
    exact outSafe_fire hwf fun x hx => sinkEscFire_effSafe _
  | acc _ | accmax _ | accmin _ =>
    exact outSafe_fire hwf fun x hx => accFire_effSafe _ _
  | vadd _ | vsub _ | vmul _ | vfma _ | vfms _
  | vmin _ | vmax _ | vabs _ | vneg _ | vcmp _
  | vblend _ | vand _ | vor _ | vxor _ | vshl _
  | vcvt _ | vscale _ | vrcp _ | vrsq _ | vexp2 _
  | vlog2 _ | vsfn _ | vsfnD _ | vquant _ | vdeq _ =>
    exact outSafe_fire hwf fun x hx => elementwise_effSafe _ _ _
  | vred _ | vredmax _ | vredmin _ | vamax _ =>
    exact outSafe_fire hwf fun x hx => redFire_effSafe _ _
  | vscan _ =>
    exact outSafe_fire hwf fun x hx => vscanFire_effSafe _
  | vshuf _ =>
    exact outSafe_fire hwf fun x hx => vshufFire_effSafe _
  | vmaxr _ =>
    exact outSafe_fire hwf fun x hx => vmaxrFire_effSafe _
  | vunpk _ =>
    exact outSafe_fire hwf fun x hx => vunpkFire_effSafe _
  | rob _ | robT _ =>
    exact outSafe_fire hwf fun x hx => robFire_effSafe _ _
  | mma _ =>
    exact outSafe_fire hwf fun x hx => mmaFire_effSafe _
  | mopf _ =>
    exact outSafe_fire hwf fun x hx => mopfFire_effSafe _
  | mdrain _ | mdrainAll _ =>
    exact outSafe_fire hwf fun x hx => mdrainFire_effSafe _ _ _
  | hprobe _ =>
    exact outSafe_fire hwf fun x hx => hprobeFire_effSafe _
  | insnew _ | agg _ =>
    exact outSafe_fire hwf fun x hx => insertFire_effSafe _ _
  | rpart _ =>
    exact outSafe_fire hwf fun x hx => rpartFire_effSafe _
  | negate _ =>
    exact outSafe_fire hwf fun x hx => negateFire_effSafe _
  | gradb _ =>
    exact outSafe_fire hwf fun x hx => gradbFire_effSafe _
  | rscan _ =>
    exact outSafe_fire hwf fun x hx => rscanFire_effSafe _
  | dlbind _ | dlref _ | dldrop _ =>
    exact outSafe_fire hwf fun x hx => slotFire_effSafe _ _
  | dlmul _ =>
    exact outSafe_fire hwf fun x hx => dlmulFire_effSafe _
  | bscore _ =>
    exact outSafe_fire hwf fun x hx => bscoreFire_effSafe _
  | topkb _ =>
    exact outSafe_fire hwf fun x hx => topkbFire_effSafe _
  | attnacc _ =>
    exact outSafe_fire hwf fun x hx => attnaccFire_effSafe _
  | evict _ =>
    exact outSafe_fire hwf fun x hx => evictFire_effSafe _
  | evictReset _ =>
    exact outSafe_fire hwf fun x hx => evictResetFire_effSafe _
  | ld _ | st _ | lda _ | stl _ | ldsync _
  | sete _ | fadd _ | fadd64 _ | amax _ | amin _
  | aswap _ | acas _ | aor _ | aand _ | amaxr _ =>
    exact outSafe_fire hwf fun x hx => memFire_effSafe _ _
  | fence _ =>
    exact outSafe_fire hwf fun x hx => fenceFire_effSafe _
  | ldx _ | stx _ =>
    exact outSafe_fire hwf fun x hx => gatherFire_effSafe _ _
  | waita _ =>
    exact outSafe_fire hwf fun x hx => waitaFire_effSafe _
  | wakea _ =>
    exact outSafe_fire hwf fun x hx => wakeaFire_effSafe _
  | xfer _ =>
    exact outSafe_fire hwf fun x hx => xferFire_effSafe _
  | stash _ =>
    exact outSafe_fire hwf fun x hx => stashFire_effSafe _
  | unstash _ =>
    exact outSafe_fire hwf fun x hx => unstashFire_effSafe _
  | pin _ =>
    exact outSafe_fire hwf fun x hx => pinFire_effSafe _
  | unpin _ =>
    exact outSafe_fire hwf fun x hx => unpinFire_effSafe _
  | send _ | postr _ | probeq _ | cancelr _ =>
    exact outSafe_fire hwf fun x hx => messageFire_effSafe _ _
  | ingress _ =>
    exact outSafe_fire hwf fun x hx => ingressFire_effSafe _
  | egress _ =>
    exact outSafe_fire hwf fun x hx => egressFire_effSafe _
  | strmi _ =>
    exact outSafe_fire hwf fun x hx => strmiFire_effSafe _
  | strmo _ =>
    exact outSafe_fire hwf fun x hx => strmoFire_effSafe _
  | barj _ =>
    exact outSafe_fire hwf fun x hx => barjFire_effSafe _
  | barjGrp _ =>
    exact outSafe_fire hwf fun x hx => barjGrpFire_effSafe _
  | bardrop _ =>
    exact outSafe_fire hwf fun x hx => bardropFire_effSafe _
  | bardropGrp _ =>
    exact outSafe_fire hwf fun x hx => bardropGrpFire_effSafe _
  | trap _ =>
    exact outSafe_fire hwf fun x hx => trapFire_effSafe _
  | rdtime _ | rdcyc _ =>
    exact outSafe_fire hwf fun x hx => sampleFire_effSafe _ _
  | rdsys _ =>
    exact outSafe_fire hwf fun x hx => rdsysFire_effSafe _
  | wrsys _ =>
    exact outSafe_fire hwf fun x hx => wrsysFire_effSafe _
  | freeze _ =>
    exact outSafe_fire hwf fun x hx => freezeFire_effSafe _
  | thaw _ =>
    exact outSafe_fire hwf fun x hx => thawFire_effSafe _
  | readout _ =>
    exact outSafe_fire hwf fun x hx => readoutFire_effSafe _
  | restore _ =>
    exact outSafe_fire hwf fun x hx => restoreFire_effSafe _
  | grant _ =>
    exact outSafe_fire hwf fun x hx => grantFire_effSafe _
  | ownerFree _ => exact outSafe_fire hwf fun x hx => ownerFire_effSafe _ _ hx fun r => freeOwner_wf _ _ _ hx
  | ownerRange _ => exact outSafe_fire hwf fun x hx => ownerFire_effSafe _ _ hx fun r => by rw [bindRange_mem]; exact hx
  | ownerRel _ => exact outSafe_fire hwf fun x hx => ownerFire_effSafe _ _ hx fun r => by rw [bindRel_mem]; exact hx
  | brk _ => exact outSafe_brkStep hwf
  | seqEnd | conf _ | shadow _ _ | swap | phase
  | stream _ _ _ _ | iter _ _ | loop _ _ _ _ | endl | br _
  | brz _ _ | brnz _ _ | waittok _ _ | join _ _ | leave _ _
  | launch _ _ _ | traps _ | gli _ _ | gadd _ _ _ _ | gsub _ _ _ _
  | gand _ _ _ _ | gor _ _ _ _ | gxor _ _ _ _ | gshl _ _ _ _ | gshr _ _ _ _
  | gslt _ _ _ _ | fixb _ _ _ | fixe _ _ _ | rule _ _ | ruleFull _ _
  | rotate _ | retract _ _ _ | issue _ | unpark _ | translationFault _
  | perform _ | dequeue _ | ewrite _ | commit _ | txAbort _ _ _
  | phaseGateOpen _ _ | hdeliver _ _ | edeliver _ _ | faddArrival _ | boomWindowClose _ _
  | split _ _ | ownerApply _ _ | groupReply _ | launchReply _ | combineSumsReply _
  | fixbRetry _ | rotateAck _ _ | requestLost _ _ | barrierRelease _ | mmaStart _
  | mmaComplete _ | drainBegin _ | drainWord _ | deltaComplete _ _ | invalidateArrival _ _
  | codedBlockDecode _ _ | configDone _ _ _ | shadowLoadComplete _ | planeExchange _ | watchdogExpiry _
  | cruiseProbeEnd _ | stashStallTimeout _ | waitaPoll _ | sendRetry _ | messageArrival _ _
  | rendezvousPull _ _ | xferSectorDone _ _ | cfgStoreError _ _ | cfgReloadCheck _ | uncorrectableError _
  | correctedError _ _ _ | arborDecision _ | ageingStep _ | quantumExpiry _ | ingressLaunchWord _ _ _
  | ingressTokenWord _ _ _ | ctxregWrite _ _ | ctxtearWrite _ _ | tlbinvWrite _ _ | tlbinvDone
  | tenantTableWrite _ _ | almclr | lnkqclr _ | registerWrite _ _ | hostBar4Write _ _ _
  | hostBar4Read _ _ _ | atsResponse _ _ _ | priResponse _ _ | priTimeout _ | atsInvalidate _ _ _
  | getVersion _ | getCapabilities _ | negotiateAlgorithms _ | getDigests _ | getCertificate _
  | challenge _ | getMeasurements _ | keyExchange _ | finish _ | endSession _
  | coldReset _ | readyToken | alarmLevel1 _ | alarmLevel2 _ | alarmLevel3 _
  | linkTrain _ _ | trainingStepTimeout _ _ | circuitCrcFail _ _ | linkdn _ _ | flitCrcFail _
  | rdreq _ _ | rdrsp _ _ | wrreq _ _ | wrack _ _ | atreq _ _
  | atrsp _ _ | msg _ _ | msgack _ _ | grnreq _ _ | grnrsp _ _
  | rel _ _ | credit _ _ | retractComplete _ | fixbOpenAck _ _ | configurationLoadComplete _
  | imageValidationComplete _ | readoutComplete _ | restoreComplete _ | freezeArrival _ | thawArrival _
  | groupRequestArrival _ =>
    cases hf

/-- Every word of a sequence and every event. -/
theorem exec_outSafe_of_not_fab {i : Instr} (hf : fabOf i = none) {s : State} (hwf : s.mem.wf = true) : OutSafe (exec i s) := by
  cases i with
  | conf _ | shadow _ _ | swap | stream _ _ _ _ | iter _ _
  | endl | br _ | waittok _ _ | join _ _ | leave _ _
  | launch _ _ _ | traps _ | gli _ _ | fixb _ _ _ | fixe _ _ _
  | rule _ _ | ruleFull _ _ | rotate _ | retract _ _ _ =>
    exact outSafe_onWord hwf fun r => by simp [hwf]
  | issue _ => exact outSafe_of_mem (issue_mem _ _) hwf
  | unpark _ => exact outSafe_of_mem (unpark_mem _ _) hwf
  | translationFault _ => exact outSafe_next (translationFault_wf _ _ hwf)
  | perform _ => exact outSafe_next (perform_wf _ _ hwf)
  | dequeue _ => exact outSafe_next (dequeue_wf _ _ hwf)
  | ewrite _ => exact outSafe_next (ewrite_wf _ _ hwf)
  | commit _ => exact outSafe_next (commit_wf _ _ hwf)
  | txAbort _ _ _ => exact outSafe_next (txAbort_wf _ _ _ _ hwf)
  | phaseGateOpen _ _ => exact outSafe_next (gateOpen_wf _ _ _ hwf)
  | hdeliver _ _ => exact outSafe_of_mem (hdeliver_mem _ _ _) hwf
  | edeliver _ _ => exact outSafe_next (edeliver_wf _ _ _ hwf)
  | faddArrival _ => exact outSafe_of_mem (faddArrival_mem _ _) hwf
  | boomWindowClose _ _ => exact outSafe_of_mem (windowClose_mem _ _ _) hwf
  | split _ _ => exact outSafe_of_mem (split_mem _ _ _) hwf
  | ownerApply _ _ => exact outSafe_next (ownerApply_wf _ _ _ hwf)
  | groupReply _ => exact outSafe_next (groupReply_wf _ _ hwf)
  | launchReply _ => exact outSafe_next (launchReply_wf _ _ hwf)
  | combineSumsReply _ => exact outSafe_next (combineReply_wf _ _ hwf)
  | fixbRetry _ => exact outSafe_of_mem (fixbRetry_mem _ _) hwf
  | rotateAck _ _ => exact outSafe_next (rotateAck_wf _ _ _ hwf)
  | requestLost _ _ => exact outSafe_next (requestLost_wf _ _ _ hwf)
  | barrierRelease _ => exact outSafe_of_mem (barrierRelease_mem _ _) hwf
  | mmaStart _ => exact outSafe_next (by simp [hwf])
  | mmaComplete _ => exact outSafe_next (by simp [hwf])
  | drainBegin _ => exact outSafe_next (by simp [hwf])
  | drainWord _ => exact outSafe_next (by simp [hwf])
  | deltaComplete _ _ => exact outSafe_next (deltaEvent_wf _ _ _ hwf)
  | invalidateArrival _ _ => exact outSafe_of_mem (invalidate_mem _ _ _) hwf
  | codedBlockDecode _ _ => exact outSafe_next (decodeHead_wf _ _ _ hwf)
  | configDone _ _ _ => exact outSafe_next (configDone_wf _ _ _ _ hwf)
  | shadowLoadComplete _ => exact outSafe_next (shadowLoad_wf _ _ hwf)
  | planeExchange _ => exact outSafe_next (planeExchange_wf _ _ hwf)
  | watchdogExpiry _ => exact outSafe_of_mem (watchdog_mem _ _) hwf
  | cruiseProbeEnd _ => exact outSafe_next (probeEnd_wf _ _ hwf)
  | stashStallTimeout _ => exact outSafe_next (stashTimeout_wf _ _ hwf)
  | waitaPoll _ => exact outSafe_of_mem (waitaPoll_mem _ _) hwf
  | sendRetry _ => exact outSafe_of_mem (sendRetry_mem _ _) hwf
  | messageArrival _ _ => exact outSafe_next (messageArrival_wf _ _ _ hwf)
  | rendezvousPull _ _ => exact outSafe_next (rendezvousPull_wf _ _ _ hwf)
  | xferSectorDone _ _ => exact outSafe_next (sectorDone_wf _ _ _ hwf)
  | cfgStoreError _ _ => exact outSafe_next (cfgError_wf _ _ _ hwf)
  | cfgReloadCheck _ => exact outSafe_next (reloadCheck_wf _ _ hwf)
  | uncorrectableError _ => exact outSafe_next (uncorrectable_wf _ _ hwf)
  | correctedError _ _ _ => exact outSafe_next (logEvent_wf _ _ _ _ _ _ _ _ hwf)
  | arborDecision _ => exact outSafe_of_mem (arbor_mem _ _) hwf
  | ageingStep _ => exact outSafe_next (by simp [hwf])
  | quantumExpiry _ => exact outSafe_next (by simp [hwf])
  | ingressLaunchWord _ _ _ => exact outSafe_next (launchIn_wf _ _ _ _ hwf)
  | ingressTokenWord _ _ _ => exact outSafe_of_mem (tokenIn_mem _ _ _ _) hwf
  | ctxregWrite _ _ => exact outSafe_of_mem (ctxreg_mem _ _ _) hwf
  | ctxtearWrite _ _ => exact outSafe_next (ctxtear_wf _ _ _ hwf)
  | tlbinvWrite _ _ => exact outSafe_of_mem (tlbinvWrite_mem _ _ _) hwf
  | tlbinvDone => exact outSafe_of_mem (tlbinvDone_mem _) hwf
  | tenantTableWrite _ _ => exact outSafe_of_mem (tenantWrite_mem _ _ _) hwf
  | almclr => exact outSafe_of_mem (almclr_mem _) hwf
  | lnkqclr _ => exact outSafe_of_mem (lnkqclr_mem _ _) hwf
  | registerWrite _ _ => exact outSafe_of_mem (registerWrite_mem _ _ _) hwf
  | hostBar4Write _ _ _ => exact outSafe_of_mem (bar4Write_mem _ _ _ _) hwf
  | hostBar4Read _ _ _ => exact outSafe_next (bar4Read_wf _ _ _ _ hwf)
  | atsResponse _ _ _ => exact outSafe_of_mem (atsResponse_mem _ _ _ _) hwf
  | priResponse _ _ => exact outSafe_next (priResponse_wf _ _ _ _ hwf)
  | priTimeout _ => exact outSafe_next (priResponse_wf _ _ _ _ hwf)
  | atsInvalidate _ _ _ => exact outSafe_of_mem (atsInvalidate_mem _ _ _ _) hwf
  | getVersion _ => exact outSafe_next (by simp [hwf])
  | finish _ => exact outSafe_of_mem (spdmFinish_mem _) hwf
  | endSession _ => exact outSafe_of_mem (spdmEnd_mem _) hwf
  | coldReset _ => exact outSafe_next (coldReset_wf _ _ hwf)
  | readyToken => exact outSafe_next (readyToken_wf _ hwf)
  | alarmLevel1 _ => exact outSafe_next (alarm_wf _ _ _ hwf)
  | alarmLevel2 _ => exact outSafe_next (alarm_wf _ _ _ hwf)
  | alarmLevel3 _ => exact outSafe_next (alarm_wf _ _ _ hwf)
  | linkTrain _ _ => exact outSafe_of_mem (linkTrain_mem _ _ _) hwf
  | trainingStepTimeout _ _ => exact outSafe_of_mem (trainTimeout_mem _ _ _) hwf
  | circuitCrcFail _ _ => exact outSafe_next (by simp [hwf])
  | linkdn _ _ => exact outSafe_next (logEvent_wf _ _ _ _ _ _ _ _ hwf)
  | flitCrcFail _ => exact outSafe_next (by simp [hwf])
  | rdreq _ _ => exact outSafe_next (rdreq_wf _ _ _ hwf)
  | rdrsp _ _ => exact outSafe_next (rdrsp_wf _ _ _ hwf)
  | wrreq _ _ => exact outSafe_next (wrreq_wf _ _ _ hwf)
  | wrack _ _ => exact outSafe_next (wrack_wf _ _ _ hwf)
  | atreq _ _ => exact outSafe_next (atreq_wf _ _ _ hwf)
  | atrsp _ _ => exact outSafe_next (atrsp_wf _ _ _ hwf)
  | msg _ _ => exact outSafe_of_mem (msgFlit_mem _ _ _) hwf
  | msgack _ _ => exact outSafe_next (msgack_wf _ _ _ hwf)
  | grnreq _ _ => exact outSafe_of_mem (grnreq_mem _ _ _) hwf
  | grnrsp _ _ => exact outSafe_of_mem (grnrsp_mem _ _ _) hwf
  | rel _ _ => exact outSafe_of_mem (relFlit_mem _ _ _) hwf
  | credit _ _ => exact outSafe_of_mem (creditFlit_mem _ _ _) hwf
  | retractComplete _ => exact outSafe_next (retractComplete_wf _ _ hwf)
  | fixbOpenAck _ _ => exact outSafe_next (fixbAck_wf _ _ _ hwf)
  | configurationLoadComplete _ => exact outSafe_next (configLoad_wf _ _ hwf)
  | imageValidationComplete _ => exact outSafe_next (validated_wf _ _ hwf)
  | readoutComplete _ => exact outSafe_next (readoutComplete_wf _ _ hwf)
  | restoreComplete _ => exact outSafe_next (restoreComplete_wf _ _ hwf)
  | freezeArrival _ => exact outSafe_next (freezeArrival_wf _ _ hwf)
  | thawArrival _ => exact outSafe_of_mem (thawArrival_mem _ _) hwf
  | groupRequestArrival _ => exact outSafe_of_mem (groupArrival_mem _ _) hwf
  | gadd _ _ _ _ => exact gadd_outSafe hwf _ _ _ _
  | gsub _ _ _ _ => exact gsub_outSafe hwf _ _ _ _
  | gand _ _ _ _ => exact gand_outSafe hwf _ _ _ _
  | gor _ _ _ _ => exact gor_outSafe hwf _ _ _ _
  | gxor _ _ _ _ => exact gxor_outSafe hwf _ _ _ _
  | gshl _ _ _ _ => exact gshl_outSafe hwf _ _ _ _
  | gshr _ _ _ _ => exact gshr_outSafe hwf _ _ _ _
  | gslt _ _ _ _ => exact gslt_outSafe hwf _ _ _ _
  | seqEnd | phase =>
    exact outSafe_onWord hwf fun r => notInHandler_wf _ _ _ hwf (whenDrained_wf _ _ _ _ hwf (by simp [hwf]))
  | loop _ _ _ _ =>
    exact loop_outSafe hwf _ _ _ _
  | brz _ _ | brnz _ _ =>
    exact outSafe_onWord hwf fun r => ite_wf (by simp [hwf]) (by simp [hwf])
  | getCapabilities _ | negotiateAlgorithms _ =>
    exact outSafe_next (by
      rw [spdmAt_mem _ _ _ (by simp)]
      exact hwf)
  | getDigests _ | getCertificate _ | challenge _ | getMeasurements _ =>
    exact outSafe_next (by
      rw [spdmSigned_mem _ _ _ _ rfl]
      exact hwf)
  | keyExchange _ =>
    exact outSafe_next (by
      rw [spdmSigned_mem _ _ _ _ (by simp)]
      exact hwf)
  | add _ | sub _ | mul _ | mulh _ | mulhu _
  | div _ | divu _ | rem _ | remu _ | and _
  | or _ | xor _ | andn _ | shl _ | shr _
  | sar _ | rol _ | ror _ | clz _ | popc _
  | min _ | max _ | minu _ | maxu _ | ceq _
  | cne _ | clt _ | cle _ | cgt _ | cge _
  | cltu _ | cgeu _ | mov _ | agen _ | constk _
  | steer _ | merge _ | cmerge _ | copy _ | gate _
  | ctr _ | ctrRoot _ | drop _ | sink _ | sinkEsc _
  | acc _ | accmax _ | accmin _ | vadd _ | vsub _
  | vmul _ | vfma _ | vfms _ | vmin _ | vmax _
  | vabs _ | vneg _ | vcmp _ | vblend _ | vand _
  | vor _ | vxor _ | vshl _ | vcvt _ | vred _
  | vredmax _ | vredmin _ | vscan _ | vshuf _ | vmaxr _
  | vamax _ | vscale _ | vrcp _ | vrsq _ | vexp2 _
  | vlog2 _ | vsfn _ | vsfnD _ | vquant _ | vdeq _
  | vpackCode _ | vpackRaw _ | vunpk _ | rob _ | robT _
  | mma _ | mopf _ | mdrain _ | mdrainAll _ | hprobe _
  | insnew _ | rpart _ | agg _ | negate _ | gradb _
  | rscan _ | dlbind _ | dlmul _ | dlref _ | dldrop _
  | bscore _ | topkb _ | attnacc _ | evict _ | evictReset _
  | ld _ | st _ | lda _ | stl _ | ldsync _
  | sete _ | fence _ | ldx _ | stx _ | fadd _
  | fadd64 _ | amax _ | amin _ | aswap _ | acas _
  | aor _ | aand _ | amaxr _ | ownerRange _ | ownerRel _
  | ownerFree _ | waita _ | wakea _ | xfer _ | stash _
  | unstash _ | pin _ | unpin _ | send _ | postr _
  | probeq _ | cancelr _ | ingress _ | egress _ | strmi _
  | strmo _ | barj _ | barjGrp _ | bardrop _ | bardropGrp _
  | trap _ | brk _ | rdtime _ | rdcyc _ | rdsys _
  | wrsys _ | freeze _ | thaw _ | readout _ | restore _
  | grant _ =>
    cases hf

theorem exec_outSafe (i : Instr) {s : State} (hwf : s.mem.wf = true) : OutSafe (exec i s) := by
  cases hf : fabOf i with
  | none => exact exec_outSafe_of_not_fab hf hwf
  | some f => exact exec_outSafe_of_fab hf hwf

/-- What a turn does without an instruction. -/
theorem fetchWord_other_wf {s t : State} {k : Nat} (hwf : s.mem.wf = true) (h : fetchWord s k = .other t) : t.mem.wf = true := by
  unfold fetchWord at h
  split at h
  · cases h; exact hwf
  · split at h
    · cases h; exact hwf
    · dsimp only at h
      split at h
      · cases h
        exact trapWord_wf _ _ _ hwf
      · split at h <;> cases h

theorem fetchElem_other_wf {s t : State} {e : ElemRef} (hwf : s.mem.wf = true) (h : fetchElem s e = .other t) : t.mem.wf = true := by
  unfold fetchElem at h
  split at h
  · cases h; exact hwf
  · split at h <;> cases h

theorem fetchTurn_other_wf {s t : State} (hwf : s.mem.wf = true) (h : fetchTurn s = .other t) : t.mem.wf = true := by
  unfold fetchTurn at h
  split at h
  · exact fetchWord_other_wf (by exact hwf) h
  · exact fetchElem_other_wf (by exact hwf) h
  · cases h
  · cases h
    exact tick_wf _ hwf
  · cases h
    rw [walkNext_mem]
    exact hwf
  · cases h
    rw [circuitWord_mem]
    exact hwf
  · split at h
    · cases h
      exact tick_wf _ hwf
    · split at h
      · cases h
        exact tick_wf _ hwf
      · split at h
        · cases h
          exact tick_wf _ hwf
        · exact fetchWord_other_wf hwf h

theorem fetch_other_wf {s t : State} (hwf : s.mem.wf = true) (h : fetch s = .other t) : t.mem.wf = true := by
  unfold fetch at h
  split at h
  · exact fetchTurn_other_wf hwf h
  · split at h
    · cases h
    · cases h
      exact tick_wf _ hwf
    · cases h
      exact hwf
    · cases h
      exact tick_wf _ hwf

/-- Settles O34: a turn runs an instruction in a state with the memory of the one before it (`fetch_exec_mem`), or does one of the other
things of the agenda; each leaves canonical memory canonical. -/
theorem stepKeepsMemoryCanonical : Obligations.StepKeepsMemoryCanonical := by
  unfold Obligations.StepKeepsMemoryCanonical
  intro s t hs h
  obtain hother | ⟨i, u, hfetch, hexec⟩ := step_cases h
  · exact fetch_other_wf hs hother
  · have hu : u.mem.wf = true := by
      rw [fetch_exec_mem hfetch]
      exact hs
    exact exec_outSafe i hu t hexec

end Sys2Proof.Proofs.Canonical
end

section
/-! Sequence words (03 R32 to R40, 10 R186 to R190, R193, R195): G registers, loops and controllers, the iteration counter, escapement inputs,
TRAPS, stream bindings, and the words that start, load and exchange configurations. Each word is one function of the state and the run. -/

namespace Sys2Proof.Proofs.SequenceWords
open Sys2Proof.Machine Sys2Proof.Laws Sys2Proof.Proofs.SequenceScalar

/-! ## G registers (02 R25) -/

section GRegisters
variable (r : Run) (n : BitVec 6) (v : W64)

@[simp] theorem getG_zero : r.getG 0 = 0 := rfl

@[simp] theorem setG_zero : r.setG 0 v = r := rfl

theorem getG_of_ne_zero (h : n ≠ 0) : r.getG n = r.esc.g.getD n.toNat 0 := if_neg h

theorem setG_of_ne_zero (h : n ≠ 0) : r.setG n v = { r with esc := { r.esc with g := setAt r.esc.g n.toNat v } } := by
  simp only [Run.setG, Esc.setG, if_neg h]

@[simp] theorem setG_loops : (r.setG n v).esc.loops = r.esc.loops := by
  simp only [Run.setG, Esc.setG]
  split <;> rfl

@[simp] theorem setG_sqc : (r.setG n v).esc.sqc = r.esc.sqc := by
  simp only [Run.setG, Esc.setG]
  split <;> rfl

@[simp] theorem setG_regs : (r.setG n v).regs = r.regs := rfl

@[simp] theorem setG_st : (r.setG n v).st = r.st := rfl

@[simp] theorem setG_id : (r.setG n v).id = r.id := rfl

@[simp] theorem length_setAt {α : Type} (l : List α) (k : Nat) (a : α) : (setAt l k a).length = l.length := by
  induction l generalizing k with
  | nil => rfl
  | cons x xs ih => cases k with
    | zero => rfl
    | succ k => simp [setAt, ih]

@[simp] theorem length_setG_g : (r.setG n v).esc.g.length = r.esc.g.length := by
  simp only [Run.setG, Esc.setG]
  split <;> simp

variable {r n v}

theorem getG_setG_same (hlen : r.esc.g.length = 64) (h : n ≠ 0) : (r.setG n v).getG n = v := by
  rw [getG_of_ne_zero _ _ h, setG_of_ne_zero _ _ _ h]
  have hlt : n.toNat < r.esc.g.length := by have := n.isLt; omega
  rw [List.getD_eq_getElem?_getD, setAt_get, if_pos rfl, List.getElem?_eq_getElem hlt]
  rfl

theorem getG_setG_ne {m : BitVec 6} (h : m ≠ n) : (r.setG n v).getG m = r.getG m := by
  by_cases hn : n = 0
  · rw [hn, setG_zero]
  · by_cases hm : m = 0
    · rw [hm, getG_zero, getG_zero]
    · rw [getG_of_ne_zero _ _ hm, getG_of_ne_zero _ _ hm, setG_of_ne_zero _ _ _ hn]
      have hne : m.toNat ≠ n.toNat := fun he => h (BitVec.eq_of_toNat_eq he)
      simp [List.getD_eq_getElem?_getD, setAt_get, hne]

end GRegisters

/-- Settles O7: the registers are a list written in place; a word that writes one completes, or is the last and traps. -/
theorem gRegistersReadBack : Obligations.GRegistersReadBack := by
  refine ⟨?registers, ?words⟩
  case registers =>
    intro r n m v hlen
    refine ⟨getG_zero r, setG_zero r v, getG_setG_same hlen, getG_setG_ne, setG_flags r n v, setG_loops r n v, setG_sqc r n v, ?_,
      setG_regs r n v, setG_st r n v, setG_id r n v⟩
    rw [length_setG_g, hlen]
  case words =>
    intro ga gb gc imm s r hword
    have hgli : exec (.gli ga imm) s = .next (s.complWord r fun r => r.setG ga (imm.signExtend 64)) := onWord_of_wordRun hword _
    refine ⟨fun hnext => ?_, fun hlast => ⟨?_, fun row hrow => ?_⟩⟩
    · rw [hgli, complWord_next hnext]
    · rw [hgli, complWord_last hlast]
    · rw [runsGRow_of_mem_gRows row hrow]
      exact (onWord_of_wordRun hword _).trans (congrArg _ (complWord_last hlast _))

/-! ## Loops, the iteration counter, escapement inputs, TRAPS -/

section Words
variable {s : State} {r : Run}

/-- Outside its handler's words a word acts as it does. -/
theorem notInHandler_of_none (h : r.esc.handler = none) (go : State) : notInHandler s r go = go := by
  simp [notInHandler, h]

/-- A count below 2^32 that is not zero, with a free entry: the level is pushed and the word completes. -/
theorem loopWord_push (gb : BitVec 6) (kind depth count : Nat) (hpos : 0 < countOf r gb count) (hlt : countOf r gb count < 2 ^ 32)
    (hroom : r.esc.loops.length < 8) (hnext : r.esc.sqc + 1 < (s.seqOf r).length) :
    s.loopWord r gb kind depth count = s.setRun ({ r with esc := { r.esc with
      loops := ⟨countOf r gb count, r.esc.sqc + 1, kind, depth + 1, r.esc.pushes + 1⟩ :: r.esc.loops
      pushes := r.esc.pushes + 1 } }.setSqc (r.esc.sqc + 1)) := by
  unfold State.loopWord
  rw [if_neg (by omega), if_neg (by omega), if_neg (by omega), complWord_next hnext]

/-- With eight entries on the stack SEQOVF is raised at the word. -/
theorem loopWord_full (gb : BitVec 6) (kind depth count : Nat) (hpos : 0 < countOf r gb count) (hlt : countOf r gb count < 2 ^ 32)
    (hfull : 8 ≤ r.esc.loops.length) : s.loopWord r gb kind depth count = s.trapWord r.id .seqovf := by
  unfold State.loopWord
  rw [if_neg (by omega), if_neg (by omega), if_pos hfull]

/-- A word that goes on at a place inside its sequence. -/
theorem goto_inside {q : Nat} (h : q < (s.seqOf r).length) : s.goto r q = s.setRun (r.setSqc q) := if_pos h

theorem loopWord_zero (gb : BitVec 6) (kind depth count : Nat) (hzero : countOf r gb count = 0)
    (hnext : s.endlOf r + 1 < (s.seqOf r).length) : s.loopWord r gb kind depth count = s.setRun (r.setSqc (s.endlOf r + 1)) := by
  unfold State.loopWord
  rw [if_neg (by omega), if_pos hzero, goto_inside hnext]

theorem whenDrained_ok {need : Loaded → Bool} (h : s.drainOf r need = .ok) (go : State) : s.whenDrained r need go = go := by
  simp [State.whenDrained, h]

theorem whenDrained_wait {need : Loaded → Bool} (h : s.drainOf r need = .wait) (go : State) : s.whenDrained r need go = s := by
  simp [State.whenDrained, h]

section ControlBegins
variable {n : Nat} (kind depth : Nat) (kids : List Kid) (hwait : ∀ a b c, r.esc.wait ≠ .control a b c)
include hwait

/-- A controller that does not wait yet begins with its count, as a loop does. -/
theorem controlWord_begin : s.controlWord r kind depth n kids =
    if 2 ^ 32 ≤ n then s.trapWord r.id .seqrange
    else if n = 0 then s.goto r (s.endlOf r + 1)
    else if 8 ≤ r.esc.loops.length then s.trapWord r.id .seqovf
    else s.whenDrained r r.ordered
      (s.setRun { r with esc := { r.esc with wait := .control (r.esc.pushes + 1) n kids, pushes := r.esc.pushes + 1 } }) := by
  unfold State.controlWord
  split
  · exact absurd ‹_› (hwait _ _ _)
  · rfl

theorem controlWord_push (hpos : 0 < n) (hlt : n < 2 ^ 32) (hroom : r.esc.loops.length < 8) (hdrain : s.drainOf r r.ordered = .ok) :
    s.controlWord r kind depth n kids =
      s.setRun { r with esc := { r.esc with wait := .control (r.esc.pushes + 1) n kids, pushes := r.esc.pushes + 1 } } := by
  rw [controlWord_begin kind depth kids hwait, if_neg (by omega), if_neg (by omega), if_neg (by omega), whenDrained_ok hdrain]

theorem controlWord_full (hpos : 0 < n) (hlt : n < 2 ^ 32) (hfull : 8 ≤ r.esc.loops.length) :
    s.controlWord r kind depth n kids = s.trapWord r.id .seqovf := by
  rw [controlWord_begin kind depth kids hwait, if_neg (by omega), if_neg (by omega), if_pos hfull]

theorem controlWord_zero (hnext : s.endlOf r + 1 < (s.seqOf r).length) :
    s.controlWord r kind depth 0 kids = s.setRun (r.setSqc (s.endlOf r + 1)) := by
  rw [controlWord_begin kind depth kids hwait, if_neg (by decide), if_pos rfl, goto_inside hnext]

end ControlBegins

/-- A child does not come to have drained less. -/
theorem drained_le_kidDrained (x : Kid) : x.drained ≤ (s.kidDrained r x).drained := by
  unfold State.kidDrained
  split
  · exact Nat.le_refl _
  · split
    · rename_i h
      exact Nat.le_of_lt h.1
    · exact Nat.le_refl _

/-- A controller whose children have all drained goes on behind its ENDL. -/
theorem driveControl_done (kind depth id n : Nat) {kids : List Kid} (hall : ∀ x ∈ kids, n ≤ x.drained)
    (hdrain : s.drainOf r (fun l => (kids.filterMap fun x => (s.kidConf r x).map (·.1)).contains l.cfg) = .ok)
    (hnext : s.endlOf r + 1 < (s.seqOf r).length) :
    s.driveControl r kind depth id n kids =
      s.setRun ({ r with esc := { r.esc with wait := .idle } }.setSqc (s.endlOf r + 1)) := by
  have hdone : ((kids.map (s.kidDrained r)).all fun x => decide (n ≤ x.drained)) = true := by
    simp only [List.all_map, List.all_eq_true, Function.comp_apply, decide_eq_true_eq]
    exact fun x hx => Nat.le_trans (hall x hx) (drained_le_kidDrained x)
  simp only [State.driveControl, hdrain, hdone, if_true]
  exact goto_inside hnext

end Words

/-- The children that a LOOP word drives itself; none: it is a loop of words (03 R39). -/
def loopKids (s : State) (r : Run) (kind : BitVec 2) : Option (List Kid) :=
  if kind = 0 ∨ r.esc.handler.isSome then none else kidsOf (s.seqOf r) (r.esc.sqc + 1) (s.endlOf r)

section Loop
variable {s : State} {r : Run} (gb : BitVec 6) (kind : BitVec 2) (depth : BitVec 3) (count : BitVec 32)

theorem exec_loop_words (hword : wordRun s = some r) (hkids : loopKids s r kind = none) :
    exec (.loop gb kind depth count) s = .next (s.loopWord r gb kind.toNat depth.toNat count.toNat) := by
  unfold loopKids at hkids
  refine (onWord_of_wordRun hword _).trans (congrArg _ ?_)
  simp only [hkids]

theorem exec_loop_control {kids : List Kid} (hword : wordRun s = some r) (hkids : loopKids s r kind = some kids) :
    exec (.loop gb kind depth count) s =
      .next (s.controlWord r kind.toNat (depth.toNat + 1) (countOf r gb count.toNat) kids) := by
  unfold loopKids at hkids
  refine (onWord_of_wordRun hword _).trans (congrArg _ ?_)
  simp only [hkids]

end Loop

/-- Settles O9: each word is its function of the state, whose branches the lemmas above say. -/
theorem sequenceControlWords : Obligations.SequenceControlWords := by
  intro s r hword
  refine ⟨?loop, ?endl, ?endlNone, ?iter, ?waittok, ?waittokNone, ?traps, ?trapsEnd⟩
  case loop =>
    intro gb kind depth count n kids
    refine ⟨fun hkids hpos hlt hroom hnext => ?_, fun ks hkids hwait hpos hlt hroom hdrain => ?_, fun ks id m xs hkids hwait hall hdrain hnext => ?_,
      fun hwait hpos hlt hfull => ?_, fun hwait hzero hnext => ?_⟩
    · rw [exec_loop_words gb kind depth count hword hkids]
      exact congrArg _ (loopWord_push gb _ _ _ hpos hlt hroom hnext)
    · rw [exec_loop_control gb kind depth count hword hkids]
      exact congrArg _ (controlWord_push _ _ ks hwait hpos hlt hroom hdrain)
    · rw [exec_loop_control gb kind depth count hword hkids]
      simp only [State.controlWord, hwait]
      exact congrArg _ (driveControl_done _ _ _ _ hall hdrain hnext)
    · cases hkids : loopKids s r kind with
      | none =>
        rw [exec_loop_words gb kind depth count hword hkids]
        exact congrArg _ (loopWord_full gb _ _ _ hpos hlt hfull)
      | some ks =>
        rw [exec_loop_control gb kind depth count hword hkids]
        exact congrArg _ (controlWord_full _ _ ks hwait hpos hlt hfull)
    · have hcount : countOf r gb count.toNat = 0 := hzero
      cases hkids : loopKids s r kind with
      | none =>
        rw [exec_loop_words gb kind depth count hword hkids]
        exact congrArg _ (loopWord_zero gb _ _ _ hcount hnext)
      | some ks =>
        rw [exec_loop_control gb kind depth count hword hkids, hcount]
        exact congrArg _ (controlWord_zero _ _ ks hwait hnext)
  case endl =>
    intro top rest hloops
    have hexec : exec .endl s = .next (s.endlWord r) := onWord_of_wordRun hword _
    refine ⟨fun hmore => ?_, fun hlast hnext => ?_⟩
    · simp only [hexec, State.endlWord, hloops, if_pos hmore]
    · simp only [hexec, State.endlWord, hloops, if_neg (Nat.not_lt.mpr hlast), complWord_next hnext]
  case endlNone =>
    intro hloops
    have hexec : exec .endl s = .next (s.endlWord r) := onWord_of_wordRun hword _
    simp only [hexec, State.endlWord, hloops]
  case iter =>
    intro gb count hhandler hnext n hpos hlt
    have hexec : exec (.iter gb count) s = .next (notInHandler s r (s.iterWord r gb count.toNat)) := onWord_of_wordRun hword _
    rw [hexec, notInHandler_of_none hhandler, State.iterWord]
    refine congrArg _ ((if_neg ?_).trans (complWord_next hnext _))
    exact not_or.mpr ⟨Nat.pos_iff_ne_zero.mp hpos, Nat.not_le.mpr hlt⟩
  case waittok =>
    intro ga e p hhead hnext
    have hexec : exec (.waittok ga e) s = .next (s.waitTok r ga e.toNat) := onWord_of_wordRun hword _
    simp only [hexec, State.waitTok, hhead, complWord_next hnext]
  case waittokNone =>
    intro ga e hhead
    have hexec : exec (.waittok ga e) s = .next (s.waitTok r ga e.toNat) := onWord_of_wordRun hword _
    simp only [hexec, State.waitTok, hhead]
  case traps =>
    intro code hhandler
    have hexec : exec (.traps code) s = .next (s.trapsWord r code.toNat) := onWord_of_wordRun hword _
    simp [hexec, State.trapsWord, hhandler]
  case trapsEnd =>
    intro hhandler
    refine (onWord_of_wordRun hword _).trans (congrArg _ ?_)
    rw [State.trapsWord, if_pos (Option.isSome_iff_ne_none.mpr hhandler)]
    exact if_pos rfl

/-! ## STREAM (10 R187 to R189) -/

/-- The binding joins the generator that the word names. -/
theorem boundGen_eq {s : State} {r : Run} {img : Image} {gb : BitVec 6} {port gen entry : Nat} {e : Line} {gs : List Gen} {g : Gen}
    (himg : s.image? r = some img) (hentry : img.streams[entry]? = some e) (hport : r.region.gens[port]? = some gs)
    (hgen : gs[gen]? = some g) : s.boundGen r gb port gen entry = some (g.bindNew (bindingOf e (r.getG gb))) := by
  simp [State.boundGen, himg, hentry, hport, hgen]

/-- Settles O10: the word is `Gen.bindNew` on the generator that it names. -/
theorem streamBindsAGenerator : Obligations.StreamBindsAGenerator := by
  intro s r img gb port gen entry e gs g hword hhandler himg hentry hport hgen hnext b put
  have hexec : exec (.stream gb port gen entry) s = .next (s.streamWord r gb port.toNat gen.toNat entry.toNat) :=
    (onWord_of_wordRun hword _).trans (congrArg _ (notInHandler_of_none hhandler _))
  have hbound : s.boundGen r gb port.toNat gen.toNat entry.toNat = some (g.bindNew b) := boundGen_eq himg hentry hport hgen
  have hbinds {g' : Gen} (h : g.bindNew b = some g') : exec (.stream gb port gen entry) s = put g' := by
    simp only [hexec, State.streamWord, hbound, h, complWord_next hnext]
    rfl
  refine ⟨fun hnone => hbinds ?_, fun a hsome hended hpending => hbinds ?_, fun a hsome hended hroom => hbinds ?_, fun a hsome hended hfull => ?_⟩
  · simp [Gen.bindNew, hnone]
  · simp [Gen.bindNew, hsome, hended, hpending]
  · simp [Gen.bindNew, hsome, hended, hroom]
  · have hbind : g.bindNew b = none := by simp [Gen.bindNew, hsome, hended, Nat.not_lt.mpr hfull]
    simp only [hexec, State.streamWord, hbound, hbind]

/-! ## CONF, the RULE words, PHASE, END, SHADOW, SWAP -/

section Configuration
variable {s : State} {r : Run}

section Conf
variable {cfg rule : Nat} {full : Bool} (hwait : r.esc.wait ≠ .loading) (hdrain : s.drainOf r (r.mustDrain cfg) = .ok)
  (hdepth : s.depthOk r = true) (howned : rule = 0 ∨ s.unowned r rule = none)
include hwait hdrain hdepth howned

/-- Once what must drain has drained, a resident configuration starts and the word completes. -/
theorem confWord_resident {i : Nat} (hi : ((r.plane r.act).loads.findIdx? fun l => l.cfg == cfg) = some i) :
    s.confWord r cfg rule full = (s.startLoad r i rule full).doneWord r.id id := by
  have hnone : (if rule = 0 then none else s.unowned r rule) = none := by
    obtain h | h := howned
    · exact if_pos h
    · rw [h, ite_self]
  simp only [State.confWord, if_neg hwait, whenDrained_ok hdrain, hdepth, hnone, hi, Bool.not_true, Bool.false_eq_true, ↓reduceIte]

/-- Any other configuration is loaded first. -/
theorem confWord_loads (hi : ((r.plane r.act).loads.findIdx? fun l => l.cfg == cfg) = none) :
    s.confWord r cfg rule full = s.setRun { r with esc := { r.esc with wait := .loading } } := by
  have hnone : (if rule = 0 then none else s.unowned r rule) = none := by
    obtain h | h := howned
    · exact if_pos h
    · rw [h, ite_self]
  simp only [State.confWord, if_neg hwait, whenDrained_ok hdrain, hdepth, hnone, hi, Bool.not_true, Bool.false_eq_true, ↓reduceIte]

end Conf

/-- SWAP that does not wait yet, of a plane without a fault. -/
theorem swapWord_begin (hwait : ∀ c, r.esc.wait ≠ .swapping c) (hfault : (r.plane (1 - r.act)).fault = none) :
    s.swapWord r = if (r.plane (1 - r.act)).holdsNone then s.trapWord r.id .swapempty
      else s.whenDrained r (fun _ => true) (if (r.plane (1 - r.act)).loading.isSome || (r.plane (1 - r.act)).reload.isSome then s
        else s.setRun { r with esc := { r.esc with wait := .swapping r.cycles } }) := by
  unfold State.swapWord
  dsimp only
  split
  · exact absurd ‹_› (hwait _)
  · simp only [hfault]

end Configuration

/-- Settles O11: each word is its function of the state once its handler and its drain let it. -/
theorem configurationWords : Obligations.ConfigurationWords := by
  intro s r hword hhandler hst
  have hnot (go : Run → State) : onWord s (fun r => notInHandler s r (go r)) = .next (go r) :=
    (onWord_of_wordRun hword _).trans (congrArg _ (notInHandler_of_none hhandler _))
  refine ⟨?conf, ?drained, ?waits, ?swapEmpty, ?shadow⟩
  case conf =>
    intro row hrow hwait hdrain hdepth howned
    have hexec : exec row.1 s = .next (s.confWord r row.2.1 row.2.2.1 row.2.2.2) := by
      obtain ⟨cfg, num, rfl | rfl | rfl⟩ := hrow
      · exact hnot _
      · exact hnot _
      · exact hnot _
    rw [hexec]
    exact ⟨fun i hi => congrArg _ (confWord_resident hwait hdrain hdepth howned hi),
      fun hi => congrArg _ (confWord_loads hwait hdrain hdepth howned hi)⟩
  case drained =>
    intro hdrain
    refine ⟨(hnot _).trans (congrArg _ (whenDrained_ok hdrain _)), (hnot _).trans (congrArg _ (whenDrained_ok hdrain _)),
      fun hwait hfault hholds hload hreload => (hnot _).trans (congrArg _ ?_)⟩
    rw [swapWord_begin hwait hfault, whenDrained_ok hdrain]
    simp [hholds, hload, hreload]
  case waits =>
    intro hdrain
    exact ⟨(hnot _).trans (congrArg _ (whenDrained_wait hdrain _)), (hnot _).trans (congrArg _ (whenDrained_wait hdrain _))⟩
  case swapEmpty =>
    intro hwait hfault hholds
    refine (hnot _).trans (congrArg _ ?_)
    rw [swapWord_begin hwait hfault, if_pos hholds]
  case shadow =>
    intro ga cfg hnext q st held
    have hword : s.shadowWord r ga cfg.toNat = s.complWord r fun r =>
        (if st = 0 ∧ !held then r.setPlane q { r.plane q with loading := some cfg.toNat, fault := none } else r).setG ga
          (BitVec.ofNat 64 st) := rfl
    refine (hnot _).trans (congrArg _ (hword.trans ((complWord_next hnext _).trans ?_)))
    simp only [Bool.not_eq_true']

end Sys2Proof.Proofs.SequenceWords
end

section
/-! The state after a configuration has been started (O12): its own configuration as latched by the start, the others as the drain leaves them. -/

namespace Sys2Proof.Proofs.StartLoad
open Sys2Proof.Machine Sys2Proof.Laws

/-- What is put in the place of a run is the run of that number. -/
theorem run?_setRun {s : State} {x r : Run} (h : s.run? r.id = some x) (hst : r.st ≠ .retired) : (s.setRun r).run? r.id = some r := by
  obtain ⟨hid, hx, -⟩ := run?_spec s h
  have hkeeps (y : Run) : ((if y.id = r.id ∧ y.st ≠ .retired then r else y).id == r.id
      && (if y.id = r.id ∧ y.st ≠ .retired then r else y).st != .retired) = (y.id == r.id && y.st != .retired) := by
    by_cases hy : y.id = r.id ∧ y.st ≠ .retired
    · rw [if_pos hy, hy.1, bne_iff_ne.2 hst, bne_iff_ne.2 hy.2]
    · rw [if_neg hy]
  have hfind : s.runs.find? (fun y => y.id == r.id && y.st != .retired) = some x := h
  simp only [State.run?, State.setRun, List.find?_map, Function.comp_def, hkeeps, hfind, Option.map_some, hid]
  exact congrArg some (if_pos ⟨trivial, hx⟩)

@[simp] theorem plane_setPlane_same (r : Run) (x : Plane) : (r.setPlane r.act x).plane r.act = x := by
  unfold Run.act Run.setPlane Run.plane
  cases r.activeOne <;> rfl

@[simp] theorem plane_setPlane_other (r : Run) (x : Plane) : (r.setPlane r.act x).plane (1 - r.act) = r.plane (1 - r.act) := by
  unfold Run.act Run.setPlane Run.plane
  cases r.activeOne <;> rfl

@[simp] theorem setPlane_act (r : Run) (p : Nat) (x : Plane) : (r.setPlane p x).act = r.act := by
  unfold Run.setPlane
  split <;> rfl

@[simp] theorem setPlane_esc (r : Run) (p : Nat) (x : Plane) : (r.setPlane p x).esc = r.esc := by
  unfold Run.setPlane
  split <;> rfl
@[simp] theorem setPlane_region (r : Run) (p : Nat) (x : Plane) : (r.setPlane p x).region = r.region := by
  unfold Run.setPlane
  split <;> rfl

@[simp] theorem setPlane_id (r : Run) (p : Nat) (x : Plane) : (r.setPlane p x).id = r.id := by
  unfold Run.setPlane
  split <;> rfl
@[simp] theorem setPlane_st (r : Run) (p : Nat) (x : Plane) : (r.setPlane p x).st = r.st := by
  unfold Run.setPlane
  split <;> rfl

/-- Closing a gate changes the gates alone. -/
theorem closeGate_eq (r : Run) (n : Nat) (c : Option Nat) : ∃ gs, r.closeGate n c = { r with gates := gs } := by
  unfold Run.closeGate
  split
  · exact ⟨r.gates, rfl⟩
  · exact ⟨_, rfl⟩

/-- What else drained fires no more. -/
def othersStop (s : State) (r : Run) (i : Nat) : List Loaded :=
  (r.plane r.act).loads.zipIdx.map fun q => if q.2 ≠ i ∧ s.drained r.id r.act q.2 q.1 then { q.1 with running := false } else q.1

theorem othersStop_same {s : State} {r : Run} {i : Nat} {l : Loaded} (h : (r.plane r.act).loads[i]? = some l) :
    (othersStop s r i)[i]? = some l := by
  simp [othersStop, h]

theorem othersStop_other {s : State} {r : Run} {i j : Nat} {u : Loaded} (hj : j ≠ i) (h : (r.plane r.act).loads[j]? = some u) :
    (othersStop s r i)[j]? = some (if s.drained r.id r.act j u then { u with running := false } else u) := by
  simp [othersStop, h, hj]

/-- What a start latches. -/
theorem start_eq (l : Loaded) (r : Run) (rule : Nat) (full : Bool) (serial cycle : Nat) :
    ∃ d, l.start r rule full serial cycle = { l with
      rule := rule
      full := full
      blks := l.blks.map Blk.fresh
      bufs := l.bufs.map fun w => { w with present := [], wpos := 0, rpos := 0 }
      iters := r.esc.iterCount
      serial := serial
      running := true
      doneAt := d
      registered := false
      stray := false
      path := r.esc.loops.reverse.map fun v => (v.id, v.ret, v.count)
      sqc := r.esc.sqc } := by
  unfold Loaded.start
  extract_lets m
  split
  · exact ⟨some cycle, rfl⟩
  · exact ⟨none, rfl⟩

/-- Starting a configuration puts its run into the state with the configuration anew and the others as `othersStop` leaves them. -/
theorem startLoad_eq {s : State} {r : Run} {i : Nat} (rule : Nat) (full : Bool) {l : Loaded}
    (hload : (r.plane r.act).loads[i]? = some l) :
    ∃ gs gens, s.startLoad r i rule full = s.setRun { r.setPlane r.act { r.plane r.act with
        loads := setAt (othersStop s r i) i (l.start r rule full (r.esc.starts + 1) s.cycle) } with
      gates := gs, region := { r.region with gens := gens }, esc := { r.esc with starts := r.esc.starts + 1 } } := by
  have hl : ((r.plane r.act).loads.zipIdx.map fun q =>
      if q.2 ≠ i ∧ s.drained r.id r.act q.2 q.1 then { q.1 with running := false } else q.1)[i]? = some l := othersStop_same hload
  unfold State.startLoad
  extract_lets p n last seq rest
  split
  · rename_i hnone
    rw [hl] at hnone
    cases hnone
  · rename_i l' hl'
    obtain rfl : l = l' := Option.some.inj (hl.symm.trans hl')
    extract_lets m ports gens r1 r2
    obtain ⟨gs, hgs⟩ := closeGate_eq r1 (n - 1) (if seq then none else some m.cfg)
    refine ⟨gs, gens, congrArg _ ?_⟩
    show ({ r1.closeGate (n - 1) (if seq then none else some m.cfg) with
      region := { (r1.closeGate (n - 1) (if seq then none else some m.cfg)).region with gens := gens }, 
      esc := { (r1.closeGate (n - 1) (if seq then none else some m.cfg)).esc with starts := n } } : Run) = _
    have hesc : r1.esc = r.esc := setPlane_esc ..
    have hregion : r1.region = r.region := setPlane_region ..
    rw [hgs]
    simp only [hesc, hregion]
    rfl

/-- Settles O12: what is latched is `Loaded.start`, whose last step is about `doneAt` alone. -/
theorem startedConfiguration : Obligations.StartedConfiguration := by
  intro s r i rule full l hrun hload
  obtain ⟨gs, gens, heq⟩ := startLoad_eq (s := s) rule full hload
  generalize hnew : ({ r.setPlane r.act { r.plane r.act with
        loads := setAt (othersStop s r i) i (l.start r rule full (r.esc.starts + 1) s.cycle) } with
      gates := gs, region := { r.region with gens := gens }, esc := { r.esc with starts := r.esc.starts + 1 } } : Run) = new at heq
  have hid : new.id = r.id := by subst hnew; exact setPlane_id ..
  have hst : new.st = r.st := by subst hnew; exact setPlane_st ..
  have hrun' : (s.setRun new).run? r.id = some new := by
    rw [← hid]
    exact run?_setRun (hid ▸ hrun) (hst ▸ (run?_spec s hrun).2.1)
  have hact : new.act = r.act := by subst hnew; exact setPlane_act ..
  have hloads : (new.plane r.act).loads = setAt (othersStop s r i) i (l.start r rule full (r.esc.starts + 1) s.cycle) := by
    subst hnew; exact congrArg Plane.loads (plane_setPlane_same ..)
  have hother : new.plane (1 - r.act) = r.plane (1 - r.act) := by subst hnew; exact plane_setPlane_other ..
  have hesc : new.esc = { r.esc with starts := r.esc.starts + 1 } := by subst hnew; rfl
  have hmine : new.load? r.act i = some (l.start r rule full (r.esc.starts + 1) s.cycle) := by
    simp [Run.load?, hloads, setAt_get, othersStop_same hload]
  obtain ⟨d, hd⟩ := start_eq l r rule full (r.esc.starts + 1) s.cycle
  refine ⟨new, _, heq ▸ hrun', hmine, hact, ?_⟩
  rw [hd]
  refine ⟨rfl, rfl, rfl, rfl, rfl, rfl, by simp, ?_, ?_, ?_, by rw [hesc], by rw [hesc], by rw [hesc], by rw [hesc], hother⟩
  · intro b k hk
    simp only [List.getElem?_map, Option.map_eq_some_iff] at hk
    obtain ⟨k0, hk0, rfl⟩ := hk
    exact ⟨k0, hk0, rfl, rfl⟩
  · intro w hw
    simp only [List.mem_map] at hw
    obtain ⟨w0, -, rfl⟩ := hw
    exact ⟨rfl, rfl, rfl⟩
  · intro j u hj hu
    refine ⟨_, by rw [Run.load?, hloads, setAt_get, if_neg hj, othersStop_other hj hu], ?_⟩
    cases s.drained r.id r.act j u <;> simp

end Sys2Proof.Proofs.StartLoad
end

section
/-! The operand forms, the unary instructions and AGEN, and what every instruction of the scalar ALU does with POISON, end tokens and elided positions (O2, O3). -/

namespace Sys2Proof.Proofs.AluPositions
open Sys2Proof.Machine Sys2Proof.Laws Sys2Proof.Proofs.ScalarAlu

/-! ## Operand forms -/

theorem opB_immediate {x : FireIn} (h : x.f.md = 0) (b : Option W32) : x.opB b = BitVec.ofInt 32 x.f.imm.toInt := by
  simp [FireIn.opB, FireIn.md, h, BitVec.signExtend]

theorem opB_input {x : FireIn} (h : x.f.md = 1) (b : W32) : x.opB (some b) = b := by
  simp [FireIn.opB, FireIn.md, h]

theorem opB_pool {x : FireIn} (h : x.f.md = 2) (b : Option W32) : x.opB b = BitVec.ofNat 32 (x.pool (x.imm 9 0)).toNat := by
  simp [FireIn.opB, FireIn.md, h]

/-! ## The instructions without a row of two operands -/

/-- MOV, CLZ and POPC read input 0 alone. -/
theorem ins_of_unary {x : FireIn} (h : x.o = 0x42 ∨ x.o = 0x32 ∨ x.o = 0x33) : x.ins = [0] := by
  obtain h | h | h := h <;> rw [FireIn.ins, h] <;> rfl

theorem unFire_ordinary {zp : Bool} {op : W32 → W32} {x : FireIn} {p : Pos} (hins : x.ins = [0]) (hhead : x.heads [0] = some [p])
    (hend : p.isEnd = false) (hpoison : p.poison = false) (helided : (zp && p.isElided) = false) :
    unFire zp op x = .act { elem := x.elem.pop 0
                            emits := x.all fun k => .tok k (scalarTok (x.rc.encodeInt (op (x.ival p))) (resultMark [p]) x.rcNo) } := by
  rw [← hins] at hhead
  have h := aluFire_ordinary (zp := zp) (fun _ a _ => op a) hhead (by simpa using hend) (by simpa using hpoison) (by simpa using helided)
  rw [hins] at h
  exact h

theorem agenOp_eq (x : FireIn) (a : W32) (b : Option W32) :
    agenOp x a b = BitVec.ofNat 32 (a.toNat * 2 ^ fld x.f.imm 4 0 + (b.map (·.toNat)).getD 0 + (x.pool (fld x.f.imm 19 10)).toNat) := by
  apply BitVec.eq_of_toNat_eq
  cases b <;> simp [agenOp, FireIn.imm, Nat.shiftLeft_eq, Nat.add_mod]

/-- Settles O2: the unary instructions and AGEN are ALU firings, which with ordinary positions answer their operation's value. -/
theorem unaryAluAndAgenResult : Obligations.UnaryAluAndAgenResult := by
  refine ⟨fun x b h => opB_immediate h _, fun x b h => opB_input h b, fun x b h => opB_pool h b, ?_, ?_⟩
  · simp only [List.forall_mem_cons]
    refine ⟨?mov, ?clz, ?popc, List.forall_mem_nil _⟩
    case mov =>
      intro f s t x p hfire hhead hend hpoison helided ht
      exact fire_act hfire (unFire_ordinary (ins_of_unary (.inl (firingOf_f hfire).2)) hhead hend hpoison helided) ht
    case clz =>
      intro f s t x p hfire hhead hend hpoison helided ht
      exact fire_act hfire (unFire_ordinary (ins_of_unary (.inr (.inl (firingOf_f hfire).2))) hhead hend hpoison helided) ht
    case popc =>
      intro f s t x p hfire hhead hend hpoison helided ht
      exact fire_act hfire (unFire_ordinary (ins_of_unary (.inr (.inr (firingOf_f hfire).2))) hhead hend hpoison helided) ht
  · intro f s t x ps hfire hheads hend hpoison v r ht
    obtain rfl : f = x.f := Option.some.inj (firingOf_f hfire).1
    refine fire_act hfire (aluFire_ordinary agenOp hheads hend hpoison rfl) ?_
    rw [agenOp_eq, Option.map_map]
    exact ht

/-! ## Special positions -/

/-- What is left of an input's run of elided positions is passed on as a whole. -/
theorem aluFire_elided {x : FireIn} {ps : List Pos} (op : FireIn → W32 → Option W32 → W32) (hheads : x.heads x.ins = some ps)
    (helided : ps.all Pos.isElided = true) :
    aluFire true op x =
      let n := (x.ins.map fun k => elidedRun (x.elem.queue k)).foldl Nat.min 63
      .act { elem := x.ins.foldl (fun e k => e.setQueue k (popElided n (e.queue k))) x.elem
             emits := x.all fun k => .elide k n false x.rcNo } := by
  have hend : ps.any Pos.isEnd = false := by
    refine List.any_eq_false.2 fun p hp => ?_
    have := List.all_eq_true.1 helided p hp
    cases p with
    | elided => decide
    | tok t => cases this
  simp only [aluFire, hheads, endPair_eq_none hend, helided, Bool.and_true, ↓reduceIte]

theorem aluFire_poison {zp : Bool} {x : FireIn} {ps : List Pos} (op : FireIn → W32 → Option W32 → W32)
    (hheads : x.heads x.ins = some ps) (hend : ps.any Pos.isEnd = false) (hpoison : ps.any Pos.poison = true) :
    aluFire zp op x = .act { elem := x.elem.pops x.ins
                             emits := x.all fun k => .tok k (poisonTok false (resultMark ps) x.rcNo) } := by
  have helided : ps.all Pos.isElided = false := by
    obtain ⟨p, hp, hpoison⟩ := List.any_eq_true.1 hpoison
    refine List.all_eq_false.2 ⟨p, hp, ?_⟩
    cases p with
    | elided => cases hpoison
    | tok t => simp [Pos.isElided]
  simp only [aluFire, hheads, endPair_eq_none hend, helided, hpoison, Bool.and_false, Bool.false_eq_true, ↓reduceIte]

/-- The same end token at every input is handed on (10 R198). -/
theorem endPair_same {ps : List Pos} {m : Mark} (x : FireIn) (ks : List Nat) (vec : Bool) (hm : m.isEnd = true) (hne : ps ≠ [])
    (hall : ps.all (fun p => p.mark == m) = true) :
    endPair x ks ps vec = some (.act { elem := { x.elem.pops ks with ended := m == .eos }
                                       emits := x.all fun k => .tok k { eosTok vec x.rcNo with mark := m } }) := by
  cases ps with
  | nil => exact absurd rfl hne
  | cons p ps =>
    have hp : p.mark = m := by simpa using (List.all_eq_true.1 hall) p (by simp)
    have hend : p.isEnd = true := by rw [Pos.isEnd, hp, hm]
    simp only [endPair, List.any_cons, hend, Bool.true_or, Bool.not_true, Bool.false_eq_true, ↓reduceIte, List.find?_cons_of_pos,
      Option.map_some, Option.getD_some, hp, hall]

/-- An end token at one input and another position at another is MARKSKEW (04 R66). -/
theorem endPair_skewed {ps : List Pos} (x : FireIn) (ks : List Nat) (vec : Bool) (hend : ps.any Pos.isEnd = true)
    (hskew : ∀ m : Mark, m.isEnd = true → ps.all (fun p => p.mark == m) = false) : endPair x ks ps vec = some (.trap .markskew id) := by
  obtain ⟨p, hp⟩ : ∃ p, ps.find? Pos.isEnd = some p := Option.isSome_iff_exists.1 (by simpa using hend)
  have hm : p.mark.isEnd = true := List.find?_some (p := Pos.isEnd) hp
  simp only [endPair, hend, hp, Bool.not_true, Bool.false_eq_true, ↓reduceIte, Option.map_some, Option.getD_some, hskew _ hm]

theorem aluFire_endPair {zp : Bool} {x : FireIn} {ps : List Pos} {r : Fire} (op : FireIn → W32 → Option W32 → W32)
    (hheads : x.heads x.ins = some ps) (hr : endPair x x.ins ps false = some r) : aluFire zp op x = r := by
  simp only [aluFire, hheads, hr]

/-- Every instruction of the scalar ALU executes as an ALU firing with its zero-preserving column. -/
theorem exec_eq_aluFire : ∀ row ∈ aluRows, ∃ op, ∀ f s, exec (row.1 f) s = fire (row.1 f) (aluFire row.2 op) s := by
  simp only [aluRows, List.forall_mem_append, List.forall_mem_map, List.forall_mem_cons]
  exact ⟨fun row hrow => ⟨_, runsRow_of_mem_binRows row hrow⟩, ⟨_, fun _ _ => rfl⟩, ⟨_, fun _ _ => rfl⟩, ⟨_, fun _ _ => rfl⟩,
    ⟨_, fun _ _ => rfl⟩, List.forall_mem_nil _⟩

/-- Settles O3: the four kinds of positions are the branches of `aluFire` and `endPair`. -/
theorem aluSpecialPositions : Obligations.AluSpecialPositions := by
  intro row hrow f s t x ps hfire hheads
  obtain ⟨op, hexec⟩ := exec_eq_aluFire row hrow
  rw [hexec f s]
  refine ⟨?poison, ?ends, ?skew, ?elided⟩
  case poison =>
    intro hend hpoison ht
    exact fire_act hfire (aluFire_poison op hheads hend hpoison) ht
  case ends =>
    intro m hm hne hall ht
    exact fire_act hfire (aluFire_endPair op hheads (endPair_same x _ false hm hne hall)) ht
  case skew =>
    intro hend hskew
    rw [fire_trap hfire (aluFire_endPair op hheads (endPair_skewed x _ false hend hskew)), firingOf_s hfire]
    rfl
  case elided =>
    intro hzp helided hne n ht
    rw [hzp]
    exact fire_act hfire (aluFire_elided op hheads helided) ht

end Sys2Proof.Proofs.AluPositions
end

section
/-! The words that the spec writes out (O32). -/

namespace Sys2Proof.Proofs.SpecWords
open Sys2Proof.Machine

/-- Settles O32: the decoder computes each of the words. -/
theorem specWordsDecode : Obligations.SpecWordsDecode := by
  exact ⟨rfl, rfl, rfl, rfl, rfl, rfl, rfl, rfl, rfl, rfl, rfl, rfl, rfl, rfl, rfl, rfl, rfl⟩

end Sys2Proof.Proofs.SpecWords
end

section
/-! What is written to HBM and to a tile store reads back (O35): reads after writes of cells, the poison of a line, the old bytes of a cycle. -/

namespace Sys2Proof.Proofs.MemoryReads
open Sys2Proof.Machine Sys2Proof.Laws

/-! ## Reads after writes of cells -/

/-- A byte after a write: the byte written at its place, every other byte as it was. -/
theorem cellGet_cellWrite : ∀ (bs : List Byte) {m : List Host.Cell} (a x : Nat), Memory.wf m = true →
    cellGet (cellWrite m a bs) x = if a ≤ x then (bs[x - a]?).getD (cellGet m x) else cellGet m x
  | [], m, a, x, _ => by simp [cellWrite]
  | b :: bs, m, a, x, h => by
    rw [cellWrite, cellGet_cellWrite bs (a + 1) x (cellSet_wf a b h), cellGet_cellSet a x b h]
    by_cases hx : x = a
    · subst hx
      rw [if_neg (Nat.not_succ_le_self x), if_pos rfl, if_pos (Nat.le_refl x), Nat.sub_self, List.getElem?_cons_zero, Option.getD_some]
    · by_cases hlt : a ≤ x
      · obtain ⟨k, rfl⟩ : ∃ k, x = a + 1 + k := ⟨x - (a + 1), by omega⟩
        rw [if_pos (by omega), if_pos hlt, if_neg hx, show a + 1 + k - a = k + 1 by omega, List.getElem?_cons_succ,
          Nat.add_sub_cancel_left]
      · rw [if_neg (by omega), if_neg hlt, if_neg hx]

theorem cellGet_cellWrite_outside {m : List Host.Cell} {bs : List Byte} {a x : Nat} (h : Memory.wf m = true)
    (hx : x < a ∨ a + bs.length ≤ x) : cellGet (cellWrite m a bs) x = cellGet m x := by
  rw [cellGet_cellWrite bs a x h]
  obtain hx | hx := hx
  · rw [if_neg (by omega)]
  · rw [List.getElem?_eq_none (by omega)]
    simp

theorem cellGet_cellWrite_inside {m : List Host.Cell} {bs : List Byte} {a i : Nat} (h : Memory.wf m = true) (hi : i < bs.length) :
    cellGet (cellWrite m a bs) (a + i) = bs[i] := by
  rw [cellGet_cellWrite bs a _ h, if_pos (by omega), Nat.add_sub_cancel_left, List.getElem?_eq_getElem hi, Option.getD_some]

theorem cellRead_eq_map (m : List Host.Cell) : ∀ (n a : Nat), cellRead m a n = (List.range n).map fun i => cellGet m (a + i)
  | 0, _ => rfl
  | n + 1, a => by
    rw [cellRead, cellRead_eq_map m n (a + 1), List.range_succ_eq_map, List.map_cons, List.map_map]
    simp [Function.comp_def, Nat.add_assoc, Nat.add_comm 1]

theorem cellRead_cellWrite {m : List Host.Cell} (a : Nat) (bs : List Byte) (h : Memory.wf m = true) :
    cellRead (cellWrite m a bs) a bs.length = bs := by
  rw [cellRead_eq_map]
  refine List.ext_getElem (by simp) fun i hi hi' => ?_
  rw [List.getElem_map, List.getElem_range, cellGet_cellWrite_inside h hi']

theorem cellRead_cellWrite_outside {m : List Host.Cell} {bs : List Byte} {a x n : Nat} (h : Memory.wf m = true)
    (hx : x + n ≤ a ∨ a + bs.length ≤ x) : cellRead (cellWrite m a bs) x n = cellRead m x n := by
  rw [cellRead_eq_map, cellRead_eq_map]
  refine List.map_congr_left fun i hi => cellGet_cellWrite_outside h ?_
  have := List.mem_range.1 hi
  omega

theorem length_natBytes : ∀ n v : Nat, (natBytes n v).length = n
  | 0, _ => rfl
  | n + 1, v => by rw [natBytes, List.length_cons, length_natBytes n]

/-- The bytes of a number, lowest first, are the number modulo their range. -/
theorem bytesNat_natBytes : ∀ n v : Nat, bytesNat (natBytes n v) = v % 256 ^ n
  | 0, v => by simp [natBytes, bytesNat, Nat.mod_one]
  | n + 1, v => by
    have ih := bytesNat_natBytes n (v / 256)
    unfold bytesNat at ih ⊢
    have hsplit : v % 256 ^ (n + 1) = v % 256 + 256 * (v / 256 % 256 ^ n) := by rw [Nat.pow_succ', Nat.mod_mul]
    rw [natBytes, List.foldr_cons, ih, BitVec.toNat_ofNat, hsplit]
    omega

/-- In canonical form the first cell is the lowest byte that is not blank, so equal reads are equal lists. -/
theorem cells_ext : ∀ {m n : List Host.Cell} {lo : Nat}, Memory.wfFrom lo m = true → Memory.wfFrom lo n = true →
    (∀ x, cellGet m x = cellGet n x) → m = n
  | [], [], _, _, _, _ => rfl
  | [], (a, b) :: n, _, _, hn, h => by
    have hb := (wfFrom_cons.1 hn).2.1
    have := h a
    simp [cellGet] at this
    exact absurd this.symm hb
  | (a, b) :: m, [], _, hm, _, h => by
    have hb := (wfFrom_cons.1 hm).2.1
    have := h a
    simp [cellGet] at this
    exact absurd this hb
  | (a, b) :: m, (c, d) :: n, lo, hm, hn, h => by
    obtain ⟨ha, hb, hm'⟩ := wfFrom_cons.1 hm
    obtain ⟨hc, hd, hn'⟩ := wfFrom_cons.1 hn
    have hac : a = c := by
      refine Decidable.byContradiction fun hne => ?_
      obtain hlt | hlt := Nat.lt_or_gt_of_ne hne
      · have := h a
        rw [cellGet, if_pos rfl, cellGet, if_neg hne, if_pos hlt] at this
        exact hb this
      · have := h c
        rw [cellGet, if_neg (Ne.symm hne), if_pos hlt, cellGet, if_pos rfl] at this
        exact hd this.symm
    subst hac
    have hbd : b = d := by simpa [cellGet] using h a
    subst hbd
    refine congrArg _ (cells_ext hm' hn' fun x => ?_)
    by_cases hx : a < x
    · have := h x
      rwa [cellGet, cellGet, if_neg (by omega), if_neg (by omega), if_neg (by omega), if_neg (by omega)] at this
    · rw [cellGet_below (by omega) hm', cellGet_below (by omega) hn']

/-! ## HBM -/

theorem safe_iff {s : State} : s.Safe ↔ Memory.wf s.mem.hbm = true ∧ Memory.wf s.mem.host = true ∧ Memory.wf s.mem.store = true
    ∧ Memory.wf s.mem.codes = true := by
  simp [State.Safe, Mems.wf, and_assoc]

/-- A write to HBM that is not discarded: the bytes it leaves, that it reports no poison, and the runs. -/
theorem hbmWrite_of_taken {s : State} {a : Nat} {bs : List Byte} (h : s.poisoned a = false ∨ (a % 64 = 0 ∧ bs.length = 64)) :
    (s.hbmWrite a bs).1.mem.hbm = cellWrite s.mem.hbm a bs ∧ (s.hbmWrite a bs).2 = false ∧ (s.hbmWrite a bs).1.runs = s.runs := by
  unfold State.hbmWrite
  extract_lets whole hbm poison
  have htaken : ¬ (s.poisoned a = true ∧ ¬ whole) := by
    obtain h | h := h
    · simp [h]
    · exact fun hn => hn.2 h
  rw [if_neg htaken]
  exact ⟨rfl, rfl, rfl⟩

theorem bdiTable_lt : ∀ e ∈ bdiTable, e.1 < 11 := by decide

theorem bdiCode_lt (bs : List Byte) : bdiCode bs < 11 := by
  unfold bdiCode
  split
  · decide
  · split
    · decide
    · split
      · rename_i e he
        exact bdiTable_lt e (List.mem_of_find?_eq_some he)
      · decide

theorem otherLine_ne (k : Nat) : k ≠ otherLine k := by
  unfold otherLine
  split <;> omega

/-- A whole line clears the poison of its line, and the code of its block is good again. -/
theorem poisoned_hbmWrite_whole {s : State} {a : Nat} {bs : List Byte} (hs : s.Safe) (ha : a % 64 = 0) (hlen : bs.length = 64) :
    (s.hbmWrite a bs).1.poisoned a = false := by
  have hwhole : a % 64 = 0 ∧ bs.length = 64 := ⟨ha, hlen⟩
  simp only [State.hbmWrite, hwhole, not_true_eq_false, and_false, ↓reduceIte, and_self]
  rw [State.poisoned, Bool.or_eq_false_iff]
  constructor
  · rw [List.contains_eq_mem, decide_eq_false_iff_not]
    have hfiltered : a / 64 ∉ s.mem.poison.filter (· ≠ a / 64) := by simp
    show a / 64 ∉ (if s.codeBad a = true then insertNew (otherLine (a / 64)) (s.mem.poison.filter (· ≠ a / 64)) else _)
    split
    · unfold insertNew
      split
      · exact hfiltered
      · rw [List.mem_append, List.mem_singleton, not_or]
        exact ⟨hfiltered, otherLine_ne _⟩
    · exact hfiltered
  · have hcodes : Memory.wf s.mem.codes = true := (safe_iff.1 hs).2.2.2
    simp only [State.codeBad, State.codeOf, cellGet_cellSet (a / 128) (a / 128) _ hcodes, ↓reduceIte, decide_eq_false_iff_not]
    rw [BitVec.toNat_ofNat, Nat.mod_eq_of_lt (Nat.lt_trans (bdiCode_lt _) (by decide))]
    exact Nat.not_le.2 (bdiCode_lt _)

/-! ## Tile stores -/

/-- In the cycle of a write every byte of the stores reads as before it: what is overwritten is kept until the cycle ends. -/
theorem bankByte_bankWrite (s : State) (r : Run) (page tile a : Nat) (bs : List Byte) (hs : s.Safe) (k : Nat) :
    (s.bankWrite r page tile a bs).bankByte k = s.bankByte k := by
  have hstore : Memory.wf s.mem.store = true := (safe_iff.1 hs).2.2.1
  generalize hb : storeKey r.die (r.phys page) tile a = base
  simp only [State.bankWrite, State.bankByte, hb, List.find?_append]
  cases hold : s.mem.storeOld.find? fun c => c.1 == k with
  | some c => rfl
  | none =>
    rw [Option.none_or]
    split
    · rename_i c hc
      obtain ⟨i, -, rfl⟩ := List.mem_map.1 (List.mem_of_find?_eq_some hc)
      have hk : base + i = k := by simpa using List.find?_some hc
      rw [hk]
    · rename_i hnone
      refine cellGet_cellWrite_outside hstore ?_
      refine Decidable.byContradiction fun hin => ?_
      rw [List.find?_eq_none] at hnone
      refine hnone (k, cellGet s.mem.store k) (List.mem_map.2 ⟨k - base, List.mem_filter.2 ⟨List.mem_range.2 (by omega), ?_⟩, ?_⟩) (by simp)
      · rw [show base + (k - base) = k by omega, Bool.not_eq_true', List.any_eq_false]
        exact List.find?_eq_none.1 hold
      · rw [show base + (k - base) = k by omega]

theorem bankRead_bankWrite (s : State) (r : Run) (page tile a : Nat) (bs : List Byte) (hs : s.Safe) (p q x n : Nat) :
    (s.bankWrite r page tile a bs).bankRead r p q x n = s.bankRead r p q x n :=
  List.map_congr_left fun _ _ => bankByte_bankWrite s r page tile a bs hs _

/-- Once the cycle has ended a store reads its cells. -/
theorem forget_bankRead (s : State) (r : Run) (p q x n : Nat) :
    s.forget.bankRead r p q x n = cellRead s.mem.store (storeKey r.die (r.phys p) q x) n := by
  rw [cellRead_eq_map]
  rfl

/-- Settles O35: reads of cells after writes of cells, with a line's poison and the old bytes of the cycle beside them. -/
theorem memoryReadsBack : Obligations.MemoryReadsBack := by
  refine ⟨?number, ?outside, fun m n hm hn h => cells_ext hm hn h, ?hbm, ?poisoned, ?bank⟩
  case number =>
    intro m a n v hm
    have h := cellRead_cellWrite a (natBytes n v) hm
    rw [length_natBytes] at h
    rw [h, bytesNat_natBytes]
  case outside =>
    exact fun m a x bs hm hx => cellGet_cellWrite_outside hm hx
  case hbm =>
    intro s a bs hs hpoison
    have hhbm : Memory.wf s.mem.hbm = true := (safe_iff.1 hs).1
    obtain ⟨hcells, hreport, hruns⟩ := hbmWrite_of_taken (s := s) (bs := bs) (.inl hpoison)
    refine ⟨?_, hreport, hruns, fun x n hx => ?_⟩
    · rw [State.hbmRead, hcells, cellRead_cellWrite a bs hhbm]
    · rw [State.hbmRead, hcells, cellRead_cellWrite_outside hhbm hx, State.hbmRead]
  case poisoned =>
    intro s a bs hs hpoison
    have hhbm : Memory.wf s.mem.hbm = true := (safe_iff.1 hs).1
    refine ⟨fun hpart => ?_, fun hlen ha => ?_⟩
    · have hnot : ¬ (a % 64 = 0 ∧ bs.length = 64) := by omega
      simp [State.hbmWrite, hpoison, hnot]
    · obtain ⟨hcells, hreport, -⟩ := hbmWrite_of_taken (s := s) (a := a) (.inr ⟨ha, hlen⟩)
      refine ⟨poisoned_hbmWrite_whole hs ha hlen, ?_, hreport⟩
      rw [State.hbmRead, hcells, ← hlen, cellRead_cellWrite a bs hhbm]
  case bank =>
    intro s r page tile a bs hs t
    have hstore : Memory.wf s.mem.store = true := (safe_iff.1 hs).2.2.1
    refine ⟨bankRead_bankWrite s r page tile a bs hs, ?_, fun p q x n hx => ?_⟩
    · rw [forget_bankRead]
      exact cellRead_cellWrite _ bs hstore
    · rw [forget_bankRead, forget_bankRead]
      exact cellRead_cellWrite_outside hstore hx

end Sys2Proof.Proofs.MemoryReads
end

section
/-! The routing elements and the gate (O36): what each firing does with the positions at its inputs. -/

namespace Sys2Proof.Proofs.ControlElements
open Sys2Proof.Machine Sys2Proof.Laws Sys2Proof.Proofs.ScalarAlu Sys2Proof.Proofs.AluPositions

/-- The mode of an element as a number and as its field. -/
theorem md_eq_iff (x : FireIn) {n : Nat} (hn : n < 4) : x.md = n ↔ x.f.md = BitVec.ofNat 2 n := by
  unfold FireIn.md
  constructor
  · intro h
    exact BitVec.eq_of_toNat_eq (by rw [h, BitVec.toNat_ofNat, Nat.mod_eq_of_lt hn])
  · intro h
    rw [h, BitVec.toNat_ofNat, Nat.mod_eq_of_lt hn]

theorem md_eq_one (x : FireIn) : x.md = 1 ↔ x.f.md = 1 := md_eq_iff x (by decide)
theorem md_eq_zero (x : FireIn) : x.md = 0 ↔ x.f.md = 0 := md_eq_iff x (by decide)
theorem md_eq_two (x : FireIn) : x.md = 2 ↔ x.f.md = 2 := md_eq_iff x (by decide)

/-! ## Routing -/

/-- A selector's choice, and whether it poisons what it chooses. -/
theorem selOf_eq (p : Pos) : selOf p = (if p.poison = true ∨ p.word = 0 then 0 else 1, p.poison) := by
  unfold selOf
  cases p.poison <;> simp

section Merge
variable {x : FireIn} {p sel : Pos} {k : Nat} {psn : Bool}

/-- A MERGE whose selector has been taken forwards the position that it chose. -/
theorem mergeData_chosen (el : Elem) (hchosen : x.avail k = some p) (hend : p.isEnd = false) :
    mergeData x el k psn = .act { elem := { el.pop k with ctl := .merge none }, emits := x.all fun o => x.forward psn p o } := by
  simp [mergeData, hchosen, hend]

/-- Outside transactional blocks a MERGE takes its selector before the position that it chose has come (log 79). -/
theorem mergeData_early (el : Elem) (hchosen : x.avail k = none) (htx : x.blk.tx = false) :
    mergeData x el k psn = .act { elem := { el with ctl := .merge (some (k, psn)) } } := by
  simp [mergeData, hchosen, htx]

theorem mergeFire_selector (hctl : x.elem.ctl = .merge none) (hsel : x.avail 2 = some sel) (hend : sel.isEnd = false) :
    mergeFire x = mergeData x (x.elem.pop 2) (if sel.poison = true ∨ sel.word = 0 then 0 else 1) sel.poison := by
  simp [mergeFire, hctl, hsel, hend, selOf_eq]

theorem mergeFire_chosen (hctl : x.elem.ctl = .merge (some (k, psn))) (hchosen : x.avail k = some p) :
    mergeFire x = mergeData x x.elem k psn := by
  simp [mergeFire, hctl, hchosen]

end Merge

section Cmerge
variable {x : FireIn} {p : Pos} {k : Nat} {last : Bool} {closed : List Nat}

/-- What a CMERGE does with the position of the input whose turn it is. -/
theorem cmergeFire_turn (hctl : x.elem.ctl = .cmerge last closed) (hk : k ≤ 1) (hp : x.avail k = some p)
    (hturn : x.avail (1 - k) ≠ none → k = if last then 0 else 1) :
    cmergeFire x =
      if p.mark = .eos then
        if closed.isEmpty then .act { elem := { x.elem.pop k with ctl := .cmerge last [k] } }
        else .act { elem := { x.elem.pop k with ctl := .cmerge last (k :: closed), ended := true }
                    emits := x.all fun o => .tok o (eosTok false x.rcNo) }
      else .act { elem := { x.elem.pop k with ctl := .cmerge (k == 1) closed }, emits := x.all fun o => x.forward false p o } := by
  obtain rfl | rfl : k = 0 ∨ k = 1 := by omega
  · cases h1 : x.avail 1 with
    | none => simp [cmergeFire, hctl, hp, h1]
    | some q =>
      have hl : last = true := by simpa [h1] using hturn
      simp [cmergeFire, hctl, hp, h1, hl]
  · cases h0 : x.avail 0 with
    | none => simp [cmergeFire, hctl, hp, h0]
    | some q =>
      have hl : last = false := by simpa [h0] using hturn
      simp [cmergeFire, hctl, hp, h0, hl]

end Cmerge

section Gate
variable {x : FireIn} {p q : Pos} {left : Nat} {o : Bool}

theorem gateFire_open (hctl : x.elem.ctl = .gate true left false) (hp : x.avail 0 = some p) (hend : p.isEnd = false) :
    gateFire x = .act (gatePass x x.elem left p) := by
  simp [gateFire, hctl, hp, hend]

/-- A permit with a count that is not zero opens the gate for the position beside it, of which it is the first. -/
theorem gateFire_permit (hctl : x.elem.ctl = .gate false left false) (hp : x.avail 0 = some p) (hpend : p.isEnd = false)
    (hq : x.avail 1 = some q) (hqend : q.isEnd = false) (hused : (decide (x.md = 1) && q.poison) = false)
    (hcount : permitCount x q ≠ 0) : gateFire x = .act (gatePass x (x.elem.pop 1) (permitCount x q) p) := by
  simp only [gateFire, hctl, hp, hpend, hq, hqend, hused, hcount, Bool.false_eq_true, ↓reduceIte]
  rfl

theorem gateFire_eos (hctl : x.elem.ctl = .gate o left false) (hp : x.avail 0 = some p) (heos : p.mark = .eos) :
    gateFire x = .act { elem := { x.elem.pop 0 with ctl := .gate o left true }, emits := x.all fun o => x.forward false p o } := by
  simp [gateFire, hctl, hp, Pos.isEnd, heos, Mark.isEnd]

theorem gateFire_ended (hctl : x.elem.ctl = .gate o left true) (hq : x.avail 1 = some q) :
    gateFire x = .act { elem := x.elem.pop 1 } := by
  simp [gateFire, hctl, hq]

end Gate

/-- Settles O36: each case is one branch of the element's firing. -/
theorem routingElements : Obligations.RoutingElements := by
  refine ⟨?steer, ?merge, ?early, ?chosen, ?cmerge, ?copy, ?gateOpen, ?permit, ?eos, ?ended⟩
  case steer =>
    intro f s t x d sel hfire hheads hd hsel k ht
    refine fire_act hfire ?_ ht
    have hend : [d, sel].any Pos.isEnd = false := by simp [hd, hsel]
    simp only [steerFire, hheads, endPair_eq_none hend, selOf_eq, List.contains_eq_mem, decide_eq_true_eq]
    rfl
  case merge =>
    intro f s t x sel p hfire hctl hsel hselend k hp hpend ht
    exact fire_act hfire ((mergeFire_selector hctl hsel hselend).trans (mergeData_chosen _ hp hpend)) ht
  case early =>
    intro f s t x sel hfire hctl hsel hselend htx k hp ht
    exact fire_act hfire ((mergeFire_selector hctl hsel hselend).trans (mergeData_early _ hp htx)) ht
  case chosen =>
    intro f s t x p k psn hfire hctl hp hpend ht
    exact fire_act hfire ((mergeFire_chosen hctl hp).trans (mergeData_chosen _ hp hpend)) ht
  case cmerge =>
    intro f s t x p last closed k hfire hctl hk hp hturn
    have hbody := cmergeFire_turn hctl hk hp hturn
    refine ⟨fun hmark ht => ?_, fun hmark hclosed ht => ?_, fun hmark hclosed ht => ?_⟩
    · rw [if_neg hmark] at hbody
      exact fire_act hfire hbody ht
    · rw [if_pos hmark, hclosed, if_pos List.isEmpty_nil] at hbody
      exact fire_act hfire hbody ht
    · rw [if_pos hmark, if_neg (by simpa using hclosed)] at hbody
      exact fire_act hfire hbody ht
  case copy =>
    intro f s t x p hfire hp ht
    exact fire_act hfire (by simp [copyFire, hp]) ht
  case gateOpen =>
    intro f s t x p left hfire hctl hp hend still ht
    obtain rfl : f = x.f := Option.some.inj (firingOf_f hfire).1
    refine fire_act hfire ((gateFire_open hctl hp hend).trans ?_) ht
    simp only [gatePass, md_eq_one]
    rfl
  case permit =>
    intro f s t x p q left hfire hctl hp hpend hq hqend hform n still ht
    obtain rfl : f = x.f := Option.some.inj (firingOf_f hfire).1
    have hused : (decide (x.md = 1) && q.poison) = false := by
      obtain hmd | ⟨-, hq, -⟩ := hform
      · simp [(md_eq_zero x).2 hmd]
      · simp [hq]
    have hcount : permitCount x q = n := by
      obtain hmd | ⟨hmd, hq, -⟩ := hform
      · simp [permitCount, n, (md_eq_zero x).2 hmd, hmd]
      · simp [permitCount, n, (md_eq_one x).2 hmd, hmd, hq]
    have hne : n ≠ 0 := by
      obtain hmd | ⟨hmd, -, hpos⟩ := hform
      · simp [n, hmd]
      · simp only [n, hmd, ↓reduceIte]
        omega
    refine fire_act hfire ((gateFire_permit hctl hp hpend hq hqend hused (hcount ▸ hne)).trans ?_) ht
    simp only [gatePass, hcount, md_eq_one]
    rfl
  case eos =>
    intro f s t x left o p hfire hctl hp heos ht
    exact fire_act hfire (gateFire_eos hctl hp heos) ht
  case ended =>
    intro f s t x left o q hfire hctl hq ht
    exact fire_act hfire (gateFire_ended hctl hq) ht

end Sys2Proof.Proofs.ControlElements
end

section
/-! CONSTK, the counters, DROP and the sinks (O37): what each firing does, branch by branch. -/

namespace Sys2Proof.Proofs.GeneratorsSinks
open Sys2Proof.Machine Sys2Proof.Laws Sys2Proof.Proofs.ControlElements

/-! ## CONSTK -/

section Constk
variable {x : FireIn} {j : Nat} {g : Bool}

/-- The constant `j` sent: its token, and the count of the next one. -/
def constAct (x : FireIn) (el : Elem) (j : Nat) (once : Bool) : Act :=
  let n := fld x.f.imm 19 10 + 1
  { elem := { el with ctl := .count (j + 1) (decide (j + 1 < n)), ended := once && x.outs.isEmpty && decide (j + 1 = n) }
    emits := x.all fun k => .tok k (constTok x j) }

theorem ite_count (p : Prop) [Decidable p] (n : Nat) : (if p then Ctl.count n true else Ctl.count n false) = .count n (decide p) := by
  split <;> simp [*]

theorem constkFire_word (hctl : x.elem.ctl = .count j g) (hrun : x.elem.ended = false) (hgo : x.md = 0 ∨ g = true)
    (hj : j < fld x.f.imm 19 10 + 1) : constkFire x = .act (constAct x x.elem j (decide (x.md = 0))) := by
  by_cases hmd : x.md = 0
  · simp [constkFire, hctl, hrun, hmd, hj, constAct, FireIn.imm, ite_count]
  · have hg : g = true := hgo.resolve_left hmd
    simp [constkFire, hctl, hrun, hmd, hg, constAct, FireIn.imm, ite_count]

theorem constkFire_end (hctl : x.elem.ctl = .count j g) (hrun : x.elem.ended = false) (hmd : x.md = 0) (hj : fld x.f.imm 19 10 + 1 ≤ j) :
    constkFire x = .act { elem := { x.elem with ended := true }, emits := x.all fun k => .tok k (eosTok false x.rcNo) } := by
  simp [constkFire, hctl, hrun, hmd, FireIn.imm, Nat.not_lt.2 hj]

theorem constkFire_go {p : Pos} (hctl : x.elem.ctl = .count j false) (hrun : x.elem.ended = false) (hmd : x.md ≠ 0)
    (hp : x.avail 0 = some p) (hend : p.isEnd = false) : constkFire x = .act (constAct x (x.elem.pop 0) 0 false) := by
  simp [constkFire, hctl, hrun, hmd, hp, hend, constAct, FireIn.imm, ite_count]

theorem constkFire_goEnd {p : Pos} (hctl : x.elem.ctl = .count j false) (hrun : x.elem.ended = false) (hmd : x.md ≠ 0)
    (hp : x.avail 0 = some p) (hend : p.isEnd = true) : constkFire x = .act
      { elem := { x.elem.pop 0 with ended := p.mark == .eos }
        emits := x.all fun k => .tok k { eosTok false x.rcNo with mark := p.mark } } := by
  simp [constkFire, hctl, hrun, hmd, hp, hend]

end Constk

/-- A POISON position is no end token. -/
theorem isEnd_of_poison {p : Pos} (h : p.poison = true) : p.isEnd = false := by
  cases p with
  | elided => cases h
  | tok t =>
    have hm : t.mark = .poison := beq_iff_eq.1 h
    simp [Pos.isEnd, Pos.mark, hm, Mark.isEnd]

/-! ## CTR -/

section Ctr
variable {x : FireIn} {p : CtrPass} {q : Pos} {root n : Nat} {g : Bool}

theorem ctrOnce_pass (hctl : x.elem.ctl = .ctr (some p) root g) (hrun : x.elem.ended = false) :
    ctrOnce x n = ctrIndex x x.elem p true := by
  simp [ctrOnce, hctl, hrun]

theorem ctrOnce_begin (hctl : x.elem.ctl = .ctr none 0 g) (hrun : x.elem.ended = false) (hn : 0 < n) :
    ctrOnce x n = ctrIndex x x.elem ⟨0, n, .last⟩ true := by
  simp [ctrOnce, hctl, hrun, Nat.pos_iff_ne_zero.1 hn]

theorem ctrOnce_end (hctl : x.elem.ctl = .ctr none root g) (hrun : x.elem.ended = false) (hn : 0 < root ∨ n = 0) :
    ctrOnce x n = .act { elem := { x.elem with ended := true }, emits := x.all fun k => .tok k (eosTok false x.rcNo) } := by
  cases root with
  | zero => simp [ctrOnce, hctl, hrun, hn.resolve_left (Nat.lt_irrefl 0)]
  | succ root => simp [ctrOnce, hctl, hrun]

theorem ctrGo_pass (hctl : x.elem.ctl = .ctr (some p) root g) : ctrGo x = ctrIndex x x.elem p false := by
  simp [ctrGo, hctl]

theorem ctrGo_end (hctl : x.elem.ctl = .ctr none root g) (hq : x.avail 0 = some q) (hend : q.isEnd = true) : ctrGo x = .act
    { elem := { x.elem.pop 0 with ended := q.mark == .eos }
      emits := x.all fun k => .tok k { eosTok false x.rcNo with mark := q.mark } } := by
  simp [ctrGo, hctl, hq, hend]

theorem ctrGo_poison (hctl : x.elem.ctl = .ctr none root g) (hq : x.avail 0 = some q) (hend : q.isEnd = false) (hmd : x.md = 2)
    (hpoison : q.poison = true) : ctrGo x = .act
      { elem := x.elem.pop 0, emits := x.all fun k => .tok k (poisonTok false q.struct x.rcNo) } := by
  simp [ctrGo, hctl, hq, hend, hmd, hpoison]

/-- A go position begins a pass of the count in the word or of its own value. -/
theorem ctrGo_begin (hctl : x.elem.ctl = .ctr none root g) (hq : x.avail 0 = some q) (hend : q.isEnd = false)
    (hplain : x.md = 1 ∨ q.poison = false) :
    ctrGo x = let n := if x.md = 1 then fld x.f.imm 19 0 else (x.ival q).toInt.toNat
      if n = 0 then .act { elem := x.elem.pop 0 }
      else ctrIndex x (x.elem.pop 0) ⟨0, n, if q.struct.rank = 0 then .last else .last2⟩ false := by
  have hpoison : (decide (x.md = 2) && q.poison) = false := by
    obtain h | h := hplain
    · simp [h]
    · simp [h]
  simp only [ctrGo, hctl, hq, hend, hpoison, Bool.false_eq_true, ↓reduceIte]
  rfl

theorem ctrFire_once (h : x.f.md = 0) : ctrFire x = ctrOnce x (fld x.f.imm 19 0) := if_pos ((md_eq_zero x).2 h)

theorem ctrFire_go (h : x.f.md ≠ 0) : ctrFire x = ctrGo x := if_neg fun hmd => h ((md_eq_zero x).1 hmd)

end Ctr

/-! ## DROP -/

section Drop
variable {x : FireIn} {tk : Token} {c : Nat} {psn : Bool}

theorem dropFire_elided (hctl : x.elem.ctl = .count c psn) (hp : x.avail 0 = some .elided) : dropFire x = .act
    { elem := { x.elem.setQueue 0 (popElided (elidedRun (x.elem.queue 0)) (x.elem.queue 0)) with
        ctl := .count (c + elidedRun (x.elem.queue 0)) psn } } := by
  simp [dropFire, hctl, hp]

theorem dropFire_end (hp : x.avail 0 = some (.tok tk)) (hend : tk.mark.isEnd = true) :
    dropFire x = .act { elem := { x.elem.pop 0 with ended := tk.mark == .eos }
                        emits := x.all fun k => .tok k { eosTok false x.rcNo with mark := tk.mark } } := by
  simp [dropFire, hp, hend]

theorem dropFire_control (hp : x.avail 0 = some (.tok tk)) (hmark : tk.mark = .ctrl ∨ tk.mark = .steer) :
    dropFire x = .act { elem := x.elem.pop 0 } := by
  have hend : tk.mark.isEnd = false := by
    obtain h | h := hmark <;> rw [h] <;> rfl
  simp [dropFire, hp, hend, hmark]

/-- Where the structural marker is a place of a fibre, the token is none of the end and control tokens. -/
theorem plain_of_struct {tk : Token} (h : tk.struct = .data ∨ tk.struct = .last ∨ tk.struct = .last2) :
    tk.mark.isEnd = false ∧ ¬ (tk.mark = .ctrl ∨ tk.mark = .steer) := by
  unfold Token.struct at h
  cases hm : tk.mark <;> simp [hm, Mark.isEnd] at h ⊢

theorem dropFire_count (hctl : x.elem.ctl = .count c psn) (hp : x.avail 0 = some (.tok tk)) (hstruct : tk.struct = .data) :
    dropFire x = .act { elem := { x.elem.pop 0 with ctl := .count (c + 1) (psn || tk.isPoison) } } := by
  obtain ⟨hend, hcontrol⟩ := plain_of_struct (.inl hstruct)
  simp [dropFire, hctl, hp, hend, hcontrol, hstruct]

theorem dropFire_flush (hctl : x.elem.ctl = .count c psn) (hp : x.avail 0 = some (.tok tk)) (hstruct : tk.struct = .last ∨ tk.struct = .last2) :
    dropFire x =
      let w := if psn || tk.isPoison then poisonTok false tk.struct x.rcNo
        else scalarTok (x.rc.encodeInt (BitVec.ofNat 32 (c + 1))) tk.struct x.rcNo
      .act { elem := { x.elem.pop 0 with ctl := .count 0 false }, emits := x.all fun k => .tok k w } := by
  obtain ⟨hend, hcontrol⟩ := plain_of_struct (.inr hstruct)
  have hdata : tk.struct ≠ .data := by
    obtain h | h := hstruct <;> rw [h] <;> decide
  simp [dropFire, hctl, hp, hend, hcontrol, hdata]

end Drop

/-! ## SINK.esc -/

section SinkEsc
variable {x : FireIn} {p : Pos}

theorem sinkEscFire_room : x.avail 0 = some p →
    (x.run.esc.e.getD (fld x.f.imm 2 0) []).length + x.s.heldOut x.ref.run (fld x.f.imm 2 0) < 4 →
    sinkEscFire x =
      let tok : Token := match p with
        | .elided => scalarTok 0 .data x.rcNo
        | .tok w => { w with skip := 0 }
      .act { elem := x.elem.pop 0, eff := x.sendOut (fld x.f.imm 2 0) tok } := by
  intro hp hroom
  simp only [sinkEscFire, hp, FireIn.imm, ge_iff_le, Nat.not_le.2 hroom, ↓reduceIte] <;> cases p <;> rfl

theorem sinkEscFire_full (hp : x.avail 0 = some p)
    (hfull : 4 ≤ (x.run.esc.e.getD (fld x.f.imm 2 0) []).length + x.s.heldOut x.ref.run (fld x.f.imm 2 0)) :
    sinkEscFire x = .wait := by
  simp only [sinkEscFire, hp, FireIn.imm, ge_iff_le, hfull, ↓reduceIte]

end SinkEsc

/-- Settles O37: each case is one branch of the element's firing. -/
theorem generatorsAndSinks : Obligations.GeneratorsAndSinks := by
  refine ⟨?constk, ?ctr, ?drop, ?sink, ?sinkEsc⟩
  case constk =>
    intro f s t x j g hfire hctl hrun n
    obtain rfl : f = x.f := Option.some.inj (firingOf_f hfire).1
    refine ⟨fun hgo hj ht => ?_, fun hmd hj ht => ?_, fun p hmd hg hp => ⟨fun hend ht => ?_, fun hend ht => ?_⟩⟩
    · refine fire_act hfire (constkFire_word hctl hrun (hgo.imp_left (md_eq_zero x).2) hj) ?_
      simp only [constAct, md_eq_zero]
      exact ht
    · exact fire_act hfire (constkFire_end hctl hrun ((md_eq_zero x).2 hmd) hj) ht
    · exact fire_act hfire (constkFire_go (hg ▸ hctl) hrun (fun h => hmd ((md_eq_zero x).1 h)) hp hend) ht
    · exact fire_act hfire (constkFire_goEnd (hg ▸ hctl) hrun (fun h => hmd ((md_eq_zero x).1 h)) hp hend) ht
  case ctr =>
    simp only [List.forall_mem_cons]
    refine ⟨?plain, ?root, List.forall_mem_nil _⟩
    case plain =>
      intro f s t x pass root g hfire hctl hrun
      obtain rfl : f = x.f := Option.some.inj (firingOf_f hfire).1
      by_cases hmd : x.f.md = 0
      · have hbody := ctrFire_once hmd
        simp only [hmd, ↓reduceIte, Option.some.injEq, Option.isSome_some, reduceCtorEq, false_implies, implies_true, and_true]
        refine ⟨fun p hpass ht => ?_, fun n hn hpass hroot hpos ht => ?_, fun n hn hpass hdone ht => ?_⟩
        · exact fire_act hfire (hbody.trans (ctrOnce_pass (hpass ▸ hctl) hrun)) ht
        · subst hn
          exact fire_act hfire (hbody.trans (ctrOnce_begin (hpass ▸ hroot ▸ hctl) hrun hpos)) ht
        · subst hn
          exact fire_act hfire (hbody.trans (ctrOnce_end (hpass ▸ hctl) hrun hdone)) ht
      · have hbody := ctrFire_go hmd
        simp only [hmd, ↓reduceIte, Option.isSome_none, reduceCtorEq, false_implies, implies_true, true_and, forall_const]
        refine ⟨fun p hpass ht => ?_, fun p hpass hp => ⟨fun hend ht => ?_, fun hend hplain hpos ht => ?_, fun hend hplain hzero ht => ?_,
          fun htwo hpoison ht => ?_⟩⟩
        · exact fire_act hfire (hbody.trans (ctrGo_pass (hpass ▸ hctl))) ht
        · exact fire_act hfire (hbody.trans (ctrGo_end (hpass ▸ hctl) hp hend)) ht
        · have hgo := ctrGo_begin (hpass ▸ hctl) hp hend (hplain.imp_left (md_eq_one x).2)
          simp only [md_eq_one, Nat.pos_iff_ne_zero.1 hpos, ↓reduceIte] at hgo
          exact fire_act hfire (hbody.trans hgo) ht
        · have hgo := ctrGo_begin (hpass ▸ hctl) hp hend (hplain.imp_left (md_eq_one x).2)
          simp only [md_eq_one, hzero, ↓reduceIte] at hgo
          exact fire_act hfire (hbody.trans hgo) ht
        · exact fire_act hfire (hbody.trans (ctrGo_poison (hpass ▸ hctl) hp (isEnd_of_poison hpoison) ((md_eq_two x).2 htwo) hpoison)) ht
    case root =>
      intro f s t x pass root g hfire hctl hrun
      refine ⟨fun p hpass ht => ?_, fun n hn hpass hroot hpos ht => ?_, fun n hn hpass hdone ht => ?_, fun p hnone => ?_⟩
      · exact fire_act hfire (ctrOnce_pass (hpass ▸ hctl) hrun) ht
      · obtain rfl := Option.some.inj hn
        exact fire_act hfire (ctrOnce_begin (hpass ▸ hroot ▸ hctl) hrun hpos) ht
      · obtain rfl := Option.some.inj hn
        exact fire_act hfire (ctrOnce_end (hpass ▸ hctl) hrun hdone) ht
      · cases hnone
  case drop =>
    intro f s t x p c psn hfire hctl hp
    cases p with
    | elided =>
      refine ⟨fun _ ht => fire_act hfire (dropFire_elided hctl hp) ht, fun h => ?_, fun h => ?_, fun h => ?_, fun h => ?_⟩
      · cases h
      · simp [Pos.mark] at h
      · cases h
      · simp [Pos.struct] at h
    | tok tk =>
      refine ⟨fun h => ?_, fun hend ht => fire_act hfire (dropFire_end hp hend) ht,
        fun hmark ht => fire_act hfire (dropFire_control hp hmark) ht,
        fun _ hstruct ht => fire_act hfire (dropFire_count hctl hp hstruct) ht,
        fun hstruct ht => fire_act hfire (dropFire_flush hctl hp hstruct) ht⟩
      cases h
  case sink =>
    intro f s t x p hfire hp ht
    exact fire_act hfire (by simp [sinkFire, hp]) ht
  case sinkEsc =>
    intro f s x p hfire hp e held tok
    obtain rfl : f = x.f := Option.some.inj (firingOf_f hfire).1
    refine ⟨fun hroom t ht => fire_act hfire (sinkEscFire_room hp hroom) ht, fun hfull => ?_⟩
    exact (fire_wait hfire (sinkEscFire_full hp hfull)).trans (congrArg _ (firingOf_s hfire))

end Sys2Proof.Proofs.GeneratorsSinks
end

section
/-! The accumulators (O38): what a firing folds, keeps and sends. -/

namespace Sys2Proof.Proofs.Accumulators
open Sys2Proof.Machine Sys2Proof.Laws Sys2Proof.Proofs.ControlElements

/-! ## The head of a queue of scalar tokens -/

section Head
variable {x : FireIn} {tk : Token} {rest : List Token}

theorem avail_elided {k : Nat} (hq : x.elem.queue k = tk :: rest) (hskip : 0 < tk.skip) : x.avail k = some .elided := by
  simp [FireIn.avail, FireIn.head, Elem.head, headPos, hq, hskip]

theorem avail_token {k : Nat} (hq : x.elem.queue k = tk :: rest) (hvec : tk.vec = false) (hskip : tk.skip = 0) :
    x.avail k = some (.tok tk) := by
  simp [FireIn.avail, FireIn.head, Elem.head, headPos, hq, hskip, hvec]

end Head

/-! ## The firing of an accumulator -/

/-- The word that an accumulator folds onto. -/
def accBase (x : FireIn) (kind : AccKindOf) (tk : Token) (total : W32) (folded : Bool) : W32 :=
  if folded then total else accIdent kind (x.load.chan tk.chan).fmt

/-- The total with a value folded in. -/
def accNext (x : FireIn) (kind : AccKindOf) (tk : Token) (total : W32) (folded : Bool) (v : W32) : W32 :=
  let fmt := (x.load.chan tk.chan).fmt
  accFold kind (fmt == 11 || fmt == 10) (accBase x kind tk total folded) v

/-- The token of a total. -/
def accToken (x : FireIn) (psn : Bool) (w : W32) (m : Mark) : Token :=
  if psn then poisonTok false m x.rcNo else scalarTok (x.rc.encodeInt w) m x.rcNo

section Fire
variable {x : FireIn} {kind : AccKindOf} {tk : Token} {rest : List Token} {total : W32} {folded psn : Bool}

theorem accFire_elided (hctl : x.elem.ctl = .accum total folded psn) (hq : x.elem.queue 0 = tk :: rest) (hskip : 0 < tk.skip) :
    accFire kind x = .act { elem := { x.elem.setQueue 0 ({ tk with skip := 0 } :: rest) with
      ctl := .accum (if kind = .sum then accBase x kind tk total folded else accNext x kind tk total folded 0) true psn } } := by
  simp only [accFire, hctl, hq, avail_elided hq hskip, elidedRun, popElided, Nat.sub_self]
  cases kind <;> rfl

section Token
variable (hctl : x.elem.ctl = .accum total folded psn) (hq : x.elem.queue 0 = tk :: rest) (hvec : tk.vec = false) (hskip : tk.skip = 0)

include hq hvec hskip in
theorem accFire_control (hmark : tk.mark = .ctrl ∨ tk.mark = .steer) : accFire kind x = .act { elem := x.elem.pop 0 } := by
  have hend : tk.mark.isEnd = false := by
    obtain h | h := hmark <;> rw [h] <;> rfl
  simp [accFire, avail_token hq hvec hskip, hend, hmark]

include hctl hq hvec hskip in
/-- An ordinary or POISON token: the total after it, kept or, where its marker flushes, sent. -/
theorem accFire_position (hend : tk.mark.isEnd = false) (hcontrol : ¬ (tk.mark = .ctrl ∨ tk.mark = .steer)) :
    accFire kind x =
      let v := if tk.isPoison then accBase x kind tk total folded else accNext x kind tk total folded (x.ival (.tok tk))
      if accFlushes x.md tk.struct then
        .act { elem := { x.elem.pop 0 with ctl := .accum 0 false false }
               emits := x.all fun o => .tok o (accToken x (psn || tk.isPoison) v tk.struct) }
      else .act { elem := { x.elem.pop 0 with ctl := .accum v true (psn || tk.isPoison) } } := by
  simp only [accFire, hctl, hq, avail_token hq hvec hskip, hend, hcontrol, Bool.false_eq_true, ↓reduceIte]
  rfl

include hctl hq hvec hskip in
theorem accFire_total (hmark : tk.mark = .eos) (hheld : folded = true ∨ psn = true) :
    accFire kind x = .act { elem := { x.elem with ctl := .accum 0 false false }
                            emits := x.all fun o => .tok o (accToken x psn (accBase x kind tk total folded) .data) } := by
  simp only [accFire, hctl, hq, avail_token hq hvec hskip, hmark, Mark.isEnd, hheld, and_self, ↓reduceIte]
  rfl

include hctl hq hvec hskip in
theorem accFire_end (hend : tk.mark.isEnd = true) (hheld : tk.mark = .eos → folded = false ∧ psn = false) :
    accFire kind x = .act { elem := { x.elem.pop 0 with ended := tk.mark == .eos }
                            emits := x.all fun o => .tok o { eosTok false x.rcNo with mark := tk.mark } } := by
  have hnone : ¬ (tk.mark = .eos ∧ (folded = true ∨ psn = true)) := by
    rintro ⟨hmark, h⟩
    simp [hheld hmark] at h
  simp only [accFire, hctl, avail_token hq hvec hskip, hend, hnone, ↓reduceIte]

end Token
end Fire

/-- The three accumulators are one firing with their kind of fold. -/
theorem exec_eq_accFire : ∀ row ∈ [((.acc : Fab → Instr), AccKindOf.sum), (.accmax, .max), (.accmin, .min)],
    ∀ f s, exec (row.1 f) s = fire (row.1 f) (accFire row.2) s := by
  simp only [List.forall_mem_cons]
  exact ⟨fun _ _ => rfl, fun _ _ => rfl, fun _ _ => rfl, List.forall_mem_nil _⟩

/-- Settles O38: a run of elided positions, control tokens, positions that stay or flush, and end tokens. -/
theorem accumulatorFoldsAndFlushes : Obligations.AccumulatorFoldsAndFlushes := by
  intro row hrow f s t x tk rest total folded psn hfire hctl hq hvec fmt uns base v r
  rw [exec_eq_accFire row hrow f s]
  obtain rfl : f = x.f := by
    simp only [List.mem_cons, List.not_mem_nil, or_false] at hrow
    obtain rfl | rfl | rfl := hrow <;> exact Option.some.inj (firingOf_f hfire).1
  have hposition (hskip : tk.skip = 0) := accFire_position (kind := row.2) hctl hq hvec hskip
  have hpoisonEnd (h : tk.isPoison = true) : tk.mark.isEnd = false ∧ ¬ (tk.mark = .ctrl ∨ tk.mark = .steer) := by
    have hm : tk.mark = .poison := beq_iff_eq.1 h
    simp [hm, Mark.isEnd]
  refine ⟨fun hskip ht => fire_act hfire (accFire_elided hctl hq hskip) ht, fun hskip => ⟨?control, ?keep, ?flush, ?poisonKeep,
    ?poisonFlush, ?total, ?eos, ?eot⟩⟩
  case control => exact fun hmark ht => fire_act hfire (accFire_control hq hvec hskip hmark) ht
  case keep =>
    intro hend hctrl hsteer hpoison hflush ht
    have hbody := hposition hskip hend (not_or.2 ⟨hctrl, hsteer⟩)
    simp only [hpoison, FireIn.md, hflush, Bool.or_false, Bool.false_eq_true, ↓reduceIte] at hbody
    exact fire_act hfire hbody ht
  case flush =>
    intro hend hctrl hsteer hpoison hflush ht
    have hbody := hposition hskip hend (not_or.2 ⟨hctrl, hsteer⟩)
    simp only [hpoison, FireIn.md, hflush, Bool.or_false, Bool.false_eq_true, ↓reduceIte] at hbody
    exact fire_act hfire hbody ht
  case poisonKeep =>
    intro hpoison hflush ht
    have hbody := hposition hskip (hpoisonEnd hpoison).1 (hpoisonEnd hpoison).2
    simp only [hpoison, FireIn.md, hflush, Bool.or_true, Bool.false_eq_true, ↓reduceIte] at hbody
    exact fire_act hfire hbody ht
  case poisonFlush =>
    intro hpoison hflush ht
    have hbody := hposition hskip (hpoisonEnd hpoison).1 (hpoisonEnd hpoison).2
    simp only [hpoison, FireIn.md, hflush, Bool.or_true, ↓reduceIte] at hbody
    exact fire_act hfire hbody ht
  case total => exact fun hmark hheld ht => fire_act hfire (accFire_total hctl hq hvec hskip hmark hheld) ht
  case eos =>
    intro hmark hfolded hpsn ht
    have hbody := accFire_end (kind := row.2) hctl hq hvec hskip (by rw [hmark]; rfl) fun _ => ⟨hfolded, hpsn⟩
    rw [hmark] at hbody
    exact fire_act hfire hbody ht
  case eot =>
    intro hmark ht
    have hbody := accFire_end (kind := row.2) hctl hq hvec hskip (by rw [hmark]; rfl) fun h => by rw [hmark] at h; cases h
    rw [hmark] at hbody
    exact fire_act hfire hbody ht

end Sys2Proof.Proofs.Accumulators
end

section
/-! The elementwise vector instructions (O39, O40) and the token of sixteen lanes with its mask (O41). -/

namespace Sys2Proof.Proofs.VectorLanes
open Sys2Proof.Machine Sys2Proof.Laws Sys2Proof.Proofs.ScalarAlu Sys2Proof.Proofs.AluPositions

/-! ## Elementwise firings -/

/-- What the opening of a vector firing leaves to its operation: positions without end tokens and without POISON. -/
theorem vecStart_ordinary {x : FireIn} {ks : List Nat} {ps : List Pos} (go : List Pos → Fire) (hheads : x.heads ks = some ps)
    (hend : ps.any Pos.isEnd = false) (hpoison : ps.any Pos.poison = false) : vecStart x ks go = go ps := by
  simp only [vecStart, hheads, endPair_eq_none hend, hpoison, Bool.false_eq_true, ↓reduceIte]

theorem vecStart_poison {x : FireIn} {ks : List Nat} {ps : List Pos} (go : List Pos → Fire) (hheads : x.heads ks = some ps)
    (hend : ps.any Pos.isEnd = false) (hpoison : ps.any Pos.poison = true) : vecStart x ks go =
      .act { elem := x.elem.pops ks, emits := x.all fun k => .tok k (poisonTok true (vecMark ps) x.rcNo) } := by
  simp only [vecStart, hheads, endPair_eq_none hend, hpoison, ↓reduceIte]

theorem vecStart_endPair {x : FireIn} {ks : List Nat} {ps : List Pos} {r : Fire} (go : List Pos → Fire) (hheads : x.heads ks = some ps)
    (hr : endPair x ks ps true = some r) : vecStart x ks go = r := by
  simp only [vecStart, hheads, hr]

/-- Elided positions alone hold neither an end token nor POISON. -/
theorem plain_of_elided {ps : List Pos} (h : ps.all Pos.isElided = true) : ps.any Pos.isEnd = false ∧ ps.any Pos.poison = false := by
  have hpos (p : Pos) (hp : p ∈ ps) : p = .elided := by
    have := List.all_eq_true.1 h p hp
    cases p with
    | elided => rfl
    | tok t => cases this
  constructor
  · exact List.any_eq_false.2 fun p hp => by rw [hpos p hp]; decide
  · exact List.any_eq_false.2 fun p hp => by rw [hpos p hp]; decide

section Elementwise
variable {x : FireIn} {ps : List Pos} {zp : Bool} (op : FireIn → List Chan → List (Option W32) → LaneRes)

theorem elementwise_ordinary (hheads : x.heads x.ins = some ps) (hend : ps.any Pos.isEnd = false) (hpoison : ps.any Pos.poison = false)
    (helided : (zp && ps.all Pos.isElided) = false) :
    elementwise zp op x = .act (vecResult x (x.elem.pops x.ins) (vecMark ps)
      (laneWise (x.vargs x.ins ps) (op x ((x.vargs x.ins ps).map (·.ch))))) := by
  simp only [elementwise, vecStart_ordinary _ hheads hend hpoison, helided, Bool.false_eq_true, ↓reduceIte]

theorem elementwise_elided (hheads : x.heads x.ins = some ps) (helided : ps.all Pos.isElided = true) :
    elementwise true op x = passRuns x x.ins := by
  obtain ⟨hend, hpoison⟩ := plain_of_elided helided
  simp only [elementwise, vecStart_ordinary _ hheads hend hpoison, helided, Bool.and_true, ↓reduceIte]

end Elementwise

/-! ## The rows -/

/-- The instruction of a row executes as an elementwise firing with the row's zero-preserving column and lanes. -/
def RunsVecRow (row : (Fab → Instr) × (FireIn → Bool) × (FireIn → List Chan → List (Option W32) → LaneRes)) : Prop :=
  ∀ (f : Fab) (s : State), exec (row.1 f) s = fire (row.1 f) (fun x => elementwise (row.2.1 x) row.2.2 x) s

/-- Integer lanes: the operations of the model, in the words of the table. -/
theorem add_lane_eq : (fun (_ : Bool) (a b : W32) => BitVec.ofInt 32 (a.toInt + b.toInt)) = fun _ a b => a + b :=
  funext fun _ => funext fun a => funext fun b => (add_eq_ofInt a b).symm

theorem sub_lane_eq : (fun (_ : Bool) (a b : W32) => BitVec.ofInt 32 (a.toInt - b.toInt)) = fun _ a b => a - b :=
  funext fun _ => funext fun a => funext fun b => (sub_eq_ofInt a b).symm

theorem mul_lane_eq : (fun (_ : Bool) (a b : W32) => BitVec.ofInt 32 (a.toInt * b.toInt)) = fun _ a b => a * b :=
  funext fun _ => funext fun a => funext fun b => (mul_eq_ofInt a b).symm

theorem neg_lane_eq : (fun (_ : Bool) (a : W32) => BitVec.ofInt 32 (-a.toInt)) = fun _ a => 0 - a :=
  funext fun _ => funext fun a => by rw [BitVec.ofInt_neg, BitVec.ofInt_toInt]; simp

theorem runsVecRow_of_mem_vecRows : ∀ row ∈ vecRows, RunsVecRow row := by
  simp only [vecRows, List.forall_mem_cons, add_lane_eq, sub_lane_eq, mul_lane_eq, neg_lane_eq]
  exact
    ⟨fun _ _ => rfl,  -- VADD
     fun _ _ => rfl,  -- VSUB
     fun _ _ => rfl,  -- VMUL
     fun _ _ => rfl,  -- VFMA
     fun _ _ => rfl,  -- VFMS
     fun _ _ => rfl,  -- VMIN
     fun _ _ => rfl,  -- VMAX
     fun _ _ => rfl,  -- VABS
     fun _ _ => rfl,  -- VNEG
     fun _ _ => rfl,  -- VCMP
     fun _ _ => rfl,  -- VBLEND
     fun _ _ => rfl,  -- VAND
     fun _ _ => rfl,  -- VOR
     fun _ _ => rfl,  -- VXOR
     fun _ _ => rfl,  -- VSHL
     fun _ _ => rfl,  -- VCVT
     fun _ _ => rfl,  -- VSCALE
     fun _ _ => rfl,  -- VRCP
     fun _ _ => rfl,  -- VRSQ
     fun _ _ => rfl,  -- VEXP2
     fun _ _ => rfl,  -- VLOG2
     fun _ _ => rfl,  -- VSFN
     fun _ _ => rfl,  -- VSFN.D
     fun _ _ => rfl,  -- VQUANT
     fun _ _ => rfl,  -- VDEQ
     List.forall_mem_nil _⟩

/-- Settles O39: the row's firing with ordinary positions. -/
theorem vectorLaneResult : Obligations.VectorLaneResult := by
  intro row hrow f s t x ps hfire hheads hend hpoison helided args ht
  rw [runsVecRow_of_mem_vecRows row hrow f s]
  exact fire_act hfire (elementwise_ordinary _ hheads hend hpoison helided) ht

/-- Settles O40: the row's firing with POISON, end tokens, skewed ends and elided positions. -/
theorem vectorSpecialPositions : Obligations.VectorSpecialPositions := by
  intro row hrow f s t x ps hfire hheads
  rw [runsVecRow_of_mem_vecRows row hrow f s]
  refine ⟨?poison, ?ends, ?skew, ?elided⟩
  case poison =>
    intro hend hpoison ht
    exact fire_act hfire (vecStart_poison _ hheads hend hpoison) ht
  case ends =>
    intro m hm hne hall ht
    exact fire_act hfire (vecStart_endPair _ hheads (endPair_same x _ true hm hne hall)) ht
  case skew =>
    intro hend hskew
    have hbody : elementwise (row.2.1 x) row.2.2 x = .trap .markskew id :=
      vecStart_endPair _ hheads (endPair_skewed x _ true hend hskew)
    have hexec := fire_trap (body := fun x => elementwise (row.2.1 x) row.2.2 x) hfire hbody
    rwa [firingOf_s hfire] at hexec
  case elided =>
    intro hzp helided _ n ht
    have hbody : elementwise (row.2.1 x) row.2.2 x = passRuns x x.ins := hzp ▸ elementwise_elided _ hheads helided
    exact fire_act hfire hbody ht

/-! ## Sixteen lanes and their mask -/

/-- A lane of packed lanes is the word packed there. -/
theorem packed_digit (ls : List W32) (l : Nat) :
    ls.foldr (fun w acc => acc * 2 ^ 32 + w.toNat) 0 / 2 ^ (32 * l) % 2 ^ 32 = (ls.getD l 0).toNat := by
  induction ls generalizing l with
  | nil => simp
  | cons w ws ih =>
    rw [List.foldr_cons]
    cases l with
    | zero =>
      have := w.isLt
      simp only [Nat.mul_zero, Nat.pow_zero, Nat.div_one, List.getD_cons_zero]
      omega
    | succ l =>
      have hw : (ws.foldr (fun w acc => acc * 2 ^ 32 + w.toNat) 0 * 2 ^ 32 + w.toNat) / 2 ^ 32
          = ws.foldr (fun w acc => acc * 2 ^ 32 + w.toNat) 0 := by
        have := w.isLt
        omega
      rw [show 32 * (l + 1) = 32 + 32 * l by omega, Nat.pow_add, ← Nat.div_div_eq_div_mul, hw, ih, List.getD_cons_succ]

/-- A digit below the bound of a remainder is the number's own. -/
theorem digit_mod (a : Nat) {l n : Nat} (h : 32 * l + 32 ≤ n) : a % 2 ^ n / 2 ^ (32 * l) % 2 ^ 32 = a / 2 ^ (32 * l) % 2 ^ 32 := by
  have hsplit : 2 ^ n = 2 ^ (32 * l) * 2 ^ (n - 32 * l) := by
    rw [← Nat.pow_add]
    congr 1
    omega
  rw [hsplit, Nat.mod_mul_right_div_self, Nat.mod_mod_of_dvd _ (Nat.pow_dvd_pow 2 (by omega))]

theorem lane_packLanes (ls : List W32) {l : Nat} (hl : l < 16) : lane (packLanes ls) l = ls.getD l 0 := by
  apply BitVec.eq_of_toNat_eq
  rw [lane, packLanes, BitVec.extractLsb'_toNat, BitVec.toNat_ofNat, Nat.shiftRight_eq_div_pow, ← packed_digit, digit_mod (n := 512) _ (by omega)]

theorem packed_bit (bs : List Bool) (l : Nat) :
    (bs.foldr (fun (b : Bool) (acc : Nat) => acc * 2 + (if b then 1 else 0)) 0).testBit l = bs.getD l false := by
  induction bs generalizing l with
  | nil => simp
  | cons b bs ih =>
    rw [List.foldr_cons]
    cases l with
    | zero => cases b <;> simp [Nat.testBit_zero]
    | succ l =>
      rw [Nat.testBit_succ, List.getD_cons_succ, ← ih]
      congr 1
      cases b <;> simp
      omega

theorem getLsbD_packMask (bs : List Bool) {l : Nat} (hl : l < 16) : (packMask bs).getLsbD l = bs.getD l false := by
  rw [packMask, BitVec.getLsbD_ofNat, packed_bit]
  simp [hl]

/-- A result lane that keeps its mask bit. -/
def keepsLane (r : LaneRes) : Bool :=
  match r with
  | some (_, .underflowZero, _) => false
  | some (_, .quantZero, _) => false
  | some _ => true
  | none => false

theorem vecResult_emits (x : FireIn) (el : Elem) (m : Mark) (rs : List LaneRes) : (vecResult x el m rs).emits = x.all fun o =>
    emitVec o (packLanes (rs.map fun r => if keepsLane r then (r.map (·.1)).getD 0 else 0)) (packMask (rs.map keepsLane)) m x.rcNo := rfl

theorem keepsLane_present {w : W32} {c : Cause} {fl : Flags} (hu : c ≠ .underflowZero) (hq : c ≠ .quantZero) :
    keepsLane (some (w, c, fl)) = true := by
  cases c with
  | underflowZero => exact absurd rfl hu
  | quantZero => exact absurd rfl hq
  | _ => rfl

/-- Settles O41: the words and the mask of a result are packed lane by lane. -/
theorem vectorLanesAndMask : Obligations.VectorLanesAndMask := by
  intro x el m rs hlen
  have hword (l : Nat) (hl : l < 16) (r : LaneRes) (hr : rs[l]? = some r) :
      (packMask (rs.map keepsLane)).getLsbD l = keepsLane r
        ∧ lane (packLanes (rs.map fun r => if keepsLane r then (r.map (·.1)).getD 0 else 0)) l
          = if keepsLane r then (r.map (·.1)).getD 0 else 0 := by
    rw [getLsbD_packMask _ hl, lane_packLanes _ hl]
    simp [List.getD_eq_getElem?_getD, hr]
  refine ⟨_, _, vecResult_emits x el m rs, fun l hl w c fl hr hu hq => ?_, fun l hl hr => ?_, fun hk hm o => ?_⟩
  · have h := hword l hl _ hr
    rw [keepsLane_present hu hq] at h
    exact h
  · have hmasked : ∃ r, rs[l]? = some r ∧ keepsLane r = false := by
      obtain h | ⟨w, fl, h | h⟩ := hr
      · exact ⟨_, h, rfl⟩
      · exact ⟨_, h, rfl⟩
      · exact ⟨_, h, rfl⟩
    obtain ⟨r, hr, hkeep⟩ := hmasked
    have h := hword l hl r hr
    rw [hkeep] at h
    exact h
  · rw [emitVec, if_pos hk, if_pos hm]

end Sys2Proof.Proofs.VectorLanes
end

section
/-! Vector reductions, scans and running maxima (O42). -/

namespace Sys2Proof.Proofs.VectorFolds
open Sys2Proof.Machine Sys2Proof.Laws Sys2Proof.Proofs.ScalarAlu Sys2Proof.Proofs.VectorLanes

/-! ## One ordinary token at input 0 -/

theorem heads_single {x : FireIn} {p : Pos} (hp : x.avail 0 = some p) : x.heads [0] = some [p] := by
  simp [FireIn.heads, hp]

@[simp] theorem varg_ch (x : FireIn) (k : Nat) (tk : Token) : (x.varg k (.tok tk)).ch = x.load.chan tk.chan := by
  simp only [FireIn.varg]
  split <;> rfl

theorem any_isEnd_single {tk : Token} (h : tk.mark.isEnd = false) : [Pos.tok tk].any Pos.isEnd = false := by
  simp [Pos.isEnd, Pos.mark, h]

theorem any_poison_single {tk : Token} (h : tk.isPoison = false) : [Pos.tok tk].any Pos.poison = false := by
  simp [Pos.poison, h]

/-! ## Reductions -/

section Reductions
variable {x : FireIn} {o : RedOp} {tk : Token} {sv : Option W32} {b : Bool} {r : XVal ⊕ W32} {fl g : Flags} {w : W32}

theorem redFire_single (hmd : x.md = 0) (hp : x.avail 0 = some (.tok tk)) (hend : tk.mark.isEnd = false) (hpoison : tk.isPoison = false) :
    redFire o x = .act (redEmit x (x.elem.pop 0) (vecMark [.tok tk]) (redTree x o (x.varg 0 (.tok tk))).1
      (redTree x o (x.varg 0 (.tok tk))).2) := by
  rw [redFire, if_pos hmd, vecStart_ordinary _ (heads_single hp) (any_isEnd_single hend) (any_poison_single hpoison)]
  rfl

/-- A token folds its tree into the latch, which stays or, where its marker flushes, is sent and cleared. -/
theorem redFire_fold (hmd : x.md ≠ 0) (hctl : x.elem.ctl = .fold sv false b) (hp : x.avail 0 = some (.tok tk))
    (hend : tk.mark.isEnd = false) (hpoison : tk.isPoison = false) (htree : redTree x o (x.varg 0 (.tok tk)) = (some r, fl))
    (hfold : redFold x o (x.load.chan tk.chan).unsignedCmp sv r = (w, g)) :
    redFire o x =
      if accFlushes (x.md - 1) tk.struct then
        .act (redEmit x { x.elem.pop 0 with ctl := .fold none false false } tk.struct
          (some (if x.isFloat then .inl (f32 w.toNat) else .inr w)) (fl ||| g))
      else .act { elem := { x.elem.pop 0 with ctl := .fold (some w) false false }, flags := fl ||| g } := by
  simp only [redFire, if_neg hmd, hctl, hp, hend, hpoison, htree, varg_ch, hfold, Bool.false_eq_true, ↓reduceIte, Bool.or_false,
    Option.map_some]

end Reductions

/-- The four reductions are one firing with their operation. -/
theorem exec_eq_redFire : ∀ row ∈ [((.vred : Fab → Instr), RedOp.sum), (.vredmax, .max), (.vredmin, .min), (.vamax, .amax)],
    ∀ f s, exec (row.1 f) s = fire (row.1 f) (redFire row.2) s ∧ fabOf (row.1 f) = some f := by
  simp only [List.forall_mem_cons]
  exact ⟨fun _ _ => ⟨rfl, rfl⟩, fun _ _ => ⟨rfl, rfl⟩, fun _ _ => ⟨rfl, rfl⟩, fun _ _ => ⟨rfl, rfl⟩, List.forall_mem_nil _⟩

/-! ## Scans and running maxima -/

section Scan
variable {x : FireIn} {tk : Token}

theorem vscanFire_token {carry c : Option W32} {rs : List LaneRes} (hp : x.avail 0 = some (.tok tk)) (hend : tk.mark.isEnd = false)
    (hpoison : tk.isPoison = false) (hctl : x.elem.ctl = .scan carry)
    (hscan : scanLanes x (x.load.chan tk.chan) (x.imm 8 8 == 1) carry (x.varg 0 (.tok tk)).lanes = (c, rs)) :
    vscanFire x = .act (vecResult x { x.elem.pop 0 with ctl := .scan (scanKeep x.md tk.struct c) } (vecMark [.tok tk]) rs) := by
  simp only [vscanFire, heads_single hp, endPair_eq_none (any_isEnd_single hend), hctl, Pos.poison, hpoison, varg_ch, hscan,
    Pos.isElided, Pos.struct, Bool.false_eq_true, ↓reduceIte]

theorem vmaxrFire_token {m : Line} (hp : x.avail 0 = some (.tok tk)) (hend : tk.mark.isEnd = false) (hpoison : tk.isPoison = false)
    (hctl : x.elem.ctl = .maxr m) :
    vmaxrFire x =
      let rs := (List.range 16).map fun l => maxrLane x (x.load.chan tk.chan) (lane m l) (argAt (x.varg 0 (.tok tk)).lanes l)
      let k := vecMark [.tok tk]
      .act { elem := { x.elem.pop 0 with
               ctl := .maxr (if k.rank > x.md then packLanes (List.replicate 16 0xFF800000) else packLanes (rs.map (·.1))) }
             emits := x.all fun o => .tok o (vecTok (if o = 0 then packLanes (rs.map (·.2.1.1)) else packLanes (rs.map (·.2.2.1))) 0xFFFF k
               x.rcNo)
             flags := rs.foldl (fun a r => a ||| r.2.1.2 ||| r.2.2.2) 0 } := by
  simp only [vmaxrFire, heads_single hp, endPair_eq_none (any_isEnd_single hend), hctl, Pos.poison, hpoison, varg_ch,
    Bool.false_eq_true, ↓reduceIte]

end Scan

/-- Settles O42: one token's tree, the latch of the folding forms, a scan and a running maximum. -/
theorem vectorReductionsAndScans : Obligations.VectorReductionsAndScans := by
  refine ⟨?reduction, ?scan, ?maximum⟩
  case reduction =>
    intro row hrow f s t x tk hfire hp hend hpoison
    obtain ⟨hexec, hf⟩ := exec_eq_redFire row hrow f s
    obtain rfl : f = x.f := Option.some.inj (hf.symm.trans (firingOf_f hfire).1)
    rw [hexec]
    constructor
    · intro hmd r fl htree ht
      have hbody := redFire_single (o := row.2) (congrArg BitVec.toNat hmd) hp hend hpoison
      rw [htree] at hbody
      exact fire_act hfire hbody ht
    · intro hmd sv r fl w g b hctl htree hfold
      have hbody := redFire_fold (fun h => hmd ((ControlElements.md_eq_zero x).1 h)) hctl hp hend hpoison htree hfold
      constructor
      · intro hflush ht
        rw [FireIn.md, hflush, if_neg Bool.false_ne_true] at hbody
        exact fire_act hfire hbody ht
      · intro hflush ht
        rw [FireIn.md, hflush, if_pos rfl] at hbody
        exact fire_act hfire hbody ht
  case scan =>
    intro f s t x tk carry c rs hfire hp hend hpoison hctl hscan ht
    obtain rfl : f = x.f := Option.some.inj (firingOf_f hfire).1
    exact fire_act hfire (vscanFire_token hp hend hpoison hctl hscan) ht
  case maximum =>
    intro f s t x tk m hfire hp hend hpoison hctl rs v d k ht
    obtain rfl : f = x.f := Option.some.inj (firingOf_f hfire).1
    exact fire_act hfire (vmaxrFire_token hp hend hpoison hctl) ht

end Sys2Proof.Proofs.VectorFolds
end

section
/-! Lane movement, packs and the reorder buffer (O43). -/

namespace Sys2Proof.Proofs.VectorMoves
open Sys2Proof.Machine Sys2Proof.Laws Sys2Proof.Proofs.ScalarAlu Sys2Proof.Proofs.VectorLanes Sys2Proof.Proofs.VectorFolds

/-! ## Packs -/

section Pack
variable {x : FireIn} {p q : Pos} {held : List Pos} {n : Nat} (build : List Pos → Mark → Fire)

theorem packFire_hold (hctl : x.elem.ctl = .pack held) (hp : x.avail 0 = some p) (hend : p.isEnd = false) (hroom : held.length + 1 < n)
    (hrank : p.struct.rank = 0) : packFire n build x = .act { elem := { x.elem.pop 0 with ctl := .pack (held ++ [p]) } } := by
  simp [packFire, hctl, hp, hend, hroom, hrank]

theorem packFire_whole (hctl : x.elem.ctl = .pack held) (hp : x.avail 0 = some p) (hend : p.isEnd = false) (hfull : n ≤ held.length + 1) :
    packFire n build x = build (held ++ [p]) (vecMark [p]) := by
  simp [packFire, hctl, hp, hend, Nat.not_lt.2 hfull]

theorem packCode_block {v : Line} {m : Mark} (hp : p.poison = false) (hq : q.poison = false)
    (hcode : encodeBlock x.rc.fmt x.rc.ctab (x.load.ctabs.getD x.rc.ctab 0)
      ((packElems q ++ packElems p).map fun w => (w.getD 0).toNat % 256) = some v) :
    packCode x [q, p] m = .act { elem := { x.elem.pop 0 with ctl := .pack [] }
                                 emits := x.all fun k => .tok k (vecTok v 0xFFFF m x.rcNo) } := by
  have hels : [q, p].flatMap (fun p => (packElems p).map fun w => (w.getD 0).toNat % 256)
      = (packElems q ++ packElems p).map fun w => (w.getD 0).toNat % 256 := by simp
  simp only [packCode, hels, hcode, List.any_cons, List.any_nil, hp, hq, Bool.or_self, Bool.false_eq_true, ↓reduceIte]

theorem packRaw_words {w : Nat} {ps : List Pos} {m : Mark} (hpoison : ps.any Pos.poison = false) :
    packRaw x w ps m = .act (vecResult x { x.elem.pop 0 with ctl := .pack [] } m (packWords w (ps.flatMap packElems))) := by
  simp only [packRaw, hpoison, Bool.false_eq_true, ↓reduceIte]

end Pack

/-! ## A token taken apart -/

/-- Part `j` of a token of elements of the result's width. -/
def unpackedPart (x : FireIn) (tk : Token) (j : Nat) : List Emit :=
  let w := 8 * fmtBytes x.rc.fmt
  let ls := (List.range 16).map fun l =>
    if tk.lmask.getLsbD (w * (16 * j + l) / 32) then
      some (BitVec.ofNat 32 (fld tk.data (w * (16 * j + l) + w - 1) (w * (16 * j + l)))) else none
  x.all fun k => emitVec k (packLanes (ls.map (·.getD 0))) (packMask (ls.map Option.isSome))
    (if j + 1 = 32 / w then vecMark [.tok tk] else .data) x.rcNo

theorem vunpkFire_token {x : FireIn} {tk : Token} (hp : x.avail 0 = some (.tok tk)) (hend : tk.mark.isEnd = false)
    (hpoison : tk.isPoison = false) :
    vunpkFire x = .act { elem := x.elem.pop 0, emits := unpackedPart x tk 0
                         later := laterItems ((List.range (32 / (8 * fmtBytes x.rc.fmt) - 1)).map fun j => unpackedPart x tk (j + 1)) } := by
  simp only [vunpkFire, heads_single hp, endPair_eq_none (any_isEnd_single hend), hpoison, Bool.false_eq_true, ↓reduceIte]
  rfl

/-! ## The reorder buffer -/

/-- The state after a turn that leaves `fill` positions in the filling window of `n` places. -/
def robAfter (n emit j half fill : Nat) : Ctl :=
  if emit ≠ 0 ∧ j + 1 ≠ emit then .rob fill emit (j + 1) half
  else if fill = n then .rob 0 fill 0 (1 - half) else .rob fill 0 (if emit = 0 then j else 0) half

/-- The place that the emission goes on with. -/
def robNext (emit j : Nat) : Nat × Nat := if decide (emit ≠ 0) then (if j + 1 = emit then (0, 0) else (emit, j + 1)) else (emit, j)

theorem robNext_eq (emit j : Nat) :
    (if decide (emit ≠ 0) = true then (if j + 1 = emit then (0, 0) else (emit, j + 1)) else (emit, j)) = robNext emit j := rfl

theorem robSettle_eq (el : Elem) (n emit j half fill : Nat) :
    (if (robNext emit j).1 = 0 ∧ fill = n then { el with ctl := .rob 0 fill 0 (1 - half) }
      else { el with ctl := .rob fill (robNext emit j).1 (robNext emit j).2 half }) = { el with ctl := robAfter n emit j half fill } := by
  unfold robAfter robNext
  by_cases hemit : emit = 0
  · subst hemit
    by_cases hfill : fill = n <;> simp [hfill]
  · by_cases hj : j + 1 = emit
    · by_cases hfill : fill = n <;> simp [hemit, hj, hfill]
    · simp [hemit, hj]

section Rob
variable {x : FireIn} {turned : Bool} {fill emit j half : Nat}

/-- The descriptor of a reorder buffer. -/
def robDesc (x : FireIn) : BitVec 128 := x.pool (fld x.f.imm 9 0 + 1) ++ x.pool (fld x.f.imm 9 0)

/-- What a turn emits: the next place of the whole window, if there is one. -/
def robEmits (x : FireIn) (turned : Bool) (emit j half : Nat) : List Emit :=
  if decide (emit ≠ 0) then robOut x turned (robDesc x) (1 - half) j else []

variable (hctl : x.elem.ctl = .rob fill emit j half)
include hctl

/-- A turn of the reorder buffer, with what it emits and the state that it leaves named. -/
theorem robFire_eq : robFire turned x =
    let n := fld (robDesc x) 9 0 + 1
    let settle (el : Elem) (fill : Nat) : Elem := { el with ctl := robAfter n emit j half fill }
    match x.avail 0 with
    | some p =>
      if p.isEnd then
        if fill ≠ 0 ∧ fill < n then .trap .robpart id
        else if decide (emit ≠ 0) then .act { elem := settle x.elem fill, emits := robEmits x turned emit j half }
        else if fill = 0 then
          .act { elem := { x.elem.pop 0 with ended := p.mark == .eos }
                 emits := x.all fun k => .tok k { eosTok true x.rcNo with mark := p.mark } }
        else .wait
      else if fill < n then
        .act { elem := settle (x.elem.pop 0) (fill + 1), emits := robEmits x turned emit j half, eff := x.robStore (robDesc x) half fill p }
      else if decide (emit ≠ 0) then .act { elem := settle x.elem fill, emits := robEmits x turned emit j half }
      else .wait
    | none => if decide (emit ≠ 0) then .act { elem := settle x.elem fill, emits := robEmits x turned emit j half } else .wait := by
  simp only [robFire, hctl, robNext_eq, robSettle_eq] <;> rfl

theorem robFire_fill {p : Pos} (hp : x.avail 0 = some p) (hend : p.isEnd = false) (hroom : fill < fld (robDesc x) 9 0 + 1) :
    robFire turned x = .act { elem := { x.elem.pop 0 with ctl := robAfter (fld (robDesc x) 9 0 + 1) emit j half (fill + 1) }
                              emits := robEmits x turned emit j half, eff := x.robStore (robDesc x) half fill p } := by
  rw [robFire_eq hctl]
  simp only [hp, hend, hroom, Bool.false_eq_true, ↓reduceIte]

theorem robFire_emit (hemit : emit ≠ 0) (hstay : x.avail 0 = none ∨ fld (robDesc x) 9 0 + 1 ≤ fill) :
    robFire turned x = .act { elem := { x.elem with ctl := robAfter (fld (robDesc x) 9 0 + 1) emit j half fill }
                              emits := robEmits x turned emit j half } := by
  rw [robFire_eq hctl]
  have hsend : decide (emit ≠ 0) = true := decide_eq_true hemit
  cases hp : x.avail 0 with
  | none => simp only [hsend, ↓reduceIte]
  | some p =>
    have hfull : ¬ fill < fld (robDesc x) 9 0 + 1 := Nat.not_lt.2 (hstay.resolve_left (by simp [hp]))
    simp only [hsend, hfull, and_false, ↓reduceIte, ite_self]

theorem robFire_end {p : Pos} (hp : x.avail 0 = some p) (hend : p.isEnd = true) (hfill : fill = 0) (hemit : emit = 0) :
    robFire turned x = .act { elem := { x.elem.pop 0 with ended := p.mark == .eos }
                              emits := x.all fun k => .tok k { eosTok true x.rcNo with mark := p.mark } } := by
  rw [robFire_eq hctl]
  simp [hp, hend, hfill, hemit]

end Rob

/-- Both forms of the buffer are one firing. -/
theorem exec_eq_robFire : ∀ row ∈ [((.rob : Fab → Instr), false), (.robT, true)],
    ∀ f s, exec (row.1 f) s = fire (row.1 f) (robFire row.2) s ∧ fabOf (row.1 f) = some f := by
  simp only [List.forall_mem_cons]
  exact ⟨fun _ _ => ⟨rfl, rfl⟩, fun _ _ => ⟨rfl, rfl⟩, List.forall_mem_nil _⟩

theorem robEmits_eq (x : FireIn) (turned : Bool) (emit j half : Nat) :
    robEmits x turned emit j half = if emit = 0 then [] else robOut x turned (robDesc x) (1 - half) j := by
  by_cases h : emit = 0 <;> simp [robEmits, h]

/-- Settles O43: moved lanes, packs, parts of a token, and the turns of the reorder buffer. -/
theorem vectorMovement : Obligations.VectorMovement := by
  refine ⟨?shuffle, ?codeFirst, ?codeSecond, ?raw, ?unpack, ?reorder⟩
  case shuffle =>
    intro f s t x ps hfire hheads hend hpoison pat srcs rs ht
    obtain rfl : f = x.f := Option.some.inj (firingOf_f hfire).1
    exact fire_act hfire (vecStart_ordinary _ hheads hend hpoison) ht
  case codeFirst =>
    intro f s t x p hfire hctl hp hend hrank ht
    exact fire_act (body := fun x => packFire 2 (packCode x) x) hfire (packFire_hold _ hctl hp hend (by decide) hrank) ht
  case codeSecond =>
    intro f s t x p q v hfire hctl hp hend hpoison hqpoison hcode ht
    have hbody := (packFire_whole (packCode x) hctl hp hend (Nat.le_refl 2)).trans (packCode_block hpoison hqpoison hcode)
    exact fire_act (body := fun x => packFire 2 (packCode x) x) hfire hbody ht
  case raw =>
    intro f s t x p held w hfire hctl hp hw hend
    have hact {a : Act} (hbody : packFire (32 / w) (packRaw x w) x = .act a) (ht : x.fireAct (.vpackRaw f) a = some t) :
        exec (.vpackRaw f) s = .next t := by
      subst hw
      exact fire_act (body := fun x => packFire (32 / (8 * fmtBytes (x.inChan 0).fmt)) (packRaw x (8 * fmtBytes (x.inChan 0).fmt)) x)
        hfire hbody ht
    refine ⟨fun hroom hrank ht => ?_, fun hfull hpoison ht => ?_⟩
    · exact hact (packFire_hold _ hctl hp hend hroom hrank) ht
    · exact hact ((packFire_whole _ hctl hp hend hfull).trans (packRaw_words hpoison)) ht
  case unpack =>
    intro f s t x tk hfire hp hend hpoison w part ht
    exact fire_act hfire (vunpkFire_token hp hend hpoison) ht
  case reorder =>
    intro row hrow f s t x hfire d n fill emit j half hctl out after
    obtain ⟨hexec, hf⟩ := exec_eq_robFire row hrow f s
    obtain rfl : f = x.f := Option.some.inj (hf.symm.trans (firingOf_f hfire).1)
    rw [hexec]
    refine ⟨fun p hp hend hroom ht => ?_, fun hemit hstay ht => ?_, fun p hp hend hfill hemit ht => ?_⟩
    · refine fire_act hfire (robFire_fill hctl hp hend hroom) ?_
      rw [robEmits_eq]
      exact ht
    · refine fire_act hfire (robFire_emit hctl hemit hstay) ?_
      rw [robEmits_eq]
      exact ht
    · exact fire_act hfire (robFire_end hctl hp hend hfill hemit) ht

end Sys2Proof.Proofs.VectorMoves
end

section
/-! The matrix node: the dense product (O45), its operands and the bank loader (O44), the drain (O46). -/

namespace Sys2Proof.Proofs.MatrixNode
open Sys2Proof.Machine Sys2Proof.Laws Sys2Proof.Proofs.ControlElements

/-- What an event does at an element whose results have room. -/
theorem drive_act {e : ElemRef} {s t : State} {x : FireIn} {i : Instr} {body : FireIn → Instr → Fire} {a : Act}
    (h : driveOf e s = some (x, i)) (hbody : body x i = .act a) (ht : x.driveAct i a = some t) : driveElem e body s = t := by
  rw [drive_of_driveOf h, hbody]
  simp [ht]

/-! ## MMA runs -/

theorem mmaState_eq {x : FireIn} {ops : List MmaOp} {last : Option (Nat × Nat)} (hctl : x.elem.ctl = .mma ops last) :
    mmaState x = (ops, last) := by
  rw [mmaState, hctl]

theorem mmaStart_candidate {x : FireIn} {i : Instr} {ops : List MmaOp} {last : Option (Nat × Nat)} {j : Nat} {o : MmaOp}
    (hctl : x.elem.ctl = .mma ops last) (hj : mmaCandidate x = some j) (ho : ops[j]? = some o) (hpoison : o.poisoned = false) :
    mmaStart x i = .act
      { elem := { x.elem with
          ctl := .mma (setAt ops j { o with started := some x.run.cycles, groups := 0 }) (some (x.run.cycles, x.mmaCycles o)) }
        eff := fun s => s.putAccs x.ref ((mmaTiles o.ctrl).map fun k =>
          mmaZero o ((x.run.plane x.ref.plane).acc x.blk.page x.tile (fld o.ctrl 18 16 + k))) } := by
  simp only [mmaStart, mmaState_eq hctl, hj, ho, hpoison, Bool.false_eq_true, ↓reduceIte]

theorem getD_range_map {α : Type} (f : Nat → α) {n i : Nat} (d : α) (hi : i < n) : ((List.range n).map f).getD i d = f i := by
  simp [List.getD_eq_getElem?_getD, hi]

theorem mmaZero_word (o : MmaOp) (old : AccTile) {i : Nat} (hi : i < 1024) :
    (mmaZero o old).vals.getD i 0 = if o.ctrl.getLsbD 19 = false ∧ o.forms i = true then 0 else old.vals.getD i 0 := by
  unfold mmaZero
  by_cases hacc : o.ctrl.getLsbD 19 = true
  · rw [if_pos hacc, if_neg fun h => Bool.false_ne_true (h.1.symm.trans hacc)]
  · rw [if_neg hacc]
    simp only [getD_range_map _ _ hi, Bool.not_eq_true _ ▸ hacc, true_and]

theorem mmaTile_word (o : MmaOp) (old : AccTile) (g0 g1 k : Nat) (A B : Array (Option XVal)) {i : Nat} (hi : i < 1024)
    (hbad : old.bad.contains i = false) :
    (mmaTile o old g0 g1 k A B).1.vals.getD i 0 = if o.forms i = true then
      (dotGroups (old.vals.getD i 0) g0 g1
        (fun q => A.getD (if o.ctrl.getLsbD 15 then q * mmaM o.ctrl + (32 * (k / (fld o.ctrl 27 26 + 1)) + i / 32)
          else (32 * (k / (fld o.ctrl 27 26 + 1)) + i / 32) * mmaK o.ctrl + q) none)
        (fun q => B.getD (if o.ctrl.getLsbD 14 then (32 * (k % (fld o.ctrl 27 26 + 1)) + i % 32) * mmaK o.ctrl + q
          else q * mmaN o.ctrl + (32 * (k % (fld o.ctrl 27 26 + 1)) + i % 32)) none)).1.getD 0
      else old.vals.getD i 0 := by
  simp only [mmaTile, List.map_map]
  rw [getD_range_map _ _ hi, Function.comp_apply, hbad]
  cases hforms : o.forms i <;> simp

theorem mmaComplete_only {x : FireIn} {i : Instr} {o : MmaOp} {last : Option (Nat × Nat)} {n : Nat} (hctl : x.elem.ctl = .mma [o] last)
    (hstart : o.started = some n) (hdue : n + x.mmaCycles o + 6 ≤ x.run.cycles) (hpoison : o.poisoned = false) :
    mmaComplete x i = .act
      { elem := { x.elem with ctl := .mma [] last }
        emits := x.all fun k => .tok k (scalarTok (completionWord 0 0 (mmaNT o.ctrl) (fld o.ctrl 18 16)) .data x.rcNo)
        flags := (x.mmaForm o o.all).foldl (fun f r => f ||| r.2) 0
        eff := fun s => s.putAccs x.ref ((x.mmaForm o o.all).map (·.1)) } := by
  simp only [mmaComplete, mmaState_eq hctl, List.foldl_cons, List.foldl_nil, hstart, Option.map_some, Nat.not_lt.2 hdue, hpoison,
    Bool.false_eq_true, ↓reduceIte, List.erase_cons_head]

/-- Settles O45: the start and the completion as events, a word of a tile as the dot product of its row and column. -/
theorem matrixOperationRuns : Obligations.MatrixOperationRuns := by
  refine ⟨?start, fun o old i hi => mmaZero_word o old hi, fun o old g0 g1 k A B i hi hbad => mmaTile_word o old g0 g1 k A B hi hbad,
    ?complete⟩
  case start =>
    intro e s t x i ops last j o hdrive hctl hj ho hpoison pl ht
    exact congrArg _ (drive_act hdrive (mmaStart_candidate hctl hj ho hpoison) ht)
  case complete =>
    intro e s t x i o last n hdrive hctl hstart hdue hpoison ht
    exact congrArg _ (drive_act hdrive (mmaComplete_only hctl hstart hdue hpoison) ht)

/-! ## MMA accepts -/

section Accept
variable {x : FireIn} {ctrl m a b : Pos}

/-- The tokens of an operation: CTRL, with a row mask where it has one, and the two addresses (R233). -/
def mmaTokens (ctrl m a b : Pos) : List Pos :=
  if mmaOp ctrl.word = 0 then [ctrl, a, b] else if mmaOp ctrl.word = 1 then [ctrl, m, a, b] else [ctrl]

/-- The operation that the tokens ask for. -/
def mmaAsked (x : FireIn) (ctrl m a b : Pos) : MmaOp :=
  if mmaOp ctrl.word = 2 then ⟨ctrl.word, 0xFFFFFFFF, 0, x.rcNo, 0, x.rcNo, false, none, 0⟩
  else ⟨ctrl.word, if mmaOp ctrl.word = 1 then m.word else 0xFFFFFFFF, a.word, a.chan x.rcNo, b.word, b.chan x.rcNo, false, none, 0⟩

theorem head_of_firstPos {q : List Token} {n : Nat} {p : Pos} {ps : List Pos} (h : firstPos n q = p :: ps) : headPos q = some p := by
  cases n with
  | zero => cases h
  | succ n =>
    unfold firstPos at h
    split at h
    · cases h
    · rename_i hp
      rw [hp, (List.cons.inj h).1]

theorem isEnd_of_isData {p : Pos} (h : p.isData = true) : p.isEnd = false := by
  simp only [Pos.isData, Bool.and_eq_true, Bool.not_eq_true'] at h
  exact h.1.1

/-- What is asked of the tokens of a product: addresses within the store, formats of one class (R234, R235). -/
def mmaOperandsOk (x : FireIn) (c : W32) (a b : Pos) : Prop :=
  addrBad a.word (mmaM c * mmaK c * fmtBytes (x.load.chan (a.chan x.rcNo)).fmt) = false
    ∧ addrBad b.word (mmaK c * mmaN c * fmtBytes (x.load.chan (b.chan x.rcNo)).fmt) = false
    ∧ mmaClass (x.load.chan (a.chan x.rcNo)).fmt ≠ 0
    ∧ mmaClass (x.load.chan (a.chan x.rcNo)).fmt = mmaClass (x.load.chan (b.chan x.rcNo)).fmt

/-- MMA takes the tokens of one operation off its input and puts the operation behind those that it has accepted. -/
theorem mmaFire_accepts {ops : List MmaOp} {last : Option (Nat × Nat)} (hctl : x.elem.ctl = .mma ops last) (hroom : ops.length < 4)
    (hplace : x.placeFree x.f.cona ops.length = true) (hctrl : ctrl.mark = .ctrl) (hgood : mmaCtrlBad ctrl.word = false)
    (hm : m.isData = true) (ha : a.isData = true) (hb : b.isData = true) (hmp : m.poison = false) (hap : a.poison = false)
    (hbp : b.poison = false) (hq : firstPos (mmaTokens ctrl m a b).length (x.elem.queue 0) = mmaTokens ctrl m a b)
    (hok : mmaOp ctrl.word ≠ 2 → mmaOperandsOk x ctrl.word a b) :
    mmaFire x = .act { elem := { x.elem.pops (List.replicate (mmaTokens ctrl m a b).length 0) with
      ctl := .mma (ops ++ [mmaAsked x ctrl m a b]) last } } := by
  have hend : ctrl.isEnd = false := by rw [Pos.isEnd, hctrl]; rfl
  have hhead : x.head 0 = some ctrl := by
    rw [FireIn.head, Elem.head]
    unfold mmaTokens at hq
    split at hq
    · exact head_of_firstPos hq
    · split at hq <;> exact head_of_firstPos hq
  have hop : mmaOp ctrl.word = 0 ∨ mmaOp ctrl.word = 1 ∨ mmaOp ctrl.word = 2 := by
    have hlt : mmaOp ctrl.word < 4 := Nat.mod_lt _ (by decide)
    have hne : mmaOp ctrl.word ≠ 3 := by
      intro h
      simp [mmaCtrlBad, h] at hgood
    omega
  have haend := isEnd_of_isData ha
  have hbend := isEnd_of_isData hb
  have hmend := isEnd_of_isData hm
  obtain hop | hop | hop := hop
  · obtain ⟨hax, hbx, hcls, hsame⟩ := hok (by omega)
    simp only [mmaTokens, hop, ↓reduceIte] at hq ⊢
    replace hq : firstPos 3 (x.elem.queue 0) = [ctrl, a, b] := hq
    have hbcls := hsame ▸ hcls
    simp [mmaFire, mmaState_eq hctl, hhead, hend, hroom, hplace, hctrl, hop, hq, haend, hbend, hgood, ha, hb, hap, hbp, hax, hbx, hbcls,
      hsame, mmaAsked]
  · obtain ⟨hax, hbx, hcls, hsame⟩ := hok (by omega)
    simp only [mmaTokens, hop, (by decide : (1 : Nat) ≠ 0), ↓reduceIte] at hq ⊢
    replace hq : firstPos 4 (x.elem.queue 0) = [ctrl, m, a, b] := hq
    have hbcls := hsame ▸ hcls
    simp [mmaFire, mmaState_eq hctl, hhead, hend, hroom, hplace, hctrl, hop, hq, haend, hbend, hmend, hgood, ha, hb, hm, hap, hbp, hmp, hax,
      hbx, hbcls, hsame, mmaAsked]
  · simp only [mmaTokens, hop, (by decide : (2 : Nat) ≠ 0), (by decide : (2 : Nat) ≠ 1), ↓reduceIte] at hq ⊢
    replace hq : firstPos 1 (x.elem.queue 0) = [ctrl] := hq
    simp [mmaFire, mmaState_eq hctl, hhead, hend, hroom, hplace, hctrl, hop, hq, hgood, mmaAsked]
    exact ⟨rfl, rfl, rfl, rfl⟩

end Accept

/-! ## MOPF -/

/-- The tiles that a bank loader selects, and its base and length (R237). -/
def mopfTiles (x : FireIn) : List Nat := (List.range 64).filter fun t => (x.pool (fld x.f.imm 9 0)).getLsbD t
def mopfBase (x : FireIn) : Nat := fld (x.pool (fld x.f.imm 9 0 + 1)) 16 0
def mopfLength (x : FireIn) : Nat := fld (x.pool (fld x.f.imm 9 0 + 1)) 27 17 + 1

/-- The write of vector `k` of the window. -/
def mopfWrite (x : FireIn) (q : Token) (k : Nat) (s : State) : State :=
  (mopfTiles x).foldl (fun s t => s.bankWrite x.run x.blk.page t (mopfBase x + 64 * k)
    ((Pos.tok q).lanes.map fun w => natBytes 4 (w.getD 0).toNat).flatten) s

section Mopf
variable {x : FireIn} {q : Token} {k : Nat} (hctl : x.elem.ctl = .count k false) (hq : x.avail 0 = some (.tok q))
  (hend : q.mark.isEnd = false) (hpoison : q.isPoison = false)
include hctl hq hend hpoison

theorem mopfFire_vector (hmore : k + 1 < mopfLength x) :
    mopfFire x = .act { elem := { x.elem.pop 0 with ctl := .count (k + 1) false }, eff := mopfWrite x q k } := by
  have hmore' : k + 1 < fld (x.pool (x.imm 9 0 + 1)) 27 17 + 1 := hmore
  simp only [mopfFire, hctl, hq, Pos.isEnd, Pos.mark, hend, Pos.poison, hpoison, hmore', Bool.or_self, Bool.false_eq_true, ↓reduceIte]
  rfl

theorem mopfFire_last (hlast : mopfLength x ≤ k + 1) :
    mopfFire x = .act { elem := { x.elem.pop 0 with ctl := .count 0 false }
                        emits := x.all fun o => .tok o (scalarTok (BitVec.ofNat 32 ((mopfTiles x).headD 0 * 2 ^ 17 + mopfBase x)) .data x.rcNo)
                        eff := mopfWrite x q k } := by
  have hlast' : ¬ k + 1 < fld (x.pool (x.imm 9 0 + 1)) 27 17 + 1 := Nat.not_lt.2 hlast
  simp only [mopfFire, hctl, hq, Pos.isEnd, Pos.mark, hend, Pos.poison, hpoison, hlast', Bool.or_self, Bool.false_eq_true, ↓reduceIte]
  rfl

end Mopf

/-- Settles O44: an operation whose tokens stand at the input is accepted; a vector of a window is written into the tiles selected. -/
theorem matrixOperandsAccepted : Obligations.MatrixOperandsAccepted := by
  refine ⟨?mma, ?mopf⟩
  case mma =>
    intro f s t x ops last ctrl m a b hfire hctl hroom hplace hctrl hgood hm ha hb hmp hap hbp c ps hq hok op ht
    obtain rfl : f = x.f := Option.some.inj (firingOf_f hfire).1
    exact fire_act hfire (mmaFire_accepts hctl hroom hplace hctrl hgood hm ha hb hmp hap hbp hq hok) ht
  case mopf =>
    intro f s t x q k hfire hctl hq hend hpoison p base n tiles bytes write
    obtain rfl : f = x.f := Option.some.inj (firingOf_f hfire).1
    exact ⟨fun hmore ht => fire_act hfire (mopfFire_vector hctl hq hend hpoison hmore) ht,
      fun hlast ht => fire_act hfire (mopfFire_last hctl hq hend hpoison hlast) ht⟩

/-! ## MDRAIN -/

section Drains
variable {x : FireIn} {d : Drain}

/-- The accumulators that the completion word names, for the element: all of them for MDRAIN.all, else its own. -/
def drainAccs (x : FireIn) (all : Bool) (c : W32) : List Nat :=
  if all then (List.range (fld c 2 0 + fld c 6 4 + 1 - fld c 2 0)).map (fld c 2 0 + ·) else [fld x.f.imm 12 10]

/-- The routes that a STEER word selects, as vector routes or not. -/
def drainVecs (x : FireIn) (i : Instr) (w : W32) : List Bool :=
  ((List.range 8).filter fun k => w.getLsbD k).filterMap fun k =>
    ((routesOf x i).find? (fun r => r.1 == k)).map fun r => routeVec x.blk x.ref.idx r.2

/-- A completion word that names the accumulator forms its drain, which begins or, while the accumulator is claimed, waits. -/
theorem mdrainFire_named {all : Bool} {i : Instr} {p : Pos} {w : W32} (hctl : x.elem.ctl = .drain none) (hp : x.head 0 = some p)
    (hend : p.isEnd = false) (hpoison : p.poison = false) (hmd : x.md ≠ 1) (hstatus : fld p.word 31 28 ≤ 4 ∨ fld p.word 31 28 = 12)
    (hnamed : all = false → fld p.word 2 0 ≤ fld x.f.imm 12 10 ∧ fld x.f.imm 12 10 ≤ fld p.word 2 0 + fld p.word 6 4)
    (hw : w = (x.pool (fld x.f.imm 9 0)).setWidth 32) (hhigh : fld w 31 8 = 0)
    (hroutes : ((List.range 8).filter fun k => w.getLsbD k).all (fun k => (routesOf x i).any fun r => r.1 == k) = true)
    (hkinds : ((drainVecs x i w).any id && !(drainVecs x i w).all id) = false) :
    mdrainFire all i x =
      let d : Drain := ⟨drainAccs x all p.word, 0, 0, fld w 7 0, [], false, false, false, (drainVecs x i w).any id⟩
      if drainClaimed x d then .act { elem := { x.elem with ctl := .drain (some d) } } else .act (drainStart x d) := by
  have hok : (decide (fld p.word 31 28 ≤ 4) || decide (fld p.word 31 28 = 12)) = true := by simpa using hstatus
  have hany : ((List.range 8).filter fun k => w.getLsbD k).any (fun k => !((routesOf x i).any fun r => r.1 == k)) = false := by
    rw [List.any_eq_false]
    intro k hk
    rw [List.all_eq_true.1 hroutes k hk]
    decide
  unfold drainVecs at hkinds ⊢
  cases all with
  | true =>
    have hsome : ((List.range (fld p.word 2 0 + fld p.word 6 4 + 1 - fld p.word 2 0)).map (fld p.word 2 0 + ·)).isEmpty = false := by
      simp
      omega
    simp only [mdrainFire, hctl, hp, hend, FireIn.imm, hpoison, hok, hsome, hmd, ← hw, hhigh, hany, hkinds, Bool.not_true, Bool.false_eq_true,
      ↓reduceIte, decide_false, Bool.false_and, bne_self_eq_false, Bool.or_self, drainAccs]
  | false =>
    simp only [mdrainFire, hctl, hp, hend, FireIn.imm, hpoison, hok, hnamed rfl, hmd, ← hw, hhigh, hany, hkinds, Bool.not_true,
      Bool.false_eq_true, ↓reduceIte, decide_false, Bool.false_and, bne_self_eq_false, Bool.or_self, drainAccs, and_self, List.isEmpty_cons]

/-- What no step of a fold changes stays through the fold. -/
theorem foldl_fixes {α β γ : Type} {g : β → γ} {f : β → α → β} (h : ∀ b a, g (f b a) = g b) : ∀ (l : List α) (b : β), g (l.foldl f b) = g b
  | [], _ => rfl
  | a :: l, b => (foldl_fixes h l (f b a)).trans (h b a)

/-- One read ahead of emission. -/
def drainReadOn (x : FireIn) (n : Nat) (d : Drain) : Drain :=
  if d.fetched < n ∧ d.read.length < 4 then { d with read := d.read ++ [drainRead x d d.fetched], fetched := d.fetched + 1 } else d

theorem drainFill_eq (x : FireIn) (d : Drain) :
    drainFill x d = (List.range 4).foldl (fun e _ => drainReadOn x (if d.vec then 64 else 1024) e) d := rfl

/-- Reading ahead leaves what a drain is about. -/
theorem drainFill_keeps (x : FireIn) (d : Drain) :
    (drainFill x d).accs = d.accs ∧ (drainFill x d).begun = d.begun ∧ (drainFill x d).taken = d.taken := by
  have hstep (n : Nat) (d : Drain) : ((drainReadOn x n d).accs, (drainReadOn x n d).begun, (drainReadOn x n d).taken)
      = (d.accs, d.begun, d.taken) := by
    unfold drainReadOn
    split <;> rfl
  have h := foldl_fixes (g := fun d : Drain => (d.accs, d.begun, d.taken)) (f := fun e _ => drainReadOn x (if d.vec then 64 else 1024) e)
    (fun e _ => hstep _ e) (List.range 4) d
  rw [drainFill_eq]
  simpa using h

theorem drainStart_routes (htaken : d.taken = false) (hroutes : d.rtmask ≠ 0) : drainStart x d =
    { elem := { x.elem.pops x.ins with ctl := .drain (some (drainFill x { d with begun := true, taken := true })) } } := by
  simp only [drainStart, htaken, hroutes, Bool.false_eq_true, ↓reduceIte]

theorem drainBegin_free {i : Instr} (hctl : x.elem.ctl = .drain (some d)) (hbegun : d.begun = false) (hfree : drainClaimed x d = false) :
    drainBegin x i = .act (drainStart x d) := by
  simp only [drainBegin, hctl, hbegun, hfree, Bool.or_self, Bool.false_eq_true, ↓reduceIte]

theorem zero_or_flags (f : Flags) : 0 ||| f = f := BitVec.zero_or

/-- A word of a drain on scalar routes leaves on every selected route. -/
theorem drainWord_scalar {i : Instr} {w : W32} {rest : List (List (Option W32))} (hctl : x.elem.ctl = .drain (some d))
    (hbegun : d.begun = true) (hread : d.read = [some w] :: rest) (hpoison : d.poisoned = false) (hvec : d.vec = false)
    (honce : x.elem.firedAt ≠ x.s.cycle + 1)
    (hroom : (((routesOf x i).filter fun r => d.rtmask.testBit r.1).all fun r =>
      linkCap x.load x.ref.blk r.2 == 0 || hasRoom x.load x.ref.blk x.blk x.s.cycle x.ref.idx r.2 1) = true) :
    drainWord x i =
      let d1 := drainFill x { d with read := rest, pos := d.pos + 1 }
      let enc := x.rc.encode (f32 w.toNat)
      .act { elem := { x.elem with ctl := .drain (if d1.pos = 1024 then drainNext d1 else some d1), firedAt := x.s.cycle + 1 }
             flags := enc.2.2
             emits := ((routesOf x i).filter fun r => d.rtmask.testBit r.1).map fun r =>
               emitWord r.1 enc.1 enc.2.1 (if d.pos = 1023 then .last2 else if d.pos % 32 = 31 then .last else .data) x.rcNo } := by
  simp only [drainWord, hctl, hbegun, hread, honce, hroom, hpoison, hvec, drainMark, Bool.not_true, Bool.false_eq_true, ↓reduceIte,
    List.any_cons, List.any_nil, Option.isNone_some, Bool.or_self, List.map_cons, List.map_nil, Option.getD_some, List.foldl_cons,
    List.foldl_nil, zero_or_flags]

end Drains

/-- Settles O46: the completion word forms its drain, which begins or waits; the words of a drain on scalar routes. -/
theorem matrixDrains : Obligations.MatrixDrains := by
  refine ⟨?named, ?start, ?begin, ?word⟩
  case named =>
    intro row hrow f s t x p hfire hctl hp hend hpoison hmd c lo hi accs w sel routes vecs hstatus hnamed hhigh hroutes hkinds d
    have hexec : exec (row.1 f) s = fire (row.1 f) (mdrainFire row.2 (row.1 f)) s ∧ fabOf (row.1 f) = some f := by
      simp only [List.mem_cons, List.not_mem_nil, or_false] at hrow
      obtain rfl | rfl := hrow <;> exact ⟨rfl, rfl⟩
    obtain rfl : f = x.f := Option.some.inj (hexec.2.symm.trans (firingOf_f hfire).1)
    have hbody := mdrainFire_named hctl hp hend hpoison (fun h => hmd ((md_eq_one x).1 h)) hstatus hnamed rfl hhigh hroutes hkinds
    rw [hexec.1]
    refine ⟨fun hfree ht => ?_, fun hclaimed ht => ?_⟩
    · exact fire_act hfire (hbody.trans (if_neg (Bool.eq_false_iff.1 hfree))) ht
    · exact fire_act hfire (hbody.trans (if_pos hclaimed)) ht
  case start =>
    intro x d htaken hroutes
    rw [drainStart_routes htaken hroutes]
    obtain ⟨haccs, hbegun, htaken'⟩ := drainFill_keeps x { d with begun := true, taken := true }
    exact ⟨rfl, _, rfl, haccs, hbegun, htaken'⟩
  case begin =>
    intro e s t x i d hdrive hctl hbegun hfree ht
    exact congrArg _ (drive_act hdrive (drainBegin_free hctl hbegun hfree) ht)
  case word =>
    intro e s t x i d w rest hdrive hctl hbegun hread hpoison hvec honce sel hroom m d1 enc ht
    exact congrArg _ (drive_act hdrive (drainWord_scalar hctl hbegun hread hpoison hvec honce hroom) ht)

end Sys2Proof.Proofs.MatrixNode
end

section
/-! The addresses of generators of one and of two loops (O54). -/

namespace Sys2Proof.Proofs.Generators
open Sys2Proof.Machine Sys2Proof.Laws

/-! ## Addresses of a binding -/

theorem next_one {b : Binding} {n : Nat} {d : Int} (hcounts : b.counts = [n]) (hstrides : b.strides = [d]) (hpos : b.pos < n) :
    b.next = ((((b.base : Int) + b.offset.toNat + b.pos * d) % 2 ^ 57).toNat, if b.pos + 1 = n then .last else .data) := by
  simp only [Binding.next, hcounts, hstrides, List.zip_cons_cons, List.zip_nil_right, List.foldl_cons, List.foldl_nil,
    Nat.mod_eq_of_lt hpos, List.nil_append, List.headD_cons, List.drop_succ_cons, List.drop_nil, List.headD_nil, Bool.and_false,
    Bool.false_eq_true, ↓reduceIte, beq_iff_eq, Int.zero_add]

/-- The last iteration of the inner loop, and the last of both. -/
theorem succ_mod_eq_zero_iff {p n : Nat} (hn : 0 < n) : (p + 1) % n = 0 ↔ p % n + 1 = n := by
  have hlt := Nat.mod_lt p hn
  rw [← Nat.mod_add_mod]
  constructor
  · intro h
    refine Decidable.byContradiction fun hne => ?_
    rw [Nat.mod_eq_of_lt (by omega)] at h
    omega
  · intro h
    rw [h, Nat.mod_self]

theorem succ_eq_mul_iff {p n m : Nat} (hinner : p % n + 1 = n) : p / n + 1 = m ↔ p + 1 = n * m := by
  have hp : p + 1 = n * (p / n + 1) := by
    have := Nat.div_add_mod p n
    rw [Nat.mul_succ]
    omega
  have hn : 0 < n := by omega
  constructor
  · rintro rfl
    exact hp
  · intro h
    exact Nat.eq_of_mul_eq_mul_left hn (hp ▸ h)

theorem next_two {b : Binding} {n m : Nat} {d e : Int} (hcounts : b.counts = [n, m]) (hstrides : b.strides = [d, e])
    (hpos : b.pos < n * m) :
    b.next = ((((b.base : Int) + b.offset.toNat + (b.pos % n : Nat) * d + (b.pos / n : Nat) * e) % 2 ^ 57).toNat,
      if (b.pos + 1) % n = 0 then if b.pos + 1 = n * m then .last2 else .last else .data) := by
  have hn : 0 < n := by
    refine Decidable.byContradiction fun h => ?_
    obtain rfl : n = 0 := by omega
    simp at hpos
  have hquot : b.pos / n % m = b.pos / n := Nat.mod_eq_of_lt (Nat.div_lt_of_lt_mul hpos)
  have hmark : (if (b.pos % n + 1 == n) && (b.pos / n + 1 == m) then Mark.last2 else if b.pos % n + 1 == n then .last else .data)
      = if (b.pos + 1) % n = 0 then if b.pos + 1 = n * m then .last2 else .last else .data := by
    by_cases hinner : b.pos % n + 1 = n
    · by_cases houter : b.pos / n + 1 = m
      · simp [hinner, houter, (succ_eq_mul_iff hinner).1 houter]
      · have hne : b.pos + 1 ≠ n * m := fun h => houter ((succ_eq_mul_iff hinner).2 h)
        simp [hinner, houter, (succ_mod_eq_zero_iff hn).2 hinner, hne]
    · have hne : (b.pos + 1) % n ≠ 0 := fun h => hinner ((succ_mod_eq_zero_iff hn).1 h)
      simp [hinner, hne]
  simp only [Binding.next, hcounts, hstrides, List.zip_cons_cons, List.zip_nil_right, List.foldl_cons, List.foldl_nil, hquot,
    List.nil_append, List.cons_append, List.headD_cons, List.drop_succ_cons, List.drop_zero, hmark, Int.zero_add, Int.add_assoc]

/-! ## Its end -/

theorem advance_inside {g : Gen} {b : Binding} (h : b.pos + 1 < b.count) :
    g.advance b = (⟨some { b with pos := b.pos + 1 }, g.pending⟩, false) := if_pos h

theorem advance_last {g : Gen} {b : Binding} (h : b.count ≤ b.pos + 1) : g.advance b = g.close { b with pos := b.pos + 1 } :=
  if_neg (Nat.not_lt.2 h)

/-- Settles O54: the positions of one and of two loops in mixed radix, and the hand-over to a pending binding. -/
theorem generatorAddresses : Obligations.GeneratorAddresses := by
  refine ⟨fun b n d hc hs hp => next_one hc hs hp, fun b n m d e hc hs hp => next_two hc hs hp, fun g b h => advance_inside h,
    fun g b h hnone => ?_, fun g b p l h hsome => ?_⟩
  · rw [advance_last h, Gen.close, hnone]
  · rw [advance_last h, Gen.close, hsome]

end Sys2Proof.Proofs.Generators
end

section
/-! An invalidation marks the slots that it is about, and no other (O50). -/

namespace Sys2Proof.Proofs.SlotInvalidation
open Sys2Proof.Machine Sys2Proof.Laws

/-! ## A field of a line put anew -/

theorem add_mul_lt_mul {a b q r : Nat} (ha : a < b) (hq : q < r) : a + b * q < b * r :=
  calc a + b * q < b + b * q := Nat.add_lt_add_right ha _
    _ = b * (q + 1) := by rw [Nat.mul_succ, Nat.add_comm]
    _ ≤ b * r := Nat.mul_le_mul_left _ hq

/-- A line with a field put anew: what is below the field, the value, and what is above it. -/
theorem putFld_toNat (h : Line) {lo w : Nat} (v : Nat) (hfit : lo + w ≤ 512) :
    (putFld h lo w v).toNat = h.toNat % 2 ^ lo + 2 ^ lo * (v % 2 ^ w + 2 ^ w * (h.toNat / 2 ^ (lo + w))) := by
  have hv : v % 2 ^ w < 2 ^ w := Nat.mod_lt _ (Nat.two_pow_pos w)
  have hlow : h.toNat % 2 ^ lo < 2 ^ lo := Nat.mod_lt _ (Nat.two_pow_pos lo)
  have hsplit : h.toNat = h.toNat % 2 ^ lo + 2 ^ lo * (h.toNat / 2 ^ lo % 2 ^ w + 2 ^ w * (h.toNat / 2 ^ (lo + w))) := by
    rw [Nat.pow_add, ← Nat.div_div_eq_div_mul, Nat.mod_add_div, Nat.mod_add_div]
  have hnew : h.toNat - h.toNat / 2 ^ lo % 2 ^ w * 2 ^ lo + v % 2 ^ w * 2 ^ lo
      = h.toNat % 2 ^ lo + 2 ^ lo * (v % 2 ^ w + 2 ^ w * (h.toNat / 2 ^ (lo + w))) := by
    rw [Nat.mul_add] at hsplit ⊢
    rw [Nat.mul_comm _ (2 ^ lo), Nat.mul_comm _ (2 ^ lo)]
    omega
  have hbound : h.toNat % 2 ^ lo + 2 ^ lo * (v % 2 ^ w + 2 ^ w * (h.toNat / 2 ^ (lo + w))) < 2 ^ 512 := by
    have htop : h.toNat / 2 ^ (lo + w) < 2 ^ (512 - (lo + w)) := by
      rw [Nat.div_lt_iff_lt_mul (Nat.two_pow_pos _), ← Nat.pow_add, Nat.sub_add_cancel hfit]
      exact h.isLt
    refine Nat.lt_of_lt_of_eq (add_mul_lt_mul hlow (add_mul_lt_mul hv htop)) ?_
    rw [← Nat.mul_assoc, ← Nat.pow_add, ← Nat.pow_add, Nat.add_sub_cancel' hfit]
  rw [putFld, BitVec.toNat_ofNat, hnew, Nat.mod_eq_of_lt hbound]

theorem fld_putFld_same (h : Line) {lo w : Nat} (v : Nat) (hw : 0 < w) (hfit : lo + w ≤ 512) :
    fld (putFld h lo w v) (lo + w - 1) lo = v % 2 ^ w := by
  rw [fld, putFld_toNat h v hfit, Nat.shiftRight_eq_div_pow, show lo + w - 1 + 1 - lo = w by omega,
    Nat.add_mul_div_left _ _ (Nat.two_pow_pos lo), Nat.div_eq_of_lt (Nat.mod_lt _ (Nat.two_pow_pos lo)), Nat.zero_add,
    Nat.add_mul_mod_self_left, Nat.mod_mod]

theorem fld_putFld_above (h : Line) {lo w l u : Nat} (v : Nat) (hfit : lo + w ≤ 512) (hl : lo + w ≤ l) :
    fld (putFld h lo w v) u l = fld h u l := by
  have hv : v % 2 ^ w < 2 ^ w := Nat.mod_lt _ (Nat.two_pow_pos w)
  have htop : (putFld h lo w v).toNat / 2 ^ (lo + w) = h.toNat / 2 ^ (lo + w) := by
    rw [putFld_toNat h v hfit, Nat.pow_add, ← Nat.div_div_eq_div_mul, Nat.add_mul_div_left _ _ (Nat.two_pow_pos lo),
      Nat.div_eq_of_lt (Nat.mod_lt _ (Nat.two_pow_pos lo)), Nat.zero_add, Nat.add_mul_div_left _ _ (Nat.two_pow_pos w),
      Nat.div_eq_of_lt hv, Nat.zero_add]
  have hpow : 2 ^ l = 2 ^ (lo + w) * 2 ^ (l - (lo + w)) := by rw [← Nat.pow_add, Nat.add_sub_cancel' hl]
  rw [fld, fld, Nat.shiftRight_eq_div_pow, Nat.shiftRight_eq_div_pow, hpow, ← Nat.div_div_eq_div_mul, htop, Nat.div_div_eq_div_mul]

/-! ## The invalidation -/

/-- The slots that an invalidation is about. -/
def invalHits (die : Nat) (v : Inval) (x : DSlot) : Bool :=
  x.die == die && (dsState x.val == 1 || dsState x.val == 2) && dsTenant x.val == v.tenant.toNat && dsHdr x.val == v.hdr
    && dsWver x.val == v.ver

/-- A slot after an invalidation. -/
def invalidated (die : Nat) (v : Inval) (x : DSlot) : DSlot := if invalHits die v x then { x with val := putFld x.val 228 2 3 } else x

theorem invalHits_iff (die : Nat) (v : Inval) (x : DSlot) : invalHits die v x = true ↔
    x.die = die ∧ (dsState x.val = 1 ∨ dsState x.val = 2) ∧ dsTenant x.val = v.tenant.toNat ∧ dsHdr x.val = v.hdr ∧ dsWver x.val = v.ver := by
  simp [invalHits, and_assoc]

/-- Where no DLMUL is under way on the die, an invalidation marks every slot that it is about. -/
theorem invalidate_slots {s : State} {die : Nat} {v : Inval} (hv : (s.eng.invals.filter fun i => i.die == die)[0]? = some v)
    (hfree : ∀ q ∈ s.eng.dreqs, q.die = die → q.op ≠ 1) :
    (s.invalidate die 0).eng.slots = s.eng.slots.map (invalidated die v)
      ∧ (s.invalidate die 0).eng.invals = s.eng.invals.erase v ∧ (s.invalidate die 0).mem = s.mem
      ∧ (s.invalidate die 0).runs = s.runs := by
  unfold State.invalidate
  split
  · rename_i hnone
    rw [hv] at hnone
    cases hnone
  · rename_i u hu
    obtain rfl : u = v := Option.some.inj (hu.symm.trans hv)
    refine ⟨List.map_congr_left fun x _ => ?_, rfl, rfl, rfl⟩
    have hbusy : (s.eng.dreqs.any fun q => q.die == die && q.op == 1 && q.begun && decide (q.stamp < s.cycle) && q.num == x.n) = false := by
      rw [List.any_eq_false]
      intro q hq hall
      simp only [Bool.and_eq_true, beq_iff_eq] at hall
      exact hfree q hq hall.1.1.1.1 hall.1.1.1.2
    simp only [hbusy, Bool.not_false, Bool.and_true]
    rfl

/-- Settles O50: STALE is put into the state field of a slot, above which the header stands. -/
theorem invalidationMarksStale : Obligations.InvalidationMarksStale := by
  intro die s v hv hfree
  obtain ⟨hslots, hinvals, hmem, hruns⟩ := invalidate_slots hv hfree
  refine ⟨s.invalidate die 0, rfl, hinvals, hmem, hruns, fun n hn => ?_⟩
  refine ⟨invalidated die v s.eng.slots[n], by rw [hslots, List.getElem?_map, List.getElem?_eq_getElem hn]; rfl, fun hmiss => ?_, fun hhit => ?_⟩
  · exact if_neg fun h => hmiss ((invalHits_iff die v _).1 h)
  · rw [invalidated, if_pos ((invalHits_iff die v _).2 hhit)]
    refine ⟨fld_putFld_same _ 3 (by decide) (by decide), rfl, rfl, ?_⟩
    rw [dsHdr, dsHdr, fld_putFld_above _ _ (by decide) (by decide)]

end Sys2Proof.Proofs.SlotInvalidation
end

section
/-! ENTER: what the accesses of a firing leave in the issue queue, and what two gathered accesses come to (O55). -/

namespace Sys2Proof.Proofs.EnterAccesses
open Sys2Proof.Machine Sys2Proof.Laws

/-! ## The issue queue -/

/-- An access joins the queue behind those that stay before it; what was there stays. -/
theorem insertAcc_split (b : Access) (l : List Access) : ∃ n, insertAcc b l = l.take n ++ [b] ++ l.drop n := ⟨_, rfl⟩

theorem length_insertAcc (b : Access) (l : List Access) : (insertAcc b l).length = l.length + 1 := by
  obtain ⟨n, h⟩ := insertAcc_split b l
  rw [h]
  simp
  omega

theorem mem_insertAcc {b y : Access} {l : List Access} : y ∈ insertAcc b l ↔ y = b ∨ y ∈ l := by
  obtain ⟨n, h⟩ := insertAcc_split b l
  have hl : y ∈ l ↔ y ∈ l.take n ∨ y ∈ l.drop n := by rw [← List.mem_append, List.take_append_drop]
  rw [h, hl, List.mem_append, List.mem_append, List.mem_singleton, or_assoc, or_left_comm]

/-- An access that does not gather joins no other one. -/
theorem joins_of_parts_nil {a b : Access} (h : b.parts = []) : a.joins b = false := by
  simp [Access.joins, h]

theorem enterAcc_of_parts_nil {b : Access} (l : List Access) (h : b.parts = []) : enterAcc b l = insertAcc b l := by
  unfold enterAcc
  split
  · rw [joins_of_parts_nil h, if_neg Bool.false_ne_true]
  · rfl

theorem enterAcc_joins {a b : Access} {l : List Access} (htail : tailAcc b l = some a) (hjoins : a.joins b = true) :
    enterAcc b l = l.map fun x => if x.id = a.id then a.merge b else x := by
  simp only [enterAcc, htail, hjoins, ↓reduceIte]

section Enter
variable {x : FireIn} {port rid : Nat} {m : Mark}

/-- The accesses of a firing in the queue, one after the other. -/
def enterAll (x : FireIn) (port rid : Nat) (m : Mark) (asks : List (Ask × Nat)) (l : List Access) : List Access :=
  asks.foldl (fun l q => enterAcc (x.access port rid (rid + 1 + q.2) m q.1) l) l

theorem access_parts {q : Ask} (id : Nat) (h : q.gather = false) : (x.access port rid id m q).parts = [] := by
  simp [FireIn.access, h]

theorem enterAll_spec : ∀ (asks : List (Ask × Nat)) (l : List Access), (∀ q ∈ asks, q.1.gather = false) →
    (enterAll x port rid m asks l).length = l.length + asks.length
      ∧ ∀ y, y ∈ enterAll x port rid m asks l ↔ y ∈ l ∨ ∃ q ∈ asks, y = x.access port rid (rid + 1 + q.2) m q.1
  | [], l, _ => ⟨rfl, fun y => by simp [enterAll]⟩
  | q :: asks, l, h => by
    have hq := enterAcc_of_parts_nil l (access_parts (x := x) (port := port) (rid := rid) (m := m) (rid + 1 + q.2) (h q (by simp)))
    obtain ⟨hlen, hmem⟩ := enterAll_spec asks (insertAcc (x.access port rid (rid + 1 + q.2) m q.1) l) fun p hp => h p (by simp [hp])
    have hstep : enterAll x port rid m (q :: asks) l = enterAll x port rid m asks (insertAcc (x.access port rid (rid + 1 + q.2) m q.1) l) := by
      rw [← hq]
      rfl
    rw [hstep]
    constructor
    · rw [hlen, length_insertAcc, List.length_cons]
      omega
    · intro y
      rw [hmem, mem_insertAcc]
      simp only [List.mem_cons, exists_eq_or_imp]
      exact or_assoc.trans or_left_comm

/-- The accesses that take an entry of their own. -/
def needs (x : FireIn) (port : Nat) (m : Mark) (asks : List Ask) : List Ask :=
  asks.filter fun q => ((tailAcc (x.access port x.s.ord.nextId x.s.ord.nextId m q) x.s.ord.accs).map
    fun a => !a.joins (x.access port x.s.ord.nextId x.s.ord.nextId m q)).getD true

theorem enter_eq (k : Taken) (asks : List Ask) (emits : List Emit) (after : List OutItem) :
    x.enter k port m asks emits after =
      if !x.room port (needs x port m asks).length then .wait
      else .act
        { elem := k.elem
          later := ⟨x.s.ord.nextId, asks.isEmpty, emits, asks.length, k.takes, k.gen, none⟩ :: after
          eff := fun s => { k.eff s with ord := { (k.eff s).ord with
            accs := enterAll x port x.s.ord.nextId m asks.zipIdx (k.eff s).ord.accs, nextId := x.s.ord.nextId + 1 + asks.length } } } := by
  have hneed : (asks.filter fun q => match tailAcc (x.access port x.s.ord.nextId x.s.ord.nextId m q) x.s.ord.accs with
      | some a => !a.joins (x.access port x.s.ord.nextId x.s.ord.nextId m q)
      | none => true) = needs x port m asks := by
    refine List.filter_congr fun q _ => ?_
    cases tailAcc (x.access port x.s.ord.nextId x.s.ord.nextId m q) x.s.ord.accs <;> rfl
  rw [← hneed]
  rfl

theorem needs_of_no_gather {asks : List Ask} (h : ∀ q ∈ asks, q.gather = false) : needs x port m asks = asks := by
  refine List.filter_eq_self.2 fun q hq => ?_
  cases tailAcc (x.access port x.s.ord.nextId x.s.ord.nextId m q) x.s.ord.accs with
  | none => rfl
  | some a => simp [joins_of_parts_nil (access_parts (x := x) (port := port) (rid := x.s.ord.nextId) (m := m) x.s.ord.nextId (h q hq))]

/-- The access at the tail, and whether it is joined, do not turn on the number of the newcomer. -/
theorem needs_of_joins {q : Ask} {a : Access} (id : Nat) (htail : tailAcc (x.access port x.s.ord.nextId id m q) x.s.ord.accs = some a)
    (hjoins : a.joins (x.access port x.s.ord.nextId id m q) = true) : needs x port m [q] = [] := by
  have htail' : tailAcc (x.access port x.s.ord.nextId x.s.ord.nextId m q) x.s.ord.accs = some a := htail
  have hjoins' : a.joins (x.access port x.s.ord.nextId x.s.ord.nextId m q) = true := hjoins
  simp [needs, htail', hjoins']

end Enter

/-! ## Gathered accesses -/

/-- Two accesses that join lie on one line of 64 bytes. -/
theorem line_of_joins {a b : Access} (h : a.joins b = true) :
    a.va / 64 = b.va / 64 ∧ (a.va + a.width - 1) / 64 = a.va / 64 ∧ (b.va + b.width - 1) / 64 = a.va / 64 := by
  simp only [Access.joins, Bool.and_eq_true, beq_iff_eq] at h
  obtain ⟨⟨⟨-, hline⟩, ha⟩, hb⟩ := h
  exact ⟨hline, ha, hb⟩

theorem merge_span (a b : Access) :
    (a.merge b).va = min a.va b.va ∧ (a.merge b).va + (a.merge b).width = max (a.va + a.width) (b.va + b.width) := by
  refine ⟨rfl, ?_⟩
  show min a.va b.va + (max (a.va + a.width) (b.va + b.width) - min a.va b.va) = _
  omega

theorem merge_parts_length (a b : Access) : (a.merge b).parts.length = a.parts.length + b.parts.length := by
  simp [Access.merge]

theorem getLsbD_ones {w i : Nat} (hi : i < w) (hfit : i < 512) : (BitVec.ofNat 512 (2 ^ w - 1)).getLsbD i = true := by
  rw [BitVec.getLsbD_ofNat, Nat.testBit_two_pow_sub_one]
  simp [hi, hfit]

/-- The newcomer's bytes stand in its place of the merged access. -/
theorem merge_data {a b : Access} (hjoins : a.joins b = true) (hb : 0 < b.width) {i : Nat} (hi : i < 8 * b.width) :
    (a.merge b).data.getLsbD (8 * (b.va - min a.va b.va) + i) = b.data.getLsbD i := by
  obtain ⟨hline, hafit, hbfit⟩ := line_of_joins hjoins
  have hplace : b.va - min a.va b.va + b.width ≤ 64 := by omega
  have hfit : 8 * (b.va - min a.va b.va) + i < 512 := by omega
  have hones := getLsbD_ones hi (by omega)
  generalize hdb : 8 * (b.va - min a.va b.va) = db at hfit
  show (((a.data <<< (8 * (a.va - min a.va b.va))) &&& ~~~(BitVec.ofNat 512 (2 ^ (8 * b.width) - 1) <<< (8 * (b.va - min a.va b.va))))
    ||| ((b.data &&& BitVec.ofNat 512 (2 ^ (8 * b.width) - 1)) <<< (8 * (b.va - min a.va b.va)))).getLsbD (db + i) = _
  rw [hdb]
  simp only [BitVec.getLsbD_or, BitVec.getLsbD_and, BitVec.getLsbD_not, BitVec.getLsbD_shiftLeft, hfit, Nat.not_lt.2 (Nat.le_add_right db i),
    Nat.add_sub_cancel_left, hones, decide_true, decide_false, Bool.not_false, Bool.not_true, Bool.and_true, Bool.and_false, Bool.true_and,
    Bool.false_or]

/-- Settles O55: the queue after the accesses of a firing, and what two accesses come to that join. -/
theorem enterQueuesEveryAccess : Obligations.EnterQueuesEveryAccess := by
  refine ⟨?queue, ?gather, fun a b hjoins _ hb => ?merge⟩
  case queue =>
    intro x k port m asks emits after hplain
    have henter := enter_eq (x := x) (port := port) (m := m) k asks emits after
    rw [needs_of_no_gather hplain] at henter
    constructor
    · intro hroom
      rw [FireIn.room, decide_eq_true hroom, Bool.not_true, if_neg Bool.false_ne_true] at henter
      refine ⟨_, henter, rfl, rfl, fun s hs => ?_⟩
      obtain ⟨hlen, hmem⟩ := enterAll_spec (x := x) (port := port) (rid := x.s.ord.nextId) (m := m) asks.zipIdx x.s.ord.accs
        fun q hq => hplain q.1 (List.fst_mem_of_mem_zipIdx hq)
      refine ⟨?_, fun y hy => ?_, fun q hq => ?_⟩
      · show (enterAll _ _ _ _ _ (k.eff s).ord.accs).length = _
        rw [hs, hlen, List.length_zipIdx]
      · show y ∈ enterAll _ _ _ _ _ (k.eff s).ord.accs
        rw [hs]
        exact (hmem y).2 (.inl hy)
      · obtain ⟨n, hn⟩ := List.mem_iff_getElem?.1 hq
        refine ⟨x.access port x.s.ord.nextId (x.s.ord.nextId + 1 + n) m q, ?_, rfl, rfl, rfl, rfl, rfl, rfl, rfl, rfl, rfl, rfl, rfl, rfl, rfl⟩
        show _ ∈ enterAll _ _ _ _ _ (k.eff s).ord.accs
        rw [hs]
        exact (hmem _).2 (.inr ⟨(q, n), List.mem_zipIdx_iff_getElem?.2 hn, rfl⟩)
    · intro hfull
      rw [FireIn.room, decide_eq_false (Nat.not_le.2 hfull), Bool.not_false, if_pos rfl] at henter
      exact henter
  case gather =>
    intro x k port m q emits after a b htail hjoins hroom
    have henter := enter_eq (x := x) (port := port) (m := m) k [q] emits after
    rw [needs_of_joins _ htail hjoins, FireIn.room, List.length_nil, Nat.add_zero, decide_eq_true hroom, Bool.not_true,
      if_neg Bool.false_ne_true] at henter
    refine ⟨_, henter, rfl, fun s hs => ?_⟩
    show enterAcc b (k.eff s).ord.accs = _
    rw [hs, enterAcc_joins htail hjoins]
  case merge =>
    exact ⟨(merge_span a b).1, (merge_span a b).2, merge_parts_length a b, fun i hi => merge_data hjoins hb hi⟩

end Sys2Proof.Proofs.EnterAccesses
end

section
/-! Taking a trap (O14): what the model keeps beside the run is not the escapement before the trap. -/

namespace Sys2Proof.Proofs.TrapTaking
open Sys2Proof.Machine Sys2Proof.Laws

/-! A run whose handler is enabled, with its record at 0x4000, in a context whose page table maps low memory onto the host's. What
the model keeps beside the run (`Run.caught`, log 114) is the escapement after G62 and G63 have been written, not the one before. -/

/-- The run: handler state off, EN set, FRA = 0x4000. -/
def handledRun : Run := { Run.init 0 0 0 0 0 [] with regs := ⟨0, 0x8000_0000_0000_4000, 0, false⟩ }

/-- Its module: a page table of three levels at 0x1000, 0x2000 and 0x3000, whose last entry maps low addresses to the host's memory, so that the free bytes of the record
leave the table as it is. -/
def handledState : State :=
  { State.reset with
    runs := [handledRun]
    mem := { State.reset.mem with hbm := [(0x1000, 1), (0x1001, 0x20), (0x2000, 1), (0x2001, 0x30), (0x3000, 7), (0x3007, 0x80)] }
    adm := { State.reset.adm with ctxs := [⟨0, BitVec.ofNat 512 (0x1000 * 2 ^ 128)⟩], tenants := [⟨0, BitVec.ofNat 128 (2 ^ 108)⟩] } }

def trapInfo : FaultInfo := FaultInfo.base 0x103 1

/-- The record that the trap writes. -/
def trapRecord : Except WalkFault State :=
  { handledState with free := handledState.free + 256 }.vwrite handledRun.slot (fld handledRun.regs.handler 56 8 * 256)
    (recordBytes (fun k => Config.freeByte (handledState.free + k)) trapInfo 32 (handledState.identity 0) handledState.time
      (some handledRun.esc.sqc) (some (handledRun.getG 62).toNat) (some (handledRun.getG 63).toNat))

theorem trapRecord_written : trapRecord.toOption.isSome = true := by decide +kernel

/-- G62 of the escapement that is kept: FRA already. -/
theorem caught_g62 : ((handledState.takeTrap 0 .seqtrap trapInfo).run? 0).bind (fun r => r.caught.map fun c => c.esc.g.getD 62 0)
    = some 0x4000 := by decide +kernel

/-- Refutes O14: the escapement kept with the trap is not the one before it, since its G62 is FRA. -/
theorem not_takingATrap : ¬ Obligations.TakingATrap := by
  intro h
  obtain ⟨s1, hs1⟩ : ∃ s1, trapRecord = .ok s1 := by
    cases hrec : trapRecord with
    | ok s1 => exact ⟨s1, rfl⟩
    | error e =>
      have := trapRecord_written
      rw [hrec] at this
      cases this
  obtain ⟨htaken, -⟩ := h handledState 0 .seqtrap trapInfo handledRun rfl
  obtain ⟨r', hr', -, -, -, -, -, -, -, -, -, -, -, -, hcaught, -⟩ := htaken rfl (by decide) (by decide) (by decide) (by decide) s1 hs1
  have hg62 := caught_g62
  rw [hr', Option.bind_some, hcaught, Option.map_some] at hg62
  exact absurd (Option.some.inj hg62) (by decide)

end Sys2Proof.Proofs.TrapTaking
end

section
/-! A firing beside a full consumer (O5): an element of a port tile needs no slot where it puts no token. -/

namespace Sys2Proof.Proofs.FullConsumer
open Sys2Proof.Machine Sys2Proof.Laws

/-! A MUL that stands at an elided position while its only consumer is full. The fields of the instruction name a port tile (unit 15), which
no well-formed word of the scalar ALU does; the statement asks nothing of them, and of an element of a port tile R67 asks no slot where it
puts no token (`namesAll`). So the elided zero is taken and counted. -/

/-- Its fields: immediate form, consumer element 1 on input 0 with four slots, unit 15. -/
def portFields : Fab := ⟨0, 15, some ⟨1, 0, 4⟩, none, 0, 5⟩

def waitingTok : Token := scalarTok 7 .data 0

/-- The MUL with an elided position before a token, and its consumer with four tokens. -/
def fullBlk : Blk :=
  ⟨0, [0, 0], [0, 0], [], 0, 0,
    [{ initElem 0x22 0 5 with q := [[{ waitingTok with skip := 1 }], [], [], []] },
     { initElem 0x4F 0 0 with q := [List.replicate 4 waitingTok, [], [], []] }], 0, 0, none⟩

/-- A configuration of that block alone, running. -/
def fullLoad : Loaded :=
  { cfg := 0, rule := 0, full := false, chans := List.replicate 32 9, scales := [], ctabs := [], ports := 0, carves := [], bufs := []
    atLoad := [], vks := [], blks := [fullBlk], iters := 0, serial := 0, running := true, doneAt := none, registered := false, stray := false
    path := [], sqc := 0 }

def fullRun : Run := { Run.init 0 0 0 0 0 [] with st := .resident, p0 := { Plane.empty with loads := [fullLoad] } }

/-- The module with that run, its element 0 in focus. -/
def fullState : State := { State.reset with focus := some ⟨0, some ⟨0, 0, 0, 0, 0⟩⟩, runs := [fullRun] }

/-- What the statement asks of the firing holds. -/
def asksWhatHolds (x : FireIn) : Bool :=
  decide (x.heads x.ins = some [.elided] ∧ conOf x.blk (.mul portFields) x.f 0 = some ⟨1, 0, 4⟩ ∧ x.ref.idx ≠ 1
    ∧ 0 < linkCap x.load x.ref.blk ⟨1, 0, 4⟩ ∧ linkCap x.load x.ref.blk ⟨1, 0, 4⟩ ≤ (queueOf x.load x.ref.blk x.blk ⟨1, 0, 4⟩).length)

theorem firing_asksWhatHolds : (firingOf (.mul portFields) fullState).any asksWhatHolds = true := by decide +kernel

/-- Firings that element 0 has made. -/
def firesOf (s : State) : Option Nat := (s.site ⟨0, 0, 0, 0, 0⟩).map fun h => h.elem.fires

def firesAfter (o : Host.Outcome State Fault Refusal) : Option Nat :=
  match o with
  | .next t => firesOf t
  | _ => none

theorem fires_before : firesOf fullState = some 0 := by decide +kernel

theorem fires_after : firesAfter (exec (.mul portFields) fullState) = some 1 := by decide +kernel

/-- Refutes O5: a MUL whose fields name a port tile takes an elided position while its consumer is full. -/
theorem not_tokensReachTheirConsumer : ¬ Obligations.TokensReachTheirConsumer := by
  rintro ⟨-, hfull⟩
  obtain ⟨x, hx, hasks⟩ := (Option.any_eq_true _ _).1 firing_asksWhatHolds
  obtain ⟨hheads, hcon, hidx, hcap, hlen⟩ := of_decide_eq_true hasks
  have hrow : ((.mul : Fab → Instr), true, fun a b : W32 => BitVec.ofInt 32 (a.toInt * b.toInt)) ∈ binRows := by simp [binRows]
  have hstay := hfull _ hrow portFields fullState x [.elided] 0 ⟨1, 0, 4⟩ hx hheads rfl (by decide) hcon (Ne.symm hidx) hcap hlen
  have hfires := fires_after
  rw [hstay, firesAfter, fires_before] at hfires
  cases hfires

end Sys2Proof.Proofs.FullConsumer
end

section
/-! The frame of a firing: what it leaves of the module, of its run and of the other elements (O4). -/

namespace Sys2Proof.Proofs.FiringFrames
open Sys2Proof.Machine Sys2Proof.Laws

/-! ## What an element keeps while another one fires -/

/-- An element with the same operation and results in hand, whose queues hold what they held in front. -/
structure Grows (e e' : Elem) : Prop where
  ctl : e'.ctl = e.ctl
  out : e'.out = e.out
  pend : e'.pend = e.pend
  fires : e'.fires = e.fires
  firedAt : e'.firedAt = e.firedAt
  latch : e'.latch = e.latch
  queue : ∀ k, e.queue k <+: e'.queue k

theorem Grows.refl (e : Elem) : Grows e e := ⟨rfl, rfl, rfl, rfl, rfl, rfl, fun _ => List.prefix_rfl⟩

theorem Grows.trans {a b c : Elem} (h : Grows a b) (h' : Grows b c) : Grows a c :=
  ⟨h'.ctl.trans h.ctl, h'.out.trans h.out, h'.pend.trans h.pend, h'.fires.trans h.fires, h'.firedAt.trans h.firedAt,
    h'.latch.trans h.latch, fun k => (h.queue k).trans (h'.queue k)⟩

theorem queue_setQueue (e : Elem) (k n : Nat) (l : List Token) :
    (e.setQueue k l).queue n = if n = k ∧ k < e.q.length then l else e.queue n := by
  simp only [Elem.queue, Elem.setQueue, List.getD_eq_getElem?_getD, setAt_get]
  by_cases hn : n = k
  · subst hn
    by_cases hlt : n < e.q.length
    · simp [hlt]
    · simp [hlt]
  · simp [hn]

/-- A token that joins a queue. -/
theorem grows_setQueue (e : Elem) (k : Nat) (t : Token) : Grows e (e.setQueue k (e.queue k ++ [t])) := by
  refine ⟨rfl, rfl, rfl, rfl, rfl, rfl, fun n => ?_⟩
  rw [queue_setQueue]
  split
  · rename_i h
    rw [h.1]
    exact List.prefix_append _ _
  · exact List.prefix_rfl

/-! ## Its block -/

/-- A block of the same words in which every element but that at `me` keeps itself. -/
def BlkGrows (me : Option Nat) (b b' : Blk) : Prop :=
  b'.words = b.words ∧ ∀ j e, me ≠ some j → b.elems[j]? = some e → ∃ e', b'.elems[j]? = some e' ∧ Grows e e'

theorem BlkGrows.refl (me : Option Nat) (b : Blk) : BlkGrows me b b := ⟨rfl, fun _ e _ h => ⟨e, h, Grows.refl e⟩⟩

theorem BlkGrows.trans {me : Option Nat} {a b c : Blk} (h : BlkGrows me a b) (h' : BlkGrows me b c) : BlkGrows me a c := by
  refine ⟨h'.1.trans h.1, fun j e hj he => ?_⟩
  obtain ⟨e1, he1, hg1⟩ := h.2 j e hj he
  obtain ⟨e2, he2, hg2⟩ := h'.2 j e1 hj he1
  exact ⟨e2, he2, hg1.trans hg2⟩

theorem blkGrows_modAt {b : Blk} {f : Elem → Elem} (me : Option Nat) (k : Nat) (hf : ∀ e, Grows e (f e)) :
    BlkGrows me b { b with elems := modAt f b.elems k } := by
  refine ⟨rfl, fun j e _ he => ?_⟩
  show ∃ e', (modAt f b.elems k)[j]? = some e' ∧ Grows e e'
  rw [modAt_get, he]
  split
  · exact ⟨f e, rfl, hf e⟩
  · exact ⟨e, rfl, Grows.refl e⟩

theorem blkGrows_setAt (b : Blk) (k : Nat) (e : Elem) : BlkGrows (some k) b { b with elems := setAt b.elems k e } := by
  refine ⟨rfl, fun j u hj hu => ?_⟩
  show ∃ e', (setAt b.elems k e)[j]? = some e' ∧ Grows u e'
  rw [setAt_get, if_neg fun h => hj (congrArg some h.symm), hu]
  exact ⟨u, rfl, Grows.refl u⟩

theorem blkGrows_pushAll (me : Option Nat) (l : Loaded) (n : Nat) (i : Instr) (f : Fab) :
    ∀ (ts : List (Nat × Token)) (b : Blk), BlkGrows me b (pushAll l n b i f ts)
  | [], b => BlkGrows.refl me b
  | t :: ts, b => by
    refine BlkGrows.trans ?_ (blkGrows_pushAll me l n i f ts _)
    dsimp only
    split
    · exact BlkGrows.refl me b
    · exact blkGrows_modAt me _ fun e => grows_setQueue e _ _

/-- The turns that results bring about are turns of elements of the block. -/
def BlockTurns (ref : ElemRef) (ts : List Turn) : Prop := ∀ y ∈ ts, ∃ j, y = .fire { ref with idx := j }

theorem blockTurns_rendezvous (l : Loaded) (n : Nat) (b : Blk) (ref : ElemRef) (c : Con) : BlockTurns ref (rendezvous l n b ref c) := by
  intro y hy
  unfold rendezvous at hy
  split at hy
  · cases hy
  · obtain ⟨j, -, rfl⟩ := List.mem_map.1 hy
    exact ⟨j, rfl⟩

theorem commitEmits_frame {x : FireIn} {i : Instr} {firing : Bool} {el : Elem} {es : List Emit} {b : Blk × List Turn}
    (h : commitEmits x i firing el es = some b) : BlkGrows (some x.ref.idx) x.blk b.1 ∧ BlockTurns x.ref b.2 := by
  unfold commitEmits at h
  simp only at h
  split at h
  · obtain rfl := Option.some.inj h
    refine ⟨(blkGrows_setAt x.blk x.ref.idx _).trans (blkGrows_pushAll _ _ _ _ _ _ _), fun y hy => ?_⟩
    obtain ⟨t, -, hy⟩ := List.mem_flatMap.1 hy
    split at hy
    · cases hy
    · exact blockTurns_rendezvous _ _ _ _ _ y hy
  · cases h

/-! ## Its run -/

/-- What a run has beside its flags, its iteration counter, its planes and its clock of idleness. -/
def besides (r : Run) :=
  (r.esc.g, r.esc.sqc, r.esc.loops, r.esc.handler, r.esc.e, r.esc.wait, r.regs, r.region, r.st, r.groups, r.inq)

@[simp] theorem setPlane_besides (r : Run) (p : Nat) (x : Plane) : besides (r.setPlane p x) = besides r := by
  unfold Run.setPlane
  split <;> rfl

@[simp] theorem setPlane_flags (r : Run) (p : Nat) (x : Plane) : (r.setPlane p x).esc.flags = r.esc.flags := by
  unfold Run.setPlane
  split <;> rfl

@[simp] theorem setPlane_id (r : Run) (p : Nat) (x : Plane) : (r.setPlane p x).id = r.id := by
  unfold Run.setPlane
  split <;> rfl

@[simp] theorem setPlane_st (r : Run) (p : Nat) (x : Plane) : (r.setPlane p x).st = r.st := by
  unfold Run.setPlane
  split <;> rfl

theorem plane_setPlane {p q : Nat} (hp : p ≤ 1) (hq : q ≤ 1) (r : Run) (x : Plane) :
    (r.setPlane p x).plane q = if q = p then x else r.plane q := by
  obtain rfl | rfl : p = 0 ∨ p = 1 := by omega
  · obtain rfl | rfl : q = 0 ∨ q = 1 := by omega
    · rfl
    · rfl
  · obtain rfl | rfl : q = 0 ∨ q = 1 := by omega
    · rfl
    · rfl

/-- The other elements of a run keep themselves: element `ref` fires, and the planes change. -/
def KeepsElems (ref : ElemRef) (r r' : Run) : Prop :=
  ∀ p l n ld b, p ≤ 1 → r.load? p l = some ld → ld.blks[n]? = some b → ∃ ld' b', r'.load? p l = some ld' ∧ ld'.blks[n]? = some b'
    ∧ BlkGrows (if p = ref.plane ∧ l = ref.load ∧ n = ref.blk then some ref.idx else none) b b'

theorem KeepsElems.refl (ref : ElemRef) (r : Run) : KeepsElems ref r r :=
  fun _ _ _ ld b _ hl hb => ⟨ld, b, hl, hb, BlkGrows.refl _ b⟩

theorem KeepsElems.trans {ref : ElemRef} {r s t : Run} (h : KeepsElems ref r s) (h' : KeepsElems ref s t) : KeepsElems ref r t := by
  intro p l n ld b hp hl hb
  obtain ⟨ld1, b1, hl1, hb1, hg1⟩ := h p l n ld b hp hl hb
  obtain ⟨ld2, b2, hl2, hb2, hg2⟩ := h' p l n ld1 b1 hp hl1 hb1
  exact ⟨ld2, b2, hl2, hb2, hg1.trans hg2⟩

/-- A run with the same planes. -/
theorem keepsElems_of_planes {ref : ElemRef} {r r' : Run} (h0 : r'.p0 = r.p0) (h1 : r'.p1 = r.p1) : KeepsElems ref r r' := by
  intro p l n ld b _ hl hb
  refine ⟨ld, b, ?_, hb, BlkGrows.refl _ b⟩
  rw [← hl, Run.load?, Run.load?, Run.plane, Run.plane, h0, h1]

/-- A change of one configuration under which the other elements of its blocks keep themselves. -/
theorem keepsElems_modLoad {ref : ElemRef} (r : Run) {f : Loaded → Loaded} (hp : ref.plane ≤ 1)
    (hf : ∀ ld, r.load? ref.plane ref.load = some ld → ∀ n b, ld.blks[n]? = some b →
      ∃ b', (f ld).blks[n]? = some b' ∧ BlkGrows (if n = ref.blk then some ref.idx else none) b b') :
    KeepsElems ref r (r.setPlane ref.plane { r.plane ref.plane with loads := modAt f (r.plane ref.plane).loads ref.load }) := by
  intro p l n ld b hple hl hb
  rw [Run.load?, plane_setPlane hp hple]
  by_cases hpp : p = ref.plane
  · subst hpp
    rw [if_pos rfl]
    show ∃ ld' b', (modAt f (r.plane ref.plane).loads ref.load)[l]? = some ld' ∧ _
    have hl' : (r.plane ref.plane).loads[l]? = some ld := hl
    rw [modAt_get, hl']
    by_cases hll : l = ref.load
    · subst hll
      obtain ⟨b', hb', hg⟩ := hf ld hl n b hb
      refine ⟨f ld, b', if_pos rfl, hb', ?_⟩
      simpa using hg
    · refine ⟨ld, b, by rw [if_neg hll], hb, BlkGrows.refl _ b⟩
  · rw [if_neg hpp]
    exact ⟨ld, b, hl, hb, BlkGrows.refl _ b⟩

/-! ## The state after a firing -/

section Settle
variable {x : FireIn} {a : Act} {b : Blk × List Turn}

/-- Counting the iterations changes at most the counter of the run. -/
theorem noteIter_eq (s : State) (x : FireIn) :
    ∃ g : Run → Run, s.noteIter x = s.modRun x.ref.run g ∧ ∀ r, ∃ n, g r = { r with esc := { r.esc with iterDone := n } } := by
  have hid : s = s.modRun x.ref.run id := by
    simp [State.modRun]
  unfold State.noteIter
  split
  · exact ⟨id, hid, fun r => ⟨r.esc.iterDone, rfl⟩⟩
  · rename_i h _
    split
    · exact ⟨id, hid, fun r => ⟨r.esc.iterDone, rfl⟩⟩
    · exact ⟨_, rfl, fun r => ⟨h.load.iterations, rfl⟩⟩

/-- The wave of the firing, opened where it is new; a serialised one takes the die's lock. -/
def afterWave (x : FireIn) (b : Blk × List Turn) : State :=
  let s := (x.s.modBlk x.br (fun _ => b.1)).soon b.2
  let s := if x.blk.tx then s.openWave x.br x.elem.fires x.ref.idx else s
  if x.blk.tx ∧ x.blk.serial = some x.elem.fires then s.modDie x.run.die fun d => { d with lock := some x.br } else s

theorem settle_eq (heff : a.eff = id) : ∃ g : Run → Run, (∀ r, ∃ n, g r = { r with esc := { r.esc with iterDone := n } }) ∧
    x.settle a b = ((x.raise a.flags ((afterWave x b).modRun x.ref.run fun r => { r with idle := 0 })).noteDone x.ref).modRun x.ref.run g := by
  obtain ⟨g, hg, hform⟩ := noteIter_eq ((x.raise a.flags ((afterWave x b).modRun x.ref.run fun r => { r with idle := 0 })).noteDone x.ref) x
  refine ⟨g, hform, ?_⟩
  rw [← hg]
  show a.eff _ = _
  rw [heff]
  rfl

/-- What a firing keeps of the module. -/
def moduleKept (s : State) := (s.mem, s.chip, s.adm, s.eng, s.cycle, s.free, s.focus, s.runs.length)

theorem modRun_moduleKept (s : State) (k : Nat) (f : Run → Run) : moduleKept (s.modRun k f) = moduleKept s := by
  simp [moduleKept, State.modRun]

theorem soon_moduleKept (s : State) (ts : List Turn) : moduleKept (s.soon ts) = moduleKept s := rfl

theorem openWave_moduleKept (s : State) (w : BlkRef) (k j : Nat) : moduleKept (s.openWave w k j) = moduleKept s := by
  unfold State.openWave
  split <;> rfl

theorem afterWave_moduleKept (x : FireIn) (b : Blk × List Turn) : moduleKept (afterWave x b) = moduleKept x.s := by
  have hblk : moduleKept ((x.s.modBlk x.br (fun _ => b.1)).soon b.2) = moduleKept x.s :=
    (soon_moduleKept ..).trans (modRun_moduleKept x.s x.ref.run _)
  unfold afterWave
  dsimp only
  split <;> split
  · exact (openWave_moduleKept _ _ _ _).trans hblk
  · exact hblk
  · exact (openWave_moduleKept _ _ _ _).trans hblk
  · exact hblk

theorem raise_moduleKept (x : FireIn) (f : Flags) (s : State) : moduleKept (x.raise f s) = moduleKept s := by
  unfold FireIn.raise
  split
  · rfl
  · exact modRun_moduleKept ..

theorem settle_moduleKept (heff : a.eff = id) : moduleKept (x.settle a b) = moduleKept x.s := by
  obtain ⟨g, -, h⟩ := settle_eq (x := x) (b := b) heff
  rw [h, modRun_moduleKept]
  exact (modRun_moduleKept ..).trans ((raise_moduleKept ..).trans ((modRun_moduleKept ..).trans (afterWave_moduleKept x b)))

/-! ### Agenda, waves and dies -/

theorem openWave_agenda (s : State) (w : BlkRef) (k j : Nat) : (s.openWave w k j).agenda = s.agenda := by
  unfold State.openWave
  split <;> rfl

theorem raise_agenda (x : FireIn) (f : Flags) (s : State) : (x.raise f s).agenda = s.agenda := by
  unfold FireIn.raise
  split <;> rfl

theorem settle_agenda (heff : a.eff = id) : (x.settle a b).agenda = b.2 ++ x.s.agenda := by
  obtain ⟨g, -, h⟩ := settle_eq (x := x) (b := b) heff
  rw [h]
  refine (raise_agenda x a.flags _).trans ?_
  show (afterWave x b).agenda = _
  unfold afterWave
  dsimp only
  split <;> split
  · exact openWave_agenda _ _ _ _
  · rfl
  · exact openWave_agenda _ _ _ _
  · rfl

theorem raise_dies (x : FireIn) (f : Flags) (s : State) : (x.raise f s).dies = s.dies := by
  unfold FireIn.raise
  split <;> rfl

theorem openWave_dies (s : State) (w : BlkRef) (k j : Nat) : (s.openWave w k j).dies = s.dies := by
  unfold State.openWave
  split <;> rfl

theorem settle_dies (heff : a.eff = id) : (x.settle a b).dies =
    if x.blk.tx = true ∧ x.blk.serial = some x.elem.fires then (x.s.modDie x.run.die fun d => { d with lock := some x.br }).dies
    else x.s.dies := by
  obtain ⟨g, -, h⟩ := settle_eq (x := x) (b := b) heff
  rw [h]
  refine (raise_dies x a.flags _).trans ?_
  show (afterWave x b).dies = _
  unfold afterWave
  dsimp only
  split <;> split
  · show modAt _ (State.openWave _ _ _ _).dies _ = _
    rw [openWave_dies]
    rfl
  · rfl
  · exact openWave_dies _ _ _ _
  · rfl

/-- Outside transactional blocks the queues and waves of the module stay. -/
theorem settle_ord (heff : a.eff = id) (htx : x.blk.tx = false) : (x.settle a b).ord = x.s.ord := by
  obtain ⟨g, -, h⟩ := settle_eq (x := x) (b := b) heff
  rw [h]
  show (x.raise a.flags _).ord = _
  simp only [FireIn.raise, htx, afterWave, Bool.false_eq_true, false_and, ↓reduceIte]
  rfl

/-- The waves of a module with one opened where it is new. -/
def opened (ws : List Wave) (w : BlkRef) (k j : Nat) : List Wave :=
  if ws.any (fun u => u.blk == w && u.k == k) then ws else ws ++ [⟨w, k, [], [], 0, j⟩]

theorem openWave_ord (s : State) (w : BlkRef) (k j : Nat) : (s.openWave w k j).ord = { s.ord with waves := opened s.ord.waves w k j } := by
  unfold State.openWave opened
  split <;> rfl

/-- In a transactional block the waves alone change: that of the firing, opened where it is new, takes the flags. -/
theorem settle_ord_tx (heff : a.eff = id) (htx : x.blk.tx = true) : (x.settle a b).ord = { x.s.ord with
    waves := (opened x.s.ord.waves x.br x.elem.fires x.ref.idx).map fun w =>
      if w.blk = x.br ∧ w.k = x.elem.fires then { w with flags := w.flags ||| a.flags } else w } := by
  obtain ⟨g, -, h⟩ := settle_eq (x := x) (b := b) heff
  rw [h]
  show (x.raise a.flags _).ord = _
  have hwave : (afterWave x b).ord = { x.s.ord with waves := opened x.s.ord.waves x.br x.elem.fires x.ref.idx } := by
    simp only [afterWave, htx, ↓reduceIte]
    split <;> exact openWave_ord ..
  simp only [FireIn.raise, htx, ↓reduceIte]
  show ({ (afterWave x b).ord with waves := (afterWave x b).ord.waves.map fun w =>
      if w.blk = x.br ∧ w.k = x.elem.fires then { w with flags := w.flags ||| a.flags } else w } : Order) = _
  rw [hwave]

theorem exists_opened (ws : List Wave) (w : BlkRef) (k j : Nat) : ∃ u ∈ opened ws w k j, u.blk = w ∧ u.k = k := by
  unfold opened
  split
  · rename_i h
    obtain ⟨u, hu, hw⟩ := List.any_eq_true.1 h
    simp only [Bool.and_eq_true, beq_iff_eq] at hw
    exact ⟨u, hu, hw⟩
  · exact ⟨_, List.mem_append_right _ (List.mem_singleton_self _), rfl, rfl⟩

theorem mem_opened {ws : List Wave} {u : Wave} (w : BlkRef) (k j : Nat) (h : u ∈ ws) : u ∈ opened ws w k j := by
  unfold opened
  split
  · exact h
  · exact List.mem_append_left _ h

/-! ### Runs -/

theorem openWave_run? (s : State) (w : BlkRef) (k j n : Nat) : (s.openWave w k j).run? n = s.run? n := by
  unfold State.openWave
  split <;> rfl

theorem afterWave_run? (x : FireIn) (b : Blk × List Turn) (n : Nat) : (afterWave x b).run? n = (x.s.modBlk x.br (fun _ => b.1)).run? n := by
  unfold afterWave
  dsimp only
  split <;> split
  · exact openWave_run? _ _ _ _ _
  · rfl
  · exact openWave_run? _ _ _ _ _
  · rfl

/-- A change of runs that leaves their numbers and states. -/
def KeepsIds (f : Run → Run) : Prop := ∀ r, (f r).id = r.id ∧ (f r).st = r.st

theorem modRun_run? {s : State} {k : Nat} {r : Run} {f : Run → Run} (h : s.run? k = some r) (hf : KeepsIds f) :
    (s.modRun k f).run? k = some (f r) :=
  run?_modRun s h (fun y hy => (hf y).1.trans hy) fun y hy => (hf y).2 ▸ hy

theorem modRun_run?_ne {s : State} {k j : Nat} {f : Run → Run} (hne : j ≠ k) (hf : KeepsIds f) : (s.modRun k f).run? j = s.run? j :=
  run?_modRun_ne s hne fun y hy => (hf y).1.trans hy

theorem keepsIds_modLoads (p l : Nat) (f : Loaded → Loaded) :
    KeepsIds fun r => r.setPlane p { r.plane p with loads := modAt f (r.plane p).loads l } :=
  fun _ => ⟨setPlane_id .., setPlane_st ..⟩

theorem raise_run?_ne (x : FireIn) (f : Flags) (s : State) {j : Nat} (hne : j ≠ x.ref.run) : (x.raise f s).run? j = s.run? j := by
  unfold FireIn.raise
  split
  · rfl
  · exact modRun_run?_ne hne fun _ => ⟨rfl, rfl⟩

/-- Every run but that of the firing stays. -/
theorem settle_run?_ne (heff : a.eff = id) {j : Nat} (hne : j ≠ x.ref.run) : (x.settle a b).run? j = x.s.run? j := by
  obtain ⟨g, hform, h⟩ := settle_eq (x := x) (b := b) heff
  have hg : KeepsIds g := fun r => by
    obtain ⟨n, hn⟩ := hform r
    rw [hn]
    exact ⟨rfl, rfl⟩
  rw [h, modRun_run?_ne hne hg]
  refine (modRun_run?_ne hne (keepsIds_modLoads _ _ _)).trans ?_
  refine (raise_run?_ne x _ _ hne).trans ((modRun_run?_ne (f := fun r => { r with idle := 0 }) hne fun _ => ⟨rfl, rfl⟩).trans
    ((afterWave_run? x b j).trans ?_))
  exact modRun_run?_ne hne (keepsIds_modLoads _ _ _)

/-- The flags that a firing raises: those of the run outside transactional blocks. -/
theorem raise_run? (x : FireIn) (f : Flags) {s : State} {r : Run} (h : s.run? x.ref.run = some r) :
    ∃ r', (x.raise f s).run? x.ref.run = some r' ∧ besides r' = besides r
      ∧ r'.esc.flags = (if x.blk.tx then r.esc.flags else r.esc.flags ||| (f &&& flagMask)) ∧ KeepsElems x.ref r r' := by
  unfold FireIn.raise
  split
  · exact ⟨r, h, rfl, rfl, KeepsElems.refl _ r⟩
  · exact ⟨r.raise f, modRun_run? h fun _ => ⟨rfl, rfl⟩, rfl, rfl, keepsElems_of_planes rfl rfl⟩

/-- Noting that the last sink has finished changes the cycle of that alone. -/
def noted (cycle : Nat) (l : Loaded) : Loaded := if l.doneAt.isNone && l.running && allDone l then { l with doneAt := some cycle } else l

theorem noted_blks (cycle : Nat) (l : Loaded) : (noted cycle l).blks = l.blks := by
  unfold noted
  split <;> rfl

/-- Noting that the last sink has finished leaves the elements of a run. -/
theorem noteDone_run? {s : State} {ref : ElemRef} {r : Run} (hp : ref.plane ≤ 1) (h : s.run? ref.run = some r) :
    ∃ r', (s.noteDone ref).run? ref.run = some r' ∧ besides r' = besides r ∧ r'.esc.flags = r.esc.flags ∧ KeepsElems ref r r' := by
  refine ⟨_, modRun_run? h (keepsIds_modLoads _ _ (noted s.cycle)), setPlane_besides .., setPlane_flags .., ?_⟩
  refine keepsElems_modLoad r hp fun ld _ n b hb => ⟨b, ?_, BlkGrows.refl _ b⟩
  exact (congrArg (·[n]?) (noted_blks s.cycle ld)).trans hb

/-- The run of the firing: what it has beside its planes and flags stays, its flags take those raised outside transactional blocks, and
its other elements keep themselves. -/
theorem settle_run? (heff : a.eff = id) (hrun : x.s.run? x.ref.run = some x.run) (hp : x.ref.plane ≤ 1)
    (hblk : ∀ l b0, x.run.load? x.ref.plane x.ref.load = some l → l.blks[x.ref.blk]? = some b0 → BlkGrows (some x.ref.idx) b0 b.1) :
    ∃ r, (x.settle a b).run? x.ref.run = some r ∧ besides r = besides x.run
      ∧ r.esc.flags = (if x.blk.tx then x.run.esc.flags else x.run.esc.flags ||| (a.flags &&& flagMask)) ∧ KeepsElems x.ref x.run r := by
  obtain ⟨g, hform, h⟩ := settle_eq (x := x) (b := b) heff
  have hg : KeepsIds g := fun r => by
    obtain ⟨n, hn⟩ := hform r
    rw [hn]
    exact ⟨rfl, rfl⟩
  let blks : Loaded → Loaded := fun l => { l with blks := modAt (fun _ => b.1) l.blks x.ref.blk }
  obtain ⟨r1, hr1, h1⟩ : ∃ r1, x.run.setPlane x.ref.plane { x.run.plane x.ref.plane with
      loads := modAt blks (x.run.plane x.ref.plane).loads x.ref.load } = r1 ∧ (afterWave x b).run? x.ref.run = some r1 :=
    ⟨_, rfl, (afterWave_run? x b _).trans (modRun_run? hrun (keepsIds_modLoads _ _ _))⟩
  have hkeeps1 : KeepsElems x.ref x.run r1 := by
    rw [← hr1]
    refine keepsElems_modLoad x.run hp fun ld hld n b0 hb0 => ?_
    show ∃ b', (modAt (fun _ => b.1) ld.blks x.ref.blk)[n]? = some b' ∧ _
    rw [modAt_get, hb0]
    by_cases hn : n = x.ref.blk
    · subst hn
      exact ⟨b.1, if_pos rfl, by rw [if_pos rfl]; exact hblk ld b0 hld hb0⟩
    · exact ⟨b0, if_neg hn, BlkGrows.refl _ b0⟩
  have hbes1 : besides r1 = besides x.run := by rw [← hr1, setPlane_besides]
  have hflags1 : r1.esc.flags = x.run.esc.flags := by rw [← hr1, setPlane_flags]
  obtain ⟨r2, h2, hbes2, hflags2, hkeeps2⟩ := raise_run? x a.flags (modRun_run? (f := fun r => { r with idle := 0 }) h1 fun _ => ⟨rfl, rfl⟩)
  obtain ⟨r3, h3, hbes3, hflags3, hkeeps3⟩ := noteDone_run? hp h2
  obtain ⟨n, hn⟩ := hform r3
  refine ⟨g r3, by rw [h]; exact modRun_run? h3 hg, ?_, ?_, ?_⟩
  · rw [hn]
    exact hbes3.trans (hbes2.trans hbes1)
  · rw [hn]
    exact hflags3.trans (hflags2.trans (by rw [hflags1]))
  · rw [hn]
    exact (hkeeps1.trans ((keepsElems_of_planes rfl rfl).trans (hkeeps2.trans hkeeps3))).trans (keepsElems_of_planes rfl rfl)

end Settle

/-! ## The obligation -/

theorem firingOf_live {i : Instr} {s : State} {x : FireIn} (h : firingOf i s = some x) : x.live = true := by
  unfold firingOf at h
  split at h
  · split at h
    · cases h
    · split at h
      · cases h
      · simp only at h
        split at h
        · rename_i hc
          obtain rfl := Option.some.inj h
          simp only [Bool.and_eq_true] at hc
          exact hc.1.1.1.1
        · cases h
  · cases h

theorem firingOf_site {i : Instr} {s : State} {x : FireIn} (h : firingOf i s = some x) : s.site x.ref = some x.at_ := by
  unfold firingOf at h
  split at h
  · split at h
    · cases h
    · split at h
      · cases h
      · rename_i hsite
        simp only at h
        split at h
        · obtain rfl := Option.some.inj h
          exact hsite
        · cases h
  · cases h

theorem live_plane_le {x : FireIn} (h : x.live = true) : x.ref.plane ≤ 1 := by
  simp only [FireIn.live, Bool.and_eq_true, beq_iff_eq] at h
  rw [h.1.2, Run.act]
  split <;> omega

theorem site_eq_some {s : State} {e : ElemRef} {h : Here} : s.site e = some h ↔
    s.run? e.run = some h.run ∧ h.run.load? e.plane e.load = some h.load ∧ h.load.blks[e.blk]? = some h.blk
      ∧ h.blk.elems[e.idx]? = some h.elem ∧ h.blk.words[e.idx]? = some h.word := by
  obtain ⟨r, l, b, el, w⟩ := h
  unfold State.site
  constructor
  · intro hs
    split at hs
    · cases hs
    · rename_i hr
      split at hs
      · cases hs
      · rename_i hl
        split at hs
        · cases hs
        · rename_i hb
          split at hs
          · rename_i he hw
            cases hs
            exact ⟨hr, hl, hb, he, hw⟩
          · cases hs
  · rintro ⟨hr, hl, hb, he, hw⟩
    simp only at hr hl hb he hw
    simp only [hr, hl, hb, he, hw]

/-- Settles O4: a firing writes its block, where the other elements only gain tokens behind those they hold, and raises flags. -/
theorem firingFrame : Obligations.FiringFrame := by
  intro i s t x a hfire ht heff
  obtain rfl := firingOf_s hfire
  obtain ⟨hrun, hload, hblks, -, -⟩ := site_eq_some.1 (firingOf_site hfire)
  have hp := live_plane_le (firingOf_live hfire)
  obtain ⟨b, hb, rfl⟩ := Option.map_eq_some_iff.1 ht
  obtain ⟨hgrow, hturns⟩ := commitEmits_frame hb
  have hkept := settle_moduleKept (x := x) (b := b) heff
  simp only [moduleKept, Prod.mk.injEq] at hkept
  obtain ⟨hmem, hchip, hadm, heng, hcycle, hfree, hfocus, hruns⟩ := hkept
  refine ⟨settle_ord heff, fun htx => ?tx, settle_dies heff, hmem, hchip, hadm, heng, hcycle, hfree, hfocus, hruns,
    ⟨b.2, settle_agenda heff, hturns⟩, fun id hne => settle_run?_ne heff hne, ?run⟩
  case tx =>
    rw [settle_ord_tx heff htx]
    refine ⟨rfl, fun w hw hne => ?_, ?_⟩
    · refine List.mem_map.2 ⟨w, mem_opened _ _ _ hw, if_neg fun h => ?_⟩
      exact hne.elim (fun h' => h' h.1) fun h' => h' h.2
    · obtain ⟨u, hu, hublk, huk⟩ := exists_opened x.s.ord.waves x.br x.elem.fires x.ref.idx
      refine ⟨_, List.mem_map.2 ⟨u, hu, rfl⟩, ?_⟩
      rw [if_pos ⟨hublk, huk⟩]
      exact ⟨hublk, huk, by rw [BitVec.or_assoc, BitVec.or_self]⟩
  case run =>
    obtain ⟨r, hr, hbes, hflags, hkeeps⟩ := settle_run? (x := x) (b := b) heff hrun hp fun l b0 hl hb0 => by
      obtain rfl := Option.some.inj (hl.symm.trans hload)
      obtain rfl := Option.some.inj (hb0.symm.trans hblks)
      exact hgrow
    simp only [besides, Prod.mk.injEq] at hbes
    obtain ⟨hg, hsqc, hloops, hhandler, he, hwait, hregs, hregion, hst, hgroups, hinq⟩ := hbes
    refine ⟨r, hr, hg, hsqc, hloops, hhandler, he, hwait, hflags, hregs, hregion, hst, hgroups, hinq, fun e herun heplane hne h hsite => ?_⟩
    obtain ⟨hr0, hl0, hb0, he0, hw0⟩ := site_eq_some.1 hsite
    have hsame : h.run = x.run := Option.some.inj (hr0.symm.trans (herun ▸ hrun))
    obtain ⟨ld, b1, hld, hb1, hwords, hgrows⟩ := hkeeps e.plane e.load e.blk h.load h.blk heplane (hsame ▸ hl0) hb0
    obtain ⟨e1, he1, hctl, hout, hpend, hfires, hfiredAt, hlatch, hqueue⟩ := hgrows e.idx h.elem (by
      split
      · rename_i hsame
        intro hidx
        obtain ⟨k, p, l, n, j⟩ := e
        exact hne (ElemRef.mk.injEq .. ▸ ⟨herun, hsame.1, hsame.2.1, hsame.2.2, (Option.some.inj hidx).symm⟩)
      · exact fun hnone => nomatch hnone) he0
    exact ⟨⟨r, ld, b1, e1, h.word⟩, site_eq_some.2 ⟨herun ▸ hr, hld, hb1, he1, hwords ▸ hw0⟩, rfl, hctl, hout, hpend, hfires, hfiredAt,
      hlatch, hqueue⟩

end Sys2Proof.Proofs.FiringFrames
end

section
/-! Access elements: one firing by row, at a fixed address (O52) and under a generator (O53). -/

namespace Sys2Proof.Proofs.AccessElements
open Sys2Proof.Machine Sys2Proof.Laws

/-! ## The rows of the access elements -/

/-- The specification that an element of a row fires with under MOD `md`. -/
structure Fits (r : AccRow) (md : Nat) (a : AccSpec) : Prop where
  kind : a.kind = r.kind
  nd : a.nd = r.nd
  width : a.width = r.width
  align : a.align = if r.kind = .sete then 64 else 0
  sete : r.kind = .sete → r.width = (fun _ => 64) ∧ r.store = false
  data : ∀ ps : List Pos, a.data (ps.take r.nd) = r.data (ps.take r.nd)
  aux : ∀ ds, a.aux ||| a.auxOf ds = r.aux md ds
  store : a.store = r.store
  log : a.log = decide (r.nd ≠ 0)

theorem operandLine_eq (ds : List Pos) : operandLine ds = wordLine ds := by
  cases ds with
  | nil => simp [operandLine, wordLine, Pos.word]
  | cons p ps => rfl

theorem sextLine_eq (ds : List Pos) : (((operandLine ds).setWidth 32 : W32).signExtend 64).setWidth 512 = sextLine ds := by
  rw [operandLine_eq, wordLine, BitVec.setWidth_setWidth_of_le _ (by decide), BitVec.setWidth_eq]
  rfl

theorem fits_plain (i : Fab → Instr) {k : AccKind} (hk : k ≠ .sete) (md : Nat) :
    Fits ⟨i, k, 0, id, fun _ => 0, fun _ _ => 0, false⟩ md (plainSpec k) :=
  ⟨rfl, rfl, rfl, (if_neg hk).symm, fun h => absurd h hk, fun _ => rfl, fun _ => BitVec.or_zero, rfl, rfl⟩

theorem fits_store (i : Fab → Instr) {k : AccKind} (hk : k ≠ .sete) (md : Nat) :
    Fits ⟨i, k, 1, id, dataLine, fun _ _ => 0, true⟩ md (storeSpec k) :=
  ⟨rfl, rfl, rfl, (if_neg hk).symm, fun h => absurd h hk, fun _ => rfl, fun _ => BitVec.or_zero, rfl, rfl⟩

theorem fits_atomic (i : Fab → Instr) (o md : Nat) (st : Line) (aux : Nat → List Pos → Line) (h : ∀ ds, aux md ds = st) :
    Fits ⟨i, .atomic o, 1, fun _ => 4, wordLine, aux, false⟩ md { atomSpec o with aux := st } :=
  ⟨rfl, rfl, rfl, rfl, fun h => AccKind.noConfusion h, fun _ => operandLine_eq _, fun ds => (BitVec.or_zero).trans (h ds).symm, rfl, rfl⟩

theorem md_eq_one (md : BitVec 2) (a b : Line) : (if md = 1 then a else b) = if md.toNat = 1 then a else b := by
  refine ite_congr (propext ?_) (fun _ => rfl) fun _ => rfl
  rw [← BitVec.toNat_inj]
  rfl

/-- FADD64: the word on the input, sign-extended. -/
def fadd64Spec (md : BitVec 2) : AccSpec :=
  { atomSpec 0xBB with
    width := fun _ => 8
    data := fun ds => ((operandLine ds).setWidth 32 : W32).signExtend 64 |>.setWidth 512
    aux := if md = 1 then 1 else 0 }

theorem fits_fadd64 (md : BitVec 2) :
    Fits ⟨.fadd64, .atomic 0xBB, 1, fun _ => 8, sextLine, fun md _ => if md = 1 then 1 else 0, false⟩ md.toNat (fadd64Spec md) where
  kind := rfl
  nd := rfl
  width := rfl
  align := (if_neg fun h => AccKind.noConfusion h).symm
  sete h := AccKind.noConfusion h
  data _ := sextLine_eq _
  aux _ := BitVec.or_zero.trans (md_eq_one ..)
  store := rfl
  log := rfl

/-- An element of a row fires with a specification that fits it. -/
def RowFires (r : AccRow) : Prop := ∀ (f : Fab) (s : State),
  fabOf (r.instr f) = some f ∧ ∃ a, Fits r f.md.toNat a ∧ exec (r.instr f) s = fire (r.instr f) (memFire a) s

theorem rowFires {r : AccRow} (h : r ∈ accRows) : RowFires r := by
  revert r
  simp only [accRows, List.cons_append, List.nil_append, List.forall_mem_cons]
  refine ⟨?ld, ?lda, ?ldsync, ?sete, ?st, ?stl, ?fadd, ?fadd64, ?amax, ?amin, ?aswap, ?acas, ?aor, ?aand, ?amaxr, List.forall_mem_nil _⟩
  case ld => exact fun f s => ⟨rfl, _, fits_plain _ (by decide) _, rfl⟩
  case lda => exact fun f s => ⟨rfl, _, fits_plain _ (by decide) _, rfl⟩
  case ldsync => exact fun f s => ⟨rfl, _, fits_plain _ (by decide) _, rfl⟩
  case sete =>
    exact fun f s => ⟨rfl, _, ⟨rfl, rfl, rfl, rfl, fun _ => ⟨rfl, rfl⟩, fun _ => rfl, fun _ => BitVec.or_zero, rfl, rfl⟩, rfl⟩
  case st => exact fun f s => ⟨rfl, _, fits_store _ (by decide) _, rfl⟩
  case stl => exact fun f s => ⟨rfl, _, fits_store _ (by decide) _, rfl⟩
  case fadd => exact fun f s => ⟨rfl, _, fits_atomic _ _ _ _ _ fun _ => (md_eq_one ..).symm, rfl⟩
  case fadd64 => exact fun f s => ⟨rfl, _, fits_fadd64 f.md, rfl⟩
  case amax => exact fun f s => ⟨rfl, _, fits_atomic _ _ _ _ _ fun _ => rfl, rfl⟩
  case amin => exact fun f s => ⟨rfl, _, fits_atomic _ _ _ _ _ fun _ => rfl, rfl⟩
  case aswap => exact fun f s => ⟨rfl, _, fits_atomic _ _ _ _ _ fun _ => rfl, rfl⟩
  case acas =>
    exact fun f s => ⟨rfl, _, ⟨rfl, rfl, rfl, rfl, fun h => AccKind.noConfusion h, fun _ => operandLine_eq _,
      fun ds => BitVec.zero_or.trans (operandLine_eq _), rfl, rfl⟩, rfl⟩
  case aor => exact fun f s => ⟨rfl, _, fits_atomic _ _ _ _ _ fun _ => rfl, rfl⟩
  case aand => exact fun f s => ⟨rfl, _, fits_atomic _ _ _ _ _ fun _ => rfl, rfl⟩
  case amaxr =>
    exact fun f s => ⟨rfl, _, ⟨rfl, rfl, rfl, rfl, fun h => AccKind.noConfusion h, fun ps => List.take_zero (l := ps) ▸ rfl,
      fun _ => BitVec.or_zero, rfl, rfl⟩, rfl⟩

/-! ## A firing -/

theorem portEnd_ordinary {x : FireIn} {ks : List Nat} {ps : List Pos} (h : ps.any Pos.isEnd = false) (vec : Bool) (g : Option GenUndo)
    (eff : State → State) : portEnd x ks ps vec g eff = none := by
  unfold portEnd
  rw [h]
  rfl

section Fixed
variable {r : AccRow} {a : AccSpec} {x : FireIn} {ps : List Pos}

/-- The address under AM 1 and 2. -/
def fixedAddress (x : FireIn) (nd : Nat) (ps : List Pos) : Nat := x.fixedVa (if x.am = 2 then ps[nd]? else none)

/-- The width of an access: a line for a vector store, else that of the row. -/
def accWidth (r : AccRow) (x : FireIn) (fmt : Nat) : Nat :=
  if (r.store && inputVec x.blk x.ref.idx 0) = true then 64 else r.width fmt

theorem accWidth_of_fits (h : Fits r x.md a) (fmt : Nat) : 
    (if (a.store && inputVec x.blk x.ref.idx 0) = true then 64 else a.width fmt) = accWidth r x fmt := by
  rw [h.store, h.width, accWidth]

/-- Away from generators an access is aligned to its width. -/
theorem fixedAlign_of_fits (h : Fits r x.md a) (fmt : Nat) :
    (if a.align ≠ 0 then a.align else if (a.store && inputVec x.blk x.ref.idx 0) = true then 64 else accWidth r x fmt)
      = accWidth r x fmt := by
  rw [h.align, h.store]
  by_cases hk : r.kind = .sete
  · obtain ⟨hw, hs⟩ := h.sete hk
    simp [hk, accWidth, hw, hs]
  · rw [if_neg hk, if_neg (by simp)]
    unfold accWidth
    split <;> rfl

/-- Under a generator only lines have to be aligned. -/
theorem genAlign_of_fits (h : Fits r x.md a) :
    (if a.align ≠ 0 then a.align else if (a.store && inputVec x.blk x.ref.idx 0) = true then 64 else 1)
      = if (r.store && inputVec x.blk x.ref.idx 0) = true ∨ r.kind = .sete then 64 else 1 := by
  rw [h.align, h.store]
  by_cases hk : r.kind = .sete
  · simp [hk]
  · simp [hk]

variable (hfit : Fits r x.md a) (hended : x.elem.ended = false) (ham : x.am = 1 ∨ x.am = 2) (hheads : x.heads x.ins = some ps)
  (hend : ps.any Pos.isEnd = false)
include hfit hended ham hheads hend

theorem memFire_poison (hpoison : ps.any Pos.poison = true) : memFire a x =
    x.answer (x.take x.ins ps) (x.all fun o => .tok o (poisonTok false (x.accMark ps .data) x.rcNo))
      (if r.nd ≠ 0 then x.logPoison (fixedAddress x r.nd ps) else id) := by
  have ham0 : x.am ≠ 0 := by omega
  simp only [memFire, hended, hheads, portEnd_ordinary hend, hpoison, ham0, Bool.false_eq_true, false_and, ↓reduceIte]
  rw [hfit.nd, hfit.log]
  congr 1
  by_cases hnd : r.nd = 0 <;> simp only [hnd, fixedAddress, ne_eq, not_true_eq_false, not_false_eq_true, decide_true, decide_false,
    Bool.false_eq_true, ↓reduceIte]
  rfl

/-- Of a firing without POISON its address decides. -/
theorem memFire_misalign (hpoison : ps.any Pos.poison = false) (hmis : fixedAddress x r.nd ps % accWidth r x (fmtBytes x.rc.fmt) ≠ 0) :
    memFire a x = .trap .misalign fun i => { i with va := fixedAddress x r.nd ps } := by
  have ham0 : x.am ≠ 0 := by omega
  unfold fixedAddress at hmis
  simp only [memFire, hended, hheads, portEnd_ordinary hend, hpoison, ham0, Bool.false_eq_true, ↓reduceIte,
    accWidth_of_fits hfit, hfit.nd, fixedAlign_of_fits hfit, hmis, ne_eq, not_false_eq_true]
  rfl

theorem memFire_enter (hpoison : ps.any Pos.poison = false)
    (haligned : fixedAddress x r.nd ps % accWidth r x (fmtBytes x.rc.fmt) = 0) : memFire a x =
    x.enter (x.take x.ins ps) x.port (x.accMark ps .data)
      [{ kind := r.kind, va := fixedAddress x r.nd ps, width := accWidth r x (fmtBytes x.rc.fmt), data := r.data (ps.take r.nd)
         aux := r.aux x.md (ps.take r.nd) }] := by
  have ham0 : x.am ≠ 0 := by omega
  unfold fixedAddress at haligned
  simp only [memFire, hended, hheads, portEnd_ordinary hend, hpoison, ham0, Bool.false_eq_true, false_and, ↓reduceIte, decide_false,
    Bool.false_and, hfit.kind, accWidth_of_fits hfit, hfit.nd, hfit.data, hfit.aux, fixedAlign_of_fits hfit, haligned, ne_eq,
    not_true_eq_false]
  rfl

end Fixed

/-- Settles O52: the element's one firing under a fixed address is a poisoned answer, a trap or the access of its row. -/
theorem memoryElementsAtAnAddress : Obligations.MemoryElementsAtAnAddress := by
  intro row hrow f s x ps hfire hended ham hheads hend
  obtain ⟨hfab, a, hfit, hexec⟩ := rowFires hrow f s
  obtain rfl : x.f = f := Option.some.inj ((firingOf_f hfire).1.symm.trans hfab)
  rw [hexec]
  refine ⟨?enter, ?misalign, ?poison⟩
  case enter =>
    intro hpoison haligned act t hact ht
    exact fire_act hfire ((memFire_enter hfit hended ham hheads hend hpoison haligned).trans hact) ht
  case misalign =>
    intro hpoison hmis
    obtain rfl := firingOf_s hfire
    exact fire_trap (g := fun i => { i with va := some (fixedAddress x row.nd ps) }) hfire
      (memFire_misalign hfit hended ham hheads hend hpoison hmis)
  case poison =>
    intro hpoison act t hact ht
    exact fire_act hfire ((memFire_poison hfit hended ham hheads hend hpoison).trans hact) ht

/-! ## Under a generator -/

section Generator
variable {r : AccRow} {a : AccSpec} {x : FireIn} {ps : List Pos} {g : Gen} {b : Binding}

/-- The last address of a binding ends an element without inputs. -/
def lastOne (x : FireIn) (b : Binding) : Bool := decide (b.count ≤ b.pos + 1) && x.ins.isEmpty

/-- What a firing takes with the address of a generator. -/
def genTaken (x : FireIn) (ps : List Pos) (g : Gen) (b : Binding) : Taken where
  elem := if lastOne x b then { x.elem.pops x.ins with ended := true } else x.elem.pops x.ins
  takes := x.ins.zip ps
  gen := some ⟨x.port, x.imm 13 12, some b, (g.advance b).2⟩
  eff := fun s => s.setGen x.ref.run x.port (x.imm 13 12) (g.advance b).1

variable (hfit : Fits r x.md a) (hended : x.elem.ended = false) (ham : x.am = 0) (hheads : x.heads x.ins = some ps)
  (hend : ps.any Pos.isEnd = false) (hgen : x.gen? = some g) (hact : g.active = some b)
include hfit hended ham hheads hend hgen hact

theorem memFire_genEnded (hb : b.ended = true) : memFire a x = if r.nd = 0 then .wait else .trap .strmovr id := by
  simp only [memFire, hended, hheads, portEnd_ordinary hend, ham, hgen, Option.bind_some, hact, hb, hfit.nd, Bool.false_eq_true,
    ↓reduceIte]

theorem memFire_genEnter (hpoison : ps.any Pos.poison = false) (hb : b.ended = false)
    (haligned : b.next.1 % (if (r.store && inputVec x.blk x.ref.idx 0) = true ∨ r.kind = .sete then 64 else 1) = 0) : memFire a x =
    x.enter (genTaken x ps g b) x.port (x.accMark ps b.next.2)
      [{ kind := r.kind, va := b.next.1, width := accWidth r x (fmtBytes (x.load.chan b.chan).fmt), data := r.data (ps.take r.nd)
         aux := r.aux x.md (ps.take r.nd), gather := !x.blk.tx && r.kind.gathers }] []
      (if lastOne x b then [readyItem x.s.ord.nextId (x.all fun o => .tok o (eosTok false x.rcNo)) [] none] else []) := by
  simp only [memFire, hended, hheads, portEnd_ordinary hend, ham, hgen, Option.bind_some, hact, hb, hpoison, hfit.kind, hfit.nd, hfit.data,
    hfit.aux, genAlign_of_fits hfit, accWidth_of_fits hfit, haligned, ne_eq, not_true_eq_false, Bool.false_eq_true, ↓reduceIte,
    decide_true, Bool.true_and]
  by_cases hlast : lastOne x b = true
  · have hlast' := hlast
    simp only [lastOne, Bool.and_eq_true, decide_eq_true_eq] at hlast'
    simp only [hlast', genTaken, hlast, decide_true, true_and, ↓reduceIte]
    rfl
  · have hlast' := hlast
    simp only [lastOne, Bool.and_eq_true, decide_eq_true_eq] at hlast'
    simp only [decide_eq_true_eq, hlast', genTaken, hlast, Bool.false_eq_true, ↓reduceIte]
    rfl

end Generator

/-- Settles O53: an active binding gives the element its next address, and one that has ended none. -/
theorem memoryElementsUnderAGenerator : Obligations.MemoryElementsUnderAGenerator := by
  intro row hrow f s x ps g b hfire hended ham hheads hend hpoison hgen hactive
  obtain ⟨hfab, a, hfit, hexec⟩ := rowFires hrow f s
  obtain rfl : x.f = f := Option.some.inj ((firingOf_f hfire).1.symm.trans hfab)
  rw [hexec]
  obtain rfl := firingOf_s hfire
  refine ⟨?enter, ?wait, ?strmovr⟩
  case enter =>
    intro hb haligned act t hact ht
    exact fire_act hfire ((memFire_genEnter hfit hended ham hheads hend hgen hactive hpoison hb haligned).trans hact) ht
  case wait =>
    intro hb hnd
    exact fire_wait hfire ((memFire_genEnded hfit hended ham hheads hend hgen hactive hb).trans (if_pos hnd))
  case strmovr =>
    intro hb hnd
    exact fire_trap (g := id) hfire ((memFire_genEnded hfit hended ham hheads hend hgen hactive hb).trans (if_neg hnd))

end Sys2Proof.Proofs.AccessElements
end

section
/-! Attention: block scores, their selection, weights and cache entries (O51). -/

namespace Sys2Proof.Proofs.Attention
open Sys2Proof.Machine Sys2Proof.Laws Sys2Proof.Proofs.ScalarAlu Sys2Proof.Proofs.VectorFolds Sys2Proof.Proofs.AccessElements

theorem portInput_ordinary {x : FireIn} {ps : List Pos} (hheads : x.heads x.ins = some ps) (h : ps.any Pos.isEnd = false) (vec : Bool)
    (body : List Pos → Fire) : portInput x vec body = body ps := by
  simp only [portInput, hheads, portEnd_ordinary h]

theorem any_single {p : Pos} {f : Pos → Bool} {b : Bool} (h : f p = b) : [p].any f = b := by
  rw [List.any_cons, List.any_nil, Bool.or_false, h]

/-! ## BSCORE -/

/-- Without words in error a bank read has an element at each of its places. -/
theorem bankElems_getElem {x : FireIn} (hbad : x.s.mem.storeBad = []) (a : W32) (ch : Chan) (count : Nat) :
    ∀ o ∈ (x.bankElems a ch count).toList, o.isSome = true := by
  intro o ho
  simp only [FireIn.bankElems, hbad, List.isEmpty_nil, Bool.not_true, Bool.false_and, Bool.false_eq_true, ↓reduceIte, List.mem_map] at ho
  obtain ⟨j, -, rfl⟩ := ho
  rfl

theorem size_bankElems (x : FireIn) (a : W32) (ch : Chan) (count : Nat) : (x.bankElems a ch count).size = count := by
  simp [FireIn.bankElems]

theorem bankElems_getD {x : FireIn} (hbad : x.s.mem.storeBad = []) (a : W32) (ch : Chan) {count j : Nat} (hj : j < count) :
    (((x.bankElems a ch count).getD j none).isNone) = false := by
  have hlt : j < (x.bankElems a ch count).size := (size_bankElems ..).symm ▸ hj
  rw [Array.getD_eq_getD_getElem?, Array.getElem?_eq_getElem hlt, Option.getD_some]
  have h := bankElems_getElem hbad a ch count _ (Array.getElem_mem_toList hlt)
  rw [Option.isNone_eq_false_iff]
  exact h

theorem bankElems_anyNone {x : FireIn} (hbad : x.s.mem.storeBad = []) (a : W32) (ch : Chan) (count : Nat) :
    (x.bankElems a ch count).any Option.isNone = false := by
  rw [← Array.any_toList, List.any_eq_false]
  intro o ho
  rw [Option.isNone_iff_eq_none]
  exact Option.isSome_iff_ne_none.1 (bankElems_getElem hbad a ch count o ho)

/-- A key of a block lies inside the words read. -/
theorem key_lt {j i n d : Nat} (hj : j < n) (hi : i < d) : j * d + i < n * d := by
  calc j * d + i < j * d + d := by omega
    _ = (j + 1) * d := (Nat.succ_mul j d).symm
    _ ≤ n * d := Nat.mul_le_mul_right d hj

/-- The score of block `j` of keys: its dot product with the query. -/
def score (q ks : Array (Option XVal)) (d j : Nat) : W32 × Flags :=
  fullWord d (fun i => (q.getD i none).getD XVal.zero) fun i => (ks.getD (j * d + i) none).getD XVal.zero

/-- The same with operand words in error, which leave no score. -/
def scoreOrError (q ks : Array (Option XVal)) (d j : Nat) : Option W32 × Flags :=
  if q.any Option.isNone || (List.range d).any fun i => (ks.getD (j * d + i) none).isNone then (none, 0)
  else (some (score q ks d j).1, (score q ks d j).2)

theorem map_scoreOrError {x : FireIn} (hbad : x.s.mem.storeBad = []) (a b : W32) (c : Chan) (d n : Nat) :
    (List.range n).map (scoreOrError (x.bankElems a c d) (x.bankElems b c (n * d)) d)
      = ((List.range n).map (score (x.bankElems a c d) (x.bankElems b c (n * d)) d)).map fun r => (some r.1, r.2) := by
  rw [List.map_map]
  refine List.map_congr_left fun j hj => if_neg ?_
  rw [bankElems_anyNone hbad, Bool.false_or, List.any_eq_true]
  rintro ⟨i, hi, hnone⟩
  rw [bankElems_getD hbad b c (key_lt (List.mem_range.1 hj) (List.mem_range.1 hi))] at hnone
  cases hnone

/-- What BSCORE sends for its scores. -/
def scoreAct (x : FireIn) (tk : Token) (rs : List (Option W32 × Flags)) : Act :=
  let es := (scoreTokens (bsBlocks (x.pool (x.imm 9 0))) (if tk.struct = .last2 then .last2 else .last) x.rcNo (rs.map (·.1))).map fun t =>
    x.all fun k => .tok k t
  { elem := x.elem.pop 0, emits := es.headD [], later := laterItems (es.drop 1), flags := rs.foldl (fun f r => f ||| r.2) 0 }

theorem bscoreFire_data {x : FireIn} {tk : Token} (hheads : x.heads [0] = some [.tok tk]) (hdata : (Pos.tok tk).isData = true)
    (hpoison : tk.isPoison = false) (hclass : mmaClass (x.load.chan tk.chan).fmt = 1)
    (hq : addrBad tk.word (bsDim (x.pool (x.imm 9 0)) * fmtBytes (x.load.chan tk.chan).fmt) = false)
    (hk : addrBad (bsKeys (x.pool (x.imm 9 0)))
      (bsBlocks (x.pool (x.imm 9 0)) * bsDim (x.pool (x.imm 9 0)) * fmtBytes (x.load.chan tk.chan).fmt) = false) :
    bscoreFire x = .act (scoreAct x tk ((List.range (bsBlocks (x.pool (x.imm 9 0)))).map
      (scoreOrError (x.bankElems tk.word (x.load.chan tk.chan) (bsDim (x.pool (x.imm 9 0))))
        (x.bankElems (bsKeys (x.pool (x.imm 9 0))) (x.load.chan tk.chan)
          (bsBlocks (x.pool (x.imm 9 0)) * bsDim (x.pool (x.imm 9 0)))) (bsDim (x.pool (x.imm 9 0)))))) := by
  have hend : (Pos.tok tk).isEnd = false := Proofs.MatrixNode.isEnd_of_isData hdata
  have hch : x.ch (.tok tk) = x.load.chan tk.chan := rfl
  have hp : (Pos.tok tk).poison = false := hpoison
  have hw : (Pos.tok tk).word = tk.word := rfl
  simp only [bscoreFire, hheads, endPair_eq_none (any_single hend), hp, hdata, hch, hclass, hw, hq, hk, Bool.not_true, bne_self_eq_false,
    Bool.or_false, Bool.false_eq_true, ↓reduceIte]
  rfl

theorem scoreAct_some (x : FireIn) (tk : Token) (rs : List (W32 × Flags)) :
    scoreAct x tk (rs.map fun r => (some r.1, r.2)) =
      (let es := (scoreTokens (bsBlocks (x.pool (x.imm 9 0))) (if tk.struct = .last2 then .last2 else .last) x.rcNo
        (rs.map fun r => some r.1)).map fun t => x.all fun k => .tok k t
      { elem := x.elem.pop 0, emits := es.headD [], later := laterItems (es.drop 1), flags := rs.foldl (fun f r => f ||| r.2) 0 }) := by
  simp only [scoreAct, List.map_map, List.foldl_map]
  rfl

/-! ## TOPKB -/

/-- The scores that TOPKB holds after a token of them. -/
def heldScores (x : FireIn) (tk : Token) (held : List (Option W32)) : List (Option W32) :=
  held ++ (Pos.tok tk).lanes.map fun w => w.map fun w => BitVec.ofNat 32 (r32 ((x.load.chan tk.chan).decode w)).1

section Topk
variable {x : FireIn} {tk : Token} {held : List (Option W32)} (hctl : x.elem.ctl = .topk held false) (hheads : x.heads [0] = some [.tok tk])
  (hend : tk.mark.isEnd = false) (hpoison : tk.isPoison = false) (hlen : held.length + 16 ≤ 1024)
include hctl hheads hend hpoison hlen

theorem topkbFire_hold (hrank : tk.struct.rank = 0) :
    topkbFire x = .act { elem := { x.elem.pop 0 with ctl := .topk (heldScores x tk held) false } } := by
  have he : (Pos.tok tk).isEnd = false := hend
  have hp : (Pos.tok tk).poison = false := hpoison
  have hs : (Pos.tok tk).struct = tk.struct := rfl
  simp only [topkbFire, hctl, hheads, he, hp, hs, hrank, Nat.not_lt.2 hlen, Bool.or_self, Bool.false_eq_true, ↓reduceIte]
  rfl

theorem topkbFire_select (hrank : tk.struct.rank ≠ 0) : topkbFire x = .act (
    let sel := selectBlocks (x.imm 6 0) (x.f.imm.getLsbD 7) ((heldScores x tk held).map fun w => w.map fun w => f32 w.toNat)
    let es := (maskTokens sel (heldScores x tk held).length tk.struct x.rc x.rcNo).map fun t => x.all fun k => .tok k t
    { elem := { x.elem.pop 0 with ctl := .topk [] false }, emits := es.headD [], later := laterItems (es.drop 1) }) := by
  have he : (Pos.tok tk).isEnd = false := hend
  have hp : (Pos.tok tk).poison = false := hpoison
  have hs : (Pos.tok tk).struct = tk.struct := rfl
  simp only [topkbFire, hctl, hheads, he, hp, hs, hrank, Nat.not_lt.2 hlen, Bool.or_self, Bool.false_eq_true, ↓reduceIte]
  rfl

end Topk

/-! ## ATTNACC -/

theorem lanes_zipIdx_any (tk : Token) (f : Nat → Bool) (h : ∀ n, n < 16 → tk.lmask.getLsbD n = true → f n = false) :
    ((Pos.tok tk).lanes.zipIdx.any fun q => q.1.isSome && f q.2) = false := by
  rw [List.any_eq_false]
  rintro ⟨o, n⟩ hmem
  obtain ⟨hn, ho⟩ := List.mem_zipIdx' hmem
  have hlen : (Pos.tok tk).lanes.length = 16 := by simp [Pos.lanes]
  have hval : o = if tk.lmask.getLsbD n then some (lane tk.data n) else none := by
    rw [ho]
    simp [Pos.lanes]
  simp only [Bool.and_eq_true, not_and]
  intro hsome
  rw [h n (hlen ▸ hn) (Decidable.byContradiction fun hmask => by rw [hval, if_neg hmask] at hsome; cases hsome)]
  exact Bool.false_ne_true

theorem attnaccFire_add {x : FireIn} {tk : Token} {pos : Nat} {b : Bool} (hctl : x.elem.ctl = .count pos b)
    (hp : x.avail 0 = some (.tok tk)) (hend : tk.mark.isEnd = false) (hpoison : tk.isPoison = false)
    (hrange : ∀ n, n < 16 → tk.lmask.getLsbD n = true → 16 * pos + n < x.cache.budget) :
    attnaccFire x = .act (
      let r := attnApply x.cache (x.load.chan tk.chan) pos (Pos.tok tk).lanes x.s.eng.cache
      { elem := { x.elem.pop 0 with ctl := .count (if tk.struct.rank = 0 then pos + 1 else 0) false }
        flags := r.2, eff := fun s => s.setCache r.1 }) := by
  have he : (Pos.tok tk).isEnd = false := hend
  have hpo : (Pos.tok tk).poison = false := hpoison
  have hin := lanes_zipIdx_any tk (fun n => decide (x.cache.budget ≤ 16 * pos + n)) fun n hn hm =>
    decide_eq_false (Nat.not_le.2 (hrange n hn hm))
  simp only [attnaccFire, hctl, hp, he, hpo, hin, Bool.false_eq_true, ↓reduceIte]
  rfl

/-! ## EVICT and EVICT.reset -/

section Evict
variable {x : FireIn} {p : Pos} (hheads : x.heads x.ins = some [p]) (hend : p.isEnd = false) (hpoison : p.poison = false)
  (hfirst : x.s.attnFirst x.cache.die x.cache.tile = false)
include hheads hend hpoison hfirst

theorem evictFire_allocate {es : List (Nat × Bool)} (hlow : 1 ≤ (x.ival p).toInt) (hhigh : (x.ival p).toInt ≤ x.cache.budget)
    (hpick : x.s.pickEntries x.cache (x.ival p).toInt.toNat = some es) : evictFire x = .act (
      let items := es.zipIdx.map fun q =>
        x.all fun o => .tok o (scalarTok (x.rc.encodeInt (evictWord q.1.1 q.1.2)) (if q.2 + 1 = es.length then resultMark [p] else .data) x.rcNo)
      { elem := (x.take x.ins [p]).elem, later := portItems x.s.ord.nextId items
        eff := fun s => (s.allocate x.cache es).nextId (x.s.ord.nextId + 1) }) := by
  have hn : ¬ ((x.ival p).toInt < 1 ∨ (x.cache.budget : Int) < (x.ival p).toInt) := by omega
  simp only [evictFire, portInput_ordinary hheads (any_single hend), any_single hpoison, hfirst, List.headD_cons, hn, hpick,
    Bool.false_eq_true, ↓reduceIte]

theorem evictResetFire_free : evictResetFire x = x.answer (x.take x.ins [p]) (x.all fun o => .tok o (scalarTok 0 (resultMark [p]) x.rcNo))
    (fun s => s.setCache (s.eng.cache.filter fun e => !x.cache.has e)) := by
  simp only [evictResetFire, portInput_ordinary hheads (any_single hend), any_single hpoison, hfirst, Bool.false_eq_true, ↓reduceIte]

end Evict

/-- Settles O51: each element's firing with an ordinary position, which nothing holds back, is the one its row describes. -/
theorem attentionElements : Obligations.AttentionElements := by
  refine ⟨?bscore, ?topkb, ?attnacc, ?evict, ?reset⟩
  case bscore =>
    intro f s t x tk rs hfire hheads hdata hpoison w c hclass hq hk hbad q ks hrs m es ht
    obtain rfl : f = x.f := Option.some.inj (firingOf_f hfire).1
    refine fire_act hfire (bscoreFire_data hheads hdata hpoison hclass hq hk) ?_
    rw [map_scoreOrError hbad, scoreAct_some]
    subst hrs
    exact ht
  case topkb =>
    intro f s t x tk held hfire hctl hheads hend hpoison hlen all
    obtain rfl : f = x.f := Option.some.inj (firingOf_f hfire).1
    refine ⟨?hold, ?select⟩
    case hold =>
      intro hrank ht
      exact fire_act hfire (topkbFire_hold hctl hheads hend hpoison hlen hrank) ht
    case select =>
      intro hrank sel es ht
      exact fire_act hfire (topkbFire_select hctl hheads hend hpoison hlen hrank) ht
  case attnacc =>
    intro f s t x tk pos b l fl hfire hctl hp hend hpoison hrange happly ht
    refine fire_act hfire (attnaccFire_add hctl hp hend hpoison hrange) ?_
    rw [happly]
    exact ht
  case evict =>
    intro f s t x p es hfire hheads hend hpoison hfirst hlow hhigh hpick items ht
    exact fire_act hfire (evictFire_allocate hheads hend hpoison hfirst hlow hhigh hpick) ht
  case reset =>
    intro f s t x p a hfire hheads hend hpoison hfirst ha ht
    exact fire_act hfire ((evictResetFire_free hheads hend hpoison hfirst).trans ha) ht

end Sys2Proof.Proofs.Attention
end

section
/-! The delta engine: requests and completions (O48). -/

namespace Sys2Proof.Proofs.DeltaEngine
open Sys2Proof.Machine Sys2Proof.Laws Sys2Proof.Proofs.ScalarAlu Sys2Proof.Proofs.MatrixNode Sys2Proof.Proofs.Attention

/-! ## Requests -/

theorem slotFire_ordinary {x : FireIn} {p : Pos} (op : Nat) (hheads : x.heads x.ins = some [p]) (hend : p.isEnd = false)
    (hpoison : p.poison = false) : slotFire op x = x.delta (x.elem.pops x.ins) op p.word.toNat 0 0 0 0 0 (x.ins.zip [p]) := by
  simp only [slotFire, hheads, endPair_eq_none (any_single hend), any_single hpoison, List.headD_cons, Bool.false_eq_true, ↓reduceIte]

/-- The formats that DLMUL multiplies. -/
def dlFormats (fx fw : Nat) : Prop := fx ≤ 2 ∧ (1 ≤ fw ∧ fw ≤ 4 ∨ fw = 7)

theorem dlFormats_ok {fx fw : Nat} (h : dlFormats fx fw) :
    (!decide (fx ≤ 2)) = false ∧ (!(decide (1 ≤ fw) && decide (fw ≤ 4) || fw == 7)) = false := by
  obtain ⟨hx, hw⟩ := h
  simp [hx]
  omega

theorem dlmulFire_request {x : FireIn} {c xa wa : Token} (hq : firstPos 3 (x.elem.queue 0) = [.tok c, .tok xa, .tok wa])
    (hc : c.mark = .ctrl) (h31 : fld c.word 31 30 = 0) (h13 : fld c.word 13 9 = 0) (hacc : fld c.word 21 19 + fld c.word 29 28 ≤ 7)
    (hx : (Pos.tok xa).isData = true) (hw : (Pos.tok wa).isData = true) (hxp : xa.isPoison = false) (hwp : wa.isPoison = false)
    (hxa : addrBad xa.word (dlM c.word * dlK c.word * fmtBytes (x.load.chan xa.chan).fmt) = false)
    (hwa : addrBad wa.word (dlK c.word * dlN c.word * fmtBytes (x.load.chan wa.chan).fmt) = false)
    (hfmt : dlFormats (x.load.chan xa.chan).fmt (x.load.chan wa.chan).fmt) :
    dlmulFire x = x.delta (x.elem.pops [0, 0, 0]) 1 (fld c.word 8 0) c.word xa.word xa.chan wa.word wa.chan
      [(0, .tok c), (0, .tok xa), (0, .tok wa)] := by
  obtain ⟨hfx, hfw⟩ := dlFormats_ok hfmt
  have hhead : x.head 0 = some (.tok c) := head_of_firstPos hq
  have hmark : (Pos.tok c).mark = .ctrl := hc
  have hend : (Pos.tok c).isEnd = false := by rw [Pos.isEnd, hmark]; rfl
  have hends : [Pos.tok xa, Pos.tok wa].any Pos.isEnd = false := by simp [isEnd_of_isData hx, isEnd_of_isData hw]
  have hdata : ([Pos.tok xa, Pos.tok wa].any fun q => !q.isData) = false := by simp [hx, hw]
  have hbad : ¬ (fld c.word 31 30 ≠ 0 ∨ fld c.word 13 9 ≠ 0 ∨ fld c.word 21 19 + fld c.word 29 28 > 7 ∨
      ([Pos.tok xa, Pos.tok wa].any fun q => !q.isData) = true) := by
    rw [hdata]
    simp only [Bool.false_eq_true, or_false]
    omega
  have hlen : ¬ ([Pos.tok c, Pos.tok xa, Pos.tok wa].length < 3) := Nat.lt_irrefl 3
  have hpoison : ((Pos.tok xa).poison || (Pos.tok wa).poison) = false := by
    rw [Bool.or_eq_false_iff]
    exact ⟨hxp, hwp⟩
  have hmk : (Mark.ctrl != .ctrl) = false := rfl
  have hcw : (Pos.tok c).word = c.word := rfl
  simp only [dlmulFire, hhead, hend, hmark, hmk, hq, List.drop_succ_cons, List.drop_zero, hends, hlen, hcw, hbad, List.getD_cons_succ,
    List.getD_cons_zero, hpoison, Bool.false_eq_true, ↓reduceIte]
  have hxa' : addrBad (Pos.tok xa).word (dlM c.word * dlK c.word * fmtBytes (x.load.chan ((Pos.tok xa).chan x.rcNo)).fmt) = false := hxa
  have hwa' : addrBad (Pos.tok wa).word (dlK c.word * dlN c.word * fmtBytes (x.load.chan ((Pos.tok wa).chan x.rcNo)).fmt) = false := hwa
  have hfx' : (!decide ((x.load.chan ((Pos.tok xa).chan x.rcNo)).fmt ≤ 2)) = false := hfx
  simp only [hxa', hwa', hfx', Bool.false_or]
  exact if_neg (ne_true_of_eq_false hfw)

/-- A request as the engine keeps it, begun or not. -/
def SameRequest (q y : DReq) : Prop := y.elem = q.elem ∧ y.die = q.die ∧ y.op = q.op ∧ y.ctrl = q.ctrl

theorem exists_beginHeads {q : DReq} : ∀ {l : List DReq} (seen : List Nat), q ∈ l → ∃ y ∈ beginHeads seen l, SameRequest q y
  | a :: l, seen, h => by
    unfold beginHeads
    obtain rfl | h := List.mem_cons.1 h
    · split
      · exact ⟨q, List.mem_cons_self, rfl, rfl, rfl, rfl⟩
      · exact ⟨_, List.mem_cons_self, rfl, rfl, rfl, rfl⟩
    · split
      · obtain ⟨y, hy, hsame⟩ := exists_beginHeads seen h
        exact ⟨y, List.mem_cons_of_mem _ hy, hsame⟩
      · obtain ⟨y, hy, hsame⟩ := exists_beginHeads (a.num :: seen) h
        exact ⟨y, List.mem_cons_of_mem _ hy, hsame⟩

theorem exists_setDreqs {s : State} {die : Nat} {q : DReq} {l : List DReq} (h : q ∈ l) (hdie : q.die = die) :
    ∃ y ∈ (s.setDreqs die l).eng.dreqs, SameRequest q y := by
  have hmem : q ∈ l.filter fun q => q.die == die := List.mem_filter.2 ⟨h, beq_iff_eq.2 hdie⟩
  obtain ⟨y, hy, hsame⟩ := exists_beginHeads [] hmem
  exact ⟨y, List.mem_append_right _ hy, hsame⟩

/-- What an element asks of the engine of its die. -/
def asked (x : FireIn) (op n : Nat) (ctrl xa wa : W32) (xc wc : Nat) : DReq :=
  ⟨x.s.ord.nextId, x.run.die, x.ref.run, x.ref, x.s.ord.nextId, op, if op = 0 ∧ n = 0xFFFFFFFF then 512 else (x.s.slotOf x.run n).getD (1000 + n),
    ctrl, xa, xc, wa, wc, .data, x.rcNo, false, false, x.s.cycle⟩

theorem delta_sends (x : FireIn) (el : Elem) (op n : Nat) (ctrl xa wa : W32) (xc wc : Nat) (takes : List (Nat × Pos)) :
    ∃ a, x.delta el op n ctrl xa xc wa wc takes = .act a ∧ a.elem = el ∧ a.emits = []
      ∧ a.later.map (fun i => (i.ready, i.parts, i.takes)) = [(false, 1, takes)]
      ∧ ∀ s, ∃ q, q ∈ (a.eff s).eng.dreqs ∧ q.elem = x.ref ∧ q.die = x.run.die ∧ q.op = op ∧ q.ctrl = ctrl := by
  refine ⟨_, rfl, rfl, rfl, rfl, fun s => ?_⟩
  exact exists_setDreqs (q := asked x op n ctrl xa wa xc wc) (List.mem_append_right _ (List.mem_singleton_self _)) rfl

/-! ## Completions -/

theorem driveOf_s {e : ElemRef} {s : State} {x : FireIn} {i : Instr} (h : driveOf e s = some (x, i)) : x.s = s := by
  unfold driveOf at h
  split at h
  · cases h
  · split at h
    · cases h
    · split at h
      · cases h
      · simp only at h
        split at h
        · cases h
          rfl
        · cases h

/-- What completes a request that is no multiply. -/
def slotDone (x : FireIn) (q : DReq) : Delta := if q.op = 0 then bindDone x q else refDone x q (q.op == 3)

theorem deltaComplete_slot {x : FireIn} {i : Instr} {id : Nat} {q : DReq} {d : Delta}
    (hq : x.s.eng.dreqs.find? (fun q => q.id == id) = some q) (hbegun : q.begun = true) (hop : q.op ≠ 1) (hd : d = slotDone x q)
    (hpsn : d.psn = false) (hnum : d.num < 512) :
    deltaComplete id x i = .act
      { elem := { x.elem with out := replyGo q.rid (fun i => [{ i with
          ready := true, parts := 0
          emits := x.all fun k => .tok k (scalarTok (completionWord d.status d.num d.nt d.accn) .data x.rcNo) }]) x.elem.out }
        flags := d.flags
        eff := fun u => State.setDreqs { u with mem := d.s.mem, eng := d.s.eng } q.die (d.s.eng.dreqs.filter fun y => y.id != id) } := by
  have hd' : (if q.op = 0 then bindDone x q else refDone x q (q.op == 3)) = d := hd.symm
  simp only [deltaComplete, hq, hbegun, hop, hd', hpsn, hnum, Bool.not_true, Bool.false_eq_true, false_and, ↓reduceIte]
  rfl

/-- Settles O48: a request joins those of its die, and one that has begun completes in its place among the results. -/
theorem deltaRequests : Obligations.DeltaRequests := by
  refine ⟨?slot, ?mul, delta_sends, ?complete⟩
  case slot =>
    simp only [List.forall_mem_cons]
    refine ⟨?_, ?_, ?_, List.forall_mem_nil _⟩ <;>
    · intro f s t x p a hfire hheads hend hpoison ha ht
      exact fire_act hfire ((slotFire_ordinary _ hheads hend hpoison).trans ha) ht
  case mul =>
    intro f s t x c xa wa a hfire hq hc h31 h13 hacc hx hw hxp hwp hxa hwa hfx hfw ha ht
    exact fire_act hfire ((dlmulFire_request hq hc h31 h13 hacc hx hw hxp hwp hxa hwa ⟨hfx, hfw⟩).trans ha) ht
  case complete =>
    intro die id s t q x i d hfind hid hdrive hbegun hop hd hpsn hnum ht
    obtain rfl := driveOf_s hdrive
    refine congrArg _ ((?_ : State.deltaEvent x.s die id = _).trans (drive_act hdrive (deltaComplete_slot hid hbegun hop hd hpsn hnum) ht))
    simp only [State.deltaEvent, hfind]

end Sys2Proof.Proofs.DeltaEngine
end

section
/-! Relational elements: scans, probes, inserts, negation, partitions and gradients on ordinary tuples (O47). -/

namespace Sys2Proof.Proofs.RelationElements
open Sys2Proof.Machine Sys2Proof.Laws Sys2Proof.Proofs.ScalarAlu Sys2Proof.Proofs.AluPositions Sys2Proof.Proofs.Attention

/-! ## What every element with an input does first -/

theorem relInput_end {x : FireIn} {p : Pos} (body : Pos → Fire) (hp : x.avail 0 = some p) (hend : p.isEnd = true) :
    relInput x body = .act { elem := { x.elem.pop 0 with ended := p.mark == .eos }
                             emits := x.all fun k => .tok k { eosTok true x.rcNo with mark := p.mark } } := by
  have h := endPair_same (ps := [p]) x [0] true hend (List.cons_ne_nil _ _) (by simp)
  simp only [relInput, hp, h]
  rfl

section Input
variable {x : FireIn} {p : Pos} (body : Pos → Fire) (hp : x.avail 0 = some p) (hend : p.isEnd = false)
include hp hend

theorem relInput_poison (hpoison : p.poison = true) :
    relInput x body = .act { elem := x.elem.pop 0, emits := x.all fun k => .tok k (poisonTok true p.struct x.rcNo) } := by
  simp only [relInput, hp, endPair_eq_none (any_single hend), hpoison, ↓reduceIte]

theorem relInput_empty (hpoison : p.poison = false) (hempty : p.empty = true) :
    relInput x body = .act { elem := x.elem.pop 0, emits := x.all fun k => emitVec k 0 0 (resultMark [p]) x.rcNo } := by
  simp only [relInput, hp, endPair_eq_none (any_single hend), hpoison, hempty, Bool.false_eq_true, ↓reduceIte]
  rfl

theorem relInput_tuple (hpoison : p.poison = false) (hempty : p.empty = false) : relInput x body = body p := by
  simp only [relInput, hp, endPair_eq_none (any_single hend), hpoison, hempty, Bool.false_eq_true, ↓reduceIte]

end Input

/-! ## RSCAN -/

/-- The tuple that the slot of a scan holds. -/
def scanned (x : FireIn) (u : Tuple) : Option Token := if u.state = 1 then some (tupleTok u.keys u.wgt u.src .data x.rcNo) else none

/-- A tuple that leaves a scan, before one of first column `col`. -/
def scanOut (x : FireIn) (h : Line) (col : Nat) (o : Token) : List Emit :=
  x.all fun k => .tok k (o.withMark (if hdrKind h = 2 ∧ x.scanPart = 0 ∧ (lane o.data 0).toNat ≠ col then .last else .data))

theorem fibreMark_eq (x : FireIn) (h : Line) (col : Nat) (o : Token) : fibreMark (hdrKind h == 2 && x.scanPart == 0) col o =
    o.withMark (if hdrKind h = 2 ∧ x.scanPart = 0 ∧ (lane o.data 0).toNat ≠ col then .last else .data) := by
  unfold fibreMark
  congr 1
  refine ite_congr (propext ?_) (fun _ => rfl) fun _ => rfl
  simp only [Bool.and_eq_true, beq_iff_eq, bne_iff_ne, and_assoc, ne_eq]

section Scan
variable {x : FireIn} {h : Line} {i : Nat} {held : Option Token}

theorem rscanFire_visit {u : Tuple} (hctl : x.elem.ctl = .rscan i held false) (hh : x.s.relHdr x.run.slot x.relVa = .ok h)
    (hi : i < partCount h x.scanPart) (hu : x.s.partItem x.run.slot h x.scanPart i = .ok u) (hpsn : u.psn = false) :
    (∀ o n, held = some o → scanned x u = some n →
      rscanFire x = .act { elem := { x.elem with ctl := .rscan (i + 1) (some n) false }, emits := scanOut x h (u.keys.headD 0) o })
    ∧ (∀ a b, held = none ∨ scanned x u = none → (held.orElse fun _ => scanned x u) = some a →
      x.s.tupleFrom x.run.slot h x.scanPart (partCount h x.scanPart - (i + 1)) (i + 1) = some b →
      rscanFire x = .act { elem := { x.elem with ctl := .rscan (i + 1) none false }, emits := scanOut x h (b.keys.headD 0) a })
    ∧ (held = none ∨ scanned x u = none → (held.orElse fun _ => scanned x u) = none
        ∨ x.s.tupleFrom x.run.slot h x.scanPart (partCount h x.scanPart - (i + 1)) (i + 1) = none →
      rscanFire x = .act { elem := { x.elem with ctl := .rscan (i + 1) (held.orElse fun _ => scanned x u) false } }) := by
  have hhere : (if u.state = 1 ∨ u.psn = true then
      some (if u.psn = true then poisonTok true .data x.rcNo else tupleTok u.keys u.wgt u.src .data x.rcNo) else none) = scanned x u := by
    simp only [hpsn, Bool.false_eq_true, or_false, ↓reduceIte, scanned]
  simp only [rscanFire, hctl, hh, Nat.not_le.2 hi, hu, hhere, fibreMark_eq, Bool.false_eq_true, ↓reduceIte]
  generalize scanned x u = here
  generalize x.s.tupleFrom x.run.slot h x.scanPart (partCount h x.scanPart - (i + 1)) (i + 1) = next
  refine ⟨?both, ?next, ?last⟩
  case both =>
    rintro o n rfl rfl
    rfl
  case next =>
    rintro a b (rfl | rfl) ha rfl
    · obtain rfl : here = some a := ha
      rfl
    · cases held with
      | none => cases ha
      | some o =>
        obtain rfl := Option.some.inj ha
        rfl
  case last =>
    rintro (rfl | rfl) hnone
    · cases here with
      | none => rfl
      | some n =>
        obtain hnone | rfl := hnone
        · cases hnone
        · rfl
    · cases held with
      | none => rfl
      | some o =>
        obtain hnone | rfl := hnone
        · cases hnone
        · rfl

variable (hh : x.s.relHdr x.run.slot x.relVa = .ok h) (hi : partCount h x.scanPart ≤ i)
include hh hi

theorem rscanFire_last {tok : Token} (hctl : x.elem.ctl = .rscan i (some tok) false) :
    rscanFire x = .act { elem := { x.elem with ctl := .rscan i none false }
                         emits := x.all fun k => .tok k (tok.withMark (if hdrKind h = 2 ∧ x.scanPart = 0 then .last2 else .last)) } := by
  simp only [rscanFire, hctl, hh, hi, Bool.false_eq_true, ↓reduceIte, Bool.and_eq_true, beq_iff_eq]

theorem rscanFire_end (hctl : x.elem.ctl = .rscan i none false) :
    rscanFire x = .act { elem := { x.elem with ctl := .rscan i none true, ended := true }
                         emits := x.all fun k => .tok k (eosTok true x.rcNo) } := by
  simp only [rscanFire, hctl, hh, hi, Bool.false_eq_true, ↓reduceIte]

end Scan

/-! ## HPROBE -/

/-- The columns of an input. -/
def columns (p : Pos) : List Nat := (List.range p.ncols).map fun l => (p.lane l).toNat

/-- What leaves when a probe ends: its last match, or an empty position, with the input's marker. -/
def probeDone (x : FireIn) (tk : Token) (held : Option Token) : Act where
  elem := { x.elem.pop 0 with ctl := .probe none 0 0 none }
  emits := match held with
    | some m => x.all fun k => .tok k (m.withMark (resultMark [.tok tk]))
    | none => x.all fun k => emitVec k 0 0 (resultMark [.tok tk]) x.rcNo

theorem probeEnd_eq (x : FireIn) (tk : Token) (held : Option Token) : probeEnd x (.tok tk) held = .act (probeDone x tk held) := by
  cases held <;> rfl

/-- A probe of a position: under way, or not begun. -/
def Probing (c : Ctl) (tk : Token) (seen : Nat) (held : Option Token) : Prop :=
  ∃ nx, c = .probe (some tk) nx seen held ∨ c = .probe none nx seen held ∧ seen = 0 ∧ held = none

/-- The slot that a probe visits. -/
def probeSlot (h : Line) (mode first seen : Nat) : Nat := if mode = 0 then (first + seen) % 2 ^ hdrLcap h else first + seen

/-- A match: the lanes of the input, the columns of the tuple behind them, the product of the weights in lane 8. -/
def matchTok (x : FireIn) (tk : Token) (h : Line) (u : Tuple) (w : W32) : Token :=
  let n := (Pos.tok tk).ncols
  let ls := (List.range 16).map fun l =>
    if l < n then (Pos.tok tk).lane l else if l < n + hdrCols h then BitVec.ofNat 32 (u.keys.getD (l - n) 0)
    else if l = 8 then w else (Pos.tok tk).lane l
  vecTok (packLanes ls) ((tk.lmask &&& 0xFF00) ||| BitVec.ofNat 16 (2 ^ (n + hdrCols h) - 1) ||| 0x100) .data x.rcNo

/-- The match before, which another one behind it leaves as data. -/
def heldOut (x : FireIn) (held : Option Token) : List Emit :=
  match held with
  | some m => x.all fun k => .tok k (m.withMark .data)
  | none => []

section Probe
variable {x : FireIn} {tk : Token} {h : Line} {mode first limit seen : Nat} {held : Option Token}
  (hp : x.avail 0 = some (.tok tk)) (hend : tk.mark.isEnd = false) (hpoison : tk.isPoison = false) (hempty : (Pos.tok tk).empty = false)
  (hh : x.s.relHdr x.run.slot x.relVa = .ok h) (hctl : Probing x.elem.ctl tk seen held)
  (hplan : probePlan x.s x.run.slot h x.probePairs (columns (.tok tk)) = .ok (mode, first, limit))
include hp hend hpoison hempty hh hctl hplan

theorem hprobeFire_limit (hlimit : limit ≤ seen) : hprobeFire x = .act (probeDone x tk held) := by
  unfold columns at hplan
  rw [hprobeFire, relInput_tuple _ hp hend hpoison hempty]
  obtain ⟨nx, hctl | ⟨hctl, rfl, rfl⟩⟩ := hctl <;>
    simp only [hh, hplan, hctl, hlimit, ↓reduceIte, probeEnd_eq]

variable {u : Tuple} (hlimit : seen < limit) (hu : x.s.partItem x.run.slot h 0 (probeSlot h mode first seen) = .ok u) (hpsn : u.psn = false)
include hlimit hu hpsn

theorem hprobeFire_empty (hmode : mode = 0) (hstate : u.state = 0) : hprobeFire x = .act (probeDone x tk held) := by
  unfold columns at hplan
  unfold probeSlot at hu
  rw [hprobeFire, relInput_tuple _ hp hend hpoison hempty]
  obtain ⟨nx, hctl | ⟨hctl, rfl, rfl⟩⟩ := hctl <;>
    · simp only [hh, hplan, hctl, Nat.not_le.2 hlimit, hu, hpsn, Bool.false_eq_true, ↓reduceIte, probeEnd_eq]
      exact if_pos ⟨hmode, hstate⟩

theorem hprobeFire_tent (hmode : mode = 0) (hstate : u.state = 2) (hkey : pairsMatch x.probePairs (columns (.tok tk)) u.keys = true) :
    hprobeFire x = .act
      { elem := { x.elem with ctl := .probe (some tk) (probeSlot h mode first seen + 1) limit held } } := by
  unfold columns at hplan hkey
  unfold probeSlot at hu ⊢
  rw [hprobeFire, relInput_tuple _ hp hend hpoison hempty]
  have hempty' : ¬ (mode = 0 ∧ u.state = 0) := by omega
  have hscan : ¬ mode = 1 := by omega
  have hlive : ¬ u.state = 1 := by omega
  obtain ⟨nx, hctl | ⟨hctl, rfl, rfl⟩⟩ := hctl <;>
    · simp only [hh, hplan, hctl, Nat.not_le.2 hlimit, hu, hpsn, hempty', hscan, hlive, hkey, false_and, and_true, Bool.false_eq_true,
        ↓reduceIte]
      exact if_pos ⟨hmode, hstate⟩

theorem hprobeFire_pass (hmode : mode ≠ 1) (hfree : mode = 0 → u.state ≠ 0)
    (hmiss : pairsMatch x.probePairs (columns (.tok tk)) u.keys = false ∨ mode = 2 ∧ u.state ≠ 1) :
    hprobeFire x = .act
      { elem := { x.elem with ctl := .probe (some tk) (probeSlot h mode first seen + 1) (seen + 1) held } } := by
  unfold columns at hplan hmiss
  unfold probeSlot at hu ⊢
  rw [hprobeFire, relInput_tuple _ hp hend hpoison hempty]
  have hempty' : ¬ (mode = 0 ∧ u.state = 0) := fun h => hfree h.1 h.2
  generalize hk : pairsMatch x.probePairs ((List.range (Pos.tok tk).ncols).map fun l => ((Pos.tok tk).lane l).toNat) u.keys = key at hmiss
  have hmatch : ¬ (u.state = 1 ∧ key = true) := by
    rintro ⟨hs, rfl⟩
    exact hmiss.elim (fun h => nomatch h) fun h => h.2 hs
  have htent : ¬ (mode = 0 ∧ u.state = 2 ∧ key = true) := by
    rintro ⟨hm, -, rfl⟩
    exact hmiss.elim (fun h => nomatch h) fun h => by omega
  obtain ⟨nx, hctl | ⟨hctl, rfl, rfl⟩⟩ := hctl <;>
    simp only [hh, hplan, hctl, Nat.not_le.2 hlimit, hu, hpsn, hmode, hempty', hk, hmatch, htent, false_and, Bool.false_eq_true, ↓reduceIte]

theorem hprobeFire_match {w : W32} {fl : Flags} (hmode : mode ≠ 1) (hstate : u.state = 1)
    (hkey : pairsMatch x.probePairs (columns (.tok tk)) u.keys = true) (hwide : (Pos.tok tk).ncols + hdrCols h ≤ 8)
    (hw : otimes (hdrRing h) (hdrWfmt h) ((Pos.tok tk).lane 8) u.wgt = (some w, fl)) :
    hprobeFire x = .act
      { elem := { x.elem with
          ctl := .probe (some tk) (probeSlot h mode first seen + 1) (if mode = 0 then limit else seen + 1) (some (matchTok x tk h u w)) }
        emits := heldOut x held
        flags := fl } := by
  unfold columns at hplan hkey
  unfold probeSlot at hu ⊢
  rw [hprobeFire, relInput_tuple _ hp hend hpoison hempty]
  have hempty' : ¬ (mode = 0 ∧ 1 = 0) := by omega
  have hwide' : ¬ 8 < (Pos.tok tk).ncols + hdrCols h := Nat.not_lt.2 hwide
  obtain ⟨nx, hctl | ⟨hctl, rfl, rfl⟩⟩ := hctl <;>
    simp only [hh, hplan, hctl, Nat.not_le.2 hlimit, hu, hpsn, hmode, hempty', hstate, hkey, gt_iff_lt, hwide', hw, and_self, false_and,
      Bool.false_eq_true, ↓reduceIte] <;>
    rfl

end Probe

/-! ## INSNEW and AGG -/

/-- The weight that an element sends: clamped for MAXPROD. -/
def sentWeight (h : Line) (p : Pos) : W32 × Flags :=
  if hdrRing h = 2 then clamp01 (wmask (hdrWfmt h) (p.lane 8)) else (wmask (hdrWfmt h) (p.lane 8), 0)

theorem insertFire_end {x : FireIn} {p : Pos} (ins : Bool) (hp : x.avail 0 = some p) (hend : p.isEnd = true) :
    insertFire ins x = .act { elem := { x.elem.pop 0 with ended := p.mark == .eos } } := by
  simp only [insertFire, hp, hend, ↓reduceIte]

section Insert
variable {x : FireIn} {p : Pos} {ins : Bool} {h : Line} {o : Owner} (hp : x.avail 0 = some p) (hend : p.isEnd = false)
  (hh : x.s.relHdr x.run.slot x.relVa = .ok h) (hkind : hdrKind h ≠ 2) (hins : ins = true → hdrKind h ≠ 0)
  (howner : x.s.relOwner x.run.slot x.relVa = some o)
include hp hend hh hkind hins howner

theorem insertFire_poison (hpoison : p.poison = true) :
    insertFire ins x = .act { elem := x.elem.pop 0, eff := x.logPoison x.relVa } := by
  have hbad : ¬ (hdrKind h = 2 ∨ ins = true ∧ hdrKind h = 0) := fun h => h.elim hkind fun h => hins h.1 h.2
  simp only [insertFire, hp, hend, hh, hbad, howner, hpoison, Bool.false_eq_true, ↓reduceIte]

theorem insertFire_empty (hpoison : p.poison = false) (hempty : p.empty = true) : insertFire ins x = .act { elem := x.elem.pop 0 } := by
  have hbad : ¬ (hdrKind h = 2 ∨ ins = true ∧ hdrKind h = 0) := fun h => h.elim hkind fun h => hins h.1 h.2
  simp only [insertFire, hp, hend, hh, hbad, howner, hpoison, hempty, Bool.false_eq_true, ↓reduceIte]

theorem insertFire_send {key : List Nat} (hpoison : p.poison = false) (hempty : p.empty = false) (hkey : x.mapKey h p = some key)
    (hdense : hdrKind h = 0 → (denseIndex h key).isSome = true) (hnan : wNaN (hdrWfmt h) (wmask (hdrWfmt h) (p.lane 8)) = false)
    (hzero : ringZero (hdrRing h) (hdrWfmt h) (sentWeight h p).1 = false) :
    insertFire ins x = .act { elem := x.elem.pop 0, flags := (sentWeight h p).2
                              eff := sendInsert x ins x.relVa o key (sentWeight h p).1 (p.lane 9) } := by
  have hbad : ¬ (hdrKind h = 2 ∨ ins = true ∧ hdrKind h = 0) := fun h => h.elim hkind fun h => hins h.1 h.2
  have hrange : ¬ (hdrKind h = 0 ∧ (denseIndex h key).isNone = true) := by
    rintro ⟨hk, hnone⟩
    rw [Option.isNone_iff_eq_none] at hnone
    rw [hnone] at hdense
    exact nomatch hdense hk
  unfold sentWeight at hzero ⊢
  simp only [insertFire, hp, hend, hh, hbad, howner, hpoison, hempty, hkey, hrange, hnan, Bool.false_eq_true, ↓reduceIte]
  simp only [hzero, Bool.false_eq_true, ↓reduceIte]

end Insert

/-! ## NEGATE -/

section Negate
variable {x : FireIn} {tk : Token} {h : Line} {key : List Nat} {u : Option Tuple} (hp : x.avail 0 = some (.tok tk))
  (hend : tk.mark.isEnd = false) (hpoison : tk.isPoison = false) (hempty : (Pos.tok tk).empty = false)
  (hh : x.s.relHdr x.run.slot x.relVa = .ok h) (hkey : x.mapKey h (.tok tk) = some key) (hu : x.s.lookup x.run.slot h key = .ok u)
include hp hend hpoison hempty hh hkey hu

theorem negateFire_pass (hring : hdrRing h = 0) (hdead : ∀ v, u = some v → v.state ≠ 1) :
    negateFire x = .act { elem := x.elem.pop 0
                          emits := x.all fun k => .tok k { tk with mark := resultMark [.tok tk], chan := x.rcNo } } := by
  rw [negateFire, relInput_tuple _ hp hend hpoison hempty]
  cases u with
  | none => simp [hh, hring, hkey, hu]
  | some v => simp [hh, hring, hkey, hu, hdead v rfl]

variable {v : Tuple} (hv : u = some v) (hlive : v.state = 1) (hpsn : v.psn = false)
include hv hlive hpsn

theorem negateFire_drop (hring : hdrRing h = 0) :
    negateFire x = .act { elem := x.elem.pop 0, emits := x.all fun k => emitVec k 0 0 (resultMark [.tok tk]) x.rcNo } := by
  subst hv
  rw [negateFire, relInput_tuple _ hp hend hpoison hempty]
  simp [hh, hring, hkey, hu, hlive, hpsn, emptyOut]

theorem negateFire_weigh {w : W32} (hring : hdrRing h = 2) (hw : (otimes 2 0 ((Pos.tok tk).lane 8) (oneMinus v.wgt).1).1 = some w) :
    negateFire x = .act
      { elem := x.elem.pop 0, flags := (oneMinus v.wgt).2 ||| (otimes 2 0 ((Pos.tok tk).lane 8) (oneMinus v.wgt).1).2
        emits := if (f32 w.toNat).isZero then x.all fun k => emitVec k 0 0 (resultMark [.tok tk]) x.rcNo
          else x.all fun k => .tok k (vecTok (packLanes ((List.range 16).map fun l => if l = 8 then w else (Pos.tok tk).lane l))
            (tk.lmask ||| 0x100) (resultMark [.tok tk]) x.rcNo) } := by
  subst hv
  rw [negateFire, relInput_tuple _ hp hend hpoison hempty]
  have h20 : ¬ (2 = 0) := by decide
  simp only [hh, hring, hkey, hu, hlive, hpsn, hw, h20, Option.map_some, Option.getD_some, Bool.false_eq_true, ↓reduceIte, ne_eq,
    not_true_eq_false, and_false]
  by_cases hz : (f32 w.toNat).isZero = true
  · simp only [hz, ↓reduceIte]
    rfl
  · simp only [hz, Bool.false_eq_true, ↓reduceIte]
    rfl

end Negate

/-! ## RPART -/

section Part
variable {x : FireIn} {fill : List Token} {q : Bool}

theorem rpartFire_end {p : Pos} (hctl : x.elem.ctl = .rpart [] [] q) (hp : x.avail 0 = some p) (hend : p.isEnd = true) :
    rpartFire x = .act
      { elem := { x.elem.pop 0 with ctl := .rpart [] [] false, ended := p.mark == .eos }
        emits := (if x.f.cona.isSome then [.tok 0 { eosTok (x.md = 0) x.rcNo with mark := p.mark }] else [])
          ++ (if x.f.conb.isSome then [.tok 1 { eosTok false x.rcNo with mark := p.mark }] else []) } := by
  simp only [rpartFire, hctl, hp, hend, List.isEmpty_nil, Bool.not_true, Bool.false_eq_true, ↓reduceIte]

/-- The digit of a position: of a lane, or of a word. -/
def digitOf (x : FireIn) (tk : Token) : Nat :=
  let w := if x.md = 0 then (Pos.tok tk).lane (x.imm 2 0) else tk.word
  (if x.imm 3 3 = 1 then crc32c 0 (natBytes 4 w.toNat) else w.toNat) / 2 ^ x.imm 8 4 % 2 ^ (x.imm 11 9 + 1)

/-- A window that begins to leave. -/
def leave (x : FireIn) (fill : List Token) : Act :=
  let out := partNow (partWindow (x.imm 11 9 + 1) x.rcNo fill)
  { elem := { x.elem.pop 0 with ctl := .rpart [] out.2 false }, emits := out.1 }

variable {tk : Token} (hctl : x.elem.ctl = .rpart fill [] q) (hp : x.avail 0 = some (.tok tk)) (hend : tk.mark.isEnd = false)
  (hpoison : tk.isPoison = false) (hroom : fill.length < 1024) (hfull : x.md = 0 → (Pos.tok tk).empty = false)
include hctl hp hend hpoison hroom hfull

theorem rpartFire_fill : rpartFire x =
    if tk.struct = .last2 then .act (leave x (fill ++ [{ tk with skip := digitOf x tk }]))
    else .act { elem := { x.elem.pop 0 with ctl := .rpart (fill ++ [{ tk with skip := digitOf x tk }]) [] q } } := by
  have he : (Pos.tok tk).isEnd = false := hend
  have hdrop : (decide (x.md = 0) && !tk.isPoison && (Pos.tok tk).empty && tk.vec) = false := by
    by_cases hmd : x.md = 0
    · simp [hfull hmd]
    · simp [hmd]
  have hdigit : x.digit (.tok tk) = (digitOf x tk, false) := by
    have hpo : (Pos.tok tk).poison = false := hpoison
    simp only [FireIn.digit, hpo, Bool.false_eq_true, ↓reduceIte]
    rfl
  have hlen : ¬ fill.length = 1024 := Nat.ne_of_lt hroom
  have hcloses : ((Pos.tok tk).struct == Mark.last2) = decide (tk.struct = .last2) := rfl
  simp only [rpartFire, hctl, hp, he, hdrop, hlen, hdigit, hcloses, List.isEmpty_nil, Bool.not_true, and_false, false_and, Bool.false_eq_true,
    ↓reduceIte, decide_eq_true_eq]
  rfl

end Part

/-! ## GRADB -/

theorem gradbFire_base {x : FireIn} {p : Pos} {h : Line} {u : Tuple} {img : Image} (hp : x.avail 0 = some p) (hend : p.isEnd = false)
    (hpoison : p.poison = false) (hempty : p.empty = false) (hh : x.s.relHdr x.run.slot x.relVa = .ok h) (hring : hdrRing h = 2)
    (hkind : hdrKind h ≠ 0) (hu : x.s.lookup x.run.slot h ((List.range (hdrCols h)).map fun l => (p.lane l).toNat) = .ok (some u))
    (hlive : u.state = 1) (hpsn : u.psn = false) (himg : x.s.image? x.run = some img) (hbase : fld u.wit 31 24 = 0) :
    gradbFire x = .act { elem := x.elem.pop 0
                         emits := x.all fun k => .tok k (vecTok (packLanes [BitVec.ofNat 32 (fld u.wit 23 0), p.lane 10, BitVec.ofNat 32 u.src,
                           BitVec.ofNat 32 (img.relPos x.relVa)]) 0xF (resultMark [p]) x.rcNo) } := by
  rw [gradbFire, relInput_tuple _ hp hend hpoison hempty]
  simp only [hh, hring, hkind, hu, hlive, hpsn, himg, hbase, ne_eq, not_true_eq_false, or_self, true_or, Bool.false_eq_true, ↓reduceIte,
    List.zipIdx_cons, List.zipIdx_nil, List.map_cons, List.map_nil, List.length_cons, List.length_nil]
  rfl

/-! ## The obligation -/

/-- HPROBE, NEGATE and GRADB deal with their input alike. -/
theorem exec_relInput {i : Fab → Instr} (h : i ∈ [(.hprobe : Fab → Instr), .negate, .gradb]) (f : Fab) (s : State) :
    ∃ body : FireIn → Pos → Fire, exec (i f) s = fire (i f) (fun x => relInput x (body x)) s := by
  simp only [List.mem_cons, List.not_mem_nil, or_false] at h
  obtain rfl | rfl | rfl := h
  · exact ⟨_, rfl⟩
  · exact ⟨_, rfl⟩
  · exact ⟨_, rfl⟩

/-- INSNEW and AGG fire alike. -/
theorem exec_insert {row : (Fab → Instr) × Bool} (h : row ∈ [((.insnew : Fab → Instr), true), (.agg, false)]) (f : Fab) (s : State) :
    exec (row.1 f) s = fire (row.1 f) (insertFire row.2) s := by
  simp only [List.mem_cons, List.not_mem_nil, or_false] at h
  obtain rfl | rfl := h
  · rfl
  · rfl

theorem md_iff {x : FireIn} {f : Fab} (hf : x.f = f) : x.md = 0 ↔ f.md = 0 := by
  rw [FireIn.md, hf, ← BitVec.toNat_inj]
  rfl

/-- Settles O47: each element's firing on its position and slot, as its lemmas say. -/
theorem relationalElements : Obligations.RelationalElements := by
  refine ⟨?scan, ?scanEnd, ?probe, ?insert, ?negate, ?part, ?grad, ?input⟩
  case scan =>
    intro f s t x h i held u hfire hctl hh hi hu hpsn here next out
    obtain ⟨hboth, hnext, hlast⟩ := rscanFire_visit hctl hh hi hu hpsn
    refine ⟨?_, ?_, ?_⟩
    · intro o n ho hn ht
      exact fire_act hfire (hboth o n ho hn) ht
    · intro a b hone ha hb ht
      exact fire_act hfire (hnext a b hone ha hb) ht
    · intro hone hnone ht
      exact fire_act hfire (hlast hone hnone) ht
  case scanEnd =>
    intro f s t x h i hfire hh hi
    exact ⟨fun tok hctl ht => fire_act hfire (rscanFire_last hh hi hctl) ht, fun hctl ht => fire_act hfire (rscanFire_end hh hi hctl) ht⟩
  case probe =>
    intro f s t x tk h mode first limit nx seen held hfire hp hend hpoison hempty hh hctl n cols hplan hmode i done
    have hctl' : Probing x.elem.ctl tk seen held := ⟨nx, hctl⟩
    refine ⟨fun hlimit ht => fire_act hfire (hprobeFire_limit hp hend hpoison hempty hh hctl' hplan hlimit) ht, fun u hlimit hu hpsn => ?_⟩
    refine ⟨?free, ?tent, ?pass, ?live⟩
    case free =>
      intro hm hs ht
      exact fire_act hfire (hprobeFire_empty hp hend hpoison hempty hh hctl' hplan hlimit hu hpsn hm hs) ht
    case tent =>
      intro hm hs hkey ht
      exact fire_act hfire (hprobeFire_tent hp hend hpoison hempty hh hctl' hplan hlimit hu hpsn hm hs hkey) ht
    case pass =>
      intro hfree hmiss ht
      exact fire_act hfire (hprobeFire_pass hp hend hpoison hempty hh hctl' hplan hlimit hu hpsn hmode hfree hmiss) ht
    case live =>
      intro w fl hs hkey hwide hw ls mask c ht
      exact fire_act hfire (hprobeFire_match hp hend hpoison hempty hh hctl' hplan hlimit hu hpsn hmode hs hkey hwide hw) ht
  case insert =>
    intro row hrow f s t x p hfire hp
    rw [exec_insert hrow]
    refine ⟨fun hend ht => fire_act hfire (insertFire_end _ hp hend) ht, fun h o hend hh hkind hins howner => ⟨?_, ?_, ?_⟩⟩
    · intro hpoison ht
      exact fire_act hfire (insertFire_poison hp hend hh hkind hins howner hpoison) ht
    · intro hpoison hempty ht
      exact fire_act hfire (insertFire_empty hp hend hh hkind hins howner hpoison hempty) ht
    · intro key hpoison hempty hkey hdense w0 w hnan hzero ht
      have hw : sentWeight h p = (w, if hdrRing h = 2 then (clamp01 w0).2 else 0) := by
        unfold sentWeight
        by_cases hr : hdrRing h = 2
        · simp only [w, hr, ↓reduceIte]
          rfl
        · simp only [w, hr, ↓reduceIte]
          rfl
      have hfired := insertFire_send hp hend hh hkind hins howner hpoison hempty hkey hdense hnan (by rw [hw]; exact hzero)
      rw [hw] at hfired
      exact fire_act hfire hfired ht
  case negate =>
    intro f s t x tk h key u hfire hp hend hpoison hempty hh hkey hu nothing
    refine ⟨?pass, ?drop, ?weigh⟩
    case pass =>
      intro hring hdead ht
      exact fire_act hfire (negateFire_pass hp hend hpoison hempty hh hkey hu hring hdead) ht
    case drop =>
      intro v hring hv hlive hpsn ht
      exact fire_act hfire (negateFire_drop hp hend hpoison hempty hh hkey hu hv hlive hpsn hring) ht
    case weigh =>
      intro v w hring hv hlive hpsn hw fl ls ht
      exact fire_act hfire (negateFire_weigh hp hend hpoison hempty hh hkey hu hv hlive hpsn hring hw) ht
  case part =>
    intro f s t x fill q hfire hctl
    obtain rfl : f = x.f := Option.some.inj (firingOf_f hfire).1
    have hmd : x.md = 0 ↔ x.f.md = 0 := md_iff rfl
    refine ⟨?_, ?_⟩
    · rintro p hp hend rfl ht
      refine fire_act hfire ((rpartFire_end hctl hp hend).trans ?_) ht
      simp only [hmd]
    · intro tk hp hend hpoison hroom hfull w d fill'
      have hd : digitOf x tk = d := by
        simp only [digitOf, hmd]
        rfl
      have hfired := rpartFire_fill hctl hp hend hpoison hroom fun h => hfull (hmd.1 h)
      rw [hd] at hfired
      refine ⟨?_, ?_⟩
      · intro hne ht
        exact fire_act hfire (hfired.trans (if_neg hne)) ht
      · intro heq out ht
        exact fire_act hfire (hfired.trans (if_pos heq)) ht
  case grad =>
    intro f s t x p h u img hfire hp hend hpoison hempty hh hring hkind hu hlive hpsn himg hbase v ht
    exact fire_act hfire (gradbFire_base hp hend hpoison hempty hh hring hkind hu hlive hpsn himg hbase) ht
  case input =>
    intro i hi f s t x p hfire hp
    obtain ⟨body, hexec⟩ := exec_relInput hi f s
    rw [hexec]
    refine ⟨?_, ?_, ?_⟩
    · intro hend ht
      exact fire_act (body := fun x => relInput x (body x)) hfire (relInput_end _ hp hend) ht
    · intro hend hpoison ht
      exact fire_act (body := fun x => relInput x (body x)) hfire (relInput_poison _ hp hend hpoison) ht
    · intro hend hpoison hempty ht
      exact fire_act (body := fun x => relInput x (body x)) hfire (relInput_empty _ hp hend hpoison hempty) ht

end Sys2Proof.Proofs.RelationElements
end

section
/-! Elements that ask a port or an engine for one thing, pins, gathers and scatters (O56). -/

namespace Sys2Proof.Proofs.PortElements
open Sys2Proof.Machine Sys2Proof.Laws Sys2Proof.Proofs.AccessElements Sys2Proof.Proofs.Attention

/-! ## Elements with one request -/

section Requests
variable {x : FireIn} {ps : List Pos} (hheads : x.heads x.ins = some ps) (hend : ps.any Pos.isEnd = false)
include hheads hend

theorem fenceFire_enter : fenceFire x =
    x.enter (x.take x.ins ps) x.port (resultMark ps) [{ kind := .fence (x.imm 2 0), va := 0, width := 0 }] := by
  rw [fenceFire, portInput_ordinary hheads hend]

variable (hpoison : ps.any Pos.poison = false)
include hpoison

theorem unstashFire_enter : unstashFire x =
    x.enter (x.take x.ins ps) x.port (resultMark ps) [{ kind := .unstash, va := x.relVa, width := 0, data := wordLine ps }] := by
  rw [unstashFire, portInput_ordinary hheads hend, ← operandLine_eq]
  simp only [hpoison, Bool.false_eq_true, ↓reduceIte]

theorem messageFire_enter (kind : AccKind) : messageFire kind x =
    x.enter (x.take x.ins ps) x.port (resultMark ps)
      [{ kind := kind, va := if kind = .cancelr then 0 else x.fixedVa (if x.am = 2 then ps[0]? else none), width := 0, data := wordLine ps }] := by
  rw [messageFire, portInput_ordinary hheads hend, ← operandLine_eq]
  simp only [hpoison, Bool.false_eq_true, ↓reduceIte]

theorem waitaFire_enter (haligned : x.fixedVa (if x.am = 2 then ps[1]? else none) % 4 = 0) : waitaFire x =
    x.enter (x.take x.ins ps) x.port (resultMark ps)
      [{ kind := .waita, va := x.fixedVa (if x.am = 2 then ps[1]? else none), width := 4, data := wordLine ps
         epoch := x.s.epoch (x.s.homeOf x.run.slot (x.fixedVa (if x.am = 2 then ps[1]? else none)))
          (bucketOf (x.fixedVa (if x.am = 2 then ps[1]? else none))) }] := by
  rw [waitaFire, portInput_ordinary hheads hend, ← operandLine_eq]
  simp only [hpoison, haligned, ne_eq, not_true_eq_false, Bool.false_eq_true, ↓reduceIte]

theorem wakeaFire_enter (haligned : x.fixedVa (if x.am = 2 then ps[0]? else none) % 4 = 0) : wakeaFire x =
    x.enter (x.take x.ins ps) x.port (resultMark ps)
      [{ kind := .wakea, va := x.fixedVa (if x.am = 2 then ps[0]? else none), width := 4 }] := by
  rw [wakeaFire, portInput_ordinary hheads hend]
  simp only [hpoison, haligned, ne_eq, not_true_eq_false, Bool.false_eq_true, ↓reduceIte]

theorem xferFire_enter (hgood : packetBad x.load (dataLine ps) = false) : xferFire x =
    x.enter (x.take x.ins ps) x.port (resultMark ps) [{ kind := .xfer, va := 0, width := 0, data := dataLine ps }] := by
  rw [xferFire, portInput_ordinary hheads hend]
  simp only [hpoison, hgood, Bool.false_eq_true, ↓reduceIte]

theorem xferFire_bad (hbad : packetBad x.load (dataLine ps) = true) :
    xferFire x = .trap .xferpkt fun i => { i with packet := dataLine ps } := by
  rw [xferFire, portInput_ordinary hheads hend]
  simp only [hpoison, hbad, Bool.false_eq_true, ↓reduceIte]

end Requests

/-- An instruction that fires as one request once its positions are ordinary. -/
def Asks (row : (Fab → Instr) × (FireIn → List Pos → Nat × List Ask)) : Prop :=
  ∃ body, (∀ f s, exec (row.1 f) s = fire (row.1 f) body s) ∧
    ∀ x ps, x.heads x.ins = some ps → ps.any Pos.isEnd = false → ps.any Pos.poison = false →
      body x = x.enter (x.take x.ins ps) (row.2 x ps).1 (resultMark ps) (row.2 x ps).2

theorem next_of_asks {row : (Fab → Instr) × (FireIn → List Pos → Nat × List Ask)} (h : Asks row) {f : Fab} {s t : State} {x : FireIn}
    {ps : List Pos} {a : Act} (hfire : firingOf (row.1 f) s = some x) (hheads : x.heads x.ins = some ps) (hend : ps.any Pos.isEnd = false)
    (hpoison : ps.any Pos.poison = false) (ha : x.enter (x.take x.ins ps) (row.2 x ps).1 (resultMark ps) (row.2 x ps).2 = .act a)
    (ht : x.fireAct (row.1 f) a = some t) : exec (row.1 f) s = .next t := by
  obtain ⟨body, hexec, hbody⟩ := h
  rw [hexec]
  exact fire_act hfire ((hbody x ps hheads hend hpoison).trans ha) ht

/-! ## Pins -/

/-- What a firing takes with the token at its head: the elided positions before it, and the token. -/
def tokenTaken (x : FireIn) (tk : Token) : Taken where
  elem := x.elem.popToken 0
  takes := List.replicate tk.skip (0, Pos.elided) ++ [(0, .tok tk)]

section Pins
variable {x : FireIn} {tk : Token} {rest : List Token} (hq : x.elem.queue 0 = tk :: rest) (hend : tk.mark.isEnd = false)
  (hpoison : tk.isPoison = false)
include hq hend hpoison

theorem pinFire_enter : pinFire x = x.enter (tokenTaken x tk) 0 tk.mark
    ({ kind := .pin, va := x.relVa, width := 64 }
      :: (if x.imm 19 10 = 0x3FF then [] else [{ kind := .snapshot, va := (x.pool (x.imm 19 10)).toNat, width := 64 }]))
    (if tk.skip = 0 then [] else x.outs.map fun o => .elide o tk.skip false x.rcNo) := by
  simp only [pinFire, portToken, hq, hend, hpoison, Bool.false_eq_true, ↓reduceIte]
  rfl

theorem unpinFire_enter : unpinFire x = x.enter (tokenTaken x tk) 0 tk.mark
    [{ kind := .unpin, va := x.relVa, width := 64, data := tk.word.setWidth 512 }]
    (x.outs.flatMap fun o => (if tk.skip = 0 then [] else [Emit.elide o tk.skip tk.vec tk.chan]) ++ [.tok o tk]) := by
  simp only [unpinFire, portToken, hq, hend, hpoison, Bool.false_eq_true, ↓reduceIte]
  rfl

end Pins

/-! ## Gathers and scatters -/

/-- The offsets of a gather, or of a scatter, by lane: its last input. -/
def offsetLanes (store : Bool) (ps : List Pos) : List (Option W32) :=
  ((ps[if store then 1 else 0]?).getD Pos.elided).lanes

/-- The address of an offset. -/
def laneVa (x : FireIn) (o : W32) : Nat := ((x.pool (x.imm 9 0)).toNat + o.toNat) % 2 ^ 57

/-- The access of a present lane. -/
def laneAsks (store : Bool) (x : FireIn) (ps : List Pos) : List Ask :=
  (List.range 16).filterMap fun l => ((offsetLanes store ps).getD l none).map fun o =>
    { kind := if store then .store else .load, va := laneVa x o, width := fmtBytes x.rc.fmt, lane := some l
      data := if store then ((((ps.headD .elided).lanes.getD l none)).getD 0).setWidth 512 else 0 : Ask }

/-- What a gather or a scatter replies when its accesses have. -/
def gatherReply (store : Bool) (x : FireIn) (ps : List Pos) : List Emit :=
  let mask := packMask ((List.range 16).map fun l => ((offsetLanes store ps).getD l none).isSome)
  if store then [.tok 0 (scalarTok 0 (resultMark ps) x.rcNo)]
  else [.tok 0 (vecTok 0 mask (resultMark ps) x.rcNo), .tok 1 (vecTok 0 mask (resultMark ps) x.rcNo)]

theorem gatherFire_enter {store : Bool} {x : FireIn} {ps : List Pos} (hheads : x.heads x.ins = some ps) (hend : ps.any Pos.isEnd = false)
    (hpoison : ps.any Pos.poison = false) (hlen : ps.length = if store then 2 else 1)
    (haligned : ∀ l, l < 16 → ∀ o, (offsetLanes store ps).getD l none = some o → laneVa x o % fmtBytes x.rc.fmt = 0) :
    gatherFire store x = x.enter (x.take x.ins ps) x.port (resultMark ps) (laneAsks store x ps) (gatherReply store x ps) := by
  obtain ⟨p, hp⟩ : ∃ p, ps.getLast? = some p := by
    cases hps : ps.getLast? with
    | none =>
      rw [List.getLast?_eq_none_iff.1 hps] at hlen
      cases store <;> cases hlen
    | some p => exact ⟨p, rfl⟩
  have hoffs : p.lanes = offsetLanes store ps := by
    rw [List.getLast?_eq_getElem?, hlen] at hp
    unfold offsetLanes
    cases store
    · simp at hp
      simp [hp]
    · simp at hp
      simp [hp]
  have hpositive : 0 < ps.length := by
    rw [hlen]
    split <;> decide
  have hvals : ps.head? = some (ps.headD .elided) := by
    cases ps with
    | nil => cases hpositive
    | cons v vs => rfl
  have hfind : ((List.range 16).filterMap fun l => ((offsetLanes store ps).getD l none).map fun o =>
      (l, laneVa x o)).find? (fun q => q.2 % fmtBytes x.rc.fmt != 0) = none := by
    rw [List.find?_eq_none]
    intro q hq
    obtain ⟨l, hl, hq⟩ := List.mem_filterMap.1 hq
    obtain ⟨o, ho, rfl⟩ := Option.map_eq_some_iff.1 hq
    simp [haligned l (List.mem_range.1 hl) o ho]
  have hasks : ((List.range 16).filterMap fun l => ((offsetLanes store ps).getD l none).map fun o => (l, laneVa x o)).map (fun q =>
      { kind := if store then .store else .load, va := q.2, width := fmtBytes x.rc.fmt, lane := some q.1
        data := if store then ((((ps.headD .elided).lanes.getD q.1 none)).getD 0).setWidth 512 else 0 : Ask }) = laneAsks store x ps := by
    rw [List.map_filterMap]
    simp only [Option.map_map]
    rfl
  unfold laneVa at hfind hasks
  rw [gatherFire, portInput_ordinary hheads hend]
  simp only [hpoison, hp, hoffs, hvals, hfind, hasks, Bool.false_eq_true, ↓reduceIte]
  rfl

/-- LDX and STX fire alike. -/
theorem exec_gather {row : (Fab → Instr) × Bool} (h : row ∈ [((.ldx : Fab → Instr), false), (.stx, true)]) (f : Fab) (s : State) :
    exec (row.1 f) s = fire (row.1 f) (gatherFire row.2) s := by
  simp only [List.mem_cons, List.not_mem_nil, or_false] at h
  obtain rfl | rfl := h
  · rfl
  · rfl

/-! ## The obligation -/

/-- Settles O56: each element asks once for what its row says. -/
theorem portRequests : Obligations.PortRequests := by
  refine ⟨?one, ?pins, ?waita, ?wakea, ?xfer, ?lanes⟩
  case one =>
    refine fun row hrow f s t x ps a hfire hheads hend hpoison ha ht =>
      next_of_asks ((?rows : ∀ row ∈ _, Asks row) row hrow) hfire hheads hend hpoison ha ht
    simp only [List.forall_mem_cons]
    exact ⟨⟨fenceFire, fun _ _ => rfl, fun _ _ hheads hend _ => fenceFire_enter hheads hend⟩,
      ⟨unstashFire, fun _ _ => rfl, fun _ _ hheads hend hpoison => unstashFire_enter hheads hend hpoison⟩,
      ⟨messageFire .send, fun _ _ => rfl, fun _ _ hheads hend hpoison => messageFire_enter hheads hend hpoison .send⟩,
      ⟨messageFire .postr, fun _ _ => rfl, fun _ _ hheads hend hpoison => messageFire_enter hheads hend hpoison .postr⟩,
      ⟨messageFire .probeq, fun _ _ => rfl, fun _ _ hheads hend hpoison => messageFire_enter hheads hend hpoison .probeq⟩,
      ⟨messageFire .cancelr, fun _ _ => rfl, fun _ _ hheads hend hpoison => messageFire_enter hheads hend hpoison .cancelr⟩,
      List.forall_mem_nil _⟩
  case pins =>
    simp only [List.forall_mem_cons]
    refine ⟨?_, ?_, List.forall_mem_nil _⟩
    · intro f s t x tk rest a hfire hq hend hpoison ha ht
      exact fire_act hfire ((pinFire_enter hq hend hpoison).trans ha) ht
    · intro f s t x tk rest a hfire hq hend hpoison ha ht
      exact fire_act hfire ((unpinFire_enter hq hend hpoison).trans ha) ht
  case waita =>
    intro f s t x ps a hfire hheads hend hpoison va haligned ha ht
    exact fire_act hfire ((waitaFire_enter hheads hend hpoison haligned).trans ha) ht
  case wakea =>
    intro f s t x ps a hfire hheads hend hpoison va haligned ha ht
    exact fire_act hfire ((wakeaFire_enter hheads hend hpoison haligned).trans ha) ht
  case xfer =>
    intro f s x ps hfire hheads hend hpoison
    obtain rfl := firingOf_s hfire
    refine ⟨fun hgood a t ha ht => fire_act hfire ((xferFire_enter hheads hend hpoison hgood).trans ha) ht, fun hbad => ?_⟩
    exact fire_trap (g := fun i => { i with packet := dataLine ps }) hfire (xferFire_bad hheads hend hpoison hbad)
  case lanes =>
    intro row hrow f s t x ps a hfire hheads hend hpoison hlen w offs va haligned asks mask ha ht
    rw [exec_gather hrow]
    exact fire_act hfire ((gatherFire_enter hheads hend hpoison hlen haligned).trans ha) ht

end Sys2Proof.Proofs.PortElements
end

section
/-! Owner bindings, stash records, and the channels in and out of a block (O57). -/

namespace Sys2Proof.Proofs.Channels
open Sys2Proof.Machine Sys2Proof.Laws Sys2Proof.Proofs.AccessElements Sys2Proof.Proofs.Attention

/-! ## Owner bindings -/

/-- An owner element with ordinary positions answers the status of its binding. -/
theorem ownerFire_ordinary (act : FireIn → State → Run → Nat × State) {x : FireIn} {ps : List Pos} (hheads : x.heads x.ins = some ps)
    (hend : ps.any Pos.isEnd = false) (hpoison : ps.any Pos.poison = false) : ownerFire act x =
    x.answer (x.take x.ins ps) [.tok 0 (scalarTok (BitVec.ofNat 32 (act x x.s x.run).1) (resultMark ps) x.rcNo)]
      (fun s => { s with ord := { s.ord with owners := (act x x.s x.run).2.ord.owners, rels := (act x x.s x.run).2.ord.rels }
                         mem := (act x x.s x.run).2.mem }) := by
  rw [ownerFire, portInput_ordinary hheads hend]
  simp only [hpoison, Bool.false_eq_true, ↓reduceIte]

/-- The range of an owner meets another one. -/
def Meets (o : Owner) (r : Run) (base n : Nat) : Prop :=
  o.rel = false ∧ o.slot = r.slot ∧ base < o.base + 2 ^ o.log2 ∧ o.base < base + 2 ^ n

theorem bindRange_eq (s : State) (r : Run) (base n : Nat) : s.bindRange r base n =
    if (s.ord.owners.any fun o => !o.rel && o.slot == r.slot && decide (base < o.base + 2 ^ o.log2) && decide (o.base < base + 2 ^ n)) = true
    then (1, s)
    else if 64 ≤ s.bindings r.die then (2, s)
    else (0, { s with ord := { s.ord with owners := s.ord.owners ++ [⟨r.die, r.id, r.slot, false, base, n⟩] } }) := rfl

theorem meets_any (s : State) (r : Run) (base n : Nat) :
    (s.ord.owners.any fun o => !o.rel && o.slot == r.slot && decide (base < o.base + 2 ^ o.log2) && decide (o.base < base + 2 ^ n)) = true
      ↔ ∃ o ∈ s.ord.owners, Meets o r base n := by
  simp only [List.any_eq_true, Bool.and_eq_true, Bool.not_eq_true', beq_iff_eq, decide_eq_true_eq, Meets, and_assoc]

theorem bindRange_free {s : State} {r : Run} {base n : Nat} (hroom : s.bindings r.die < 64)
    (h : ∀ o ∈ s.ord.owners, o.rel = false → o.slot = r.slot → o.base + 2 ^ o.log2 ≤ base ∨ base + 2 ^ n ≤ o.base) :
    s.bindRange r base n = (0, { s with ord := { s.ord with owners := s.ord.owners ++ [⟨r.die, r.id, r.slot, false, base, n⟩] } }) := by
  rw [bindRange_eq, if_neg, if_neg (Nat.not_le.2 hroom)]
  rw [meets_any]
  rintro ⟨o, ho, hrel, hslot, hlow, hhigh⟩
  have := h o ho hrel hslot
  omega

theorem bindRange_taken {s : State} {r : Run} {base n : Nat} (h : ∃ o ∈ s.ord.owners, Meets o r base n) : s.bindRange r base n = (1, s) := by
  rw [bindRange_eq, if_pos ((meets_any s r base n).2 h)]

/-! ## STASH -/

theorem stashFire_request {x : FireIn} {p : Pos} {a : Act} (hctl : x.elem.ctl = .stash none) (hp : x.avail 0 = some p)
    (hend : p.isEnd = false)
    (ha : x.enter { elem := x.elem, takes := [] } x.port p.struct [{ kind := .stash, va := x.relVa, width := 0 }] = .act a) :
    stashFire x = .act { a with elem := { a.elem with ctl := .stash (some (x.s.ord.nextId + 1)) } } := by
  simp only [stashFire, hctl, hp, portEnd_ordinary (any_single hend), ha]

theorem stashFire_joins {x : FireIn} {p : Pos} {n : Nat} {q : Req} (hctl : x.elem.ctl = .stash (some n)) (hp : x.avail 0 = some p)
    (hend : p.isEnd = false) (hq : x.s.req? n = some q) (htaken : q.taken = true)
    (hroom : recordUnits (q.held.length + 1) (if inputVec x.blk x.ref.idx 0 then 64 else 4) ≤ fld (x.pool (x.imm 9 0 + 1)) 24 0)
    (hdata : p.struct = .data) :
    stashFire x = .act { elem := { x.elem.pop 0 with ctl := .stash (some n) }
                         eff := fun s => s.modReq n fun y => { y with held := y.held ++
                           [heldTok (inputVec x.blk x.ref.idx 0) (((x.elem.queue 0).head?.map (·.chan)).getD x.rcNo) p] } } := by
  have hlast : ((Mark.data == Mark.last2) || (x.md == 0 && (Mark.data == Mark.last))) = false := by
    rw [show (Mark.data == Mark.last2) = false from rfl, show (Mark.data == Mark.last) = false from rfl, Bool.and_false, Bool.or_self]
  simp only [stashFire, hctl, hp, hq, htaken, hend, Nat.not_lt.2 hroom, hdata, hlast, Bool.not_true, Bool.false_eq_true, ↓reduceIte]

/-! ## INGRESS and STRMI -/

theorem passOne_whole {x : FireIn} {t : Token} (h : x.blk.tx = false ∨ t.skip = 0) : x.passOne t = (.tok t, none) := by
  rw [FireIn.passOne, if_neg]
  rintro ⟨htx, hskip⟩
  exact h.elim (fun h => by rw [h] at htx; cases htx) hskip

theorem passOne_position {x : FireIn} {t : Token} (htx : x.blk.tx = true) (hskip : t.skip ≠ 0) :
    x.passOne t = (.elided, some { t with skip := t.skip - 1 }) := if_pos ⟨htx, hskip⟩

/-- The place that an INGRESS takes from. -/
def ingressQueue (x : FireIn) : List Token := if x.imm 3 0 = 0 then x.run.inq else x.run.comps.getD (x.imm 3 0) []

/-- The channel of what an INGRESS passes on. -/
def ingressChan (x : FireIn) (tk : Token) : Nat := if x.imm 3 0 = 0 then tk.chan else x.rcNo

section Ingress
variable {x : FireIn} {tk : Token} {rest : List Token} (hended : x.elem.ended = false) (hq : ingressQueue x = tk :: rest)
include hended hq

theorem ingressFire_whole (h : x.blk.tx = false ∨ tk.skip = 0) : ingressFire x = .act
    { elem := { x.elem with ended := tk.mark == .eos }
      emits := x.outs.flatMap fun k => passEmit k { tk with chan := ingressChan x tk }
      src := [(x.imm 3 0, .tok tk)]
      eff := fun s => (if x.imm 3 0 = 0 then s.backCredit x.run.ingress else s).modRun x.ref.run fun r =>
        if x.imm 3 0 = 0 then { r with inq := rest } else { r with comps := setAt r.comps (x.imm 3 0) rest } } := by
  unfold ingressQueue at hq
  simp only [ingressFire, hended, hq, passOne_whole h, Option.toList_none, List.nil_append, Option.isNone_none, Bool.true_and, and_true,
    Bool.false_eq_true, ↓reduceIte]
  rfl

theorem ingressFire_position (htx : x.blk.tx = true) (hskip : tk.skip ≠ 0) : ingressFire x = .act
    { elem := { x.elem with ended := false }, emits := x.outs.flatMap fun k => [.elide k 1 tk.vec (ingressChan x tk)]
      src := [(x.imm 3 0, .elided)]
      eff := fun s => s.modRun x.ref.run fun r =>
        if x.imm 3 0 = 0 then { r with inq := { tk with skip := tk.skip - 1 } :: rest }
        else { r with comps := setAt r.comps (x.imm 3 0) ({ tk with skip := tk.skip - 1 } :: rest) } } := by
  unfold ingressQueue at hq
  simp only [ingressFire, hended, hq, passOne_position htx hskip, Option.toList_some, List.cons_append, List.nil_append, Option.isNone_some,
    Bool.false_and, and_false, Bool.false_eq_true, ↓reduceIte]
  rfl

end Ingress

theorem strmiFire_whole {x : FireIn} {tk : Token} {rest : List SkidItem} (hended : x.elem.ended = false) (hpeer : x.strm.getLsbD 6 = false)
    (hpop : skidPop (x.run.skidOf (fld x.strm 5 0)) = some (tk, rest)) (h : x.blk.tx = false ∨ tk.skip = 0) :
    strmiFire x = .act { elem := { x.elem with ended := tk.mark == .eos }, emits := x.outs.flatMap fun k => passEmit k tk
                         src := [(16 + fld x.strm 5 0, .tok tk)]
                         eff := fun s => (s.creditBack x.ref.run (fld x.strm 5 0)).modRun x.ref.run fun r =>
                           r.setSkid (fld x.strm 5 0) rest } := by
  simp only [strmiFire, hpeer, hended, hpop, passOne_whole h, Option.isNone_none, Bool.true_and, Bool.false_eq_true, or_self, ↓reduceIte]
  rfl

/-! ## Circuits and STRMO -/

theorem creditBack_free {s : State} {run p : Nat} (h : s.circuitOf run p false = none) : s.creditBack run p = s := by
  simp only [State.creditBack, h]

theorem circuitSend_credit (s : State) (c : Circuit) :
    s.circuitSend c none = { s with chip := { s.chip with circOut := s.chip.circOut ++ [(c.link, c.group, none)] } } := by
  have hmap : s.chip.circuits.map (fun x => if x = c ∧ (none : Option Token).isSome = true then { x with credits := x.credits - 1 } else x)
      = s.chip.circuits := by
    simp only [Option.isSome_none, Bool.false_eq_true, and_false, ↓reduceIte, List.map_id']
  simp only [State.circuitSend, hmap]

theorem creditBack_circuit {s : State} {run p : Nat} {c : Circuit} (h : s.circuitOf run p false = some c) :
    s.creditBack run p = { s with chip := { s.chip with circOut := s.chip.circOut ++ [(c.link, c.group, none)] } } := by
  simp only [State.creditBack, h, circuitSend_credit]

/-- Where the tokens of a stream port go. -/
theorem portCode {p : Nat} (hp : p < 64) (thr : Nat) :
    ¬ 16 + p + 64 * thr < 8 ∧ (16 + p + 64 * thr - 16) % 64 = p ∧ (16 + p + 64 * thr - 16) / 64 = thr := by
  omega

theorem pushOut_circuit {s : State} {run p : Nat} {c : Circuit} (thr : Nat) (t : Token) (hp : p < 64) (h : s.circuitOf run p true = some c) :
    s.pushOut run (16 + p + 64 * thr) t = s.circuitSend c (some t) := by
  obtain ⟨hcode, hport, -⟩ := portCode hp thr
  simp only [State.pushOut, hcode, hport, h, ↓reduceIte]

theorem pushOut_skid {s : State} {run p : Nat} (thr : Nat) (t : Token) (hp : p < 64) (h : s.circuitOf run p true = none) :
    s.pushOut run (16 + p + 64 * thr) t = s.modRun run fun r => r.setSkid p (skidPut thr (r.skidOf p) t) := by
  obtain ⟨hcode, hport, hthr⟩ := portCode hp thr
  simp only [State.pushOut, hcode, hport, hthr, h, ↓reduceIte]

theorem circuitSend_token (s : State) (c : Circuit) (t : Token) : (s.circuitSend c (some t)).chip.circuits
    = s.chip.circuits.map fun x => if x = c then { x with credits := x.credits - 1 } else x := by
  simp only [State.circuitSend, Option.isSome_some, and_true]

theorem strmRoom_skid {x : FireIn} {w : W64} {code : Nat} {t : Token} (hc : x.s.circuitOf x.ref.run (fld w 5 0) true = none)
    (h : skidUsed (x.run.skidOf (fld w 5 0)) + 64 * x.s.heldOut x.ref.run code + skidBytes t ≤ 128 * fld w 22 7) :
    x.strmRoom w code t = true := by
  simp only [FireIn.strmRoom, hc]
  exact decide_eq_true h

theorem strmRoom_circuit {x : FireIn} {w : W64} {code : Nat} {t : Token} {c : Circuit}
    (hc : x.s.circuitOf x.ref.run (fld w 5 0) true = some c) (hup : x.s.circuitUp c = true) (h : x.s.heldOut x.ref.run code < c.credits) :
    x.strmRoom w code t = true := by
  simp only [FireIn.strmRoom, hc, hup, Bool.true_and]
  exact decide_eq_true h

theorem strmoFire_token {x : FireIn} {tk : Token} {rest : List Token} (hpeer : x.strm.getLsbD 6 = false) (hq : x.elem.queue 0 = tk :: rest)
    (hroom : x.strmRoom x.strm (16 + fld x.strm 5 0 + 64 * fld x.strm 38 23) tk = true) :
    strmoFire x = .act { elem := x.elem.popToken 0, eff := x.sendOut (16 + fld x.strm 5 0 + 64 * fld x.strm 38 23) tk } := by
  simp only [strmoFire, hpeer, hq, hroom, Bool.false_eq_true, ↓reduceIte]

theorem strmoFire_end {x : FireIn} {p : Pos} (hpeer : x.strm.getLsbD 6 = true) (hp : x.head 0 = some p) (hend : p.mark = .eos)
    (hcopy : x.copying (fld x.strm 5 0) = false) : strmoFire x = .act { elem := { x.elem.pop 0 with ended := true } } := by
  simp only [strmoFire, hpeer, hp, hend, hcopy, Bool.not_false, and_self, ↓reduceIte]

/-! ## EGRESS -/

theorem egressFire_enter {x : FireIn} {tk : Token} {rest : List Token} (hq : x.elem.queue 0 = tk :: rest)
    (hroom : x.s.ringRoom x.run.slot x.run.ring = true) : egressFire x =
    x.enter { elem := x.elem.popToken 0, takes := [] } 0 tk.mark
      [{ kind := .egress, va := 0, width := 0, data := tk.scalarBits.setWidth 512 }] := by
  simp only [egressFire, hq, hroom, Bool.not_true, Bool.false_eq_true, ↓reduceIte]

/-- An instruction that fires as the owner element of a binding. -/
def Binds (row : (Fab → Instr) × (FireIn → Nat × State)) : Prop :=
  ∃ act : FireIn → State → Run → Nat × State, (∀ x, row.2 x = act x x.s x.run) ∧
    ∀ f s, exec (row.1 f) s = fire (row.1 f) (ownerFire act) s

/-- Settles O57: owners answer, a record gathers, and channels pass tokens where there is room. -/
theorem ownersStashesAndChannels : Obligations.OwnersStashesAndChannels := by
  refine ⟨?owners, ?free, ?taken, ?request, ?joins, ?ingress, ?strmi, ?circuits, ?strmo, ?strmoEnd, ?egress⟩
  case owners =>
    have hrows : ∀ row ∈ [((.ownerRange : Fab → Instr), fun x : FireIn => x.s.bindRange x.run x.relVa (fld (x.pool (x.imm 9 0 + 1)) 4 0)),
       (.ownerRel, fun x => x.s.bindRel x.run x.relVa), (.ownerFree, fun x => x.s.freeOwner x.run x.relVa)], Binds row := by
      simp only [List.forall_mem_cons]
      exact ⟨⟨_, fun _ => rfl, fun _ _ => rfl⟩, ⟨_, fun _ => rfl, fun _ _ => rfl⟩, ⟨_, fun _ => rfl, fun _ _ => rfl⟩,
        List.forall_mem_nil _⟩
    intro row hrow f s t x ps a hfire hheads hend hpoison ha ht
    obtain ⟨act, hact, hexec⟩ := hrows row hrow
    rw [hact] at ha
    rw [hexec]
    exact fire_act hfire ((ownerFire_ordinary act hheads hend hpoison).trans ha) ht
  case free =>
    intro s r base n hroom hfree
    rw [bindRange_free hroom hfree]
    exact ⟨rfl, rfl⟩
  case taken => exact fun s r base n h => bindRange_taken h
  case request =>
    intro f s t x p a hfire hctl hp hend ha ht
    exact fire_act hfire (stashFire_request hctl hp hend ha) ht
  case joins =>
    intro f s t x p n q hfire hctl hp hend hq htaken hroom hdata ht
    exact fire_act hfire (stashFire_joins hctl hp hend hq htaken hroom hdata) ht
  case ingress =>
    intro f s t x tk rest hfire hended n chan hq
    refine ⟨?_, ?_⟩
    · intro h ht
      exact fire_act hfire (ingressFire_whole hended hq h) ht
    · intro htx hskip ht
      exact fire_act hfire (ingressFire_position hended hq htx hskip) ht
  case strmi =>
    intro f s t x tk rest hfire hended hpeer hpop h ht
    exact fire_act hfire (strmiFire_whole hended hpeer hpop h) ht
  case circuits =>
    intro s run p t
    refine ⟨creditBack_free, fun c hc => ?_, fun c thr hp hc => ?_, fun thr hp hc => pushOut_skid thr t hp hc⟩
    · rw [creditBack_circuit hc]
      exact ⟨rfl, rfl⟩
    · simp only [pushOut_circuit thr t hp hc]
      exact ⟨rfl, rfl, rfl, circuitSend_token s c t⟩
  case strmo =>
    intro f s t x tk rest hfire hpeer hq code hroom ht
    refine fire_act hfire (strmoFire_token hpeer hq ?_) ht
    cases hc : x.s.circuitOf x.ref.run (fld x.strm 5 0) true with
    | none =>
      rw [hc] at hroom
      exact strmRoom_skid hc hroom
    | some c =>
      rw [hc] at hroom
      exact strmRoom_circuit hc hroom.1 hroom.2
  case strmoEnd =>
    intro f s t x p hfire hpeer hp hend hcopy ht
    exact fire_act hfire (strmoFire_end hpeer hp hend hcopy) ht
  case egress =>
    intro f s t x tk rest a hfire hq hroom ha ht
    exact fire_act hfire ((egressFire_enter hq hroom).trans ha) ht

end Sys2Proof.Proofs.Channels
end

section
/-! Barriers: arrivals, drops and releases (O58). -/

namespace Sys2Proof.Proofs.Barriers
open Sys2Proof.Machine Sys2Proof.Laws Sys2Proof.Proofs.ScalarAlu Sys2Proof.Proofs.Attention
  Sys2Proof.Proofs.MatrixNode

/-! ## BARJ -/

/-- The token that releases one arrival of a phase, `l` of them after it. -/
def releaseEmits (x : FireIn) (phase l : Nat) : List Emit :=
  x.all fun k => .tok k (scalarTok (x.rc.encodeInt (BitVec.ofNat 32 phase)) (if l = 0 then .last else .data) x.rcNo)

section Arrivals
variable {x : FireIn} {n c phase l : Nat} (hended : x.elem.ended = false)

include hended in
theorem barjFire_negative {v : Int} {b : Bool} (hctl : x.elem.ctl = .barj n c phase l false) (hdrop : x.dropHead = some (v, b))
    (hlow : (n : Int) - v < c) : barjFire x = .trap .barneg id := by
  simp only [barjFire, hctl, hended, hdrop, Option.getD_some, hlow, true_or, or_true, Bool.false_eq_true, ↓reduceIte]

variable {p : Pos} (hctl : x.elem.ctl = .barj n c phase 0 false) (hp : x.avail 0 = some p) (hend : p.isEnd = false) (hdrop : x.dropHead = none)
include hended hctl hp hend hdrop

theorem barjFire_arrives (hc : c + 1 < n) : barjFire x = .act { elem := { x.elem.pop 0 with ctl := .barj n (c + 1) phase 0 false } } := by
  have hlow : ¬ ((0 : Int) < 0 ∨ (n : Int) - 0 < c ∨ (n : Int) - 0 < 0) := by omega
  have hn : ((n : Int) - 0).toNat = n := by omega
  have hcn : c < n := by omega
  have hn0 : ¬ n = 0 := by omega
  have hcomplete : ¬ c + 1 = n := by omega
  simp only [barjFire, hctl, hended, hdrop, Option.getD_none, hlow, hn, hp, hend, hcn, hn0, hcomplete, Option.isSome_none, Bool.not_false,
    decide_true, Bool.and_self, Bool.or_true, gt_iff_lt, Nat.lt_irrefl, Bool.false_eq_true, ↓reduceIte]
  cases p with
  | elided => rfl
  | tok t =>
    have heos : ¬ t.mark = .eos := fun h => by rw [Pos.isEnd, Pos.mark, h] at hend; cases hend
    have heot : ¬ t.mark = .eot := fun h => by rw [Pos.isEnd, Pos.mark, h] at hend; cases hend
    simp only [heos, heot, false_and, ↓reduceIte]
    rfl

theorem barjFire_completes (hc : c + 1 = n) : barjFire x = .act
    { elem := { x.elem.pop 0 with ctl := .barj n 0 (if n = 1 then phase + 1 else phase) (n - 1) false }
      emits := releaseEmits x phase (n - 1) } := by
  have hlow : ¬ ((0 : Int) < 0 ∨ (n : Int) - 0 < c ∨ (n : Int) - 0 < 0) := by omega
  have hn : ((n : Int) - 0).toNat = n := by omega
  have hcn : c < n := by omega
  have hn0 : ¬ n = 0 := by omega
  have hlast : (n - 1 = 0) = (n = 1) := propext (by omega)
  simp only [barjFire, hctl, hended, hdrop, Option.getD_none, hlow, hn, hp, hend, hcn, hn0, hc, Option.isSome_none, Bool.not_false,
    decide_true, Bool.and_self, gt_iff_lt, Nat.lt_irrefl, Bool.false_eq_true, ↓reduceIte, hlast]
  simp only [releaseEmits, hlast]
  rfl

end Arrivals

theorem barjFire_releases {x : FireIn} {n phase l : Nat} (hended : x.elem.ended = false) (hctl : x.elem.ctl = .barj n 0 phase (l + 1) false)
    (hp : x.avail 0 = none) (hdrop : x.dropHead = none) : barjFire x = .act
    { elem := { x.elem with ctl := .barj n 0 (if l = 0 then phase + 1 else phase) l false }
      emits := releaseEmits x phase l } := by
  have hlow : ¬ ((0 : Int) < 0 ∨ (n : Int) - 0 < (0 : Nat) ∨ (n : Int) - 0 < 0) := by omega
  have hn : ((n : Int) - 0).toNat = n := by omega
  simp only [barjFire, hctl, hended, hdrop, Option.getD_none, hlow, hn, hp, Option.isSome_none, gt_iff_lt, Nat.zero_lt_succ,
    Bool.false_and, Nat.add_sub_cancel, Bool.false_eq_true, ↓reduceIte]
  rfl

/-! ## Arrivals and drops at a group -/

/-- The place of an arrival: its token comes with the phase number. -/
def arrivalItem (x : FireIn) (p : Pos) : OutItem :=
  ⟨x.s.ord.nextId, false, x.all fun k => .tok k (scalarTok 0 (resultMark [p]) x.rcNo), 1, [(0, p)], none, none⟩

section Groups
variable {x : FireIn} {p : Pos} (hheads : x.heads [0] = some [p]) (hend : p.isEnd = false)
include hheads hend

theorem barjGrpFire_stranger (h : x.run.groups.contains x.grp = false) : barjGrpFire x = .trap .bargrp id := by
  simp only [barjGrpFire, hheads, endPair_eq_none (any_single hend), h, Bool.not_false, ↓reduceIte]

theorem barjGrpFire_here (h : x.run.groups.contains x.grp = true) (hhere : x.s.farGroup (x.grp.setWidth 64) = false) :
    barjGrpFire x = .act
      { elem := x.elem.pop 0
        later := [arrivalItem x p]
        eff := fun s => (s.nextId (x.s.ord.nextId + 1)).modGroup x.grp fun g =>
          { g with arrivals := g.arrivals ++ [(x.s.identity x.ref.run, .place x.ref x.s.ord.nextId)], lastAt := s.cycle } } := by
  simp only [barjGrpFire, hheads, endPair_eq_none (any_single hend), h, hhere, Bool.not_true, Bool.false_eq_true, ↓reduceIte]
  rfl

theorem barjGrpFire_far (h : x.run.groups.contains x.grp = true) (hfar : x.s.farGroup (x.grp.setWidth 64) = true)
    (htag : x.s.freeTag ≠ none) : barjGrpFire x = .act
      { elem := x.elem.pop 0
        later := [arrivalItem x p]
        eff := fun s => ((s.nextId (x.s.ord.nextId + 1)).askGroup .arrive x.grp (groupPayload x.grp false false (x.s.identity x.ref.run) 0 0 0)
          (.place x.ref x.s.ord.nextId)).getD (s.nextId (x.s.ord.nextId + 1)) } := by
  obtain ⟨t, ht⟩ := Option.ne_none_iff_exists'.1 htag
  simp only [barjGrpFire, hheads, endPair_eq_none (any_single hend), h, hfar, ht, Bool.not_true, Bool.false_eq_true, ↓reduceIte]
  rfl

theorem bardropFire_position : bardropFire x = .act
    { elem := x.elem.pop 0
      emits := x.all fun k => .tok k (if p.poison then poisonTok false (resultMark [p]) x.rcNo
        else scalarTok (x.rc.encodeInt (BitVec.ofNat 32 (x.imm 11 0))) (resultMark [p]) x.rcNo) } := by
  simp only [bardropFire, hheads, endPair_eq_none (any_single hend)]

theorem bardropGrpFire_stranger (h : x.run.groups.contains x.grp = false) : bardropGrpFire x = .trap .bargrp id := by
  simp only [bardropGrpFire, hheads, endPair_eq_none (any_single hend), h, Bool.not_false, ↓reduceIte]

theorem bardropGrpFire_drops (h : x.run.groups.contains x.grp = true) : bardropGrpFire x = .act
    { elem := x.elem.pop 0
      eff := fun s => if s.farGroup (x.grp.setWidth 64) then s.tellGroup .drop x.grp x.ref.run
        else s.modGroup x.grp fun g => { g with drops := g.drops ++ [s.identity x.ref.run] } } := by
  simp only [bardropGrpFire, hheads, endPair_eq_none (any_single hend), h, Bool.not_true, Bool.false_eq_true, ↓reduceIte]
  rfl

end Groups

/-! ## Releases -/

theorem group?_congr {s t : State} (hadm : t.adm = s.adm) (hmod : t.chip.modnum = s.chip.modnum) (name : BitVec 20) :
    t.group? name = s.group? name := by
  rw [State.group?, State.group?, hadm, hmod]

theorem group?_onItem (s : State) (e : ElemRef) (rid : Nat) (f : OutItem → List OutItem) (name : BitVec 20) :
    (s.onItem e rid f).group? name = s.group? name :=
  group?_congr rfl rfl name

theorem find?_map_num {f : Group → Group} {n : BitVec 12} (hf : ∀ g, (f g).num = g.num) : ∀ (l : List Group),
    (l.map fun g => if g.num = n then f g else g).find? (fun g => g.num == n) = (l.find? fun g => g.num == n).map f
  | [] => rfl
  | g :: l => by
    rw [List.map_cons]
    by_cases hn : g.num = n
    · rw [if_pos hn, List.find?_cons_of_pos (by rw [hf, hn, beq_self_eq_true]), List.find?_cons_of_pos (by rw [hn, beq_self_eq_true])]
      rfl
    · rw [if_neg hn, List.find?_cons_of_neg (by rwa [beq_iff_eq]), List.find?_cons_of_neg (by rwa [beq_iff_eq])]
      exact find?_map_num hf l

/-- A change of a group that keeps its number. -/
theorem group?_modGroup {s : State} {name : BitVec 20} {g : Group} {f : Group → Group} (hf : ∀ g, (f g).num = g.num)
    (h : s.group? name = some g) : (s.modGroup name f).group? name = some (f g) := by
  unfold State.group? at h
  split at h
  · rename_i hhome
    rw [State.modGroup, if_pos hhome]
    show (if groupHome name = s.chip.modnum.toNat then _ else none) = _
    rw [if_pos hhome]
    show (s.adm.groups.map _).find? _ = _
    rw [find?_map_num hf, h]
    rfl
  · cases h

/-- The release of one arrival. -/
def releaseOne (name : BitVec 20) (phase : Nat) (s : State) (a : Nat × Requester) : State :=
  match a.2 with
  | .place e rid => s.releasePlace e rid phase
  | .flit _ f => s.replyFlit 0x0B f 0 0 8 (BitVec.ofNat 512 (name.toNat + phase * 2 ^ 32))
  | _ => s

theorem releaseOne_group? (name : BitVec 20) (phase : Nat) (s : State) (a : Nat × Requester) :
    (releaseOne name phase s a).group? name = s.group? name := by
  unfold releaseOne
  split
  · exact group?_onItem _ _ _ _ _
  · exact group?_congr rfl rfl name
  · rfl

theorem barrierRelease_complete {s : State} {name : BitVec 20} {g : Group} (hg : s.group? name = some g) (hcomplete : g.complete = true)
    (hcycle : g.lastAt ≠ s.cycle) : s.barrierRelease name = g.arrivals.foldl (releaseOne name g.phase)
      (s.modGroup name fun g => { g with arrivals := [], drops := [], phase := g.phase + 1 }) := by
  simp only [State.barrierRelease, hg, hcycle, ↓reduceIte, State.barrierFires, hcomplete, Bool.not_true, Bool.false_eq_true]
  rfl

theorem complete_of_members {g : Group} (harrived : g.arrivals ≠ []) (h : g.members.length ≤ g.arrivals.length + g.drops.length) :
    g.complete = true := by
  have hpos := List.length_pos_iff.2 harrived
  have hne : g.arrivals.length + g.drops.length ≠ 0 := by omega
  simp only [Group.complete, hne, h, ne_eq, not_false_eq_true, decide_true, Bool.and_self]

/-- Settles O58: a barrier counts, releases and drops as its element's state says, and a complete group begins its next phase. -/
theorem barrierElements : Obligations.BarrierElements := by
  refine ⟨?arrives, ?releases, ?negative, ?group, ?drop, ?dropGroup, ?release⟩
  case arrives =>
    intro f s t x p n c phase hfire hended hctl hp hend hdrop
    refine ⟨fun hc ht => fire_act hfire (barjFire_arrives hended hctl hp hend hdrop hc) ht, fun hc ht => ?_⟩
    have hlast : (n - 1 = 0) = (n = 1) := propext (by omega)
    refine fire_act hfire (barjFire_completes hended hctl hp hend hdrop hc) ?_
    simp only [releaseEmits, hlast]
    exact ht
  case releases =>
    intro f s t x n phase l hfire hended hctl hp hdrop ht
    exact fire_act hfire (barjFire_releases hended hctl hp hdrop) ht
  case negative =>
    intro f s x n c phase l v b hfire hended hctl hdrop hlow
    obtain rfl := firingOf_s hfire
    exact fire_trap (g := id) hfire (barjFire_negative hended hctl hdrop hlow)
  case group =>
    intro f s x p hfire hheads hend rid item
    refine ⟨?_, ?_, ?_⟩
    · intro h hhere t ht
      exact fire_act hfire (barjGrpFire_here hheads hend h hhere) ht
    · intro h hfar htag t ht
      exact fire_act hfire (barjGrpFire_far hheads hend h hfar htag) ht
    · intro h
      obtain rfl := firingOf_s hfire
      exact fire_trap (g := id) hfire (barjGrpFire_stranger hheads hend h)
  case drop =>
    intro f s t x p hfire hheads hend w ht
    exact fire_act hfire (bardropFire_position hheads hend) ht
  case dropGroup =>
    intro f s x p hfire hheads hend
    refine ⟨fun h t ht => fire_act hfire (bardropGrpFire_drops hheads hend h) ht, fun h => ?_⟩
    obtain rfl := firingOf_s hfire
    exact fire_trap (g := id) hfire (bardropGrpFire_stranger hheads hend h)
  case release =>
    intro name s g hg harrived hmembers hcycle
    refine ⟨_, congrArg Host.Outcome.next (barrierRelease_complete hg (complete_of_members harrived hmembers) hcycle), ?_⟩
    rw [foldl_fixes (g := fun s : State => s.group? name) (releaseOne_group? name g.phase)]
    exact group?_modGroup (fun _ => rfl) hg

end Sys2Proof.Proofs.Barriers
end

section
/-! System elements: traps, breakpoints, samples and register writes (O59). -/

namespace Sys2Proof.Proofs.SystemNode
open Sys2Proof.Machine Sys2Proof.Laws Sys2Proof.Proofs.ScalarAlu Sys2Proof.Proofs.Attention Sys2Proof.Proofs.FiringFrames

/-! ## TRAP -/

section Trap
variable {x : FireIn} {p : Pos} (hheads : x.heads [0] = some [p]) (hend : p.isEnd = false)
include hheads hend

theorem trapFire_traps (h : x.md ≠ 1 ∨ p.poison = true ∨ p.word ≠ 0) : trapFire x = .act
    { elem := x.elem.pop 0
      later := [⟨x.s.ord.nextId, true, x.all fun o => x.forward false p o, 0, [], none, none⟩]
      eff := fun s => (s.nextId (x.s.ord.nextId + 1)).takeTrapDone x.ref.run .usrtrap { x.info .usrtrap with aux := x.imm 15 0 } } := by
  have hpass : ¬ (x.md = 1 ∧ (!p.poison) = true ∧ p.word = 0) := by
    rintro ⟨hmd, hpoison, hword⟩
    obtain h | h | h := h
    · exact h hmd
    · rw [h] at hpoison
      cases hpoison
    · exact h hword
  simp only [trapFire, hheads, endPair_eq_none (any_single hend), hpass, ↓reduceIte]
  rfl

theorem trapFire_passes (hmd : x.md = 1) (hpoison : p.poison = false) (hword : p.word = 0) :
    trapFire x = .act { elem := x.elem.pop 0, emits := x.all fun o => x.forward false p o } := by
  simp only [trapFire, hheads, endPair_eq_none (any_single hend), hmd, hpoison, hword, Bool.not_false, and_self, ↓reduceIte]

end Trap

/-! ## BRK -/

theorem brkFire_passes {x : FireIn} {p : Pos} (hp : x.avail 0 = some p) : brkFire x = .act
    { elem := { x.elem.pop 0 with ended := p.mark == .eos, ctl := .brk false }, emits := x.all fun o => x.forward false p o } := by
  simp only [brkFire, hp]

theorem firingOf_parts {i : Instr} {s : State} {x : FireIn} (h : firingOf i s = some x) :
    s.focus.bind (·.elem) = some x.ref ∧ x.elem.firedAt ≠ s.cycle + 1 ∧ x.o = opcodeOf i := by
  unfold firingOf at h
  split at h
  · rename_i fo f hfo hf
    split at h
    · cases h
    · rename_i ref href
      split at h
      · cases h
      · simp only at h
        split at h
        · rename_i hc
          obtain rfl := Option.some.inj h
          simp only [Bool.and_eq_true, bne_iff_ne] at hc
          exact ⟨by rw [hfo]; exact href, hc.1.1.2, rfl⟩
        · cases h
  · cases h

/-- BRK holds its firing back where debugging is enabled, it has not held it already and nothing else does. -/
theorem brkHold_eq {f : Fab} {s : State} {x : FireIn} (h : firingOf (.brk f) s = some x) : brkHold f s =
    if (x.live && x.run.regs.debug && x.elem.ctl != .brk true && x.elem.firedAt != s.cycle + 1 && (dropEmpty x.elem.out).isEmpty
      && (x.avail 0).isSome
      && roomFor x.load x.ref.blk x.blk s.cycle x.ref.idx (.brk f) f true (x.outs.map fun k => (k, eosTok false 0))) = true
    then some ((s.supervisorFault x.ref.run (x.info .brk)).modElem x.ref fun e => { e with ctl := .brk true })
    else none := by
  obtain ⟨hfocus, -, ho⟩ := firingOf_parts h
  have hs := firingOf_s h
  have hsite := firingOf_site h
  have hf : x.f = f := (Option.some.inj (firingOf_f h).1).symm
  obtain ⟨s', ref, at_, f', o⟩ := x
  simp only at hs hf hfocus hsite
  subst hs hf
  obtain rfl : o = 0xE3 := ho
  simp only [brkHold, hfocus, hsite]
  rfl

theorem brkHold_passes {f : Fab} {s : State} {x : FireIn} (h : firingOf (.brk f) s = some x)
    (hpass : x.run.regs.debug = false ∨ x.elem.ctl = .brk true) : brkHold f s = none := by
  rw [brkHold_eq h, if_neg]
  simp only [Bool.and_eq_true, bne_iff_ne]
  rintro ⟨⟨⟨⟨⟨⟨-, hdebug⟩, hctl⟩, -⟩, -⟩, -⟩, -⟩
  obtain hpass | hpass := hpass
  · rw [hpass] at hdebug
    cases hdebug
  · exact hctl hpass

theorem brkHold_holds {f : Fab} {s : State} {x : FireIn} {p : Pos} (h : firingOf (.brk f) s = some x) (hp : x.avail 0 = some p)
    (hdebug : x.run.regs.debug = true) (hctl : x.elem.ctl ≠ .brk true) (hout : dropEmpty x.elem.out = [])
    (hroom : roomFor x.load x.ref.blk x.blk s.cycle x.ref.idx (.brk f) f true (x.outs.map fun k => (k, eosTok false 0)) = true) :
    brkHold f s = some ((s.supervisorFault x.ref.run (x.info .brk)).modElem x.ref fun e => { e with ctl := .brk true }) := by
  obtain ⟨-, hfired, -⟩ := firingOf_parts h
  rw [brkHold_eq h, if_pos]
  simp only [Bool.and_eq_true, bne_iff_ne]
  exact ⟨⟨⟨⟨⟨⟨firingOf_live h, hdebug⟩, hctl⟩, hfired⟩, by rw [hout]; rfl⟩, by rw [hp]; rfl⟩, hroom⟩

/-! ## Samples -/

/-- A word of a sample on every output. -/
def sampleOut (x : FireIn) (w : W32) (m : Mark) : List Emit := x.all fun k => .tok k (scalarTok (x.rc.encodeInt w) m x.rcNo)

section Sample
variable {x : FireIn} {p : Pos} (hpoison : p.poison = false) (v : W64)
include hpoison

theorem sampleAct_low (hmd : x.md = 0) : sampleAct x p v = { elem := x.elem.pop 0, emits := sampleOut x (v.setWidth 32) (resultMark [p]) } := by
  simp only [sampleAct, hpoison, hmd, Bool.false_eq_true, ↓reduceIte]
  rfl

theorem sampleAct_high (hmd : x.md = 1) :
    sampleAct x p v = { elem := x.elem.pop 0, emits := sampleOut x (v.extractLsb' 32 32) (resultMark [p]) } := by
  simp only [sampleAct, hpoison, hmd, Bool.false_eq_true, ↓reduceIte]
  rfl

theorem sampleAct_both (hmd : 2 ≤ x.md) : sampleAct x p v =
    { elem := x.elem.pop 0, emits := sampleOut x (v.setWidth 32) .data
      later := laterItems [sampleOut x (v.extractLsb' 32 32) (resultMark [p])] } := by
  obtain ⟨n, hn⟩ := Nat.exists_eq_add_of_le' hmd
  simp only [sampleAct, hpoison, hn, Bool.false_eq_true, ↓reduceIte]
  rfl

end Sample

section Sampling
variable {x : FireIn} {p : Pos} (hheads : x.heads [0] = some [p]) (hend : p.isEnd = false)
include hheads hend

theorem sampleFire_position (value : FireIn → W64) : sampleFire value x = .act (sampleAct x p (value x)) := by
  simp only [sampleFire, hheads, endPair_eq_none (any_single hend)]

theorem rdsysFire_priv (h : sysAcc (x.s.levelS x.run.slot) (x.imm 11 0) = .none) : rdsysFire x = privTrap (x.imm 11 0) := by
  simp only [rdsysFire, hheads, endPair_eq_none (any_single hend), h, ↓reduceIte]

theorem rdsysFire_position (h : sysAcc (x.s.levelS x.run.slot) (x.imm 11 0) ≠ .none) :
    rdsysFire x = .act (sampleAct x p (x.s.sysRead x.run (x.imm 11 0))) := by
  simp only [rdsysFire, hheads, endPair_eq_none (any_single hend), h, ↓reduceIte]

end Sampling

/-- An instruction that samples a value on each position, where its level reaches it. -/
def Samples (row : (Fab → Instr) × (FireIn → W64)) : Prop :=
  ∃ body, (∀ f s, exec (row.1 f) s = fire (row.1 f) body s) ∧
    ∀ (f : Fab) (x : FireIn) (p : Pos), x.heads [0] = some [p] → p.isEnd = false →
    (row.1 f = .rdsys f → sysAcc (x.s.levelS x.run.slot) (x.imm 11 0) ≠ .none) → body x = .act (sampleAct x p (row.2 x))

/-! ## WRSYS -/

section Write
variable {x : FireIn} {ps : List Pos} (hheads : x.heads x.ins = some ps) (hend : ps.any Pos.isEnd = false)
include hheads hend

theorem wrsysFire_priv (h : sysAcc (x.s.levelS x.run.slot) (x.imm 11 0) = .none
      ∨ (sysAcc (x.s.levelS x.run.slot) (x.imm 11 0) = .ro ∧ x.s.levelS x.run.slot = false)) :
    wrsysFire x = privTrap (x.imm 11 0) := by
  have hbad : sysAcc (x.s.levelS x.run.slot) (x.imm 11 0) = .none
      ∨ (sysAcc (x.s.levelS x.run.slot) (x.imm 11 0) = .ro ∧ (!x.s.levelS x.run.slot) = true) :=
    h.imp_right fun h => ⟨h.1, by rw [h.2]; rfl⟩
  simp only [wrsysFire, hheads, endPair_eq_none hend]
  exact if_pos hbad

theorem wrsysFire_writes (hacc : sysAcc (x.s.levelS x.run.slot) (x.imm 11 0) ≠ .none)
    (hlevel : sysAcc (x.s.levelS x.run.slot) (x.imm 11 0) = .ro → x.s.levelS x.run.slot = true) (hpoison : ps.any Pos.poison = false) :
    wrsysFire x = .act
      { elem := x.elem.pops x.ins
        emits := x.all fun k => .tok k (scalarTok 0 (resultMark ps) x.rcNo)
        eff := fun s => { s with adm := { s.adm with regw := s.adm.regw ++
          [⟨x.ref.run, x.imm 11 0, ((((ps[1]?).map Pos.word).getD 0) ++ (ps.headD .elided).word : BitVec 64), x.md != 0⟩] } } } := by
  have hbad : ¬ (sysAcc (x.s.levelS x.run.slot) (x.imm 11 0) = .none
      ∨ (sysAcc (x.s.levelS x.run.slot) (x.imm 11 0) = .ro ∧ (!x.s.levelS x.run.slot) = true)) := by
    rintro (h | ⟨hro, hlow⟩)
    · exact hacc h
    · rw [hlevel hro] at hlow
      cases hlow
  simp only [wrsysFire, hheads, endPair_eq_none hend, hpoison, Bool.false_eq_true, ↓reduceIte]
  exact if_neg hbad

end Write

/-- Settles O59: each system element's firing on its position, and the register or trap that it comes to. -/
theorem systemElements : Obligations.SystemElements := by
  refine ⟨?trap, ?brk, ?sample, ?write, ?priv⟩
  case trap =>
    intro f s x p hfire hheads hend
    refine ⟨fun h t ht => fire_act hfire (trapFire_traps hheads hend h) ht, fun hmd hpoison hword t ht => ?_⟩
    exact fire_act hfire (trapFire_passes hheads hend hmd hpoison hword) ht
  case brk =>
    intro f s x p hfire hp
    show (_ → ∀ t : State, _ → brkStep f s = _) ∧ (_ → _ → _ → _ → brkStep f s = _)
    unfold brkStep
    refine ⟨fun hpass t ht => ?_, fun hdebug hctl hout hroom => ?_⟩
    · rw [brkHold_passes hfire hpass]
      exact fire_act hfire (brkFire_passes hp) ht
    · rw [brkHold_holds hfire hp hdebug hctl hout hroom]
  case sample =>
    have hrows : ∀ row ∈ [((.rdtime : Fab → Instr), fun x : FireIn => BitVec.ofNat 64 x.s.time),
        (.rdcyc, fun x => BitVec.ofNat 64 x.run.cycles), (.rdsys, fun x => x.s.sysRead x.run (x.imm 11 0))], Samples row := by
      simp only [List.forall_mem_cons]
      exact ⟨⟨_, fun _ _ => rfl, fun _ _ _ hheads hend _ => sampleFire_position hheads hend _⟩,
        ⟨_, fun _ _ => rfl, fun _ _ _ hheads hend _ => sampleFire_position hheads hend _⟩,
        ⟨_, fun _ _ => rfl, fun _ _ _ hheads hend h => rdsysFire_position hheads hend (h rfl)⟩, List.forall_mem_nil _⟩
    intro row hrow f s t x p hfire hheads hend hpoison hacc tok lo hi
    obtain ⟨body, hexec, hbody⟩ := hrows row hrow
    have hfired := hbody f x p hheads hend hacc
    rw [hexec]
    refine ⟨?_, ?_, ?_⟩
    · intro hmd ht
      rw [sampleAct_low hpoison _ hmd] at hfired
      exact fire_act hfire hfired ht
    · intro hmd ht
      rw [sampleAct_high hpoison _ hmd] at hfired
      exact fire_act hfire hfired ht
    · intro hmd ht
      rw [sampleAct_both hpoison _ hmd] at hfired
      exact fire_act hfire hfired ht
  case write =>
    intro f s x ps hfire hheads hend n acc
    refine ⟨fun hacc hlevel hpoison t ht => fire_act hfire (wrsysFire_writes hheads hend hacc hlevel hpoison) ht, fun h => ?_⟩
    obtain rfl := firingOf_s hfire
    exact fire_trap (g := fun i => { i with aux := x.imm 11 0 }) hfire (wrsysFire_priv hheads hend h)
  case priv =>
    intro f s x p hfire hheads hend h
    obtain rfl := firingOf_s hfire
    exact fire_trap (g := fun i => { i with aux := x.imm 11 0 }) hfire (rdsysFire_priv hheads hend h)

end Sys2Proof.Proofs.SystemNode
end

section
/-! Privileged elements: orders for runs, their arrival, and grants (O60). -/

namespace Sys2Proof.Proofs.Privileged
open Sys2Proof.Machine Sys2Proof.Laws Sys2Proof.Proofs.Attention Sys2Proof.Proofs.FiringFrames

/-! ## An order for one run -/

/-- What a privileged element does when it orders one run. -/
structure Orders (x : FireIn) (ps : List Pos) (target : Nat) (now : State → Nat → Option Nat)
    (order : State → Nat → ElemRef × Nat → State) (a : Act) : Prop where
  elem : a.elem = x.elem.pops x.ins
  emits : a.emits = []
  later : a.later.map (fun i => (i.ready, i.parts, i.takes)) = [(false, 1, x.ins.zip ps)]
  atOnce : ∀ (u : State) (st : Nat), now (u.nextId (x.s.ord.nextId + 1)) target = some st →
    a.eff u = (u.nextId (x.s.ord.nextId + 1)).answerPriv x.ref x.s.ord.nextId st
  ordered : ∀ u : State, now (u.nextId (x.s.ord.nextId + 1)) target = none →
    a.eff u = order (u.nextId (x.s.ord.nextId + 1)) target (x.ref, x.s.ord.nextId)

theorem ask_orders (x : FireIn) (ps : List Pos) (m : Mark) (target : Nat) (now : State → Nat → Option Nat)
    (order : State → Nat → ElemRef × Nat → State) :
    ∃ a, x.ask (x.take x.ins ps) m [target] now order = .act a ∧ Orders x ps target now order a := by
  refine ⟨_, rfl, rfl, rfl, rfl, fun u st h => ?_, fun u h => ?_⟩
  · simp only [FireIn.take, List.isEmpty_cons, List.foldl_cons, List.foldl_nil, id_eq, h, Bool.false_eq_true, ↓reduceIte]
  · simp only [FireIn.take, List.isEmpty_cons, List.foldl_cons, List.foldl_nil, id_eq, h, Bool.false_eq_true, ↓reduceIte]

/-! ### The four orders -/

/-- READOUT: a run in place that no readout waits for. -/
def readoutNow (x : FireIn) (s : State) (t : Nat) : Option Nat :=
  match x.absent s t with
  | some st => some st
  | none => match s.run? t with
    | some r => if r.inPlace && (r.order? 2).isNone then none else some 2
    | none => some 1

/-- RESTORE: a run that is read out, which no restore waits for. -/
def restoreNow (x : FireIn) (s : State) (t : Nat) : Option Nat :=
  match x.absent s t with
  | some st => some st
  | none => match s.run? t with
    | some r => if r.st = .frozen ∧ r.hold = .readout ∧ (r.order? 3).isNone then none else some 2
    | none => some 1

def readoutOrder (x : FireIn) (ps : List Pos) (s : State) (t : Nat) (who : ElemRef × Nat) : State :=
  (s.addOrder t 2 (some who)).modRun t fun r => { r with record := some (some x.run.slot, x.recordVa ps) }

def restoreOrder (x : FireIn) (ps : List Pos) (s : State) (t : Nat) (who : ElemRef × Nat) : State :=
  (s.addOrder t 3 (some who)).modRun t fun r =>
    { r with queuedAt := s.cycle, aged := 0, record := some (some x.run.slot, x.recordVa ps) }

section Fires
variable {x : FireIn} {ps : List Pos} (hheads : x.heads x.ins = some ps) (hend : ps.any Pos.isEnd = false)
  (hpoison : ps.any Pos.poison = false)
include hheads hend hpoison

theorem freezeFire_ask (hmd : x.md = 0) : freezeFire x =
    x.ask (x.take x.ins ps) (resultMark ps) [(ps.headD .elided).word.toNat] x.absent fun s t who => s.addOrder t 0 (some who) := by
  rw [freezeFire, portInput_ordinary hheads hend]
  simp only [hpoison, hmd, Bool.false_eq_true, ↓reduceIte]
  rfl

theorem thawFire_ask : thawFire x =
    x.ask (x.take x.ins ps) (resultMark ps) [(ps.headD .elided).word.toNat] x.absent fun s t who => s.addOrder t 1 (some who) := by
  rw [thawFire, portInput_ordinary hheads hend]
  simp only [hpoison, Bool.false_eq_true, ↓reduceIte]

theorem readoutFire_ask : readoutFire x =
    x.ask (x.take x.ins ps) (resultMark ps) [(ps.headD .elided).word.toNat] (readoutNow x) (readoutOrder x ps) := by
  rw [readoutFire, portInput_ordinary hheads hend]
  simp only [hpoison, Bool.false_eq_true, ↓reduceIte]
  rfl

theorem restoreFire_ask : restoreFire x =
    x.ask (x.take x.ins ps) (resultMark ps) [(ps.headD .elided).word.toNat] (restoreNow x) (restoreOrder x ps) := by
  rw [restoreFire, portInput_ordinary hheads hend]
  simp only [hpoison, Bool.false_eq_true, ↓reduceIte]
  rfl

end Fires

/-! ### When a target answers at once -/

theorem absent_self (x : FireIn) (s : State) : x.absent s x.ref.run = some 3 := if_pos rfl

theorem absent_noRun {x : FireIn} {s : State} {t : Nat} (hne : t ≠ x.ref.run) (h : s.run? t = none) : x.absent s t = some 1 := by
  rw [FireIn.absent, if_neg hne, h]
  rfl

theorem absent_run {x : FireIn} {s : State} {t : Nat} {r : Run} (hne : t ≠ x.ref.run) (h : s.run? t = some r) : x.absent s t = none := by
  rw [FireIn.absent, if_neg hne, h]
  rfl

theorem readoutNow_absent {x : FireIn} {s : State} {t st : Nat} (h : x.absent s t = some st) : readoutNow x s t = some st := by
  simp only [readoutNow, h]

theorem restoreNow_absent {x : FireIn} {s : State} {t st : Nat} (h : x.absent s t = some st) : restoreNow x s t = some st := by
  simp only [restoreNow, h]

theorem readoutNow_ordered {x : FireIn} {s : State} {t : Nat} {r : Run} (hne : t ≠ x.ref.run) (h : s.run? t = some r)
    (hplace : r.inPlace = true) (hnone : r.order? 2 = none) : readoutNow x s t = none := by
  simp only [readoutNow, absent_run hne h, h, hplace, hnone, Option.isNone_none, Bool.and_self, ↓reduceIte]

theorem restoreNow_ordered {x : FireIn} {s : State} {t : Nat} {r : Run} (hne : t ≠ x.ref.run) (h : s.run? t = some r)
    (hst : r.st = .frozen) (hhold : r.hold = .readout) (hnone : r.order? 3 = none) : restoreNow x s t = none := by
  simp only [restoreNow, absent_run hne h, h, hst, hhold, hnone, Option.isNone_none, and_self, ↓reduceIte]

/-- An order stands behind those of its run. -/
theorem order?_append (r : Run) (code : Nat) (who : Option (ElemRef × Nat)) :
    (({ r with orders := r.orders ++ [(code, who)] } : Run).order? code).isSome = true := by
  simp [Run.order?, List.find?_append]

theorem run?_addOrder {s : State} {t : Nat} {r : Run} (code : Nat) (who : Option (ElemRef × Nat)) (h : s.run? t = some r) :
    (s.addOrder t code who).run? t = some { r with orders := r.orders ++ [(code, who)] } :=
  modRun_run? h fun _ => ⟨rfl, rfl⟩

theorem readoutOrder_order? {x : FireIn} {ps : List Pos} {s : State} {t : Nat} {r : Run} (who : ElemRef × Nat) (h : s.run? t = some r) :
    ∃ r', (readoutOrder x ps s t who).run? t = some r' ∧ (r'.order? 2).isSome = true :=
  ⟨_, modRun_run? (run?_addOrder 2 _ h) fun _ => ⟨rfl, rfl⟩, order?_append r 2 (some who)⟩

theorem restoreOrder_order? {x : FireIn} {ps : List Pos} {s : State} {t : Nat} {r : Run} (who : ElemRef × Nat) (h : s.run? t = some r) :
    ∃ r', (restoreOrder x ps s t who).run? t = some r' ∧ (r'.order? 3).isSome = true :=
  ⟨_, modRun_run? (run?_addOrder 3 _ h) fun _ => ⟨rfl, rfl⟩, order?_append r 3 (some who)⟩

/-! ## Arrivals -/

theorem freezeArrival_resident {run : Nat} {s : State} {r : Run} {o : Nat × Option (ElemRef × Nat)} (h : s.run? run = some r)
    (ho : r.order? 0 = some o) (hwho : o.2 ≠ none) (hst : r.st = .resident) :
    s.freezeArrival run = ((s.dropOrder run o).freeze run .supervisor).answerWho o.2 0 := by
  have hsome : o.2.isNone = false := by rwa [Option.isNone_eq_false_iff, Option.isSome_iff_ne_none]
  simp only [State.freezeArrival, h, ho, hst, hsome, Bool.false_eq_true, ↓reduceIte]

theorem thawArrival_held {run : Nat} {s : State} {r : Run} {o : Nat × Option (ElemRef × Nat)} (h : s.run? run = some r)
    (ho : r.order? 1 = some o) (hplace : r.inPlace = true) (hunit : (s.dropOrder run o).unitHeld r = false) (hhold : r.hold = .supervisor)
    (hgroups : r.groups = []) : s.thawArrival run = ((s.dropOrder run o).resume run).answerWho o.2 0 := by
  simp only [State.thawArrival, h, ho, hplace, hunit, hhold, hgroups, List.foldl_nil, Bool.not_true, Bool.or_self, Bool.false_eq_true,
    ↓reduceIte]

/-! ## GRANT -/

/-- The token that this module mints for itself. -/
def ownToken (x : FireIn) (key : BitVec 256) (a b : W32) : W64 :=
  let body := grantBody (fld a 2 0) (fld a 7 3) (fld b 19 0) ((x.s.grantEpoch + fld a 15 8) % 256)
  body + BitVec.ofNat 64 (grantMac key body x.s.chip.modnum.toNat x.s.chip.modnum.toNat)

theorem grantFire_own {x : FireIn} {a b : Pos} {key : BitVec 256} (hheads : x.heads x.ins = some [a, b])
    (hend : [a, b].any Pos.isEnd = false) (hpoison : [a, b].any Pos.poison = false) (hhome : fld a.word 23 16 = x.s.chip.modnum.toNat)
    (hkey : x.s.chip.grantKey = some key) (hlow : 1 ≤ fld a.word 15 8) (hhigh : fld a.word 15 8 ≤ 128) : grantFire x = .act
      { elem := x.elem.pops x.ins
        later := [⟨x.s.ord.nextId, true, [.tok 0 (scalarTok ((ownToken x key a.word b.word).setWidth 32) .data x.rcNo)], 0, x.ins.zip [a, b], none,
            none⟩,
          ⟨x.s.ord.nextId, true, [.tok 0 (scalarTok ((ownToken x key a.word b.word).extractLsb' 32 32) (resultMark [a, b]) x.rcNo),
            .tok 1 (scalarTok 0 (resultMark [a, b]) x.rcNo)], 0, [], none, none⟩]
        eff := fun s => s.nextId (x.s.ord.nextId + 1) } := by
  have hrange : ¬ (fld a.word 15 8 < 1 ∨ 128 < fld a.word 15 8) := by omega
  have hb : ((([a, b] : List Pos)[1]?).map Pos.word).getD 0 = b.word := rfl
  rw [grantFire, portInput_ordinary hheads hend]
  simp only [hpoison, List.headD_cons, hb, hhome, State.mint, hkey, hrange, Bool.false_eq_true, ↓reduceIte]
  rfl

/-! ## The obligation -/

/-- The answers at once of an element whose `now` heeds absent targets. -/
theorem Orders.absent {x : FireIn} {ps : List Pos} {target : Nat} {now : State → Nat → Option Nat}
    {order : State → Nat → ElemRef × Nat → State} {a : Act} (h : Orders x ps target now order a)
    (hnow : ∀ s st, x.absent s target = some st → now s target = some st) :
    (∀ u : State, target = x.ref.run → a.eff u = (u.nextId (x.s.ord.nextId + 1)).answerPriv x.ref x.s.ord.nextId 3)
    ∧ (∀ u : State, target ≠ x.ref.run → u.run? target = none →
      a.eff u = (u.nextId (x.s.ord.nextId + 1)).answerPriv x.ref x.s.ord.nextId 1) := by
  refine ⟨fun u hself => h.atOnce u 3 (hnow _ _ ?_), fun u hne hnone => h.atOnce u 1 (hnow _ _ (absent_noRun hne hnone))⟩
  rw [hself]
  exact absent_self x _

theorem headD_of_head? {ps : List Pos} {p : Pos} (h : ps.head? = some p) : (ps.headD .elided).word.toNat = p.word.toNat := by
  cases ps with
  | nil => cases h
  | cons q qs => rw [Option.some.inj h]; rfl

/-- Settles O60: a privileged element asks its one target, which answers at once or has its order. -/
theorem privilegedElements : Obligations.PrivilegedElements := by
  refine ⟨?orders, ?freezes, ?thaws, ?grant⟩
  case orders =>
    simp only [List.forall_mem_cons]
    refine ⟨?freeze, ?thaw, ?readout, ?restore, List.forall_mem_nil _⟩
    case freeze =>
      intro f s x ps p hfire hheads hend hpoison hhead hmd
      obtain ⟨a, ha, ho⟩ := ask_orders x ps (resultMark ps) (ps.headD .elided).word.toNat x.absent fun s t who => s.addOrder t 0 (some who)
      have hact := (freezeFire_ask hheads hend hpoison (hmd trivial)).trans ha
      rw [headD_of_head? hhead] at ho
      obtain ⟨hself, hnone⟩ := ho.absent fun _ _ h => h
      exact ⟨a, fun t ht => fire_act hfire hact ht, ho.elem, ho.emits, ho.later, hself, hnone,
        fun u r hne hr _ => ho.ordered u (absent_run hne hr), fun _ _ _ _ h => absurd h (by decide), fun _ _ _ _ h => absurd h (by decide)⟩
    case thaw =>
      intro f s x ps p hfire hheads hend hpoison hhead hmd
      obtain ⟨a, ha, ho⟩ := ask_orders x ps (resultMark ps) (ps.headD .elided).word.toNat x.absent fun s t who => s.addOrder t 1 (some who)
      have hact := (thawFire_ask hheads hend hpoison).trans ha
      rw [headD_of_head? hhead] at ho
      obtain ⟨hself, hnone⟩ := ho.absent fun _ _ h => h
      exact ⟨a, fun t ht => fire_act hfire hact ht, ho.elem, ho.emits, ho.later, hself, hnone,
        fun u r hne hr _ => ho.ordered u (absent_run hne hr), fun _ _ _ _ h => absurd h (by decide), fun _ _ _ _ h => absurd h (by decide)⟩
    case readout =>
      intro f s x ps p hfire hheads hend hpoison hhead hmd
      obtain ⟨a, ha, ho⟩ := ask_orders x ps (resultMark ps) (ps.headD .elided).word.toNat (readoutNow x) (readoutOrder x ps)
      have hact := (readoutFire_ask hheads hend hpoison).trans ha
      rw [headD_of_head? hhead] at ho
      obtain ⟨hself, hnone⟩ := ho.absent fun _ _ h => readoutNow_absent h
      refine ⟨a, fun t ht => fire_act hfire hact ht, ho.elem, ho.emits, ho.later, hself, hnone, fun _ _ _ _ h => absurd h (by decide),
        fun u r hne hr _ hplace hfree => ?_, fun _ _ _ _ h => absurd h (by decide)⟩
      rw [ho.ordered u (readoutNow_ordered hne hr hplace hfree)]
      exact readoutOrder_order? _ hr
    case restore =>
      intro f s x ps p hfire hheads hend hpoison hhead hmd
      obtain ⟨a, ha, ho⟩ := ask_orders x ps (resultMark ps) (ps.headD .elided).word.toNat (restoreNow x) (restoreOrder x ps)
      have hact := (restoreFire_ask hheads hend hpoison).trans ha
      rw [headD_of_head? hhead] at ho
      obtain ⟨hself, hnone⟩ := ho.absent fun _ _ h => restoreNow_absent h
      refine ⟨a, fun t ht => fire_act hfire hact ht, ho.elem, ho.emits, ho.later, hself, hnone, fun _ _ _ _ h => absurd h (by decide),
        fun _ _ _ _ h => absurd h (by decide), fun u r hne hr _ hst hhold _ hfree => ?_⟩
      rw [ho.ordered u (restoreNow_ordered hne hr hst hhold hfree)]
      exact restoreOrder_order? _ hr
  case freezes =>
    intro run s r o h ho hwho hst
    exact congrArg Host.Outcome.next (freezeArrival_resident h ho hwho hst)
  case thaws =>
    intro run s r o h ho hplace hunit hhold hgroups
    exact congrArg Host.Outcome.next (thawArrival_held h ho hplace hunit hhold hgroups)
  case grant =>
    intro f s t x a b key hfire hheads hend hpoison hhome hkey hlow hhigh body tok m ht
    exact fire_act hfire (grantFire_own hheads hend hpoison hhome hkey hlow hhigh) ht

end Sys2Proof.Proofs.Privileged
end

section
/-! One turn of the agenda: what the fetch gives a step, the end of a cycle, circuit words, and a placed word (O33). -/

namespace Sys2Proof.Proofs.StepTurns
open Sys2Proof.Machine Sys2Proof.Laws

/-! ## Turns of the agenda -/

theorem step_exec {s t : State} {i : Instr} (h : fetch s = .exec i t) : step s = exec i t := by
  rw [step, h]

theorem step_other {s t : State} (h : fetch s = .other t) : step s = .next t := by
  rw [step, h]

theorem step_bad {s : State} (h : fetch s = .bad) : step s = .fault .undecodable := by
  rw [step, h]

theorem fetch_free {s : State} (h : s.chip.held = false) : fetch s = fetchTurn s := by
  rw [fetch, h]
  rfl

section Agenda
variable {s : State} {rest : List Turn}

theorem fetch_event {i : Instr} (hheld : s.chip.held = false) (h : s.agenda = .event i :: rest) :
    fetch s = .exec i { s with agenda := rest } := by
  rw [fetch_free hheld, fetchTurn, h]

theorem fetch_fire {e : ElemRef} (hheld : s.chip.held = false) (h : s.agenda = .fire e :: rest) :
    fetch s = fetchElem { s with agenda := rest } e := by
  rw [fetch_free hheld, fetchTurn, h]

theorem fetch_word {id : Nat} (hheld : s.chip.held = false) (h : s.agenda = .word id :: rest) :
    fetch s = fetchWord { s with agenda := rest } id := by
  rw [fetch_free hheld, fetchTurn, h]

theorem fetch_walk {id : Nat} (hheld : s.chip.held = false) (h : s.agenda = .walk id :: rest) :
    fetch s = .other ({ s with agenda := rest }.walkNext id) := by
  rw [fetch_free hheld, fetchTurn, h]

theorem fetch_circuit {k g : Nat} {w : Option Token} (hheld : s.chip.held = false) (h : s.agenda = .circuit k g w :: rest) :
    fetch s = .other ({ s with agenda := rest }.circuitWord k g w) := by
  rw [fetch_free hheld, fetchTurn, h]

theorem fetch_tick (h : s.agenda = .tick :: rest) : fetch s = .other (tick { s with agenda := rest }) := by
  cases hheld : s.chip.held
  · rw [fetch_free hheld, fetchTurn, h]
  · rw [fetch, hheld, h]
    rfl

/-- A held module passes every turn but the end of the cycle and a cold reset. -/
theorem fetch_held {x : Turn} (hheld : s.chip.held = true) (h : s.agenda = x :: rest) (htick : x ≠ .tick)
    (hreset : ∀ env, x ≠ .event (.coldReset env)) : fetch s = .other { s with agenda := rest } := by
  have hpass : (!s.chip.held) = false := by rw [hheld]; rfl
  simp only [fetch, hpass, Bool.false_eq_true, ↓reduceIte, h]

theorem fetchElem_decoded {e : ElemRef} {h : Here} {i : Instr} {tail : List Byte} (hsite : s.site e = some h)
    (hdec : decode (natBytes 8 h.word.toNat) = .ok (i, tail)) : fetchElem s e = .exec i { s with focus := some ⟨e.run, some e⟩ } := by
  rw [fetchElem, hsite]
  simp only [hdec]

end Agenda

/-! ## The word at SQC -/

/-- The state in which the word of a run executes. -/
def issuing (t : State) (id : Nat) (r : Run) (c : Nat) : State :=
  { t.setRun { r with esc := { r.esc with issuedAt := c } } with focus := some ⟨id, none⟩ }

section Word
variable {t : State} {id : Nat} {r : Run} (hrun : t.run? id = some r) (hissues : r.issues = true) (hnew : r.esc.issuedAt ≠ t.cycle + 1)
include hrun hissues hnew

theorem fetchWord_decoded {w : W64} {i : Instr} {tail : List Byte} (hw : (t.seqOf r)[r.esc.sqc]? = some w)
    (hdec : decode (natBytes 8 w.toNat) = .ok (i, tail)) : fetchWord t id = .exec i (issuing t id r (t.cycle + 1)) := by
  have hw' : ((issuing t id r (t.cycle + 1)).seqOf r)[r.esc.sqc]? = some w := hw
  unfold issuing at hw'
  simp only [fetchWord, hrun, Bool.or_eq_true, decide_eq_true_eq, hissues, hnew, Bool.not_true, Bool.false_eq_true, or_self, ↓reduceIte, hw',
    hdec]
  rfl

theorem fetchWord_bad {w : W64} {e : DecodeError} (hw : (t.seqOf r)[r.esc.sqc]? = some w)
    (hdec : decode (natBytes 8 w.toNat) = .error e) : fetchWord t id = .bad := by
  have hw' : ((issuing t id r (t.cycle + 1)).seqOf r)[r.esc.sqc]? = some w := hw
  unfold issuing at hw'
  simp only [fetchWord, hrun, Bool.or_eq_true, decide_eq_true_eq, hissues, hnew, Bool.not_true, Bool.false_eq_true, or_self, ↓reduceIte, hw',
    hdec]

theorem fetchWord_outside (hw : (t.seqOf r)[r.esc.sqc]? = none) :
    fetchWord t id = .other ((issuing t id r (t.cycle + 1)).trapWord id .seqrange) := by
  have hw' : ((issuing t id r (t.cycle + 1)).seqOf r)[r.esc.sqc]? = none := hw
  unfold issuing at hw'
  simp only [fetchWord, hrun, Bool.or_eq_true, decide_eq_true_eq, hissues, hnew, Bool.not_true, Bool.false_eq_true, or_self, ↓reduceIte, hw']
  rfl

end Word

/-- A turn of a run's word: from the agenda, or with nothing in it from the run in focus. -/
def WordTurn (s t : State) (id : Nat) : Prop :=
  (∃ rest, s.agenda = .word id :: rest ∧ t = { s with agenda := rest }) ∨ (s.agenda = [] ∧ (s.focus.map (·.run)) = some id ∧ t = s)

theorem fetch_wordTurn {s t : State} {id : Nat} {r : Run} (hheld : s.chip.held = false) (hturn : WordTurn s t id)
    (hrun : s.run? id = some r) (hissues : r.issues = true) (hnew : r.esc.issuedAt ≠ s.cycle + 1) : fetch s = fetchWord t id := by
  obtain ⟨rest, hagenda, rfl⟩ | ⟨hagenda, hfocus, rfl⟩ := hturn
  · exact fetch_word hheld hagenda
  · obtain ⟨f, hf, rfl⟩ := Option.map_eq_some_iff.1 hfocus
    have hgo : ¬ ((!r.issues) = true ∨ r.esc.issuedAt = t.cycle + 1) := by
      rw [hissues]
      rintro (h | h)
      · cases h
      · exact hnew h
    rw [fetch_free hheld]
    simp only [fetchTurn, hagenda, hf, hrun, Bool.or_eq_true, decide_eq_true_eq, hgo, ↓reduceIte]

/-! ## The end of a cycle -/

theorem applyWrites_nil {s : State} (h : s.adm.regw = []) : s.applyWrites = s := by
  have hadm : { s.adm with regw := [] } = s.adm := by rw [← h]
  rw [State.applyWrites, h, hadm]
  rfl

theorem settleAts_nil {s : State} (h : s.adm.ats = []) : s.settleAts = s := by
  have hadm : { s.adm with ats := [] } = s.adm := by rw [← h]
  simp only [State.settleAts, h, List.filter_nil, List.foldl_nil, hadm]

theorem servePorts_nil {s : State} (h : s.runs.flatMap Run.buffers = []) : s.servePorts = s := by
  simp only [State.servePorts, h, List.foldl_nil]

theorem progress_nil {s : State} (h : s.runs.flatMap Run.nodes = []) : s.progress = s := by
  rw [State.progress, h]
  rfl

theorem nodes_tick (r : Run) : r.tick.nodes = r.nodes := by
  unfold Run.tick
  split <;> rfl

/-- A cycle in which no write waits and nothing has to be served moves the counts on and forgets what it remembers. -/
theorem tick_quiet {s : State} (hregw : s.adm.regw = []) (hats : s.adm.ats = []) (hbufs : s.runs.flatMap Run.buffers = [])
    (hnodes : s.runs.flatMap Run.nodes = []) : tick s = { s.forget with cycle := s.cycle + 1, runs := s.runs.map Run.tick } := by
  rw [tick, applyWrites_nil hregw, settleAts_nil hats, servePorts_nil hbufs]
  refine progress_nil ?_
  show (s.runs.map Run.tick).flatMap Run.nodes = []
  rw [List.flatMap_map, ← hnodes]
  exact congrArg (s.runs.flatMap ·) (funext nodes_tick)

/-! ## Words of a circuit -/

section Circuit
variable {s : State} {k g : Nat} {c : Circuit} (hup : s.circuitUp c = true)
include hup

theorem circuitWord_credit (hc : (s.chip.circuits.find? fun x => x.link == k && x.group == g && x.out == true) = some c) :
    s.circuitWord k g none = { s with chip := { s.chip with
      circuits := s.chip.circuits.map fun x => if x = c then { x with credits := min 64 (x.credits + 1) } else x } } := by
  simp only [State.circuitWord, Option.isNone_none, hc, hup, Bool.not_true, Bool.false_eq_true, ↓reduceIte]

theorem circuitWord_token {t : Token} {r : Run} (hc : (s.chip.circuits.find? fun x => x.link == k && x.group == g && x.out == false) = some c)
    (hr : (s.runs.find? fun r => r.slot == c.slot && r.image == c.image && (r.st == .resident || r.st == .frozen)) = some r)
    (hroom : ((r.skidOf c.port).map fun i => i.toks.length).foldl (· + ·) 0 < 64) :
    s.circuitWord k g (some t) = s.modRun r.id fun r => r.setSkid c.port (r.skidOf c.port ++ [.plain t]) := by
  simp only [State.circuitWord, Option.isNone_some, hc, hup, hr, Nat.not_le.2 hroom, Bool.not_true, Bool.false_eq_true, ↓reduceIte]

end Circuit

/-! ## A placed word -/

theorem ofNat_toNat_mod (w : W64) : BitVec.ofNat 64 (w.toNat % 2 ^ 64) = w := by
  rw [Nat.mod_eq_of_lt w.isLt, BitVec.ofNat_toNat, BitVec.setWidth_eq]

/-- The step after a sequence word is placed at reset. -/
theorem step_placeSeq {w : W64} {i : Instr} {tail : List Byte} (hdec : decode (natBytes 8 w.toNat) = .ok (i, tail)) :
    ∃ u, step (placeSeq State.reset w) = exec i u ∧ u.agenda = [] ∧ u.mem = State.reset.mem ∧ (u.focus.map (·.run)) = some 0 := by
  have hnew : placedRun.esc.issuedAt ≠ State.cycle { placeSeq State.reset w with agenda := [] } + 1 := Nat.zero_ne_one
  exact ⟨_, step_exec ((fetch_word (id := 0) (rest := []) rfl rfl).trans
    (fetchWord_decoded (r := placedRun) rfl rfl hnew (w := w) rfl hdec)), rfl, rfl, rfl⟩

/-- The step after a fabric word is placed at reset. -/
theorem step_placeFab {w : W64} {i : Instr} {tail : List Byte} (hdec : decode (natBytes 8 w.toNat) = .ok (i, tail)) :
    ∃ u, step (placeFab State.reset w) = exec i u ∧ u.agenda = [] ∧ u.mem = State.reset.mem ∧ (u.focus.map (·.run)) = some 0 := by
  exact ⟨_, step_exec ((fetch_fire (e := ⟨0, 0, 0, 0, 0⟩) (rest := []) rfl rfl).trans
    (fetchElem_decoded (h := ⟨placedRun.setPlane 0 { placedRun.plane 0 with loads := [placedLoad w] }, placedLoad w, placedBlk w,
      initElem (w.extractLsb' 56 8).toNat (w.extractLsb' 20 2) (w.extractLsb' 0 20), w⟩) rfl hdec)), rfl, rfl, rfl⟩

theorem step_placed {w : W64} {i : Instr} {tail : List Byte} (hdec : decode (natBytes 8 w.toNat) = .ok (i, tail)) :
    ∃ u, step (State.reset.withFetchWord 64 w.toNat) = exec i u
      ∧ u.agenda = [] ∧ u.mem = State.reset.mem ∧ (u.focus.map (·.run)) = some 0 := by
  rw [State.withFetchWord, placeWord, ofNat_toNat_mod]
  split
  · exact step_placeSeq hdec
  · exact step_placeFab hdec

/-- Settles O33: each turn as the fetch gives it, and the placed word as the decoder reads it. -/
theorem stepRunsDecoded : Obligations.StepRunsDecoded := by
  refine ⟨?event, ?fire, ?word, ?tick, ?walks, ?circuit, ?held, ?placed⟩
  case event => exact fun s i rest hheld h => step_exec (fetch_event hheld h)
  case fire =>
    exact fun s e h i tail rest hheld hagenda hsite hdec =>
      step_exec ((fetch_fire hheld hagenda).trans (fetchElem_decoded (s := { s with agenda := rest }) hsite hdec))
  case word =>
    intro s t id r rest hheld hturn hrun hissues hnew u
    have hturn' : WordTurn s t id := hturn.imp_left fun h => ⟨rest, h⟩
    have hfetch := fetch_wordTurn hheld hturn' hrun hissues hnew
    obtain ⟨hrun', hcycle, hseq⟩ : t.run? id = some r ∧ t.cycle = s.cycle ∧ t.seqOf r = s.seqOf r := by
      obtain ⟨-, rfl⟩ | ⟨-, -, rfl⟩ := hturn
      · exact ⟨hrun, rfl, rfl⟩
      · exact ⟨hrun, rfl, rfl⟩
    rw [← hcycle] at hnew
    have hu : issuing t id r (t.cycle + 1) = u := by rw [hcycle]; rfl
    refine ⟨fun w i tail hw hdec => ?_, fun w e hw hdec => ?_, fun hw => ?_⟩
    · rw [step_exec (hfetch.trans (fetchWord_decoded hrun' hissues hnew (hseq ▸ hw) hdec)), hu]
    · exact step_bad (hfetch.trans (fetchWord_bad hrun' hissues hnew (hseq ▸ hw) hdec))
    · rw [step_other (hfetch.trans (fetchWord_outside hrun' hissues hnew (hseq ▸ hw))), hu]
  case tick =>
    intro s rest h
    refine ⟨⟨_, step_other (fetch_tick h), rfl⟩, fun hregw hats hbufs hnodes => ?_⟩
    rw [step_other (fetch_tick h), tick_quiet (s := { s with agenda := rest }) hregw hats hbufs hnodes]
    rfl
  case walks =>
    exact fun s rest hheld => ⟨fun id h => step_other (fetch_walk hheld h), fun k g w h => step_other (fetch_circuit hheld h)⟩
  case circuit =>
    exact fun s k g c hup _ _ => ⟨circuitWord_credit hup, fun t r hc hr hroom => circuitWord_token hup hc hr hroom⟩
  case held => exact fun s x rest hheld h htick hreset => step_other (fetch_held hheld h htick hreset)
  case placed =>
    intro i w hwf henc
    have hdec := (Proofs.Codec.encodeAndDecodeAgree).1 i w [] hwf henc
    rw [List.append_nil] at hdec
    exact step_placed hdec

end Sys2Proof.Proofs.StepTurns
end

section
/-! Words that ask (03 R42, R43, R55, 06 R119, R122 to R124): each sends its request once and waits for the reply (O13). -/

namespace Sys2Proof.Proofs.RequestSent
open Sys2Proof.Machine Sys2Proof.Laws Sys2Proof.Proofs.SequenceScalar Sys2Proof.Proofs.SequenceWords Sys2Proof.Proofs.FiringFrames

variable {s : State} {r : Run}

/-- The run whose word issues is the run of its number. -/
theorem run?_of_wordRun (h : wordRun s = some r) : s.run? r.id = some r := by
  unfold wordRun at h
  split at h
  · cases h
  · split at h
    · cases h
    · split at h
      · cases h
        rename_i hr _
        obtain ⟨hid, _, _⟩ := run?_spec s hr
        exact hid ▸ hr
      · cases h

/-- A run that waits for a reply. -/
def awaiting (n : Nat) (r : Run) : Run := { r with esc := { r.esc with wait := .sent n, sentAt := r.cycles } }

theorem keepsIds_awaiting (n : Nat) : KeepsIds (awaiting n) := fun _ => ⟨rfl, rfl⟩

theorem sendReq_run? {t : State} {n : Nat} (h : t.run? r.id = some r) : (t.sendReq r.id n).run? r.id = some (awaiting n r) :=
  modRun_run? h (keepsIds_awaiting n)

/-! ## A request to another module (24 R387) -/

theorem request_noTag (h : s.freeTag = none) (type : Byte) (modn : Nat) (grant : W64) (addr aop nreq len : Nat) (p : Line) (what : Requester)
    (g : Option (ElemRef × Nat × Nat)) : s.request type modn grant addr aop nreq len p what g = none := by
  rw [State.request, h]
  rfl

/-- A request leaves with the free tag, which stands for what asked. -/
theorem request_tag {k : Nat} (h : s.freeTag = some k) (type : Byte) (modn : Nat) (grant : W64) (addr aop nreq len : Nat) (p : Line)
    (what : Requester) (g : Option (ElemRef × Nat × Nat)) : ∃ u f, s.request type modn grant addr aop nreq len p what g = some u
      ∧ u.runs = s.runs ∧ u.adm = s.adm ∧ u.chip.tags = s.chip.tags ++ [⟨k, modn, what, g⟩] ∧ u.chip.flits = s.chip.flits ++ [(type, f)]
      ∧ f.dst = BitVec.ofNat 8 modn ∧ f.tag = BitVec.ofNat 12 k ∧ f.aop = BitVec.ofNat 8 aop := by
  rw [State.request, h]
  exact ⟨_, _, rfl, rfl, rfl, rfl, rfl, rfl, rfl, rfl⟩

/-! ## JOIN and LEAVE (03 R42) -/

section Groups
variable (join : Bool) (v : W64)

/-- The request that a JOIN or LEAVE records. -/
def groupAsk (s : State) (r : Run) : GroupReq :=
  ⟨s.ord.nextId, r.id, !s.noSuchName join v && s.farGroup v, join, v, s.noSuchName join v, if s.noSuchName join v then 2 else 0, 0⟩

/-- The request is recorded, and the word waits. -/
def recorded (q : GroupReq) (run : Nat) (t : State) : State := ({ t with adm := { t.adm with greqs := t.adm.greqs ++ [q] } }).sendReq run q.id

variable {join v}

theorem groupWord_sent {n : Nat} (h : r.esc.wait = .sent n) : s.groupWord r join v = s := by
  rw [State.groupWord, h]

theorem groupWord_here (hwait : ∀ n, r.esc.wait ≠ .sent n) (hnear : (!s.noSuchName join v && s.farGroup v) = false) :
    s.groupWord r join v = recorded (groupAsk join v s r) r.id s.fresh.2 := by
  unfold State.groupWord
  split
  · exact absurd ‹_› (hwait _)
  · simp only [hnear, Bool.false_eq_true, ↓reduceIte]
    rw [recorded, groupAsk, hnear]
    rfl

/-- The payload of the flit that asks another module. -/
def groupWords (v : W64) (s : State) (r : Run) : Line :=
  groupPayload (v.setWidth 20) false (decide (16 ≤ r.groups.length)) (s.identity r.id) 0 0 0

/-- What asks another module. -/
def groupFlit (join : Bool) (v : W64) (s : State) (r : Run) : Option State :=
  s.fresh.2.askGroup (if join then .join else .leave) (v.setWidth 20) (groupWords v s r) (.group s.ord.nextId)

theorem groupFlit_noTag (h : s.freeTag = none) : groupFlit join v s r = none :=
  request_noTag (s := s.fresh.2) h 7 (groupHome (v.setWidth 20)) 0 0 (if join then GroupOp.join else GroupOp.leave).code 1 32
    (groupWords v s r) (.group s.ord.nextId) none

section Far
variable (hwait : ∀ n, r.esc.wait ≠ .sent n) (hfar : (!s.noSuchName join v && s.farGroup v) = true)
include hwait hfar

theorem groupWord_far {u : State} (hask : groupFlit join v s r = some u) :
    s.groupWord r join v = recorded (groupAsk join v s r) r.id u := by
  unfold State.groupWord
  split
  · exact absurd ‹_› (hwait _)
  · simp only [hfar, ↓reduceIte]
    split
    · rename_i hu
      obtain rfl := Option.some.inj (hask.symm.trans hu)
      rw [recorded, groupAsk, hfar]
      rfl
    · rename_i hu
      cases hask.symm.trans hu

theorem groupWord_noTag (hask : groupFlit join v s r = none) : s.groupWord r join v = s := by
  unfold State.groupWord
  split
  · exact absurd ‹_› (hwait _)
  · simp only [hfar, ↓reduceIte]
    split
    · rename_i hu
      cases hask.symm.trans hu
    · rfl
end Far

/-- What the recorded request leaves. -/
theorem recorded_spec {q : GroupReq} {t : State} (h : t.run? r.id = some r) : (recorded q r.id t).run? r.id = some (awaiting q.id r)
    ∧ (recorded q r.id t).adm.greqs = t.adm.greqs ++ [q] ∧ (recorded q r.id t).chip = t.chip :=
  ⟨sendReq_run? (t := { t with adm := { t.adm with greqs := t.adm.greqs ++ [q] } }) h, rfl, rfl⟩

theorem groupAsk_named (h : s.noSuchName join v = false) :
    groupAsk join v s r = ⟨s.ord.nextId, r.id, !s.noSuchName join v && s.farGroup v, join, v, false, 0, 0⟩ := by
  simp [groupAsk, h]

theorem groupAsk_nameless (h : s.noSuchName join v = true) : groupAsk join v s r = ⟨s.ord.nextId, r.id, false, join, v, true, 2, 0⟩ := by
  simp [groupAsk, h]

end Groups


section Words
variable (hword : wordRun s = some r)
include hword

theorem exec_group (ga gb : BitVec 6) (join : Bool) :
    exec (if join then .join ga gb else .leave ga gb) s = .next (s.groupWord r join (r.getG gb)) := by
  cases join <;> exact onWord_of_wordRun hword _

theorem exec_fixb (hfree : r.esc.handler = none) (gb : BitVec 6) (rl : BitVec 16) (grp : BitVec 8) :
    exec (.fixb gb rl grp) s = .next (s.fixbWord r gb rl.toNat grp.toNat) :=
  (onWord_of_wordRun hword _).trans (congrArg Host.Outcome.next (notInHandler_of_none hfree _))

theorem exec_fixe (hfree : r.esc.handler = none) (ga gb : BitVec 6) (grp : BitVec 8) :
    exec (.fixe ga gb grp) s = .next (s.fixeWord r gb grp.toNat) :=
  (onWord_of_wordRun hword _).trans (congrArg Host.Outcome.next (notInHandler_of_none hfree _))

theorem exec_rotate (hfree : r.esc.handler = none) (rl : BitVec 16) : exec (.rotate rl) s = .next (s.rotateWord r rl.toNat) :=
  (onWord_of_wordRun hword _).trans (congrArg Host.Outcome.next (notInHandler_of_none hfree _))

theorem exec_retract (hfree : r.esc.handler = none) (ga gb : BitVec 6) (rl : BitVec 16) :
    exec (.retract ga gb rl) s = .next (s.retractWord r gb rl.toNat) :=
  (onWord_of_wordRun hword _).trans (congrArg Host.Outcome.next (notInHandler_of_none hfree _))

theorem exec_launch (hwait : ∀ n, r.esc.wait ≠ .sent n) (ga gb gc : BitVec 6) : exec (.launch ga gb gc) s =
    .next (s.askLaunch r (r.getG gb).toNat ((List.range 8).map fun k => r.getG (BitVec.ofNat 6 (gc.toNat + k)))) := by
  refine (onWord_of_wordRun hword _).trans (congrArg Host.Outcome.next ?_)
  unfold State.launchWord
  split
  · exact absurd ‹_› (hwait _)
  · rfl
end Words

/-! ## FIXB, FIXE, ROTATE and RETRACT (06 R119, R122 to R124) -/

theorem find?_unaligned_none {hs : List Nat} (h : ∀ h ∈ hs, h % 64 = 0) : hs.find? (fun h => h % 64 != 0) = none :=
  List.find?_eq_none.mpr fun x hx => by simp [h x hx]

section Fixpoints
variable (hidle : r.esc.wait = .idle) (hdrain : s.drainOf r (fun _ => true) = .ok)
include hidle hdrain

theorem fixbWord_idle (gb : BitVec 6) (rl grp : Nat) : s.fixbWord r gb rl grp = match s.fixbStop r (s.rlist r rl).2 with
    | some w => s.stopWord r.id w
    | none => s.sendWait r.id (.opening ((s.rlist r rl).2.map fun _ => (true, false))) := by
  unfold State.fixbWord
  rw [hidle]
  exact whenDrained_ok hdrain _

theorem fixeWord_idle {gb : BitVec 6} {grp : Nat} (hgrp : gb = 0 ∨ r.esc.fix = some (s.fixGroup r gb grp)) : s.fixeWord r gb grp =
    match s.contribute r (s.fixGroup r gb grp) true r.promoted (((r.sent : Int) - r.applied) - ((r.base.1 : Int) - r.base.2)) with
      | none => s
      | some t => t.sendWait r.id .sum := by
  unfold State.fixeWord
  rw [hidle]
  refine (if_neg ?_).trans (whenDrained_ok hdrain _)
  rintro ⟨hgb, hfix⟩
  exact hgrp.elim hgb hfix

theorem rotateWord_idle (rl : Nat) : s.rotateWord r rl = match s.rotateStop r (s.rlist r rl).2 with
    | some w => s.stopWord r.id w
    | none => s.sendWait r.id (.rotating ((s.rlist r rl).2.map fun _ => (true, false))) := by
  unfold State.rotateWord
  rw [hidle]
  exact whenDrained_ok hdrain _
end Fixpoints

theorem fixeWord_otherGroup (hidle : r.esc.wait = .idle) {gb : BitVec 6} {grp : Nat} (hgb : gb ≠ 0)
    (hfix : r.esc.fix ≠ some (s.fixGroup r gb grp)) : s.fixeWord r gb grp = s.takeTrap r.id .fixgrp (FaultInfo.atWord .fixgrp) := by
  unfold State.fixeWord
  rw [hidle]
  exact if_pos ⟨hgb, hfix⟩

theorem rotateStop_none {hs : List Nat} (howner : s.noOwner r hs = none)
    (h : ∀ h ∈ hs, h % 64 = 0 ∧ s.notHash r h = false ∧ ∃ x, s.relHold r.slot h = some x ∧ hdrOpen x.hdr = true) :
    s.rotateStop r hs = none := by
  have hhash : hs.find? (s.notHash r) = none := List.find?_eq_none.mpr fun x hx => by simp [(h x hx).2.1]
  have hopen : hs.find? (s.notOpen r) = none := List.find?_eq_none.mpr fun x hx => by
    obtain ⟨_, _, y, hy, ho⟩ := h x hx
    simp [State.notOpen, hy, ho]
  rw [State.rotateStop, find?_unaligned_none fun x hx => (h x hx).1, hhash, howner, hopen]

theorem retractWord_checks {gb : BitVec 6} {rl : Nat} {x : List (Nat × Line) × List (BitVec 256)} (hwait : r.esc.wait ≠ .retracting)
    (hx : s.retractCheck r rl (r.getG gb) = .ok x) : s.retractWord r gb rl = s.setWait r.id .retracting := by
  unfold State.retractWord
  split
  · exact absurd ‹_› hwait
  · rw [hx]

/-- A contribution to a group of another module leaves with a tag. -/
theorem contribute_far {g : BitVec 20} {n : Nat} {bal : Int} (hfar : s.farGroup (g.setWidth 64) = true) :
    (s.freeTag = none → s.contribute r g true n bal = none)
      ∧ (s.freeTag ≠ none →
        ∃ t, s.contribute r g true n bal = some t ∧ t.runs = s.runs ∧ t.chip.tags.length = s.chip.tags.length + 1) := by
  unfold State.contribute
  rw [if_pos hfar]
  refine ⟨fun hnone => request_noTag hnone .., fun hsome => ?_⟩
  obtain ⟨k, hk⟩ := Option.ne_none_iff_exists'.mp hsome
  obtain ⟨u, f, hu, hruns, _, htags, _⟩ := request_tag hk 7 (groupHome g) 0 0 GroupOp.fixe.code 1 32
    (groupPayload g false false (s.identity r.id) n bal (((r.passes.find? fun p => p.1 == g).map (·.2)).getD 0)) (.sum r.id) none
  exact ⟨u, hu, hruns, by rw [htags, List.length_append, List.length_singleton]⟩

theorem groupOp_code (join : Bool) : BitVec.ofNat 8 (if join then GroupOp.join else GroupOp.leave).code = if join then 0x0E else 0x0F := by
  cases join <;> rfl

/-- Settles O13: each word asks once, by the branch that it takes. -/
theorem requestWords : Obligations.RequestWords := by
  intro s r hword
  have hrun := run?_of_wordRun hword
  refine ⟨?group, ?again, ?launch, ?fix, ?retract⟩
  case group =>
    intro ga gb join hwait
    rw [exec_group hword]
    have hreqs : ∀ {t : State}, t.adm.greqs = s.adm.greqs ++ [groupAsk join (r.getG gb) s r] →
        (s.noSuchName join (r.getG gb) = true → t.adm.greqs = s.adm.greqs ++ [⟨s.ord.nextId, r.id, false, join, r.getG gb, true, 2, 0⟩])
        ∧ (s.noSuchName join (r.getG gb) = false → t.adm.greqs = s.adm.greqs ++
          [⟨s.ord.nextId, r.id, !s.noSuchName join (r.getG gb) && s.farGroup (r.getG gb), join, r.getG gb, false, 0, 0⟩]) :=
      fun ht => ⟨fun h => groupAsk_nameless h ▸ ht, fun h => groupAsk_named h ▸ ht⟩
    refine ⟨fun hgo => ?_, fun hfar hnone => congrArg Host.Outcome.next ?_⟩
    · cases hfar : (!s.noSuchName join (r.getG gb) && s.farGroup (r.getG gb)) with
      | false =>
        obtain ⟨hq, hg, hc⟩ := recorded_spec (q := groupAsk join (r.getG gb) s r) (t := s.fresh.2) hrun
        refine ⟨_, _, congrArg Host.Outcome.next (groupWord_here hwait hfar), hq, rfl, rfl, rfl, rfl, (hreqs hg).1, hfar ▸ (hreqs hg).2,
          fun _ => hc, fun k hfalse => ?_⟩
        cases hfalse
      | true =>
        obtain ⟨k, hk⟩ := Option.ne_none_iff_exists'.mp (hgo.resolve_left (by simp [hfar]))
        obtain ⟨u, f, hu, hruns, hadm, htags, hflits, hdst, htag, haop⟩ := request_tag (s := s.fresh.2) hk 7 (groupHome ((r.getG gb).setWidth 20))
          0 0 (if join then GroupOp.join else GroupOp.leave).code 1 32 (groupWords (r.getG gb) s r) (.group s.ord.nextId) none
        have hrun' : u.run? r.id = some r := by
          rw [State.run?, hruns]
          exact hrun
        obtain ⟨hq, hg, hc⟩ := recorded_spec (q := groupAsk join (r.getG gb) s r) hrun'
        rw [hadm] at hg
        refine ⟨_, _, congrArg Host.Outcome.next (groupWord_far hwait hfar hu), hq, rfl, rfl, rfl, rfl, (hreqs hg).1, hfar ▸ (hreqs hg).2,
          Bool.noConfusion, fun j _ hj => ?_⟩
        obtain rfl := Option.some.inj (hk.symm.trans hj)
        rw [hc]
        exact ⟨htags, f, hflits, hdst, htag, haop.trans (groupOp_code join)⟩
    · exact groupWord_noTag hwait hfar (groupFlit_noTag hnone)
  case again =>
    intro ga gb n hsent
    exact ⟨(exec_group hword ga gb true).trans (congrArg Host.Outcome.next (groupWord_sent hsent)),
      (exec_group hword ga gb false).trans (congrArg Host.Outcome.next (groupWord_sent hsent))⟩
  case launch => exact fun ga gb gc hwait => exec_launch hword hwait ga gb gc
  case fix =>
    intro hfree hidle hdrain
    refine ⟨fun gb rl grp => ?fixb, fun ga gb grp hgrp => ?fixe, fun ga gb grp hgb hfix => ?fixgrp, fun rl howner hrels => ?rotate⟩
    case fixb =>
      rw [exec_fixb hword hfree, fixbWord_idle hidle hdrain]
      refine ⟨fun halign howner => ?_, fun h hfind => ?_, fun h halign howner => ?_⟩
      · simp only [State.fixbStop, find?_unaligned_none halign, howner]
      · simp only [State.fixbStop, hfind]
        rfl
      · simp only [State.fixbStop, find?_unaligned_none halign, howner]
        rfl
    case fixe =>
      rw [exec_fixe hword hfree, fixeWord_idle hidle hdrain hgrp]
      refine ⟨fun hnear => ?_, fun hfar => ⟨fun hnone => ?_, fun hsome => ?_⟩⟩
      · simp only [State.contribute, hnear, Bool.false_eq_true, ↓reduceIte]
      · rw [(contribute_far hfar).1 hnone]
      · obtain ⟨t, ht, hruns, htags⟩ := (contribute_far hfar).2 hsome
        exact ⟨t, ht, by rw [ht], hruns, htags⟩
    case fixgrp =>
      rw [exec_fixe hword hfree, fixeWord_otherGroup hidle hgb hfix]
    case rotate =>
      rw [exec_rotate hword hfree, rotateWord_idle hidle hdrain, rotateStop_none howner hrels]
  case retract =>
    intro ga gb rl x hfree hwait hx
    rw [exec_retract hword hfree, retractWord_checks hwait hx]

end Sys2Proof.Proofs.RequestSent
end

section
/-! ISSUE, UNPARK, translation faults, ATS and PRI (08 R149 to R151, 21 R348 to R352): each event is one branch of its function (O17). -/

namespace Sys2Proof.Proofs.Translation
open Sys2Proof.Machine Sys2Proof.Laws Sys2Proof.Proofs.AcquireRelease

variable {s : State} {id : Nat} {a : Access} {r : Run}

/-- An access that has changed is found by its number. -/
theorem acc?_modAcc {f : Access → Access} (h : s.acc? id = some a) (hid : ∀ x, (f x).id = x.id) : (s.modAcc id f).acc? id = some (f a) := by
  have hsame : ((fun x : Access => x.id == id) ∘ fun x => if x.id = id then f x else x) = fun x => x.id == id := by
    funext x
    simp only [Function.comp]
    split <;> simp [hid]
  have hfind : (s.ord.accs.map fun x => if x.id = id then f x else x).find? (fun x => x.id == id)
      = (s.ord.accs.find? fun x => x.id == id).map fun x => if x.id = id then f x else x := by
    rw [List.find?_map, hsame]
  refine hfind.trans ?_
  rw [State.acc?] at h
  rw [h, Option.map_some, if_pos (id_of_acc? (s := s) h)]

section Known
variable (hacc : s.acc? id = some a) (hrun : s.run? a.run = some r)
include hacc hrun

/-! ## ISSUE (08 R149 to R151) -/

section Issue
variable (hres : r.st = .resident) (hstage : a.stage = .queued)

theorem issue_blocked (hblocked : s.blocked r a = true) : s.issue id = s := by
  simp only [State.issue, hacc, hrun, hblocked, or_true, ↓reduceIte]

include hres hstage

theorem issue_unaddressed (hblocked : s.blocked r a = false) (haddr : a.addressed = false) :
    s.issue id = s.modAcc id fun x => { x with stage := .pending } := by
  simp only [State.issue, hacc, hrun, hres, hstage, hblocked, haddr, ne_eq, not_true_eq_false, Bool.false_eq_true, or_self, Bool.not_false,
    ↓reduceIte]

/-- Nothing queued before it at its port: the access goes on with its own translation. -/
theorem issue_head (hblocked : s.blocked r a = false) (haddr : a.addressed = true) (hplace : a.place = none)
    (hahead : ∀ b ∈ s.earlier a, b.port = a.port → b.stage ≠ .queued) :
    s.issue id = (s.cached r a).elim (s.modAcc id fun x => { x with stage := .parked })
      fun p => s.modAcc id fun x => { x with stage := .pending, place := some p } := by
  have hnone : (s.earlier a).filter (fun b => b.port == a.port && b.stage == .queued && b.addressed && b.place.isNone) = [] :=
    List.filter_eq_nil_iff.mpr fun b hb => by
      by_cases hport : b.port = a.port
      · simp [hahead b hb hport]
      · simp [hport]
  simp only [State.issue, hacc, hrun, hres, hstage, hblocked, haddr, hplace, hnone, List.any_nil, List.foldl_nil, ne_eq,
    not_true_eq_false, Bool.false_eq_true, or_self, Bool.not_true, ↓reduceIte, Option.orElse_none]
  cases s.cached r a <;> rfl
end Issue

/-! ## A parked access and its walk (21 R348 to R350) -/

section Parked
variable (hstage : a.stage = .parked) (hats : a.ats = 0) (hfault : a.fault = none)
include hstage hats hfault

theorem unpark_local {l : Leaf} (hwalk : s.walkOn r.slot a.va a.walked = .ok l) (hrights : rightsOk a.kind l.pte = true)
    (htgt : pteTgt l.pte ≠ 2) : s.unpark id = (s.tlbFill r.die (some (r.portOf a.port)) r.slot a.va l).modAcc id fun x =>
      { x with stage := .pending, place := some (leafPlace l a.va), walked := none } := by
  simp only [State.unpark, hacc, hrun, hstage, hats, hfault, hwalk, hrights, htgt, ne_eq, not_true_eq_false, Option.isSome_none,
    Bool.false_eq_true, or_self, Bool.not_true, ↓reduceIte]

theorem unpark_ats {l : Leaf} (hwalk : s.walkOn r.slot a.va a.walked = .ok l) (hrights : rightsOk a.kind l.pte = true)
    (htgt : pteTgt l.pte = 2) (hcached : s.cached r a = none) :
    s.unpark id = (s.toHost 1 (askBytes r.slot l.pte)).modAcc id fun x => { x with ats := 1, walked := none } := by
  simp only [State.unpark, hacc, hrun, hstage, hats, hfault, hwalk, hrights, htgt, hcached, ne_eq, not_true_eq_false, Option.isSome_none,
    Bool.false_eq_true, or_self, Bool.not_true, ↓reduceIte]

theorem unpark_failing {e : WalkFault} (hwalk : s.walkOn r.slot a.va a.walked = .error e) : s.unpark id = s := by
  simp only [State.unpark, hacc, hrun, hstage, hats, hfault, hwalk, ne_eq, not_true_eq_false, Option.isSome_none, Bool.false_eq_true,
    or_self, ↓reduceIte]

variable (hres : r.st = .resident)
include hres

theorem translationFault_failing {e : WalkFault} (hwalk : s.walkOn r.slot a.va a.walked = .error e) :
    s.translationFault id = s.faultAcc a e.fault e.level 0 e.entry.toNat := by
  simp only [State.translationFault, hacc, hrun, hstage, hats, hfault, hwalk, hres, ne_eq, not_true_eq_false, or_self, ↓reduceIte]

theorem translationFault_rights {l : Leaf} (hwalk : s.walkOn r.slot a.va a.walked = .ok l) (hrights : rightsOk a.kind l.pte = false) :
    s.translationFault id = s.faultAcc a .rights l.level 0 l.pte.toNat := by
  simp only [State.translationFault, hacc, hrun, hstage, hats, hfault, hwalk, hrights, hres, ne_eq, not_true_eq_false, Bool.false_eq_true,
    or_self, ↓reduceIte]
end Parked

/-! ## ATS and PRI (21 R351, R352) -/

section Host
variable (hstage : a.stage = .parked)
include hstage

theorem atsResponse_present (hats : a.ats = 1) {l : Leaf} (hwalk : s.walk r.slot a.va = .ok l) (frame : BitVec 52) :
    s.atsResponse id true frame = (s.tlbFill r.die none r.slot a.va { l with grant := frame.setWidth 64 }).modAcc id fun x =>
      { x with stage := .pending, ats := 0, place := some (.host (frame.toNat * 4096 + a.va % 2 ^ l.size)) } := by
  simp only [State.atsResponse, hacc, hrun, hstage, hats, hwalk, ne_eq, not_true_eq_false, or_self, ↓reduceIte]

theorem atsResponse_absent (hats : a.ats = 1) {l : Leaf} (hwalk : s.walk r.slot a.va = .ok l) (frame : BitVec 52)
    (hroom : s.ord.accs.countP (fun x => x.ats == 2) < 256) :
    s.atsResponse id false frame = (s.toHost 2 (askBytes r.slot l.pte)).modAcc id fun x => { x with ats := 2, poll := s.cycle } := by
  simp only [State.atsResponse, hacc, hrun, hstage, hats, hwalk, ne_eq, not_true_eq_false, or_self, Bool.false_eq_true, ↓reduceIte]
  exact if_neg (Nat.not_le.mpr hroom)

variable (hats : a.ats = 2)
include hats

theorem priResponse_granted : s.priResponse id true false = (s.modAcc id fun x => { x with ats := 0 }).unpark id := by
  simp only [State.priResponse, hacc, hrun, hstage, hats, ne_eq, not_true_eq_false, Bool.false_eq_true, false_and, or_self, ↓reduceIte]

theorem priResponse_denied {late : Bool} (hlate : late = true → a.poll + 2 ^ 24 ≤ s.cycle) :
    s.priResponse id false late = s.faultAcc { a with ats := 0 } .hostdeny 0 0 0 := by
  have hin : ¬(late = true ∧ s.cycle < a.poll + 2 ^ 24) := fun ⟨hl, hlt⟩ => by
    have := hlate hl
    omega
  simp only [State.priResponse, hacc, hrun, hstage, hats, hin, ne_eq, not_true_eq_false, Bool.false_eq_true, or_self, ↓reduceIte]
end Host
end Known

/-! ## The entries of a walk one by one -/

/-- After an entry that leads to a table, what is left of the walk comes to the same. -/
theorem walkFrom_table {tenant : BitVec 128} {carea va lv table t : Nat} (h : walkEntry s tenant carea va lv table = .ok (.table t)) :
    walkFrom s tenant carea va lv table = walkFrom s tenant carea va (lv - 1) t := by
  cases lv with
  | zero => rfl
  | succ n => simp only [walkFrom, h, Nat.add_sub_cancel]

/-- A walk that has read nothing stands at the root. -/
theorem walkOn_getD {slot va : Nat} {d : Line} {at_ : Option (Nat × Nat)} (hd : s.ctx? slot = some d) (hva : va < 2 ^ 57) :
    s.walkOn slot va at_ = walkFrom s (s.tenant (ctxTenant d)) (ctxArea d) va (at_.getD (5, ctxRoot d)).1 (at_.getD (5, ctxRoot d)).2 := by
  cases at_ with
  | none =>
    rw [State.walkOn, State.walk, if_neg (Nat.not_le.mpr hva), hd]
    rfl
  | some p =>
    rw [State.walkOn, hd]
    rfl

/-- An access whose walk has come to a table. -/
def walkedTo (p : Nat × Nat) (x : Access) : Access := { x with walked := some p }

/-- One entry of a walk is read, or nothing happens. -/
theorem walkNext_cases (hacc : s.acc? id = some a) (hrun : s.run? a.run = some r) : s.walkNext id = s
    ∨ ∃ d t, s.ctx? r.slot = some d ∧ a.va < 2 ^ 57
      ∧ walkEntry s (s.tenant (ctxTenant d)) (ctxArea d) a.va (a.walked.getD (5, ctxRoot d)).1 (a.walked.getD (5, ctxRoot d)).2 = .ok (.table t)
      ∧ s.walkNext id = s.modAcc id (walkedTo ((a.walked.getD (5, ctxRoot d)).1 - 1, t)) := by
  cases hd : s.ctx? r.slot with
  | none =>
    left
    simp only [State.walkNext, hacc, hrun, hd]
  | some d =>
    simp only [State.walkNext, hacc, hrun, hd]
    split
    · exact .inl rfl
    · rename_i hcan
      simp only [not_or, Nat.not_le] at hcan
      obtain ⟨_, _, _, hva, _⟩ := hcan
      split
      · exact .inr ⟨d, _, rfl, hva, ‹_›, rfl⟩
      · exact .inl rfl

/-- Settles O17: each event is one branch of its function; a walk read entry by entry is the walk itself, unfolded. -/
theorem issueAndTranslation : Obligations.IssueAndTranslation := by
  intro s id a r hacc hrun hres
  refine ⟨fun hstage hblocked => ⟨?plain, fun haddr hplace hahead => ?addressed⟩, ?blocked, fun hstage hats hfault => ?walk,
    fun hstage hats l frame hwalk => ?ats, fun hstage hats hfault => ?entry, fun hstage hats => ?pri⟩
  case plain => exact fun haddr => congrArg Host.Outcome.next (issue_unaddressed hacc hrun hres hstage hblocked haddr)
  case addressed =>
    have hissue := issue_head hacc hrun hres hstage hblocked haddr hplace hahead
    refine ⟨fun p hp => ?_, fun hp => ?_⟩
    · rw [exec_issue, hissue, hp, Option.elim_some]
    · rw [exec_issue, hissue, hp, Option.elim_none]
  case blocked => exact fun _ hblocked => congrArg Host.Outcome.next (issue_blocked hacc hrun hblocked)
  case walk =>
    refine ⟨fun l hwalk hrights => ⟨fun htgt => ?_, fun htgt hcached => ?_⟩, fun e hwalk => ⟨?_, ?_⟩, fun l hwalk hrights => ?_⟩
    · exact congrArg Host.Outcome.next (unpark_local hacc hrun hstage hats hfault hwalk hrights htgt)
    · exact congrArg Host.Outcome.next (unpark_ats hacc hrun hstage hats hfault hwalk hrights htgt hcached)
    · exact congrArg Host.Outcome.next (translationFault_failing hacc hrun hstage hats hfault hres hwalk)
    · exact congrArg Host.Outcome.next (unpark_failing hacc hrun hstage hats hfault hwalk)
    · exact congrArg Host.Outcome.next (translationFault_rights hacc hrun hstage hats hfault hres hwalk hrights)
  case ats =>
    exact ⟨congrArg Host.Outcome.next (atsResponse_present hacc hrun hstage hats hwalk frame),
      fun hroom => congrArg Host.Outcome.next (atsResponse_absent hacc hrun hstage hats hwalk frame hroom)⟩
  case entry =>
    obtain hsame | ⟨d, t, hd, hva, hentry, hnext⟩ := walkNext_cases hacc hrun
    · rw [hsame]
      refine ⟨rfl, rfl, rfl, fun b hb => ?_⟩
      obtain rfl := Option.some.inj (hacc.symm.trans hb)
      exact ⟨rfl, rfl⟩
    · rw [hnext]
      refine ⟨rfl, rfl, rfl, fun b hb => ?_⟩
      have hfound := acc?_modAcc (f := walkedTo ((a.walked.getD (5, ctxRoot d)).1 - 1, t)) hacc fun _ => rfl
      obtain rfl := Option.some.inj (hfound.symm.trans hb)
      exact ⟨rfl, (walkOn_getD hd hva).trans ((walkFrom_table hentry).symm.trans (walkOn_getD hd hva).symm)⟩
  case pri =>
    exact ⟨congrArg Host.Outcome.next (priResponse_granted hacc hrun hstage hats),
      congrArg Host.Outcome.next (priResponse_denied hacc hrun hstage hats Bool.noConfusion),
      fun hlate => congrArg Host.Outcome.next (priResponse_denied hacc hrun hstage hats fun _ => hlate)⟩

end Sys2Proof.Proofs.Translation
end

section
/-! PERFORM of every kind of access, polls and the phase gate (08 R152 to R157, 07 R139, 13 R276 to R278, 24 R387; O19). -/

namespace Sys2Proof.Proofs.Performs
open Sys2Proof.Machine Sys2Proof.Laws Sys2Proof.Proofs.AcquireRelease Sys2Proof.Proofs.Translation

variable {s : State} {id : Nat} {a : Access} {r : Run} {p : Place}

/-! ## At the place of an access (08 R152 to R157) -/

section AtPlace
variable {bs : List Byte} {psn : Bool} (hunits : a.units = []) (hpsn : a.psn = false) (hread : s.placeRead p a.width = some (bs, psn))

include hunits hpsn hread in
/-- A load none of whose units has performed replies with the bytes of its place. -/
theorem performAt_load (hkind : a.kind = .load) :
    s.performAt a r p = (s.noteAt (some (s.identity a.run)) p a.width).loadDone a bs psn := by
  have hbytes : (bs.zipIdx.map fun q => q.1) = bs := List.zipIdx_map_fst 0 bs
  simp [State.performAt, hkind, hunits, hpsn, hread, hbytes]

include hunits hpsn hread in
/-- An LDSYNC of a full location replies as a load does (R154). -/
theorem performAt_ldsync_full (hkind : a.kind = .ldsync) (hfull : ∀ x, p = .hbm x → s.isFull x = true) :
    s.performAt a r p = (s.noteAt (some (s.identity a.run)) p a.width).loadDone a bs psn := by
  have hbytes : (bs.zipIdx.map fun q => q.1) = bs := List.zipIdx_map_fst 0 bs
  cases p with
  | hbm x => simp [State.performAt, hkind, hunits, hpsn, hread, hbytes, hfull x rfl]
  | _ => simp [State.performAt, hkind, hunits, hpsn, hread, hbytes]

include hread in
theorem performAt_ldsync_empty {x : Nat} (hkind : a.kind = .ldsync) (hp : p = .hbm x) (hempty : s.isFull x = false) :
    s.performAt a r p = s := by
  simp [State.performAt, hkind, hp ▸ hread, hp, hempty]

include hunits in
theorem performAt_store (hkind : a.kind = .store) : s.performAt a r p = (s.storeRuns a r p).doneToken a := by
  simp [State.performAt, hkind, hunits]
end AtPlace

theorem performAt_sete {x : Nat} (hkind : a.kind = .sete) : s.performAt a r (.hbm x) = (s.setEmpty x).doneToken a := by
  simp only [State.performAt, hkind]

theorem performAt_atomic {o : Nat} (hkind : a.kind = .atomic o) (hhops : o = 0xBA ∨ o = 0xBB → 2 ≤ a.hops)
    (howner : s.rangeOwner r.slot a.va = none) :
    s.performAt a r p = (s.noteAt (some (s.identity a.run)) p a.width).atomicAt a r p := by
  have hthrough : ¬((o = 0xBA ∨ o = 0xBB) ∧ a.hops < 2) := fun ⟨ho, hlt⟩ => by
    have := hhops ho
    omega
  simp only [State.performAt, hkind, hthrough, howner, ↓reduceIte]

theorem performAt_waita {bs : List Byte} {psn : Bool} (hkind : a.kind = .waita) (hread : s.placeRead p 4 = some (bs, psn)) :
    s.performAt a r p = (s.noteAt (some (s.identity a.run)) p 4).waitaAt a p (BitVec.ofNat 32 (bytesNat bs)) psn true := by
  simp only [State.performAt, hkind, hread]

theorem performAt_wakea {x : Nat} (hkind : a.kind = .wakea) : s.performAt a r (.hbm x) = s.wakeaAt a x := by
  simp only [State.performAt, hkind]

theorem performAt_pin {x : Nat} (hkind : a.kind = .pin) : s.performAt a r (.hbm x) = s.pinAt a r x := by
  simp only [State.performAt, hkind]

theorem performAt_unpin (hkind : a.kind = .unpin) : s.performAt a r p = s.unpinAt a r := by
  simp only [State.performAt, hkind]

/-! ## Fences, requests to engines and tokens for the host -/

section NoAddress
variable (hrun : s.run? a.run = some r) (hstage : a.stage = .pending)
include hrun hstage

theorem performAcc_fence {sc : Nat} (hkind : a.kind = .fence sc) :
    s.performAcc a = if s.fenceReady r a sc then s.doneToken a else s := by
  simp only [State.performAcc, hrun, hstage, hkind, ne_eq, not_true_eq_false, ↓reduceIte]

theorem performAcc_request (hkind : a.kind ∈ [AccKind.xfer, .stash, .unstash, .send, .postr, .probeq, .cancelr]) :
    s.performAcc a = s.requestAt a r := by
  simp only [List.mem_cons, List.not_mem_nil, or_false] at hkind
  obtain hk | hk | hk | hk | hk | hk | hk := hkind <;>
    simp only [State.performAcc, hrun, hstage, hk, ne_eq, not_true_eq_false, ↓reduceIte]

theorem performAcc_egress (hkind : a.kind = .egress) : s.performAcc a = s.egressAt a r := by
  simp only [State.performAcc, hrun, hstage, hkind, ne_eq, not_true_eq_false, ↓reduceIte]

/-- Outside waves an access whose address leads to another module leaves for it. -/
theorem performAcc_remote {m x : Nat} {g : W64} (haddr : a.addressed = true) (hplace : a.place = some (.remote m x g))
    (hwave : a.wave = none) (hfree : s.conflicts (placeKey (.remote m x g)) a.kind.writes none = []) :
    s.performAcc a = s.sendRemote a m x g := by
  simp only [State.performAcc, hrun, hstage, hplace, hwave, hfree, Option.isSome_none, List.isEmpty_nil, ne_eq, not_true_eq_false,
    Bool.not_true, Bool.false_eq_true, ↓reduceIte]
  split
  case h_10 => rfl
  all_goals
    rename_i hkind
    simp [Access.addressed, hkind] at haddr
end NoAddress

/-! ## Accesses to another module (24 R387) -/

/-- A request leaves with the free tag as a flit of its fields, and what the accesses and memory are stays. -/
theorem request_flit {k : Nat} (htag : s.freeTag = some k) (type : Byte) (m x : Nat) (g : W64) (aop nreq len : Nat) (p : Line)
    (what : Requester) : ∃ u f, s.request type m g x aop nreq len p what none = some u ∧ u.ord = s.ord ∧ u.mem = s.mem
      ∧ u.chip.tags = s.chip.tags ++ [⟨k, m, what, none⟩] ∧ u.chip.flits = s.chip.flits ++ [(type, f)] ∧ f.aop = BitVec.ofNat 8 aop
      ∧ f.addr = BitVec.ofNat 52 x ∧ f.dst = BitVec.ofNat 8 m ∧ f.grant = g ∧ f.tag = BitVec.ofNat 12 k := by
  rw [State.request, htag]
  exact ⟨_, _, rfl, rfl, rfl, rfl, rfl, rfl, rfl, rfl, rfl, rfl⟩

/-- What a state and a flit are after an access has left for address `x` of module `m`. -/
structure Flown (s t : State) (a : Access) (id k m x : Nat) (g : W64) (type aop : Byte) : Prop where
  sent : ∃ f : Flit, t.chip.flits = s.chip.flits ++ [(type, f)] ∧ f.aop = aop ∧ f.addr = BitVec.ofNat 52 x ∧ f.dst = BitVec.ofNat 8 m
    ∧ f.grant = g ∧ f.tag = BitVec.ofNat 12 k
  tags : t.chip.tags = s.chip.tags ++ [⟨k, m, .acc id, none⟩]
  acc : t.acc? id = some { a with stage := .flying }
  mem : t.mem = s.mem

/-- An access that has left. -/
def inFlight (x : Access) : Access := { x with stage := .flying }

theorem fly_flown {k : Nat} (hacc : s.acc? id = some a) (htag : s.freeTag = some k) (m x : Nat) (g : W64) (type : Byte) (aop len : Nat)
    (payload : Line) : Flown s (s.fly a m x g type aop len payload) a id k m x g type (BitVec.ofNat 8 aop) := by
  obtain rfl : a.id = id := id_of_acc? hacc
  obtain ⟨u, f, hu, hord, hmem, htags, hflits, hf⟩ := request_flit htag type m x g aop 1 len payload (.acc a.id)
  have hfound : u.acc? a.id = some a := by
    rw [State.acc?, hord]
    exact hacc
  have hfly : s.fly a m x g type aop len payload = u.modAcc a.id inFlight := by
    unfold State.fly
    split
    · rename_i t ht
      obtain rfl := Option.some.inj (hu.symm.trans ht)
      rfl
    · rename_i ht
      cases hu.symm.trans ht
  rw [hfly]
  exact ⟨⟨f, hflits, hf⟩, htags, acc?_modAcc (f := inFlight) hfound fun _ => rfl, hmem⟩

/-- The kinds of access that travel whole, with the type and AOP of their flit. -/
def remoteRows : List (AccKind × Byte × Byte) :=
  [(.load, 1, 0), (.acquire, 1, 0), (.ldsync, 1, 0xB4), (.waita, 1, 0xC4), (.wakea, 5, 0xC5), (.sete, 3, 0)]

theorem sendRemote_flown {k : Nat} (hacc : s.acc? id = some a) (htag : s.freeTag = some k) (m x : Nat) (g : W64) :
    ∀ row ∈ remoteRows, a.kind = row.1 → a.addressed = true ∧ Flown s (s.sendRemote a m x g) a id k m x g row.2.1 row.2.2 := by
  have flown (type : Byte) (aop len : Nat) (payload : Line) := fly_flown hacc htag m x g type aop len payload
  simp only [remoteRows, List.forall_mem_cons]
  refine ⟨fun hk => ?_, fun hk => ?_, fun hk => ?_, fun hk => ?_, fun hk => ?_, fun hk => ?_, List.forall_mem_nil _⟩
  all_goals
    simp only [State.sendRemote, Access.addressed, hk]
    exact ⟨trivial, flown ..⟩

/-! ## Polls and gates -/

section Poll
variable {x : Nat} {bs : List Byte} {psn : Bool} (hacc : s.acc? id = some a) (hplace : a.place = some (.hbm x)) (hstage : a.stage = .polling)
  (hread : s.placeRead (.hbm x) 4 = some (bs, psn))
include hacc hplace hstage hread

/-- A poll of a WAITA whose bucket has been woken ends it. -/
theorem waitaPoll_woken (hepoch : s.epoch (homeDie x) (bucketOf a.va) ≠ a.epoch) :
    s.waitaPoll id = s.waitaDone a (BitVec.ofNat 32 (bytesNat bs)) psn 1 := by
  have hmoved : (s.epoch (homeDie x) (bucketOf a.va) != a.epoch) = true := bne_iff_ne.mpr hepoch
  simp only [State.waitaPoll, hacc, hplace, hstage, hread, hmoved, ne_eq, not_true_eq_false, ↓reduceIte]

/-- One whose time has come looks again. -/
theorem waitaPoll_due (hepoch : s.epoch (homeDie x) (bucketOf a.va) = a.epoch) (hdue : a.poll ≤ s.cycle) :
    s.waitaPoll id = s.waitaAt a (.hbm x) (BitVec.ofNat 32 (bytesNat bs)) psn false := by
  have hmoved : (s.epoch (homeDie x) (bucketOf a.va) != a.epoch) = false := bne_eq_false_iff_eq.mpr hepoch
  simp only [State.waitaPoll, hacc, hplace, hstage, hread, hmoved, hdue, ne_eq, not_true_eq_false, Bool.false_eq_true, ↓reduceIte]
end Poll

/-- The gate opens with nothing before it outstanding. -/
theorem gateOpen_clear {run g n : Nat} (hrun : s.run? run = some r) (hgate : r.gates.find? (fun x => x.1 == g) = some (n, none))
    (haccs : ∀ a ∈ s.ord.accs, a.run = run → n < a.serial) (hreqs : ∀ q ∈ s.ord.reqs, q.run = run → q.willWrite = true → n < q.serial)
    (hbuf : ∀ w ∈ s.ord.wbuf, w.run = run → n < w.serial) (hpin : r.pinned = none ∨ r.st = .resident) :
    s.gateOpen run g = match r.pinned with
      | none => s.modRun run fun r => { r with gates := r.gates.filter fun x => x.1 != g, pinned := none }
      | some (port, va) => (s.modRun run fun r => { r with gates := r.gates.filter fun x => x.1 != g, pinned := none }).takeTrap run .wpinned
          { FaultInfo.base Trap.wpinned.code 1 with va := va, port := port } := by
  have hopen : ¬((s.ord.accs.any (fun a => a.run == run && (decide (a.serial ≤ n) && ((none : Option Nat).isNone
        || ((s.site a.elem).map (·.load.cfg)) == none)))
      || s.ord.reqs.any (fun q => q.run == run && q.willWrite && (decide (q.serial ≤ n) && ((none : Option Nat).isNone
        || ((s.site q.elem).map (·.load.cfg)) == none)))
      || s.ord.wbuf.any (fun w => w.run == run && (decide (w.serial ≤ n) && ((none : Option Nat).isNone
        || ((s.site w.elem).map (·.load.cfg)) == none)))
      || (r.pinned.isSome && r.st != .resident)) = true) := by
    simp only [Option.isNone_none, Bool.true_or, Bool.and_true, Bool.or_eq_true, List.any_eq_true, Bool.and_eq_true, beq_iff_eq,
      decide_eq_true_eq, bne_iff_ne]
    rintro (((⟨b, hb, hbr, hle⟩ | ⟨q, hq, ⟨hqr, hw⟩, hle⟩) | ⟨w, hw, hwr, hle⟩) | ⟨hsome, hst⟩)
    · exact absurd (haccs b hb hbr) (Nat.not_lt.mpr hle)
    · exact absurd (hreqs q hq hqr hw) (Nat.not_lt.mpr hle)
    · exact absurd (hbuf w hw hwr) (Nat.not_lt.mpr hle)
    · obtain hnone | hres := hpin
      · rw [hnone] at hsome
        cases hsome
      · exact hst hres
  simp only [State.gateOpen, hrun, hgate]
  exact if_neg hopen

/-- Settles O19: an access performs by its kind at its place, or leaves for another module as a flit of its row; polls and gates are one
branch each. -/
theorem accessesPerform : Obligations.AccessesPerform := by
  refine ⟨?here, ?plain, ?remote, ?poll, ?gate⟩
  case here =>
    intro s id a r p hacc hrun hstage hplace hwave hfree hunits hpsn hhere
    have performs {t : State} (haddr : a.addressed = true) (ht : s.performAt a r p = t) : exec (.perform (.whole id)) s = .next t := by
      rw [exec_perform, perform_whole_of_acc hacc, performAcc_eq_performAt hrun hstage haddr hplace hwave hfree hhere, ht]
    have addressed {k : AccKind} (hk : a.kind = k) (h : (({ a with kind := k } : Access)).addressed = true) : a.addressed = true := by
      subst hk
      exact h
    refine ⟨fun bs psn hread => ⟨?loads, fun hk hfull => ?full, fun x hk hp hempty => ?empty⟩, ?stores, fun x hk hp => ?sete,
      fun o hk hhops howner => ?atomic, fun bs psn hk hread => ?waita, fun x hp => ⟨fun hk => ?wakea, fun hk => ?pin, fun hk => ?unpin⟩⟩
    case loads =>
      rintro (hk | hk)
      · exact performs (addressed hk rfl) (performAt_load hunits hpsn hread hk)
      · exact performs (addressed hk rfl) (performAt_acquire hk hunits hpsn hread)
    case full => exact performs (addressed hk rfl) (performAt_ldsync_full hunits hpsn hread hk hfull)
    case empty => exact performs (addressed hk rfl) (performAt_ldsync_empty hread hk hp hempty)
    case stores =>
      rintro (hk | hk)
      · exact performs (addressed hk rfl) (performAt_store hunits hk)
      · exact performs (addressed hk rfl) (performAt_release hk hunits)
    case sete => exact performs (addressed hk rfl) (hp ▸ performAt_sete hk)
    case atomic => exact performs (addressed hk rfl) (performAt_atomic hk hhops howner)
    case waita => exact performs (addressed hk rfl) (performAt_waita hk hread)
    case wakea => exact performs (addressed hk rfl) (hp ▸ performAt_wakea hk)
    case pin => exact performs (addressed hk rfl) (hp ▸ performAt_pin hk)
    case unpin => exact performs (addressed hk rfl) (performAt_unpin hk)
  case plain =>
    intro s id a r hacc hrun hstage
    have performs {t : State} (ht : s.performAcc a = t) : exec (.perform (.whole id)) s = .next t := by
      rw [exec_perform, perform_whole_of_acc hacc, ht]
    exact ⟨fun sc hk hready => performs ((performAcc_fence hrun hstage hk).trans (if_pos hready)),
      fun sc hk hwaits => performs ((performAcc_fence hrun hstage hk).trans (if_neg (by simp [hwaits]))),
      fun hk => performs (performAcc_request hrun hstage hk), fun hk => performs (performAcc_egress hrun hstage hk)⟩
  case remote =>
    intro s id k m x g a r hacc hrun hstage hplace hwave hfree htag row hrow hk
    obtain ⟨haddr, ⟨f, hflits, haop, hfaddr, hdst, hgrant, hftag⟩, htags, hfound, hmem⟩ := sendRemote_flown hacc htag m x g row hrow hk
    refine ⟨s.sendRemote a m x g, f, ?_, hflits, haop, hfaddr, hdst, hgrant, hftag, htags, hfound, hmem⟩
    rw [exec_perform, perform_whole_of_acc hacc, performAcc_remote hrun hstage haddr hplace hwave hfree]
  case poll =>
    intro s id a p bs psn hacc hplace hstage hread
    refine ⟨fun x hp hepoch => ?_, fun x hp hepoch hdue => ?_⟩
    · exact congrArg Host.Outcome.next (waitaPoll_woken hacc (hp ▸ hplace) hstage (hp ▸ hread) hepoch)
    · subst hp
      exact congrArg Host.Outcome.next (waitaPoll_due hacc hplace hstage hread hepoch hdue)
  case gate =>
    intro s run g n r hrun hgate haccs hreqs hbuf
    refine ⟨fun hpin => congrArg Host.Outcome.next ?_, fun port va hpin hres => congrArg Host.Outcome.next ?_⟩
    · rw [gateOpen_clear hrun hgate haccs hreqs hbuf (.inl hpin), hpin]
    · rw [gateOpen_clear hrun hgate haccs hreqs hbuf (.inr hres), hpin]
      rfl

end Sys2Proof.Proofs.Performs
end

section
/-! Combining points, their records, and owner nodes (06 R118, 08 R165 to R167, 13 R275; O21). -/

namespace Sys2Proof.Proofs.Combining
open Sys2Proof.Machine Sys2Proof.Laws Sys2Proof.Proofs.AcquireRelease

variable {s : State}

/-! ## Combining points (08 R165, R166) -/

section Arrival
variable {id : Nat} {a : Access} {r : Run} {p : Place} (hacc : s.acc? id = some a) (hrun : s.run? a.run = some r) (hplace : a.place = some p)
  (hstage : a.stage = .pending) (hop : a.op = 0xBA ∨ a.op = 0xBB) (hwave : a.wave = none)
include hacc hrun hplace hstage hop hwave

/-- An access that has met its last combining point performs by itself. -/
theorem faddArrival_last (hpoint : (s.pointsOf r.die r.slot a.va p)[a.hops]? = none) :
    s.faddArrival id = s.modAcc id fun x => { x with hops := 2 } := by
  have hadds : (a.op == 0xBA || a.op == 0xBB) = true := by simpa using hop
  simp only [State.faddArrival, hacc, hrun, hplace, hstage, hadds, hwave, hpoint, ne_eq, not_true_eq_false, Bool.not_true, Bool.false_eq_true,
    Option.isSome_none, or_self, ↓reduceIte]

theorem faddArrival_meets {pt : Nat} {t : State} (hpoint : (s.pointsOf r.die r.slot a.va p)[a.hops]? = some pt)
    (hmeet : s.meet pt r.slot a.va a.op 1 p (.acc id) (a.data.setWidth 64) (if a.hops = 0 then r.portOf a.port else r.die) = some t) :
    s.faddArrival id = t.modAcc id fun x => { x with stage := .combining, hops := x.hops + 1 } := by
  have hadds : (a.op == 0xBA || a.op == 0xBB) = true := by simpa using hop
  simp only [State.faddArrival, hacc, hrun, hplace, hstage, hadds, hwave, hpoint, hmeet, ne_eq, not_true_eq_false, Bool.not_true,
    Bool.false_eq_true, Option.isSome_none, or_self, ↓reduceIte]
end Arrival

section Records
variable {pt id : Nat} {b : BoomRec} (hrec : s.rec? id = some b) (hpoint : b.point = pt)
include hrec hpoint

/-- Eight cycles after its opening the window of a record ends. -/
theorem windowClose_due (hopen : b.closed = false) (hdue : b.opened + 8 ≤ s.cycle) :
    s.windowClose pt id = s.modRec id fun b => { b with closed := true } := by
  simp only [State.windowClose, hrec, hpoint, hopen, hdue, Bool.not_false, and_self, ↓reduceIte]

/-- A closed record of the last point performs, once, where it stands. -/
theorem performRec_adds (hclosed : b.closed = true) (hsent : b.sent = false) (hlast : s.nextPoint b = none)
    (hfree : s.conflicts (placeKey b.place) true none = []) (howner : s.rangeOwner b.slot b.va = none)
    (hhere : ∀ m x g, b.place ≠ .remote m x g) : s.performRec pt id = s.addRec b := by
  simp only [State.performRec, hrec, hpoint, hclosed, hsent, hlast, hfree, howner, ne_eq, not_true_eq_false, Bool.not_true,
    Bool.false_eq_true, List.isEmpty_nil, or_self, ↓reduceIte]
end Records

/-- Removing an access leaves those of other numbers. -/
theorem acc?_finish_ne {a : Access} {j : Nat} (hne : j ≠ a.id) (f : OutItem → List OutItem) : (s.finish a f).acc? j = s.acc? j := by
  refine (List.find?_filter (xs := s.ord.accs)).trans ?_
  congr 1
  funext x
  by_cases hx : x.id = j
  · simp [hx, hne]
  · simp [hx]

/-- A reply to an atomic ends its access. -/
theorem atomDone_finish (a : Access) (old : W64) (lost psn : Bool) : ∃ f, s.atomDone a old lost psn = s.finish a f := by
  unfold State.atomDone
  dsimp only
  split
  · exact ⟨_, rfl⟩
  · split
    · exact ⟨_, rfl⟩
    · split <;> exact ⟨_, rfl⟩

theorem acc?_atomDone_ne {a : Access} {j : Nat} (hne : j ≠ a.id) (old : W64) (lost psn : Bool) :
    (s.atomDone a old lost psn).acc? j = s.acc? j := by
  obtain ⟨f, hf⟩ := atomDone_finish (s := s) a old lost psn
  rw [hf, acc?_finish_ne hne]

/-- The record leaves the table. -/
def withoutRec (s : State) (id : Nat) : State := { s with ord := { s.ord with boom := s.ord.boom.filter fun x => x.id != id } }

/-- The reply to two word adds: the first receives the old word, the second that with the first's increment (08 R166). -/
theorem split_pair {pt id i j ci cj ni nj : Nat} {b : BoomRec} {old v w : W64} {a c : Access} (hrec : s.rec? id = some b)
    (hpoint : b.point = pt) (hreply : b.reply = some old) (hlost : b.lost = false) (hpsn : b.psn = false)
    (hmembers : b.members = [(.acc i, v, ci, ni), (.acc j, w, cj, nj)]) (ha : s.acc? i = some a) (hne : i ≠ j) (hc : s.acc? j = some c)
    (hwa : a.width = 4) (hwc : c.width = 4) : s.split pt id = ((withoutRec s id).atomDone a ((old.setWidth 32).setWidth 64) false false).atomDone c
      (((old + v).setWidth 32).setWidth 64) false false := by
  have hfirst : (withoutRec s id).acc? i = some a := ha
  have hsecond : ((withoutRec s id).atomDone a ((old.setWidth 32).setWidth 64) false false).acc? j = some c := by
    rw [acc?_atomDone_ne (id_of_acc? ha ▸ hne.symm)]
    exact hc
  simp only [State.split, hrec, hpoint, hreply, hmembers, hlost, hpsn, ne_eq, not_true_eq_false, List.foldl_cons, List.foldl_nil,
    Bool.false_eq_true, ↓reduceIte]
  rw [withoutRec] at hfirst hsecond
  simp only [hfirst, hwa, hsecond, hwc, ↓reduceIte]
  rfl

/-! ## The queue of an owner node (06 R118, 08 R167) -/

section SetFirst
variable {α : Type} [DecidableEq α] {x y : α} {q : α → Bool}

/-- Where nothing passed a test, what replaces an element is the one thing that may. -/
theorem filter_setFirst {l : List α} (hmem : x ∈ l) (hnone : ∀ z ∈ l, q z = false) (hy : q y = true) : (setFirst x y l).filter q = [y] := by
  induction l with
  | nil => cases hmem
  | cons z zs ih =>
    have hrest : zs.filter q = [] := List.filter_eq_nil_iff.mpr fun u hu => by simp [hnone u (.tail _ hu)]
    rw [setFirst]
    split
    · rw [List.filter_cons_of_pos hy, hrest]
    · rename_i hne
      rw [List.filter_cons_of_neg (by simp [hnone z (.head _)])]
      refine ih ?_ fun u hu => hnone u (.tail _ hu)
      cases hmem with
      | head => exact absurd rfl hne
      | tail _ h => exact h

theorem mem_setFirst {l : List α} {z : α} (h : z ∈ setFirst x y l) : z = y ∨ z ∈ l := by
  induction l with
  | nil => cases h
  | cons u us ih =>
    rw [setFirst] at h
    split at h
    · cases h with
      | head => exact .inl rfl
      | tail _ h => exact .inr (.tail _ h)
    · cases h with
      | head => exact .inr (.head _)
      | tail _ h => exact (ih h).imp_right (.tail _)
end SetFirst

/-- A fold that keeps what it has or takes the element at hand ends with an element. -/
theorem foldl_choice {α : Type} {f : Option α → α → Option α} (hf : ∀ b x, f b x = b ∨ f b x = some x) {m : α} :
    ∀ (l : List α) {best : Option α}, l.foldl f best = some m → best = some m ∨ m ∈ l
  | [], _, h => .inl h
  | x :: l, best, h => by
    obtain hb | hm := foldl_choice hf l h
    · obtain hk | hx := hf best x
      · exact .inl (hk ▸ hb)
      · obtain rfl := Option.some.inj (hx.symm.trans hb)
        exact .inr (.head _)
    · exact .inr (.tail _ hm)

/-- The node's next message is one that has reached it. -/
theorem ownerNext_die {die : Nat} {m : OwnMsg} (h : s.ownerNext die = some m) : m.die = die := by
  unfold State.ownerNext at h
  refine (foldl_choice (fun b x => ?_) _ h).elim (fun hnone => by cases hnone) fun hm => ?_
  · split
    · exact .inr rfl
    · dsimp only
      split
      · exact .inr rfl
      · exact .inl rfl
  · obtain ⟨_, hx⟩ := List.mem_filter.mp hm
    simp only [Bool.and_eq_true, beq_iff_eq] at hx
    exact hx.1

/-- A message that reaches its owner node. -/
def arrivedNow (s : State) (m : OwnMsg) : OwnMsg := { m with arrived := some s.cycle }

/-- The queue with a message that has reached its node. -/
def withArrived (s : State) (m : OwnMsg) : State := { s with ord := { s.ord with ownq := setFirst m (arrivedNow s m) s.ord.ownq } }

section Owner
variable {die input : Nat}

theorem ownerArrive_none (h : s.ord.ownq.find? (fun m => m.die == die && m.input == input && m.arrived.isNone) = none) :
    s.ownerArrive die input = s := by
  rw [State.ownerArrive, h]

section Fresh
variable {m : OwnMsg} (hfind : s.ord.ownq.find? (fun m => m.die == die && m.input == input && m.arrived.isNone) = some m)
  (hidle : ∀ x ∈ s.ord.ownq, x.die = die → x.arrived = none ∧ x.todo = []) (hturn : (s.die die).applied.map (·.1) ≠ some s.cycle)
include hfind

theorem found_site : m ∈ s.ord.ownq ∧ m.die = die ∧ m.input = input := by
  have htest := List.find?_some hfind
  simp only [Bool.and_eq_true, beq_iff_eq] at htest
  exact ⟨List.mem_of_find?_eq_some hfind, htest.1.1, htest.1.2⟩

include hturn in
theorem ownerArrive_fresh : s.ownerArrive die input = withArrived s m := by
  rw [State.ownerArrive, hfind]
  refine if_neg ?_
  cases happ : (s.die die).applied with
  | none => exact Bool.false_ne_true
  | some x =>
    have hne : x.1 ≠ s.cycle := fun he => hturn (by rw [happ, ← he]; rfl)
    simp [hne]

include hidle hturn in
/-- With its node idle a message that reaches it is the one that it takes. -/
theorem ownerApply_fresh : s.ownerApply die input = (withArrived s m).ownerTake (arrivedNow s m) := by
  obtain ⟨hmem, hdie, _⟩ := found_site hfind
  have hnext : (withArrived s m).ownerNext die = some (arrivedNow s m) := by
    have hone : (setFirst m (arrivedNow s m) s.ord.ownq).filter (fun x => x.die == die && x.arrived.isSome) = [arrivedNow s m] := by
      refine filter_setFirst hmem (fun z hz => ?_) (by simp [arrivedNow, hdie])
      by_cases hz' : z.die = die
      · simp [(hidle z hz hz').1]
      · simp [hz']
    rw [State.ownerNext, withArrived, hone]
    rfl
  have htodo : (withArrived s m).ord.ownq.find? (fun x => x.die == die && !x.todo.isEmpty) = none := by
    refine List.find?_eq_none.mpr fun z hz => ?_
    have hempty : z.die = die → z.todo = [] := fun hzd => by
      obtain rfl | hz := mem_setFirst hz
      · exact (hidle m hmem hdie).2
      · exact (hidle z hz hzd).2
    by_cases hzd : z.die = die
    · simp [hempty hzd]
    · simp [hzd]
  rw [State.ownerApply, ownerArrive_fresh hfind hturn]
  simp only [htodo, hnext]

include hturn in
/-- The node has had no message in this cycle: an update is applied. -/
theorem ownerTake_update (hkind : m.kind = .insert ∨ m.kind = .agg) :
    (withArrived s m).ownerTake (arrivedNow s m) = (withArrived s m).ownerUpdate (arrivedNow s m) := by
  obtain ⟨_, rfl, _⟩ := found_site hfind
  rw [State.ownerTake]
  refine (if_neg hturn).trans ?_
  obtain hk | hk := hkind <;> simp only [arrivedNow, hk]

include hturn in
theorem ownerTake_atomic {id : Nat} {a : Access} {r : Run} {p : Place} (hkind : m.kind = .atomic id) (hacc : s.acc? id = some a)
    (hrun : s.run? a.run = some r) (hplace : a.place = some p) (hfree : s.conflicts (placeKey p) true none = []) :
    (withArrived s m).ownerTake (arrivedNow s m)
      = (((withArrived s m).noteAt (some (s.identity a.run)) p a.width).ownerTook (arrivedNow s m)).atomicAt a r p := by
  obtain ⟨_, rfl, _⟩ := found_site hfind
  have hacc' : (withArrived s m).acc? id = some a := hacc
  have hrun' : (withArrived s m).run? a.run = some r := hrun
  have hfree' : (withArrived s m).conflicts (placeKey p) true none = [] := hfree
  have hkind' : (arrivedNow s m).kind = .atomic id := hkind
  rw [State.ownerTake]
  refine (if_neg hturn).trans ?_
  simp only [hkind', hacc', hrun', hplace, hfree', List.isEmpty_nil, ↓reduceIte]
  rfl
end Fresh

/-! ## Updates of relations (13 R275) -/

section Update
variable {m : OwnMsg}

/-- The key columns of an update are `n`: what the header says, none where it cannot be read. -/
structure HasCols (s : State) (m : OwnMsg) (n : Nat) : Prop where
  ok : ∀ h, s.relHdr m.slot m.rel = .ok h → n = hdrCols h
  error : ∀ e, s.relHdr m.slot m.rel = .error e → n = 0

/-- The first `n` columns of a key. -/
def keyCols (m : OwnMsg) (n : Nat) : List Nat := (List.range n).map fun c => fld m.key (32 * c + 31) (32 * c)

theorem ownerUpdate_orphan (hbound : (s.relOwner m.slot m.rel).any (fun o => o.die == m.die && o.run == m.holder) = false) :
    s.ownerUpdate m = ((s.ownerTook m).logEvent m.die 0x319 none (some (s.identity m.run)) none none (some m.rel)).countApplied m.holder := by
  simp only [State.ownerUpdate, hbound, Bool.not_false, ↓reduceIte]

/-- A message whose update has these writes to perform. -/
def working (m : OwnMsg) (ws : List (Place × List Byte)) : OwnMsg := { m with todo := ws }

/-- The state in which the update of a message begins to write. -/
def underWay (u : State) (o : Order) (m m' : OwnMsg) : State :=
  ({ u with ord := { o with ownq := setFirst m m' o.ownq } } : State).modDie m.die fun d =>
    { d with applied := some (u.cycle, m.arrived.getD 0, m.input) }

variable {n : Nat} {t : State} {fl : Flags} (hcols : HasCols s m n)
  (hbound : (s.relOwner m.slot m.rel).any (fun o => o.die == m.die && o.run == m.holder) = true)
  (happly : s.relApply m.slot m.rel (m.kind == .insert) (keyCols m n) m.wgt m.wit = .done t fl)
include hcols hbound happly

theorem ownerUpdate_still {u : State} (hu : s.noteRead (some (s.identity m.run)) m.slot m.rel 64 = u) (hsame : s.mem.writesTo t.mem = []) :
    s.ownerUpdate m = (({ u with ord := t.ord }.ownerTook m).raise m.holder fl).countApplied m.holder := by
  unfold State.ownerUpdate
  rw [hu]
  cases hhdr : s.relHdr m.slot m.rel with
  | ok h =>
    rw [keyCols, hcols.ok h hhdr] at happly
    simp only [hbound, happly, hsame, Bool.not_true, Bool.false_eq_true, ↓reduceIte]
  | error e =>
    rw [keyCols, hcols.error e hhdr] at happly
    simp only [hbound, happly, hsame, Bool.not_true, Bool.false_eq_true, ↓reduceIte]

/-- An update that writes memory: the node's own tables change at once, its writes perform one by one. -/
theorem ownerUpdate_writes {u : State} (hu : s.noteRead (some (s.identity m.run)) m.slot m.rel 64 = u)
    (hchanges : s.mem.writesTo t.mem ≠ []) : s.ownerUpdate m =
      ((underWay u t.ord m (working m (s.mem.writesTo t.mem))).raise m.holder fl).ownerWrites (working m (s.mem.writesTo t.mem)) := by
  unfold State.ownerUpdate
  rw [hu]
  cases hws : s.mem.writesTo t.mem with
  | nil => exact absurd hws hchanges
  | cons w ws =>
    cases hhdr : s.relHdr m.slot m.rel with
    | ok h =>
      rw [keyCols, hcols.ok h hhdr] at happly
      simp only [hbound, happly, hws, Bool.not_true, Bool.false_eq_true, ↓reduceIte]
      rfl
    | error e =>
      rw [keyCols, hcols.error e hhdr] at happly
      simp only [hbound, happly, hws, Bool.not_true, Bool.false_eq_true, ↓reduceIte]
      rfl
end Update

/-! ### What notes of reads leave -/

theorem hbmWrite_cycle (a : Nat) (bs : List Byte) : (s.hbmWrite a bs).1.cycle = s.cycle := by
  unfold State.hbmWrite
  dsimp only
  split <;> rfl

theorem logEvent_cycle (d code : Nat) (dom run site aux addr : Option Nat) : (s.logEvent d code dom run site aux addr).cycle = s.cycle := by
  unfold State.logEvent
  dsimp only
  split
  · rfl
  · split
    · exact hbmWrite_cycle ..
    · exact hbmWrite_cycle (s := { s with free := s.free + 32 }) ..

theorem noteAt_cycle (s : State) (run : Option Nat) (p : Place) (n : Nat) : (s.noteAt run p n).cycle = s.cycle := by
  unfold State.noteAt
  split
  · refine foldl_keeps (g := fun s => s.cycle) (fun s x => ?_) _ s
    dsimp only
    split
    · exact logEvent_cycle ..
    · rfl
  · rfl

theorem noteRead_cycle (run : Option Nat) (slot va n : Nat) : (s.noteRead run slot va n).cycle = s.cycle := by
  refine foldl_keeps (g := fun s => s.cycle) (fun s x => ?_) _ s
  dsimp only
  split
  · exact noteAt_cycle ..
  · rfl

/-! ## Writes of an update under way -/

theorem yieldTo_noWaves (h : s.ord.waves = []) (ls : List (Nat × Bool)) : s.yieldTo ls = some s := by
  have hnone : ls.flatMap (fun l => s.conflicts l.1 l.2 none) = [] :=
    List.flatMap_eq_nil_iff.mpr fun l _ => by simp [State.conflicts, h]
  rw [State.yieldTo, hnone]
  rfl

theorem ownerWrites_next {m : OwnMsg} {p : Place} {bs : List Byte} {rest : List (Place × List Byte)} (htodo : m.todo = (p, bs) :: rest)
    (hwaves : s.ord.waves = []) : s.ownerWrites m =
      if rest = [] then ((s.writeAt p bs).1.popOwn m).countApplied m.holder
      else { (s.writeAt p bs).1 with
        ord := { (s.writeAt p bs).1.ord with ownq := setFirst m { m with todo := rest } (s.writeAt p bs).1.ord.ownq } } := by
  simp only [State.ownerWrites, htodo, yieldTo_noWaves hwaves, List.isEmpty_iff]

theorem ownerApply_writes {m : OwnMsg} (hnone : s.ord.ownq.find? (fun m => m.die == die && m.input == input && m.arrived.isNone) = none)
    (hfind : s.ord.ownq.find? (fun m => m.die == die && !m.todo.isEmpty) = some m) : s.ownerApply die input = s.ownerWrites m := by
  rw [State.ownerApply, ownerArrive_none hnone]
  simp only [hfind]

/-- A node that has had its message of this cycle takes no other. -/
theorem ownerApply_had (hnone : s.ord.ownq.find? (fun m => m.die == die && m.input == input && m.arrived.isNone) = none)
    (hidle : ∀ x ∈ s.ord.ownq, x.die = die → x.todo = []) (hhad : (s.die die).applied.map (·.1) = some s.cycle) :
    s.ownerApply die input = s := by
  have htodo : s.ord.ownq.find? (fun x => x.die == die && !x.todo.isEmpty) = none := by
    refine List.find?_eq_none.mpr fun z hz => ?_
    by_cases hzd : z.die = die
    · simp [hidle z hz hzd]
    · simp [hzd]
  rw [State.ownerApply, ownerArrive_none hnone]
  simp only [htodo]
  split
  · rfl
  · rename_i m hm
    obtain rfl := ownerNext_die hm
    rw [State.ownerTake, if_pos hhad]
end Owner

/-- Settles O21: combining points and records by their branches; an idle owner node takes the message that reaches it, and one that works
on an update writes on. -/
theorem combiningAndOwnerNodes : Obligations.CombiningAndOwnerNodes := by
  refine ⟨?arrival, ?record, ?closes, ?performs, ?splits, ?takes, ?writes, ?had⟩
  case arrival =>
    intro s id a r p hacc hrun hplace hstage hop hwave
    exact ⟨fun hpoint => congrArg Host.Outcome.next (faddArrival_last hacc hrun hplace hstage hop hwave hpoint),
      fun pt t hpoint hmeet => congrArg Host.Outcome.next (faddArrival_meets hacc hrun hplace hstage hop hwave hpoint hmeet)⟩
  case record =>
    intro s pt slot va op n p who inc input hnone hroom
    unfold State.meet
    rw [hnone]
    simp only [hroom, ↓reduceIte]
    exact ⟨_, _, rfl, rfl, rfl, rfl, rfl, rfl, BitVec.zero_add inc⟩
  case closes => exact fun s pt id b hrec hpoint hopen hdue => congrArg Host.Outcome.next (windowClose_due hrec hpoint hopen hdue)
  case performs =>
    exact fun s pt id b hrec hpoint hclosed hsent hlast hfree howner hhere =>
      congrArg Host.Outcome.next (performRec_adds hrec hpoint hclosed hsent hlast hfree howner hhere)
  case splits =>
    intro s pt id i j b old v w a c ci cj ni nj hrec hpoint hreply hlost hpsn _ hmembers ha hne hc hwa hwc
    exact congrArg Host.Outcome.next (split_pair hrec hpoint hreply hlost hpsn hmembers ha hne hc hwa hwc)
  case takes =>
    intro s die input m hfind hidle hturn
    have happly := ownerApply_fresh hfind hidle hturn
    obtain ⟨_, rfl, rfl⟩ := found_site hfind
    intro m' s1
    refine ⟨?update, fun id a r p hkind hacc hrun hplace hfree => ?atomic⟩
    case atomic => exact congrArg Host.Outcome.next (happly.trans (ownerTake_atomic hfind hturn hkind hacc hrun hplace hfree))
    case update =>
      intro hkind n key
      have htake : exec (.ownerApply m.die m.input) s = .next (s1.ownerUpdate m') :=
        congrArg Host.Outcome.next (happly.trans (ownerTake_update hfind hturn hkind))
      have hcols : HasCols s1 m' n := by
        have hrel : s1.relHdr m'.slot m'.rel = s1.relHdr m.slot m.rel := rfl
        exact ⟨fun h hh => by simp only [n, ← hrel, hh], fun e hh => by simp only [n, ← hrel, hh]⟩
      rw [htake]
      refine ⟨fun hbound => congrArg Host.Outcome.next (ownerUpdate_orphan hbound), ?done⟩
      case done =>
        intro t fl hbound hdone s2
        have hread : s1.noteRead (some (s1.identity m'.run)) m'.slot m'.rel 64 = s2 := rfl
        have hcycle : s2.cycle = s.cycle := noteRead_cycle ..
        clear_value s2
        refine ⟨fun hsame => congrArg Host.Outcome.next (ownerUpdate_still hcols hbound hdone hread hsame),
          fun hchanges => congrArg Host.Outcome.next ((ownerUpdate_writes hcols hbound hdone hread hchanges).trans ?_)⟩
        rw [underWay, hcycle]
        rfl
  case writes =>
    exact fun s die input m p bs rest hnone hfind htodo hwaves =>
      congrArg Host.Outcome.next ((ownerApply_writes hnone hfind).trans (ownerWrites_next htodo hwaves))
  case had => exact fun s die input hnone hidle hhad => congrArg Host.Outcome.next (ownerApply_had hnone hidle hhad)

end Sys2Proof.Proofs.Combining
end

section
/-! Replies to the words that wait, sums of fixpoint groups, lost requests (03 R42 to R44, R56, 06 R119, R122 to R124; O25). -/

namespace Sys2Proof.Proofs.Replies
open Sys2Proof.Machine Sys2Proof.Laws Sys2Proof.Proofs.FiringFrames Sys2Proof.Proofs.Barriers

variable {s : State} {run : Nat} {r : Run}

/-! ## JOIN at the home module (03 R42 to R44) -/

theorem groupArrival_here {k : Nat} {q : GroupReq} (hq : s.adm.greqs[k]? = some q) (hnew : q.arrived = false) (hnear : q.far = false) :
    s.groupArrival k = (if q.join then s.joinAt q.run q.group else s.leaveAt q.run q.group).2.2.answerGroup k
      (if q.join then s.joinAt q.run q.group else s.leaveAt q.run q.group).1
      (if q.join then s.joinAt q.run q.group else s.leaveAt q.run q.group).2.1 := by
  simp only [State.groupArrival, hq, hnew, hnear, Bool.or_self, Bool.false_eq_true, ↓reduceIte]

section Join
variable {v : W64} {g : Group}

/-- A JOIN that names a group answers with what its home module says. -/
theorem joinAt_named (hrun : s.run? run = some r) (hv : v ≠ 0) :
    s.joinAt run v = ((s.joinHere (s.identity run) (decide (16 ≤ r.groups.length)) (v.setWidth 20)).1, 0,
      if (s.joinHere (s.identity run) (decide (16 ≤ r.groups.length)) (v.setWidth 20)).1 = 0
      then (s.joinHere (s.identity run) (decide (16 ≤ r.groups.length)) (v.setWidth 20)).2.enrol run (v.setWidth 20) 0
      else (s.joinHere (s.identity run) (decide (16 ≤ r.groups.length)) (v.setWidth 20)).2) := by
  simp only [State.joinAt, if_neg hv, hrun, Option.map_some, Option.getD_some]

theorem barrierFires_idle {name : BitVec 20} (hg : s.group? name = some g) (harr : g.arrivals = []) (hdrop : g.drops = []) :
    s.barrierFires name = s := by
  have hwait : g.complete = false := by simp [Group.complete, harr, hdrop]
  simp only [State.barrierFires, hg, hwait, Bool.not_false, ↓reduceIte]

section Here
variable {name : BitVec 20} {identity : Nat} {full : Bool} (hg : s.group? name = some g) (harr : g.arrivals = []) (hdrop : g.drops = [])
include hg harr hdrop

theorem joinHere_busy (hopen : g.fixOpen = true) : s.joinHere identity full name = (8, s) := by
  simp only [State.joinHere, barrierFires_idle hg harr hdrop, hg, hopen, ↓reduceIte]

theorem joinHere_already (hopen : g.fixOpen = false) (hmember : g.members.contains identity = true) :
    s.joinHere identity full name = (5, s) := by
  simp only [State.joinHere, barrierFires_idle hg harr hdrop, hg, hopen, hmember, Bool.false_eq_true, ↓reduceIte]

theorem joinHere_limit (hopen : g.fixOpen = false) (hmember : g.members.contains identity = false) :
    s.joinHere identity true name = (4, s) := by
  simp only [State.joinHere, barrierFires_idle hg harr hdrop, hg, hopen, hmember, Bool.false_eq_true, ↓reduceIte]

theorem joinHere_joins (hopen : g.fixOpen = false) (hmember : g.members.contains identity = false) :
    s.joinHere identity false name = (0, s.modGroup name fun g => { g with members := g.members ++ [identity] }) := by
  simp only [State.joinHere, barrierFires_idle hg harr hdrop, hg, hopen, hmember, Bool.false_eq_true, ↓reduceIte]
end Here

/-- A run that is told of its new membership. -/
def enrolled (far : Bool) (name : BitVec 20) (pass : Nat) (r : Run) : Run :=
  if r.groups.contains name then r
  else { r with groups := r.groups ++ [name], passes := if far then r.passes ++ [(name, pass)] else r.passes }

theorem keepsIds_enrolled (far : Bool) (name : BitVec 20) (pass : Nat) : KeepsIds (enrolled far name pass) := fun r => by
  unfold enrolled
  split <;> exact ⟨rfl, rfl⟩

theorem contains_enrolled (far : Bool) (name : BitVec 20) (pass : Nat) : (enrolled far name pass r).groups.contains name = true := by
  unfold enrolled
  split
  · assumption
  · simp

theorem enrol_run? (name : BitVec 20) (pass : Nat) (hrun : s.run? run = some r) :
    (s.enrol run name pass).run? run = some (enrolled (s.farGroup (name.setWidth 64)) name pass r) :=
  modRun_run? hrun (keepsIds_enrolled _ _ _)

theorem modGroup_run? (name : BitVec 20) (f : Group → Group) : (s.modGroup name f).run? run = s.run? run := by
  unfold State.modGroup
  split <;> rfl
end Join

/-! ## Replies to the words that wait -/

section Waiting
variable (hrun : s.run? run = some r)
include hrun

section Group
variable {id : Nat} {q : GroupReq} {ga gb : BitVec 6} (hwait : r.esc.wait = .sent id) (hissues : r.issues = true)
  (hq : s.adm.greqs.find? (fun q => q.id == id && q.arrived) = some q)
include hwait hissues hq

/-- The answered request is gone. -/
def answered (s : State) (q : GroupReq) : State := { s with adm := { s.adm with greqs := s.adm.greqs.erase q } }

theorem groupReply_join (hword : s.wordAt r = some (.join ga gb)) : s.groupReply run = (answered s q).doneWord run fun r =>
    if q.status = 1 then (r.setG ga (BitVec.ofNat 64 q.status)).setG gb (q.made.setWidth 64) else r.setG ga (BitVec.ofNat 64 q.status) := by
  have hword' : (answered s q).wordAt r = some (.join ga gb) := hword
  rw [answered] at hword'
  simp only [State.groupReply, hrun, hwait, hissues, hq, hword', Bool.not_true, Bool.false_eq_true, ↓reduceIte]
  rfl

theorem groupReply_leave (hword : s.wordAt r = some (.leave ga gb)) :
    s.groupReply run = (answered s q).doneWord run fun r => r.setG ga (BitVec.ofNat 64 q.status) := by
  have hword' : (answered s q).wordAt r = some (.leave ga gb) := hword
  rw [answered] at hword'
  simp only [State.groupReply, hrun, hwait, hissues, hq, hword', Bool.not_true, Bool.false_eq_true, ↓reduceIte]
  rfl
end Group

theorem launchReply_answers {id st ident : Nat} {ga gb gc : BitVec 6} (hwait : r.esc.wait = .sent id) (hissues : r.issues = true)
    (hword : s.wordAt r = some (.launch ga gb gc)) (hq : s.adm.lreplies.find? (fun q => q.1 == id) = some (id, st, ident)) :
    s.launchReply run = ({ s with adm := { s.adm with lreplies := s.adm.lreplies.erase (id, st, ident) } } : State).doneWord run
      fun r => r.setG ga (BitVec.ofNat 64 (st + ident * 2 ^ 16)) := by
  simp only [State.launchReply, hrun, hwait, hissues, hword, hq, Bool.not_true, Bool.false_eq_true, ↓reduceIte]

/-- JOIN whose request is late is lost: UNREACH (R56). -/
theorem requestLost_join {id : Nat} {ga gb : BitVec 6} (hissues : r.issues = true) (hwait : r.esc.wait = .sent id)
    (hlate : r.esc.sentAt + 2 ^ 24 ≤ r.cycles) (hword : s.wordAt r = some (.join ga gb)) :
    s.requestLost run .timeout = s.doneWord run fun r => r.setG ga 9 := by
  obtain ⟨hid, _, _⟩ := run?_spec s hrun
  have hl : decide (r.esc.sentAt + 2 ^ 24 ≤ r.cycles) = true := decide_eq_true hlate
  simp only [State.requestLost, hrun, hissues, hwait, hword, hl, State.lostGroup, hid, Bool.not_true, Bool.false_eq_true, Bool.true_or,
    ↓reduceIte]

section Resident
variable (hres : r.st = .resident)
include hres

section Opening
variable {k h : Nat} {gb : BitVec 6} {rl : BitVec 16} {grp : BitVec 8} {acks : List (Bool × Bool)} (hwait : r.esc.wait = .opening acks)
  (hword : s.wordAt r = some (.fixb gb rl grp)) (hack : acks[k]? = some (true, false)) (hrel : (s.rlist r rl.toNat).2[k]? = some h)
include hwait hword hack hrel

theorem fixbAck_opens {t : State} (hopen : s.openRel r.slot h (s.rlist r rl.toNat).1 (s.fixGroup r gb grp.toNat) = .ok t) :
    s.fixbAck run k = t.setWait run (.opening (setAt acks k (true, true))) := by
  simp only [State.fixbAck, hrun, hwait, hword, hack, hrel, hres, hopen, ne_eq, not_true_eq_false, ↓reduceIte]

theorem fixbAck_stops {w : WordStop} (hopen : s.openRel r.slot h (s.rlist r rl.toNat).1 (s.fixGroup r gb grp.toNat) = .error w) :
    s.fixbAck run k = (s.setWait run (.opening (setAt acks k (false, false)))).stopWord run w := by
  simp only [State.fixbAck, hrun, hwait, hword, hack, hrel, hres, hopen, ne_eq, not_true_eq_false, ↓reduceIte]
end Opening

theorem fixbRetry_due {c : Nat} {gb : BitVec 6} {rl : BitVec 16} {grp : BitVec 8} (hwait : r.esc.wait = .retry c)
    (hword : s.wordAt r = some (.fixb gb rl grp)) (hdue : c + 64 ≤ s.cycle) :
    s.fixbRetry run = s.fixbSum r (s.fixGroup r gb grp.toNat) := by
  simp only [State.fixbRetry, hrun, hwait, hword, hres, hdue, and_self, ↓reduceIte]

theorem rotateAck_answers {k h : Nat} {rl : BitVec 16} {acks : List (Bool × Bool)} (hwait : r.esc.wait = .rotating acks)
    (hword : s.wordAt r = some (.rotate rl)) (hack : acks[k]? = some (true, false)) (hrel : (s.rlist r rl.toNat).2[k]? = some h) :
    s.rotateAck run k = if (setAt acks k (true, true)).all (·.2) then (s.rotateRel r h).doneWord run id
      else (s.rotateRel r h).setWait run (.rotating (setAt acks k (true, true))) := by
  simp only [State.rotateAck, hrun, hwait, hword, hack, hrel, hres, ne_eq, not_true_eq_false, ↓reduceIte]

/-- What the marks of a retraction come to. -/
def retractMarks (s : State) (r : Run) (hs : List (Nat × Line)) (es : List (BitVec 256)) : Marks :=
  Marks.scans r.slot (s.image? r) hs ((hs.map fun x => 2 ^ hdrLcap x.2).foldl (· + ·) 1) (es.foldl (Marks.named r.slot hs) ⟨s, 0, none⟩)

theorem retractComplete_done {ga gb : BitVec 6} {rl : BitVec 16} {hs : List (Nat × Line)} {es : List (BitVec 256)}
    (hwait : r.esc.wait = .retracting) (hword : s.wordAt r = some (.retract ga gb rl))
    (hcheck : s.retractCheck r rl.toNat (r.getG gb) = .ok (hs, es)) (hstop : (retractMarks s r hs es).stop = none) :
    s.retractComplete run = (retractMarks s r hs es).s.doneWord run fun x => x.setG ga (BitVec.ofNat 64 (retractMarks s r hs es).n) := by
  rw [retractMarks] at hstop ⊢
  simp only [State.retractComplete, hrun, hwait, hword, hcheck, hres, hstop, ne_eq, not_true_eq_false, ↓reduceIte]
end Resident
end Waiting

/-! ## The sums of a fixpoint group (06 R122, R123) -/

section Sums
variable {name : BitVec 20} {g : Group}

/-- Every member has contributed, and those of this module can hear. -/
def AllReady (s : State) (g : Group) : Prop := ∀ m ∈ g.members, (g.sums.any fun c => c.run == m) = true
  ∧ ∀ run, s.own? m = some run → ∃ r, s.run? run = some r ∧ r.st = .resident ∧ r.esc.wait = .sum

theorem hears_of_waiting (hrun : s.run? run = some r) (hres : r.st = .resident) (hwait : r.esc.wait = .sum) : s.hears run = true := by
  simp only [State.hears, hrun, hres, hwait, BEq.rfl, Bool.and_self]

/-- The quiet passes in a row with this one. -/
def quietNow (g : Group) : Nat :=
  if (g.sums.all (·.atEnd) && (g.sums.map (·.n)).foldl (· + ·) 0 == 0 && (g.sums.map (·.bal)).foldl (· + ·) 0 == 0) = true
  then g.quiet + 1 else 0

/-- What a member hears: those of this module at their word, the others by a flit. -/
def tellMember (g : Group) (name : BitVec 20) (tn : Nat) (tb : Int) (last : Bool) (s : State) (c : Contrib) : State :=
  match c.back, s.own? c.run with
  | some f, _ => s.tellTotals f g.pass (tn, tb, last)
  | none, some run => State.sumTo tn tb last name s run
  | none, none => s

theorem combineReply_tells (hg : s.group? name = some g) (hmembers : g.members ≠ []) (hready : AllReady s g) :
    s.combineReply name = g.sums.foldl
      (tellMember g name ((g.sums.map (·.n)).foldl (· + ·) 0) ((g.sums.map (·.bal)).foldl (· + ·) 0) (quietNow g == 2))
      (s.modGroup name fun x => { x with
        sums := [], quiet := if (quietNow g == 2) = true then 0 else quietNow g, fixOpen := !(quietNow g == 2), pass := x.pass + 1
        totals := ((g.sums.map (·.n)).foldl (· + ·) 0, (g.sums.map (·.bal)).foldl (· + ·) 0, quietNow g == 2) }) := by
  unfold State.combineReply
  split
  · rename_i hnone
    cases hnone.symm.trans hg
  · rename_i g' hg'
    obtain rfl := Option.some.inj (hg.symm.trans hg')
    refine (if_neg ?_).trans rfl
    simp only [List.isEmpty_iff, hmembers, false_or, Bool.not_eq_true', Bool.not_eq_false]
    refine List.all_eq_true.mpr fun m hm => ?_
    obtain ⟨hsum, hown⟩ := hready m hm
    cases ho : s.own? m with
    | none => simp only [hsum, Bool.and_self]
    | some run =>
      obtain ⟨r, hrun, hres, hwait⟩ := hown run ho
      simp only [hsum, hears_of_waiting hrun hres hwait, Bool.and_self]
end Sums

/-- Settles O25: each reply is one branch of its event. -/
theorem repliesToRuns : Obligations.RepliesToRuns := by
  refine ⟨?arrival, ?join, ?group, ?launch, ?opened, ?retry, ?sums, ?rotated, ?retracted, ?lost⟩
  case arrival => exact fun s k q hq hnew hnear => congrArg Host.Outcome.next (groupArrival_here hq hnew hnear)
  case join =>
    intro s run v g r hrun hv hg harr hdrop
    rw [joinAt_named hrun hv]
    refine ⟨fun hopen => ?busy, fun hopen hmember => ?already, fun hopen hmember hfull => ?limit, fun hopen hmember hroom => ?joins⟩
    case busy => rw [joinHere_busy hg harr hdrop hopen]
    case already => rw [joinHere_already hg harr hdrop hopen hmember]
    case limit => rw [decide_eq_true hfull, joinHere_limit hg harr hdrop hopen hmember]
    case joins =>
      rw [decide_eq_false (Nat.not_le.mpr hroom), joinHere_joins hg harr hdrop hopen hmember]
      refine ⟨rfl, ?_, _, enrol_run? _ _ ((modGroup_run? _ _).trans hrun), contains_enrolled ..⟩
      have hfound := group?_modGroup (f := fun x => { x with members := x.members ++ [s.identity run] }) (fun _ => rfl) hg
      exact congrArg (Option.map (·.members)) hfound
  case group =>
    intro s run id r q ga gb hrun hwait hissues hq
    exact ⟨fun hword => congrArg Host.Outcome.next (groupReply_join hrun hwait hissues hq hword),
      fun hword => congrArg Host.Outcome.next (groupReply_leave hrun hwait hissues hq hword)⟩
  case launch =>
    exact fun s run id st ident r ga gb gc hrun hwait hissues hword hq =>
      congrArg Host.Outcome.next (launchReply_answers hrun hwait hissues hword hq)
  case opened =>
    intro s run k h r gb rl grp acks hrun hres hwait hword hack hrel
    exact ⟨fun t ht => congrArg Host.Outcome.next (fixbAck_opens hrun hres hwait hword hack hrel ht),
      fun w hw => congrArg Host.Outcome.next (fixbAck_stops hrun hres hwait hword hack hrel hw)⟩
  case retry =>
    exact fun s run c r gb rl grp hrun hres hwait hword hdue => congrArg Host.Outcome.next (fixbRetry_due hrun hres hwait hword hdue)
  case sums =>
    intro s name g hg hmembers hready tn tb q
    have hq : quietNow g = q := by simp only [quietNow, q, tn, tb, Bool.and_eq_true, beq_iff_eq, and_assoc]
    have htells := combineReply_tells hg hmembers hready
    rw [hq] at htells
    simp only [beq_iff_eq] at htells
    exact congrArg Host.Outcome.next htells
  case rotated =>
    exact fun s run k h r rl acks hrun hres hwait hword hack hrel =>
      congrArg Host.Outcome.next (rotateAck_answers hrun hres hwait hword hack hrel)
  case retracted =>
    exact fun s run r ga gb rl hs es hrun hres hwait hword hcheck hstop =>
      congrArg Host.Outcome.next (retractComplete_done hrun hres hwait hword hcheck hstop)
  case lost =>
    exact fun s run id r ga gb hrun hissues hwait hlate hword =>
      congrArg Host.Outcome.next (requestLost_join hrun hissues hwait hlate hword)

end Sys2Proof.Proofs.Replies
end

section
/-! The watchdog of two runs of one number (O26): the statement takes the origin of the probe of each run, the model that of the run found. -/

namespace Sys2Proof.Proofs.ConfigEvents
open Sys2Proof.Machine Sys2Proof.Laws

/-! Two runs of one number, the first with an element that waits. The statement takes `firstBlocked` of each run of the number
(its bound `r` is the run that changes); the model takes that of the run it finds, for all of them. -/

/-- An ADD whose operands both come from queues. -/
def addWord : W64 := (encode (.add ⟨0, 0, none, none, 1, 0⟩)).getD 0

/-- The ADD with a token on i0 and none on i1. -/
def waitingLoad : Loaded :=
  { placedLoad addWord with blks := [{ placedBlk addWord with elems := (placedBlk addWord).elems.map fun e =>
      { e with q := [[scalarTok 3 .data 0], [], [], []] } }] }

/-- A run that has not fired for 2^20 cycles, with what its active plane holds. -/
def idleRun (ls : List Loaded) : Run := { placedRun with idle := 2 ^ 20, p0 := { Plane.empty with loads := ls } }

/-- The module: the first run waits, the second has no configuration. -/
def twoRuns : State := { State.reset with runs := [idleRun [waitingLoad], idleRun []] }

/-- The first run is blocked. -/
theorem firstBlocked_waiting : (twoRuns.firstBlocked (idleRun [waitingLoad])).isSome = true := by decide +kernel

/-- The second has no element. -/
theorem firstBlocked_empty : twoRuns.firstBlocked (idleRun []) = none := by decide +kernel

/-- What the last run's probe set out from. -/
def secondOrigin (s : State) : Option (Nat × Option ElemRef) := (s.runs.getLast?).bind (·.probing)

/-- In the model the second run's probe sets out from the first run's element. -/
theorem watchdog_second : secondOrigin (twoRuns.watchdog 0) = some (twoRuns.cycle, twoRuns.firstBlocked (idleRun [waitingLoad])) := rfl

/-- Refutes O26, in its clause on the watchdog: with two resident runs of one number the probe of the second does not set out from what is
blocked in it. -/
theorem not_configurationEvents : ¬ Obligations.ConfigurationEvents := by
  intro h
  obtain ⟨-, -, -, -, -, -, -, hwatchdog, -⟩ := h
  obtain ⟨hprobes, -⟩ := hwatchdog twoRuns 0 (idleRun [waitingLoad]) rfl rfl rfl
  have hstates := congrArg (fun o => match o with
    | Host.Outcome.next t => secondOrigin t
    | _ => none) (hprobes (Nat.le_refl _))
  have hsame : some (twoRuns.cycle, twoRuns.firstBlocked (idleRun [waitingLoad])) = some (twoRuns.cycle, twoRuns.firstBlocked (idleRun [])) :=
    watchdog_second.symm.trans hstates
  have hsome := firstBlocked_waiting
  rw [(Prod.mk.inj (Option.some.inj hsame)).2, firstBlocked_empty] at hsome
  cases hsome

end Sys2Proof.Proofs.ConfigEvents
end

section
/-! Engine events (05 R89, R90, 07 R144, 08 R161, R162, 13 R282 to R287; O24): requests, buffered writes, messages, landings, sectors, coded blocks. -/

namespace Sys2Proof.Proofs.Engines
open Sys2Proof.Machine Sys2Proof.Laws

variable {s : State}

/-! ## Requests -/

section Requests
variable {id : Nat} {q : Req}

theorem id_of_req? (h : s.req? id = some q) : q.id = id := beq_iff_eq.mp (List.find?_some (p := fun q : Req => q.id == id) h)

/-- A request that has changed is found by its number. -/
theorem req?_modReq {f : Req → Req} (h : s.req? id = some q) (hid : ∀ x, (f x).id = x.id) : (s.modReq id f).req? id = some (f q) := by
  have hsame : ((fun x : Req => x.id == id) ∘ fun x => if x.id = id then f x else x) = fun x => x.id == id := by
    funext x
    simp only [Function.comp]
    split <;> simp [hid]
  have hfind : (s.ord.reqs.map fun x => if x.id = id then f x else x).find? (fun x => x.id == id)
      = (s.ord.reqs.find? fun x => x.id == id).map fun x => if x.id = id then f x else x := by
    rw [List.find?_map, hsame]
  refine hfind.trans ?_
  have hq := id_of_req? h
  rw [State.req?] at h
  rw [h, Option.map_some, if_pos hq]

theorem req?_congr {t : State} (h : t.ord.reqs = s.ord.reqs) : t.req? id = s.req? id := by
  rw [State.req?, State.req?, h]

/-- Nothing of that number, nothing changes. -/
theorem modReq_none {f : Req → Req} (h : s.req? id = none) : (s.modReq id f).ord.reqs = s.ord.reqs := by
  refine (List.map_congr_left fun x hx => if_neg ?_).trans (List.map_id _)
  have hne := List.find?_eq_none.mp h x hx
  simpa using hne

/-- A request that has not begun is handed to the engine of its kind. -/
theorem dequeue_hands {r : Run} (hq : s.req? id = some q) (hrun : s.run? q.run = some r) (hnew : q.taken = false) :
    ∀ row ∈ [(AccKind.xfer, s.dequeueXfer q r.slot), (.stash, s.dequeueStash q r.slot), (.unstash, s.dequeueUnstash q r.slot),
      (.send, s.dequeueSend q r.slot), (.postr, s.dequeueRecv q r.slot), (.probeq, s.dequeueRecv q r.slot), (.cancelr, s.dequeueCancel q)],
      q.kind = row.1 → s.dequeue id = row.2 := by
  simp only [List.forall_mem_cons]
  refine ⟨fun hk => ?_, fun hk => ?_, fun hk => ?_, fun hk => ?_, fun hk => ?_, fun hk => ?_, fun hk => ?_, List.forall_mem_nil _⟩
  all_goals simp only [State.dequeue, hq, hrun, hnew, hk, Bool.false_eq_true, ↓reduceIte]

theorem sendRetry_due {c : Nat} (hq : s.req? id = some q) (hstall : q.stallAt = some c) (hkind : q.kind = .send) (hdue : c + 1600 ≤ s.cycle) :
    s.sendRetry id = ({ s with eng := { s.eng with
      arrivals := s.eng.arrivals.map fun (m : Msg) => if m.req = id then { m with refused := false } else m } } : State).modReq id
        fun x => { x with stallAt := none } := by
  have hlt : ¬s.cycle < c + 1600 := Nat.not_lt.mpr hdue
  simp only [State.sendRetry, hq, hstall, hkind, hlt, ne_eq, not_true_eq_false, or_self, ↓reduceIte]

theorem stashTimeout_due {c : Nat} (hq : s.req? id = some q) (hstall : q.stallAt = some c) (hkind : q.kind = .stash) (hnew : q.taken = false)
    (hdue : c + 2 ^ 16 ≤ s.cycle) : s.stashTimeout id = s.trapReq q .stashfull := by
  simp only [State.stashTimeout, hq, hstall]
  exact if_pos ⟨hkind, by rw [hnew]; rfl, hdue⟩
end Requests

/-! ## EWRITE (08 R161, R162) -/

section Writes
variable {id x : Nat} {w : EWrite} (hw : s.ord.wbuf.find? (fun w => w.id == id) = some w)
include hw

/-- A write that has left, or that others come before, waits. -/
theorem ewrite_waits (hheld : w.sent = true ∨ s.writeHeld w = true) : s.ewrite id = s := by
  have hor := Bool.or_eq_true_iff.mpr hheld
  simp only [State.ewrite, hw, hor, ↓reduceIte]

/-- The bytes of a write in HBM, with the poison that it carries and the state FULL that the last write of its line brings. -/
def written (s : State) (w : EWrite) (x : Nat) : State :=
  let t := (s.hbmWrite x w.bytes).1
  let t := if w.poison then t.markPoison x else t
  if w.sets && s.lineLast w then t.setFull x else t

theorem ewrite_performs (hmonitors : s.ord.monitors = []) (hsent : w.sent = false) (hfree : s.writeHeld w = false)
    (hplace : s.vplace w.slot w.va true = .ok (.hbm x)) (hwaves : s.conflicts (x / 64) true none = []) (hclean : s.poisoned x = false) :
    s.ewrite id = ((written s w x).noteOpen w).wroteOne id := by
  have hheld : (w.sent || s.writeHeld w) = false := by rw [hsent, hfree]; rfl
  have hyield : s.yieldTo [(placeKey (.hbm x), true)] = some s := by
    have hnone : [(placeKey (.hbm x), true)].flatMap (fun l => s.conflicts l.1 l.2 none) = [] := by
      rw [List.flatMap_cons, List.flatMap_nil, List.append_nil]
      exact hwaves
    rw [State.yieldTo, hnone]
    rfl
  have hkept : (s.hbmWrite x w.bytes).2 = false := by
    rw [State.hbmWrite, hclean]
    rfl
  have hord : (s.hbmWrite x w.bytes).1.ord = s.ord := by
    rw [State.hbmWrite, hclean]
    rfl
  have hmon : (s.hbmWrite x w.bytes).1.rereadMonitors x w.bytes.length = (s.hbmWrite x w.bytes).1 := by
    rw [State.rereadMonitors, hord, hmonitors]
    rfl
  have hat : s.writeAt (.hbm x) w.bytes = ((s.hbmWrite x w.bytes).1, false) := by
    simp only [State.writeAt, hkept, hmon, Bool.false_eq_true, ↓reduceIte]
  simp only [State.ewrite, hw, hheld, hplace, hyield, hat, Bool.false_eq_true, ↓reduceIte]
  rfl
end Writes

section Written
variable {id x : Nat} {w : EWrite} (hclean : s.poisoned x = false)
include hclean

/-- What a clean write leaves of the state. -/
theorem hbmWrite_clean (bs : List Byte) : (s.hbmWrite x bs).1.ord = s.ord ∧ (s.hbmWrite x bs).1.runs = s.runs
    ∧ (s.hbmWrite x bs).1.mem.hbm = cellWrite s.mem.hbm x bs := by
  rw [State.hbmWrite, hclean]
  exact ⟨rfl, rfl, rfl⟩

theorem written_kept : (written s w x).ord = s.ord ∧ (written s w x).runs = s.runs ∧ (written s w x).mem.hbm = cellWrite s.mem.hbm x w.bytes := by
  obtain ⟨hord, hruns, hhbm⟩ := hbmWrite_clean hclean w.bytes
  unfold written
  dsimp only
  split <;> split <;> exact ⟨hord, hruns, hhbm⟩
end Written

theorem mem_insertNew {α : Type} [DecidableEq α] (a : α) (l : List α) : a ∈ insertNew a l := by
  unfold insertNew
  split
  · assumption
  · simp

theorem written_poison {x : Nat} {w : EWrite} (h : w.poison = true) : (written s w x).mem.poison.contains (x / 64) = true := by
  unfold written
  simp only [h, ↓reduceIte]
  split <;> exact List.contains_iff_mem.mpr (mem_insertNew _ _)

theorem written_full {x : Nat} {w : EWrite} (h : (w.sets && s.lineLast w) = true) : (written s w x).isFull x = true := by
  have hnot : (x / 64 ∈ (written s w x).mem.notFull) → False := by
    unfold written
    simp only [h, ↓reduceIte]
    intro hmem
    obtain ⟨_, hne⟩ := List.mem_filter.mp hmem
    simp at hne
  simpa [State.isFull] using hnot

/-- A write leaves the buffer. -/
def withoutWrite (s : State) (id : Nat) : State := { s with ord := { s.ord with wbuf := s.ord.wbuf.filter fun x => x.id != id } }

/-- Where the request of a write is gone, the write leaves the buffer and nothing else changes. -/
theorem noteOpen_wroteOne {t : State} {id : Nat} {w : EWrite} (hw : t.ord.wbuf.find? (fun w => w.id == id) = some w) (hreq : t.req? w.req = none) :
    ((t.noteOpen w).wroteOne id).mem = t.mem ∧ ((t.noteOpen w).wroteOne id).runs = t.runs
      ∧ ((t.noteOpen w).wroteOne id).ord.wbuf = t.ord.wbuf.filter fun y => y.id != id := by
  have hnote : (t.noteOpen w).mem = t.mem ∧ (t.noteOpen w).runs = t.runs ∧ (t.noteOpen w).ord.wbuf = t.ord.wbuf
      ∧ (t.noteOpen w).ord.reqs = t.ord.reqs := by
    unfold State.noteOpen
    split
    · exact ⟨rfl, rfl, rfl, modReq_none hreq⟩
    · exact ⟨rfl, rfl, rfl, rfl⟩
  obtain ⟨hmem, hruns, hbuf, hreqs⟩ := hnote
  have hafter (u : State) (hu : u.ord.reqs = t.ord.reqs) : u.afterWrites w.req = u := by
    unfold State.afterWrites
    split
    · rfl
    · rw [req?_congr hu, hreq]
  have hw' : (t.noteOpen w).ord.wbuf.find? (fun w => w.id == id) = some w := by rw [hbuf, hw]
  have hone : (t.noteOpen w).wroteOne id = withoutWrite (t.noteOpen w) id := by
    rw [State.wroteOne, hw']
    exact hafter (withoutWrite (t.noteOpen w) id) hreqs
  rw [hone]
  exact ⟨hmem, hruns, by rw [withoutWrite, hbuf]⟩

theorem lineLast_alone {w : EWrite} (hreq : s.req? w.req = none)
    (h : ∀ y ∈ s.ord.wbuf, y.req = w.req → y.id ≠ w.id → y.va / 64 ≠ w.va / 64) : s.lineLast w = true := by
  have hnone : (s.ord.wbuf.any fun y => y.req == w.req && y.id != w.id && y.va / 64 == w.va / 64 && !y.sent) = false := by
    rw [List.any_eq_false]
    intro y hy
    by_cases hr : y.req = w.req
    · by_cases hi : y.id = w.id
      · simp [hi]
      · simp [h y hy hr hi]
    · simp [hr]
  rw [State.lineLast, hnone, hreq]
  rfl

/-! ## What reading leaves -/

/-- The log changes memory, the dies and the count of free values alone. -/
theorem hbmWrite_mem (a : Nat) (bs : List Byte) : ∃ m, (s.hbmWrite a bs).1 = { s with mem := m } := by
  unfold State.hbmWrite
  dsimp only
  split
  · exact ⟨s.mem, rfl⟩
  · exact ⟨_, rfl⟩

theorem logEvent_rest (s : State) (d code : Nat) (dom run site aux addr : Option Nat) :
    ∃ m ds f, s.logEvent d code dom run site aux addr = { s with mem := m, dies := ds, free := f } := by
  unfold State.logEvent
  dsimp only
  split
  · exact ⟨_, _, _, rfl⟩
  · split
    · obtain ⟨m, hm⟩ := hbmWrite_mem (s := s) (fld (s.die d).errlog 56 12 * 4096
        + 32 * (((s.die d).errWritten.toNat - 1) % 2 ^ (7 + fld (s.die d).errlog 11 8)) + 3) [BitVec.ofNat 8 (if _ ≥ 255 then 255 else _ + 1)]
      rw [hm]
      exact ⟨_, _, _, rfl⟩
    · obtain ⟨m, hm⟩ := hbmWrite_mem (s := { s with free := s.free + 32 }) _ _
      rw [hm]
      exact ⟨_, _, _, rfl⟩

theorem foldl_rest {α : Type} {f : State → α → State} (hf : ∀ s x, ∃ m ds n, f s x = { s with mem := m, dies := ds, free := n }) :
    ∀ (l : List α) (s : State), ∃ m ds n, l.foldl f s = { s with mem := m, dies := ds, free := n }
  | [], s => ⟨s.mem, s.dies, s.free, rfl⟩
  | x :: l, s => by
    obtain ⟨m, ds, n, hx⟩ := hf s x
    obtain ⟨m', ds', n', hl⟩ := foldl_rest hf l (f s x)
    exact ⟨m', ds', n', by rw [List.foldl_cons, hl, hx]⟩

theorem noteAt_rest (s : State) (run : Option Nat) (p : Place) (n : Nat) :
    ∃ m ds f, s.noteAt run p n = { s with mem := m, dies := ds, free := f } := by
  unfold State.noteAt
  split
  · refine foldl_rest (fun s x => ?_) _ s
    dsimp only
    split
    · exact logEvent_rest ..
    · exact ⟨s.mem, s.dies, s.free, rfl⟩
  · exact ⟨s.mem, s.dies, s.free, rfl⟩

theorem noteRead_rest (s : State) (run : Option Nat) (slot va n : Nat) :
    ∃ m ds f, s.noteRead run slot va n = { s with mem := m, dies := ds, free := f } := by
  refine foldl_rest (fun s x => ?_) _ s
  dsimp only
  split
  · exact noteAt_rest ..
  · exact ⟨s.mem, s.dies, s.free, rfl⟩

/-- The lines that a request has had from other modules and reads now are gone. -/
def readLines (s : State) (q : Req) (va n : Nat) : State := { s with eng := { s.eng with fetched := s.eng.fetched.filter fun f =>
  !(f.req == q.id && decide (va < f.va + 64) && decide (f.va < va + n)) } }

/-- An engine that has all of what it reads goes on with it. -/
theorem withRead_reads {q : Req} {slot va n : Nat} {bad : State → WalkFault → Nat → State} {go : State → List Byte → List Nat → State}
    {rd : EngRead} {u : State} (hwaves : s.ord.waves = []) (hrd : s.eread q.id slot (n / 64 + 2) va n = .ok rd) (hmiss : rd.miss = [])
    (hu : (readLines s q va n).noteRead (some (s.identity q.run)) slot va n = u) : s.withRead q slot va n bad go = go u rd.bytes rd.psn := by
  have hreads : s.engineReads slot va n = some s := by
    rw [State.engineReads, hwaves]
    rfl
  rw [← hu, State.withRead, hreads]
  simp only [hrd, hmiss, List.isEmpty_nil, Bool.not_true, Bool.false_eq_true, ↓reduceIte]
  rfl

/-! ## Messages (13 R282, R283) -/

section Messages
variable {die k : Nat} {m : Msg} {r : Run} {p : Post}

/-- What a receive does with the payload of a message that has arrived. -/
def receives (r : Run) (p : Post) (m : Msg) (s : State) (bs : List Byte) (bad : List Nat) : State :=
  { s.dropMsg m with eng := { (s.dropMsg m).eng with posts := (s.dropMsg m).eng.posts.erase p } }.land r p m bs bad

section Arrival
variable (hm : nthOf die k s.eng.arrivals = some m) (hfirst : (s.eng.arrivals.takeWhile fun x => x != m) = []) (hrefused : m.refused = false)
  (hwhole : (m.back.isNone || m.bytes.length == m.len) = true) (hcancels : s.eng.cancels = []) (hrun : s.run? m.dst = some r)
  (hpost : s.eng.posts.find? (fun p => p.die == die && recvMatches p.desc p.run m.dst m.src m.tag) = some p)
include hm hfirst hrefused hwhole hcancels hrun hpost

/-- The first message of its class meets the first receive that matches it. -/
theorem messageArrival_meets : s.messageArrival die k =
    if relLenBad p.desc m.len then (s.dropMsg m).sendStatus m 7 else s.withPayload m (receives r p m) := by
  have hkept : s.cancelledNow m = false := by
    rw [State.cancelledNow, hcancels]
    rfl
  simp only [State.messageArrival, hm, hfirst, hrefused, hwhole, hkept, hrun, hpost, List.any_nil, Bool.false_and, Bool.not_true, Bool.or_self,
    Bool.false_eq_true, ↓reduceIte]
  rfl
end Arrival

theorem withPayload_here {go : State → List Byte → List Nat → State} (hlen : m.bytes.length = m.len) :
    s.withPayload m go = go s m.bytes m.poison := by
  rw [State.withPayload, if_pos hlen]

theorem rendezvousPull_matched (hm : nthOf die k s.eng.unexpected = some m) (hmatched : m.matched = some p) (hrun : s.run? m.dst = some r) :
    s.rendezvousPull die k = s.withPayload m fun s bs bad => (s.dropMsg m).land r p m bs bad := by
  simp only [State.rendezvousPull, hm, hmatched, hrun]

/-- A payload that is pulled from its sender. -/
theorem withPayload_pulls {go : State → List Byte → List Nat → State} {q : Req} {rd : EngRead} {u : State} (hlen : m.bytes.length ≠ m.len)
    (hq : s.req? m.req = some q) (hwaves : s.ord.waves = []) (hrd : s.eread q.id (q.slotOf s) (m.len / 64 + 2) q.src m.len = .ok rd)
    (hmiss : rd.miss = []) (hu : (readLines s q q.src m.len).noteRead (some (s.identity q.run)) (q.slotOf s) q.src m.len = u) :
    s.withPayload m go = go u rd.bytes (rd.psn.map (· - q.src / 64)) := by
  rw [State.withPayload, if_neg hlen, hq]
  exact withRead_reads hwaves hrd hmiss hu
end Messages

/-! ### Landings -/

section Land
variable {q : Req} {slot : Nat} {ws : List (Nat × List Byte × Bool)}

theorem bufWrites_wbuf {β : Type} (f : EWrite → β) (g : Nat × List Byte × Bool → β)
    (hf : ∀ (id : Nat) (w : Nat × List Byte × Bool), f ⟨id, q.id, q.run, q.die, slot, w.1, w.2.1, w.2.2, q.kind != .stash, q.kind, q.order,
      false, q.elem, q.serial, q.port, q.stamp⟩ = g w) :
    (s.bufWrites q slot ws).ord.wbuf.map f = s.ord.wbuf.map f ++ ws.map g := by
  have hnew : (ws.zipIdx.map fun (w, i) => (⟨s.ord.nextId + i, q.id, q.run, q.die, slot, w.1, w.2.1, w.2.2, q.kind != .stash, q.kind, q.order,
      false, q.elem, q.serial, q.port, q.stamp⟩ : EWrite)).map f = ws.map g := by
    rw [List.map_map]
    have hcomp : (f ∘ fun (x : (Nat × List Byte × Bool) × Nat) => (⟨s.ord.nextId + x.2, q.id, q.run, q.die, slot, x.1.1, x.1.2.1, x.1.2.2,
        q.kind != .stash, q.kind, q.order, false, q.elem, q.serial, q.port, q.stamp⟩ : EWrite)) = fun x => g x.1 :=
      funext fun x => hf _ x.1
    refine (congrArg (fun h => List.map h ws.zipIdx) hcomp).trans ?_
    rw [← Function.comp_def, ← List.map_map, List.zipIdx_map_fst]
  exact (List.map_append ..).trans (congrArg _ hnew)

/-- The writes of a landing at an address. -/
def landWrites (p : Post) (m : Msg) (bs : List Byte) (bad : List Nat) : List (Nat × List Byte × Bool) :=
  psnWrites (fld p.desc 56 0) 0 (bs.take (min m.len (fld p.desc 95 64))) bad

/-- The status of a landing: poisoned, cut short, or whole. -/
def landStatus (p : Post) (m : Msg) (bad : List Nat) : Nat := if !bad.isEmpty then 3 else if fld p.desc 95 64 < m.len then 1 else 0

/-- A landing at an address: a request with its completion at the end, and its writes in the buffer. -/
theorem land_writes {r : Run} {p : Post} {m : Msg} {bs : List Byte} {bad : List Nat} (hplain : p.desc.getLsbD 96 = false)
    (hsome : landWrites p m bs bad ≠ []) : ∃ (u : State) (q : Req), s.land r p m bs bad = u.bufWrites q r.slot (landWrites p m bs bad)
      ∧ q ∈ u.ord.reqs ∧ u.ord.wbuf = s.ord.wbuf ∧ q.kind = .postr ∧ q.chan = fld p.desc 100 97
      ∧ q.held = [completionTok (landStatus p m bad) m.src m.tag (min m.len (fld p.desc 95 64)) (recvCookie p.desc) .data 0] := by
  have hne : (landWrites p m bs bad).isEmpty = false := by simpa using hsome
  rw [landWrites] at hne
  unfold State.land
  simp only [hplain, Bool.not_false, hne, Bool.false_eq_true, ↓reduceIte]
  exact ⟨_, _, rfl, List.mem_append_right _ (List.mem_singleton_self _), rfl, rfl, rfl, rfl⟩

theorem landStatus_eq (p : Post) (m : Msg) (bad : List Nat) :
    landStatus p m bad = if bad ≠ [] then 3 else if fld p.desc 95 64 < m.len then 1 else 0 := by
  cases bad <;> rfl
end Land

/-! ## A sector of a copy (13 R286, R287) -/

section Sector
variable {id k : Nat} {q : Req}

/-- The request after sector `k`, its first, with `q.doneS` empty. -/
theorem advance_first (hfirst : q.first = k) (hdone : q.doneS = []) (live : Bool) :
    ∃ fl, q.advance k live = { q with first := k + 1, doneS := [], inflight := fl } := by
  have hlen : ((List.range 65).takeWhile fun i => (k :: q.doneS).contains (q.first + i)).length = 1 := by
    have hrange : List.range 65 = 0 :: 1 :: List.range' 2 63 := by decide
    rw [hrange, hfirst, hdone, List.takeWhile_cons_of_pos (by simp), List.takeWhile_cons_of_neg (by simp)]
    rfl
  have hrest : (k :: q.doneS).filter (fun x => decide (q.first + 1 ≤ x)) = [] := by
    rw [hfirst, hdone, List.filter_cons_of_neg (by simp)]
    rfl
  unfold Req.advance
  dsimp only
  rw [hlen, hrest, hfirst]
  exact ⟨_, rfl⟩

/-- Lines that a request is done with become FULL; of the request only what it has left open changes. -/
theorem closeLines_kept (h : s.req? id = some q) :
    ∃ op, (s.closeLines id).req? id = some { q with opened := op } ∧ (s.closeLines id).ord.wbuf = s.ord.wbuf := by
  unfold State.closeLines
  rw [h]
  dsimp only
  generalize hu : List.foldl _ s _ = u
  have hord : u.ord = s.ord := by
    rw [← hu]
    refine foldl_keeps (g := fun s => s.ord) (fun s x => ?_) _ s
    split <;> rfl
  have hfound : u.req? id = some q := (req?_congr (by rw [hord])).trans h
  refine ⟨_, req?_modReq hfound fun _ => rfl, ?_⟩
  show u.ord.wbuf = s.ord.wbuf
  rw [hord]

/-- A source line that was poisoned is noted in the status. -/
theorem notePoison_kept (h : s.req? id = some q) (bad : List Nat) :
    (s.notePoison id bad).req? id = some { q with status := if bad = [] then q.status else 2 }
      ∧ (s.notePoison id bad).ord.wbuf = s.ord.wbuf := by
  unfold State.notePoison
  cases bad with
  | nil => exact ⟨h, rfl⟩
  | cons b bs => exact ⟨req?_modReq h fun _ => rfl, rfl⟩

/-- What a sector that is not the last makes of its request. -/
def sectorOver (k : Nat) (live : Bool) (x : Req) : Req :=
  { x.advance k live with finished := decide ((x.advance k live).sectors ≤ (x.advance k live).first) }

theorem sectorOver_first (hfirst : q.first = k) (hdone : q.doneS = []) (hmore : k + 1 < q.sectors) (live : Bool) :
    (sectorOver k live q).first = k + 1 ∧ (sectorOver k live q).finished = false ∧ (sectorOver k live q).status = q.status := by
  obtain ⟨fl, hadv⟩ := advance_first hfirst hdone live
  have hsectors : (q.advance k live).sectors = q.sectors := by rw [hadv]; rfl
  have hnext : (q.advance k live).first = k + 1 := by rw [hadv]
  have hstatus : (q.advance k live).status = q.status := by rw [hadv]
  refine ⟨hnext, ?_, hstatus⟩
  show decide ((q.advance k live).sectors ≤ (q.advance k live).first) = false
  rw [hsectors, hnext]
  exact decide_eq_false (Nat.not_le.mpr hmore)

theorem sectorOver_id (k : Nat) (live : Bool) (x : Req) : (sectorOver k live x).id = x.id := rfl

/-- A sector that is not the last is closed; the copy goes on. -/
theorem closeSector_next (h : s.req? id = some q) (hfirst : q.first = k) (hdone : q.doneS = []) (hmore : k + 1 < q.sectors) (live : Bool) :
    ∃ y, (s.closeSector id k live false none).req? id = some y ∧ y.first = k + 1 ∧ y.finished = false ∧ y.status = q.status
      ∧ (s.closeSector id k live false none).ord.wbuf = s.ord.wbuf := by
  obtain ⟨hnext, hgoes, hstatus⟩ := sectorOver_first hfirst hdone hmore live
  obtain ⟨op, hreq, hbuf⟩ := closeLines_kept (req?_modReq (f := sectorOver k live) h (sectorOver_id k live))
  have hclose : s.closeSector id k live false none = (s.modReq id (sectorOver k live)).closeLines id := by
    have htry : ((s.modReq id (sectorOver k live)).closeLines id).xferTry id = (s.modReq id (sectorOver k live)).closeLines id := by
      simp only [State.xferTry, hreq, hgoes, Bool.false_eq_true, false_and, and_false, ↓reduceIte]
    refine Eq.trans ?_ htry
    unfold State.closeSector
    simp only [Bool.false_eq_true, ↓reduceIte, Bool.false_or]
    split
    · rename_i hnone
      cases hnone
    · rfl
  rw [hclose]
  exact ⟨_, hreq, hnext, hgoes, hstatus, hbuf⟩

section Reads
variable {r : Run} {rd : EngRead} {u : State} (hq : s.req? id = some q) (hrun : s.run? q.run = some r) (hkind : q.kind = .xfer)
  (htaken : q.taken = true) (hopen : q.finished = false) (hnew : q.sectorDone k = false) (hflight : q.inflight.contains k = true)
  (hfrom : xfFkind q.packet = 0) (hto : xfTkind q.packet = 0) (hcheck : xfCheck q.packet = false) (hwaves : s.ord.waves = [])
  (hrd : s.eread q.id r.slot (min 4096 (q.len - 4096 * k) / 64 + 2) (q.src + 4096 * k) (min 4096 (q.len - 4096 * k)) = .ok rd)
  (hmiss : rd.miss = [])
  (hu : (readLines s q (q.src + 4096 * k) (min 4096 (q.len - 4096 * k))).noteRead (some (s.identity q.run)) r.slot (q.src + 4096 * k)
    (min 4096 (q.len - 4096 * k)) = u)
  (hwritable : u.unwritable r.slot (q.dst + 4096 * k) (min 4096 (q.len - 4096 * k)) = none)
include hq hrun hkind htaken hopen hnew hflight hfrom hto hcheck hwaves hrd hmiss hu hwritable

/-- A sector between memory and memory: what it has read enters the write buffer. -/
theorem sectorDone_copies : s.sectorDone id k =
    ((u.bufWrites q r.slot (psnWrites (q.dst + 4096 * k) (q.src + 4096 * k) rd.bytes rd.psn)).notePoison id rd.psn).closeSector id k
      (r.st == .resident) false none := by
  have hread := fun bad go => withRead_reads (bad := bad) (go := go) hwaves hrd hmiss hu
  have hone : ¬(0 = 1) := by decide
  simp only [State.sectorDone, hq, hrun, hkind, htaken, hopen, hnew, hflight, hfrom, hto, hcheck, hone, Bool.true_or, Bool.not_true,
    Bool.false_eq_true, or_self, ne_eq, not_true_eq_false, Option.isSome_none, false_and, ↓reduceIte]
  rw [hread]
  simp only [hwritable]
  rfl

theorem sectorDone_next (hfirst : q.first = k) (hdone : q.doneS = []) (hmore : k + 1 < q.sectors) :
    ∃ y, (s.sectorDone id k).req? id = some y ∧ y.first = k + 1 ∧ y.finished = false ∧ y.status = (if rd.psn = [] then q.status else 2)
      ∧ (s.sectorDone id k).ord.wbuf.map (fun w => (w.va, w.bytes, w.req)) = s.ord.wbuf.map (fun w => (w.va, w.bytes, w.req))
        ++ (psnWrites (q.dst + 4096 * k) (q.src + 4096 * k) rd.bytes rd.psn).map (fun w => (w.1, w.2.1, q.id)) := by
  have hord : u.ord = s.ord := by
    obtain ⟨m, ds, f, hrest⟩ := noteRead_rest (readLines s q (q.src + 4096 * k) (min 4096 (q.len - 4096 * k))) (some (s.identity q.run)) r.slot
      (q.src + 4096 * k) (min 4096 (q.len - 4096 * k))
    rw [← hu, hrest]
    rfl
  have hbuffered : (u.bufWrites q r.slot (psnWrites (q.dst + 4096 * k) (q.src + 4096 * k) rd.bytes rd.psn)).req? id = some q :=
    (req?_congr (by rw [← hord]; rfl)).trans hq
  obtain ⟨hnoted, hnotedBuf⟩ := notePoison_kept hbuffered rd.psn
  obtain ⟨y, hy, hnext, hgoes, hstatus, hbuf⟩ := closeSector_next hnoted hfirst hdone hmore (r.st == .resident)
  rw [sectorDone_copies hq hrun hkind htaken hopen hnew hflight hfrom hto hcheck hwaves hrd hmiss hu hwritable]
  refine ⟨y, hy, hnext, hgoes, hstatus, ?_⟩
  rw [hbuf, hnotedBuf, bufWrites_wbuf (fun w => (w.va, w.bytes, w.req)) (fun w => (w.1, w.2.1, q.id)) fun _ _ => rfl, hord]
end Reads
end Sector

/-! ## The ingress decoder (05 R89, R90) -/

/-- A half of an expanded block. -/
def blockHalf (els : List Nat) (chan i : Nat) (m : Mark) : Token :=
  vecTok (packLanes ((List.range 16).map fun l => BitVec.ofNat 32 (els.getD (16 * i + l) 0))) 0xFFFF m (32 + chan)

theorem decodeHead_expands {e : ElemRef} {input : Nat} {h : Here} {f : Fab} {t : Token} {rest : List Token} {els : List Nat}
    (hsite : s.site e = some h) (hfab : (instrAt h.blk e.idx).bind fabOf = some f) (hhead : h.elem.queue input = t :: rest) (hvec : t.vec = true)
    (hfmt : (h.load.chan t.chan).fmt = 5 ∨ (h.load.chan t.chan).fmt = 6) (hunit : f.unit ≠ 15) (hmark : t.mark.isEnd = false)
    (hres : h.run.st = .resident) (hpsn : t.isPoison = false) (hdecode : decodeBlock (h.load.chan t.chan).fmt h.load.ctabs t.data = some els) :
    s.decodeHead e input = s.modElem e fun el => el.setQueue input
      ({ blockHalf els t.chan 0 .data with skip := t.skip } :: blockHalf els t.chan 1 t.mark :: rest) := by
  have hcoded : ((h.load.chan t.chan).fmt == 5 || (h.load.chan t.chan).fmt == 6) = true := by simpa using hfmt
  have hnot15 : (f.unit == 15#4) = false := beq_eq_false_iff_ne.mpr hunit
  have hlive : (h.run.st != .resident) = false := by rw [hres]; rfl
  simp only [State.decodeHead, hsite, hfab, hhead, hvec, hcoded, hnot15, hmark, hlive, hpsn, hdecode, Bool.not_true, Bool.or_self,
    Bool.false_eq_true, ↓reduceIte]
  rfl

/-- Settles O24: each event is one branch of its function; a landing and a sector are what their writes and their request come to. -/
theorem engineEvents : Obligations.EngineEvents := by
  refine ⟨?dequeue, ?write, ?waits, ?resend, ?arrival, ?pull, ?payload, ?land, ?sector, ?stall, ?decode⟩
  case dequeue =>
    exact fun s id q r hq hrun hnew row hrow hk => congrArg Host.Outcome.next (dequeue_hands hq hrun hnew row hrow hk)
  case write =>
    intro s id x w hw hmonitors hsent hfree hplace hwaves hclean hreq
    obtain ⟨hord, hruns, hhbm⟩ := written_kept (w := w) hclean
    obtain ⟨hmem, hruns', hbuf⟩ := noteOpen_wroteOne (t := written s w x) (id := id) (w := w) (by rw [hord]; exact hw)
      ((req?_congr (by rw [hord])).trans hreq)
    refine ⟨_, congrArg Host.Outcome.next (ewrite_performs hw hmonitors hsent hfree hplace hwaves hclean), ?_, ?_, ?_, fun hp => ?_,
      fun hsets halone => ?_⟩
    · rw [hmem, hhbm]
    · rw [hbuf, hord]
    · rw [hruns', hruns]
    · rw [hmem]
      exact written_poison hp
    · rw [State.isFull, hmem]
      exact written_full (by rw [hsets, lineLast_alone hreq halone]; rfl)
  case waits => exact fun s id w hw hheld => congrArg Host.Outcome.next (ewrite_waits hw hheld)
  case resend =>
    intro s id c q hq hstall hkind hdue
    refine ⟨_, congrArg Host.Outcome.next (sendRetry_due hq hstall hkind hdue), rfl, ?_⟩
    exact congrArg (Option.map (·.stallAt)) (req?_modReq (f := fun x => { x with stallAt := none }) hq fun _ => rfl)
  case arrival =>
    intro s die k m r p hm hfirst hrefused hwhole hcancels hrun hpost
    have hmeets := messageArrival_meets hm hfirst hrefused hwhole hcancels hrun hpost
    refine ⟨fun hbad => congrArg Host.Outcome.next (hmeets.trans (if_pos hbad)), fun hgood => ?_⟩
    have htakes := hmeets.trans (if_neg (by rw [hgood]; exact Bool.false_ne_true))
    exact ⟨fun hlen => congrArg Host.Outcome.next (htakes.trans (withPayload_here hlen)), fun _ => congrArg Host.Outcome.next htakes⟩
  case pull =>
    exact fun s die k m p r hm hmatched hrun => congrArg Host.Outcome.next (rendezvousPull_matched hm hmatched hrun)
  case payload => exact fun s m q rd go hlen hq hwaves hrd hmiss => withPayload_pulls hlen hq hwaves hrd hmiss rfl
  case land =>
    intro s r p m bs bad hplain n ws hsome
    obtain ⟨u, q, hland, hmem, hbuf, hkind, hchan, hheld⟩ := land_writes (s := s) (r := r) (bad := bad) hplain hsome
    rw [hland]
    refine ⟨?_, q, hmem, hkind, hchan, ?_⟩
    · rw [bufWrites_wbuf (fun w => (w.va, w.bytes, w.poison)) id fun _ _ => rfl, hbuf, List.map_id]
      rfl
    · rw [hheld, landStatus_eq]
  case sector =>
    intro s id k q r rd hq hrun _ hkind htaken hopen hnew hflight hfrom hto hcheck hmore hfirst hdone n a hwaves hrd hmiss hwritable
    obtain ⟨y, hy, hnext, hgoes, hstatus, hbuf⟩ := sectorDone_next hq hrun hkind htaken hopen hnew hflight hfrom hto hcheck hwaves hrd hmiss rfl
      hwritable hfirst hdone hmore
    exact ⟨_, y, rfl, hy, hnext, hgoes, hstatus, hbuf⟩
  case stall =>
    exact fun s id c q hq hstall hkind hnew hdue => congrArg Host.Outcome.next (stashTimeout_due hq hstall hkind hnew hdue)
  case decode =>
    exact fun s e input h f t rest els hsite hfab hhead hvec hfmt hunit hmark hres hpsn hdecode =>
      congrArg Host.Outcome.next (decodeHead_expands hsite hfab hhead hvec hfmt hunit hmark hres hpsn hdecode)

end Sys2Proof.Proofs.Engines
end

section
/-! Queues between the host and the module, ingress ports and rings (08 R163, 20 R340, R342, 24 R384, R385; O23). -/

namespace Sys2Proof.Proofs.HostQueues
open Sys2Proof.Machine Sys2Proof.Laws Sys2Proof.Proofs.AcquireRelease

variable {s : State}

/-! ## Host reads and writes (08 R163, 24 R385) -/

theorem bar4Read_reads {slot addr n : Nat} {bs : List Byte} {psn : Bool} {u : State} (hwaves : s.ord.waves = [])
    (hu : s.noteRead none slot addr n = u) (hread : u.vread slot addr n = .ok (bs, psn)) : s.bar4Read slot addr n = u.toHost 4 bs := by
  have hreads : s.engineReads slot addr n = some s := by
    rw [State.engineReads, hwaves]
    rfl
  rw [State.bar4Read, hreads]
  simp only [hu, hread]

section HostWrite
variable {h : HostItem} (hfind : s.ord.hostq.find? (fun h => h.write) = some h) (hsent : h.sent = false)
include hfind hsent

theorem performHost_writes {x : Nat} (hplace : s.vplace h.a h.b true = .ok (.hbm x)) (hfree : s.conflicts (x / 64) true none = []) :
    s.performHost h.id = (s.storeBy ⟨homeDie x, h.a, h.b, none, []⟩ (.hbm x) (h.bytes.take (64 - h.b % 64))).hostAdvance h.id := by
  have hfree' : s.conflicts (placeKey (.hbm x)) true none = [] := hfree
  simp only [State.performHost, hfind, hsent, hplace, hfree', List.isEmpty_nil, ne_eq, not_true_eq_false, Bool.not_true, Bool.false_eq_true,
    or_self, ↓reduceIte]

theorem performHost_drops {e : WalkFault} (hplace : s.vplace h.a h.b true = .error e) : s.performHost h.id = s.hostAdvance h.id := by
  simp only [State.performHost, hfind, hsent, hplace, ne_eq, not_true_eq_false, Bool.false_eq_true, or_self, ↓reduceIte]
end HostWrite

theorem advance_last {h : HostItem} (hlen : h.bytes.length ≤ 64 - h.b % 64) : h.advance = none := by
  rw [HostItem.advance, Nat.min_eq_left hlen]
  exact if_pos (Nat.le_refl _)

theorem advance_more {h : HostItem} (hlen : 64 - h.b % 64 < h.bytes.length) :
    h.advance = some { h with b := h.b + (64 - h.b % 64), bytes := h.bytes.drop (64 - h.b % 64), sent := false } := by
  rw [HostItem.advance, Nat.min_eq_right (Nat.le_of_lt hlen)]
  exact if_neg (Nat.not_le.mpr hlen)

/-! ## Tokens to runs and to the host (24 R384) -/

section Deliver
variable {die port run : Nat} {h : HostItem} {p : HPort}
  (hfind : s.ord.hostq.find? (fun h => !h.write && h.a == die && h.b == port) = some h)
  (hport : s.adm.ports.find? (fun p => p.die == die && p.port == port) = some p) (hbound : p.run = some run)
include hfind hport hbound

theorem hdeliver_behind (hahead : ((s.ord.hostq.takeWhile fun x => x.id != h.id).any (·.write)) = true) : s.hdeliver die port = s := by
  simp only [State.hdeliver, hfind, hport, hbound, hahead, true_or, ↓reduceIte]

theorem hdeliver_delivers (hrun : (s.run? run).isSome = true)
    (hahead : ((s.ord.hostq.takeWhile fun x => x.id != h.id).any (·.write)) = false) : s.hdeliver die port =
      ({ s with ord := { s.ord with hostq := s.ord.hostq.filter fun x => x.id != h.id } } : State).modRun run fun r =>
        { r with inq := r.inq ++ [Token.ofScalarBits (h.word.setWidth 46)] } := by
  have hlive : (s.run? run).isNone = false := by
    rw [← Option.not_isSome, hrun]
    rfl
  simp only [State.hdeliver, hfind, hport, hbound, hahead, hlive, Bool.false_eq_true, or_self, ↓reduceIte]
end Deliver

/-! ### Rings (24 R384) -/

theorem ring_setRing (slot n : Nat) (v : BitVec 128) : (s.setRing slot n v).ring slot n = v := by
  have hnone : (s.adm.rings.filter fun r => !(r.slot == slot && r.ring == n)).find? (fun r => r.slot == slot && r.ring == n) = none :=
    List.find?_eq_none.mpr fun x hx hx' => by simpa [hx'] using (List.mem_filter.mp hx).2
  rw [State.ring, State.setRing]
  dsimp only
  rw [List.find?_append, hnone, Option.none_or, List.find?_cons_of_pos (by simp)]
  rfl

/-- The HEAD of a ring register that has been advanced. -/
theorem fld_head (v : BitVec 128) (k : Nat) (hk : k < 2 ^ 32) :
    fld (BitVec.ofNat 128 (v.toNat - fld v 95 64 * 2 ^ 64 + k * 2 ^ 64)) 95 64 = k := by
  have hv := v.isLt
  simp only [fld, BitVec.toNat_ofNat, Nat.shiftRight_eq_div_pow]
  omega

/-- Where the next entry of a ring goes. -/
def entryAt (v : BitVec 128) : Nat := fld v 63 12 * 4096 + 16 * (fld v 95 64 % 2 ^ (6 + fld v 3 0))

/-- The entry: token, identity, phase bit (24 R384). -/
def entryOf (v : BitVec 128) (tok : W64) (identity : Nat) : List Byte :=
  natBytes 8 (tok.toNat % 2 ^ 46) ++ natBytes 8 (identity % 2 ^ 24 + (fld v 95 64 / 2 ^ (6 + fld v 3 0) + 1) % 2 * 2 ^ 63)

/-- An entry is written and HEAD moves on. -/
theorem postEntry_posts (slot n : Nat) (tok : W64) (identity : Nat) :
    (s.postEntry slot n tok identity).mem.host = cellWrite s.mem.host (entryAt (s.ring slot n)) (entryOf (s.ring slot n) tok identity)
      ∧ fld ((s.postEntry slot n tok identity).ring slot n) 95 64 = (fld (s.ring slot n) 95 64 + 1) % 2 ^ 32
      ∧ (s.postEntry slot n tok identity).mem.hbm = s.mem.hbm := by
  refine ⟨rfl, ?_, rfl⟩
  rw [State.postEntry, ring_setRing]
  exact fld_head _ _ (Nat.mod_lt _ (by decide))

section Egress
variable {slot ring : Nat} {t : EgTok} (hfind : s.ord.egq.find? (fun t => t.slot == slot && t.ring == ring) = some t)
include hfind

/-- A token whose accesses are under way, or whose ring is full, waits. -/
theorem edeliver_waits (h : (s.ord.accs.any fun a => t.before.contains a.id) = true
    ∨ ¬(fld (s.ring slot ring) 95 64 + 2 ^ 32 - fld (s.ring slot ring) 127 96) % 2 ^ 32 < 2 ^ (6 + fld (s.ring slot ring) 3 0)) :
    s.edeliver slot ring = s := by
  rw [State.edeliver, hfind]
  refine if_pos ?_
  rw [Bool.or_eq_true, decide_eq_true_eq]
  exact h.imp_right Nat.not_lt.mp

theorem edeliver_posts (hheld : (s.ord.accs.any fun a => t.before.contains a.id) = false)
    (hroom : (fld (s.ring slot ring) 95 64 + 2 ^ 32 - fld (s.ring slot ring) 127 96) % 2 ^ 32 < 2 ^ (6 + fld (s.ring slot ring) 3 0)) :
    ∃ ds, s.edeliver slot ring = ({ s with ord := { s.ord with egq := s.ord.egq.erase t }, dies := ds } : State).postEntry slot ring t.word
      (s.identity t.run) := by
  rw [State.edeliver, hfind]
  dsimp only
  rw [if_neg (by rw [hheld, decide_eq_false (Nat.not_le.mpr hroom)]; exact Bool.false_ne_true)]
  cases t.fault with
  | none => exact ⟨s.dies, rfl⟩
  | some d => exact ⟨_, rfl⟩
end Egress

/-! ## Ingress ports (20 R340, R342) -/

theorem port_setPort (p : HPort) : (s.setPort p).port p.die p.port = p := by
  have hnone : (s.adm.ports.filter fun q => !(q.die == p.die && q.port == p.port)).find? (fun q => q.die == p.die && q.port == p.port) = none :=
    List.find?_eq_none.mpr fun x hx hx' => by simpa [hx'] using (List.mem_filter.mp hx).2
  rw [State.port, State.setPort]
  dsimp only
  rw [List.find?_append, hnone, Option.none_or, List.find?_cons_of_pos (by simp)]
  rfl

theorem port_setPort_of {p : HPort} {die port : Nat} (hdie : p.die = die) (hport : p.port = port) : (s.setPort p).port die port = p := by
  subst hdie hport
  exact port_setPort p

/-- The port of a die and number is of that die and number. -/
theorem port_site (die port : Nat) : (s.port die port).die = die ∧ (s.port die port).port = port := by
  rw [State.port]
  cases hp : s.adm.ports.find? (fun p => p.die == die && p.port == port) with
  | none => exact ⟨rfl, rfl⟩
  | some p =>
    have htest := List.find?_some hp
    simpa using htest

theorem launchIn_next {die port : Nat} (w : W64) (hready : s.ready = true) (hdie : die < 8) (hport : port < 256)
    (hfree : (s.port die port).run = none) : s.launchIn die port w =
      if (s.port die port).words.length + 1 < 10 then s.setPort { s.port die port with words := (s.port die port).words ++ [w] }
      else s.portLaunch (s.port die port) ((s.port die port).words ++ [w]) := by
  have hd : decide (8 ≤ die) = false := decide_eq_false (Nat.not_le.mpr hdie)
  have hp : decide (256 ≤ port) = false := decide_eq_false (Nat.not_le.mpr hport)
  simp only [State.launchIn, hready, hd, hp, hfree, Option.isSome_none, Bool.not_true, Bool.or_self, Bool.false_eq_true, List.length_append,
    List.length_singleton, ↓reduceIte]

section Launch
variable {p : HPort} {ws : List W64} (hw0 : fld (ws.getD 0 0) 63 57 = 0) (hw1 : fld (ws.getD 1 0) 63 15 = 0)
include hw0 hw1

section Known
variable {d : Nat} (hctx : (s.ctx? (fld (ws.getD 1 0) 7 0)).isSome = true)
  (htenant : tenEn (s.tenant (s.tenantOf (fld (ws.getD 1 0) 7 0))) = true) (hany : (ws.getD 1 0).getLsbD 11 = false)
  (hdie : s.pickDie (fld (ws.getD 1 0) 7 0) = some d)
include hctx htenant hany hdie

theorem portLaunch_noIds (hid : s.freeRunId = none) : s.portLaunch p ws = s.portFree p 1 := by
  simp only [State.portLaunch, hw0, hw1, hctx, htenant, hany, hdie, hid, ne_eq, not_true_eq_false, or_self, Bool.and_self, Bool.false_eq_true,
    ↓reduceIte]

/-- The launch of the ten words. -/
def launchOf (p : HPort) (ws : List W64) (k d : Nat) : Launch :=
  ⟨k, fld (ws.getD 1 0) 7 0, fld (ws.getD 0 0) 56 0, d, some (p.die, p.port), none, ws.drop 2, fld (ws.getD 1 0) 10 8, p.port % 16⟩

theorem portLaunch_binds {k : Nat} (hid : s.freeRunId = some k) : s.portLaunch p ws =
    ({ s with adm := { s.adm with launches := s.adm.launches ++ [launchOf p ws k d] } } : State).setPort
      { p with words := [], run := some k, ident := s.identity k, lstat := 0, used := 0 } := by
  simp only [State.portLaunch, hw0, hw1, hctx, htenant, hany, hdie, hid, ne_eq, not_true_eq_false, or_self, Bool.and_self, Bool.false_eq_true,
    ↓reduceIte]
  rfl
end Known

section Unknown
variable (hctx : s.ctx? (fld (ws.getD 1 0) 7 0) = none)
include hctx

theorem portLaunch_noContext : s.portLaunch p ws = s.noContext p (fld (ws.getD 1 0) 7 0) := by
  simp only [State.portLaunch, hw0, hw1, hctx, Option.isSome_none, Bool.false_and, ne_eq, not_true_eq_false, or_self, ↓reduceIte]

end Unknown
end Launch

theorem noContext_unknown {p : HPort} {slot : Nat} (h : s.adm.torn.all (fun q => q.1 != slot) = true) : s.noContext p slot = s.portFree p 3 := by
  have hnone : s.adm.torn.find? (fun t => t.1 == slot && (s.ctx? slot).isNone) = none :=
    List.find?_eq_none.mpr fun x hx => by
      have := List.all_eq_true.mp h x hx
      simp only [bne_iff_ne] at this
      simp [this]
  rw [State.noContext, hnone]

/-- A launch that meets a teardown is counted in its report. -/
theorem noContext_torn {p : HPort} {slot : Nat} {q : Nat × Nat × Nat} {rest : List (Nat × Nat × Nat)} (hctx : s.ctx? slot = none)
    (htorn : s.adm.torn = q :: rest) (hq : q.1 = slot) : ∃ torn, s.noContext p slot =
      ({ s with mem := { s.mem with host := cellWrite s.mem.host (q.2.1 + 4) (natBytes 4 (q.2.2 + 1)) }
                adm := { s.adm with torn := torn } } : State).portFree p 4 := by
  have hfirst : s.adm.torn.find? (fun t => t.1 == slot && (s.ctx? slot).isNone) = some q := by
    rw [htorn, List.find?_cons_of_pos (by simp [hq, hctx])]
  rw [State.noContext, hfirst]
  exact ⟨_, rfl⟩

theorem tokenIn_queues {die port run : Nat} (w : W64) (hbound : (s.port die port).run = some run) (hcredit : (s.port die port).used < 64) :
    ((s.tokenIn die port w).port die port).used = (s.port die port).used + 1 ∧ (s.tokenIn die port w).ord.hostq = s.ord.hostq
      ++ [⟨s.ord.nextId, false, die, port, [], BitVec.ofNat 64 (w.toNat % 2 ^ 46), false⟩] := by
  obtain ⟨hdie, hport⟩ := port_site (s := s) die port
  have hheld := port_setPort_of (s := s.fresh.2) (p := { s.port die port with used := (s.port die port).used + 1 }) hdie hport
  have hgo : ¬((s.port die port).run.isNone = true ∨ 64 ≤ (s.port die port).used) := by
    rw [hbound]
    simpa using hcredit
  rw [State.tokenIn]
  dsimp only
  rw [if_neg hgo]
  exact ⟨congrArg HPort.used hheld, rfl⟩

/-- Settles O23: the queues keep their order by their definitions; each event is one branch, and a ring or port reads back what was put
there. -/
theorem hostQueuesAndPorts : Obligations.HostQueuesAndPorts := by
  refine ⟨?write, ?read, ?perform, ?deliver, ?egress, ?word, ?launch, ?torn, ?token⟩
  case write => exact fun s slot addr bs => rfl
  case read =>
    intro s slot addr n bs psn hwaves t hread
    have hu : s.noteRead none slot addr n = t := rfl
    clear_value t
    exact congrArg Host.Outcome.next (bar4Read_reads hwaves hu hread)
  case perform =>
    intro s x h hfind hsent hacc
    have hperf : exec (.perform (.whole h.id)) s = .next (s.performHost h.id) := by
      rw [exec_perform, State.perform, hacc]
    exact ⟨fun hplace hfree => hperf.trans (congrArg Host.Outcome.next (performHost_writes hfind hsent hplace hfree)),
      fun e hplace => hperf.trans (congrArg Host.Outcome.next (performHost_drops hfind hsent hplace)), advance_last, advance_more⟩
  case deliver =>
    intro s die port run h p hfind hport hbound hrun
    exact ⟨fun hahead => congrArg Host.Outcome.next (hdeliver_delivers hfind hport hbound hrun hahead),
      fun hahead => congrArg Host.Outcome.next (hdeliver_behind hfind hport hbound hahead)⟩
  case egress =>
    intro s slot ring t hfind held v head size free bytes
    refine ⟨fun hheld hroom => ?_, fun h => congrArg Host.Outcome.next (edeliver_waits hfind h)⟩
    obtain ⟨ds, hposts⟩ := edeliver_posts hfind hheld hroom
    obtain ⟨hhost, hhead, hhbm⟩ := postEntry_posts (s := { s with ord := { s.ord with egq := s.ord.egq.erase t }, dies := ds }) slot ring t.word
      (s.identity t.run)
    exact ⟨_, congrArg Host.Outcome.next hposts, hhost, hhead, rfl, rfl, hhbm⟩
  case word =>
    intro s die port w hready hdie hport hfree
    have hword := launchIn_next w hready hdie hport hfree
    exact ⟨fun hfew => congrArg Host.Outcome.next (hword.trans (if_pos hfew)),
      fun hall => congrArg Host.Outcome.next (hword.trans (if_neg (by omega)))⟩
  case launch =>
    intro s p ws k d hw0 hw1 hctx htenant hany hdie
    refine ⟨portLaunch_noIds hw0 hw1 hctx htenant hany hdie, fun hid => ?_⟩
    have hbound := port_setPort (s := { s with adm := { s.adm with launches := s.adm.launches ++ [launchOf p ws k d] } })
      { p with words := [], run := some k, ident := s.identity k, lstat := 0, used := 0 }
    rw [portLaunch_binds hw0 hw1 hctx htenant hany hdie hid]
    exact ⟨rfl, congrArg HPort.run hbound, congrArg HPort.lstat hbound⟩
  case torn =>
    intro s p ws hw0 hw1 slot hctx
    have hlaunch := portLaunch_noContext (p := p) hw0 hw1 hctx
    refine ⟨fun hnone => hlaunch.trans (noContext_unknown hnone), fun q rest htorn hq => ?_⟩
    obtain ⟨torn, hcounted⟩ := noContext_torn (p := p) hctx htorn hq
    have hfree := port_setPort (s := { s with
      mem := { s.mem with host := cellWrite s.mem.host (q.2.1 + 4) (natBytes 4 (q.2.2 + 1)) }, adm := { s.adm with torn := torn } })
      { p with words := [], run := none, ident := 0, lstat := 4, used := 0 }
    rw [hlaunch, hcounted]
    exact ⟨congrArg HPort.lstat hfree, rfl, rfl⟩
  case token =>
    intro s die port run w hbound hcredit
    obtain ⟨hused, hqueue⟩ := tokenIn_queues w hbound hcredit
    exact ⟨_, rfl, hused, hqueue⟩

end Sys2Proof.Proofs.HostQueues
end

section
/-! Uncorrectable errors, faults that the supervisor has, resumption, reloads of configuration planes (22 R362 to R364, 19 R332; O27). -/

namespace Sys2Proof.Proofs.ErrorEvents
open Sys2Proof.Machine Sys2Proof.Laws Sys2Proof.Proofs.FiringFrames Sys2Proof.Proofs.Engines

variable {s : State}

/-! ## Runs behind an entry of the error log -/

theorem logEvent_runs (s : State) (d code : Nat) (dom run site aux addr : Option Nat) :
    (s.logEvent d code dom run site aux addr).runs = s.runs := by
  obtain ⟨m, ds, f, h⟩ := logEvent_rest s d code dom run site aux addr
  rw [h]

theorem logEvent_run? (s : State) (d code : Nat) (dom run site aux addr : Option Nat) (k : Nat) :
    (s.logEvent d code dom run site aux addr).run? k = s.run? k := by
  rw [State.run?, State.run?, logEvent_runs]

theorem site_congr {t : State} (h : t.runs = s.runs) (e : ElemRef) : t.site e = s.site e := by
  rw [State.site, State.site, State.run?, State.run?, h]

theorem logTok_site (s : State) (e : ElemRef) (die : Nat) : (s.logTok e die).site e = s.site e :=
  site_congr (logEvent_runs ..) e

/-! ## Elements, queues and buffers that an error strikes (22 R362) -/

theorem plane_setPlane_same (r : Run) (p : Nat) (x : Plane) : (r.setPlane p x).plane p = x := by
  unfold Run.setPlane Run.plane
  split <;> rfl

/-- An element reads back as it was left. -/
theorem site_modElem {e : ElemRef} {h : Here} (hsite : s.site e = some h) (f : Elem → Elem) :
    ∃ h', (s.modElem e f).site e = some h' ∧ h'.elem = f h.elem := by
  obtain ⟨hrun, hload, hblk, helem, hword⟩ := site_eq_some.mp hsite
  let blk : Blk → Blk := fun b => { b with elems := modAt f b.elems e.idx }
  let load : Loaded → Loaded := fun l => { l with blks := modAt blk l.blks e.blk }
  let r' := h.run.setPlane e.plane { h.run.plane e.plane with loads := modAt load (h.run.plane e.plane).loads e.load }
  refine ⟨⟨r', load h.load, blk h.blk, f h.elem, h.word⟩,
    site_eq_some.mpr ⟨modRun_run? hrun (keepsIds_modLoads _ _ load), ?_, ?_, ?_, hword⟩, rfl⟩
  · show ((h.run.setPlane _ _).plane e.plane).loads[e.load]? = some (load h.load)
    have hload' : (h.run.plane e.plane).loads[e.load]? = some h.load := hload
    rw [plane_setPlane_same, modAt_get, if_pos rfl, hload', Option.map_some]
  · show (modAt blk h.load.blks e.blk)[e.blk]? = some (blk h.blk)
    rw [modAt_get, if_pos rfl, hblk, Option.map_some]
  · show (modAt f h.blk.elems e.idx)[e.idx]? = some (f h.elem)
    rw [modAt_get, if_pos rfl, helem, Option.map_some]

theorem site_elemError {e : ElemRef} {h : Here} (hsite : s.site e = some h) (f : Elem → Elem) (die : Nat) :
    ∃ h', ((s.modElem e f).logTok e die).site e = some h' ∧ h'.elem = f h.elem := by
  rw [logTok_site]
  exact site_modElem hsite f

theorem queue_setQueue {e : Elem} {k : Nat} (h : k < e.q.length) (l : List Token) : (e.setQueue k l).queue k = l := by
  show (setAt e.q k l).getD k [] = l
  rw [List.getD_eq_getElem?_getD, setAt_get, if_pos rfl, List.getElem?_eq_getElem h]
  rfl

theorem run?_errRun {run : Nat} {r : Run} (hrun : s.run? run = some r) (code dom : Nat) {f : Run → Run} (hf : KeepsIds f) :
    (s.errRun run code dom f).run? run = some (f r) := by
  rw [State.errRun, hrun]
  exact (logEvent_run? ..).trans (modRun_run? hrun hf)

theorem skidOf_setSkid (r : Run) (p : Nat) (l : List SkidItem) : (r.setSkid p l).skidOf p = l := by
  unfold Run.setSkid Run.skidOf
  split
  next h =>
    generalize r.skid = xs at h
    induction xs with
    | nil => simp at h
    | cons x xs ih =>
      by_cases hx : x.1 = p
      · simp [hx]
      · have hx' : (x.1 == p) = false := by simp [hx]
        rw [List.any_cons, hx', Bool.false_or] at h
        simp only [List.map_cons, if_neg hx, List.find?_cons, hx']
        exact ih h
  next h =>
    have hnone : r.skid.find? (fun x => x.1 == p) = none := by
      rw [List.find?_eq_none]
      intro x hx hp
      exact h (List.any_eq_true.mpr ⟨x, hx, hp⟩)
    simp [List.find?_append, hnone]

theorem setSkid_esc (r : Run) (p : Nat) (l : List SkidItem) : (r.setSkid p l).esc = r.esc := by
  unfold Run.setSkid
  split <;> rfl

theorem keepsIds_setSkid (p : Nat) (l : Run → List SkidItem) : KeepsIds fun r => r.setSkid p (l r) := by
  intro r
  dsimp only [Run.setSkid]
  split <;> exact ⟨rfl, rfl⟩

/-- What an error leaves of the token of an ingress channel. -/
def spoilIngress (chan pos : Nat) (r : Run) : Run :=
  if chan = 0 then { r with inq := modAt errTok r.inq pos } else { r with comps := modAt (fun ts => modAt errTok ts pos) r.comps chan }

theorem keepsIds_spoilIngress (chan pos : Nat) : KeepsIds (spoilIngress chan pos) := by
  intro r
  unfold spoilIngress
  split <;> exact ⟨rfl, rfl⟩

theorem spoilIngress_queues (chan pos : Nat) (r : Run) :
    (spoilIngress chan pos r).inq = (if chan = 0 then modAt errTok r.inq pos else r.inq)
      ∧ (spoilIngress chan pos r).comps = if chan = 0 then r.comps else modAt (fun ts => modAt errTok ts pos) r.comps chan := by
  unfold spoilIngress
  split <;> exact ⟨rfl, rfl⟩

theorem errTok_data {t : Token} (h : t.mark.isEnd = false) :
    (errTok t).isPoison = true ∧ (errTok t).skip = t.skip ∧ (errTok t).chan = t.chan := by
  have he : errTok t = { poisonTok t.vec t.struct t.chan with skip := t.skip } := by
    rw [errTok, h]
    rfl
  rw [he]
  exact ⟨rfl, rfl, rfl⟩

/-! ## What aborting waves keeps of every run -/

/-- Of a run what an abort of its waves keeps: number, state, active plane, which planes reload, orders and memberships. -/
def lasting (r : Run) :
    Nat × RunState × Bool × Option (Nat × Nat) × Option (Nat × Nat) × List (Nat × Option (ElemRef × Nat)) × List (BitVec 20) :=
  (r.id, r.st, r.activeOne, r.p0.reload, r.p1.reload, r.orders, r.groups)

theorem foldl_lasting {α : Type} {f : Run → α → Run} (hf : ∀ r x, lasting (f r x) = lasting r) : ∀ (l : List α) (r : Run),
    lasting (l.foldl f r) = lasting r
  | [], _ => rfl
  | x :: l, r => (foldl_lasting hf l (f r x)).trans (hf r x)

theorem giveBack_lasting (r : Run) (q : Nat × Pos) : lasting (r.giveBack q) = lasting r := by
  unfold Run.giveBack
  dsimp only
  split
  · rfl
  · split <;> rfl

theorem ungen_lasting (r : Run) (g : Option GenUndo) : lasting (ungen r g) = lasting r := by
  unfold ungen
  split <;> rfl

theorem undrop_lasting (r : Run) (l : List Snap) : lasting (r.undrop l) = lasting r := by
  unfold Run.undrop
  refine (foldl_lasting (fun r x => ?_) _ _).trans (foldl_lasting (fun r x => ?_) _ _)
  · exact foldl_lasting (fun r g => ungen_lasting r (some g)) _ r
  · exact foldl_lasting giveBack_lasting _ r

theorem setPlane_lasting (r : Run) (p : Nat) (l : List Loaded) : lasting (r.setPlane p { r.plane p with loads := l }) = lasting r := by
  unfold Run.setPlane Run.plane
  split <;> rfl

theorem modRun_lasting (s : State) (k : Nat) {f : Run → Run} (hf : ∀ r, lasting (f r) = lasting r) :
    (s.modRun k f).runs.map lasting = s.runs.map lasting := by
  rw [modRun_runs, List.map_map]
  refine List.map_congr_left fun r _ => ?_
  show lasting (if _ then f r else r) = lasting r
  split
  · exact hf r
  · rfl

theorem dropWaves_lasting (s : State) (b : BlkRef) (k : Nat) : (s.dropWaves b k).runs.map lasting = s.runs.map lasting :=
  (modRun_lasting _ _ fun r => undrop_lasting r _).trans (modRun_lasting s _ fun r => setPlane_lasting r _ _)

theorem abortRun_lasting (s : State) (k : Nat) : (s.abortRun k).runs.map lasting = s.runs.map lasting := by
  unfold State.abortRun
  exact foldl_keeps (g := fun s => s.runs.map lasting) (fun s b => dropWaves_lasting s b _) _ s

theorem run?_lasting {t : State} (h : t.runs.map lasting = s.runs.map lasting) (k : Nat) :
    (t.run? k).map lasting = (s.run? k).map lasting := by
  have hfind (u : State) : (u.run? k).map lasting = (u.runs.map lasting).find? fun x => x.1 == k && x.2.1 != .retired := by
    rw [List.find?_map]
    rfl
  rw [hfind, hfind, h]

/-- A region that freezes keeps which planes reload. -/
theorem run?_freeze {k : Nat} {r : Run} (h : s.run? k = some r) (hold : Hold) :
    ∃ r', (s.freeze k hold).run? k = some r' ∧ r'.st = .frozen ∧ r'.hold = hold ∧ r'.act = r.act
      ∧ ∀ p, (r'.plane p).reload = (r.plane p).reload := by
  have hmap := run?_lasting (abortRun_lasting s k) k
  rw [h] at hmap
  obtain ⟨x, hx, hxr⟩ := Option.map_eq_some_iff.mp hmap
  simp only [lasting, Prod.mk.injEq] at hxr
  obtain ⟨-, -, hact, h0, h1, -⟩ := hxr
  refine ⟨{ x with st := .frozen, hold := hold }, run?_modRun _ hx (fun y hy => hy) (fun y hy => RunState.noConfusion), rfl, rfl, ?_, fun p => ?_⟩
  · show Run.act x = r.act
    rw [Run.act, Run.act, hact]
  · show (x.plane p).reload = _
    unfold Run.plane
    split
    · exact h0
    · exact h1

/-- The only run freezes as it is. -/
theorem freeze_runs_one {r : Run} (h : s.runs = [r]) (hst : r.st ≠ .retired) (hold : Hold) :
    ∃ x, (s.freeze r.id hold).runs = [x] ∧ x.id = r.id ∧ x.st = .frozen ∧ x.orders = r.orders ∧ x.groups = r.groups := by
  have hmap := abortRun_lasting s r.id
  rw [h, List.map_singleton, List.map_eq_singleton_iff] at hmap
  obtain ⟨x, hx, hxr⟩ := hmap
  simp only [lasting, Prod.mk.injEq] at hxr
  obtain ⟨hid, hxst, -, -, -, horders, hgroups⟩ := hxr
  refine ⟨{ x with st := .frozen, hold := hold }, ?_, hid, rfl, horders, hgroups⟩
  rw [State.freeze, modRun_runs, hx, List.map_singleton, if_pos ⟨hid, hxst ▸ hst⟩]

/-! ## Faults that the supervisor has (21 R358) -/

theorem hbmWrite_runs (a : Nat) (bs : List Byte) : (s.hbmWrite a bs).1.runs = s.runs := by
  obtain ⟨m, hm⟩ := hbmWrite_mem (s := s) a bs
  rw [hm]

theorem hbmWriteRecord_runs (s : State) (a : Nat) (bs : List Byte) : (s.hbmWriteRecord a bs).runs = s.runs := by
  unfold State.hbmWriteRecord
  simp only [hbmWrite_runs]

theorem reportRing_runs (s : State) (d identity : Nat) (sqc g62 g63 : Option Nat) (i : FaultInfo) :
    (s.reportRing d identity sqc g62 g63 i).runs = s.runs := by
  unfold State.reportRing
  dsimp only
  split
  · exact logEvent_runs ..
  · have hwrite (a : Nat) (bs : List Byte) : (({ s with free := s.free + 256 } : State).hbmWriteRecord a bs).runs = s.runs :=
      hbmWriteRecord_runs ..
    split <;> simp only [State.modDie, hwrite]

theorem run?_supervisorFault {k : Nat} {r : Run} (h : s.run? k = some r) (i : FaultInfo) :
    ∃ r', (s.supervisorFault k i).run? k = some r' ∧ r'.st = .frozen ∧ r'.hold = .supervisor ∧ r'.act = r.act
      ∧ ∀ p, (r'.plane p).reload = (r.plane p).reload := by
  obtain ⟨x, hx, hst, hhold, hact, hrel⟩ := run?_freeze h .supervisor
  unfold State.supervisorFault
  rw [h]
  refine ⟨_, modRun_run? ((congrArg (fun l : List Run => l.find? _) (reportRing_runs ..)).trans hx) fun _ => ⟨rfl, rfl⟩, ?_, ?_, ?_, ?_⟩
  · exact hst
  · exact hhold
  · exact hact
  · exact hrel

/-! ## Runs that go on (19 R332) -/

/-- A run but for its memberships and whether it has been RESIDENT. -/
def rejoined (r : Run) (been : Bool) (groups : List (BitVec 20)) (selfs : List (Nat × BitVec 20)) : Run :=
  { r with been := been, groups := groups, selfs := selfs }

/-- A step that changes of a run its memberships alone, and nothing in memory. -/
def Rejoins (run : Nat) (s t : State) : Prop :=
  t.mem = s.mem ∧ ∀ r, s.run? run = some r → ∃ b g x, t.run? run = some (rejoined r b g x)

theorem Rejoins.refl (run : Nat) (s : State) : Rejoins run s s := ⟨rfl, fun r h => ⟨r.been, r.groups, r.selfs, h⟩⟩

theorem Rejoins.trans {run : Nat} {s t u : State} (h : Rejoins run s t) (h' : Rejoins run t u) : Rejoins run s u := by
  refine ⟨h'.1.trans h.1, fun r hr => ?_⟩
  obtain ⟨b, g, x, hrun⟩ := h.2 r hr
  obtain ⟨b', g', x', hrun'⟩ := h'.2 _ hrun
  exact ⟨b', g', x', hrun'⟩

theorem rejoins_modRun (s : State) (run : Nat) {f : Run → Run} (hf : ∀ r, ∃ b g x, f r = rejoined r b g x) :
    Rejoins run s (s.modRun run f) := by
  refine ⟨rfl, fun r hr => ?_⟩
  obtain ⟨b, g, x, hfr⟩ := hf r
  refine ⟨b, g, x, ?_⟩
  rw [← hfr]
  exact modRun_run? hr fun y => by
    obtain ⟨b, g, x, hy⟩ := hf y
    rw [hy]
    exact ⟨rfl, rfl⟩

theorem rejoins_newGroup (s : State) (run k : Nat) : Rejoins run s (s.newGroup run k).2 :=
  rejoins_modRun { s with adm := _ } run fun r => ⟨r.been, _, r.selfs, rfl⟩

theorem rejoins_foldl {α : Type} {run : Nat} {f : State → α → State} (hf : ∀ s x, Rejoins run s (f s x)) : ∀ (l : List α) (s : State),
    Rejoins run s (l.foldl f s)
  | [], s => Rejoins.refl run s
  | x :: l, s => (hf s x).trans (rejoins_foldl hf l (f s x))

theorem rejoins_firstResident (s : State) (run : Nat) : Rejoins run s (s.firstResident run) := by
  unfold State.firstResident
  split
  · exact Rejoins.refl run s
  · split
    · refine (rejoins_modRun s run fun r => ⟨true, r.groups, r.selfs, rfl⟩).trans ?_
      unfold State.makeSelfs
      split
      · exact Rejoins.refl run _
      · refine rejoins_foldl (fun s q => ?_) _ _
        split
        · exact Rejoins.refl run s
        · exact (rejoins_newGroup s run _).trans (rejoins_modRun _ run fun r => ⟨r.been, r.groups, _, rfl⟩)
    · exact Rejoins.refl run s

/-- A run without a trap handler under way and whose active plane is loaded is RESIDENT again. -/
theorem run?_resume {k : Nat} {r : Run} (h : s.run? k = some r) (hrel : (r.plane r.act).reload = none) (hhandler : r.esc.handler = none) :
    ∃ b g x, (s.resume k).run? k = some (rejoined { r with st := .resident, hold := .none } b g x) := by
  refine (rejoins_firstResident _ k).2 _ ?_
  refine (run?_modRun _ h (fun y hy => ?_) fun y hy => ?_).trans (congrArg some ?_)
  · split
    · exact hy
    · split <;> exact hy
  · split
    · exact RunState.noConfusion
    · split <;> exact RunState.noConfusion
  · rw [hrel, hhandler]
    rfl

theorem resume_mem (s : State) (k : Nat) : (s.resume k).mem = s.mem := (rejoins_firstResident _ k).1

/-! ## Configuration stores (22 R363, R364) -/

/-- A run one plane of which reloads, or is checked. -/
def withReload (p : Nat) (x : Option (Nat × Nat)) (r : Run) : Run := r.setPlane p { r.plane p with reload := x }

theorem keepsIds_withReload (p : Nat) (x : Option (Nat × Nat)) : KeepsIds (withReload p x) := fun _ => ⟨setPlane_id .., setPlane_st ..⟩

theorem withReload_act (p : Nat) (x : Option (Nat × Nat)) (r : Run) : (withReload p x r).act = r.act := by
  unfold withReload Run.setPlane
  split <;> rfl

theorem withReload_esc (p : Nat) (x : Option (Nat × Nat)) (r : Run) : (withReload p x r).esc = r.esc := by
  unfold withReload Run.setPlane
  split <;> rfl

theorem withReload_same (p : Nat) (x : Option (Nat × Nat)) (r : Run) : ((withReload p x r).plane p).reload = x := by
  rw [withReload, plane_setPlane_same]

theorem withReload_other {p : Nat} (hp : p ≤ 1) (x : Option (Nat × Nat)) (r : Run) : (withReload p x r).plane (1 - p) = r.plane (1 - p) := by
  rw [withReload, plane_setPlane hp (by omega), if_neg (by omega)]

theorem act_le (r : Run) : r.act ≤ 1 := by
  unfold Run.act
  split <;> omega

/-- The plane starts its reload: the active one with its region frozen. -/
theorem cfgError_reloads {run p : Nat} {r : Run} (hrun : s.run? run = some r) (hst : r.st = .resident) (hrel : (r.plane p).reload = none) :
    ∃ u x, u.run? run = some (withReload p (some x) r) ∧ s.cfgError run p = if p ≠ r.act then u else u.freeze run (.reload false) := by
  let t := s.logEvent r.die 0x306 (some 5) (some (s.identity run)) none none none
  let x := (t.reloadEnd (r.plane p), (r.plane p).signature)
  refine ⟨{ t.modRun run (withReload p (some x)) with free := t.free + 1 }, x, ?_, ?_⟩
  · exact modRun_run? (s := t) ((logEvent_run? ..).trans hrun) (keepsIds_withReload p _)
  · simp only [State.cfgError, hrun, hrel, hst, ↓reduceIte]
    rfl

theorem checkPlane_loaded {run p : Nat} {r : Run} (hrun : s.run? run = some r) (hrel : (r.plane p).reload = none) : s.checkPlane run p = s := by
  simp only [State.checkPlane, hrun, hrel]

section Checked
variable {run c crc : Nat} {r : Run} (hrun : s.run? run = some r) (hrel : (r.plane r.act).reload = some (c, crc)) (hcycle : c + 4 ≤ s.cycle)
include hrun hrel hcycle

theorem checkPlane_good (hhold : r.hold = .reload false) (hcrc : crc = (r.plane r.act).signature) :
    s.checkPlane run r.act = (s.modRun run (withReload r.act none)).resume run := by
  simp only [State.checkPlane, hrun, hrel, hhold, hcrc, Nat.not_lt.mpr hcycle, beq_self_eq_true, Bool.not_true, Bool.false_eq_true, ne_eq,
    not_true_eq_false, ↓reduceIte]
  rfl

theorem checkPlane_bad (horder : r.order? 4 = none) (hcrc : crc ≠ (r.plane r.act).signature) :
    s.checkPlane run r.act = (s.modRun run (withReload r.act none)).supervisorFault run (FaultInfo.base 0x30E 4) := by
  simp only [State.checkPlane, hrun, hrel, horder, beq_eq_false_iff_ne.mpr hcrc, Nat.not_lt.mpr hcycle, Bool.not_false, ↓reduceIte]
  rfl

end Checked

end Sys2Proof.Proofs.ErrorEvents
end

section
/-! Alarms and keys, the queues of the Arbor (23 R377 to R379, 20 R344, R345; O27). -/

namespace Sys2Proof.Proofs.Alarms
open Sys2Proof.Machine Sys2Proof.Laws Sys2Proof.Proofs.Engines

variable {s : State}

/-! ## Alarms (23 R377 to R379) -/

theorem alarmBoot_chip (s : State) (level : Nat) : ∃ b, (s.alarmBoot level).chip = { s.chip with bootstat := b } := by
  unfold State.alarmBoot
  dsimp only
  split
  · exact ⟨_, rfl⟩
  · exact ⟨s.chip.bootstat, rfl⟩

theorem logAlarm_chip (s : State) (n level : Nat) : (s.logAlarm n level).chip = s.chip := by
  obtain ⟨m, ds, f, h⟩ := logEvent_rest s 0 0x317 none none none (some (n + 256 * level)) none
  rw [State.logAlarm, h]

theorem holdModule_chip (s : State) : s.holdModule.chip =
    { s.chip with idKey := none, sessKey := none, held := true, spdm := { s.chip.spdm with session := 0 } } := by
  have hfold : (s.runs.foldl (fun s r => if r.st = .resident ∨ (r.st = .frozen ∧ r.hold = .handler) then s.freeze r.id .supervisor else s) s).chip
      = s.chip := by
    refine foldl_keeps (g := State.chip) (fun s r => ?_) _ s
    split
    · exact freeze_chip ..
    · rfl
  unfold State.holdModule
  dsimp only
  rw [hfold]

/-- The levels above which an alarm acts. -/
theorem alarm_chip_one (s : State) (n : Nat) : ∃ b a, (s.alarm n 1).chip = { s.chip with bootstat := b, alarm := a } := by
  obtain ⟨b, hb⟩ := alarmBoot_chip { s.logAlarm n 1 with chip := { (s.logAlarm n 1).chip with alarm := (s.logAlarm n 1).chip.alarm } } 1
  refine ⟨b, s.chip.alarm, hb.trans ?_⟩
  rw [logAlarm_chip]

/-- A link that an alarm has locked. -/
def locked (l : Link) : Link := { l with stat := l.stat ||| 0x4000 }

theorem locked_lock (l : Link) : linkLock (locked l).stat = true := by
  rw [linkLock, locked, BitVec.getLsbD_or]
  simp

theorem alarm_chip_two (s : State) (n : Nat) : ∃ b a,
    (s.alarm n 2).chip = { s.chip with bootstat := b, alarm := a, grantKey := none, links := s.chip.links.map locked } := by
  obtain ⟨b, hb⟩ := alarmBoot_chip ({ s.logAlarm n 2 with chip := { (s.logAlarm n 2).chip with
    alarm := ⟨max (s.logAlarm n 2).chip.alarm.level 2⟩ } } : State).eraseGrant 2
  refine ⟨b, ⟨max s.chip.alarm.level 2⟩, hb.trans ?_⟩
  rw [State.eraseGrant, State.lockLinks, State.mapLinks, logAlarm_chip]
  rfl

theorem alarm_chip_three (s : State) (n : Nat) : ∃ b a, (s.alarm n 3).chip = { s.chip with
    bootstat := b, alarm := a, grantKey := none, links := s.chip.links.map locked, idKey := none, sessKey := none, held := true
    spdm := { s.chip.spdm with session := 0 } } := by
  obtain ⟨b, hb⟩ := alarmBoot_chip ({ s.logAlarm n 3 with chip := { (s.logAlarm n 3).chip with
    alarm := ⟨max (s.logAlarm n 3).chip.alarm.level 3⟩ } } : State).eraseGrant.holdModule 3
  refine ⟨b, ⟨max s.chip.alarm.level 3⟩, hb.trans ?_⟩
  rw [holdModule_chip, State.eraseGrant, State.lockLinks, State.mapLinks, logAlarm_chip]
  rfl

theorem almclr_ignored (h : s.ready = false ∨ s.chip.alarm.level ≠ 2) : s.almclr = s := by
  rw [State.almclr, if_pos]
  rcases h with h | h
  · rw [h]
    rfl
  · simp [h]

/-- The state that an ALMCLR which takes effect leaves. -/
def cleared (s : State) : State :=
  ({ s with free := s.free + 1 + 1, chip := { s.chip with grantKey := some (Config.freeKey (s.free + 1)), alarm := ⟨0⟩ } }).mapLinks
    Link.retrain

theorem almclr_clears (hready : s.ready = true) (hlevel : s.chip.alarm.level = 2) (hfree : (Config.freeWord s.free).getLsbD 0 = false) :
    s.almclr = cleared s := by
  rw [State.almclr, if_neg (by simp [hready, hlevel])]
  simp only [State.freeWord, hfree, cleared, Bool.false_eq_true, ↓reduceIte]

theorem linkWord_fields (peer up circ : Nat) (quar lock : Bool) (reason st : Nat) :
    linkState (linkWord peer up circ quar lock reason st) = st % 16 ∧ linkUp (linkWord peer up circ quar lock reason st) = up % 16
      ∧ linkQuar (linkWord peer up circ quar lock reason st) = quar ∧ linkLock (linkWord peer up circ quar lock reason st) = lock := by
  unfold linkWord linkState linkUp linkQuar linkLock
  simp only [fld, BitVec.getLsbD_ofNat, BitVec.toNat_ofNat, Nat.shiftRight_eq_div_pow, Nat.testBit_eq_decide_div_mod_eq]
  cases quar
  · cases lock
    · simp; omega
    · simp; omega
  · cases lock
    · simp; omega
    · simp; omega

theorem retrain_stat (l : Link) : linkLock l.retrain.stat = false ∧ linkState l.retrain.stat = 1 := by
  obtain ⟨hstate, -, -, hlock⟩ := linkWord_fields (fld l.stat 31 24) 15 0 (linkQuar l.stat) false 0 1
  exact ⟨hlock, hstate⟩

/-! ## The queues of the Arbor (20 R344, R345) -/

theorem length_insertRun (before : Run → Run → Bool) (r : Run) : ∀ l, (insertRun before r l).length = l.length + 1
  | [] => rfl
  | x :: xs => by
    unfold insertRun
    split
    · rfl
    · exact congrArg (· + 1) (length_insertRun before r xs)

theorem mem_insertRun (before : Run → Run → Bool) (r x : Run) : ∀ l, x ∈ insertRun before r l ↔ x = r ∨ x ∈ l
  | [] => by simp [insertRun]
  | y :: ys => by
    unfold insertRun
    split
    · exact List.mem_cons
    · rw [List.mem_cons, mem_insertRun before r x ys, List.mem_cons]
      exact or_left_comm

theorem length_orderRuns (before : Run → Run → Bool) : ∀ l, (orderRuns before l).length = l.length
  | [] => rfl
  | x :: xs => (length_insertRun before x _).trans (congrArg (· + 1) (length_orderRuns before xs))

theorem mem_orderRuns (before : Run → Run → Bool) (x : Run) : ∀ l, x ∈ orderRuns before l ↔ x ∈ l
  | [] => Iff.rfl
  | y :: ys => (mem_insertRun before y x _).trans (by rw [← orderRuns, mem_orderRuns before x ys, List.mem_cons])

/-- The runs of a die with their ageing steps and quanta brought up to the cycle. -/
def agedRuns (s : State) (die : Nat) : State :=
  { s with runs := s.runs.map fun (r : Run) => if r.die = die then (r.ageing s.cycle).quantumDone s.cycle else r }

/-- The head of the queue that fits is placed, where no moved run waits. -/
theorem arbor_places {die p : Nat} {head : Run}
    (hbusy : (s.runs.any fun r => r.die == die && r.orders.any fun o => (o.1 == 0 || o.1 == 2) && o.2.isNone) = false)
    (hhead : (orderRuns Run.before ((agedRuns s die).runs.filter fun r => r.waits die)).head? = some head)
    (hmoved : ∀ r ∈ orderRuns Run.before ((agedRuns s die).runs.filter fun r => r.waits die), r.moved = false)
    (hfits : (agedRuns s die).fits head [] = some p) : s.arbor die = (agedRuns s die).place head p := by
  unfold agedRuns at hhead hmoved hfits ⊢
  obtain ⟨later, hwaiting⟩ := List.head?_eq_some_iff.mp hhead
  rw [hwaiting] at hmoved
  have hnone : (head :: later).filter (fun r => r.moved) = [] := List.filter_eq_nil_iff.mpr fun r hr => by simp [hmoved r hr]
  have hall : (head :: later).filter (fun r => !r.moved) = head :: later := List.filter_eq_self.mpr fun r hr => by simp [hmoved r hr]
  unfold State.arbor
  simp only [hbusy, hwaiting, hnone, hall, hfits, Bool.false_eq_true, ↓reduceIte, List.foldl_nil]

end Sys2Proof.Proofs.Alarms
end

section
/-! Run records: readout, layout, restore (19 R333 to R336; O27). -/

namespace Sys2Proof.Proofs.RunRecords
open Sys2Proof.Machine Sys2Proof.Laws Sys2Proof.Proofs.FiringFrames Sys2Proof.Proofs.Engines Sys2Proof.Proofs.ErrorEvents
open Sys2Proof.Proofs.MemoryReads (length_natBytes bytesNat_natBytes)

variable {s : State}

/-! ## What writing a record leaves of the runs (19 R333) -/

theorem placeWrite_runs {t : State} {p : Place} {bs : List Byte} {d : Bool} (h : s.placeWrite p bs = some (t, d)) : t.runs = s.runs := by
  unfold State.placeWrite at h
  split at h
  · obtain rfl : (s.hbmWrite _ bs).1 = t := by rw [Option.some.inj h]
    exact hbmWrite_runs ..
  · cases h
    rfl
  · cases h

theorem vwriteGo_runs (slot : Nat) : ∀ (n : Nat) {s t : State} (va : Nat) (bs : List Byte),
    State.vwriteGo slot n s va bs = .ok t → t.runs = s.runs
  | 0, s, t, va, bs, h => by
    cases h
    rfl
  | n + 1, s, t, va, bs, h => by
    unfold State.vwriteGo at h
    split at h
    · cases h
      rfl
    · dsimp only at h
      split at h
      · cases h
      · split at h
        · cases h
        · rename_i hp
          exact (vwriteGo_runs slot n _ _ h).trans (placeWrite_runs hp)

theorem vwrite_runs {t : State} {slot va : Nat} {bs : List Byte} (h : s.vwrite slot va bs = .ok t) : t.runs = s.runs :=
  vwriteGo_runs slot _ va bs h

theorem writeRecord_runs {r : Run} {u : State} (h : s.writeRecord r = some u) : u.runs = s.runs := by
  unfold State.writeRecord at h
  dsimp only at h
  split at h
  · cases h
    rfl
  · rename_i slot va hrec
    obtain ⟨_, hw, rfl⟩ : ∃ x, ({ s with free := s.free + 65536 * (r.stream (s.pageImage r) r.region.pages.length).length } : State).vwrite
        slot va (s.recordOfRun r (s.pageImage r)) = .ok x ∧ x = u := by
      generalize ({ s with free := s.free + 65536 * (r.stream (s.pageImage r) r.region.pages.length).length } : State).vwrite slot va
        (s.recordOfRun r (s.pageImage r)) = e at h
      cases e with
      | error e => cases h
      | ok x => exact ⟨x, rfl, Option.some.inj h⟩
    exact (vwrite_runs hw :)
  · rename_i a hrec
    cases h
    exact foldl_keeps (g := State.runs) (f := fun s (c : Nat × List Byte) => (s.hbmWrite c.1 c.2).1) (fun s c => hbmWrite_runs c.1 c.2) _ _

theorem logMaskMiss_runs (s : State) (r : Run) : (s.logMaskMiss r).runs = s.runs := by
  unfold State.logMaskMiss
  refine foldl_keeps (g := State.runs) (fun s p => ?_) _ s
  refine foldl_keeps (g := State.runs) (fun s l => ?_) _ s
  refine foldl_keeps (g := State.runs) (fun s b => ?_) _ s
  refine foldl_keeps (g := State.runs) (fun s k => ?_) _ s
  split
  · rfl
  · exact logEvent_runs ..

/-! ## Answers of privileged elements -/

theorem setPlane_planes (r : Run) (p : Nat) (x : Plane) : ∃ p0 p1, r.setPlane p x = { r with p0 := p0, p1 := p1 } := by
  unfold Run.setPlane
  split
  · exact ⟨x, r.p1, rfl⟩
  · exact ⟨r.p0, x, rfl⟩

theorem run?_modElem {k : Nat} {r : Run} (h : s.run? k = some r) (e : ElemRef) (f : Elem → Elem) :
    ∃ p0 p1, (s.modElem e f).run? k = some { r with p0 := p0, p1 := p1 } := by
  by_cases he : e.run = k
  · subst he
    obtain ⟨p0, p1, hplanes⟩ := setPlane_planes r e.plane { r.plane e.plane with loads := modAt _ (r.plane e.plane).loads e.load }
    exact ⟨p0, p1, (modRun_run? h (keepsIds_modLoads _ _ _)).trans (congrArg some hplanes)⟩
  · exact ⟨r.p0, r.p1, (modRun_run?_ne (Ne.symm he) (keepsIds_modLoads _ _ _)).trans h⟩

theorem run?_answerWho {k : Nat} {r : Run} (h : s.run? k = some r) (who : Option (ElemRef × Nat)) (st : Nat) :
    ∃ p0 p1, (s.answerWho who st).run? k = some { r with p0 := p0, p1 := p1 } := by
  cases who with
  | none => exact ⟨r.p0, r.p1, h⟩
  | some w => exact run?_modElem h ..

theorem answerWho_mem (s : State) (who : Option (ElemRef × Nat)) (st : Nat) : (s.answerWho who st).mem = s.mem := by
  cases who with
  | none => rfl
  | some w => rfl

/-! ## READOUT_COMPLETE (19 R333, R335) -/

/-- A run as its readout leaves it. -/
def readOut (img : List Host.Cell) (bad : List Nat) (o : Nat × Option (ElemRef × Nat)) (cycle : Nat) (r : Run) : Run :=
  { r with
    hold := .readout
    region := { r.region with pages := [], ports := [] }
    saved := img
    savedBad := bad
    orders := r.orders.erase o ++ (if o.2.isNone then [(3, none)] else [])
    queuedAt := cycle
    aged := 0 }

section Readout
variable {run : Nat} {r : Run} {o : Nat × Option (ElemRef × Nat)} (hrun : s.run? run = some r) (horder : r.order? 2 = some o)
  (hplace : r.inPlace = true)
include hrun horder hplace

theorem readoutComplete_busy (hbusy : s.busyRun run = true) : s.readoutComplete run = s := by
  simp only [State.readoutComplete, hrun, horder, hplace, hbusy, Bool.not_true, Bool.false_eq_true, ↓reduceIte]

theorem readoutComplete_reads (hbusy : s.busyRun run = false) {u : State} (hrec : (s.logMaskMiss r).writeRecord r = some u) :
    ∃ t r', s.readoutComplete run = t ∧ t.run? run = some r' ∧ r'.hold = .readout ∧ r'.region.pages = [] ∧ r'.region.ports = []
      ∧ r'.saved = u.pageImage r ∧ r'.esc = r.esc ∧ r'.regs = r.regs ∧ t.mem = u.mem := by
  have hu : u.runs = s.runs := (writeRecord_runs hrec).trans (logMaskMiss_runs s r)
  have hrun' : u.run? run = some r := (congrArg (fun l : List Run => l.find? _) hu).trans hrun
  obtain ⟨ord, hord⟩ : ∃ ord, s.readoutComplete run =
      (({ u with ord := ord } : State).modRun run (readOut (u.pageImage r) (u.pageBad r) o u.cycle)).answerWho o.2 0 := by
    simp only [State.readoutComplete, hrun, horder, hplace, hbusy, hrec, Bool.not_true, Bool.false_eq_true, ↓reduceIte]
    exact ⟨_, rfl⟩
  obtain ⟨p0, p1, hr'⟩ := run?_answerWho (modRun_run? (s := { u with ord := ord }) (f := readOut (u.pageImage r) (u.pageBad r) o u.cycle) hrun'
    fun _ => ⟨rfl, rfl⟩) o.2 0
  exact ⟨_, _, hord, hr', rfl, rfl, rfl, rfl, rfl, rfl, answerWho_mem ..⟩

end Readout

theorem writeRecord_slot {r : Run} {slot va : Nat} (h : r.record = some (some slot, va)) :
    s.writeRecord r = (({ s with free := s.free + 65536 * (r.stream (s.pageImage r) r.region.pages.length).length } : State).vwrite slot va
      (s.recordOfRun r (s.pageImage r))).toOption := by
  simp only [State.writeRecord, h]

/-! ## The layout of a record (19 R334) -/

theorem length_section (n : Nat) (bs : List Byte) : (section_ n bs).length = n := by
  simp only [section_, List.length_append, List.length_take, List.length_replicate]
  omega

theorem length_recordHeader (identity pages len : Nat) (l : List Bool) : (recordHeader identity pages len l).length = 64 := by
  simp only [recordHeader, List.length_append, length_natBytes]

/-- What stands behind a part of known length. -/
theorem drop_behind {n k : Nat} {a b : List Byte} (h : a.length = n) : (a ++ b).drop (n + k) = b.drop k := by
  subst h
  rw [List.drop_append, List.drop_of_length_le (by omega), Nat.add_sub_cancel_left, List.nil_append]

theorem take_front {n : Nat} {a b : List Byte} (h : a.length = n) : (a ++ b).take n = a := by
  subst h
  exact List.take_left

theorem take_inside {n : Nat} {a b : List Byte} (h : n ≤ a.length) : (a ++ b).take n = a.take n := List.take_append_of_le_length h

theorem recordHeader_fields {identity pages len : Nat} (l : List Bool) (rest : List Byte) (hid : identity < 2 ^ 32) (hpages : pages < 2 ^ 64)
    (hlen : len < 2 ^ 64) :
    let bs := recordHeader identity pages len l ++ rest
    bytesNat (bs.take 4) = 1 ∧ bytesNat ((bs.drop 4).take 4) = identity ∧ bytesNat ((bs.drop 8).take 8) = pages
      ∧ bytesNat ((bs.drop 16).take 8) = len := by
  intro bs
  have hbs : bs = natBytes 4 1 ++ (natBytes 4 identity ++ (natBytes 8 pages ++ (natBytes 8 len
      ++ (natBytes 40 (l.foldr (fun b a => a * 2 + if b then 1 else 0) 0) ++ rest)))) := by
    simp only [bs, recordHeader, List.append_assoc]
  have h4 : bs.drop 4 = _ := (congrArg (List.drop 4) hbs).trans (drop_behind (k := 0) (length_natBytes 4 1))
  have h8 : bs.drop 8 = _ := (congrArg (List.drop 8) hbs).trans
    ((drop_behind (k := 4) (length_natBytes 4 1)).trans (drop_behind (k := 0) (length_natBytes 4 _)))
  have h16 : bs.drop 16 = _ := (congrArg (List.drop 16) hbs).trans
    ((drop_behind (k := 12) (length_natBytes 4 1)).trans ((drop_behind (k := 8) (length_natBytes 4 _)).trans
      (drop_behind (k := 0) (length_natBytes 8 _))))
  refine ⟨?_, ?_, ?_, ?_⟩
  · rw [hbs, take_front (length_natBytes 4 1)]
    exact (bytesNat_natBytes 4 1).trans (by decide)
  · rw [h4, List.drop_zero, take_front (length_natBytes 4 _), bytesNat_natBytes]
    exact Nat.mod_eq_of_lt (by omega)
  · rw [h8, List.drop_zero, take_front (length_natBytes 8 _), bytesNat_natBytes]
    exact Nat.mod_eq_of_lt (by omega)
  · rw [h16, List.drop_zero, take_front (length_natBytes 8 _), bytesNat_natBytes]
    exact Nat.mod_eq_of_lt (by omega)

theorem recordOfRun_layout (s : State) (r : Run) (cells : List Host.Cell) (hid : s.identity r.id < 2 ^ 32) (hpages : r.region.pages.length ≤ 48)
    (htail : (s.recordTail r cells).length < 2 ^ 32) :
    let bs := s.recordOfRun r cells
    bs.length = 0x0D40 + (s.recordTail r cells).length ∧ bytesNat (bs.take 4) = 1 ∧ bytesNat ((bs.drop 4).take 4) = s.identity r.id
      ∧ bytesNat ((bs.drop 8).take 8) = r.region.pages.length ∧ bytesNat ((bs.drop 16).take 8) = bs.length
      ∧ (bs.drop 0x40).take 1024 = section_ 1024 r.escBytes ∧ (bs.drop 0x440).take 256 = section_ 256 (s.regBytes r)
      ∧ (bs.drop 0x540).take 2048 = section_ 2048 (s.xferBytes r) ∧ bs.drop 0x0D40 = s.recordTail r cells := by
  intro bs
  let rest := section_ 1024 r.escBytes ++ (section_ 256 (s.regBytes r) ++ (section_ 2048 (s.xferBytes r) ++ s.recordTail r cells))
  let hdr := recordHeader (s.identity r.id) r.region.pages.length (0x0D40 + (s.recordTail r cells).length)
    ((r.stream cells r.region.pages.length).map (·.1))
  have hbs : bs = hdr ++ rest := by
    simp only [bs, hdr, rest, State.recordOfRun, List.append_assoc]
  have hhdr : hdr.length = 64 := length_recordHeader ..
  have hlen : bs.length = 0x0D40 + (s.recordTail r cells).length := by
    rw [hbs]
    simp only [rest, List.length_append, hhdr, length_section]
    omega
  obtain ⟨h0, h4, h8, h16⟩ := recordHeader_fields ((r.stream cells r.region.pages.length).map (·.1)) rest hid
    (pages := r.region.pages.length) (len := 0x0D40 + (s.recordTail r cells).length) (by omega) (by omega)
  have hesc : bs.drop 0x40 = rest := (congrArg (List.drop 64) hbs).trans (drop_behind (k := 0) hhdr)
  have hregs : bs.drop 0x440 = _ := (congrArg (List.drop 1088) hbs).trans
    ((drop_behind (k := 1024) hhdr).trans (drop_behind (k := 0) (length_section 1024 _)))
  have hxfer : bs.drop 0x540 = _ := (congrArg (List.drop 1344) hbs).trans
    ((drop_behind (k := 1280) hhdr).trans ((drop_behind (k := 256) (length_section 1024 _)).trans (drop_behind (k := 0) (length_section 256 _))))
  have hrest : bs.drop 0x0D40 = _ := (congrArg (List.drop 3392) hbs).trans
    ((drop_behind (k := 3328) hhdr).trans ((drop_behind (k := 2304) (length_section 1024 _)).trans
      ((drop_behind (k := 2048) (length_section 256 _)).trans (drop_behind (k := 0) (length_section 2048 _)))))
  rw [← hbs] at h0 h4 h8 h16
  refine ⟨hlen, h0, h4, h8, h16.trans hlen.symm, ?_, ?_, ?_, hrest⟩
  · rw [hesc, take_front (length_section 1024 _)]
  · rw [hregs, List.drop_zero, take_front (length_section 256 _)]
  · rw [hxfer, List.drop_zero, take_front (length_section 2048 _)]

/-! ## RESTORE_COMPLETE (19 R336) -/

theorem onElem_st (r : Run) (p l b j : Nat) (f : Elem → Elem) : (r.onElem p l b j f).st = r.st := setPlane_st ..

theorem put_st (r : Run) (bs : List Byte) (p : Piece) : (p.put r bs).st = r.st := by
  cases p with
  | queue => exact onElem_st ..
  | elem => exact onElem_st ..
  | own => rfl
  | acc => exact setPlane_st ..
  | bank => rfl

theorem putAll_st : ∀ (l : List Piece) (bs : List Byte) (r : Run), (Piece.putAll l bs r).st = r.st
  | [], _, _ => rfl
  | p :: ps, _, r => (putAll_st ps _ _).trans (put_st r _ p)

theorem putBlocks_st : ∀ (l : List (Bool × List Piece)) (bs : List Byte) (r : Run), (putBlocks l bs r).1.st = r.st
  | [], _, _ => rfl
  | b :: rest, _, r => (putBlocks_st rest _ _).trans (putAll_st b.2 _ r)

theorem fromRecord_st {r r1 : Run} {ports pages slots : Nat} {bs : List Byte} (h : r.fromRecord ports pages slots bs = some r1) : r1.st = r.st := by
  unfold Run.fromRecord at h
  dsimp only at h
  split at h
  · obtain rfl := Option.some.inj h
    exact putBlocks_st ..
  · cases h

theorem readRecord_st {r r1 : Run} (h : s.readRecord r = some r1) : r1.st = r.st := by
  unfold State.readRecord at h
  dsimp only at h
  split at h
  · cases h
  · split at h
    · cases h
    · split at h
      · cases h
      · exact fromRecord_st h

theorem loadPages_runs (s : State) (r : Run) : (s.loadPages r).runs = s.runs := by
  unfold State.loadPages
  exact foldl_keeps (g := State.runs) (f := fun s p => s.clearPage r.die p) (fun s p => rfl) _ s

section Restore
variable {run : Nat} {r : Run} {o : Nat × Option (ElemRef × Nat)} (hrun : s.run? run = some r) (horder : r.order? 3 = some o)
  (hst : r.st = .frozen) (hhold : r.hold = .readout) (hpages : r.region.pages ≠ [])
include hrun horder hst hhold hpages

theorem restoreComplete_state (hrec : s.readRecord r = none) :
    s.restoreComplete run = (s.modRun run fun r => { r with
      region := { r.region with pages := [], ports := [] }, orders := r.orders.erase o }).answerWho o.2 2 := by
  simp only [State.restoreComplete, hrun, horder, hst, hhold, List.isEmpty_eq_false_iff.mpr hpages, hrec, ne_eq, not_true_eq_false,
    Bool.false_eq_true, or_self, ↓reduceIte]

theorem restoreComplete_restores {r1 : Run} (hrec : s.readRecord r = some r1) (hid : r1.id = run) (howner : o.2 = none)
    (hhandler : r1.esc.handler = none) (hrel : (r1.plane r1.act).reload = none) :
    ∃ t r', s.restoreComplete run = t ∧ t.run? run = some r' ∧ r'.st = .resident ∧ r'.hold = .none ∧ r'.saved = [] ∧ r'.esc = r1.esc
      ∧ r'.p0 = r1.p0 ∧ r'.p1 = r1.p1 ∧ t.mem.store = ((s.setRun r1).loadPages r1).mem.store := by
  let back (x : Run) : Run := { x with hold := .supervisor, saved := [], savedBad := [], record := none, orders := x.orders.erase o }
  let u := ((s.setRun r1).loadPages r1).modRun run back
  have hrestore : s.restoreComplete run = (u.resume run).modRun run fun r => { r with residentAt := u.cycle, quantum := false } := by
    simp only [State.restoreComplete, hrun, horder, hst, hhold, List.isEmpty_eq_false_iff.mpr hpages, hrec, howner, Option.isNone_none, ne_eq,
      not_true_eq_false, Bool.false_eq_true, or_self, ↓reduceIte]
    rfl
  have hset : (s.setRun r1).run? run = some r1 := by
    subst hid
    exact StartLoad.run?_setRun hrun (by rw [readRecord_st hrec, hst]; decide)
  have hload : ((s.setRun r1).loadPages r1).run? run = some r1 := (congrArg (fun l : List Run => l.find? _) (loadPages_runs ..)).trans hset
  have hu : u.run? run = some (back r1) := modRun_run? hload fun _ => ⟨rfl, rfl⟩
  obtain ⟨b, g, x, hr'⟩ := run?_resume hu hrel hhandler
  exact ⟨_, _, hrestore, modRun_run? hr' fun _ => ⟨rfl, rfl⟩, rfl, rfl, rfl, rfl, rfl, rfl, congrArg (·.store) (resume_mem u run)⟩

end Restore

end Sys2Proof.Proofs.RunRecords
end

section
/-! O27: errors, alarms, Arbor decisions, readout and restore. -/

namespace Sys2Proof.Proofs.ErrorsAndScheduling
open Sys2Proof.Machine Sys2Proof.Laws Sys2Proof.Proofs.FiringFrames Sys2Proof.Proofs.ErrorEvents Sys2Proof.Proofs.Alarms
open Sys2Proof.Proofs.RunRecords

/-- Settles O27: each error changes what it strikes and is logged, reloads and alarms by the laws of the planes and keys, the Arbor by those
of its queue, records by their layout. -/
theorem errorsAlarmsAndScheduling : Obligations.ErrorsAlarmsAndScheduling := by
  unfold Obligations.ErrorsAlarmsAndScheduling
  refine ⟨fun s line => rfl, ?queue, ?latch, ?buffers, fun t => errTok_data, fun s die dom addr => rfl, ?cfgStore, ?cfgCheck, ?alarms, ?almclr,
    ?arbor, fun l => ⟨length_orderRuns _ l, fun r => mem_orderRuns _ r l⟩, fun s run => ⟨rfl, rfl⟩,
    ?readout, ?busy, ?record, ?layout, ?restore⟩
  case queue =>
    intro s e k pos h hsite hpos hk
    obtain ⟨h', hsite', helem⟩ := site_elemError hsite (fun el => el.setQueue k (modAt errTok (el.queue k) pos)) h.run.die
    refine ⟨_, h', ?_, hsite', helem ▸ queue_setQueue hk _⟩
    show Host.Outcome.next (s.uncorrectable (.queue e k pos)) = _
    simp only [State.uncorrectable, hsite, hpos, ↓reduceIte]
  case latch =>
    intro s e h hsite
    refine ⟨?_, fun k pos i hi => ?_⟩
    · obtain ⟨h', hsite', helem⟩ := site_elemError hsite (fun el => { el with latch := errTok el.latch, ctl := el.ctl.err }) h.run.die
      refine ⟨_, h', ?_, hsite', helem ▸ rfl, helem ▸ rfl, fun total folded psn hctl => ?_⟩
      · show Host.Outcome.next (s.uncorrectable (.latch e)) = _
        simp only [State.uncorrectable, hsite]
      · rw [helem]
        exact congrArg Ctl.err hctl
    · obtain ⟨h', hsite', helem⟩ := site_elemError hsite (fun el => { el with
        out := modAt (fun i => { i with emits := modAt errEmit i.emits pos }) el.out k }) h.run.die
      refine ⟨_, h', ?_, hsite', helem ▸ rfl, ?_, ?_⟩
      · show Host.Outcome.next (s.uncorrectable (.result e k pos)) = _
        simp only [State.uncorrectable, hsite]
      · rw [helem]
        show (modAt _ h.elem.out k)[k]? = _
        rw [modAt_get, if_pos rfl, hi]
        rfl
      · rw [helem]
        exact modAt_length ..
  case buffers =>
    intro s run n pos r hrun
    refine ⟨⟨_, _, rfl, run?_errRun hrun 0x303 2 (keepsIds_setSkid n fun r => errSkid pos (r.skidOf n)),
      skidOf_setSkid .., setSkid_esc ..⟩, ?_, ?_⟩
    · exact ⟨_, _, rfl, run?_errRun hrun 0x304 3 fun _ => ⟨rfl, rfl⟩, rfl, rfl⟩
    · obtain ⟨hinq, hcomps⟩ := spoilIngress_queues n pos r
      exact ⟨_, _, rfl, run?_errRun hrun 0x304 3 (keepsIds_spoilIngress n pos), hinq, hcomps⟩
  case cfgStore =>
    intro s run p r hrun hst hp hrel
    obtain ⟨u, x, hu, herr⟩ := cfgError_reloads hrun hst hrel
    by_cases hact : p = r.act
    · obtain ⟨r', hr', hst', hhold, -, hrel'⟩ := run?_freeze hu (.reload false)
      rw [if_neg fun h => h hact] at herr
      refine ⟨_, r', congrArg Host.Outcome.next herr, hr', ?_, fun _ => ⟨hst', hhold⟩, fun h => absurd hact h⟩
      rw [hrel', withReload_same]
      rfl
    · rw [if_pos hact] at herr
      refine ⟨u, _, congrArg Host.Outcome.next herr, hu, ?_, fun h => absurd h hact, fun _ => (setPlane_st ..).trans hst⟩
      rw [withReload_same]
      rfl
  case cfgCheck =>
    intro s run c crc r hrun hst hhold hrel hother hcycle
    have hmark := modRun_run? hrun (keepsIds_withReload r.act none)
    have hcheck (t : State) (r' : Run) (h : s.checkPlane run r.act = t) (hr' : t.run? run = some r')
        (hnone : (r'.plane (1 - r.act)).reload = none) : exec (.cfgReloadCheck run) s = .next t := by
      show Host.Outcome.next (s.reloadCheck run) = _
      simp only [State.reloadCheck, hrun, h, checkPlane_loaded hr' hnone]
    have hother' : ((withReload r.act none r).plane (1 - r.act)).reload = none := by rw [withReload_other (act_le r), hother]
    refine ⟨fun hcrc hhandler => ?_, fun hcrc horder => ?_⟩
    · obtain ⟨b, g, x, hr'⟩ := run?_resume hmark (by rw [withReload_act, withReload_same]) (by rw [withReload_esc, hhandler])
      refine ⟨_, _, hcheck _ _ (checkPlane_good hrun hrel hcycle hhold hcrc) hr' hother', hr', rfl, rfl, ?_, withReload_esc ..⟩
      exact withReload_same r.act none r
    · obtain ⟨r', hr', hst', hhold', -, hrel'⟩ := run?_supervisorFault hmark (FaultInfo.base 0x30E 4)
      refine ⟨_, r', hcheck _ _ (checkPlane_bad hrun hrel hcycle horder hcrc) hr' ((hrel' _).trans hother'), hr', hst', hhold', ?_⟩
      rw [hrel', withReload_same]
  case alarms =>
    intro s n
    obtain ⟨_, _, h1⟩ := alarm_chip_one s (sensorCode n)
    obtain ⟨_, _, h2⟩ := alarm_chip_two s (sensorCode n)
    obtain ⟨_, _, h3⟩ := alarm_chip_three s (sensorCode n)
    refine ⟨rfl, by rw [h1], rfl, by rw [h2], by rw [h2], ?_, rfl, by rw [h3], by rw [h3], by rw [h3], by rw [h3]⟩
    rw [h2]
    intro l hl
    obtain ⟨l', -, rfl⟩ := List.mem_map.mp hl
    exact locked_lock l'
  case almclr =>
    intro s
    refine ⟨fun h => congrArg Host.Outcome.next (almclr_ignored h), fun hready hlevel hfree => ?_⟩
    refine ⟨_, congrArg Host.Outcome.next (almclr_clears hready hlevel hfree), rfl, rfl, rfl, fun l hl => ?_⟩
    obtain ⟨l', -, rfl⟩ := List.mem_map.mp hl
    exact retrain_stat l'
  case arbor =>
    intro s die head p hbusy t waiting hhead hmoved hfits
    exact congrArg Host.Outcome.next (arbor_places hbusy hhead hmoved hfits)
  case readout =>
    intro s u run r o hrun horder _ hplace hbusy hrec
    obtain ⟨t, r', ht, h⟩ := readoutComplete_reads hrun horder hplace hbusy hrec
    exact ⟨t, r', congrArg Host.Outcome.next ht, h⟩
  case busy => exact fun s run r o hrun horder hplace hbusy => congrArg Host.Outcome.next (readoutComplete_busy hrun horder hplace hbusy)
  case record => exact fun s r slot va => writeRecord_slot
  case layout => exact fun s r cells => recordOfRun_layout s r cells
  case restore =>
    intro s run r o hrun horder hst hhold hpages
    refine ⟨fun hrec => congrArg Host.Outcome.next (restoreComplete_state hrun horder hst hhold hpages hrec),
      fun r1 hrec hid howner hhandler hrel => ?_⟩
    obtain ⟨t, r', ht, h⟩ := restoreComplete_restores hrun horder hst hhold hpages hrec hid howner hhandler hrel
    exact ⟨t, r', congrArg Host.Outcome.next ht, h⟩

end Sys2Proof.Proofs.ErrorsAndScheduling
end

section
/-! What ends with the teardown of a context (20 R341, 03 R31; O28). -/

namespace Sys2Proof.Proofs.Teardown
open Sys2Proof.Machine Sys2Proof.Laws Sys2Proof.Proofs.FiringFrames Sys2Proof.Proofs.Engines Sys2Proof.Proofs.ErrorEvents
open Sys2Proof.Proofs.RunRecords (vwrite_runs)
open Sys2Proof.Proofs.MemoryReads (length_natBytes cellRead_cellWrite)

variable {s : State}

/-! ## What a retirement leaves of the runs (03 R31) -/

/-- A run's number and state. -/
def numbered (r : Run) : Nat × RunState := (r.id, r.st)

theorem modElem_numbered (s : State) (e : ElemRef) (f : Elem → Elem) : (s.modElem e f).runs.map numbered = s.runs.map numbered := by
  show ((s.modRun e.run _).runs.map numbered) = _
  rw [modRun_runs, List.map_map]
  refine List.map_congr_left fun r _ => ?_
  show numbered (if _ then _ else r) = numbered r
  split
  · exact Prod.ext (setPlane_id ..) (setPlane_st ..)
  · rfl

theorem dropHold_runs (s : State) (slot va : Nat) : (s.dropHold slot va).runs = s.runs := by
  unfold State.dropHold
  split
  · rfl
  · dsimp only
    split
    · exact (vwrite_runs ‹_› :)
    · rfl

theorem freeOwners_runs (s : State) (r : Run) : (s.freeOwners r).runs = s.runs := by
  unfold State.freeOwners
  exact foldl_keeps (g := State.runs) (f := fun s (o : Owner) => s.dropHold o.slot o.base) (fun s o => dropHold_runs ..) _ s

theorem answerSender_numbered (s : State) (req : Nat) (back : Option Flit) (st : Nat) :
    (s.answerSender req back st).runs.map numbered = s.runs.map numbered := by
  unfold State.answerSender
  split
  · rfl
  · split
    · exact modElem_numbered ..
    · rfl

/-- A run without orders and memberships leaves the others and itself, but for its answers to senders, until it is removed. -/
theorem retire_runs {k : Nat} {r : Run} (h : s.run? k = some r) (horders : r.orders = []) (hgroups : r.groups = []) :
    ∃ l : List Run, l.map numbered = s.runs.map numbered ∧ (s.retire k).runs = l.filter fun x => x.id != k || x.st == .retired := by
  unfold State.retire
  rw [h]
  refine ⟨_, ?_, rfl⟩
  refine (foldl_keeps (g := fun s => s.runs.map numbered) (fun s q => ?_) _ _).trans
    ((foldl_keeps (g := fun s => s.runs.map numbered) (fun s m => answerSender_numbered ..) _ _).trans ?_)
  · split
    · exact answerSender_numbered ..
    · rfl
  · have hstart : (r.groups.foldl (fun s g => s.leaveGroup k g) (r.orders.foldl (fun s o => s.answerWho o.2 1) s)) = s := by
      rw [horders, hgroups]
      rfl
    refine congrArg (List.map numbered) (Eq.trans ?_ ((freeOwners_runs _ r).trans (congrArg State.runs hstart)))
    split
    · rfl
    · rfl

theorem retire_runs_one {r : Run} (h : s.runs = [r]) (hst : r.st ≠ .retired) (horders : r.orders = []) (hgroups : r.groups = []) :
    (s.retire r.id).runs = [] := by
  have hrun : s.run? r.id = some r := by
    rw [State.run?, h]
    simp [hst]
  obtain ⟨l, hl, hruns⟩ := retire_runs hrun horders hgroups
  rw [h, List.map_singleton, List.map_eq_singleton_iff] at hl
  obtain ⟨x, rfl, hx⟩ := hl
  obtain ⟨hid, hxst⟩ := Prod.mk.inj hx
  rw [hruns]
  simp [hid, hxst, hst]

/-! ## The teardown of a context (20 R341) -/

/-- A context is torn down behind its launches and runs. -/
def tornFrom (u : State) (slot : Nat) (d : Line) (w : W64) (runs discarded : Nat) : State :=
  let cache := u.eng.cache.filter fun e => e.slot != slot
  let s : State := { u with
    adm := { u.adm with
      ctxs := u.adm.ctxs.filter fun c => c.slot != slot
      images := u.adm.images.filter fun i => i.slot != slot
      copied := u.adm.copied.filter fun c => c.1 != slot }
    eng := { u.eng with cache := cache } }
  let s := s.freeTenant (ctxTenant d)
  let rep := natBytes 4 runs ++ natBytes 4 discarded ++ natBytes 8 1
  let at_ := w.toNat / 64 * 64
  { s with
    mem := { s.mem with host := cellWrite s.mem.host at_ rep }
    adm := { s.adm with torn := s.adm.torn ++ [(slot, at_, discarded)] } }

/-- The runs of a context. -/
def runsOf (s : State) (slot : Nat) : List Run := s.runs.filter fun r => r.slot == slot && r.st != .retired

/-- The runs of the context are gone, its launches discarded. -/
def endedRuns (s : State) (slot : Nat) : State :=
  (runsOf s slot).foldl (fun s r => (s.freeze r.id .supervisor).retire r.id) (s.discardLaunches slot)

theorem ctxtear_eq {slot : Nat} {d : Line} (hready : s.ready = true) (hctx : s.ctx? slot = some d) (w : W64) :
    s.ctxtear slot w = tornFrom (endedRuns s slot) slot d w (runsOf s slot).length (s.adm.launches.filter fun l => l.slot == slot).length := by
  simp only [State.ctxtear, hctx, hready, Bool.not_true, Bool.false_eq_true, ↓reduceIte]
  rfl

theorem freeTenant_eng (s : State) (t : Nat) : ∃ e, s.freeTenant t = { s with eng := e } := by
  unfold State.freeTenant
  split
  · exact ⟨s.eng, rfl⟩
  · exact ⟨_, rfl⟩

theorem tornFrom_parts (u : State) (slot : Nat) (d : Line) (w : W64) (runs discarded : Nat) :
    let t := tornFrom u slot d w runs discarded
    t.runs = u.runs
      ∧ t.mem = { u.mem with host := cellWrite u.mem.host (w.toNat / 64 * 64) (natBytes 4 runs ++ natBytes 4 discarded ++ natBytes 8 1) }
      ∧ t.adm.launches = u.adm.launches ∧ t.adm.ctxs = u.adm.ctxs.filter fun c => c.slot != slot := by
  unfold tornFrom
  dsimp only
  obtain ⟨e, he⟩ := freeTenant_eng { u with
    adm := { u.adm with
      ctxs := u.adm.ctxs.filter fun c => c.slot != slot
      images := u.adm.images.filter fun i => i.slot != slot
      copied := u.adm.copied.filter fun c => c.1 != slot }
    eng := { u.eng with cache := u.eng.cache.filter fun e => e.slot != slot } } (ctxTenant d)
  rw [he]
  exact ⟨rfl, rfl, rfl, rfl⟩

theorem ctx?_gone {slot : Nat} {t : State} {l : List Ctx} (h : t.adm.ctxs = l.filter fun c => c.slot != slot) : t.ctx? slot = none := by
  rw [State.ctx?, h, Option.map_eq_none_iff, List.find?_eq_none]
  intro c hc hs
  have hne := (List.mem_filter.mp hc).2
  rw [bne, hs] at hne
  cases hne

theorem ctx?_stays {slot k : Nat} {t : State} (h : t.adm.ctxs = s.adm.ctxs.filter fun c => c.slot != slot) (hk : k ≠ slot) :
    t.ctx? k = s.ctx? k := by
  rw [State.ctx?, State.ctx?, h, List.find?_filter]
  congr 2
  funext c
  by_cases hc : c.slot = k
  · simp [hc, hk]
  · simp [hc]

theorem discardLaunches_rest (s : State) (slot : Nat) : (s.discardLaunches slot).runs = s.runs ∧ (s.discardLaunches slot).mem = s.mem
    ∧ (s.discardLaunches slot).adm.ctxs = s.adm.ctxs
    ∧ ∀ l ∈ (s.discardLaunches slot).adm.launches, l.slot ≠ slot := by
  have hkeeps {β : Type} (g : State → β) (hg : ∀ s p, g (s.freePort p 4) = g s) (l : List Launch) : g (l.foldl (fun s l => match l.port with
      | none => s
      | some p => s.freePort p 4) s) = g s := by
    refine foldl_keeps (fun s l => ?_) l s
    split
    · rfl
    · exact hg s _
  refine ⟨hkeeps State.runs (fun s p => rfl) _, hkeeps State.mem (fun s p => rfl) _, hkeeps (fun s => s.adm.ctxs) (fun s p => rfl) _,
    fun l hl => ?_⟩
  exact bne_iff_ne.mp (List.mem_filter.mp hl).2

theorem endedRuns_safe (h : s.Safe) (slot : Nat) : (endedRuns s slot).Safe := by
  refine Canonical.foldl_wf (fun s r hs => Canonical.retire_wf _ _ (by rw [freeze_mem]; exact hs)) _ ?_
  rw [(discardLaunches_rest s slot).2.1]
  exact h

theorem endedRuns_none {slot : Nat} (h : ∀ r ∈ s.runs, r.slot = slot → r.st = .retired) : endedRuns s slot = s.discardLaunches slot := by
  have hnone : runsOf s slot = [] := by
    refine List.filter_eq_nil_iff.mpr fun r hr hx => ?_
    rw [Bool.and_eq_true, beq_iff_eq, bne_iff_ne] at hx
    exact hx.2 (h r hr hx.1)
  rw [endedRuns, hnone]
  rfl

theorem endedRuns_one {slot : Nat} {r : Run} (h : s.runs = [r]) (hslot : r.slot = slot) (hst : r.st ≠ .retired) (horders : r.orders = [])
    (hgroups : r.groups = []) : (endedRuns s slot).runs = [] := by
  have hone : runsOf s slot = [r] := by
    rw [runsOf, h]
    simp [hslot, hst]
  rw [endedRuns, hone]
  obtain ⟨x, hx, hid, hxst, hxorders, hxgroups⟩ := freeze_runs_one ((discardLaunches_rest s slot).1.trans h) hst .supervisor
  show ((State.freeze _ r.id .supervisor).retire r.id).runs = []
  rw [← hid] at hx ⊢
  exact retire_runs_one hx (by rw [hxst]; decide) (hxorders.trans horders) (hxgroups.trans hgroups)

/-- The report at the host address that the write names (log 39). -/
theorem tornFrom_report {u : State} (h : u.Safe) (slot : Nat) (d : Line) (w : W64) (runs discarded : Nat) :
    cellRead (tornFrom u slot d w runs discarded).mem.host (w.toNat / 64 * 64) 16 = natBytes 4 runs ++ natBytes 4 discarded ++ natBytes 8 1 := by
  obtain ⟨-, hmem, -, -⟩ := tornFrom_parts u slot d w runs discarded
  rw [hmem]
  have hlen : (natBytes 4 runs ++ natBytes 4 discarded ++ natBytes 8 1).length = 16 := by simp only [List.length_append, length_natBytes]
  have hread := cellRead_cellWrite (w.toNat / 64 * 64) (natBytes 4 runs ++ natBytes 4 discarded ++ natBytes 8 1) (safe_iff.mp h).2.1
  rw [hlen] at hread
  exact hread

end Sys2Proof.Proofs.Teardown
end

section
/-! Registers of the host: contexts, tenants, translations, links, rings, circuits (20 R341, 21 R353, 23 R370, 24 R381 to R386; O28). -/

namespace Sys2Proof.Proofs.HostRegisters
open Sys2Proof.Machine Sys2Proof.Laws Sys2Proof.Proofs.HostQueues

variable {s : State}

/-! ## Contexts and tenants (20 R341, 23 R370, R371) -/

/-- The context joins those that are registered. -/
def withCtx (s : State) (slot : Nat) (d : Line) : State := { s with adm := { s.adm with ctxs := s.adm.ctxs ++ [(⟨slot, d⟩ : Ctx)] } }

theorem ctx?_withCtx {slot : Nat} (h : s.ctx? slot = none) (d : Line) :
    (withCtx s slot d).ctx? slot = some d ∧ ∀ k, k ≠ slot → (withCtx s slot d).ctx? k = s.ctx? k := by
  have happend (k : Nat) : (withCtx s slot d).ctx? k =
      ((s.adm.ctxs.find? fun c => c.slot == k).or (if slot == k then some ⟨slot, d⟩ else none)).map
      (·.desc) := by
    show ((s.adm.ctxs ++ [(⟨slot, d⟩ : Ctx)]).find? _).map _ = _
    rw [List.find?_append, List.find?_singleton]
  refine ⟨?_, fun k hk => ?_⟩
  · rw [happend, Option.map_eq_none_iff.mp h, beq_self_eq_true]
    rfl
  · rw [happend, beq_eq_false_iff_ne.mpr (Ne.symm hk), if_neg Bool.false_ne_true, Option.or_none]
    rfl

theorem ctxreg_disabled {slot : Nat} {w : W64}
    (hen : tenEn (s.tenant (ctxTenant (lineOf (s.hbmRead (fld w 56 6 * 64) 64)))) = false) : s.ctxreg slot w = s := by
  simp only [State.ctxreg, hen, Bool.not_false, Bool.or_true, ↓reduceIte]

section Registered
variable {slot : Nat} {w : W64} (hready : s.ready = true) (hslot : slot < 256) (hctx : s.ctx? slot = none)
  (hpsn : s.poisoned (fld w 56 6 * 64) = false)
include hready hslot hctx hpsn

theorem ctxreg_registers (hen : tenEn (s.tenant (ctxTenant (lineOf (s.hbmRead (fld w 56 6 * 64) 64)))) = true) :
    s.ctxreg slot w = withCtx s slot (lineOf (s.hbmRead (fld w 56 6 * 64) 64)) := by
  simp only [State.ctxreg, hready, hctx, hpsn, hen, decide_eq_false (Nat.not_le.mpr hslot), Bool.not_true, Option.isSome_none, Bool.or_self,
    Bool.false_eq_true, ↓reduceIte]
  rfl

end Registered

section TenantTable
variable {k : Nat} {w : BitVec 128} (hready : s.ready = true) (hk : k < 64)
include hready hk

theorem tenantWrite_ok (h : s.tenantStatus k (w &&& tenantMask) = 0) : s.tenantWrite k w = { s with adm := { s.adm with
    tenants := s.adm.tenants.filter (fun x => x.n != k) ++ [(⟨k, w &&& tenantMask⟩ : Tenant)], tenstat := 0 } } := by
  simp only [State.tenantWrite, hready, h, decide_eq_false (Nat.not_le.mpr hk), Bool.not_true, Bool.or_self, Bool.false_eq_true, ↓reduceIte]
  rfl

theorem tenantWrite_refused (h : s.tenantStatus k (w &&& tenantMask) ≠ 0) : s.tenantWrite k w =
    { s with adm := { s.adm with tenstat := BitVec.ofNat 2 (s.tenantStatus k (w &&& tenantMask)) } } := by
  simp only [State.tenantWrite, hready, h, decide_eq_false (Nat.not_le.mpr hk), Bool.not_true, Bool.or_self, Bool.false_eq_true, ↓reduceIte]

end TenantTable

theorem tenant_replaced {t : State} {k : Nat} {v : BitVec 128}
    (h : t.adm.tenants = s.adm.tenants.filter (fun x => x.n != k) ++ [(⟨k, v⟩ : Tenant)]) :
    t.tenant k = v ∧ ∀ j, j ≠ k → t.tenant j = s.tenant j := by
  have happend (j : Nat) : t.tenant j = (((s.adm.tenants.find? fun x => x.n != k && x.n == j).or (if k == j then some ⟨k, v⟩ else none)).map
      (·.val)).getD 0 := by
    rw [State.tenant, h, List.find?_append, List.find?_singleton, List.find?_filter]
    simp only [Bool.decide_and, Bool.decide_eq_true]
  refine ⟨?_, fun j hj => ?_⟩
  · have hnone : (s.adm.tenants.find? fun x => x.n != k && x.n == k) = none := List.find?_eq_none.mpr fun x _ hx => by simp at hx
    rw [happend, hnone, beq_self_eq_true]
    rfl
  · have hsame : (fun x : Tenant => x.n != k && x.n == j) = fun x => x.n == j := by
      funext x
      by_cases hx : x.n = j
      · simp [hx, hj]
      · simp [hx]
    rw [happend, beq_eq_false_iff_ne.mpr (Ne.symm hj), if_neg Bool.false_ne_true, Option.or_none, hsame, State.tenant]

theorem tenantStatus_busy {k : Nat} (v : BitVec 128) (h : ∃ c ∈ s.adm.ctxs, ctxTenant c.desc = k) : s.tenantStatus k v = 1 := by
  obtain ⟨c, hc, hk⟩ := h
  exact if_pos (List.any_eq_true.mpr ⟨c, hc, by rw [hk]; exact beq_self_eq_true k⟩)

section Idle
variable {k : Nat} {v : BitVec 128} (h : ∀ c ∈ s.adm.ctxs, ctxTenant c.desc ≠ k)
include h

theorem tenantIdle : ¬(s.adm.ctxs.any fun c => ctxTenant c.desc == k) = true := by
  rw [List.any_eq_true]
  rintro ⟨c, hc, hk⟩
  exact h c hc (beq_iff_eq.mp hk)

theorem tenantStatus_range (hv : 4096 < tenUq v ∨ 1024 < tenPr v ∨ 512 < tenRs v ∨ 48 < tenPg v ∨ 512 < tenRsBase v + tenRs v) :
    s.tenantStatus k v = 3 := by
  refine (if_neg (tenantIdle h)).trans (if_pos ?_)
  exact hv.imp_right (Or.imp_right (Or.imp_right (Or.imp_right Or.inl)))

theorem tenantStatus_first (hnone : s.adm.tenants = []) (huq : tenUq v ≤ 4096) (hpr : tenPr v ≤ 1024) (hrs : tenRs v ≤ 512)
    (hpg : tenPg v ≤ 48)
    (hbase : tenRsBase v + tenRs v ≤ 512) (hhbm : (tenHbase v + tenHsize v) * 2 ^ 30 ≤ Config.hbmBytes) : s.tenantStatus k v = 0 := by
  have hsum (f : BitVec 128 → Nat) (n : Nat) (hf : f v ≤ n) : (if tenEn v = true then f v else 0) ≤ n := by
    split
    · exact hf
    · exact Nat.zero_le n
  refine (if_neg (tenantIdle h)).trans ?_
  rw [hnone]
  refine (if_neg ?_).trans rfl
  have hpr' : (if tenEn v = true then tenPr v else 0) ≤ 1024 := hsum tenPr _ hpr
  have huq' : (if tenEn v = true then tenUq v else 0) ≤ 4096 := hsum tenUq _ huq
  simp only [List.filter_nil, List.map_nil, List.foldl_nil, not_or, Nat.not_lt]
  exact ⟨huq, hpr, hrs, hpg, hbase, hhbm, hpr', huq'⟩

end Idle

/-! ## Translations (21 R353, 24 R383) -/

theorem tlbinvWrite_starts (hready : s.ready = true) (hnone : s.adm.tlbinv = []) (lo hi : W64) :
    ∃ t, s.tlbinvWrite lo hi = t ∧ t.adm.tlbDone = false
      ∧ t.ord.tlb = s.ord.tlb.filter fun e => !(⟨lo, hi, false, []⟩ : TlbReq).names e := by
  refine ⟨_, rfl, ?_⟩
  simp only [State.tlbinvWrite, State.startTlb, hready, hnone, Bool.not_true, Bool.false_eq_true, ↓reduceIte, List.nil_append]
  exact ⟨trivial, rfl⟩

theorem tlbinvWrite_queues (hready : s.ready = true) {q : TlbReq} {rest : List TlbReq} (hq : s.adm.tlbinv = q :: rest) (hstarted : q.started = true)
    (lo hi : W64) : s.tlbinvWrite lo hi = { s with adm := { s.adm with tlbinv := s.adm.tlbinv ++ [(⟨lo, hi, false, []⟩ : TlbReq)] } } := by
  simp only [State.tlbinvWrite, State.startTlb, hready, hq, hstarted, Bool.not_true, Bool.false_eq_true, ↓reduceIte, List.cons_append]

theorem meets_iff (e : TlbEntry) (va n : Nat) : e.meets va n = true ↔ e.base < va + n ∧ va < e.base + 2 ^ e.size := by
  rw [TlbEntry.meets, Bool.and_eq_true, decide_eq_true_iff, decide_eq_true_iff]

theorem names_slot_range (q : TlbReq) (e : TlbEntry) :
    (fld q.hi 9 8 = 3 → q.names e = true) ∧ (fld q.hi 9 8 = 2 → q.names e = (e.slot == fld q.hi 7 0))
    ∧ (fld q.hi 9 8 = 0 → (q.names e = true ↔ e.slot = fld q.hi 7 0 ∧ e.base < fld q.lo 56 12 * 4096 + 4096
      ∧ fld q.lo 56 12 * 4096 < e.base + 2 ^ e.size))
    ∧ (fld q.hi 9 8 = 1 → (q.names e = true ↔ e.slot = fld q.hi 7 0 ∧ e.base < fld q.lo 56 12 * 4096 + 4096 * 2 ^ fld q.hi 15 10
      ∧ fld q.lo 56 12 * 4096 < e.base + 2 ^ e.size)) := by
  refine ⟨fun h => ?_, fun h => ?_, fun h => ?_, fun h => ?_⟩
  · simp only [TlbReq.names, h]
  · simp only [TlbReq.names, h]
  · simp only [TlbReq.names, h, Bool.and_eq_true, beq_iff_eq, meets_iff]
  · simp only [TlbReq.names, h, Bool.and_eq_true, beq_iff_eq, meets_iff]

theorem allPerformed_iff (ids : List Nat) : s.allPerformed ids = true ↔ ∀ i ∈ ids, s.acc? i = none := by
  simp only [State.allPerformed, List.all_eq_true, Option.isNone_iff_eq_none]

theorem tlbinvDone_ends {q : TlbReq} (hq : s.adm.tlbinv = [q]) (hstarted : q.started = true) (hwaits : ∀ i ∈ q.waits, s.acc? i = none) :
    s.tlbinvDone = { s with adm := { s.adm with tlbinv := [], tlbDone := true } } := by
  have hdone : s.allPerformed q.waits = true := (allPerformed_iff q.waits).mpr hwaits
  simp only [State.tlbinvDone, State.startTlb, hq, hstarted, hdone, Bool.and_self, ↓reduceIte]

theorem tlbinvDone_waits {q : TlbReq} (hq : s.adm.tlbinv = [q]) (hwaits : ∃ i ∈ q.waits, s.acc? i ≠ none) : s.tlbinvDone = s := by
  have hnot : s.allPerformed q.waits = false := by
    rw [Bool.eq_false_iff, Ne, allPerformed_iff]
    rintro h
    obtain ⟨i, hi, hacc⟩ := hwaits
    exact hacc (h i hi)
  simp only [State.tlbinvDone, hq, hnot, Bool.and_false, Bool.false_eq_true, ↓reduceIte]

/-- An invalidation of the host that nothing waits for is complete at once. -/
theorem atsInvalidate_completes (hats : s.adm.ats = []) (haccs : s.ord.accs = []) (pasid addr n : Nat) :
    ∃ t, s.atsInvalidate pasid addr n = t ∧ t.chip.hostOut = s.chip.hostOut ++ [3 :: natBytes 2 pasid]
      ∧ t.ord.tlb = s.ord.tlb.filter fun e => !(pteTgt e.pte == 2 && e.slot == pasid
        && decide (pteFrame e.pte < addr + n) && decide (addr < pteFrame e.pte + 2 ^ e.size)) := by
  refine ⟨_, rfl, ?_⟩
  simp only [State.atsInvalidate, State.settleAts, State.dropTlb, State.allPerformed, hats, haccs, List.nil_append, List.filter_nil, List.map_nil,
    List.filter_cons, List.all_nil, Bool.not_true, Bool.false_eq_true, ↓reduceIte, List.foldl_cons, List.foldl_nil]
  exact ⟨rfl, rfl⟩

/-! ## Fields of words -/

theorem fld_congr {n : Nat} {x y : BitVec n} {hi lo : Nat} (h : ∀ i, lo ≤ i → i ≤ hi → x.getLsbD i = y.getLsbD i) :
    fld x hi lo = fld y hi lo := by
  refine Nat.eq_of_testBit_eq fun i => ?_
  simp only [fld, Nat.testBit_mod_two_pow, Nat.testBit_shiftRight, BitVec.testBit_toNat]
  by_cases hi' : i < hi + 1 - lo
  · rw [h (lo + i) (by omega) (by omega)]
  · simp [hi']

/-! ## Links (24 R385) -/

/-- A link whose quarantine is lifted. -/
def lifted (l : Link) : Link := { l with stat := l.stat &&& 0xFFFF7FFF, macs := [] }

theorem lifted_fields (l : Link) : linkQuar (lifted l).stat = false ∧ linkState (lifted l).stat = linkState l.stat
    ∧ linkLock (lifted l).stat = linkLock l.stat := by
  refine ⟨?_, ?_, ?_⟩
  · show (l.stat &&& 0xFFFF7FFF).getLsbD 15 = false
    rw [BitVec.getLsbD_and]
    simp
  · show fld (l.stat &&& 0xFFFF7FFF) 3 0 = fld l.stat 3 0
    refine fld_congr fun i _ hi => ?_
    have hmask : ∀ i < 4, (0xFFFF7FFF : W32).getLsbD i = true := by decide
    rw [BitVec.getLsbD_and, hmask i (by omega), Bool.and_true]
  · show (l.stat &&& 0xFFFF7FFF).getLsbD 14 = l.stat.getLsbD 14
    rw [BitVec.getLsbD_and]
    simp

theorem lnkqclr_link? (hready : s.ready = true) (w : W64) (k : Nat) :
    (s.lnkqclr w).link? k = (s.link? k).map fun l => if w.getLsbD k then lifted l else l := by
  rw [State.lnkqclr, if_neg (by simp [hready])]
  show (s.chip.links.zipIdx.map _)[k]? = _
  rw [List.getElem?_map, List.getElem?_zipIdx, Option.map_map]
  refine congrFun (congrArg Option.map ?_) _
  funext l
  show (if w.getLsbD (0 + k) then _ else _) = _
  rw [Nat.zero_add]
  rfl

theorem link?_modLink {k : Nat} {l : Link} (h : s.link? k = some l) (f : Link → Link) : (s.modLink k f).link? k = some (f l) := by
  show (modAt f s.chip.links k)[k]? = _
  rw [modAt_get, if_pos rfl]
  exact congrArg (Option.map f) h

/-! ## Rings (24 R382) -/

/-- A field that the mask of a write selects is the new one, another is the old one. -/
theorem fld_merge {n : Nat} (old w m : BitVec n) {hi lo : Nat} (hn : hi < n) :
    ((∀ i < n, lo ≤ i → i ≤ hi → m.getLsbD i = true) → fld ((old &&& ~~~m) ||| (w &&& m)) hi lo = fld w hi lo)
    ∧ ((∀ i < n, lo ≤ i → i ≤ hi → m.getLsbD i = false) → fld ((old &&& ~~~m) ||| (w &&& m)) hi lo = fld old hi lo) := by
  refine ⟨fun h => fld_congr fun i hlo hhi => ?_, fun h => fld_congr fun i hlo hhi => ?_⟩
  · have hm := h i (by omega) hlo hhi
    simp [hm]
  · have hm := h i (by omega) hlo hhi
    have hin : i < n := by omega
    rw [BitVec.getLsbD_or, BitVec.getLsbD_and, BitVec.getLsbD_and, BitVec.getLsbD_not, hm, decide_eq_true hin]
    simp

/-- TAIL, BASE and LSZ take the write, HEAD stays. -/
theorem ctxegWrite_fields (old w : BitVec 128) :
    fld (ctxegWrite old w) 127 96 = fld w 127 96 ∧ fld (ctxegWrite old w) 95 64 = fld old 95 64
      ∧ fld (ctxegWrite old w) 63 12 = fld w 63 12 ∧ fld (ctxegWrite old w) 3 0 = fld w 3 0 := by
  refine ⟨(fld_merge old w _ (by decide)).1 ?_, (fld_merge old w _ (by decide)).2 ?_, (fld_merge old w _ (by decide)).1 ?_,
    (fld_merge old w _ (by decide)).1 ?_⟩
  · decide
  · decide
  · decide
  · decide

theorem ring_setRing_ne {slot n a b : Nat} (h : a ≠ slot ∨ b ≠ n) (v : BitVec 128) : (s.setRing slot n v).ring a b = s.ring a b := by
  have hnew : ((slot == a) && (n == b)) = false := by
    rw [Bool.and_eq_false_iff, beq_eq_false_iff_ne, beq_eq_false_iff_ne]
    exact h.imp Ne.symm Ne.symm
  have hold : (fun r : Ring => !(r.slot == slot && r.ring == n) && (r.slot == a && r.ring == b)) = fun r => r.slot == a && r.ring == b := by
    funext r
    by_cases hr : r.slot = a ∧ r.ring = b
    · rw [hr.1, hr.2, BEq.comm (a := a), BEq.comm (a := b), hnew]
      rfl
    · have hr' : (r.slot == a && r.ring == b) = false := by
        rw [Bool.eq_false_iff]
        simpa using hr
      rw [hr', Bool.and_false]
  rw [State.ring, State.setRing]
  dsimp only
  rw [List.find?_append, List.find?_singleton, hnew, if_neg Bool.false_ne_true, Option.or_none, List.find?_filter]
  simp only [Bool.decide_and, Bool.decide_eq_true, hold]
  rfl

section RingWrite
variable {slot ring : Nat} (hslot : slot < 256) (hring : ring < 16) (hopen : s.ready = true ∨ (slot = 0 ∧ ring = 0))
include hopen

theorem ringOpen : (s.ready || (slot == 0 && ring == 0)) = true := by
  rcases hopen with h | ⟨rfl, rfl⟩
  · rw [h, Bool.true_or]
  · rw [Bool.or_comm]
    rfl

include hslot hring in
theorem registerWrite_ring (w : BitVec 128) :
    s.registerWrite (.ctxeg slot ring) w = s.setRing slot ring (ctxegWrite (s.ring slot ring) w) := by
  refine if_pos ?_
  rw [ringOpen hopen, decide_eq_true hslot, decide_eq_true hring]
  rfl

theorem hostRead_ring {t : State} (ht : t.ready = s.ready) : t.hostRead (.ctxeg slot ring) = t.ring slot ring := by
  refine if_pos ?_
  rw [ht]
  exact ringOpen hopen

end RingWrite

/-! ## Circuits (24 R386) -/

/-- The circuit table with an entry in the place of those of its group and direction. -/
def rebound (s : State) (k g : Nat) (out : Bool) (e : Option (Nat × Nat × Nat)) : List Circuit :=
  (s.chip.circuits.filter fun c => !(c.link == k && c.group == g && c.out == out))
    ++ (e.map fun q => (⟨k, g, out, q.1, q.2.1, q.2.2, 64⟩ : Circuit)).toList

theorem registerWrite_circuit (hready : s.ready = true) (k g : Nat) (out : Bool) (e : Option (Nat × Nat × Nat)) (w : BitVec 128) :
    s.registerWrite (.circuit k g out e) w = { s with chip := { s.chip with circuits := rebound s k g out e } } := if_pos hready

theorem registerWrite_circuit_shut (hready : s.ready = false) (k g : Nat) (out : Bool) (e : Option (Nat × Nat × Nat)) (w : BitVec 128) :
    s.registerWrite (.circuit k g out e) w = s := by
  refine if_neg ?_
  rw [hready]
  exact Bool.false_ne_true

theorem mem_rebound (k g : Nat) (out : Bool) (e : Option (Nat × Nat × Nat)) (c : Circuit) :
    c ∈ rebound s k g out e ↔ (c ∈ s.chip.circuits ∧ (c.link, c.group, c.out) ≠ (k, g, out))
      ∨ ∃ q, e = some q ∧ c = ⟨k, g, out, q.1, q.2.1, q.2.2, 64⟩ := by
  rw [rebound, List.mem_append, List.mem_filter]
  refine or_congr (and_congr_right fun _ => ?_) ?_
  · rw [Bool.not_eq_true', Bool.eq_false_iff, Ne, Ne, Prod.mk.injEq, Prod.mk.injEq]
    simp only [Bool.and_eq_true, beq_iff_eq, and_assoc]
  · rw [Option.mem_toList, Option.map_eq_some_iff]
    exact ⟨fun ⟨q, hq, hc⟩ => ⟨q, hq, hc.symm⟩, fun ⟨q, hq, hc⟩ => ⟨q, hq, hc.symm⟩⟩

/-! ## Registers read back (00 R5, 25 R391) -/

theorem hostRead_shut {q : HostRd} (hready : s.ready = false) (hboot : q ≠ .bootstat) (hring : q ≠ .ctxeg 0 0) : s.hostRead q = 0 := by
  have hshut : (!s.ready) = true := by rw [hready]; rfl
  cases q with
  | bootstat => exact absurd rfl hboot
  | ctxeg slot ring =>
    refine if_neg ?_
    rw [hready, Bool.false_or, Bool.and_eq_true, beq_iff_eq, beq_iff_eq]
    rintro ⟨rfl, rfl⟩
    exact hring rfl
  | lnkcfg | lnkstat | tenant | tenstat | tlbinv | portWord | portCredit | portStatus => exact if_pos hshut

theorem hostRead_portWord (d p : Nat) : s.hostRead (.portWord d p) = 0 := ite_self _

section Ready
variable (hready : s.ready = true)
include hready

theorem notShut : ¬(!s.ready) = true := by rw [hready]; exact Bool.false_ne_true

theorem hostRead_tlbinv : (s.hostRead .tlbinv).toNat = if s.adm.tlbDone then 2 ^ 127 else 0 := by
  rw [show s.hostRead .tlbinv = _ from if_neg (notShut hready)]
  split
  · rfl
  · rfl

theorem hostRead_tenant (k : Nat) : s.hostRead (.tenant k) = s.tenant k := if_neg (notShut hready)

theorem hostRead_tenstat : s.hostRead .tenstat = s.adm.tenstat.setWidth 128 := if_neg (notShut hready)

theorem hostRead_lnkcfg {k : Nat} {l : Link} (h : s.link? k = some l) : s.hostRead (.lnkcfg k) = l.circ.setWidth 128 := by
  rw [show s.hostRead (.lnkcfg k) = _ from if_neg (notShut hready), h]
  rfl

theorem hostRead_lnkstat {k : Nat} {l : Link} (h : s.link? k = some l) : s.hostRead (.lnkstat k) = l.stat.setWidth 128 := by
  rw [show s.hostRead (.lnkstat k) = _ from if_neg (notShut hready), h]
  rfl

theorem hostRead_portCredit (d p : Nat) : (s.hostRead (.portCredit d p)).toNat = 64 - (s.port d p).used := by
  rw [show s.hostRead (.portCredit d p) = _ from if_neg (notShut hready), BitVec.toNat_ofNat]
  exact Nat.mod_eq_of_lt (by omega)

theorem hostRead_portStatus {d p : Nat} (h : (s.port d p).lstat < 256) : fld (s.hostRead (.portStatus d p)) 7 0 = (s.port d p).lstat
    ∧ fld (s.hostRead (.portStatus d p)) 15 8 = (s.port d p).pstate
    ∧ fld (s.hostRead (.portStatus d p)) 39 16 = (s.port d p).ident % 2 ^ 24 := by
  rw [show s.hostRead (.portStatus d p) = _ from if_neg (notShut hready)]
  have hstate : (s.port d p).pstate ≤ 2 := by
    unfold HPort.pstate
    split
    · exact Nat.le_refl 2
    · split <;> omega
  generalize s.port d p = x at h hstate
  simp only [fld, BitVec.toNat_ofNat, Nat.shiftRight_eq_div_pow]
  omega

end Ready

end Sys2Proof.Proofs.HostRegisters
end

section
/-! O28: host registers and the SPDM responder. -/

namespace Sys2Proof.Proofs.HostAndKeys
open Sys2Proof.Machine Sys2Proof.Laws Sys2Proof.Proofs.HostQueues Sys2Proof.Proofs.HostRegisters Sys2Proof.Proofs.Teardown

variable {s : State}

/-! ## The responder (23 R376) -/

/-- Keys and memory stay, and the responder stands at `conn` and `session` with one more reply. -/
def Answers (s t : State) (code : Byte) (conn session : Nat) : Prop :=
  ∃ body, (t.chip.idKey = s.chip.idKey ∧ t.chip.grantKey = s.chip.grantKey ∧ t.chip.sessKey = s.chip.sessKey ∧ t.mem = s.mem)
    ∧ t.chip.spdm = ⟨conn, session, (code, body) :: s.chip.spdm.replies⟩

theorem answers_reply (s : State) (f : Spdm → Spdm) (hf : (f s.chip.spdm).replies = s.chip.spdm.replies) (code : Byte) (body : List Byte) :
    Answers s ((s.spdmSet f).spdmReply code body) code (f s.chip.spdm).conn (f s.chip.spdm).session :=
  ⟨_, ⟨rfl, rfl, rfl, rfl⟩, congrArg (fun l => Spdm.mk _ _ ((code, body ++ Config.freeReply s.free) :: l)) hf⟩

theorem answers_error (s : State) : Answers s s.spdmError 0x7F s.chip.spdm.conn s.chip.spdm.session := ⟨_, ⟨rfl, rfl, rfl, rfl⟩, rfl⟩

theorem spdmAt_reached {conn : Nat} (h : conn ≤ s.chip.spdm.conn) (go : State → State) : s.spdmAt conn go = go s := if_neg (Nat.not_lt.mpr h)

theorem spdmAt_early {conn : Nat} (h : s.chip.spdm.conn < conn) (go : State → State) : s.spdmAt conn go = s.spdmError := if_pos h

section Signed
variable (hconn : 3 ≤ s.chip.spdm.conn) (hkey : s.chip.idKey ≠ none)
include hconn hkey

theorem spdmSigned_answers (code : Byte) (body : State → List Byte) (then_ : State → State) :
    s.spdmSigned code body then_ = (then_ s).spdmReply code (body s) := by
  rw [State.spdmSigned, spdmAt_reached hconn, if_neg (by rwa [Option.isNone_iff_eq_none])]

theorem answers_signed (code : Byte) (body : State → List Byte) :
    Answers s (s.spdmSigned code body id) code s.chip.spdm.conn s.chip.spdm.session := by
  rw [spdmSigned_answers hconn hkey]
  exact ⟨_, ⟨rfl, rfl, rfl, rfl⟩, rfl⟩

end Signed

theorem spdmSigned_error (h : s.chip.spdm.conn < 3 ∨ s.chip.idKey = none) (code : Byte) (body : State → List Byte) (then_ : State → State) :
    s.spdmSigned code body then_ = s.spdmError := by
  by_cases hconn : s.chip.spdm.conn < 3
  · exact spdmAt_early hconn _
  · have hkey := h.resolve_left hconn
    rw [State.spdmSigned, spdmAt_reached (Nat.not_lt.mp hconn), if_pos (by rw [hkey]; rfl)]

/-- Settles O28: register by register what a write leaves and a read gives, the teardown of a context by what ends its runs, and the responder
request by request. -/
theorem hostRegistersAndKeys : Obligations.HostRegistersAndKeys := by
  unfold Obligations.HostRegistersAndKeys
  refine ⟨?ctxreg, ?ctxtear, ?tlbinv, fun q e => names_slot_range q e, ?tlbDone, ?tenant, ?status, ?lnkqclr, ?ring, ?circuit, ?lnkcfg, ?read, ?ats,
    ?spdm⟩
  case ctxreg =>
    intro s slot w hready hslot hctx a d hpsn
    refine ⟨fun hen => ?_, fun hen => congrArg Host.Outcome.next (ctxreg_disabled hen)⟩
    obtain ⟨hnew, hothers⟩ := ctx?_withCtx hctx d
    exact ⟨withCtx s slot d, congrArg Host.Outcome.next (ctxreg_registers hready hslot hctx hpsn hen), hnew, hothers, rfl⟩
  case ctxtear =>
    intro s slot w d hsafe hready hctx
    obtain ⟨hruns, hmem, hlaunches, hctxs⟩ := tornFrom_parts (endedRuns s slot) slot d w (runsOf s slot).length
      (s.adm.launches.filter fun l => l.slot == slot).length
    refine ⟨_, congrArg Host.Outcome.next (ctxtear_eq hready hctx w), ctx?_gone hctxs, tornFrom_report (endedRuns_safe hsafe slot) ..,
      fun hnone => ?_,
      fun r hone hslot hst horders hgroups => hruns.trans (endedRuns_one hone hslot hst horders hgroups)⟩
    rw [endedRuns_none hnone] at hruns hmem hlaunches hctxs ⊢
    obtain ⟨hruns', hmem', hctxs', hlaunches'⟩ := discardLaunches_rest s slot
    refine ⟨hruns.trans hruns', ?_, ?_, fun k hk => ctx?_stays (by rw [hctxs, hctxs']) hk⟩
    · rw [hmem, hmem']
    · rw [hlaunches]
      exact hlaunches'
  case tlbinv =>
    intro s lo hi hready
    refine ⟨fun hnone => ?_, fun q rest hq hstarted => ⟨_, congrArg Host.Outcome.next (tlbinvWrite_queues hready hq hstarted lo hi), rfl, ?_⟩⟩
    · obtain ⟨t, ht, hdone, htlb⟩ := tlbinvWrite_starts hready hnone lo hi
      refine ⟨t, congrArg Host.Outcome.next ht, hdone, fun e => ?_⟩
      rw [htlb, List.mem_filter, Bool.not_eq_true']
    · exact List.length_append
  case tlbDone =>
    exact fun s q hq hstarted => ⟨fun hwaits => ⟨_, congrArg Host.Outcome.next (tlbinvDone_ends hq hstarted hwaits), rfl, rfl, rfl⟩,
      fun hwaits => congrArg Host.Outcome.next (tlbinvDone_waits hq hwaits)⟩
  case tenant =>
    intro s k w hready hk
    refine ⟨fun h => ?_, fun h => congrArg Host.Outcome.next (tenantWrite_refused hready hk h)⟩
    have hwrite := tenantWrite_ok hready hk h
    obtain ⟨hnew, hothers⟩ := tenant_replaced (s := s) (t := s.tenantWrite k w) (by rw [hwrite])
    exact ⟨_, rfl, hnew, by rw [hwrite], hothers⟩
  case status =>
    exact fun s k v => ⟨tenantStatus_busy v, fun h => ⟨tenantStatus_range h,
      fun hnone huq hpr hrs hpg => tenantStatus_first h hnone huq hpr hrs hpg⟩⟩
  case lnkqclr =>
    intro s w hready
    refine ⟨_, rfl, fun k l hl => ?_⟩
    have hlink := lnkqclr_link? hready w k
    rw [hl, Option.map_some] at hlink
    refine ⟨fun hw => by rw [hlink, hw]; rfl, fun hw => ⟨lifted l, by rw [hlink, hw]; rfl, ?_⟩⟩
    obtain ⟨hquar, hstate, hlock⟩ := lifted_fields l
    exact ⟨hquar, rfl, hstate, hlock, rfl⟩
  case ring =>
    intro s slot ring w hslot hring hopen
    obtain ⟨htail, hhead, hbase, hsize⟩ := ctxegWrite_fields (s.ring slot ring) w
    have hread := hostRead_ring (s := s) (t := s.setRing slot ring (ctxegWrite (s.ring slot ring) w)) hopen rfl
    refine ⟨_, congrArg Host.Outcome.next (registerWrite_ring hslot hring hopen w), rfl, ?_⟩
    rw [hread, ring_setRing]
    exact ⟨htail, hhead, hbase, hsize, rfl, fun a b h => ring_setRing_ne h _⟩
  case circuit =>
    intro s k g out e w
    refine ⟨fun hready => congrArg Host.Outcome.next (registerWrite_circuit_shut hready k g out e w),
      fun hready => ⟨_, congrArg Host.Outcome.next (registerWrite_circuit hready k g out e w), rfl, fun c hc => ?_, fun c hc => ?_⟩⟩
    · refine (mem_rebound k g out e c).trans ⟨fun h => ?_, fun h => .inl ⟨h, hc⟩⟩
      rcases h with ⟨hmem, -⟩ | ⟨q, -, rfl⟩
      · exact hmem
      · exact absurd rfl hc
    · exact (mem_rebound k g out e c).trans ⟨fun h => h.resolve_left fun h => h.2 hc, .inr⟩
  case lnkcfg =>
    intro s k w l hready hl
    have hwrite : s.registerWrite (.lnkcfg k) w = s.modLink k fun l => { l with circ := w.setWidth 4 } := if_pos hready
    have hlink := link?_modLink hl fun l => { l with circ := w.setWidth 4 }
    have hready' : (s.modLink k fun l => { l with circ := w.setWidth 4 }).ready = true := hready
    exact ⟨_, congrArg Host.Outcome.next hwrite, hlink, hostRead_lnkcfg hready' hlink, (hostRead_lnkstat hready' hlink :)⟩
  case read =>
    exact fun s => ⟨rfl, fun q => hostRead_shut, fun d p => hostRead_portWord d p, fun hready => ⟨hostRead_tlbinv hready, hostRead_tenant hready,
      hostRead_tenstat hready, fun d p => ⟨hostRead_portCredit hready d p, hostRead_portStatus hready⟩⟩⟩
  case ats =>
    intro s pasid addr n hats haccs
    obtain ⟨t, ht, hout, htlb⟩ := atsInvalidate_completes hats haccs pasid addr n
    refine ⟨t, congrArg Host.Outcome.next ht, hout, fun e => ?_⟩
    rw [htlb, List.mem_filter, Bool.not_eq_true', Bool.eq_false_iff]
    simp only [Ne, Bool.and_eq_true, beq_iff_eq, decide_eq_true_iff, and_assoc]
  case spdm =>
    intro s q keys tells
    have htells {i : Instr} {t : State} {code conn session : Nat} (hi : exec i s = .next t) (h : Answers s t (BitVec.ofNat 8 code) conn session) :
        tells i code conn session := by
      obtain ⟨body, hkeys, hspdm⟩ := h
      exact ⟨t, body, hi, hkeys, hspdm⟩
    refine ⟨htells rfl (answers_reply s _ rfl _ _), fun hconn => ?_, fun hconn => ?_, fun hconn hkey => ?_, fun h => ?_, fun h => ?_, fun h => ?_,
      fun h => ⟨?_, ?_⟩⟩
    · refine htells (congrArg Host.Outcome.next (spdmAt_reached hconn _)) ?_
      exact answers_reply s (fun x => { x with conn := max x.conn 2 }) rfl _ _
    · refine htells (congrArg Host.Outcome.next (spdmAt_reached hconn _)) ?_
      exact answers_reply s (fun x => { x with conn := 3 }) rfl _ _
    · refine ⟨htells rfl (answers_signed hconn hkey _ _), htells rfl (answers_signed hconn hkey _ _), htells rfl (answers_signed hconn hkey _ _),
        htells rfl (answers_signed hconn hkey _ _), fun hq => ⟨_, Config.freeReply s.free, rfl, ?_⟩, ?_⟩
      · rw [spdmSigned_answers hconn hkey, if_pos (.inl hq)]
        rfl
      · refine htells (congrArg Host.Outcome.next (spdmSigned_answers hconn hkey _ _ _)) ?_
        exact answers_reply s (fun x => { x with session := 1 }) rfl _ _
    · refine htells (congrArg Host.Outcome.next (spdmSigned_error h _ _ _)) (answers_error s)
    · have hfinish : s.spdmFinish = _ := if_neg fun hne => hne h
      exact ⟨_, _, congrArg Host.Outcome.next hfinish, Option.some_ne_none _, rfl, rfl⟩
    · have hend : s.spdmEnd = _ := if_neg fun hne => hne h
      exact ⟨_, _, congrArg Host.Outcome.next hend, rfl, rfl, rfl⟩
    · have hfinish : s.spdmFinish = _ := if_pos (by rw [h]; decide)
      exact htells (congrArg Host.Outcome.next hfinish) (h ▸ answers_error s)
    · have hend : s.spdmEnd = _ := if_pos (by rw [h]; decide)
      exact htells (congrArg Host.Outcome.next hend) (h ▸ answers_error s)

end Sys2Proof.Proofs.HostAndKeys
end

section
/-! Reset, cold reset, bring-up and the ready token (25 R391 to R394; O29). -/

namespace Sys2Proof.Proofs.BringUps
open Sys2Proof.Machine Sys2Proof.Laws Sys2Proof.Proofs.HostQueues
open Sys2Proof.Proofs.MemoryReads (length_natBytes cellRead_cellWrite cellRead_eq_map)

variable {s : State} {env : BringUp}

/-! ## BOOTSTAT (25 R391) -/

theorem bootWord_fields (halt ready : Bool) (step err dieok stkok : Nat) :
    bootHalt (bootWord halt ready step err dieok stkok) = halt ∧ bootReady (bootWord halt ready step err dieok stkok) = ready
      ∧ fld (bootWord halt ready step err dieok stkok) 35 32 = step % 16 ∧ fld (bootWord halt ready step err dieok stkok) 31 24 = err % 256 := by
  unfold bootWord bootHalt bootReady
  simp only [fld, BitVec.getLsbD_ofNat, BitVec.toNat_ofNat, Nat.shiftRight_eq_div_pow, Nat.testBit_eq_decide_div_mod_eq]
  cases halt
  · cases ready
    · simp; omega
    · simp; omega
  · cases ready
    · simp; omega
    · simp; omega

/-! ## The steps (25 R392, R394) -/

section Steps
variable (halarm : env.alarm = none)
include halarm

theorem alarm_none (b : Boot) : b.alarm env = b := by
  rw [Boot.alarm, halarm]

/-- A step that fails is the last one. -/
theorem go_stops {b : Boot} {fuel : Nat} (h : (b.act env).err ≠ 0) : Boot.go env (fuel + 1) b = b.act env := by
  rw [Boot.go]
  simp only [alarm_none halarm]
  exact if_pos (.inl h)

theorem go_steps {b : Boot} {fuel : Nat} (h : (b.act env).err = 0) (hstep : (b.act env).step ≠ 9) :
    Boot.go env (fuel + 1) b = Boot.go env fuel { b.act env with step := (b.act env).step + 1 } := by
  rw [Boot.go]
  simp only [alarm_none halarm]
  exact if_neg (by rw [h]; simp [hstep])

theorem go_ends {b : Boot} {fuel : Nat} (hstep : (b.act env).step = 9) : Boot.go env (fuel + 1) b = b.act env := by
  rw [Boot.go]
  simp only [alarm_none halarm]
  exact if_pos (.inr hstep)

theorem run_rom (hrom : env.romOk = false) : Boot.run env = ⟨1, 1, 0xFF, 0⟩ := by
  have hact : Boot.act ⟨1, 0, 0xFF, 0⟩ env = ⟨1, 1, 0xFF, 0⟩ := by simp only [Boot.act, hrom]; rfl
  rw [Boot.run, go_stops halarm (by rw [hact]; decide), hact]

section Rom
variable (hrom : env.romOk = true)
include hrom

theorem run_step_two : Boot.run env = Boot.go env 8 ⟨2, 0, 0xFF, 0⟩ := by
  have hact : Boot.act ⟨1, 0, 0xFF, 0⟩ env = ⟨1, 0, 0xFF, 0⟩ := by simp only [Boot.act, hrom]; rfl
  rw [Boot.run, go_steps halarm (by rw [hact]) (by rw [hact]; decide), hact]

theorem run_signature (hsig : env.sigOk = false) : Boot.run env = ⟨2, 2, 0xFF, 0⟩ := by
  have hact : Boot.act ⟨2, 0, 0xFF, 0⟩ env = ⟨2, 2, 0xFF, 0⟩ := by simp only [Boot.act, hsig]; rfl
  rw [run_step_two halarm hrom, go_stops halarm (by rw [hact]; decide), hact]

section Signature
variable (hsig : env.sigOk = true)
include hsig

theorem run_version (hsvn : env.svnOk = false) : Boot.run env = ⟨2, 3, 0xFF, 0⟩ := by
  have hact : Boot.act ⟨2, 0, 0xFF, 0⟩ env = ⟨2, 3, 0xFF, 0⟩ := by simp only [Boot.act, hsig, hsvn]; rfl
  rw [run_step_two halarm hrom, go_stops halarm (by rw [hact]; decide), hact]

section Version
variable (hsvn : env.svnOk = true)
include hsvn

theorem run_step_three : Boot.run env = Boot.go env 7 ⟨3, 0, 0xFF, 0⟩ := by
  have hact : Boot.act ⟨2, 0, 0xFF, 0⟩ env = ⟨2, 0, 0xFF, 0⟩ := by simp only [Boot.act, hsig, hsvn]; rfl
  rw [run_step_two halarm hrom, go_steps halarm (by rw [hact]) (by rw [hact]; decide), hact]

theorem run_fuses (hfuses : env.fusesOk = false) : Boot.run env = ⟨3, 4, 0xFF, 0⟩ := by
  have hact : Boot.act ⟨3, 0, 0xFF, 0⟩ env = ⟨3, 4, 0xFF, 0⟩ := by simp only [Boot.act, hfuses]; rfl
  rw [run_step_three halarm hrom hsig hsvn, go_stops halarm (by rw [hact]; decide), hact]

section Fuses
variable (hfuses : env.fusesOk = true)
include hfuses

theorem run_step_four : Boot.run env = Boot.go env 6 ⟨4, 0, 0xFF, 0⟩ := by
  have hact : Boot.act ⟨3, 0, 0xFF, 0⟩ env = ⟨3, 0, 0xFF, 0⟩ := by simp only [Boot.act, hfuses]; rfl
  rw [run_step_three halarm hrom hsig hsvn, go_steps halarm (by rw [hact]) (by rw [hact]; decide), hact]

theorem run_stacks (hstk : env.stkFail = 0xFFFF) : Boot.run env = ⟨4, 5, 0, 0⟩ := by
  have hact : Boot.act ⟨4, 0, 0xFF, 0⟩ env = ⟨4, 5, 0, 0⟩ := by simp only [Boot.act, hstk]; decide
  rw [run_step_four halarm hrom hsig hsvn hfuses, go_stops halarm (by rw [hact]; decide), hact]

/-- One stack of die 5 fails: bring-up goes on without that die. -/
theorem run_degraded (hstk : env.stkFail = 0x0400) (hd2d : env.d2dFail = 0) (hfab : env.fabFail = 0) (hcfg : env.cfgFail = 0) :
    Boot.run env = ⟨9, 0, 0xDF, 0xFBFF⟩ := by
  have h4 : Boot.act ⟨4, 0, 0xFF, 0⟩ env = ⟨4, 0, 0xDF, 0xFBFF⟩ := by simp only [Boot.act, hstk]; decide
  have h5 : Boot.act ⟨5, 0, 0xDF, 0xFBFF⟩ env = ⟨5, 0, 0xDF, 0xFBFF⟩ := by simp only [Boot.act, hd2d]; decide
  have h6 : Boot.act ⟨6, 0, 0xDF, 0xFBFF⟩ env = ⟨6, 0, 0xDF, 0xFBFF⟩ := rfl
  have h7 : Boot.act ⟨7, 0, 0xDF, 0xFBFF⟩ env = ⟨7, 0, 0xDF, 0xFBFF⟩ := by simp only [Boot.act, hfab]; decide
  have h8 : Boot.act ⟨8, 0, 0xDF, 0xFBFF⟩ env = ⟨8, 0, 0xDF, 0xFBFF⟩ := by simp only [Boot.act, hcfg]; decide
  have h9 : Boot.act ⟨9, 0, 0xDF, 0xFBFF⟩ env = ⟨9, 0, 0xDF, 0xFBFF⟩ := rfl
  rw [run_step_four halarm hrom hsig hsvn hfuses, go_steps halarm (by rw [h4]) (by rw [h4]; decide), h4,
    go_steps halarm (by rw [h5]) (by rw [h5]; decide), h5, go_steps halarm (by rw [h6]) (by rw [h6]; decide), h6,
    go_steps halarm (by rw [h7]) (by rw [h7]; decide), h7, go_steps halarm (by rw [h8]) (by rw [h8]; decide), h8,
    go_ends halarm (by rw [h9]), h9]

end Fuses
end Version
end Signature
end Rom
end Steps

/-! ## A cold reset -/

/-- The module behind the steps, before the alarms of bring-up. -/
def bootState (s : State) (env : BringUp) : State :=
  let b := Boot.run env
  let links := b.links env
  let good := b.err == 0
  let chip := { State.reset.chip with
    bootstat := bootWord (!good) false b.step b.err b.dieok b.stkok
    modnum := env.modnum
    links := links
    peers := peersOf env.modnum links
    idKey := if good then some (Config.identityKey s.free) else none
    grantKey := if good then some (Config.freeKey s.free) else none }
  { State.reset with agenda := s.agenda, free := s.free + 1, mem := { State.reset.mem with host := s.mem.host }, chip := chip }

theorem logEvent_closed {d : Nat} (h : (s.die d).errlog.getLsbD 63 = false) (code : Nat) (dom run site aux addr : Option Nat) :
    s.logEvent d code dom run site aux addr = s.modDie d fun x => { x with errLost := x.errLost + 1 } := by
  unfold State.logEvent
  dsimp only
  exact if_pos (by rw [h]; rfl)

/-- An alarm of level 1 finds no error log and is counted as lost. -/
theorem coldReset_boot (s : State) (halarm : env.alarm = none) : ∃ ds, s.coldReset env = { bootState s env with dies := ds } := by
  have hlog : ∃ ds, (bootState s env).logAlarm 0 1 = { bootState s env with dies := ds } := by
    have hdie : (bootState s env).die 0 = Die.reset := rfl
    rw [State.logAlarm, logEvent_closed (by rw [hdie]; decide)]
    exact ⟨_, rfl⟩
  rw [State.coldReset, halarm]
  dsimp only
  split
  · split
    · exact hlog
    · exact ⟨_, rfl⟩
  · exact ⟨_, rfl⟩

/-- A step that fails halts bring-up with its error, and no key is drawn. -/
theorem coldReset_halts (s : State) (halarm : env.alarm = none) {step err dieok stkok : Nat} (hrun : Boot.run env = ⟨step, err, dieok, stkok⟩)
    (herr : err ≠ 0) (hstep : step < 16) (herr' : err < 256) :
    ∃ t, exec (.coldReset env) s = .next t ∧ bootHalt t.chip.bootstat = true ∧ t.ready = false
      ∧ fld t.chip.bootstat 35 32 = step ∧ fld t.chip.bootstat 31 24 = err ∧ t.chip.idKey = none ∧ t.chip.grantKey = none ∧ t.runs = [] := by
  obtain ⟨ds, hds⟩ := coldReset_boot s halarm
  have hbad : (err == 0) = false := beq_eq_false_iff_ne.mpr herr
  have hboot : (bootState s env).chip.bootstat = bootWord true false step err dieok stkok := by
    simp only [bootState, hrun, hbad, Bool.not_false]
  have hkeys : (bootState s env).chip.idKey = none ∧ (bootState s env).chip.grantKey = none := by
    simp only [bootState, hrun, hbad, Bool.false_eq_true, ↓reduceIte, and_self]
  obtain ⟨hhalt, hready, hstep', herr''⟩ := bootWord_fields true false step err dieok stkok
  rw [← hboot] at hhalt hready hstep' herr''
  exact ⟨_, congrArg Host.Outcome.next hds, hhalt, hready, hstep'.trans (Nat.mod_eq_of_lt hstep), herr''.trans (Nat.mod_eq_of_lt herr'), hkeys.1,
    hkeys.2, rfl⟩

/-- Bring-up that has come to its last step leaves the module empty, with its keys. -/
theorem coldReset_boots (s : State) (halarm : env.alarm = none) {dieok stkok : Nat} (hrun : Boot.run env = ⟨9, 0, dieok, stkok⟩) :
    ∃ t, exec (.coldReset env) s = .next t ∧ t.chip.bootstat = bootWord false false 9 0 dieok stkok ∧ t.chip.idKey ≠ none ∧ t.chip.grantKey ≠ none
      ∧ t.chip.sessKey = none ∧ t.runs = [] ∧ t.adm.ctxs = [] ∧ t.ord.accs = [] ∧ t.mem.hbm = [] ∧ t.mem.store = [] ∧ t.chip.modnum = env.modnum := by
  obtain ⟨ds, hds⟩ := coldReset_boot s halarm
  have hboot : (bootState s env).chip.bootstat = bootWord false false 9 0 dieok stkok := by
    simp only [bootState, hrun, beq_self_eq_true, Bool.not_true]
  have hid : (bootState s env).chip.idKey = some (Config.identityKey s.free) := by
    simp only [bootState, hrun, beq_self_eq_true, ↓reduceIte]
  have hgrant : (bootState s env).chip.grantKey = some (Config.freeKey s.free) := by
    simp only [bootState, hrun, beq_self_eq_true, ↓reduceIte]
  exact ⟨_, congrArg Host.Outcome.next hds, hboot, hid ▸ Option.some_ne_none _, hgrant ▸ Option.some_ne_none _, rfl, rfl, rfl, rfl, rfl, rfl, rfl⟩

/-! ## The ready token (25 R393) -/

/-- The word of the ready token: dies and links in service. -/
def readyWord (s : State) : W64 := BitVec.ofNat 64 ((fld s.chip.bootstat 23 16 + 2 ^ 8 * s.linksUp) * 2 ^ 14)

theorem readyToken_waits (hbase : fld (s.ring 0 0) 63 12 = 0) : s.readyToken = s := if_pos (.inr (.inr (.inr hbase)))

theorem readyToken_posts (hready : bootReady s.chip.bootstat = false) (hhalt : bootHalt s.chip.bootstat = false)
    (hstep : fld s.chip.bootstat 35 32 = 9) (hbase : fld (s.ring 0 0) 63 12 ≠ 0) :
    s.readyToken = { s.postEntry 0 0 (readyWord s) 0 with
    chip := { (s.postEntry 0 0 (readyWord s) 0).chip with bootstat := s.chip.bootstat ||| 0x1000000000 } } := by
  refine if_neg ?_
  rw [hready, hhalt, hstep]
  simp [hbase]

theorem readyWord_toNat (h : s.linksUp < 64) : (readyWord s).toNat % 2 ^ 46 = (fld s.chip.bootstat 23 16 + 256 * s.linksUp) * 2 ^ 14 := by
  have hfld : fld s.chip.bootstat 23 16 < 2 ^ 8 := Nat.mod_lt _ (by decide)
  rw [readyWord, BitVec.toNat_ofNat]
  omega

/-- The first half of an entry is its token. -/
theorem cellRead_entry {m : List Host.Cell} (h : Memory.wf m = true) (v : BitVec 128) (tok : W64) (identity : Nat) :
    cellRead (cellWrite m (entryAt v) (entryOf v tok identity)) (entryAt v) 8 = natBytes 8 (tok.toNat % 2 ^ 46) := by
  have hread := cellRead_cellWrite (entryAt v) (entryOf v tok identity) h
  have hlen : (entryOf v tok identity).length = 16 := by simp only [entryOf, List.length_append, length_natBytes]
  have hhalf (cells : List Host.Cell) (a : Nat) : cellRead cells a 8 = (cellRead cells a 16).take 8 := by
    rw [cellRead_eq_map, cellRead_eq_map, ← List.map_take, List.take_range]
    rfl
  rw [hlen] at hread
  rw [hhalf, hread, entryOf, List.take_left' (length_natBytes 8 _)]

theorem ready_set (b : W64) : bootReady (b ||| 0x1000000000) = true := by
  rw [bootReady, BitVec.getLsbD_or]
  simp

/-- Settles O29: what reset holds is written out in it; bring-up step by step; the ready token by the law of ring entries. -/
theorem resetAndBringUp : Obligations.ResetAndBringUp := by
  unfold Obligations.ResetAndBringUp
  refine ⟨⟨reset_safe, rfl, rfl, rfl, rfl, fun _ => rfl, fun _ _ => rfl, fun _ => rfl, fun k hk => ?_, rfl, rfl, rfl, rfl, rfl, rfl, rfl, rfl, rfl,
    rfl, rfl, fun d => ?_⟩, ?_, ?_⟩
  · exact ⟨Link.reset, List.getElem?_replicate_of_lt hk, rfl, rfl⟩
  · have hdie : State.reset.die d = Die.reset := by
      show (List.replicate 8 Die.reset).getD d Die.reset = _
      rw [List.getD_eq_getElem?_getD, List.getElem?_replicate]
      split <;> rfl
    rw [hdie]
    exact ⟨rfl, rfl⟩
  · intro s env halarm ends
    refine ⟨fun hrom => coldReset_halts s halarm (run_rom halarm hrom) (by decide) (by decide) (by decide),
      fun hrom hsig => coldReset_halts s halarm (run_signature halarm hrom hsig) (by decide) (by decide) (by decide),
      fun hrom hsig hsvn => coldReset_halts s halarm (run_version halarm hrom hsig hsvn) (by decide) (by decide) (by decide),
      fun hrom hsig hsvn => ⟨fun hfuses => coldReset_halts s halarm (run_fuses halarm hrom hsig hsvn hfuses) (by decide) (by decide) (by decide),
        fun hfuses => ⟨fun hstk => coldReset_halts s halarm (run_stacks halarm hrom hsig hsvn hfuses hstk) (by decide) (by decide) (by decide),
          fun hstk hd2d hfab hcfg => coldReset_boots s halarm (run_degraded halarm hrom hsig hsvn hfuses hstk hd2d hfab hcfg)⟩⟩⟩
  · intro s hready hhalt hstep hsafe hlinks v
    refine ⟨fun hbase => ?_, fun hbase => congrArg Host.Outcome.next (readyToken_waits hbase)⟩
    obtain ⟨hhost, hhead, hhbm⟩ := postEntry_posts (s := s) 0 0 (readyWord s) 0
    refine ⟨_, congrArg Host.Outcome.next (readyToken_posts hready hhalt hstep hbase), ready_set _, hhead, ?_, hhbm, rfl⟩
    refine (congrArg (fun m => cellRead m (entryAt v) 8) hhost).trans ?_
    rw [cellRead_entry (safe_iff.mp hsafe).2.1, readyWord_toNat hlinks]

end Sys2Proof.Proofs.BringUps
end

section
/-! Link training and the check of a grant (24 R384, R385, 21 R355; O30). -/

namespace Sys2Proof.Proofs.LinkTraining
open Sys2Proof.Machine Sys2Proof.Laws Sys2Proof.Proofs.Alarms Sys2Proof.Proofs.HostRegisters
open Sys2Proof.Proofs.Engines (mem_insertNew)

variable {s : State}

/-! ## LNKSTAT (24 R384) -/

theorem linkWord_bytes (peer up circ : Nat) (quar lock : Bool) (reason st : Nat) :
    fld (linkWord peer up circ quar lock reason st) 7 4 = reason % 16 ∧ fld (linkWord peer up circ quar lock reason st) 19 16 = circ % 16
      ∧ fld (linkWord peer up circ quar lock reason st) 31 24 = peer % 256 := by
  unfold linkWord
  simp only [fld, BitVec.toNat_ofNat, Nat.shiftRight_eq_div_pow]
  cases quar
  · cases lock
    · simp only [Bool.false_eq_true, ↓reduceIte]
      omega
    · simp only [Bool.false_eq_true, ↓reduceIte]
      omega
  · cases lock
    · simp only [Bool.false_eq_true, ↓reduceIte]
      omega
    · simp only [↓reduceIte]
      omega

/-! ## Training (24 R384, R385) -/

/-- Lane groups that a training starts from. -/
def candidates (l : Link) : Nat := if 1 ≤ linkState l.stat ∧ linkState l.stat ≤ 4 then linkUp l.stat else 15

theorem candidates_lt (l : Link) : candidates l < 16 := by
  unfold candidates
  split
  · exact Nat.mod_lt _ (by decide)
  · decide

/-- Lane groups that come up. -/
def trained (l : Link) (p : LinkPeer) : Nat := Nat.land p.lanes.toNat (candidates l)

theorem trained_lt (l : Link) (p : LinkPeer) : trained l p < 16 := Nat.and_lt_two_pow (n := 4) _ (candidates_lt l)

/-- What the three outcomes of a training leave. -/
theorem train_eq (l : Link) (p : LinkPeer) : l.train p =
    if !p.present ∨ trained l p = 0 then { l with stat := linkWord 0 0 0 (linkQuar l.stat) (linkLock l.stat) 1 0 }
    else if !p.sameDomain then { l with stat := linkWord p.modnum.toNat 0 0 (linkQuar l.stat) (linkLock l.stat) 2 0 }
    else { l with
      stat := linkWord p.modnum.toNat (trained l p) (circuitGroups l.circ.toNat p.circ.toNat (trained l p)) (linkQuar l.stat) (linkLock l.stat) 0 5
      credits := 64 } := rfl

theorem train_fails {l : Link} {p : LinkPeer} (h : p.present = false ∨ trained l p = 0) :
    (l.train p).stat = linkWord 0 0 0 (linkQuar l.stat) (linkLock l.stat) 1 0 := by
  have hcond : (!p.present) = true ∨ trained l p = 0 := h.imp_left fun h => by rw [h]; rfl
  rw [train_eq, if_pos hcond]

section Partner
variable {l : Link} {p : LinkPeer} (hpresent : p.present = true) (hup : trained l p ≠ 0)
include hpresent hup

theorem partnerTrains : ¬((!p.present) = true ∨ trained l p = 0) := by
  rw [hpresent]
  simp [hup]

theorem train_stranger (hdom : p.sameDomain = false) :
    (l.train p).stat = linkWord p.modnum.toNat 0 0 (linkQuar l.stat) (linkLock l.stat) 2 0 := by
  rw [train_eq, if_neg (partnerTrains hpresent hup), if_pos (by rw [hdom]; rfl)]

theorem train_up (hdom : p.sameDomain = true) : (l.train p).stat = linkWord p.modnum.toNat (trained l p)
    (circuitGroups l.circ.toNat p.circ.toNat (trained l p)) (linkQuar l.stat) (linkLock l.stat) 0 5 := by
  rw [train_eq, if_neg (partnerTrains hpresent hup), if_neg (by rw [hdom]; exact Bool.false_ne_true)]

end Partner

/-- Quarantine and lock outlive a training. -/
theorem train_keeps (l : Link) (p : LinkPeer) : linkQuar (l.train p).stat = linkQuar l.stat ∧ linkLock (l.train p).stat = linkLock l.stat := by
  rw [train_eq]
  split
  · exact (linkWord_fields ..).2.2
  · split
    · exact (linkWord_fields ..).2.2
    · exact (linkWord_fields ..).2.2

theorem circuitGroups_lt (mine theirs : Nat) {up : Nat} (h : up < 16) : circuitGroups mine theirs up < 16 := by
  have hland : Nat.land (Nat.land mine theirs) up < 16 := Nat.and_lt_two_pow (n := 4) _ h
  unfold circuitGroups
  dsimp only
  split
  · omega
  · exact hland

theorem circuitGroups_eq (mine theirs up : Nat) :
    (Nat.land (Nat.land mine theirs) up ≠ up → circuitGroups mine theirs up = Nat.land (Nat.land mine theirs) up)
      ∧ (Nat.land (Nat.land mine theirs) up = up → circuitGroups mine theirs up = up - lowestBit up) := by
  unfold circuitGroups
  refine ⟨fun h => if_neg h, fun h => ?_⟩
  dsimp only
  rw [if_pos h, h]

theorem linkTrain_link? {k : Nat} {l : Link} (h : s.link? k = some l) (p : LinkPeer) : (s.linkTrain k p).link? k = some (l.train p)
    ∧ (linkState (l.train p).stat = 5 → p.modnum ≠ s.chip.modnum → p.modnum.toNat ∈ (s.linkTrain k p).chip.peers) := by
  have hmod := link?_modLink h fun _ => l.train p
  unfold State.linkTrain
  rw [h]
  dsimp only
  split
  · exact ⟨hmod, fun _ _ => mem_insertNew _ _⟩
  · rename_i hno
    exact ⟨hmod, fun h5 hne => absurd ⟨h5, hne⟩ hno⟩

/-- Lane groups without one that fails. -/
def withoutGroup (l : Link) (g : Nat) : Nat := if (linkUp l.stat).testBit g then linkUp l.stat - 2 ^ g else linkUp l.stat

theorem withoutGroup_lt (l : Link) (g : Nat) : withoutGroup l g < 16 := by
  have hup : linkUp l.stat < 16 := Nat.mod_lt _ (by decide)
  unfold withoutGroup
  split
  · exact Nat.lt_of_le_of_lt (Nat.sub_le _ _) hup
  · exact hup

theorem trainTimeout_link? {k g : Nat} {l : Link} (h : s.link? k = some l) (hlo : 1 ≤ linkState l.stat) (hhi : linkState l.stat ≤ 4) (hg : g < 4) :
    ∃ m, (s.trainTimeout k g).link? k = some m
      ∧ (withoutGroup l g = 0 → m.stat = linkWord 0 0 0 (linkQuar l.stat) (linkLock l.stat) 1 0)
      ∧ (withoutGroup l g ≠ 0 →
        m.stat = linkWord (fld l.stat 31 24) (withoutGroup l g) 0 (linkQuar l.stat) (linkLock l.stat) 0 (linkState l.stat)) := by
  have hgroup : (if linkUp l.stat / 2 ^ g % 2 = 1 then linkUp l.stat - 2 ^ g else linkUp l.stat) = withoutGroup l g := by
    rw [withoutGroup, Nat.testBit_eq_decide_div_mod_eq]
    simp only [decide_eq_true_eq]
  have hin : ¬(linkState l.stat < 1 ∨ 4 < linkState l.stat ∨ 4 ≤ g) := by omega
  refine ⟨_, link?_modLink h _, fun hnone => ?_, fun hsome => ?_⟩
  · dsimp only
    rw [if_neg hin, hgroup, if_pos hnone]
  · dsimp only
    rw [if_neg hin, hgroup, if_neg hsome]

/-! ## The check of a grant (21 R355) -/

theorem grantCheck_noKey {f : Flit} {kind : FlitKind} {n : Nat} (h : s.chip.grantKey = none) : s.grantCheck f kind n = 1 := by
  rw [State.grantCheck, h]

section Grant
variable {f : Flit} {kind : FlitKind} {n : Nat} {key : BitVec 256} (hkey : s.chip.grantKey = some key)
include hkey

/-- Epochs that the token still holds for. -/
def epochsLeft (s : State) (f : Flit) : Nat := (fld f.grant 35 28 + 256 - s.grantEpoch) % 256

theorem grantCheck_mac (h : ¬grantMac key f.grant f.src.toNat s.chip.modnum.toNat = fld f.grant 27 0) : s.grantCheck f kind n = 1 := by
  rw [State.grantCheck, hkey]
  exact if_pos h

section Mac
variable (hmac : grantMac key f.grant f.src.toNat s.chip.modnum.toNat = fld f.grant 27 0)
include hmac

theorem grantCheck_epoch (h : ¬(1 ≤ epochsLeft s f ∧ epochsLeft s f ≤ 128)) : s.grantCheck f kind n = 2 := by
  rw [State.grantCheck, hkey]
  have hleft : epochsLeft s f < 1 ∨ 128 < epochsLeft s f := by omega
  exact (if_neg fun hne => hne hmac).trans (if_pos hleft)

theorem grantCheck_inEpoch (hlo : 1 ≤ epochsLeft s f) (hhi : epochsLeft s f ≤ 128) : s.grantCheck f kind n =
    if !f.grant.getLsbD kind.bit then 3
    else if f.addr.toNat < fld f.grant 55 36 * grantExtent f.grant
      ∨ fld f.grant 55 36 * grantExtent f.grant + grantExtent f.grant < f.addr.toNat + max n 1 then 4 else 0 := by
  rw [State.grantCheck, hkey]
  have hleft : ¬(epochsLeft s f < 1 ∨ 128 < epochsLeft s f) := by omega
  exact (if_neg fun hne => hne hmac).trans (if_neg hleft)

end Mac
end Grant

end Sys2Proof.Proofs.LinkTraining
end

section
/-! Requests of other modules (24 R388, 13 R281, 08 R165; O30). -/

namespace Sys2Proof.Proofs.LinkRequests
open Sys2Proof.Machine Sys2Proof.Laws

variable {s : State} {k : Nat} {f : Flit}

/-! ## Flits that reach the module (24 R388) -/

theorem receives_up {l : Link} (hl : s.link? k = some l) (hup : linkState l.stat = 5) (hdst : f.dst = s.chip.modnum) : s.receives k f = true := by
  rw [State.receives, hl, hdst]
  exact Bool.and_eq_true_iff.mpr ⟨beq_iff_eq.mpr hup, beq_self_eq_true _⟩

/-- Without waves that it meets an access goes on at once. -/
theorem unlessHeld_free {key : Nat} {write : Bool} (h : s.conflicts key write none = []) (go : State → State) :
    s.unlessHeld [(key, write)] go = go s := by
  have hyield : s.yieldTo [(key, write)] = some s := by
    rw [State.yieldTo, List.flatMap_singleton, h]
    rfl
  rw [State.unlessHeld, hyield]

section Received
variable (hrec : s.receives k f = true) {l : Link} (hl : s.link? k = some l)
include hrec hl

theorem serve_denied (hs : (linkQuar l.stat || linkLock l.stat) = false) {kind : FlitKind} {n : Nat} (hg : 2 ≤ s.grantCheck f kind n)
    (reply : Byte) (go : State → State) : s.serve k f reply kind n go = s.replyFlit reply f 2 (s.grantCheck f kind n) 0 0 := by
  unfold State.serve
  generalize s.grantCheck f kind n = r at hg
  obtain ⟨r, rfl⟩ : ∃ r', r = r' + 2 := ⟨r - 2, by omega⟩
  simp [hrec, hl, hs]

theorem atreq_shut (hs : (linkQuar l.stat || linkLock l.stat) = true) : s.atreq k f = s.replyFlit 6 f 2 5 0 0 := by
  rw [State.atreq]
  exact serve_shut hrec hl hs ..

theorem grnreq_shut (hs : (linkQuar l.stat || linkLock l.stat) = true) : s.grnreq k f = s.replyFlit 10 f 2 5 0 0 := by
  simp only [State.grnreq, hrec, hl, hs, Bool.not_true, Bool.false_eq_true, ↓reduceIte]

theorem grnreq_mints (hs : (linkQuar l.stat || linkLock l.stat) = false) : s.grnreq k f =
    s.replyFlit 10 f 0 0 12 (BitVec.ofNat 512 ((s.mint f.src.toNat (f.payload.setWidth 32) (f.payload.extractLsb' 32 32)).1.toNat
      + (s.mint f.src.toNat (f.payload.setWidth 32) (f.payload.extractLsb' 32 32)).2 * 2 ^ 64)) := by
  simp only [State.grnreq, hrec, hl, hs, Bool.not_true, Bool.false_eq_true, ↓reduceIte]

theorem msgFlit_shut (hs : (linkQuar l.stat || linkLock l.stat) = true) : s.msgFlit k f = s.replyFlit 8 f 2 5 0 0 := by
  simp only [State.msgFlit, hrec, hl, hs, Bool.not_true, Bool.false_eq_true, ↓reduceIte]

theorem msgFlit_group (hs : (linkQuar l.stat || linkLock l.stat) = false) (haop : f.aop ≠ 0) : s.msgFlit k f = s.groupFlit k f := by
  simp only [State.msgFlit, hrec, hl, hs, haop, Bool.not_true, Bool.false_eq_true, ne_eq, not_false_eq_true, ↓reduceIte]

/-- The first flit of a message stands among the arrivals. -/
theorem msgFlit_arrives (hs : (linkQuar l.stat || linkLock l.stat) = false) (haop : f.aop = 0) (haddr : f.addr = 0) :
    ∃ m, s.msgFlit k f = { s with eng := { s.eng with arrivals := s.eng.arrivals ++ [m] } }
      ∧ m.src = fld f.payload 31 0 ∧ m.dst = fld f.payload 63 32 % 65536 ∧ m.tag = f.payload.extractLsb' 64 32 ∧ m.len = fld f.payload 127 96
      ∧ m.bytes = [] ∧ m.poison = [] ∧ m.back = some f := by
  refine ⟨⟨((s.run? (fld f.payload 63 32 % 65536)).map (·.die)).getD 0, fld f.payload 31 0, fld f.payload 63 32 % 65536, f.payload.extractLsb' 64 32,
    fld f.payload 127 96, [], [], 0, false, 0, none, some f⟩, ?_, rfl, rfl, rfl, rfl, rfl, rfl, rfl⟩
  simp only [State.msgFlit, hrec, hl, hs, haop, haddr, Bool.not_true, Bool.false_eq_true, ne_eq, not_true_eq_false, ↓reduceIte]

end Received

/-! ## Groups (03 R43, 13 R293) -/

section Groups
variable (hmute : f.payload.getLsbD 20 = false)
include hmute

theorem groupFlit_join (haop : f.aop = 0x0E) :
    let r := s.joinHere (fld f.payload 63 32) (f.payload.getLsbD 21) (f.payload.setWidth 20)
    s.groupFlit k f = r.2.replyFlit 8 f 0 0 8
      (BitVec.ofNat 512 (r.1 + (((r.2.group? (f.payload.setWidth 20)).map (·.pass)).getD 0) * 2 ^ 32)) := by
  intro r
  have hop : f.aop.toNat = 0x0E := by rw [haop]; rfl
  simp only [State.groupFlit, hop, hmute, Bool.false_eq_true, ↓reduceIte]
  rfl

theorem groupFlit_part (haop : f.aop = 0x0F) :
    let r := s.partHere (fld f.payload 63 32) (f.payload.setWidth 20)
    s.groupFlit k f = r.2.replyFlit 8 f 0 0 8 (BitVec.ofNat 512 r.1) := by
  intro r
  have hop : f.aop.toNat = 0x0F := by rw [haop]; rfl
  simp only [State.groupFlit, hop, hmute, Bool.false_eq_true, ↓reduceIte, Nat.zero_mul, Nat.add_zero]
  rfl

theorem groupFlit_stranger (haop : f.aop = 0xE0) (hgroup : s.group? (f.payload.setWidth 20) = none) :
    s.groupFlit k f = s.replyFlit 8 f 0 0 8 6 := by
  have hop : f.aop.toNat = 0xE0 := by rw [haop]; rfl
  simp only [State.groupFlit, hop, hmute, hgroup, Option.map_none, Option.getD_none, Bool.false_eq_true, ↓reduceIte, Nat.zero_mul, Nat.add_zero]
  rfl

end Groups

/-! ## Writes (07 R128, 13 R281) -/

theorem bdiCode_lt (bs : List Byte) : bdiCode bs < 11 := by
  unfold bdiCode
  split
  · decide
  · split
    · decide
    · split
      · have htable : ∀ e ∈ bdiTable, e.1 < 11 := by decide
        exact htable _ (List.mem_of_find?_eq_some ‹_›)
      · decide

section Clear
variable {a : Nat} {bs : List Byte} (hpsn : s.poisoned a = false)
include hpsn

theorem codeBad_clear : s.codeBad a = false := (Bool.or_eq_false_iff.mp hpsn).2

theorem hbmWrite_clear : ∃ poison, (∀ x, x ∈ poison → x ∈ s.mem.poison) ∧ s.hbmWrite a bs = ({ s with mem := { s.mem with
    hbm := cellWrite s.mem.hbm a bs
    codes := cellSet s.mem.codes (a / 128) (BitVec.ofNat 8 (bdiCode (cellRead (cellWrite s.mem.hbm a bs) (a / 128 * 128) 128)))
    poison := poison } }, false) := by
  have hpass : ¬(s.poisoned a = true ∧ ¬(a % 64 = 0 ∧ bs.length = 64)) := by
    rw [hpsn]
    exact fun h => Bool.false_ne_true h.1
  refine ⟨if a % 64 = 0 ∧ bs.length = 64 then s.mem.poison.filter (· ≠ a / 64) else s.mem.poison, fun x hx => ?_, ?_⟩
  · split at hx
    · exact (List.mem_filter.mp hx).1
    · exact hx
  · rw [State.hbmWrite]
    simp only [if_neg hpass, codeBad_clear hpsn, Bool.false_eq_true, ↓reduceIte]

/-- What a write leaves is not poisoned, where it was not before. -/
theorem hbmWrite_unpoisoned (hsafe : s.Safe) : (s.hbmWrite a bs).1.poisoned a = false := by
  obtain ⟨poison, hsub, hwrite⟩ := hbmWrite_clear (bs := bs) hpsn
  rw [hwrite]
  refine Bool.or_eq_false_iff.mpr ⟨?_, ?_⟩
  · have hold := (Bool.or_eq_false_iff.mp hpsn).1
    rw [Bool.eq_false_iff, Ne, List.contains_iff_mem] at hold ⊢
    exact fun h => hold (hsub _ h)
  · refine decide_eq_false (Nat.not_le.mpr ?_)
    show (cellGet (cellSet s.mem.codes (a / 128) _) (a / 128)).toNat < 11
    rw [cellGet_cellSet _ _ _ (safe_iff.mp hsafe).2.2.2, if_pos rfl, BitVec.toNat_ofNat]
    exact Nat.lt_of_le_of_lt (Nat.mod_le _ _) (bdiCode_lt _)

end Clear

/-- A write that nothing stands against is what it leaves in HBM. -/
theorem storeBy_writes (w : Writer) {a : Nat} {bs : List Byte} (hpin : s.pinnedPhys a bs.length = false) (hpsn : s.poisoned a = false)
    (hmon : s.ord.monitors = []) :
    (s.storeBy w (.hbm a) bs).mem = (s.hbmWrite a bs).1.mem ∧ (s.storeBy w (.hbm a) bs).chip = s.chip
      ∧ (s.storeBy w (.hbm a) bs).runs = s.runs := by
  obtain ⟨poison, -, hwrite⟩ := hbmWrite_clear (bs := bs) hpsn
  have hmon' : (s.hbmWrite a bs).1.ord.monitors = [] := by rw [hwrite]; exact hmon
  have hreread : (s.hbmWrite a bs).1.rereadMonitors a bs.length = (s.hbmWrite a bs).1 := by
    rw [State.rereadMonitors, hmon']
    rfl
  have hat : s.writeAt (.hbm a) bs = ((s.hbmWrite a bs).1, false) := by
    have hok : (s.hbmWrite a bs).2 = false := by rw [hwrite]
    rw [State.writeAt]
    simp only [hok, hreread, Bool.false_eq_true, ↓reduceIte]
  have hkeep : (s.hbmWrite a bs).1.chip = s.chip ∧ (s.hbmWrite a bs).1.runs = s.runs := by
    rw [hwrite]
    exact ⟨rfl, rfl⟩
  have hpin' : s.pinnedAt (.hbm a) bs.length = false := hpin
  have hweight (u : State) (o : Line) (n : Line) (b : Bool) : (u.weightStore w.slot w.va (.hbm a) o n b).mem = u.mem
      ∧ (u.weightStore w.slot w.va (.hbm a) o n b).chip = u.chip ∧ (u.weightStore w.slot w.va (.hbm a) o n b).runs = u.runs := by
    unfold State.weightStore
    dsimp only
    split
    · exact ⟨rfl, rfl, rfl⟩
    · exact ⟨rfl, rfl, rfl⟩
  rw [State.storeBy]
  simp only [hpin', hat, Bool.false_eq_true, ↓reduceIte]
  generalize (s.hbmWrite a bs).1 = u at hkeep
  split
  · obtain ⟨hmem, hchip, hruns⟩ := hweight u (lineOf _) (lineOf bs) _
    exact ⟨hmem, hchip.trans hkeep.1, hruns.trans hkeep.2⟩
  · exact ⟨rfl, hkeep⟩

theorem storeBy_pinned {die slot va a : Nat} {site : Option Nat} {bs : List Byte} (hpin : s.pinnedPhys a bs.length = true) :
    s.storeBy ⟨die, slot, va, site, []⟩ (.hbm a) bs = s.logEvent die 0x311 none none site none (some va) := if_pos hpin

theorem storeBy_poisoned {die slot va a : Nat} {site : Option Nat} {bs : List Byte} (hpin : s.pinnedPhys a bs.length = false)
    (hpsn : s.poisoned a = true) (hlen : bs.length ≠ 64) :
    s.storeBy ⟨die, slot, va, site, []⟩ (.hbm a) bs = s.logEvent die 0x30D none none site none (some va) := by
  have hdrop : s.hbmWrite a bs = (s, true) := if_pos ⟨hpsn, fun h => hlen h.2⟩
  have hpin' : s.pinnedAt (.hbm a) bs.length = false := hpin
  have hat : s.writeAt (.hbm a) bs = (s, true) := by
    rw [State.writeAt]
    simp only [hdrop, ↓reduceIte]
  rw [State.storeBy]
  simp only [hpin', hat, Bool.false_eq_true, ↓reduceIte]
  rfl

/-! ## RDREQ and WRREQ -/

/-- The word of an access of `n` bytes that another module writes. -/
def flitStore (s : State) (f : Flit) : State :=
  s.storeBy ⟨homeDie f.addr.toNat, 256, f.addr.toNat, none, []⟩ (.hbm f.addr.toNat) (natBytes f.len.toNat f.payload.toNat)

/-- What an engine's write marks behind its bytes. -/
def engineMarks (u : State) (f : Flit) : State :=
  let u := if fld f.aop 7 4 = 15 ∧ f.aop.getLsbD 1 then u.markPoison f.addr.toNat else u
  if fld f.aop 7 4 = 15 ∧ f.aop.getLsbD 0 then u.setFull f.addr.toNat else u

theorem engineMarks_other (u : State) (h : fld f.aop 7 4 ≠ 15) : engineMarks u f = u := by
  simp only [engineMarks, h, false_and, ↓reduceIte]

theorem engineMarks_rest (u : State) : (engineMarks u f).mem.hbm = u.mem.hbm ∧ (engineMarks u f).chip = u.chip ∧ (engineMarks u f).runs = u.runs := by
  unfold engineMarks
  dsimp only
  split
  · split
    · exact ⟨rfl, rfl, rfl⟩
    · exact ⟨rfl, rfl, rfl⟩
  · split
    · exact ⟨rfl, rfl, rfl⟩
    · exact ⟨rfl, rfl, rfl⟩

theorem isFull_setFull (u : State) (a : Nat) : (u.setFull a).isFull a = true := by
  show (!(u.mem.notFull.filter (· ≠ a / 64)).contains (a / 64)) = true
  simp

theorem poisoned_markPoison (u : State) (a : Nat) : (u.markPoison a).poisoned a = true := by
  refine Bool.or_eq_true_iff.mpr (.inl ?_)
  exact List.contains_iff_mem.mpr (Engines.mem_insertNew _ _)

theorem engineMarks_marks (u : State) (h : fld f.aop 7 4 = 15) :
    (f.aop.getLsbD 0 = true → (engineMarks u f).isFull f.addr.toNat = true)
      ∧ (f.aop.getLsbD 1 = true → (engineMarks u f).poisoned f.addr.toNat = true) := by
  unfold engineMarks
  refine ⟨fun h0 => ?_, fun h1 => ?_⟩
  · rw [if_pos (c := _ ∧ f.aop.getLsbD 0 = true) ⟨h, h0⟩]
    exact isFull_setFull ..
  · rw [if_pos (c := _ ∧ f.aop.getLsbD 1 = true) ⟨h, h1⟩]
    dsimp only
    split
    · exact poisoned_markPoison u _
    · exact poisoned_markPoison u _

section Served
variable (hrec : s.receives k f = true) {l : Link} (hl : s.link? k = some l) (hs : (linkQuar l.stat || linkLock l.stat) = false)
include hrec hl hs

section Reads
variable (hg : s.grantCheck f .read f.len.toNat = 0) (hfree : s.conflicts (f.addr.toNat / 64) false none = [])
include hg hfree

theorem rdreq_waita (haop : f.aop = 0xC4) : s.rdreq k f = (s.noteCode none f.addr.toNat 4).waitaHome k f := by
  rw [State.rdreq, serve_go hrec hl hs hg]
  exact (unlessHeld_free hfree _).trans (if_pos haop)

theorem rdreq_empty (haop : f.aop = 0xB4) (hfull : s.isFull f.addr.toNat = false) : s.rdreq k f = s := by
  rw [State.rdreq, serve_go hrec hl hs hg]
  refine (unlessHeld_free hfree _).trans ((if_neg (by rw [haop]; decide)).trans (if_pos ⟨haop, ?_⟩))
  rw [hfull]
  rfl

theorem rdreq_reads (hwaita : f.aop ≠ 0xC4) (hsync : f.aop ≠ 0xB4 ∨ s.isFull f.addr.toNat = true) : s.rdreq k f =
    (s.noteCode none f.addr.toNat f.len.toNat).replyFlit 2 f (if s.poisoned f.addr.toNat then 3 else 0) 0 f.len.toNat
      (lineOf (s.hbmRead f.addr.toNat f.len.toNat)) := by
  rw [State.rdreq, serve_go hrec hl hs hg]
  refine (unlessHeld_free hfree _).trans ((if_neg hwaita).trans (if_neg fun h => ?_))
  rcases hsync with hsync | hsync
  · exact hsync h.1
  · rw [hsync] at h
    exact Bool.false_ne_true h.2

end Reads

section Writes
variable (hg : s.grantCheck f .write f.len.toNat = 0)
include hg

theorem wrreq_stores (hfree : s.conflicts (f.addr.toNat / 64) true none = []) (hlen : f.len.toNat ≠ 0) :
    s.wrreq k f = (engineMarks (flitStore s f) f).replyFlit 4 f 0 0 0 0 := by
  rw [State.wrreq, serve_go hrec hl hs hg]
  have hwrites : (f.len.toNat != 0) = true := bne_iff_ne.mpr hlen
  simp only [hwrites]
  refine (unlessHeld_free hfree _).trans ?_
  simp only [if_neg hlen]
  rfl

theorem wrreq_empties (hfree : s.conflicts (f.addr.toNat / 64) false none = []) (hlen : f.len.toNat = 0) (haop : fld f.aop 7 4 ≠ 15) :
    s.wrreq k f = (s.setEmpty f.addr.toNat).replyFlit 4 f 0 0 0 0 := by
  rw [State.wrreq, serve_go hrec hl hs hg]
  have hreads : (f.len.toNat != 0) = false := by rw [hlen]; rfl
  simp only [hreads]
  refine (unlessHeld_free hfree _).trans ?_
  simp only [hlen, haop, false_and, ↓reduceIte]

end Writes
end Served

theorem setEmpty_eq (a : Nat) : s.setEmpty a = if a / 64 ∈ s.mem.fullNow then s else
    { s with mem := { s.mem with notFull := insertNew (a / 64) s.mem.notFull } } := by
  rw [State.setEmpty]
  simp only [List.contains_iff_mem]

section Stores
variable (hpin : s.pinnedPhys f.addr.toNat f.len.toNat = false) (hpsn : s.poisoned f.addr.toNat = false) (hmon : s.ord.monitors = [])
include hpin hpsn hmon

theorem flitStore_writes : (flitStore s f).mem = (s.hbmWrite f.addr.toNat (natBytes f.len.toNat f.payload.toNat)).1.mem
    ∧ (flitStore s f).chip = s.chip ∧ (flitStore s f).runs = s.runs :=
  storeBy_writes _ (by rw [MemoryReads.length_natBytes]; exact hpin) hpsn hmon

theorem flitStore_mem : (flitStore s f).mem.hbm = cellWrite s.mem.hbm f.addr.toNat (natBytes f.len.toNat f.payload.toNat)
    ∧ (flitStore s f).mem.notFull = s.mem.notFull := by
  obtain ⟨hmem, -, -⟩ := flitStore_writes hpin hpsn hmon
  obtain ⟨poison, -, hwrite⟩ := hbmWrite_clear (bs := natBytes f.len.toNat f.payload.toNat) hpsn
  rw [hmem, hwrite]
  exact ⟨rfl, rfl⟩

theorem flitStore_unpoisoned (hsafe : s.Safe) : (flitStore s f).poisoned f.addr.toNat = false := by
  obtain ⟨hmem, -, -⟩ := flitStore_writes hpin hpsn hmon
  have hpsn' := hbmWrite_unpoisoned (bs := natBytes f.len.toNat f.payload.toNat) hpsn hsafe
  unfold State.poisoned State.codeBad State.codeOf at hpsn' ⊢
  rw [hmem]
  exact hpsn'

end Stores

theorem flitStore_pinned (hpin : s.pinnedPhys f.addr.toNat f.len.toNat = true) :
    flitStore s f = s.logEvent (homeDie f.addr.toNat) 0x311 none none none none (some f.addr.toNat) :=
  storeBy_pinned (by rw [MemoryReads.length_natBytes]; exact hpin)

theorem flitStore_poisoned (hpin : s.pinnedPhys f.addr.toNat f.len.toNat = false) (hpsn : s.poisoned f.addr.toNat = true) (hlen : f.len.toNat ≠ 64) :
    flitStore s f = s.logEvent (homeDie f.addr.toNat) 0x30D none none none none (some f.addr.toNat) :=
  storeBy_poisoned (by rw [MemoryReads.length_natBytes]; exact hpin) hpsn (by rw [MemoryReads.length_natBytes]; exact hlen)

/-! ## ATREQ (24 R388, 08 R165) -/

/-- Width of an atomic. -/
def atomicWidth (f : Flit) : Nat := if f.aop = 0xBB then 8 else 4

theorem atomicWidth_eq (f : Flit) : (if f.aop.toNat = 0xBB then 8 else 4) = atomicWidth f := by
  have h : f.aop = 0xBB ↔ f.aop.toNat = 0xBB := BitVec.toNat_eq
  simp only [atomicWidth, h]

theorem atomicWidth_le (f : Flit) : atomicWidth f = 4 ∨ atomicWidth f = 8 := by
  unfold atomicWidth
  split
  · exact .inr rfl
  · exact .inl rfl

/-- The operand of an atomic. -/
def atomicOperand (f : Flit) : W64 := BitVec.ofNat 64 (f.payload.toNat % 2 ^ (8 * atomicWidth f))

theorem atomicOperand_eq (f : Flit) : BitVec.ofNat 64 ((f.payload.setWidth 64).toNat % 2 ^ (8 * atomicWidth f)) = atomicOperand f := by
  have hwidth : 8 * atomicWidth f ≤ 64 := by
    have hw := atomicWidth_le f
    omega
  rw [atomicOperand, BitVec.toNat_setWidth, Nat.mod_mod_of_dvd _ (Nat.pow_dvd_pow 2 hwidth)]

/-- The old value in front of an atomic. -/
def atomicOld (u : State) (f : Flit) : Nat := bytesNat (cellRead u.mem.hbm f.addr.toNat (atomicWidth f))

theorem bytesNat_lt : ∀ bs : List Byte, bytesNat bs < 256 ^ bs.length
  | [] => by decide
  | b :: bs => by
    have ih := bytesNat_lt bs
    have hb : b.toNat < 256 := b.isLt
    show bytesNat bs * 256 + b.toNat < 256 ^ (bs.length + 1)
    rw [Nat.pow_succ]
    omega

theorem atomicOld_lt (u : State) (f : Flit) : atomicOld u f < 2 ^ 64 := by
  have hlen : (cellRead u.mem.hbm f.addr.toNat (atomicWidth f)).length = atomicWidth f := by
    rw [MemoryReads.cellRead_eq_map, List.length_map, List.length_range]
  have hlt := bytesNat_lt (cellRead u.mem.hbm f.addr.toNat (atomicWidth f))
  rw [hlen] at hlt
  refine Nat.lt_of_lt_of_le hlt ?_
  rcases atomicWidth_le f with h | h
  · rw [h]
    decide
  · rw [h]
    decide

/-- The new value behind an atomic. -/
def atomicNext (u : State) (f : Flit) : W64 :=
  (atomicNew f.aop.toNat (fld f.payload 135 128) (BitVec.ofNat 64 (atomicOld u f)) (atomicOperand f)
    (BitVec.ofNat 64 (f.payload.toNat / 2 ^ (8 * atomicWidth f) % 2 ^ (8 * atomicWidth f)))).1

/-- The point of a fetch-and-add at its home die. -/
def atomicMeet (s : State) (k : Nat) (f : Flit) : Option State :=
  s.meet (512 + homeDie f.addr.toNat) 256 f.addr.toNat f.aop.toNat f.nreq.toNat (.hbm f.addr.toNat) (.flit k f) (atomicOperand f) k

section Atomics
variable (hrec : s.receives k f = true) {l : Link} (hl : s.link? k = some l) (hs : (linkQuar l.stat || linkLock l.stat) = false)
include hrec hl hs

theorem atreq_denied (hg : 2 ≤ s.grantCheck f .atomic (atomicWidth f)) :
    s.atreq k f = s.replyFlit 6 f 2 (s.grantCheck f .atomic (atomicWidth f)) 0 0 := by
  rw [State.atreq]
  simp only [atomicWidth_eq]
  exact serve_denied hrec hl hs hg ..

theorem atreq_wakes (hg : s.grantCheck f .atomic 4 = 0) (haop : f.aop = 0xC5) : s.atreq k f =
    (s.wake f.addr.toNat (fld f.payload 127 64)).2.replyFlit 6 f 0 0 4 (BitVec.ofNat 512 (s.wake f.addr.toNat (fld f.payload 127 64)).1) := by
  have hop : f.aop.toNat = 0xC5 := by rw [haop]; rfl
  have hwidth : (if f.aop.toNat = 0xBB then 8 else 4) = 4 := if_neg (by rw [hop]; decide)
  rw [State.atreq]
  simp only [hwidth]
  rw [serve_go hrec hl hs hg]
  exact if_pos hop

variable (hg : s.grantCheck f .atomic (atomicWidth f) = 0)
include hg

theorem atreq_meets {t : State} (haop : f.aop = 0xBA ∨ f.aop = 0xBB) (hmeet : atomicMeet s k f = some t) : s.atreq k f = t := by
  have hop : f.aop.toNat = 0xBA ∨ f.aop.toNat = 0xBB := haop.imp (fun h => by rw [h]; rfl) fun h => by rw [h]; rfl
  have hwake : ¬f.aop.toNat = 0xC5 := by omega
  rw [atomicMeet] at hmeet
  rw [State.atreq]
  simp only [atomicWidth_eq]
  rw [serve_go hrec hl hs hg]
  simp only [hop, hwake, atomicOperand_eq, hmeet, ↓reduceIte]

/-- An atomic that meets no record performs at once. -/
theorem atreq_performs {u : State} (hwake : f.aop ≠ 0xC5) (hfree : s.conflicts (f.addr.toNat / 64) true none = [])
    (hmeet : f.aop = 0xBA ∨ f.aop = 0xBB → atomicMeet s k f = none) (hu : s.noteCode none f.addr.toNat (atomicWidth f) = u)
    (hpsn : u.poisoned f.addr.toNat = false) : s.atreq k f =
      (u.storeBy ⟨homeDie f.addr.toNat, 256, f.addr.toNat, none, []⟩ (.hbm f.addr.toNat) (natBytes (atomicWidth f) (atomicNext u f).toNat)).replyFlit
        6 f 0 0 (atomicWidth f) ((BitVec.ofNat 64 (atomicOld u f)).setWidth 512) := by
  have hwake' : ¬f.aop.toNat = 0xC5 := fun h => hwake (BitVec.eq_of_toNat_eq h)
  rw [atomicMeet] at hmeet
  rw [State.atreq]
  simp only [atomicWidth_eq]
  rw [serve_go hrec hl hs hg]
  simp only [hwake', atomicOperand_eq, ↓reduceIte, unlessHeld_free hfree, hu, hpsn, Bool.false_eq_true]
  by_cases hop : f.aop.toNat = 0xBA ∨ f.aop.toNat = 0xBB
  · have haop : f.aop = 0xBA ∨ f.aop = 0xBB := hop.imp (fun h => BitVec.eq_of_toNat_eq h) fun h => BitVec.eq_of_toNat_eq h
    simp only [hop, hmeet haop, ↓reduceIte]
    rfl
  · simp only [hop, ↓reduceIte]
    rfl

end Atomics

end Sys2Proof.Proofs.LinkRequests
end

section
/-! Replies to what asked another module (24 R388, 13 R293; O30). -/

namespace Sys2Proof.Proofs.LinkReplies
open Sys2Proof.Machine Sys2Proof.Laws Sys2Proof.Proofs.Alarms Sys2Proof.Proofs.HostRegisters Sys2Proof.Proofs.LinkTraining
open Sys2Proof.Proofs.LinkRequests

variable {s : State} {k : Nat} {f : Flit}

/-! ## Replies (24 R388) -/

/-- The tag is free again. -/
def untagged (s : State) (g : Tag) : State := { s with chip := { s.chip with tags := s.chip.tags.erase g } }

/-- The place of a GRANT element with the token and the status of its reply. -/
def grantAnswered (f : Flit) (i : OutItem) : List OutItem :=
  let c : Mark × Nat := match i.emits with
    | .tok _ x :: _ => (x.mark, x.chan)
    | _ => (.data, 0)
  let r := grantEmits c.1 c.2 (if f.stat = 2 then 0 else f.payload.setWidth 64) (if f.stat = 2 then 5 else fld f.payload 71 64)
  OutItem.twoParts r.1 r.2 i

section Outstanding
variable (hrec : s.receives k f = true) {g : Tag}
  (htag : (s.chip.tags.find? fun t => t.tag == f.tag.toNat && t.modn == f.src.toNat) = some g)

section Tagged
include hrec htag

theorem reply_tagged (go : Tag → State → State) : s.reply k f go = go g (untagged s g) := reply_go hrec htag go

theorem wrack_host {id : Nat} (hwhat : g.what = .host id) : s.wrack k f = (untagged s g).hostAdvance id := by
  rw [State.wrack, reply_tagged hrec htag, hwhat]

theorem wrack_ewrite {id : Nat} (hwhat : g.what = .ewrite id) : s.wrack k f = (untagged s g).ewriteAnswer id f := by
  rw [State.wrack, reply_tagged hrec htag, hwhat]

theorem grnrsp_answers {e : ElemRef} {rid n : Nat} (hgrant : g.grant = some (e, rid, n)) :
    s.grnrsp k f = (untagged s g).onItem e rid (grantAnswered f) := by
  rw [State.grnrsp, reply_tagged hrec htag, hgrant]
  rfl

theorem relFlit_releases {e : ElemRef} {rid : Nat} (hwhat : g.what = .place e rid) :
    s.relFlit k f = (untagged s g).releasePlace e rid (fld f.payload 63 32) := by
  rw [State.relFlit, reply_tagged hrec htag, hwhat]

omit hrec in
theorem sumWaits_other (hwhat : ∀ run, g.what ≠ .sum run) : s.sumWaits f = false := by
  rw [State.sumWaits, htag]
  dsimp only
  split
  · exact absurd ‹_› (hwhat _)
  · rfl

theorem msgack_send {id : Nat} {q : Req} (hwhat : g.what = .acc id) (hreq : s.req? id = some q) :
    s.msgack k f = (untagged s g).statusReq q (if f.stat = 2 then 5 else fld f.payload 7 0) := by
  have hreq' : (untagged s g).req? id = some q := hreq
  rw [State.msgack, sumWaits_other htag (by rw [hwhat]; exact fun _ => Requester.noConfusion), if_neg Bool.false_ne_true,
    reply_tagged hrec htag]
  simp only [hwhat, hreq']

theorem msgack_group {id : Nat} (hwhat : g.what = .group id) : s.msgack k f = (untagged s g).groupAnswer id f := by
  rw [State.msgack, sumWaits_other htag (by rw [hwhat]; exact fun _ => Requester.noConfusion), if_neg Bool.false_ne_true,
    reply_tagged hrec htag]
  simp only [hwhat]

theorem msgack_refused {e : ElemRef} {rid : Nat} (hwhat : g.what = .place e rid) (hstat : f.stat ≠ 2) :
    s.msgack k f = (untagged s g).arrivalRefused e rid := by
  rw [State.msgack, sumWaits_other htag (by rw [hwhat]; exact fun _ => Requester.noConfusion), if_neg Bool.false_ne_true,
    reply_tagged hrec htag]
  simp only [hwhat, hstat, ↓reduceIte]

end Tagged

/-! ### The access of a reply -/

section Accesses
variable {id : Nat} (hwhat : g.what = .acc id) {c : Access} (hacc : s.acc? id = some c)

section AccessReply
include hwhat hacc

theorem replyAcc_denied (hstat : f.stat = 2) (go : Access → State → State) :
    (untagged s g).replyAcc g f go = (untagged s g).faultAcc c .grantdeny 0 f.reason.toNat 0 := by
  have hacc' : (untagged s g).acc? id = some c := hacc
  simp only [State.replyAcc, hwhat, hacc', hstat, ↓reduceIte]

theorem replyAcc_go (hstat : f.stat ≠ 2) (go : Access → State → State) : (untagged s g).replyAcc g f go = go c (untagged s g) := by
  have hacc' : (untagged s g).acc? id = some c := hacc
  simp only [State.replyAcc, hwhat, hacc', hstat, ↓reduceIte]

end AccessReply

include hrec htag hwhat hacc

theorem rdrsp_denied (hstat : f.stat = 2) : s.rdrsp k f = (untagged s g).faultAcc c .grantdeny 0 f.reason.toNat 0 := by
  rw [State.rdrsp, reply_tagged hrec htag]
  simp only [hwhat]
  exact replyAcc_denied hwhat hacc hstat _

theorem wrack_denied (hstat : f.stat = 2) : s.wrack k f = (untagged s g).faultAcc c .grantdeny 0 f.reason.toNat 0 := by
  rw [State.wrack, reply_tagged hrec htag]
  simp only [hwhat]
  exact replyAcc_denied hwhat hacc hstat _

theorem atrsp_denied (hstat : f.stat = 2) : s.atrsp k f = (untagged s g).faultAcc c .grantdeny 0 f.reason.toNat 0 := by
  rw [State.atrsp, reply_tagged hrec htag]
  simp only [hwhat]
  exact replyAcc_denied hwhat hacc hstat _

variable (hstat : f.stat ≠ 2)
include hstat

theorem rdrsp_loads (hwaita : c.kind ≠ .waita) (hatomic : ∀ x, c.kind ≠ .atomic x) (hwave : c.wave = none) :
    s.rdrsp k f = (untagged s g).loadDone c (natBytes c.width f.payload.toNat) (f.stat = 3) := by
  rw [State.rdrsp, reply_tagged hrec htag]
  simp only [hwhat]
  refine (replyAcc_go hwhat hacc hstat _).trans ?_
  split
  · exact absurd ‹_› hwaita
  · exact absurd ‹_› (hatomic _)
  · simp only [hwave]

theorem rdrsp_overlays (hwaita : c.kind ≠ .waita) (hatomic : ∀ x, c.kind ≠ .atomic x) {x : Nat} {p : Place} (hwave : c.wave = some x)
    (hplace : c.place = some p) : s.rdrsp k f = (untagged s g).loadDone c
      ((untagged s g).overlay c.blk x (placeKey p) (placeOff p) (natBytes c.width f.payload.toNat)) (f.stat = 3) := by
  rw [State.rdrsp, reply_tagged hrec htag]
  simp only [hwhat]
  refine (replyAcc_go hwhat hacc hstat _).trans ?_
  split
  · exact absurd ‹_› hwaita
  · exact absurd ‹_› (hatomic _)
  · simp only [hwave, hplace]

theorem rdrsp_atomic {x y : Nat} {p : Place} (hkind : c.kind = .atomic x) (hwave : c.wave = some y) (hplace : c.place = some p) :
    s.rdrsp k f = (untagged s g).waveAtomic c y (placeKey p) (placeOff p) (natBytes c.width f.payload.toNat) (f.stat = 3) := by
  rw [State.rdrsp, reply_tagged hrec htag]
  simp only [hwhat]
  refine (replyAcc_go hwhat hacc hstat _).trans ?_
  simp only [hkind, hwave, hplace]

theorem rdrsp_waita (hkind : c.kind = .waita) (hdone : f.stat = 3 ∨ fld f.payload 63 32 ≠ 2) :
    s.rdrsp k f = (untagged s g).waitaDone c (f.payload.setWidth 32) (f.stat = 3) (fld f.payload 63 32) := by
  rw [State.rdrsp, reply_tagged hrec htag]
  simp only [hwhat]
  refine (replyAcc_go hwhat hacc hstat _).trans ?_
  simp only [hkind]
  exact if_pos hdone

theorem wrack_done (hdone : c.kind = .sete ∨ ∀ m x y, c.place = some (.remote m x y) → (c.afterRun (x % 64)).enable = 0) :
    s.wrack k f = (untagged s g).doneToken c := by
  rw [State.wrack, reply_tagged hrec htag]
  simp only [hwhat]
  refine (replyAcc_go hwhat hacc hstat _).trans ?_
  split
  · rfl
  · rename_i b m x y hmore
    exfalso
    split at hmore
    · rename_i m' x' y' hplace
      have hend : (c.kind == AccKind.sete || (c.afterRun (x' % 64)).enable == 0) = true := by
        rw [Bool.or_eq_true, beq_iff_eq, beq_iff_eq]
        exact hdone.imp_right fun h => h m' x' y' hplace
      rw [if_pos hend] at hmore
      cases hmore
    · cases hmore

theorem atrsp_wakea (hkind : c.kind = .wakea) : s.atrsp k f = (untagged s g).wakeaDone c (f.payload.toNat % 2 ^ 32) := by
  rw [State.atrsp, reply_tagged hrec htag]
  simp only [hwhat]
  refine (replyAcc_go hwhat hacc hstat _).trans ((if_pos hkind).trans ?_)
  rw [BitVec.toNat_setWidth, Nat.mod_mod_of_dvd _ (Nat.pow_dvd_pow 2 (by decide))]

theorem atrsp_atomic (hkind : c.kind ≠ .wakea) : s.atrsp k f = (untagged s g).atomDone c
    (if c.width = 4 then ((f.payload.setWidth 64).setWidth 32).setWidth 64 else f.payload.setWidth 64) (f.stat == 1) (f.stat == 3) := by
  rw [State.atrsp, reply_tagged hrec htag]
  simp only [hwhat]
  exact (replyAcc_go hwhat hacc hstat _).trans (if_neg hkind)

end Accesses
end Outstanding

theorem creditFlit_returns (hrec : s.receives k f = true) :
    s.creditFlit k f = s.modLink k fun l => { l with credits := min 64 (l.credits + f.nreq.toNat) } := if_pos hrec

end Sys2Proof.Proofs.LinkReplies
end

section
/-! O30: links and flits. -/

namespace Sys2Proof.Proofs.LinksOfFlits
open Sys2Proof.Machine Sys2Proof.Laws Sys2Proof.Proofs.Alarms Sys2Proof.Proofs.HostRegisters Sys2Proof.Proofs.LinkTraining
open Sys2Proof.Proofs.LinkRequests Sys2Proof.Proofs.LinkReplies

variable {s : State} {k : Nat} {f : Flit}

theorem link_trains {l : Link} (hl : s.link? k = some l) (p : LinkPeer) :
    let up := trained l p
    ∃ t m, exec (.linkTrain k p) s = .next t ∧ t.link? k = some m ∧ linkQuar m.stat = linkQuar l.stat ∧ linkLock m.stat = linkLock l.stat
      ∧ (p.present = false ∨ up = 0 → linkState m.stat = 0 ∧ fld m.stat 7 4 = 1)
      ∧ (p.present = true → up ≠ 0 → p.sameDomain = false → linkState m.stat = 0 ∧ fld m.stat 7 4 = 2)
      ∧ (p.present = true → up ≠ 0 → p.sameDomain = true → linkState m.stat = 5 ∧ linkUp m.stat = up ∧ fld m.stat 31 24 = p.modnum.toNat
        ∧ (p.modnum ≠ s.chip.modnum → p.modnum.toNat ∈ t.chip.peers)
        ∧ let both := Nat.land (Nat.land l.circ.toNat p.circ.toNat) up
          (both ≠ up → fld m.stat 19 16 = both) ∧ (both = up → fld m.stat 19 16 = up - lowestBit up)) := by
  intro up
  obtain ⟨hlink, hpeers⟩ := linkTrain_link? hl p
  obtain ⟨hquar, hlock⟩ := train_keeps l p
  refine ⟨_, l.train p, rfl, hlink, hquar, hlock, fun hno => ?_, fun hpresent hup hdom => ?_, fun hpresent hup hdom => ?_⟩
  · rw [train_fails hno]
    exact ⟨(linkWord_fields ..).1, (linkWord_bytes ..).1⟩
  · rw [train_stranger hpresent hup hdom]
    exact ⟨(linkWord_fields ..).1, (linkWord_bytes ..).1⟩
  · have hstat := train_up hpresent hup hdom
    obtain ⟨hstate, hups, -, -⟩ := linkWord_fields p.modnum.toNat up (circuitGroups l.circ.toNat p.circ.toNat up) (linkQuar l.stat) (linkLock l.stat)
      0 5
    obtain ⟨-, hcirc, hpeer⟩ := linkWord_bytes p.modnum.toNat up (circuitGroups l.circ.toNat p.circ.toNat up) (linkQuar l.stat) (linkLock l.stat) 0 5
    have hlt : up < 16 := trained_lt l p
    have hcirc' := hcirc.trans (Nat.mod_eq_of_lt (circuitGroups_lt l.circ.toNat p.circ.toNat hlt))
    obtain ⟨hboth, hall⟩ := circuitGroups_eq l.circ.toNat p.circ.toNat up
    refine ⟨by rw [hstat]; exact hstate, by rw [hstat]; exact hups.trans (Nat.mod_eq_of_lt hlt),
      by rw [hstat]; exact hpeer.trans (Nat.mod_eq_of_lt p.modnum.isLt), hpeers (by rw [hstat]; exact hstate), ?_⟩
    rw [hstat]
    exact ⟨fun h => hcirc'.trans (hboth h), fun h => hcirc'.trans (hall h)⟩

theorem link_retries {g : Nat} {l : Link} (hl : s.link? k = some l) (hlo : 1 ≤ linkState l.stat) (hhi : linkState l.stat ≤ 4) (hg : g < 4) :
    ∃ t m, exec (.trainingStepTimeout k g) s = .next t ∧ t.link? k = some m
      ∧ (withoutGroup l g = 0 → linkState m.stat = 0 ∧ fld m.stat 7 4 = 1)
      ∧ (withoutGroup l g ≠ 0 → linkUp m.stat = withoutGroup l g ∧ linkState m.stat = linkState l.stat) := by
  obtain ⟨m, hm, hnone, hsome⟩ := trainTimeout_link? hl hlo hhi hg
  refine ⟨_, m, rfl, hm, fun h => ?_, fun h => ?_⟩
  · rw [hnone h]
    exact ⟨(linkWord_fields ..).1, (linkWord_bytes ..).1⟩
  · rw [hsome h]
    obtain ⟨hstate, hup, -, -⟩ := linkWord_fields (fld l.stat 31 24) (withoutGroup l g) 0 (linkQuar l.stat) (linkLock l.stat) 0 (linkState l.stat)
    exact ⟨hup.trans (Nat.mod_eq_of_lt (withoutGroup_lt l g)), hstate.trans (Nat.mod_eq_of_lt (by omega))⟩

theorem setWidth_of_lt {n : Nat} (h : n < 2 ^ 64) : (BitVec.ofNat 64 n).setWidth 512 = BitVec.ofNat 512 n := by
  refine BitVec.eq_of_toNat_eq ?_
  simp only [BitVec.toNat_setWidth, BitVec.toNat_ofNat]
  omega

section Served
variable (hrec : s.receives k f = true) {l : Link} (hl : s.link? k = some l) (hs : (linkQuar l.stat || linkLock l.stat) = false)
include hrec hl hs

theorem wrreq_writes (hg : s.grantCheck f .write f.len.toNat = 0) (hfree : s.conflicts (f.addr.toNat / 64) true none = []) (hlen : f.len.toNat ≠ 0)
    (hpin : s.pinnedPhys f.addr.toNat f.len.toNat = false) (hpsn : s.poisoned f.addr.toNat = false) (hmon : s.ord.monitors = []) (hsafe : s.Safe) :
    ∃ t, exec (.wrreq k f) s = .next t ∧ t.mem.hbm = cellWrite s.mem.hbm f.addr.toNat (natBytes f.len.toNat f.payload.toNat)
      ∧ t.chip.flits = (s.replyFlit 4 f 0 0 0 0).chip.flits ∧ t.runs = s.runs
      ∧ (fld f.aop 7 4 = 15 → (f.aop.getLsbD 0 = true → t.isFull f.addr.toNat = true) ∧ (f.aop.getLsbD 1 = true → t.poisoned f.addr.toNat = true))
      ∧ (fld f.aop 7 4 ≠ 15 → t.mem.notFull = s.mem.notFull ∧ t.poisoned f.addr.toNat = false) := by
  obtain ⟨hhbm, hfull⟩ := flitStore_mem hpin hpsn hmon
  obtain ⟨-, hchip, hruns⟩ := flitStore_writes hpin hpsn hmon
  obtain ⟨hhbm', hchip', hruns'⟩ := engineMarks_rest (f := f) (flitStore s f)
  refine ⟨_, congrArg Host.Outcome.next (wrreq_stores hrec hl hs hg hfree hlen), hhbm'.trans hhbm, ?_, hruns'.trans hruns,
    engineMarks_marks (flitStore s f), fun haop => ?_⟩
  · rw [State.replyFlit, State.sendFlit, hchip'.trans hchip]
    rfl
  · rw [engineMarks_other _ haop]
    exact ⟨hfull, flitStore_unpoisoned hpin hpsn hmon hsafe⟩

theorem atreq_leaves {u : State} (hg : s.grantCheck f .atomic (atomicWidth f) = 0) (hwake : f.aop ≠ 0xC5)
    (hfree : s.conflicts (f.addr.toNat / 64) true none = []) (hmeet : f.aop = 0xBA ∨ f.aop = 0xBB → atomicMeet s k f = none)
    (hu : s.noteCode none f.addr.toNat (atomicWidth f) = u) (hpsn : u.poisoned f.addr.toNat = false)
    (hpin : u.pinnedPhys f.addr.toNat (atomicWidth f) = false) (hmon : u.ord.monitors = []) :
    ∃ t, exec (.atreq k f) s = .next t ∧ t.mem.hbm = cellWrite u.mem.hbm f.addr.toNat (natBytes (atomicWidth f) (atomicNext u f).toNat)
      ∧ t.chip.flits = (u.replyFlit 6 f 0 0 (atomicWidth f) (BitVec.ofNat 512 (atomicOld u f))).chip.flits := by
  have hlen : (natBytes (atomicWidth f) (atomicNext u f).toNat).length = atomicWidth f := MemoryReads.length_natBytes ..
  obtain ⟨hmem, hchip, -⟩ := storeBy_writes ⟨homeDie f.addr.toNat, 256, f.addr.toNat, none, []⟩
    (bs := natBytes (atomicWidth f) (atomicNext u f).toNat) (by rw [hlen]; exact hpin) hpsn hmon
  obtain ⟨poison, -, hwrite⟩ := hbmWrite_clear (bs := natBytes (atomicWidth f) (atomicNext u f).toNat) hpsn
  refine ⟨_, congrArg Host.Outcome.next (atreq_performs hrec hl hs hg hwake hfree hmeet hu hpsn), ?_, ?_⟩
  · show (State.storeBy u _ _ _).mem.hbm = _
    rw [hmem, hwrite]
  · rw [setWidth_of_lt (atomicOld_lt u f), State.replyFlit, State.sendFlit, hchip]
    rfl

end Served

/-- Settles O30: training by the words it leaves, requests by the checks of `serve`, replies by the tag that they free. -/
theorem linksAndFlits : Obligations.LinksAndFlits := by
  unfold Obligations.LinksAndFlits
  refine ⟨fun s k l p hl => link_trains hl p, fun s k g l hl hlo hhi hg => link_retries hl hlo hhi hg, fun s k g => ⟨rfl, rfl, rfl⟩, ?grant, ?flits⟩
  case grant =>
    intro s f kind n
    refine ⟨grantCheck_noKey, ?_⟩
    intro key hkey mac left base inside
    refine ⟨grantCheck_mac hkey, fun hmac => grantCheck_epoch hkey hmac, fun hmac hlo hhi hbit => ?_, fun hmac hlo hhi hbit => ?_⟩
    · rw [grantCheck_inEpoch hkey hmac hlo hhi, if_pos (by rw [hbit]; rfl)]
    · rw [grantCheck_inEpoch hkey hmac hlo hhi, if_neg (by rw [hbit]; exact Bool.false_ne_true)]
      refine ⟨fun hin => if_neg ?_, fun hout => if_pos ?_⟩
      · show ¬(f.addr.toNat < base ∨ base + grantExtent f.grant < f.addr.toNat + max n 1)
        omega
      · show f.addr.toNat < base ∨ base + grantExtent f.grant < f.addr.toNat + max n 1
        omega
  case flits =>
    intro s k f l hl hup hdst answer a n w
    have hrec := receives_up hl hup hdst
    refine ⟨fun hshut => ?_, fun hquar hlock => ?_, fun g id htag => ?_, congrArg Host.Outcome.next (creditFlit_returns hrec)⟩
    · have hs : (linkQuar l.stat || linkLock l.stat) = true := Bool.or_eq_true_iff.mpr hshut
      simp only [List.forall_mem_cons, List.not_mem_nil, false_imp_iff, implies_true, and_true]
      exact ⟨congrArg Host.Outcome.next (serve_shut hrec hl hs ..), congrArg Host.Outcome.next (serve_shut hrec hl hs ..),
        congrArg Host.Outcome.next (atreq_shut hrec hl hs), congrArg Host.Outcome.next (msgFlit_shut hrec hl hs),
        congrArg Host.Outcome.next (grnreq_shut hrec hl hs)⟩
    · have hs : (linkQuar l.stat || linkLock l.stat) = false := Bool.or_eq_false_iff.mpr ⟨hquar, hlock⟩
      refine ⟨?_, fun hg hfree => ⟨fun hwaita hsync => congrArg Host.Outcome.next (rdreq_reads hrec hl hs hg hfree hwaita hsync),
        fun haop hfull => congrArg Host.Outcome.next (rdreq_empty hrec hl hs hg hfree haop hfull),
        fun haop => congrArg Host.Outcome.next (rdreq_waita hrec hl hs hg hfree haop)⟩, fun hsafe hg hfree hlen hpin hpsn hmon => ?_,
        fun hg hfree hlen haop => ⟨fun hpin => ?_, fun hpin hpsn hlen' => ?_⟩, fun hg hfree hlen haop => ?_,
        fun hg hwake hfree hmeet => ?_, fun t hg haop hmeet => congrArg Host.Outcome.next (atreq_meets hrec hl hs hg haop hmeet),
        fun hg haop => congrArg Host.Outcome.next (atreq_wakes hrec hl hs hg haop), fun haop haddr => ?_,
        fun hmute => ⟨fun haop => ?_, fun haop => ?_,
        fun haop hgroup => ?_⟩, congrArg Host.Outcome.next (grnreq_mints hrec hl hs)⟩
      · simp only [List.forall_mem_cons, List.not_mem_nil, false_imp_iff, implies_true, and_true]
        exact ⟨fun hg => congrArg Host.Outcome.next (serve_denied hrec hl hs hg ..),
          fun hg => congrArg Host.Outcome.next (serve_denied hrec hl hs hg ..),
          fun hg => congrArg Host.Outcome.next (atreq_denied hrec hl hs hg)⟩
      · exact wrreq_writes hrec hl hs hg hfree hlen hpin hpsn hmon hsafe
      · have hstore := wrreq_stores hrec hl hs hg hfree hlen
        rw [engineMarks_other _ haop, flitStore_pinned hpin] at hstore
        exact congrArg Host.Outcome.next hstore
      · have hstore := wrreq_stores hrec hl hs hg hfree hlen
        rw [engineMarks_other _ haop, flitStore_poisoned hpin hpsn hlen'] at hstore
        exact congrArg Host.Outcome.next hstore
      · have hempty := wrreq_empties hrec hl hs hg hfree hlen haop
        rw [setEmpty_eq] at hempty
        exact congrArg Host.Outcome.next hempty
      · intro u hpsn hpin hmon old new
        have hu : s.noteCode none f.addr.toNat (atomicWidth f) = u := rfl
        clear_value u
        exact atreq_leaves hrec hl hs hg hwake hfree hmeet hu hpsn hpin hmon
      · obtain ⟨m, hm, hrest⟩ := msgFlit_arrives hrec hl hs haop haddr
        exact ⟨m, congrArg Host.Outcome.next hm, hrest⟩
      · exact congrArg Host.Outcome.next ((msgFlit_group hrec hl hs (by rw [haop]; decide)).trans (groupFlit_join hmute haop))
      · exact congrArg Host.Outcome.next ((msgFlit_group hrec hl hs (by rw [haop]; decide)).trans (groupFlit_part hmute haop))
      · exact congrArg Host.Outcome.next ((msgFlit_group hrec hl hs (by rw [haop]; decide)).trans (groupFlit_stranger hmute haop hgroup))
    · intro u
      refine ⟨fun c hwhat hacc => ⟨fun hstat => ?_, fun hstat => ⟨fun hwaita hatomic => ⟨fun hwave => ?_, fun x p hwave hplace => ?_⟩,
        fun x y p hkind hwave hplace => congrArg Host.Outcome.next (rdrsp_atomic hrec htag hwhat hacc hstat hkind hwave hplace),
        fun hkind hdone => congrArg Host.Outcome.next (rdrsp_waita hrec htag hwhat hacc hstat hkind hdone),
        fun hdone => congrArg Host.Outcome.next (wrack_done hrec htag hwhat hacc hstat hdone),
        fun hkind => congrArg Host.Outcome.next (atrsp_wakea hrec htag hwhat hacc hstat hkind), fun hkind hwidth => ?_, fun hkind hwidth => ?_⟩⟩,
        fun hwhat => congrArg Host.Outcome.next (wrack_host hrec htag hwhat), fun hwhat => congrArg Host.Outcome.next (wrack_ewrite hrec htag hwhat),
        fun q hwhat hreq => congrArg Host.Outcome.next (msgack_send hrec htag hwhat hreq),
        fun hwhat => congrArg Host.Outcome.next (msgack_group hrec htag hwhat),
        fun e rid hwhat => ⟨congrArg Host.Outcome.next (relFlit_releases hrec htag hwhat),
          fun hstat => congrArg Host.Outcome.next (msgack_refused hrec htag hwhat hstat)⟩,
        fun e rid n hgrant => (congrArg Host.Outcome.next (grnrsp_answers hrec htag hgrant)).trans rfl⟩
      · simp only [List.forall_mem_cons, List.not_mem_nil, false_imp_iff, implies_true, and_true]
        exact ⟨congrArg Host.Outcome.next (rdrsp_denied hrec htag hwhat hacc hstat),
          congrArg Host.Outcome.next (wrack_denied hrec htag hwhat hacc hstat),
          congrArg Host.Outcome.next (atrsp_denied hrec htag hwhat hacc hstat)⟩
      · exact congrArg Host.Outcome.next (rdrsp_loads hrec htag hwhat hacc hstat hwaita hatomic hwave)
      · exact congrArg Host.Outcome.next (rdrsp_overlays hrec htag hwhat hacc hstat hwaita hatomic hwave hplace)
      · have hdone := atrsp_atomic hrec htag hwhat hacc hstat hkind
        rw [if_neg (by omega)] at hdone
        exact congrArg Host.Outcome.next hdone
      · have hdone := atrsp_atomic hrec htag hwhat hacc hstat hkind
        rw [if_pos hwidth, BitVec.setWidth_setWidth_of_le f.payload (by decide : 32 ≤ 64)] at hdone
        exact congrArg Host.Outcome.next hdone

end Sys2Proof.Proofs.LinksOfFlits
end
